-- ==== Sys2Proof/Word.lean ====
section
/-! DEFINITION. The word types of the Oluvi-96 and the sparse maps its large arrays are held in. -/

-- One definition at a time: elaborated side by side, the package as one text takes more memory than a check has.
set_option Elab.async false

namespace Sys2Proof

/-- One byte of memory (R9). -/
abbrev Byte := BitVec 8

/-- A 64-bit value: an A register, a semaphore, a doubleword of a descriptor (R14, R40). -/
abbrev Word := BitVec 64

/-- A parcel address: the byte address divided by 4 (R15, R76). -/
abbrev Parcel := BitVec 50

/-- One slice of the register window: 4 bits in each of the 512 lanes; lane `l` holds bits
`[4l+3:4l]` (R16, R17). -/
abbrev Slice := BitVec 2048

/-- One bit per lane: a predicate register, or a lane mask (R25). -/
abbrev Pred := BitVec 512

/-- A vector as it travels between memory, queues and operands: 512 lane patterns, lane 0 first, each
zero-extended to 64 bits (R17, R27). -/
abbrev Vec := List Word

/-- A sparse array: pairs of index and value, indexes strictly rising. What an unlisted index holds is
said where the array is declared. -/
abbrev SMap (α : Type) := List (Nat × α)

end Sys2Proof
end

