-- ==== Sys2Proof/Syntax.lean ====
section
/-! DEFINITION. The instruction set as syntax: one constructor per row of the opcode table, each carrying the fields of its
format (R87, R92, R98). Field names are the manual's; `md` is mod, `ty` is type, `imm` and `off` are the immediates, `kk` is K. -/

namespace Sys2Proof

/-- Three-register A format (R87). -/
structure AR where
  fn : BitVec 8
  d : BitVec 6
  a : BitVec 6
  b : BitVec 6
  c : BitVec 6
  deriving DecidableEq, Repr

/-- Immediate A format (R87). -/
structure AI where
  fn : BitVec 8
  d : BitVec 6
  a : BitVec 6
  imm : BitVec 64
  deriving DecidableEq, Repr

/-- Memory A format (R87, R88). -/
structure AM where
  size : BitVec 2
  sx : BitVec 1
  scope : BitVec 3
  hint : BitVec 2
  d : BitVec 6
  base : BitVec 6
  index : BitVec 6
  shift : BitVec 2
  off : BitVec 48
  deriving DecidableEq, Repr

/-- Branch A format (R87, R89). -/
structure AB where
  cc : BitVec 8
  a : BitVec 6
  b : BitVec 6
  off : BitVec 48
  deriving DecidableEq, Repr

/-- Copy and barrier A format (R87, R90). -/
structure AC where
  fn : BitVec 8
  gd : BitVec 10
  gs : BitVec 10
  d : BitVec 6
  a : BitVec 6
  b : BitVec 6
  ext : BitVec 6
  bar : BitVec 11
  scope : BitVec 3
  acq : BitVec 1
  rel : BitVec 1
  hnd : BitVec 1
  wash : BitVec 1
  opt : BitVec 4
  deriving DecidableEq, Repr

/-- Semaphore form of the AC format (R87). -/
structure AQ where
  fn : BitVec 8
  sem : BitVec 12
  d : BitVec 6
  a : BitVec 6
  b : BitVec 6
  scope : BitVec 3
  acq : BitVec 1
  rel : BitVec 1
  deriving DecidableEq, Repr

/-- System A format (R87, R91). -/
structure AS where
  fn : BitVec 8
  d : BitVec 6
  a : BitVec 6
  b : BitVec 6
  obj : BitVec 12
  imm : BitVec 48
  deriving DecidableEq, Repr

/-- Three-operand X format (R92). -/
structure XV3 where
  k : BitVec 4
  d : BitVec 17
  a : BitVec 17
  b : BitVec 17
  md : BitVec 12
  ty : BitVec 4
  rnd : BitVec 3
  sat : BitVec 1
  sgn : BitVec 2
  reuse : BitVec 2
  dead : BitVec 2
  fn : BitVec 7
  deriving DecidableEq, Repr

/-- Four-operand X format (R92). -/
structure XV4 where
  k : BitVec 4
  d : BitVec 17
  a : BitVec 17
  b : BitVec 17
  c : BitVec 17
  ty : BitVec 4
  rnd : BitVec 3
  sat : BitVec 1
  sgn : BitVec 2
  dead : BitVec 3
  fn : BitVec 3
  deriving DecidableEq, Repr

/-- Immediate X format (R92). -/
structure XI where
  k : BitVec 4
  d : BitVec 17
  a : BitVec 17
  imm : BitVec 32
  ty : BitVec 4
  rnd : BitVec 3
  sat : BitVec 1
  fn : BitVec 10
  deriving DecidableEq, Repr

/-- X control format (R92). -/
structure XC where
  k : BitVec 4
  fn : BitVec 8
  lc : BitVec 2
  csrc : BitVec 2
  q : BitVec 3
  count : BitVec 32
  off : BitVec 32
  deriving DecidableEq, Repr

/-- Matrix command format (R98). -/
structure MC where
  ms : BitVec 3
  ga : BitVec 10
  gb : BitVec 10
  ca : BitVec 5
  cb : BitVec 5
  ct : BitVec 5
  kk : BitVec 16
  acc : BitVec 3
  mtype : BitVec 4
  mrnd : BitVec 3
  msat : BitVec 1
  ta : BitVec 1
  tb : BitVec 1
  cfn : BitVec 21
  deriving DecidableEq, Repr

/-- Matrix system format (R98). -/
structure MS where
  fn : BitVec 8
  creg : BitVec 5
  imm : BitVec 64
  deriving DecidableEq, Repr

/-- An instruction word, or a step of an engine, the service die, the fabric or the host. -/
inductive Instr where
  | add (w : AR)
  | sub (w : AR)
  | addi (w : AI)
  | mul (w : AR)
  | mulh (w : AR)
  | mulhn (w : AR)
  | div (w : AR)
  | divn (w : AR)
  | rem (w : AR)
  | remn (w : AR)
  | and (w : AR)
  | or (w : AR)
  | xor (w : AR)
  | andn (w : AR)
  | shl (w : AR)
  | shr (w : AR)
  | sra (w : AR)
  | rol (w : AR)
  | ror (w : AR)
  | clz (w : AR)
  | ctz (w : AR)
  | popc (w : AR)
  | min (w : AR)
  | max (w : AR)
  | minn (w : AR)
  | maxn (w : AR)
  | sel (w : AR)
  | slt (w : AR)
  | sltn (w : AR)
  | seq (w : AR)
  | li (w : AI)
  | bfx (w : AI)
  | bfi (w : AI)
  | adds (w : AR)
  | b (w : AB)
  | j (w : AB)
  | jal (w : AB)
  | jr (w : AR)
  | bqp (w : AB)
  | fin (w : AR)
  | nop (w : AR)
  | ld (w : AM)
  | st (w : AM)
  | lds (w : AM)
  | sts (w : AM)
  | ldx (w : AC)
  | stx (w : AC)
  | gath (w : AC)
  | scat (w : AC)
  | pref (w : AM)
  | fence (w : AR)
  | cpy (w : AC)
  | cpyvIn (w : AC)
  | cpyvOut (w : AC)
  | cpyb (w : AC)
  | cpyx (w : AC)
  | sbind (w : AC)
  | sdrop (w : AC)
  | gdef (w : AC)
  | gset (w : AC)
  | gget (w : AC)
  | falloc (w : AC)
  | faddref (w : AC)
  | fdrop (w : AC)
  | pseal (w : AC)
  | bxp (w : AC)
  | barv (w : AC)
  | bwt (w : AC)
  | btst (w : AC)
  | bbnd (w : AC)
  | bubd (w : AC)
  | bfwd (w : AC)
  | sadd (w : AQ)
  | scas (w : AQ)
  | smax (w : AQ)
  | sxch (w : AQ)
  | srd (w : AQ)
  | swt (w : AQ)
  | inkq (w : AS)
  | inkr (w : AS)
  | trap (w : AS)
  | tret (w : AS)
  | csrr (w : AS)
  | csrw (w : AS)
  | tsc (w : AS)
  | parkBar (w : AS)
  | parkSem (w : AS)
  | parkMbx (w : AS)
  | parkInk (w : AS)
  | yield (w : AS)
  | lgo (w : AS)
  | lpatch (w : AS)
  | qentLaunch (w : AS)
  | qentCopy (w : AS)
  | qentSem (w : AS)
  | qentHirq (w : AS)
  | mbxr (w : AS)
  | mbxs (w : AS)
  | hirq (w : AS)
  | preempt (w : AS)
  | proofStart (w : AS)
  | proofAbort (w : AS)
  | sampm (w : AS)
  | vadd (w : XV3)
  | vsub (w : XV3)
  | vmul (w : XV3)
  | vmulh (w : XV3)
  | vmad (w : XV4)
  | vdot4 (w : XV4)
  | vdot8 (w : XV4)
  | vmin (w : XV3)
  | vmax (w : XV3)
  | vabs (w : XV3)
  | vabsd (w : XV3)
  | vneg (w : XV3)
  | vavg (w : XV3)
  | vshl (w : XV3)
  | vshr (w : XV3)
  | vsra (w : XV3)
  | vrsh (w : XV3)
  | vand (w : XV3)
  | vor (w : XV3)
  | vxor (w : XV3)
  | vandn (w : XV3)
  | vnot (w : XV3)
  | vpopc (w : XV3)
  | vclz (w : XV3)
  | vsel (w : XV4)
  | vcmp (w : XV3)
  | vclamp (w : XV4)
  | vfadd (w : XV3)
  | vfsub (w : XV3)
  | vfmul (w : XV3)
  | vfma (w : XV4)
  | vfms (w : XV4)
  | vfnma (w : XV4)
  | vfmin (w : XV3)
  | vfmax (w : XV3)
  | vfabs (w : XV3)
  | vfneg (w : XV3)
  | vfcmp (w : XV3)
  | vfclass (w : XV3)
  | vrcp (w : XV3)
  | vrsq (w : XV3)
  | vsqrt (w : XV3)
  | vdiv (w : XV3)
  | vexp2 (w : XV3)
  | vlog2 (w : XV3)
  | vfscl (w : XV3)
  | vcvt (w : XV3)
  | vcvte (w : XV4)
  | vqmx (w : XV3)
  | vdqmx (w : XV3)
  | vamax (w : XV3)
  | eset (w : XI)
  | esetImm (w : XI)
  | eget (w : XI)
  | vperm (w : XV3)
  | vbcst (w : XV3)
  | vzip (w : XV3)
  | vunzip (w : XV3)
  | vpack (w : XV3)
  | vunpk (w : XV3)
  | vlsh (w : XI)
  | vmov (w : XV3)
  | vmovi (w : XI)
  | vbf2 (w : XV4)
  | vbf4 (w : XV4)
  | vtwg (w : XI)
  | vcmul (w : XV3)
  | vcmac (w : XV4)
  | vred (w : XV3)
  | vscan (w : XV3)
  | vrsum (w : XV3)
  | kand (w : XI)
  | kor (w : XI)
  | kxor (w : XI)
  | knot (w : XI)
  | ksetLt (w : XI)
  | ksetGe (w : XI)
  | ksetMod (w : XI)
  | kmov (w : XI)
  | kmovFromv (w : XI)
  | kmovTov (w : XI)
  | loop (w : XC)
  | loopr (w : XC)
  | xb (w : XC)
  | xbk (w : XC)
  | xj (w : XC)
  | xfin (w : XC)
  | vdead (w : XI)
  | vpush (w : XI)
  | lease (w : MS)
  | lfree (w : MS)
  | mma (w : MC)
  | mmaz (w : MC)
  | mmb (w : MC)
  | mmi (w : MC)
  | mclr (w : MC)
  | mld (w : MC)
  | mst (w : MC)
  | madd (w : MC)
  | mscl (w : MC)
  | mset (w : MS)
  | minc (w : MS)
  | mrep (w : MS)
  | mfence (w : MS)
  | mbarv (w : MS)
  | mfin (w : MS)
  | mnop (w : MS)
  /-- R169. Applies a forwarded arrival of the forwarding barrier's target bytes at the target barrier. -/
  | forwardedArrival
  /-- R21. An X result lands in its slices, predicate or scale register, reviving slices and setting flags. -/
  | xLanding
  /-- R138. A load returns and writes its destination register or queue entry. -/
  | loadReturn
  /-- R370. A lasting load error is delivered at the first reader of the destination or at section retirement. -/
  | uncorrectableLoadDelivery
  /-- R254. A VPUSH entry arrives in its aq at p + 5. -/
  | vpushArrival
  /-- R141. The data of an LDX or GATH entry arrive in its xq place. -/
  | xqEntryArrival
  /-- R158. A stream-register engine fetches and buffers a vector through its operator chain. -/
  | streamVectorFetch
  /-- R152. A copy chunk lands its bytes and makes one arrival at its barrier. -/
  | copyChunkLanding
  /-- R261. An array command completes its writes and leaves the command list, setting its flags. -/
  | matrixCommandComplete
  /-- R265. A matrix fetch faults, the command stops at a boundary and a record is posted. -/
  | matrixFetchFault
  /-- R264. The array finds a failing glyph, stops starting commands and stops the M stream. -/
  | matrixGlyphInvalid
  /-- R258. At a release, the array grants waiting lease requests whose masks are free. -/
  | leaseGrant
  /-- R82. A stream decodes a header, begins a section instance and evaluates its waits. -/
  | headerEntry
  /-- R82. The waits of a stalled header hold and the section starts issuing. -/
  | headerWaitRelease
  /-- R83. A left section retires once its loads, copies, landings or commands are done. -/
  | sectionRetirement
  /-- R341. The X engine chooses a ready stream and issues its word. -/
  | xIssue
  /-- R350. A trap stops the task's streams and captures the pending writes. -/
  | trapDelivery
  /-- R359. A trap of a Rubricator word enters its handler or halts the Rubricator. -/
  | rubricatorTrap
  /-- R353. A captured pending write lands at c prime plus r after the X stream resumes. -/
  | pendingWriteReplay
  /-- R362. The service die writes a record into the ring, counts it and steps the notice semaphore. -/
  | faultRecordPost
  /-- R363. An answer that reissues the trapping word or retries the faulting engine operation. -/
  | answerResume
  /-- R363. An answer that resumes a task as TRET.SKIP does. -/
  | answerSkip
  /-- R363. An answer that ends the task faulted. -/
  | answerEnd
  /-- R363. An answer that discards, poisons or abandons the engine operation. -/
  | answerAbandon
  /-- R181. A task parked or waiting for wd.limit cycles traps with WATCHDOG. -/
  | watchdogExpiry
  /-- R180. A parked task's condition holds when tested and the task runs or becomes runnable. -/
  | taskUnpark
  /-- R336. A waiting task's last barrier wait is reached, it acquires and becomes runnable. -/
  | taskWaitsReached
  /-- R339. A core places runnable tasks into free slots and windows in priority order. -/
  | taskPlacement
  /-- R368. A placed task's context is loaded and its lease, copies, bindings and writes resume. -/
  | contextLoadComplete
  /-- R337. When every task of an arming has ended, CINC is added to CSEM as a release. -/
  | armingCompletion
  /-- R365. The drain ends with every stream stopped and every copy landed, and the squash begins. -/
  | preemptDrainEnd
  /-- R365. pre.drain microseconds pass and the squash begins. -/
  | preemptDrainTimeout
  /-- R368. The context save ends, the slot is freed and a kind 6 record is posted. -/
  | preemptSaveComplete
  /-- R188. A LAUNCH head whose waits hold arms its entry and leaves the queue. -/
  | queueLaunchAction
  /-- R188. A COPY head whose waits hold issues its copy and leaves the queue. -/
  | queueCopyAction
  /-- R188. A SEM head whose waits hold performs its semaphore step as a release. -/
  | queueSemAction
  /-- R188. A HIRQ head whose waits hold raises its host interrupt. -/
  | queueHirqAction
  /-- R383. Every microsecond the Inkwell refills the balance and debits the draw outside regions. -/
  | inkTick
  /-- R385. The head INKQ request is granted and debited when the balance covers it. -/
  | inkGrant
  /-- R175. A region's time ends and an automatic re-request joins the grant order. -/
  | regionExpiry
  /-- R386. A region's mean draw exceeds its level and OVERDRAW is delivered to a stream. -/
  | overdraw
  /-- R376. Every 100 µs each sensor is tested and declared faulty or restored. -/
  | sensorCheck
  /-- R377. A sensor-count or thermal clamp is applied or lifted at a cycle boundary. -/
  | clusterClamp
  /-- R379. Every 16 cycles a series pair measures its imbalance and marks its clusters. -/
  | pairMeasurement
  /-- R381. A detected droop stretches the cluster's following cycles. -/
  | droopDetect
  /-- R388. Every 100 µs the governor decides the own ceiling from temperature and schedules any change. -/
  | governorEvaluation
  /-- R388. A pending ceiling change takes effect at its time T and changes the clock. -/
  | ceilingChange
  /-- R390. A join command asks the group's members and schedules membership. -/
  | baselineJoin
  /-- R390. A leave command is announced and takes effect at T. -/
  | baselineLeave
  /-- R390. A new command with command 3 or non-zero zero fields gets result 1. -/
  | baselineCommandMalformed
  /-- R390. The members' reply arrives and sets T_join. -/
  | baselineJoinReply
  /-- R390. No reply within 100 µs forms a group of one. -/
  | baselineJoinTimeout
  /-- R392. A received announcement is scheduled, or applied on receipt when late. -/
  | baselineAnnouncement
  /-- R391. At every multiple of 50 µs a member sends its heartbeat. -/
  | heartbeatSend
  /-- R391. A received heartbeat updates L_m and any pending change. -/
  | heartbeatReceive
  /-- R391. After three missed heartbeats the member clamps to 600 MHz. -/
  | silentDrop
  /-- R391. At L_m plus 2,000 µs a silent member is excluded and G is recomputed. -/
  | memberExclusion
  /-- R382. Every 10 µs the service die reads the service-area control words and applies changes. -/
  | serviceAreaRead
  /-- R405. The Blotter visits a header, ages it and may start a conversion. -/
  | blotterVisit
  /-- R406. A finished conversion exchanges storage and marks the block converted, as a release. -/
  | conversionSwitch
  /-- R447. A refused Blotter access aborts the conversion or migration and posts a record. -/
  | blotterAccessRefused
  /-- R408. A migration request takes a scratch block and begins the copy with mirrored writes. -/
  | migrationStart
  /-- R408. A finished migration exchanges storage and location and writes its result. -/
  | migrationSwitch
  /-- R403. One resolution unit's write through a paged glyph steps the block header. -/
  | pagedWrite
  /-- R404. A shared block is copied into a new block and the list entry is switched. -/
  | copyOnWrite
  /-- R162. A block whose refcount reached 0 returns to its free list after its reads finish. -/
  | folioDeferredFree
  /-- R299. A write to ctl.inval starts an invalidation of translations. -/
  | ctlInval
  /-- R299. An invalidation ends and the busy bit clears. -/
  | invalidationComplete
  /-- R290. A write of 1 to ctl.ruling starts a re-ruling of a level. -/
  | ctlRuling
  /-- R290. A re-ruling removes lost banks and ends. -/
  | reRulingComplete
  /-- R292. A write of a mirror slot's length activates or deactivates it. -/
  | ctlMirlen
  /-- R288. A failing bank is retired and a swap to a spare begins, or it is lost. -/
  | bankRetirement
  /-- R288. The spare's copy is done and the live-bank entry switches in one step. -/
  | bankSwapSwitch
  /-- R369. A detected error is retried once and judged transient or lasting. -/
  | eccRetry
  /-- R371. A bad remap copy freezes the tower's remaps and posts a record. -/
  | remapVoteFreeze
  /-- R372. A remap entry with no agreeing copies seals the tower with MAP_LOST. -/
  | towerSeal
  /-- R373. The last resident task leaves and the pending Proofing pattern begins. -/
  | proofingPatternStart
  /-- R444. The pattern ends with a pass or failure or a retry, the record is posted and the core is placed. -/
  | proofingPatternEnd
  /-- R374. A priority task for the core aborts Proofing, which scrubs and frees the core within 5 µs. -/
  | proofingAbort
  /-- R415. A flit arrives, is checked by CRC and acknowledged, or refused for replay. -/
  | gegilFlitReceive
  /-- R415. A rewrite of the fabric word retrains a downed port. -/
  | portRetrain
  /-- R417. A tagged remote access, arrival or semaphore step is applied once at the target. -/
  | remoteRequestApply
  /-- R417. A response to a remote request completes the issuing instruction or engine operation. -/
  | remoteResponse
  /-- R418. A wake write forces the park test on tasks parked on that barrier. -/
  | wakeWrite
  /-- R417. A request with no response after 100 µs is sent again. -/
  | remoteResend
  /-- R417. A request unanswered 800 µs after its first sending fails as a path failure. -/
  | pathFailure
  /-- R173. A held remote tag leaves the filter after 1 ms. -/
  | tagFilterExpiry
  /-- R419. Every 10 µs ports exchange timing flits and the tower steers tsc. -/
  | tscTimingExchange
  /-- R419. With no timing path for 1 ms the tower clears synchronised and runs free. -/
  | tscSyncLoss
  /-- R421. Matching start messages from every participant begin the data phase. -/
  | collectiveDataPhase
  /-- R423. An instance completes, steps its completion semaphore and notifies. -/
  | collectiveCompletion
  /-- R424. An exclusion or refused access stops an instance and posts an engine record. -/
  | collectiveStop
  /-- R424. A received abandon message ends instance k with result 1. -/
  | collectiveAbandonMessage
  /-- R425. Reset brings up the host link, opens the staging area and waits for an image. -/
  | towerReset
  /-- R425. A host write of boot.len starts firmware verification. -/
  | bootLenWrite
  /-- R425. Verification ends by starting the Rubricator or by refusing the image. -/
  | bootVerifyDone
  /-- R427. A write of 1 starts a signed attestation report. -/
  | attGo
  /-- R427. The attestation report is complete and att.go reads done. -/
  | attReportDone
  /-- R412. A host write hands a mailbox to the device, or is refused. -/
  | hmbCtl
  /-- R412. A host write of ones clears bits of hmb.pend. -/
  | hmbPend
  /-- R410. A host read or write through BAR 2 is checked and performed or refused. -/
  | hostBarAccess
  /-- R411. Host writes through BAR 4 store a wash chunk in one step when its last byte arrives. -/
  | hostWashChunkWrite
  /-- R186. A pending interrupt vector's MSI-X message is sent when the link and mask allow. -/
  | msixSend
  /-- R394. A monitor unit records one value into its count, min, max and bins. -/
  | monitorRecord
  /-- R395. Once per interval a sample record of the next stream is written. -/
  | pcSample
  /-- R303. A write to a CSR or control register that has no behaviour of its own. -/
  | registerWrite
  /-- R298. A page-table walk by one of the tower's 64 walkers ends, filling the TLBs or failing with XLATE, and releases the misses that waited on it. -/
  | walkCompletion
  /-- R416. A Gegil port finishes link training, comes up in the fabric status and fixes its wash capability. -/
  | linkTrainingComplete
  /-- R412. A host write into a mailbox buffer through BAR 0 is stored while the owner is HOST and discarded while it is DEVICE. -/
  | mailboxBufferWrite
  deriving DecidableEq, Repr

end Sys2Proof
end

