-- ==== Sys2Proof/WellFormed.lean ====
section
/-! DEFINITION. The decode checks of R86 that look at fields of a word: unused fields hold 0, and every value is one that the
instruction accepts. The zero fields of a format are checked by the decoder itself. -/

namespace Sys2Proof

/-- Integer types: codes 0 to 7 (R94). -/
def intTy (t : BitVec 4) : Bool := decide (t.toNat < 8)
/-- The I types. -/
def sgnTy (t : BitVec 4) : Bool := decide (t.toNat < 8) && decide (t.toNat % 2 = 0)
/-- Floating types, complex included: codes 8 to 15. -/
def isFloat (t : BitVec 4) : Bool := decide (8 ≤ t.toNat)
/-- .F16, .B16 and .F32. -/
def arithTy (t : BitVec 4) : Bool := decide (11 ≤ t.toNat) && decide (t.toNat ≤ 13)
/-- .F4, .E4, .E5, .F16, .B16 and .F32. -/
def realTy (t : BitVec 4) : Bool := decide (8 ≤ t.toNat) && decide (t.toNat ≤ 13)
/-- .C16 and .C32. -/
def cpxTy (t : BitVec 4) : Bool := decide (14 ≤ t.toNat)
/-- .I32 and .N32. -/
def dotTy (t : BitVec 4) : Bool := decide (t = 6 ∨ t = 7)
/-- .F4, .E4 and .E5. -/
def elemTy (t : BitVec 4) : Bool := decide (8 ≤ t.toNat) && decide (t.toNat ≤ 10)
/-- .F4, .E4, .E5, .F16 and .B16: the types of MMA (R270). -/
def mmaTy (t : BitVec 4) : Bool := decide (8 ≤ t.toNat) && decide (t.toNat ≤ 12)
/-- .I32, .N32, .F16, .B16 and .F32: the types of MLD (R270). -/
def mldTy (t : BitVec 4) : Bool := decide (t = 6 ∨ t = 7) || arithTy t
/-- Destination types of VCVTE (R219). -/
def cvteTy (t : BitVec 4) : Bool := decide (t.toNat ≤ 12)
/-- Type pairs of VCVT (R218): two real types, or two complex ones. -/
def cvtPair (td : BitVec 4) (fn : BitVec 7) : Bool :=
  decide (fn.toNat < 16) && (cpxTy td == cpxTy (fn.extractLsb' 0 4))
/-- Types and operations of VRED and VSCAN (R115, R235). -/
def redTy (t : BitVec 4) (fn : BitVec 7) : Bool :=
  (decide (fn.toNat ≤ 2) && (intTy t || arithTy t)) || (decide (3 ≤ fn.toNat) && decide (fn.toNat ≤ 5) && intTy t)
/-- Rounding codes 0 to 4 (R86). -/
def rndOk (r : BitVec 3) : Bool := decide (r.toNat ≤ 4)
/-- Scope codes 0 to 4 (R86). -/
def scopeOk (s : BitVec 3) : Bool := decide (s.toNat ≤ 4)
/-- Branch condition codes (Table 3.5). -/
def ccOk (c : BitVec 8) : Bool := decide (c.toNat ≤ 5)
/-- The immediate of BFX (R126). -/
def bfxOk (i : BitVec 64) : Bool :=
  let wd := (i.extractLsb' 0 7).toNat
  decide (i.extractLsb' 17 47 = 0) && decide (i.extractLsb' 14 2 = 0) && decide (i.extractLsb' 7 1 = 0) &&
    decide (1 ≤ wd) && decide (wd ≤ 64) && decide ((i.extractLsb' 8 6).toNat + wd ≤ 64)
/-- The immediate of BFI (R126). -/
def bfiOk (i : BitVec 64) : Bool := bfxOk i && decide (i.extractLsb' 16 1 = 0)
/-- A barrier operand: by number, or by the handle in b (R90, R150, R163). -/
def barOk (w : AC) : Bool := if w.hnd = 1 then decide (w.bar = 0) else decide (w.b = 0)
/-- The barrier or semaphore operand of BBND and BUBD; opt bit 2 selects the semaphore form (R168). -/
def bindOk (w : AC) : Bool := if w.opt.getLsbD 2 then decide (w.bar = 0) && decide (w.hnd = 0) else barOk w
/-- A semaphore instruction names a scope only with acq or rel (R170). -/
def semOk (w : AQ) : Bool := scopeOk w.scope && (decide (w.acq = 1) || decide (w.rel = 1) || decide (w.scope = 0))
/-- The source modifier (R96). -/
def modOk (m : BitVec 12) : Bool :=
  let cls := (m.extractLsb' 10 2).toNat
  let g := (m.extractLsb' 6 4).toNat
  let d := (m.extractLsb' 0 6).toNat
  if cls = 0 then decide (g = 0) && decide (d = 0)
  else decide (1 ≤ g) && decide (g ≤ 9) && decide (d < 2 ^ g) &&
    (decide (cls ≠ 2) || decide (d = 0) || decide (d = 1) || decide (d = 2) || decide (d = 4) || decide (d = 8) ||
      decide (d = 16) || decide (d = 32))
/-- A register-file operand: start code below 6,144 (R47). Dead or reuse on a source with any other start code is RESERVED_FIELD at
decode; R97 says so of stream registers, queues and constants, and of the codes that name nothing it is the model's choice. -/
def regOpd (f : BitVec 17) : Bool := decide ((f.extractLsb' 4 13).toNat < 6144)
/-- An operand that names a predicate (R202, R239). -/
def predOk (f : BitVec 17) : Bool := decide (f.toNat < 8)
/-- An operand that names a scale register (R217). -/
def scaleNo (f : BitVec 17) : Bool := decide (f.toNat < 64)
/-- The modifier, rounding code and source bits of an XV3 word (R96, R97, R211): `fa` tells whether source a is of a
floating type, `fb` the same of source b, none where b is unused. -/
def x3Ok (w : XV3) (fa : Bool) (fb : Option Bool) : Bool :=
  modOk w.md && rndOk w.rnd &&
    (!fa || !w.sgn.getLsbD 1) && (regOpd w.a || (!w.reuse.getLsbD 1 && !w.dead.getLsbD 1)) &&
    match fb with
    | none => decide (w.b = 0) && !w.sgn.getLsbD 0 && !w.reuse.getLsbD 0 && !w.dead.getLsbD 0
    | some f => (!f || !w.sgn.getLsbD 0) && (regOpd w.b || (!w.reuse.getLsbD 0 && !w.dead.getLsbD 0))
/-- The same of an XV4 word; `b` and `c` tell whether those sources are used. -/
def x4Ok (w : XV4) (f : Bool) (b c : Bool) : Bool :=
  rndOk w.rnd && (!f || decide (w.sgn = 0)) && (regOpd w.a || !w.dead.getLsbD 2) &&
    (if b then (regOpd w.b || !w.dead.getLsbD 1) else decide (w.b = 0) && !w.dead.getLsbD 1 && !w.sgn.getLsbD 0) &&
    (if c then (regOpd w.c || !w.dead.getLsbD 0) else decide (w.c = 0) && !w.dead.getLsbD 0)
/-- The scale-register operand b of VQMX and VDQMX (R217). -/
def scaleOk (w : XV3) : Bool := scaleNo w.b && !w.reuse.getLsbD 0 && !w.dead.getLsbD 0
/-- The immediate of VMOVI (R224). -/
def moviOk (t : BitVec 4) (i : BitVec 32) : Bool :=
  if t = 15 then false
  else
    let n := if t.toNat < 2 then 4 else if t.toNat < 4 then 8 else if t.toNat < 6 then 16 else if t.toNat < 8 then 32
      else if t = 8 then 4 else if t.toNat ≤ 10 then 8 else if t.toNat ≤ 12 then 16 else 32
    if sgnTy t then decide (i.toNat / 2 ^ (n - 1) = 0) || decide (i.toNat / 2 ^ (n - 1) = 2 ^ (33 - n) - 1)
    else decide (i.toNat < 2 ^ n)
/-- The immediate of KSET.MOD (R240). -/
def ksetModOk (i : BitVec 32) : Bool :=
  let n := (i.extractLsb' 0 10).toNat
  let g := (i.extractLsb' 10 4).toNat
  decide (i.toNat < 2 ^ 14) && decide (1 ≤ g) && decide (g ≤ 9) && decide (n ≤ 2 ^ g)
/-- The count source of LOOP (R242, R243). -/
def loopOk (w : XC) : Bool :=
  decide (w.csrc.toNat ≤ 2) && (decide (w.csrc = 1) || decide (w.q = 0)) &&
    (decide (w.csrc ≠ 1) || decide (w.count = 0)) && (decide (w.csrc ≠ 2) || decide (w.count.toNat < 4))
/-- The count source and fields of LOOPR (R242, R247). -/
def looprOk (w : XC) : Bool :=
  let low := (w.count.extractLsb' 0 22).toNat
  decide (w.csrc.toNat ≤ 2) && (decide (w.csrc = 1) || decide (w.q = 0)) && decide (w.count.extractLsb' 24 8 ≠ 0) &&
    (decide (w.csrc ≠ 1) || decide (low = 0)) && (decide (w.csrc ≠ 2) || decide (low < 4))
/-- The immediate of MBARV (R276). -/
def mbarvOk (i : BitVec 64) : Bool :=
  decide (i.extractLsb' 20 4 = 0) && decide (i.extractLsb' 11 5 = 0) &&
    (decide (i.extractLsb' 19 1 = 0) || decide (i.extractLsb' 16 3 = 0))

/-- A word that passes the RESERVED_FIELD checks of R86. -/
def Instr.wf : Instr → Bool
  | .add w => decide (w.fn = 0) && decide (w.c = 0)
  | .sub w => decide (w.fn = 0) && decide (w.c = 0)
  | .addi w => decide (w.fn = 0)
  | .mul w => decide (w.fn = 0) && decide (w.c = 0)
  | .mulh w => decide (w.fn = 0) && decide (w.c = 0)
  | .mulhn w => decide (w.fn = 0) && decide (w.c = 0)
  | .div w => decide (w.fn = 0) && decide (w.c = 0)
  | .divn w => decide (w.fn = 0) && decide (w.c = 0)
  | .rem w => decide (w.fn = 0) && decide (w.c = 0)
  | .remn w => decide (w.fn = 0) && decide (w.c = 0)
  | .and w => decide (w.fn = 0) && decide (w.c = 0)
  | .or w => decide (w.fn = 0) && decide (w.c = 0)
  | .xor w => decide (w.fn = 0) && decide (w.c = 0)
  | .andn w => decide (w.fn = 0) && decide (w.c = 0)
  | .shl w => decide (w.fn = 0) && decide (w.c = 0)
  | .shr w => decide (w.fn = 0) && decide (w.c = 0)
  | .sra w => decide (w.fn = 0) && decide (w.c = 0)
  | .rol w => decide (w.fn = 0) && decide (w.c = 0)
  | .ror w => decide (w.fn = 0) && decide (w.c = 0)
  | .clz w => decide (w.fn = 0) && decide (w.b = 0) && decide (w.c = 0)
  | .ctz w => decide (w.fn = 0) && decide (w.b = 0) && decide (w.c = 0)
  | .popc w => decide (w.fn = 0) && decide (w.b = 0) && decide (w.c = 0)
  | .min w => decide (w.fn = 0) && decide (w.c = 0)
  | .max w => decide (w.fn = 0) && decide (w.c = 0)
  | .minn w => decide (w.fn = 0) && decide (w.c = 0)
  | .maxn w => decide (w.fn = 0) && decide (w.c = 0)
  | .sel w => decide (w.fn = 0)
  | .slt w => decide (w.fn = 0) && decide (w.c = 0)
  | .sltn w => decide (w.fn = 0) && decide (w.c = 0)
  | .seq w => decide (w.fn = 0) && decide (w.c = 0)
  | .li w => decide (w.fn = 0) && decide (w.a = 0)
  | .bfx w => decide (w.fn = 0) && bfxOk w.imm
  | .bfi w => decide (w.fn = 0) && bfiOk w.imm
  | .adds w => decide (w.fn = 0) && decide (w.c = 0)
  | .b w => ccOk w.cc
  | .j w => decide (w.cc = 0) && decide (w.a = 0) && decide (w.b = 0)
  | .jal w => decide (w.cc = 0) && decide (w.b = 0)
  | .jr w => decide (w.fn = 0) && decide (w.b = 0) && decide (w.c = 0)
  | .bqp w => decide (w.off = 0) && ccOk w.cc
  | .fin w => decide (w.fn = 0) && decide (w.d = 0) && decide (w.a = 0) && decide (w.b = 0) && decide (w.c = 0)
  | .nop w => decide (w.fn = 0) && decide (w.d = 0) && decide (w.a = 0) && decide (w.b = 0) && decide (w.c = 0)
  | .ld w => decide (w.scope = 0)
  | .st w => decide (w.sx = 0) && decide (w.scope = 0)
  | .lds w => scopeOk w.scope
  | .sts w => decide (w.sx = 0) && scopeOk w.scope
  | .ldx w => decide (w.gd = 0) && decide (w.gs = 0) && decide (w.d = 0) && decide (w.b = 0) && decide (w.ext = 0) && decide (w.bar = 0) && decide (w.scope = 0) && decide (w.acq = 0) && decide (w.rel = 0) && decide (w.hnd = 0) && decide (w.wash = 0) && decide (w.fn.toNat ≤ 4) && decide (w.opt.toNat < 8)
  | .stx w => decide (w.gd = 0) && decide (w.gs = 0) && decide (w.d = 0) && decide (w.b = 0) && decide (w.ext = 0) && decide (w.bar = 0) && decide (w.scope = 0) && decide (w.acq = 0) && decide (w.rel = 0) && decide (w.hnd = 0) && decide (w.wash = 0) && decide (w.fn.toNat ≤ 3) && decide (w.opt.toNat < 4)
  | .gath w => decide (w.fn = 0) && decide (w.gd = 0) && decide (w.d = 0) && decide (w.b = 0) && decide (w.ext = 0) && decide (w.bar = 0) && decide (w.scope = 0) && decide (w.acq = 0) && decide (w.rel = 0) && decide (w.hnd = 0) && decide (w.wash = 0) && decide (w.opt.toNat < 8)
  | .scat w => decide (w.fn = 0) && decide (w.gs = 0) && decide (w.d = 0) && decide (w.ext = 0) && decide (w.bar = 0) && decide (w.scope = 0) && decide (w.acq = 0) && decide (w.rel = 0) && decide (w.hnd = 0) && decide (w.wash = 0) && decide (w.opt = 0)
  | .pref w => decide (w.size = 0) && decide (w.sx = 0) && decide (w.scope = 0) && decide (w.d = 0)
  | .fence w => decide (w.fn = 0) && decide (w.d = 0) && decide (w.a = 0) && decide (w.b = 0) && decide (w.c = 0)
  | .cpy w => decide (w.fn = 0) && decide (w.scope = 0) && decide (w.acq = 0) && decide (w.rel = 0) && decide (w.opt = 0) && barOk w
  | .cpyvIn w => decide (w.fn = 0) && decide (w.gd = 0) && decide (w.scope = 0) && decide (w.acq = 0) && decide (w.rel = 0) && decide (w.wash = 0) && decide (w.opt = 0) && barOk w
  | .cpyvOut w => decide (w.fn = 0) && decide (w.gs = 0) && decide (w.scope = 0) && decide (w.acq = 0) && decide (w.rel = 0) && decide (w.wash = 0) && barOk w && decide (w.opt = 1)
  | .cpyb w => decide (w.fn = 0) && decide (w.gs = 0) && decide (w.a = 0) && decide (w.scope = 0) && decide (w.acq = 0) && decide (w.rel = 0) && decide (w.wash = 0) && decide (w.opt = 0) && barOk w
  | .cpyx w => decide (w.fn = 0) && decide (w.bar = 0) && decide (w.scope = 0) && decide (w.acq = 0) && decide (w.rel = 0) && decide (w.hnd = 1) && decide (w.opt.toNat < 2)
  | .sbind w => decide (w.fn = 0) && decide (w.d = 0) && decide (w.b = 0) && decide (w.ext = 0) && decide (w.bar = 0) && decide (w.scope = 0) && decide (w.acq = 0) && decide (w.rel = 0) && decide (w.hnd = 0) && decide (w.wash = 0)
  | .sdrop w => decide (w.fn = 0) && decide (w.gd = 0) && decide (w.gs = 0) && decide (w.d = 0) && decide (w.a = 0) && decide (w.b = 0) && decide (w.ext = 0) && decide (w.bar = 0) && decide (w.scope = 0) && decide (w.acq = 0) && decide (w.rel = 0) && decide (w.hnd = 0) && decide (w.wash = 0)
  | .gdef w => decide (w.fn = 0) && decide (w.gs = 0) && decide (w.d = 0) && decide (w.b = 0) && decide (w.ext = 0) && decide (w.bar = 0) && decide (w.scope = 0) && decide (w.acq = 0) && decide (w.rel = 0) && decide (w.hnd = 0) && decide (w.wash = 0) && decide (w.opt = 0)
  | .gset w => decide (w.gs = 0) && decide (w.d = 0) && decide (w.b = 0) && decide (w.ext = 0) && decide (w.bar = 0) && decide (w.scope = 0) && decide (w.acq = 0) && decide (w.rel = 0) && decide (w.hnd = 0) && decide (w.wash = 0) && decide (w.opt = 0) && decide (w.fn.toNat ≤ 0x13)
  | .gget w => decide (w.gd = 0) && decide (w.a = 0) && decide (w.b = 0) && decide (w.ext = 0) && decide (w.bar = 0) && decide (w.scope = 0) && decide (w.acq = 0) && decide (w.rel = 0) && decide (w.hnd = 0) && decide (w.wash = 0) && decide (w.opt = 0) && decide (w.fn.toNat ≤ 0x13)
  | .falloc w => decide (w.fn = 0) && decide (w.gd = 0) && decide (w.gs = 0) && decide (w.b = 0) && decide (w.ext = 0) && decide (w.bar = 0) && decide (w.scope = 0) && decide (w.acq = 0) && decide (w.rel = 0) && decide (w.hnd = 0) && decide (w.wash = 0) && decide (w.opt = 0)
  | .faddref w => decide (w.fn = 0) && decide (w.gd = 0) && decide (w.gs = 0) && decide (w.d = 0) && decide (w.b = 0) && decide (w.ext = 0) && decide (w.bar = 0) && decide (w.scope = 0) && decide (w.acq = 0) && decide (w.rel = 0) && decide (w.hnd = 0) && decide (w.wash = 0) && decide (w.opt = 0)
  | .fdrop w => decide (w.fn = 0) && decide (w.gd = 0) && decide (w.gs = 0) && decide (w.d = 0) && decide (w.b = 0) && decide (w.ext = 0) && decide (w.bar = 0) && decide (w.scope = 0) && decide (w.acq = 0) && decide (w.rel = 0) && decide (w.hnd = 0) && decide (w.wash = 0) && decide (w.opt = 0)
  | .pseal w => decide (w.fn = 0) && decide (w.gd = 0) && decide (w.gs = 0) && decide (w.d = 0) && decide (w.b = 0) && decide (w.ext = 0) && decide (w.bar = 0) && decide (w.scope = 0) && decide (w.acq = 0) && decide (w.rel = 0) && decide (w.hnd = 0) && decide (w.wash = 0) && decide (w.opt = 0)
  | .bxp w => decide (w.fn = 0) && decide (w.gd = 0) && decide (w.gs = 0) && decide (w.d = 0) && decide (w.ext = 0) && decide (w.acq = 0) && decide (w.rel = 0) && decide (w.wash = 0) && decide (w.opt = 0) && barOk w && scopeOk w.scope
  | .barv w => decide (w.fn = 0) && decide (w.gd = 0) && decide (w.gs = 0) && decide (w.d = 0) && decide (w.ext = 0) && decide (w.scope = 0) && decide (w.acq = 0) && decide (w.rel = 0) && decide (w.wash = 0) && barOk w && decide (w.opt.toNat < 2)
  | .bwt w => decide (w.fn = 0) && decide (w.gd = 0) && decide (w.gs = 0) && decide (w.d = 0) && decide (w.ext = 0) && decide (w.scope = 0) && decide (w.acq = 0) && decide (w.rel = 0) && decide (w.wash = 0) && decide (w.opt = 0) && barOk w
  | .btst w => decide (w.fn = 0) && decide (w.gd = 0) && decide (w.gs = 0) && decide (w.ext = 0) && decide (w.scope = 0) && decide (w.rel = 0) && decide (w.wash = 0) && decide (w.opt = 0) && barOk w
  | .bbnd w => decide (w.fn = 0) && decide (w.gd = 0) && decide (w.gs = 0) && decide (w.d = 0) && decide (w.scope = 0) && decide (w.acq = 0) && decide (w.rel = 0) && decide (w.wash = 0) && bindOk w && decide (w.opt.toNat < 8)
  | .bubd w => decide (w.fn = 0) && decide (w.gd = 0) && decide (w.gs = 0) && decide (w.d = 0) && decide (w.a = 0) && decide (w.ext = 0) && decide (w.scope = 0) && decide (w.acq = 0) && decide (w.rel = 0) && decide (w.wash = 0) && bindOk w && (!w.opt.getLsbD 3 || decide (w.opt.extractLsb' 0 2 = 0))
  | .bfwd w => decide (w.fn = 0) && decide (w.gd = 0) && decide (w.gs = 0) && decide (w.d = 0) && decide (w.ext = 0) && decide (w.scope = 0) && decide (w.acq = 0) && decide (w.rel = 0) && decide (w.wash = 0) && decide (w.opt = 0) && barOk w
  | .sadd w => decide (w.fn = 0) && semOk w
  | .scas w => decide (w.fn = 0) && semOk w
  | .smax w => decide (w.fn = 0) && semOk w
  | .sxch w => decide (w.fn = 0) && semOk w
  | .srd w => decide (w.fn = 0) && decide (w.a = 0) && decide (w.rel = 0) && semOk w
  | .swt w => decide (w.fn = 0) && decide (w.b = 0) && decide (w.rel = 0) && semOk w
  | .inkq w => decide (w.fn = 0) && decide (w.d = 0) && decide (w.obj = 0) && decide (w.imm = 0)
  | .inkr w => decide (w.fn = 0) && decide (w.d = 0) && decide (w.a = 0) && decide (w.b = 0) && decide (w.obj = 0) && decide (w.imm = 0)
  | .trap w => decide (w.fn = 0) && decide (w.d = 0) && decide (w.a = 0) && decide (w.b = 0) && decide (w.obj = 0)
  | .tret w => decide (w.fn = 0) && decide (w.d = 0) && decide (w.a = 0) && decide (w.b = 0) && decide (w.obj = 0) && decide (w.imm.toNat < 2)
  | .csrr w => decide (w.fn = 0) && decide (w.a = 0) && decide (w.b = 0) && decide (w.imm = 0)
  | .csrw w => decide (w.fn = 0) && decide (w.d = 0) && decide (w.b = 0) && decide (w.imm = 0)
  | .tsc w => decide (w.fn = 0) && decide (w.a = 0) && decide (w.b = 0) && decide (w.obj = 0) && decide (w.imm = 0)
  | .parkBar w => decide (w.fn = 0) && decide (w.d = 0) && decide (w.obj = 0) && decide (w.imm = 0)
  | .parkSem w => decide (w.fn = 0) && decide (w.d = 0) && decide (w.obj = 0) && decide (w.imm = 1)
  | .parkMbx w => decide (w.fn = 0) && decide (w.d = 0) && decide (w.b = 0) && decide (w.obj = 0) && decide (w.imm = 2)
  | .parkInk w => decide (w.fn = 0) && decide (w.d = 0) && decide (w.b = 0) && decide (w.obj = 0) && decide (w.imm = 3)
  | .yield w => decide (w.fn = 0) && decide (w.d = 0) && decide (w.a = 0) && decide (w.b = 0) && decide (w.obj = 0) && decide (w.imm = 0)
  | .lgo w => decide (w.fn = 0) && decide (w.d = 0) && decide (w.a = 0) && decide (w.b = 0) && decide (w.imm = 0)
  | .lpatch w => decide (w.d = 0) && decide (w.b = 0) && decide (w.imm = 0) && decide (w.fn.toNat ≤ 0x19)
  | .qentLaunch w => decide (w.d = 0) && decide (w.b = 0) && decide (w.imm = 0) && decide (w.fn = 0) && decide (w.obj.toNat < 16)
  | .qentCopy w => decide (w.d = 0) && decide (w.b = 0) && decide (w.imm = 0) && decide (w.fn = 1) && decide (w.obj.toNat < 16)
  | .qentSem w => decide (w.d = 0) && decide (w.b = 0) && decide (w.imm = 0) && decide (w.fn = 2) && decide (w.obj.toNat < 16)
  | .qentHirq w => decide (w.d = 0) && decide (w.b = 0) && decide (w.imm = 0) && decide (w.fn = 3) && decide (w.obj.toNat < 16)
  | .mbxr w => decide (w.fn = 0) && decide (w.b = 0) && decide (w.imm = 0) && decide (w.obj.toNat < 64)
  | .mbxs w => decide (w.fn = 0) && decide (w.d = 0) && decide (w.imm = 0) && decide (w.obj.toNat < 64)
  | .hirq w => decide (w.fn = 0) && decide (w.d = 0) && decide (w.a = 0) && decide (w.b = 0) && decide (w.imm = 0) && decide (w.obj.toNat < 64)
  | .preempt w => decide (w.fn = 0) && decide (w.b = 0) && decide (w.obj = 0) && decide (w.imm = 0)
  | .proofStart w => decide (w.fn = 0) && decide (w.b = 0) && decide (w.obj = 0) && decide (w.imm = 0)
  | .proofAbort w => decide (w.fn = 0) && decide (w.b = 0) && decide (w.obj = 0) && decide (w.imm = 0)
  | .sampm w => decide (w.fn = 0) && decide (w.d = 0) && decide (w.obj = 0) && decide (w.imm = 0)
  | .vadd w => decide (w.fn = 0) && intTy w.ty && x3Ok w (isFloat w.ty) (some (isFloat w.ty)) && decide (w.rnd = 0)
  | .vsub w => decide (w.fn = 0) && intTy w.ty && x3Ok w (isFloat w.ty) (some (isFloat w.ty)) && decide (w.rnd = 0)
  | .vmul w => decide (w.fn = 0) && intTy w.ty && x3Ok w (isFloat w.ty) (some (isFloat w.ty)) && decide (w.rnd = 0)
  | .vmulh w => decide (w.fn = 0) && intTy w.ty && x3Ok w (isFloat w.ty) (some (isFloat w.ty)) && decide (w.rnd = 0)
  | .vmad w => decide (w.fn = 0) && intTy w.ty && x4Ok w (isFloat w.ty) true true && decide (w.rnd = 0)
  | .vdot4 w => decide (w.fn = 0) && dotTy w.ty && x4Ok w (isFloat w.ty) true true && decide (w.rnd = 0)
  | .vdot8 w => decide (w.fn = 0) && dotTy w.ty && x4Ok w (isFloat w.ty) true true && decide (w.rnd = 0)
  | .vmin w => decide (w.fn = 0) && intTy w.ty && x3Ok w (isFloat w.ty) (some (isFloat w.ty)) && decide (w.rnd = 0)
  | .vmax w => decide (w.fn = 0) && intTy w.ty && x3Ok w (isFloat w.ty) (some (isFloat w.ty)) && decide (w.rnd = 0)
  | .vabs w => decide (w.fn = 0) && sgnTy w.ty && x3Ok w (isFloat w.ty) (none) && decide (w.rnd = 0)
  | .vabsd w => decide (w.fn = 0) && intTy w.ty && x3Ok w (isFloat w.ty) (some (isFloat w.ty)) && decide (w.rnd = 0)
  | .vneg w => decide (w.fn = 0) && sgnTy w.ty && x3Ok w (isFloat w.ty) (none) && decide (w.rnd = 0)
  | .vavg w => decide (w.fn = 0) && intTy w.ty && x3Ok w (isFloat w.ty) (some (isFloat w.ty))
  | .vshl w => decide (w.fn = 0) && intTy w.ty && x3Ok w (isFloat w.ty) (some (isFloat w.ty)) && decide (w.rnd = 0)
  | .vshr w => decide (w.fn = 0) && intTy w.ty && x3Ok w (isFloat w.ty) (some (isFloat w.ty)) && decide (w.rnd = 0)
  | .vsra w => decide (w.fn = 0) && intTy w.ty && x3Ok w (isFloat w.ty) (some (isFloat w.ty)) && decide (w.rnd = 0)
  | .vrsh w => decide (w.fn = 0) && intTy w.ty && x3Ok w (isFloat w.ty) (some (isFloat w.ty))
  | .vand w => decide (w.fn = 0) && intTy w.ty && x3Ok w (isFloat w.ty) (some (isFloat w.ty)) && decide (w.rnd = 0)
  | .vor w => decide (w.fn = 0) && intTy w.ty && x3Ok w (isFloat w.ty) (some (isFloat w.ty)) && decide (w.rnd = 0)
  | .vxor w => decide (w.fn = 0) && intTy w.ty && x3Ok w (isFloat w.ty) (some (isFloat w.ty)) && decide (w.rnd = 0)
  | .vandn w => decide (w.fn = 0) && intTy w.ty && x3Ok w (isFloat w.ty) (some (isFloat w.ty)) && decide (w.rnd = 0)
  | .vnot w => decide (w.fn = 0) && intTy w.ty && x3Ok w (isFloat w.ty) (none) && decide (w.rnd = 0)
  | .vpopc w => decide (w.fn = 0) && intTy w.ty && x3Ok w (isFloat w.ty) (none) && decide (w.rnd = 0)
  | .vclz w => decide (w.fn = 0) && intTy w.ty && x3Ok w (isFloat w.ty) (none) && decide (w.rnd = 0)
  | .vsel w => decide (w.fn = 0) && true && x4Ok w (isFloat w.ty) true true && decide (w.rnd = 0)
  | .vcmp w => intTy w.ty && x3Ok w (isFloat w.ty) (some (isFloat w.ty)) && decide (w.rnd = 0) && predOk w.d && decide (w.fn.toNat ≤ 5)
  | .vclamp w => decide (w.fn = 0) && intTy w.ty && x4Ok w (isFloat w.ty) true true && decide (w.rnd = 0)
  | .vfadd w => decide (w.fn = 0) && (arithTy w.ty || cpxTy w.ty) && x3Ok w (isFloat w.ty) (some (isFloat w.ty))
  | .vfsub w => decide (w.fn = 0) && (arithTy w.ty || cpxTy w.ty) && x3Ok w (isFloat w.ty) (some (isFloat w.ty))
  | .vfmul w => decide (w.fn = 0) && arithTy w.ty && x3Ok w (isFloat w.ty) (some (isFloat w.ty))
  | .vfma w => decide (w.fn = 0) && arithTy w.ty && x4Ok w (isFloat w.ty) true true
  | .vfms w => decide (w.fn = 0) && arithTy w.ty && x4Ok w (isFloat w.ty) true true
  | .vfnma w => decide (w.fn = 0) && arithTy w.ty && x4Ok w (isFloat w.ty) true true
  | .vfmin w => decide (w.fn = 0) && realTy w.ty && x3Ok w (isFloat w.ty) (some (isFloat w.ty)) && decide (w.rnd = 0)
  | .vfmax w => decide (w.fn = 0) && realTy w.ty && x3Ok w (isFloat w.ty) (some (isFloat w.ty)) && decide (w.rnd = 0)
  | .vfabs w => decide (w.fn = 0) && realTy w.ty && x3Ok w (isFloat w.ty) (none) && decide (w.rnd = 0)
  | .vfneg w => decide (w.fn = 0) && (realTy w.ty || cpxTy w.ty) && x3Ok w (isFloat w.ty) (none) && decide (w.rnd = 0)
  | .vfcmp w => realTy w.ty && x3Ok w (isFloat w.ty) (some (isFloat w.ty)) && decide (w.rnd = 0) && predOk w.d && decide (w.fn.toNat ≤ 7)
  | .vfclass w => decide (w.fn = 0) && realTy w.ty && x3Ok w (isFloat w.ty) (none) && decide (w.rnd = 0)
  | .vrcp w => decide (w.fn = 0) && arithTy w.ty && x3Ok w (isFloat w.ty) (none)
  | .vrsq w => decide (w.fn = 0) && arithTy w.ty && x3Ok w (isFloat w.ty) (none)
  | .vsqrt w => decide (w.fn = 0) && arithTy w.ty && x3Ok w (isFloat w.ty) (none)
  | .vdiv w => decide (w.fn = 0) && arithTy w.ty && x3Ok w (isFloat w.ty) (some (isFloat w.ty))
  | .vexp2 w => decide (w.fn = 0) && arithTy w.ty && x3Ok w (isFloat w.ty) (none)
  | .vlog2 w => decide (w.fn = 0) && arithTy w.ty && x3Ok w (isFloat w.ty) (none)
  | .vfscl w => decide (w.fn = 0) && arithTy w.ty && x3Ok w (isFloat w.ty) (some (false))
  | .vcvt w => cvtPair w.ty w.fn && x3Ok w (isFloat (w.fn.extractLsb' 0 4)) (none) && (isFloat w.ty || isFloat (w.fn.extractLsb' 0 4) || decide (w.rnd = 0))
  | .vcvte w => cvteTy w.ty && decide (w.fn.toNat ≤ 2) && x4Ok w (true) false true && decide (w.rnd = 0) && decide (w.sat = 0)
  | .vqmx w => elemTy w.ty && arithTy (w.fn.extractLsb' 0 4) && decide (w.fn.toNat < 32) && x3Ok w (true) (some (true)) && decide (w.sat = 0) && scaleOk w
  | .vdqmx w => arithTy w.ty && elemTy (w.fn.extractLsb' 0 4) && decide (w.fn.toNat < 16) && x3Ok w (true) (some (true)) && scaleOk w
  | .vamax w => realTy w.ty && x3Ok w (isFloat w.ty) (none) && decide (w.rnd = 0) && decide (w.sat = 0) && decide (w.fn = 0 ∨ w.fn = 16)
  | .eset w => decide (w.imm = 0) && decide (w.rnd = 0) && decide (w.sat = 0) && decide (w.fn = 0) && decide (w.ty = 3) && scaleNo w.d && decide ((w.a.extractLsb' 0 4).toNat ≤ 1)
  | .esetImm w => decide (w.a = 0) && decide (w.rnd = 0) && decide (w.sat = 0) && decide (w.fn = 0) && decide (w.ty = 3) && scaleNo w.d && decide (w.imm.extractLsb' 0 8 = 1) && decide (w.imm.extractLsb' 16 16 = 0)
  | .eget w => decide (w.imm = 0) && decide (w.rnd = 0) && decide (w.fn = 0) && decide (w.ty = 3 ∨ w.ty = 5 ∨ w.ty = 7) && scaleNo w.a
  | .vperm w => decide (w.fn = 0) && true && x3Ok w (isFloat w.ty) (some (true)) && decide (w.rnd = 0)
  | .vbcst w => decide (w.fn = 0) && true && x3Ok w (isFloat w.ty) (some (true)) && decide (w.rnd = 0)
  | .vzip w => decide (w.fn = 0) && true && x3Ok w (isFloat w.ty) (some (isFloat w.ty)) && decide (w.rnd = 0) && decide (w.sat = 0)
  | .vunzip w => decide (w.fn = 0) && true && x3Ok w (isFloat w.ty) (some (isFloat w.ty)) && decide (w.rnd = 0) && decide (w.sat = 0)
  | .vpack w => decide (w.fn = 0) && true && x3Ok w (isFloat w.ty) (some (isFloat w.ty)) && decide (w.rnd = 0) && decide (w.sat = 0)
  | .vunpk w => decide (w.fn = 0) && true && x3Ok w (isFloat w.ty) (some (isFloat w.ty)) && decide (w.rnd = 0) && decide (w.sat = 0)
  | .vlsh w => decide (w.rnd = 0) && decide (w.sat = 0) && decide (w.fn = 0)
  | .vmov w => decide (w.fn = 0) && true && x3Ok w (isFloat w.ty) (none) && decide (w.rnd = 0) && (!isFloat w.ty || decide (w.sat = 0))
  | .vmovi w => decide (w.a = 0) && decide (w.rnd = 0) && decide (w.sat = 0) && decide (w.fn = 0) && moviOk w.ty w.imm
  | .vbf2 w => decide (w.fn = 0) && cpxTy w.ty && x4Ok w (isFloat w.ty) true true
  | .vbf4 w => decide (w.fn = 0) && cpxTy w.ty && x4Ok w (isFloat w.ty) true true && decide (w.c = 8129#13 ++ 0#4 ∨ w.c = 8127#13 ++ 0#4)
  | .vtwg w => decide (w.sat = 0) && decide (w.fn = 0) && cpxTy w.ty && rndOk w.rnd && decide (w.imm.toNat < 64) && decide ((w.imm.extractLsb' 0 5).toNat ≤ 24)
  | .vcmul w => decide (w.fn = 0) && cpxTy w.ty && x3Ok w (isFloat w.ty) (some (isFloat w.ty))
  | .vcmac w => decide (w.fn = 0) && cpxTy w.ty && x4Ok w (isFloat w.ty) true true
  | .vred w => redTy w.ty w.fn && x3Ok w (isFloat w.ty) (none) && (decide (w.rnd = 0) || (isFloat w.ty && decide (w.fn = 0)))
  | .vscan w => redTy w.ty w.fn && x3Ok w (isFloat w.ty) (none) && (decide (w.rnd = 0) || (isFloat w.ty && decide (w.fn = 0)))
  | .vrsum w => decide (w.fn = 0) && arithTy w.ty && x3Ok w (isFloat w.ty) (none) && decide (w.sat = 0)
  | .kand w => decide (w.ty = 0) && decide (w.rnd = 0) && decide (w.sat = 0) && decide (w.fn = 0) && predOk w.d && predOk w.a && decide (w.imm.toNat < 32)
  | .kor w => decide (w.ty = 0) && decide (w.rnd = 0) && decide (w.sat = 0) && decide (w.fn = 0) && predOk w.d && predOk w.a && decide (w.imm.toNat < 32)
  | .kxor w => decide (w.ty = 0) && decide (w.rnd = 0) && decide (w.sat = 0) && decide (w.fn = 0) && predOk w.d && predOk w.a && decide (w.imm.toNat < 32)
  | .knot w => decide (w.imm = 0) && decide (w.ty = 0) && decide (w.rnd = 0) && decide (w.sat = 0) && decide (w.fn = 0) && predOk w.d && predOk w.a
  | .ksetLt w => decide (w.a = 0) && decide (w.ty = 0) && decide (w.rnd = 0) && decide (w.sat = 0) && decide (w.fn = 0) && predOk w.d && decide (w.imm.toNat ≤ 512)
  | .ksetGe w => decide (w.a = 0) && decide (w.ty = 0) && decide (w.rnd = 0) && decide (w.sat = 0) && predOk w.d && decide (w.imm.toNat ≤ 512) && decide (w.fn = 1)
  | .ksetMod w => decide (w.a = 0) && decide (w.ty = 0) && decide (w.rnd = 0) && decide (w.sat = 0) && predOk w.d && decide (w.fn = 2) && ksetModOk w.imm
  | .kmov w => decide (w.imm = 0) && decide (w.ty = 0) && decide (w.rnd = 0) && decide (w.sat = 0) && decide (w.fn = 0) && predOk w.d && predOk w.a
  | .kmovFromv w => decide (w.imm = 0) && decide (w.rnd = 0) && decide (w.sat = 0) && predOk w.d && intTy w.ty && decide (w.fn = 1)
  | .kmovTov w => decide (w.imm = 0) && decide (w.rnd = 0) && decide (w.sat = 0) && predOk w.a && intTy w.ty && decide (w.fn = 2)
  | .loop w => decide (w.k = 0) && decide (w.fn = 0) && loopOk w
  | .loopr w => decide (w.k = 0) && decide (w.fn = 0) && looprOk w
  | .xb w => decide (w.k = 0) && decide (w.lc = 0) && decide (w.csrc = 0) && decide (w.q = 0) && decide (w.count = 0) && decide (w.fn.toNat ≤ 1)
  | .xbk w => decide (w.lc = 0) && decide (w.csrc = 0) && decide (w.q = 0) && decide (w.count = 0) && decide (w.fn.toNat ≤ 2)
  | .xj w => decide (w.k = 0) && decide (w.fn = 0) && decide (w.lc = 0) && decide (w.csrc = 0) && decide (w.q = 0) && decide (w.count = 0)
  | .xfin w => decide (w.k = 0) && decide (w.fn = 0) && decide (w.lc = 0) && decide (w.csrc = 0) && decide (w.q = 0) && decide (w.count = 0) && decide (w.off = 0)
  | .vdead w => decide (w.d = 0) && decide (w.a = 0) && decide (w.ty = 0) && decide (w.rnd = 0) && decide (w.sat = 0) && decide (w.fn = 0) && decide (w.k = 0 ∨ w.k = 8) && decide (w.imm.toNat < 2 ^ 26) && decide (w.imm.extractLsb' 13 13 ≠ 0)
  | .vpush w => decide (w.d = 0) && decide (w.rnd = 0) && decide (w.sat = 0) && decide (w.fn = 0) && decide (w.imm.toNat < 2 ^ 11)
  | .lease w => decide (w.fn = 0) && decide (w.creg = 0) && decide (w.imm.toNat < 256) && decide (w.imm ≠ 0)
  | .lfree w => decide (w.fn = 0) && decide (w.creg = 0) && decide (w.imm = 0)
  | .mma w => decide (w.mrnd = 0) && decide (w.msat = 0) && decide (w.cfn = 0) && mmaTy w.mtype
  | .mmaz w => decide (w.mrnd = 0) && decide (w.msat = 0) && decide (w.cfn = 0) && mmaTy w.mtype
  | .mmb w => decide (w.mrnd = 0) && decide (w.msat = 0) && decide (w.ta = 0) && decide (w.tb = 0) && decide (w.cfn = 0) && elemTy w.mtype
  | .mmi w => decide (w.mrnd = 0) && decide (w.msat = 0) && decide (w.mtype.toNat < 4) && decide (w.cfn.toNat < 2)
  | .mclr w => decide (w.ga = 0) && decide (w.gb = 0) && decide (w.ca = 0) && decide (w.cb = 0) && decide (w.ct = 0) && decide (w.kk = 0) && decide (w.mtype = 0) && decide (w.mrnd = 0) && decide (w.msat = 0) && decide (w.ta = 0) && decide (w.tb = 0) && decide (w.cfn = 0)
  | .mld w => decide (w.gb = 0) && decide (w.ct = 0) && decide (w.kk = 0) && decide (w.mrnd = 0) && decide (w.msat = 0) && decide (w.tb = 0) && decide (w.cfn = 0) && mldTy w.mtype
  | .mst w => decide (w.gb = 0) && decide (w.ct = 0) && decide (w.kk = 0) && decide (w.tb = 0) && decide (w.mtype.toNat < 14) && rndOk w.mrnd && decide (w.cfn.toNat < 2)
  | .madd w => decide (w.ga = 0) && decide (w.gb = 0) && decide (w.ca = 0) && decide (w.cb = 0) && decide (w.ct = 0) && decide (w.kk = 0) && decide (w.mtype = 0) && decide (w.mrnd = 0) && decide (w.msat = 0) && decide (w.ta = 0) && decide (w.tb = 0) && decide (w.cfn.toNat < 16)
  | .mscl w => decide (w.ga = 0) && decide (w.gb = 0) && decide (w.ca = 0) && decide (w.cb = 0) && decide (w.kk = 0) && decide (w.mtype = 0) && decide (w.ta = 0) && decide (w.tb = 0) && decide (w.cfn = 0) && rndOk w.mrnd
  | .mset w => decide (w.fn = 0) && decide (w.imm.toNat < 2 ^ 32)
  | .minc w => decide (w.fn = 0) && decide (w.imm.toNat < 2 ^ 32)
  | .mrep w => decide (w.fn = 0) && decide (w.imm.toNat < 2 ^ 51)
  | .mfence w => decide (w.fn = 0) && decide (w.creg = 0) && decide (w.imm.toNat < 256) && decide (w.imm ≠ 0)
  | .mbarv w => decide (w.fn = 0) && decide (w.creg = 0) && mbarvOk w.imm
  | .mfin w => decide (w.fn = 0) && decide (w.creg = 0) && decide (w.imm = 0)
  | .mnop w => decide (w.fn = 0) && decide (w.creg = 0) && decide (w.imm = 0)
  | .forwardedArrival => true
  | .xLanding => true
  | .loadReturn => true
  | .uncorrectableLoadDelivery => true
  | .vpushArrival => true
  | .xqEntryArrival => true
  | .streamVectorFetch => true
  | .copyChunkLanding => true
  | .matrixCommandComplete => true
  | .matrixFetchFault => true
  | .matrixGlyphInvalid => true
  | .leaseGrant => true
  | .headerEntry => true
  | .headerWaitRelease => true
  | .sectionRetirement => true
  | .xIssue => true
  | .trapDelivery => true
  | .rubricatorTrap => true
  | .pendingWriteReplay => true
  | .faultRecordPost => true
  | .answerResume => true
  | .answerSkip => true
  | .answerEnd => true
  | .answerAbandon => true
  | .watchdogExpiry => true
  | .taskUnpark => true
  | .taskWaitsReached => true
  | .taskPlacement => true
  | .contextLoadComplete => true
  | .armingCompletion => true
  | .preemptDrainEnd => true
  | .preemptDrainTimeout => true
  | .preemptSaveComplete => true
  | .queueLaunchAction => true
  | .queueCopyAction => true
  | .queueSemAction => true
  | .queueHirqAction => true
  | .inkTick => true
  | .inkGrant => true
  | .regionExpiry => true
  | .overdraw => true
  | .sensorCheck => true
  | .clusterClamp => true
  | .pairMeasurement => true
  | .droopDetect => true
  | .governorEvaluation => true
  | .ceilingChange => true
  | .baselineJoin => true
  | .baselineLeave => true
  | .baselineCommandMalformed => true
  | .baselineJoinReply => true
  | .baselineJoinTimeout => true
  | .baselineAnnouncement => true
  | .heartbeatSend => true
  | .heartbeatReceive => true
  | .silentDrop => true
  | .memberExclusion => true
  | .serviceAreaRead => true
  | .blotterVisit => true
  | .conversionSwitch => true
  | .blotterAccessRefused => true
  | .migrationStart => true
  | .migrationSwitch => true
  | .pagedWrite => true
  | .copyOnWrite => true
  | .folioDeferredFree => true
  | .ctlInval => true
  | .invalidationComplete => true
  | .ctlRuling => true
  | .reRulingComplete => true
  | .ctlMirlen => true
  | .bankRetirement => true
  | .bankSwapSwitch => true
  | .eccRetry => true
  | .remapVoteFreeze => true
  | .towerSeal => true
  | .proofingPatternStart => true
  | .proofingPatternEnd => true
  | .proofingAbort => true
  | .gegilFlitReceive => true
  | .portRetrain => true
  | .remoteRequestApply => true
  | .remoteResponse => true
  | .wakeWrite => true
  | .remoteResend => true
  | .pathFailure => true
  | .tagFilterExpiry => true
  | .tscTimingExchange => true
  | .tscSyncLoss => true
  | .collectiveDataPhase => true
  | .collectiveCompletion => true
  | .collectiveStop => true
  | .collectiveAbandonMessage => true
  | .towerReset => true
  | .bootLenWrite => true
  | .bootVerifyDone => true
  | .attGo => true
  | .attReportDone => true
  | .hmbCtl => true
  | .hmbPend => true
  | .hostBarAccess => true
  | .hostWashChunkWrite => true
  | .msixSend => true
  | .monitorRecord => true
  | .pcSample => true
  | .registerWrite => true
  | .walkCompletion => true
  | .linkTrainingComplete => true
  | .mailboxBufferWrite => true

end Sys2Proof
end

