-- ==== Sys2Proof/Decode.lean ====
section
/-! DEFINITION. Decoding, total on any bits and refusing by name, and the encoder. The three streams decode their own opcode
spaces (R104); the Rubricator decodes the A space with the changes of R119. -/

namespace Sys2Proof

/-- Bits side by side, the first operand above the second. -/
def cat {a b : Nat} (n : Nat) (x : BitVec a) (y : BitVec b) : BitVec n := BitVec.ofNat n (x.toNat * 2 ^ b + y.toNat)

/-- The fields of a word in the AR format. -/
def getAR (v : BitVec 96) : AR :=
  { fn := v.extractLsb' 80 8, d := v.extractLsb' 74 6, a := v.extractLsb' 68 6, b := v.extractLsb' 62 6, c := v.extractLsb' 56 6 }

/-- The word in the AR format with opcode `op` and these fields. -/
def putAR (op : BitVec 8) (w : AR) : BitVec 96 :=
  cat 96 op (cat 88 w.fn (cat 80 w.d (cat 74 w.a (cat 68 w.b (cat 62 w.c 0#56)))))

/-- The fields of a word in the AI format. -/
def getAI (v : BitVec 96) : AI :=
  { fn := v.extractLsb' 80 8, d := v.extractLsb' 74 6, a := v.extractLsb' 68 6, imm := v.extractLsb' 0 64 }

/-- The word in the AI format with opcode `op` and these fields. -/
def putAI (op : BitVec 8) (w : AI) : BitVec 96 :=
  cat 96 op (cat 88 w.fn (cat 80 w.d (cat 74 w.a (cat 68 0#4 w.imm))))

/-- The fields of a word in the AM format. -/
def getAM (v : BitVec 96) : AM :=
  { size := v.extractLsb' 86 2, sx := v.extractLsb' 85 1, scope := v.extractLsb' 82 3, hint := v.extractLsb' 80 2, d := v.extractLsb' 74 6, base := v.extractLsb' 68 6, index := v.extractLsb' 62 6, shift := v.extractLsb' 60 2, off := v.extractLsb' 0 48 }

/-- The word in the AM format with opcode `op` and these fields. -/
def putAM (op : BitVec 8) (w : AM) : BitVec 96 :=
  cat 96 op (cat 88 w.size (cat 86 w.sx (cat 85 w.scope (cat 82 w.hint (cat 80 w.d (cat 74 w.base (cat 68 w.index (cat 62 w.shift (cat 60 0#12 w.off)))))))))

/-- The fields of a word in the AB format. -/
def getAB (v : BitVec 96) : AB :=
  { cc := v.extractLsb' 80 8, a := v.extractLsb' 74 6, b := v.extractLsb' 68 6, off := v.extractLsb' 0 48 }

/-- The word in the AB format with opcode `op` and these fields. -/
def putAB (op : BitVec 8) (w : AB) : BitVec 96 :=
  cat 96 op (cat 88 w.cc (cat 80 w.a (cat 74 w.b (cat 68 0#20 w.off))))

/-- The fields of a word in the AC format. -/
def getAC (v : BitVec 96) : AC :=
  { fn := v.extractLsb' 80 8, gd := v.extractLsb' 70 10, gs := v.extractLsb' 60 10, d := v.extractLsb' 54 6, a := v.extractLsb' 48 6, b := v.extractLsb' 42 6, ext := v.extractLsb' 36 6, bar := v.extractLsb' 25 11, scope := v.extractLsb' 22 3, acq := v.extractLsb' 21 1, rel := v.extractLsb' 20 1, hnd := v.extractLsb' 19 1, wash := v.extractLsb' 18 1, opt := v.extractLsb' 14 4 }

/-- The word in the AC format with opcode `op` and these fields. -/
def putAC (op : BitVec 8) (w : AC) : BitVec 96 :=
  cat 96 op (cat 88 w.fn (cat 80 w.gd (cat 70 w.gs (cat 60 w.d (cat 54 w.a (cat 48 w.b (cat 42 w.ext (cat 36 w.bar (cat 25 w.scope (cat 22 w.acq (cat 21 w.rel (cat 20 w.hnd (cat 19 w.wash (cat 18 w.opt 0#14))))))))))))))

/-- The fields of a word in the AQ format. -/
def getAQ (v : BitVec 96) : AQ :=
  { fn := v.extractLsb' 80 8, sem := v.extractLsb' 60 12, d := v.extractLsb' 54 6, a := v.extractLsb' 48 6, b := v.extractLsb' 42 6, scope := v.extractLsb' 22 3, acq := v.extractLsb' 21 1, rel := v.extractLsb' 20 1 }

/-- The word in the AQ format with opcode `op` and these fields. -/
def putAQ (op : BitVec 8) (w : AQ) : BitVec 96 :=
  cat 96 op (cat 88 w.fn (cat 80 0#8 (cat 72 w.sem (cat 60 w.d (cat 54 w.a (cat 48 w.b (cat 42 0#17 (cat 25 w.scope (cat 22 w.acq (cat 21 w.rel 0#20))))))))))

/-- The fields of a word in the AS format. -/
def getAS (v : BitVec 96) : AS :=
  { fn := v.extractLsb' 80 8, d := v.extractLsb' 74 6, a := v.extractLsb' 68 6, b := v.extractLsb' 62 6, obj := v.extractLsb' 48 12, imm := v.extractLsb' 0 48 }

/-- The word in the AS format with opcode `op` and these fields. -/
def putAS (op : BitVec 8) (w : AS) : BitVec 96 :=
  cat 96 op (cat 88 w.fn (cat 80 w.d (cat 74 w.a (cat 68 w.b (cat 62 0#2 (cat 60 w.obj w.imm))))))

/-- The fields of a word in the XV3 format. -/
def getXV3 (v : BitVec 96) : XV3 :=
  { k := v.extractLsb' 84 4, d := v.extractLsb' 67 17, a := v.extractLsb' 50 17, b := v.extractLsb' 33 17, md := v.extractLsb' 21 12, ty := v.extractLsb' 17 4, rnd := v.extractLsb' 14 3, sat := v.extractLsb' 13 1, sgn := v.extractLsb' 11 2, reuse := v.extractLsb' 9 2, dead := v.extractLsb' 7 2, fn := v.extractLsb' 0 7 }

/-- The word in the XV3 format with opcode `op` and these fields. -/
def putXV3 (op : BitVec 8) (w : XV3) : BitVec 96 :=
  cat 96 op (cat 88 w.k (cat 84 w.d (cat 67 w.a (cat 50 w.b (cat 33 w.md (cat 21 w.ty (cat 17 w.rnd (cat 14 w.sat (cat 13 w.sgn (cat 11 w.reuse (cat 9 w.dead w.fn)))))))))))

/-- The fields of a word in the XV4 format. -/
def getXV4 (v : BitVec 96) : XV4 :=
  { k := v.extractLsb' 84 4, d := v.extractLsb' 67 17, a := v.extractLsb' 50 17, b := v.extractLsb' 33 17, c := v.extractLsb' 16 17, ty := v.extractLsb' 12 4, rnd := v.extractLsb' 9 3, sat := v.extractLsb' 8 1, sgn := v.extractLsb' 6 2, dead := v.extractLsb' 3 3, fn := v.extractLsb' 0 3 }

/-- The word in the XV4 format with opcode `op` and these fields. -/
def putXV4 (op : BitVec 8) (w : XV4) : BitVec 96 :=
  cat 96 op (cat 88 w.k (cat 84 w.d (cat 67 w.a (cat 50 w.b (cat 33 w.c (cat 16 w.ty (cat 12 w.rnd (cat 9 w.sat (cat 8 w.sgn (cat 6 w.dead w.fn))))))))))

/-- The fields of a word in the XI format. -/
def getXI (v : BitVec 96) : XI :=
  { k := v.extractLsb' 84 4, d := v.extractLsb' 67 17, a := v.extractLsb' 50 17, imm := v.extractLsb' 18 32, ty := v.extractLsb' 14 4, rnd := v.extractLsb' 11 3, sat := v.extractLsb' 10 1, fn := v.extractLsb' 0 10 }

/-- The word in the XI format with opcode `op` and these fields. -/
def putXI (op : BitVec 8) (w : XI) : BitVec 96 :=
  cat 96 op (cat 88 w.k (cat 84 w.d (cat 67 w.a (cat 50 w.imm (cat 18 w.ty (cat 14 w.rnd (cat 11 w.sat w.fn)))))))

/-- The fields of a word in the XC format. -/
def getXC (v : BitVec 96) : XC :=
  { k := v.extractLsb' 84 4, fn := v.extractLsb' 76 8, lc := v.extractLsb' 74 2, csrc := v.extractLsb' 72 2, q := v.extractLsb' 69 3, count := v.extractLsb' 32 32, off := v.extractLsb' 0 32 }

/-- The word in the XC format with opcode `op` and these fields. -/
def putXC (op : BitVec 8) (w : XC) : BitVec 96 :=
  cat 96 op (cat 88 w.k (cat 84 w.fn (cat 76 w.lc (cat 74 w.csrc (cat 72 w.q (cat 69 0#5 (cat 64 w.count w.off)))))))

/-- The fields of a word in the MC format. -/
def getMC (v : BitVec 96) : MC :=
  { ms := v.extractLsb' 85 3, ga := v.extractLsb' 75 10, gb := v.extractLsb' 65 10, ca := v.extractLsb' 60 5, cb := v.extractLsb' 55 5, ct := v.extractLsb' 50 5, kk := v.extractLsb' 34 16, acc := v.extractLsb' 31 3, mtype := v.extractLsb' 27 4, mrnd := v.extractLsb' 24 3, msat := v.extractLsb' 23 1, ta := v.extractLsb' 22 1, tb := v.extractLsb' 21 1, cfn := v.extractLsb' 0 21 }

/-- The word in the MC format with opcode `op` and these fields. -/
def putMC (op : BitVec 8) (w : MC) : BitVec 96 :=
  cat 96 op (cat 88 w.ms (cat 85 w.ga (cat 75 w.gb (cat 65 w.ca (cat 60 w.cb (cat 55 w.ct (cat 50 w.kk (cat 34 w.acc (cat 31 w.mtype (cat 27 w.mrnd (cat 24 w.msat (cat 23 w.ta (cat 22 w.tb w.cfn)))))))))))))

/-- The fields of a word in the MS format. -/
def getMS (v : BitVec 96) : MS :=
  { fn := v.extractLsb' 80 8, creg := v.extractLsb' 75 5, imm := v.extractLsb' 0 64 }

/-- The word in the MS format with opcode `op` and these fields. -/
def putMS (op : BitVec 8) (w : MS) : BitVec 96 :=
  cat 96 op (cat 88 w.fn (cat 80 w.creg (cat 75 0#11 w.imm)))

/-- Row 0x0 of Table 4.1. -/
def rawA0 (lo : Nat) (v : BitVec 96) : Option Instr :=
  if lo = 1 then some (.add (getAR v))
  else if lo = 2 then some (.sub (getAR v))
  else if lo = 3 then some (.addi (getAI v))
  else if lo = 4 then some (.mul (getAR v))
  else if lo = 5 then some (.mulh (getAR v))
  else if lo = 6 then some (.mulhn (getAR v))
  else if lo = 7 then some (.div (getAR v))
  else if lo = 8 then some (.divn (getAR v))
  else if lo = 9 then some (.rem (getAR v))
  else if lo = 10 then some (.remn (getAR v))
  else if lo = 11 then some (.and (getAR v))
  else if lo = 12 then some (.or (getAR v))
  else if lo = 13 then some (.xor (getAR v))
  else if lo = 14 then some (.andn (getAR v))
  else if lo = 15 then some (.shl (getAR v))
  else none

/-- Row 0x1 of Table 4.1. -/
def rawA1 (lo : Nat) (v : BitVec 96) : Option Instr :=
  if lo = 0 then some (.shr (getAR v))
  else if lo = 1 then some (.sra (getAR v))
  else if lo = 2 then some (.rol (getAR v))
  else if lo = 3 then some (.ror (getAR v))
  else if lo = 4 then some (.clz (getAR v))
  else if lo = 5 then some (.ctz (getAR v))
  else if lo = 6 then some (.popc (getAR v))
  else if lo = 7 then some (.min (getAR v))
  else if lo = 8 then some (.max (getAR v))
  else if lo = 9 then some (.minn (getAR v))
  else if lo = 10 then some (.maxn (getAR v))
  else if lo = 11 then some (.sel (getAR v))
  else if lo = 12 then some (.slt (getAR v))
  else if lo = 13 then some (.sltn (getAR v))
  else if lo = 14 then some (.seq (getAR v))
  else if lo = 15 then some (.li (getAI v))
  else none

/-- Row 0x2 of Table 4.1. -/
def rawA2 (lo : Nat) (v : BitVec 96) : Option Instr :=
  if lo = 0 then some (.bfx (getAI v))
  else if lo = 1 then some (.bfi (getAI v))
  else if lo = 2 then some (.adds (getAR v))
  else none

/-- Row 0x3 of Table 4.1. -/
def rawA3 (lo : Nat) (v : BitVec 96) : Option Instr :=
  if lo = 0 then some (.b (getAB v))
  else if lo = 1 then some (.j (getAB v))
  else if lo = 2 then some (.jal (getAB v))
  else if lo = 3 then some (.jr (getAR v))
  else if lo = 4 then some (.bqp (getAB v))
  else if lo = 5 then some (.fin (getAR v))
  else if lo = 6 then some (.nop (getAR v))
  else none

/-- Row 0x4 of Table 4.1. -/
def rawA4 (lo : Nat) (v : BitVec 96) : Option Instr :=
  if lo = 0 then some (.ld (getAM v))
  else if lo = 1 then some (.st (getAM v))
  else if lo = 2 then some (.lds (getAM v))
  else if lo = 3 then some (.sts (getAM v))
  else if lo = 4 then some (.ldx (getAC v))
  else if lo = 5 then some (.stx (getAC v))
  else if lo = 6 then some (.gath (getAC v))
  else if lo = 7 then some (.scat (getAC v))
  else if lo = 8 then some (.pref (getAM v))
  else if lo = 9 then some (.fence (getAR v))
  else none

/-- Row 0x5 of Table 4.1. -/
def rawA5 (lo : Nat) (v : BitVec 96) : Option Instr :=
  if lo = 0 then some (.cpy (getAC v))
  else if lo = 1 then (let w := getAC v; if w.opt.getLsbD 0 = false then some (.cpyvIn w) else some (.cpyvOut w))
  else if lo = 2 then some (.cpyb (getAC v))
  else if lo = 3 then some (.cpyx (getAC v))
  else if lo = 4 then some (.sbind (getAC v))
  else if lo = 5 then some (.sdrop (getAC v))
  else if lo = 6 then some (.gdef (getAC v))
  else if lo = 7 then some (.gset (getAC v))
  else if lo = 8 then some (.gget (getAC v))
  else if lo = 9 then some (.falloc (getAC v))
  else if lo = 10 then some (.faddref (getAC v))
  else if lo = 11 then some (.fdrop (getAC v))
  else if lo = 12 then some (.pseal (getAC v))
  else none

/-- Row 0x6 of Table 4.1. -/
def rawA6 (lo : Nat) (v : BitVec 96) : Option Instr :=
  if lo = 0 then some (.bxp (getAC v))
  else if lo = 1 then some (.barv (getAC v))
  else if lo = 2 then some (.bwt (getAC v))
  else if lo = 3 then some (.btst (getAC v))
  else if lo = 4 then some (.bbnd (getAC v))
  else if lo = 5 then some (.bubd (getAC v))
  else if lo = 6 then some (.bfwd (getAC v))
  else if lo = 7 then some (.sadd (getAQ v))
  else if lo = 8 then some (.scas (getAQ v))
  else if lo = 9 then some (.smax (getAQ v))
  else if lo = 10 then some (.sxch (getAQ v))
  else if lo = 11 then some (.srd (getAQ v))
  else if lo = 12 then some (.swt (getAQ v))
  else none

/-- Row 0x7 of Table 4.1. -/
def rawA7 (lo : Nat) (v : BitVec 96) : Option Instr :=
  if lo = 0 then some (.inkq (getAS v))
  else if lo = 1 then some (.inkr (getAS v))
  else if lo = 2 then some (.trap (getAS v))
  else if lo = 3 then some (.tret (getAS v))
  else if lo = 4 then some (.csrr (getAS v))
  else if lo = 5 then some (.csrw (getAS v))
  else if lo = 6 then some (.tsc (getAS v))
  else if lo = 7 then (let w := getAS v; if w.imm.extractLsb' 0 2 = 0 then some (.parkBar w) else if w.imm.extractLsb' 0 2 = 1 then some (.parkSem w) else if w.imm.extractLsb' 0 2 = 2 then some (.parkMbx w) else some (.parkInk w))
  else if lo = 8 then some (.yield (getAS v))
  else if lo = 9 then some (.lgo (getAS v))
  else if lo = 10 then some (.lpatch (getAS v))
  else if lo = 11 then (let w := getAS v; if w.fn.extractLsb' 0 2 = 0 then some (.qentLaunch w) else if w.fn.extractLsb' 0 2 = 1 then some (.qentCopy w) else if w.fn.extractLsb' 0 2 = 2 then some (.qentSem w) else some (.qentHirq w))
  else if lo = 12 then some (.mbxr (getAS v))
  else if lo = 13 then some (.mbxs (getAS v))
  else if lo = 14 then some (.hirq (getAS v))
  else if lo = 15 then some (.preempt (getAS v))
  else none

/-- Row 0x8 of Table 4.1. -/
def rawA8 (lo : Nat) (v : BitVec 96) : Option Instr :=
  if lo = 0 then some (.proofStart (getAS v))
  else if lo = 1 then some (.sampm (getAS v))
  else none

/-- The instruction of the A stream whose opcode the word has, its fields as they stand (Table 4.1). -/
def rawA (v : BitVec 96) : Option Instr :=
  let hi := (v.extractLsb' 92 4).toNat
  let lo := (v.extractLsb' 88 4).toNat
  if hi = 0 then rawA0 lo v
  else if hi = 1 then rawA1 lo v
  else if hi = 2 then rawA2 lo v
  else if hi = 3 then rawA3 lo v
  else if hi = 4 then rawA4 lo v
  else if hi = 5 then rawA5 lo v
  else if hi = 6 then rawA6 lo v
  else if hi = 7 then rawA7 lo v
  else if hi = 8 then rawA8 lo v
  else none

/-- Row 0x0 of Table 4.5. -/
def rawX0 (lo : Nat) (v : BitVec 96) : Option Instr :=
  if lo = 1 then some (.vadd (getXV3 v))
  else if lo = 2 then some (.vsub (getXV3 v))
  else if lo = 3 then some (.vmul (getXV3 v))
  else if lo = 4 then some (.vmulh (getXV3 v))
  else if lo = 5 then some (.vmad (getXV4 v))
  else if lo = 6 then some (.vdot4 (getXV4 v))
  else if lo = 7 then some (.vdot8 (getXV4 v))
  else if lo = 8 then some (.vmin (getXV3 v))
  else if lo = 9 then some (.vmax (getXV3 v))
  else if lo = 10 then some (.vabs (getXV3 v))
  else if lo = 11 then some (.vabsd (getXV3 v))
  else if lo = 12 then some (.vneg (getXV3 v))
  else if lo = 13 then some (.vavg (getXV3 v))
  else if lo = 14 then some (.vshl (getXV3 v))
  else if lo = 15 then some (.vshr (getXV3 v))
  else none

/-- Row 0x1 of Table 4.5. -/
def rawX1 (lo : Nat) (v : BitVec 96) : Option Instr :=
  if lo = 0 then some (.vsra (getXV3 v))
  else if lo = 1 then some (.vrsh (getXV3 v))
  else if lo = 2 then some (.vand (getXV3 v))
  else if lo = 3 then some (.vor (getXV3 v))
  else if lo = 4 then some (.vxor (getXV3 v))
  else if lo = 5 then some (.vandn (getXV3 v))
  else if lo = 6 then some (.vnot (getXV3 v))
  else if lo = 7 then some (.vpopc (getXV3 v))
  else if lo = 8 then some (.vclz (getXV3 v))
  else if lo = 9 then some (.vsel (getXV4 v))
  else if lo = 10 then some (.vcmp (getXV3 v))
  else if lo = 11 then some (.vclamp (getXV4 v))
  else none

/-- Row 0x2 of Table 4.5. -/
def rawX2 (lo : Nat) (v : BitVec 96) : Option Instr :=
  if lo = 0 then some (.vfadd (getXV3 v))
  else if lo = 1 then some (.vfsub (getXV3 v))
  else if lo = 2 then some (.vfmul (getXV3 v))
  else if lo = 3 then some (.vfma (getXV4 v))
  else if lo = 4 then some (.vfms (getXV4 v))
  else if lo = 5 then some (.vfnma (getXV4 v))
  else if lo = 6 then some (.vfmin (getXV3 v))
  else if lo = 7 then some (.vfmax (getXV3 v))
  else if lo = 8 then some (.vfabs (getXV3 v))
  else if lo = 9 then some (.vfneg (getXV3 v))
  else if lo = 10 then some (.vfcmp (getXV3 v))
  else if lo = 11 then some (.vfclass (getXV3 v))
  else if lo = 12 then some (.vrcp (getXV3 v))
  else if lo = 13 then some (.vrsq (getXV3 v))
  else if lo = 14 then some (.vsqrt (getXV3 v))
  else if lo = 15 then some (.vdiv (getXV3 v))
  else none

/-- Row 0x3 of Table 4.5. -/
def rawX3 (lo : Nat) (v : BitVec 96) : Option Instr :=
  if lo = 0 then some (.vexp2 (getXV3 v))
  else if lo = 1 then some (.vlog2 (getXV3 v))
  else if lo = 2 then some (.vfscl (getXV3 v))
  else none

/-- Row 0x4 of Table 4.5. -/
def rawX4 (lo : Nat) (v : BitVec 96) : Option Instr :=
  if lo = 0 then some (.vcvt (getXV3 v))
  else if lo = 1 then some (.vcvte (getXV4 v))
  else if lo = 2 then some (.vqmx (getXV3 v))
  else if lo = 3 then some (.vdqmx (getXV3 v))
  else if lo = 4 then some (.vamax (getXV3 v))
  else if lo = 5 then (let w := getXI v; if w.imm.getLsbD 0 = false then some (.eset w) else some (.esetImm w))
  else if lo = 6 then some (.eget (getXI v))
  else none

/-- Row 0x5 of Table 4.5. -/
def rawX5 (lo : Nat) (v : BitVec 96) : Option Instr :=
  if lo = 0 then some (.vred (getXV3 v))
  else if lo = 1 then some (.vscan (getXV3 v))
  else if lo = 2 then some (.vrsum (getXV3 v))
  else none

/-- Row 0x6 of Table 4.5. -/
def rawX6 (lo : Nat) (v : BitVec 96) : Option Instr :=
  if lo = 0 then some (.vperm (getXV3 v))
  else if lo = 1 then some (.vbcst (getXV3 v))
  else if lo = 2 then some (.vzip (getXV3 v))
  else if lo = 3 then some (.vunzip (getXV3 v))
  else if lo = 4 then some (.vpack (getXV3 v))
  else if lo = 5 then some (.vunpk (getXV3 v))
  else if lo = 6 then some (.vlsh (getXI v))
  else if lo = 7 then some (.vmov (getXV3 v))
  else if lo = 8 then some (.vmovi (getXI v))
  else none

/-- Row 0x7 of Table 4.5. -/
def rawX7 (lo : Nat) (v : BitVec 96) : Option Instr :=
  if lo = 0 then some (.vbf2 (getXV4 v))
  else if lo = 1 then some (.vbf4 (getXV4 v))
  else if lo = 2 then some (.vtwg (getXI v))
  else if lo = 3 then some (.vcmul (getXV3 v))
  else if lo = 4 then some (.vcmac (getXV4 v))
  else if lo = 8 then some (.kand (getXI v))
  else if lo = 9 then some (.kor (getXI v))
  else if lo = 10 then some (.kxor (getXI v))
  else if lo = 11 then some (.knot (getXI v))
  else if lo = 12 then (let w := getXI v; if w.fn = 0 then some (.ksetLt w) else if w.fn = 1 then some (.ksetGe w) else some (.ksetMod w))
  else if lo = 13 then (let w := getXI v; if w.fn = 0 then some (.kmov w) else if w.fn = 1 then some (.kmovFromv w) else some (.kmovTov w))
  else none

/-- Row 0x8 of Table 4.5. -/
def rawX8 (lo : Nat) (v : BitVec 96) : Option Instr :=
  if lo = 0 then some (.loop (getXC v))
  else if lo = 1 then some (.loopr (getXC v))
  else if lo = 2 then some (.xb (getXC v))
  else if lo = 3 then some (.xbk (getXC v))
  else if lo = 4 then some (.xj (getXC v))
  else if lo = 5 then some (.xfin (getXC v))
  else none

/-- Row 0x9 of Table 4.5. -/
def rawX9 (lo : Nat) (v : BitVec 96) : Option Instr :=
  if lo = 0 then some (.vdead (getXI v))
  else if lo = 1 then some (.vpush (getXI v))
  else none

/-- The instruction of the X stream whose opcode the word has, its fields as they stand (Table 4.5). -/
def rawX (v : BitVec 96) : Option Instr :=
  let hi := (v.extractLsb' 92 4).toNat
  let lo := (v.extractLsb' 88 4).toNat
  if hi = 0 then rawX0 lo v
  else if hi = 1 then rawX1 lo v
  else if hi = 2 then rawX2 lo v
  else if hi = 3 then rawX3 lo v
  else if hi = 4 then rawX4 lo v
  else if hi = 5 then rawX5 lo v
  else if hi = 6 then rawX6 lo v
  else if hi = 7 then rawX7 lo v
  else if hi = 8 then rawX8 lo v
  else if hi = 9 then rawX9 lo v
  else none

/-- Row 0x0 of Table 4.8. -/
def rawM0 (lo : Nat) (v : BitVec 96) : Option Instr :=
  if lo = 1 then some (.lease (getMS v))
  else if lo = 2 then some (.lfree (getMS v))
  else if lo = 3 then some (.mma (getMC v))
  else if lo = 4 then some (.mmaz (getMC v))
  else if lo = 5 then some (.mmb (getMC v))
  else if lo = 6 then some (.mmi (getMC v))
  else if lo = 7 then some (.mclr (getMC v))
  else if lo = 8 then some (.mld (getMC v))
  else if lo = 9 then some (.mst (getMC v))
  else if lo = 10 then some (.madd (getMC v))
  else if lo = 11 then some (.mscl (getMC v))
  else if lo = 12 then some (.mset (getMS v))
  else if lo = 13 then some (.minc (getMS v))
  else if lo = 14 then some (.mrep (getMS v))
  else if lo = 15 then some (.mfence (getMS v))
  else none

/-- Row 0x1 of Table 4.8. -/
def rawM1 (lo : Nat) (v : BitVec 96) : Option Instr :=
  if lo = 0 then some (.mbarv (getMS v))
  else if lo = 1 then some (.mfin (getMS v))
  else if lo = 2 then some (.mnop (getMS v))
  else none

/-- The instruction of the M stream whose opcode the word has, its fields as they stand (Table 4.8). -/
def rawM (v : BitVec 96) : Option Instr :=
  let hi := (v.extractLsb' 92 4).toNat
  let lo := (v.extractLsb' 88 4).toNat
  if hi = 0 then rawM0 lo v
  else if hi = 1 then rawM1 lo v
  else none

/-- The steps that are no encoded words, in the order of the opcode table: part 0. -/
def eventNames0 : List Instr :=
  [Instr.forwardedArrival, Instr.xLanding, Instr.loadReturn, Instr.uncorrectableLoadDelivery, Instr.vpushArrival, Instr.xqEntryArrival, Instr.streamVectorFetch, Instr.copyChunkLanding, Instr.matrixCommandComplete, Instr.matrixFetchFault, Instr.matrixGlyphInvalid, Instr.leaseGrant, Instr.headerEntry, Instr.headerWaitRelease, Instr.sectionRetirement, Instr.xIssue, Instr.trapDelivery, Instr.rubricatorTrap, Instr.pendingWriteReplay, Instr.faultRecordPost]

/-- The steps that are no encoded words, in the order of the opcode table: part 1. -/
def eventNames1 : List Instr :=
  [Instr.answerResume, Instr.answerSkip, Instr.answerEnd, Instr.answerAbandon, Instr.watchdogExpiry, Instr.taskUnpark, Instr.taskWaitsReached, Instr.taskPlacement, Instr.contextLoadComplete, Instr.armingCompletion, Instr.preemptDrainEnd, Instr.preemptDrainTimeout, Instr.preemptSaveComplete, Instr.queueLaunchAction, Instr.queueCopyAction, Instr.queueSemAction, Instr.queueHirqAction, Instr.inkTick, Instr.inkGrant, Instr.regionExpiry]

/-- The steps that are no encoded words, in the order of the opcode table: part 2. -/
def eventNames2 : List Instr :=
  [Instr.overdraw, Instr.sensorCheck, Instr.clusterClamp, Instr.pairMeasurement, Instr.droopDetect, Instr.governorEvaluation, Instr.ceilingChange, Instr.baselineJoin, Instr.baselineLeave, Instr.baselineCommandMalformed, Instr.baselineJoinReply, Instr.baselineJoinTimeout, Instr.baselineAnnouncement, Instr.heartbeatSend, Instr.heartbeatReceive, Instr.silentDrop, Instr.memberExclusion, Instr.serviceAreaRead, Instr.blotterVisit, Instr.conversionSwitch]

/-- The steps that are no encoded words, in the order of the opcode table: part 3. -/
def eventNames3 : List Instr :=
  [Instr.blotterAccessRefused, Instr.migrationStart, Instr.migrationSwitch, Instr.pagedWrite, Instr.copyOnWrite, Instr.folioDeferredFree, Instr.ctlInval, Instr.invalidationComplete, Instr.ctlRuling, Instr.reRulingComplete, Instr.ctlMirlen, Instr.bankRetirement, Instr.bankSwapSwitch, Instr.eccRetry, Instr.remapVoteFreeze, Instr.towerSeal, Instr.proofingPatternStart, Instr.proofingPatternEnd, Instr.proofingAbort, Instr.gegilFlitReceive]

/-- The steps that are no encoded words, in the order of the opcode table: part 4. -/
def eventNames4 : List Instr :=
  [Instr.portRetrain, Instr.remoteRequestApply, Instr.remoteResponse, Instr.wakeWrite, Instr.remoteResend, Instr.pathFailure, Instr.tagFilterExpiry, Instr.tscTimingExchange, Instr.tscSyncLoss, Instr.collectiveDataPhase, Instr.collectiveCompletion, Instr.collectiveStop, Instr.collectiveAbandonMessage, Instr.towerReset, Instr.bootLenWrite, Instr.bootVerifyDone, Instr.attGo, Instr.attReportDone, Instr.hmbCtl, Instr.hmbPend]

/-- The steps that are no encoded words, in the order of the opcode table: part 5. -/
def eventNames5 : List Instr :=
  [Instr.hostBarAccess, Instr.hostWashChunkWrite, Instr.msixSend, Instr.monitorRecord, Instr.pcSample, Instr.registerWrite, Instr.walkCompletion, Instr.linkTrainingComplete, Instr.mailboxBufferWrite]

/-- The steps that are no encoded words, in the order of the opcode table. -/
def eventNames : List Instr :=
  eventNames0 ++ eventNames1 ++ eventNames2 ++ eventNames3 ++ eventNames4 ++ eventNames5

/-- The word of an instruction, written from the encoding tables of the manual. A PROOF word is the same for both actions
(R190); a step that is no word has its place among the steps in place of an opcode. -/
def encode : Instr → BitVec 96
  | .add w => putAR 0x01 w
  | .sub w => putAR 0x02 w
  | .addi w => putAI 0x03 w
  | .mul w => putAR 0x04 w
  | .mulh w => putAR 0x05 w
  | .mulhn w => putAR 0x06 w
  | .div w => putAR 0x07 w
  | .divn w => putAR 0x08 w
  | .rem w => putAR 0x09 w
  | .remn w => putAR 0x0A w
  | .and w => putAR 0x0B w
  | .or w => putAR 0x0C w
  | .xor w => putAR 0x0D w
  | .andn w => putAR 0x0E w
  | .shl w => putAR 0x0F w
  | .shr w => putAR 0x10 w
  | .sra w => putAR 0x11 w
  | .rol w => putAR 0x12 w
  | .ror w => putAR 0x13 w
  | .clz w => putAR 0x14 w
  | .ctz w => putAR 0x15 w
  | .popc w => putAR 0x16 w
  | .min w => putAR 0x17 w
  | .max w => putAR 0x18 w
  | .minn w => putAR 0x19 w
  | .maxn w => putAR 0x1A w
  | .sel w => putAR 0x1B w
  | .slt w => putAR 0x1C w
  | .sltn w => putAR 0x1D w
  | .seq w => putAR 0x1E w
  | .li w => putAI 0x1F w
  | .bfx w => putAI 0x20 w
  | .bfi w => putAI 0x21 w
  | .adds w => putAR 0x22 w
  | .b w => putAB 0x30 w
  | .j w => putAB 0x31 w
  | .jal w => putAB 0x32 w
  | .jr w => putAR 0x33 w
  | .bqp w => putAB 0x34 w
  | .fin w => putAR 0x35 w
  | .nop w => putAR 0x36 w
  | .ld w => putAM 0x40 w
  | .st w => putAM 0x41 w
  | .lds w => putAM 0x42 w
  | .sts w => putAM 0x43 w
  | .ldx w => putAC 0x44 w
  | .stx w => putAC 0x45 w
  | .gath w => putAC 0x46 w
  | .scat w => putAC 0x47 w
  | .pref w => putAM 0x48 w
  | .fence w => putAR 0x49 w
  | .cpy w => putAC 0x50 w
  | .cpyvIn w => putAC 0x51 w
  | .cpyvOut w => putAC 0x51 w
  | .cpyb w => putAC 0x52 w
  | .cpyx w => putAC 0x53 w
  | .sbind w => putAC 0x54 w
  | .sdrop w => putAC 0x55 w
  | .gdef w => putAC 0x56 w
  | .gset w => putAC 0x57 w
  | .gget w => putAC 0x58 w
  | .falloc w => putAC 0x59 w
  | .faddref w => putAC 0x5A w
  | .fdrop w => putAC 0x5B w
  | .pseal w => putAC 0x5C w
  | .bxp w => putAC 0x60 w
  | .barv w => putAC 0x61 w
  | .bwt w => putAC 0x62 w
  | .btst w => putAC 0x63 w
  | .bbnd w => putAC 0x64 w
  | .bubd w => putAC 0x65 w
  | .bfwd w => putAC 0x66 w
  | .sadd w => putAQ 0x67 w
  | .scas w => putAQ 0x68 w
  | .smax w => putAQ 0x69 w
  | .sxch w => putAQ 0x6A w
  | .srd w => putAQ 0x6B w
  | .swt w => putAQ 0x6C w
  | .inkq w => putAS 0x70 w
  | .inkr w => putAS 0x71 w
  | .trap w => putAS 0x72 w
  | .tret w => putAS 0x73 w
  | .csrr w => putAS 0x74 w
  | .csrw w => putAS 0x75 w
  | .tsc w => putAS 0x76 w
  | .parkBar w => putAS 0x77 w
  | .parkSem w => putAS 0x77 w
  | .parkMbx w => putAS 0x77 w
  | .parkInk w => putAS 0x77 w
  | .yield w => putAS 0x78 w
  | .lgo w => putAS 0x79 w
  | .lpatch w => putAS 0x7A w
  | .qentLaunch w => putAS 0x7B w
  | .qentCopy w => putAS 0x7B w
  | .qentSem w => putAS 0x7B w
  | .qentHirq w => putAS 0x7B w
  | .mbxr w => putAS 0x7C w
  | .mbxs w => putAS 0x7D w
  | .hirq w => putAS 0x7E w
  | .preempt w => putAS 0x7F w
  | .proofStart w => putAS 0x80 w
  | .proofAbort w => putAS 0x80 w
  | .sampm w => putAS 0x81 w
  | .vadd w => putXV3 0x01 w
  | .vsub w => putXV3 0x02 w
  | .vmul w => putXV3 0x03 w
  | .vmulh w => putXV3 0x04 w
  | .vmad w => putXV4 0x05 w
  | .vdot4 w => putXV4 0x06 w
  | .vdot8 w => putXV4 0x07 w
  | .vmin w => putXV3 0x08 w
  | .vmax w => putXV3 0x09 w
  | .vabs w => putXV3 0x0A w
  | .vabsd w => putXV3 0x0B w
  | .vneg w => putXV3 0x0C w
  | .vavg w => putXV3 0x0D w
  | .vshl w => putXV3 0x0E w
  | .vshr w => putXV3 0x0F w
  | .vsra w => putXV3 0x10 w
  | .vrsh w => putXV3 0x11 w
  | .vand w => putXV3 0x12 w
  | .vor w => putXV3 0x13 w
  | .vxor w => putXV3 0x14 w
  | .vandn w => putXV3 0x15 w
  | .vnot w => putXV3 0x16 w
  | .vpopc w => putXV3 0x17 w
  | .vclz w => putXV3 0x18 w
  | .vsel w => putXV4 0x19 w
  | .vcmp w => putXV3 0x1A w
  | .vclamp w => putXV4 0x1B w
  | .vfadd w => putXV3 0x20 w
  | .vfsub w => putXV3 0x21 w
  | .vfmul w => putXV3 0x22 w
  | .vfma w => putXV4 0x23 w
  | .vfms w => putXV4 0x24 w
  | .vfnma w => putXV4 0x25 w
  | .vfmin w => putXV3 0x26 w
  | .vfmax w => putXV3 0x27 w
  | .vfabs w => putXV3 0x28 w
  | .vfneg w => putXV3 0x29 w
  | .vfcmp w => putXV3 0x2A w
  | .vfclass w => putXV3 0x2B w
  | .vrcp w => putXV3 0x2C w
  | .vrsq w => putXV3 0x2D w
  | .vsqrt w => putXV3 0x2E w
  | .vdiv w => putXV3 0x2F w
  | .vexp2 w => putXV3 0x30 w
  | .vlog2 w => putXV3 0x31 w
  | .vfscl w => putXV3 0x32 w
  | .vcvt w => putXV3 0x40 w
  | .vcvte w => putXV4 0x41 w
  | .vqmx w => putXV3 0x42 w
  | .vdqmx w => putXV3 0x43 w
  | .vamax w => putXV3 0x44 w
  | .eset w => putXI 0x45 w
  | .esetImm w => putXI 0x45 w
  | .eget w => putXI 0x46 w
  | .vperm w => putXV3 0x60 w
  | .vbcst w => putXV3 0x61 w
  | .vzip w => putXV3 0x62 w
  | .vunzip w => putXV3 0x63 w
  | .vpack w => putXV3 0x64 w
  | .vunpk w => putXV3 0x65 w
  | .vlsh w => putXI 0x66 w
  | .vmov w => putXV3 0x67 w
  | .vmovi w => putXI 0x68 w
  | .vbf2 w => putXV4 0x70 w
  | .vbf4 w => putXV4 0x71 w
  | .vtwg w => putXI 0x72 w
  | .vcmul w => putXV3 0x73 w
  | .vcmac w => putXV4 0x74 w
  | .vred w => putXV3 0x50 w
  | .vscan w => putXV3 0x51 w
  | .vrsum w => putXV3 0x52 w
  | .kand w => putXI 0x78 w
  | .kor w => putXI 0x79 w
  | .kxor w => putXI 0x7A w
  | .knot w => putXI 0x7B w
  | .ksetLt w => putXI 0x7C w
  | .ksetGe w => putXI 0x7C w
  | .ksetMod w => putXI 0x7C w
  | .kmov w => putXI 0x7D w
  | .kmovFromv w => putXI 0x7D w
  | .kmovTov w => putXI 0x7D w
  | .loop w => putXC 0x80 w
  | .loopr w => putXC 0x81 w
  | .xb w => putXC 0x82 w
  | .xbk w => putXC 0x83 w
  | .xj w => putXC 0x84 w
  | .xfin w => putXC 0x85 w
  | .vdead w => putXI 0x90 w
  | .vpush w => putXI 0x91 w
  | .lease w => putMS 0x01 w
  | .lfree w => putMS 0x02 w
  | .mma w => putMC 0x03 w
  | .mmaz w => putMC 0x04 w
  | .mmb w => putMC 0x05 w
  | .mmi w => putMC 0x06 w
  | .mclr w => putMC 0x07 w
  | .mld w => putMC 0x08 w
  | .mst w => putMC 0x09 w
  | .madd w => putMC 0x0A w
  | .mscl w => putMC 0x0B w
  | .mset w => putMS 0x0C w
  | .minc w => putMS 0x0D w
  | .mrep w => putMS 0x0E w
  | .mfence w => putMS 0x0F w
  | .mbarv w => putMS 0x10 w
  | .mfin w => putMS 0x11 w
  | .mnop w => putMS 0x12 w
  | .forwardedArrival => cat 96 0x00#8 0#88
  | .xLanding => cat 96 0x01#8 0#88
  | .loadReturn => cat 96 0x02#8 0#88
  | .uncorrectableLoadDelivery => cat 96 0x03#8 0#88
  | .vpushArrival => cat 96 0x04#8 0#88
  | .xqEntryArrival => cat 96 0x05#8 0#88
  | .streamVectorFetch => cat 96 0x06#8 0#88
  | .copyChunkLanding => cat 96 0x07#8 0#88
  | .matrixCommandComplete => cat 96 0x08#8 0#88
  | .matrixFetchFault => cat 96 0x09#8 0#88
  | .matrixGlyphInvalid => cat 96 0x0A#8 0#88
  | .leaseGrant => cat 96 0x0B#8 0#88
  | .headerEntry => cat 96 0x0C#8 0#88
  | .headerWaitRelease => cat 96 0x0D#8 0#88
  | .sectionRetirement => cat 96 0x0E#8 0#88
  | .xIssue => cat 96 0x0F#8 0#88
  | .trapDelivery => cat 96 0x10#8 0#88
  | .rubricatorTrap => cat 96 0x11#8 0#88
  | .pendingWriteReplay => cat 96 0x12#8 0#88
  | .faultRecordPost => cat 96 0x13#8 0#88
  | .answerResume => cat 96 0x14#8 0#88
  | .answerSkip => cat 96 0x15#8 0#88
  | .answerEnd => cat 96 0x16#8 0#88
  | .answerAbandon => cat 96 0x17#8 0#88
  | .watchdogExpiry => cat 96 0x18#8 0#88
  | .taskUnpark => cat 96 0x19#8 0#88
  | .taskWaitsReached => cat 96 0x1A#8 0#88
  | .taskPlacement => cat 96 0x1B#8 0#88
  | .contextLoadComplete => cat 96 0x1C#8 0#88
  | .armingCompletion => cat 96 0x1D#8 0#88
  | .preemptDrainEnd => cat 96 0x1E#8 0#88
  | .preemptDrainTimeout => cat 96 0x1F#8 0#88
  | .preemptSaveComplete => cat 96 0x20#8 0#88
  | .queueLaunchAction => cat 96 0x21#8 0#88
  | .queueCopyAction => cat 96 0x22#8 0#88
  | .queueSemAction => cat 96 0x23#8 0#88
  | .queueHirqAction => cat 96 0x24#8 0#88
  | .inkTick => cat 96 0x25#8 0#88
  | .inkGrant => cat 96 0x26#8 0#88
  | .regionExpiry => cat 96 0x27#8 0#88
  | .overdraw => cat 96 0x28#8 0#88
  | .sensorCheck => cat 96 0x29#8 0#88
  | .clusterClamp => cat 96 0x2A#8 0#88
  | .pairMeasurement => cat 96 0x2B#8 0#88
  | .droopDetect => cat 96 0x2C#8 0#88
  | .governorEvaluation => cat 96 0x2D#8 0#88
  | .ceilingChange => cat 96 0x2E#8 0#88
  | .baselineJoin => cat 96 0x2F#8 0#88
  | .baselineLeave => cat 96 0x30#8 0#88
  | .baselineCommandMalformed => cat 96 0x31#8 0#88
  | .baselineJoinReply => cat 96 0x32#8 0#88
  | .baselineJoinTimeout => cat 96 0x33#8 0#88
  | .baselineAnnouncement => cat 96 0x34#8 0#88
  | .heartbeatSend => cat 96 0x35#8 0#88
  | .heartbeatReceive => cat 96 0x36#8 0#88
  | .silentDrop => cat 96 0x37#8 0#88
  | .memberExclusion => cat 96 0x38#8 0#88
  | .serviceAreaRead => cat 96 0x39#8 0#88
  | .blotterVisit => cat 96 0x3A#8 0#88
  | .conversionSwitch => cat 96 0x3B#8 0#88
  | .blotterAccessRefused => cat 96 0x3C#8 0#88
  | .migrationStart => cat 96 0x3D#8 0#88
  | .migrationSwitch => cat 96 0x3E#8 0#88
  | .pagedWrite => cat 96 0x3F#8 0#88
  | .copyOnWrite => cat 96 0x40#8 0#88
  | .folioDeferredFree => cat 96 0x41#8 0#88
  | .ctlInval => cat 96 0x42#8 0#88
  | .invalidationComplete => cat 96 0x43#8 0#88
  | .ctlRuling => cat 96 0x44#8 0#88
  | .reRulingComplete => cat 96 0x45#8 0#88
  | .ctlMirlen => cat 96 0x46#8 0#88
  | .bankRetirement => cat 96 0x47#8 0#88
  | .bankSwapSwitch => cat 96 0x48#8 0#88
  | .eccRetry => cat 96 0x49#8 0#88
  | .remapVoteFreeze => cat 96 0x4A#8 0#88
  | .towerSeal => cat 96 0x4B#8 0#88
  | .proofingPatternStart => cat 96 0x4C#8 0#88
  | .proofingPatternEnd => cat 96 0x4D#8 0#88
  | .proofingAbort => cat 96 0x4E#8 0#88
  | .gegilFlitReceive => cat 96 0x4F#8 0#88
  | .portRetrain => cat 96 0x50#8 0#88
  | .remoteRequestApply => cat 96 0x51#8 0#88
  | .remoteResponse => cat 96 0x52#8 0#88
  | .wakeWrite => cat 96 0x53#8 0#88
  | .remoteResend => cat 96 0x54#8 0#88
  | .pathFailure => cat 96 0x55#8 0#88
  | .tagFilterExpiry => cat 96 0x56#8 0#88
  | .tscTimingExchange => cat 96 0x57#8 0#88
  | .tscSyncLoss => cat 96 0x58#8 0#88
  | .collectiveDataPhase => cat 96 0x59#8 0#88
  | .collectiveCompletion => cat 96 0x5A#8 0#88
  | .collectiveStop => cat 96 0x5B#8 0#88
  | .collectiveAbandonMessage => cat 96 0x5C#8 0#88
  | .towerReset => cat 96 0x5D#8 0#88
  | .bootLenWrite => cat 96 0x5E#8 0#88
  | .bootVerifyDone => cat 96 0x5F#8 0#88
  | .attGo => cat 96 0x60#8 0#88
  | .attReportDone => cat 96 0x61#8 0#88
  | .hmbCtl => cat 96 0x62#8 0#88
  | .hmbPend => cat 96 0x63#8 0#88
  | .hostBarAccess => cat 96 0x64#8 0#88
  | .hostWashChunkWrite => cat 96 0x65#8 0#88
  | .msixSend => cat 96 0x66#8 0#88
  | .monitorRecord => cat 96 0x67#8 0#88
  | .pcSample => cat 96 0x68#8 0#88
  | .registerWrite => cat 96 0x69#8 0#88
  | .walkCompletion => cat 96 0x6A#8 0#88
  | .linkTrainingComplete => cat 96 0x6B#8 0#88
  | .mailboxBufferWrite => cat 96 0x6C#8 0#88

/-- Whose opcode space a word is decoded in. -/
inductive Space where
  | a | x | m | rub
  deriving DecidableEq, Repr

/-- The opcode space an instruction belongs to (R104); none for a step that is no word. -/
def Instr.space : Instr → Option Space
  | .add _ | .sub _ | .addi _ | .mul _ | .mulh _ | .mulhn _ | .div _ | .divn _ | .rem _ | .remn _ | .and _ | .or _ | .xor _
  | .andn _ | .shl _ | .shr _ | .sra _ | .rol _ | .ror _ | .clz _ | .ctz _ | .popc _ | .min _ | .max _ | .minn _ | .maxn _
  | .sel _ | .slt _ | .sltn _ | .seq _ | .li _ | .bfx _ | .bfi _ | .adds _ | .b _ | .j _ | .jal _ | .jr _ | .bqp _ | .fin _
  | .nop _ | .ld _ | .st _ | .lds _ | .sts _ | .ldx _ | .stx _ | .gath _ | .scat _ | .pref _ | .fence _ | .cpy _ | .cpyvIn _
  | .cpyvOut _ | .cpyb _ | .cpyx _ | .sbind _ | .sdrop _ | .gdef _ | .gset _ | .gget _ | .falloc _ | .faddref _ | .fdrop _
  | .pseal _ | .bxp _ | .barv _ | .bwt _ | .btst _ | .bbnd _ | .bubd _ | .bfwd _ | .sadd _ | .scas _ | .smax _ | .sxch _
  | .srd _ | .swt _ | .inkq _ | .inkr _ | .trap _ | .tret _ | .csrr _ | .csrw _ | .tsc _ | .parkBar _ | .parkSem _ | .parkMbx _
  | .parkInk _ | .yield _ | .lgo _ | .lpatch _ | .qentLaunch _ | .qentCopy _ | .qentSem _ | .qentHirq _ | .mbxr _ | .mbxs _
  | .hirq _ | .preempt _ | .proofStart _ | .proofAbort _ | .sampm _ => some .a
  | .vadd _ | .vsub _ | .vmul _ | .vmulh _ | .vmad _ | .vdot4 _ | .vdot8 _ | .vmin _ | .vmax _ | .vabs _ | .vabsd _ | .vneg _
  | .vavg _ | .vshl _ | .vshr _ | .vsra _ | .vrsh _ | .vand _ | .vor _ | .vxor _ | .vandn _ | .vnot _ | .vpopc _ | .vclz _
  | .vsel _ | .vcmp _ | .vclamp _ | .vfadd _ | .vfsub _ | .vfmul _ | .vfma _ | .vfms _ | .vfnma _ | .vfmin _ | .vfmax _
  | .vfabs _ | .vfneg _ | .vfcmp _ | .vfclass _ | .vrcp _ | .vrsq _ | .vsqrt _ | .vdiv _ | .vexp2 _ | .vlog2 _ | .vfscl _
  | .vcvt _ | .vcvte _ | .vqmx _ | .vdqmx _ | .vamax _ | .eset _ | .esetImm _ | .eget _ | .vperm _ | .vbcst _ | .vzip _
  | .vunzip _ | .vpack _ | .vunpk _ | .vlsh _ | .vmov _ | .vmovi _ | .vbf2 _ | .vbf4 _ | .vtwg _ | .vcmul _ | .vcmac _
  | .vred _ | .vscan _ | .vrsum _ | .kand _ | .kor _ | .kxor _ | .knot _ | .ksetLt _ | .ksetGe _ | .ksetMod _ | .kmov _
  | .kmovFromv _ | .kmovTov _ | .loop _ | .loopr _ | .xb _ | .xbk _ | .xj _ | .xfin _ | .vdead _ | .vpush _ => some .x
  | .lease _ | .lfree _ | .mma _ | .mmaz _ | .mmb _ | .mmi _ | .mclr _ | .mld _ | .mst _ | .madd _ | .mscl _ | .mset _
  | .minc _ | .mrep _ | .mfence _ | .mbarv _ | .mfin _ | .mnop _ => some .m
  | .forwardedArrival | .xLanding | .loadReturn | .uncorrectableLoadDelivery | .vpushArrival | .xqEntryArrival
  | .streamVectorFetch | .copyChunkLanding | .matrixCommandComplete | .matrixFetchFault | .matrixGlyphInvalid | .leaseGrant
  | .headerEntry | .headerWaitRelease | .sectionRetirement | .xIssue | .trapDelivery | .rubricatorTrap | .pendingWriteReplay
  | .faultRecordPost | .answerResume | .answerSkip | .answerEnd | .answerAbandon | .watchdogExpiry | .taskUnpark
  | .taskWaitsReached | .taskPlacement | .contextLoadComplete | .armingCompletion | .preemptDrainEnd | .preemptDrainTimeout
  | .preemptSaveComplete | .queueLaunchAction | .queueCopyAction | .queueSemAction | .queueHirqAction | .inkTick | .inkGrant
  | .regionExpiry | .overdraw | .sensorCheck | .clusterClamp | .pairMeasurement | .droopDetect | .governorEvaluation
  | .ceilingChange | .baselineJoin | .baselineLeave | .baselineCommandMalformed | .baselineJoinReply | .baselineJoinTimeout
  | .baselineAnnouncement | .heartbeatSend | .heartbeatReceive | .silentDrop | .memberExclusion | .serviceAreaRead
  | .blotterVisit | .conversionSwitch | .blotterAccessRefused | .migrationStart | .migrationSwitch | .pagedWrite | .copyOnWrite
  | .folioDeferredFree | .ctlInval | .invalidationComplete | .ctlRuling | .reRulingComplete | .ctlMirlen | .bankRetirement
  | .bankSwapSwitch | .eccRetry | .remapVoteFreeze | .towerSeal | .proofingPatternStart | .proofingPatternEnd | .proofingAbort
  | .gegilFlitReceive | .portRetrain | .remoteRequestApply | .remoteResponse | .wakeWrite | .remoteResend | .pathFailure
  | .tagFilterExpiry | .tscTimingExchange | .tscSyncLoss | .collectiveDataPhase | .collectiveCompletion | .collectiveStop
  | .collectiveAbandonMessage | .towerReset | .bootLenWrite | .bootVerifyDone | .attGo | .attReportDone | .hmbCtl | .hmbPend
  | .hostBarAccess | .hostWashChunkWrite | .msixSend | .monitorRecord | .pcSample | .registerWrite | .walkCompletion
  | .linkTrainingComplete | .mailboxBufferWrite => none

/-- What the word of an instruction decodes to: the two actions of PROOF share a word (R190). -/
def Instr.asWord : Instr → Instr
  | .proofAbort w => .proofStart w
  | i => i

/-- Why a word is refused at decode (R86): the first of the two causes in the order of that rule. -/
inductive Defect where
  | illegalOp
  | reservedField
  deriving DecidableEq, Repr

/-- The A opcodes the Rubricator does not execute (R119). -/
def rubLacks (op : Nat) : Bool :=
  (decide (0x51 ≤ op) && decide (op ≤ 0x5C)) || decide (op ∈ [0x34, 0x35, 0x44, 0x45, 0x46, 0x47, 0x70, 0x71, 0x77, 0x78, 0x81])

/-- The opcode byte (R86). -/
def opcode (v : BitVec 96) : Nat := (v.extractLsb' 88 8).toNat

/-- The instruction a word's opcode names in a space, its fields unchecked. -/
def raw (sp : Space) (v : BitVec 96) : Option Instr :=
  match sp with
  | .a => rawA v
  | .x => rawX v
  | .m => rawM v
  | .rub => if rubLacks (opcode v) then none else rawA v

/-- Decoding (R86, R104): an unassigned opcode is ILLEGAL_OP; then a non-zero zero field, or a field that fails the
instruction's checks, is RESERVED_FIELD. -/
def decode (sp : Space) (v : BitVec 96) : Except Defect Instr :=
  match raw sp v with
  | none => .error .illegalOp
  | some i => if encode i = v && i.wf then .ok i else .error .reservedField

/-- The bytes of a word in memory, lowest address first (R76): twelve of them. -/
def wordBytes (v : BitVec 96) : List Byte := (List.range 12).map (fun i => v.extractLsb' (8 * i) 8)

/-- The word in twelve bytes, lowest address first (R76). -/
def bytesWord (bs : List Byte) : BitVec 96 := BitVec.ofNat 96 (bs.foldr (fun b n => b.toNat + 256 * n) 0)

/-- The host's numbering of a table row: a 96-bit word of a stream below a tag byte, 0 for A, 1 for X, 2 for M, 3 for a
step that is no word. The word goes through its bytes, as the hardware stores it. -/
def decodeTableWord (nbits w : Nat) : Option Instr :=
  let n := if nbits < 104 then w % 2 ^ 96 else w
  let v := bytesWord (wordBytes (BitVec.ofNat 96 n))
  let tag := n / 2 ^ 96
  if tag = 0 then (decode .a v).toOption
  else if tag = 1 then (decode .x v).toOption
  else if tag = 2 then (decode .m v).toOption
  else if tag = 3 then eventNames[opcode v]?
  else none

end Sys2Proof
end

