-- ==== Sys2Proof/Config.lean ====
section
/-! DEFINITION. What an implementation fixes and the manual leaves open: constants with no body, which
nothing can evaluate. Each is a free value; the assumption log names it. -/

namespace Sys2Proof.Config

/-- UNVERIFIED. The package identity certificate chain of R412, Table 18.2, as fused at manufacture. -/
opaque idCert : Nat → Byte

/-- UNVERIFIED. The key hash in the boot ROM (R425): 64 bytes the manual does not print. -/
opaque bootKeyHash : List Byte

/-- UNVERIFIED. The attestation signature of R427: message to 3,309 bytes. The private key is read by nothing. -/
opaque attSign : List Byte → List Byte

/-- DESIGN CHOICE. What FALLOC's block holds before it is written is undefined (R161): byte `n` of the
`k`-th allocation. -/
opaque freshBlockByte : Nat → Nat → Byte

/-- DESIGN CHOICE. The order in which the collective engines add in FAST mode (R422): given the instance
count and the element index, the permutation of the participants, as the list of their positions. -/
opaque fastOrder : Nat → Nat → List Nat

/-- DESIGN CHOICE. A correctly rounded transcendental result whose two enclosures still disagree at the
last precision the model tries (R209, R233); never met by a value of the formats, and free if it were. -/
opaque unresolved : Nat → Word

/-- DESIGN CHOICE. Byte `i` of the frame that the `k`-th save writes, check code included: the layout is not
architectural (R364, R368). -/
opaque frameByte : Nat → Nat → Byte

/-- DESIGN CHOICE. The bytes the `k`-th save writes beside its live granules and the first byte of its check code (R368). -/
opaque frameRest : Nat → Nat

/-- DESIGN CHOICE. How many flits the `n`-th message of a port takes beyond the first, and byte `i` of the payload of its `k`-th flit:
the manual gives the flit's frame and not how requests and responses are laid out in payloads (R414). -/
opaque flitsBeyond : Nat → Nat
opaque flitByte : Nat → Nat → Nat → Byte

/-- DESIGN CHOICE. By how much a cycle of a heavier cluster is stretched (R380): cluster and cycle. -/
opaque stretchBy : Nat → Nat → Nat

/-- DESIGN CHOICE. The vertical lane that serves a bank: level and physical bank (R3, R288). The manual gives no map; the lanes of T3 and
T4 are numbered together. -/
opaque laneOf : Nat → Nat → Nat

/-- DESIGN CHOICE. The clusters beneath a bank: level and physical bank (R377). -/
opaque beneath : Nat → Nat → List Nat

/-- UNVERIFIED. The number of tower resets since manufacture that an attestation report carries (R427). -/
opaque resetsSinceManufacture : Word

end Sys2Proof.Config
end

