-- ==== Sys2Proof/Machine/Numbers.lean ====
section
/-! DEFINITION. Number formats, rounding and sums (chapter 2 of the manual): the integer types, the floating formats, the one
rounding step, exact arithmetic on dyadic numbers, MX blocks and the wide sum. Types are numbered by their codes (R94). -/

namespace Sys2Proof.Machine

/-! ## Flags (Table 1.8) -/

abbrev Flags := BitVec 6

def flagNV : Flags := 1
def flagDZ : Flags := 2
def flagOF : Flags := 4
def flagUF : Flags := 8
def flagNX : Flags := 16
def flagSAT : Flags := 32

/-- Flags when a condition holds. -/
def flagIf (b : Bool) (f : Flags) : Flags := if b then f else 0

/-! ## Types (R49, R94) -/

/-- TypeBits(t). -/
def typeBits (t : Nat) : Nat :=
  if t < 2 then 4 else if t < 4 then 8 else if t < 6 then 16 else if t < 8 then 32
  else if t = 8 then 4 else if t ≤ 10 then 8 else if t ≤ 12 then 16 else if t ≤ 14 then 32 else 64

/-- Signed(t) of an integer type. -/
def typeSigned (t : Nat) : Bool := decide (t % 2 = 0)

/-- IsFloat(t). -/
def typeFloat (t : Nat) : Bool := decide (8 ≤ t)

/-- The smallest n-bit integer, signed or not. -/
def intMin (n : Nat) (sg : Bool) : Int := if sg then -((2 ^ (n - 1) : Nat) : Int) else 0

/-- The largest n-bit integer, signed or not. -/
def intMax (n : Nat) (sg : Bool) : Int := if sg then ((2 ^ (n - 1) : Nat) : Int) - 1 else ((2 ^ n : Nat) : Int) - 1

/-- SatInt(v, n, sg): the clamped value, and SAT when it was clamped (R46). -/
def satInt (v : Int) (n : Nat) (sg : Bool) : Int × Flags :=
  if v < intMin n sg then (intMin n sg, flagSAT)
  else if intMax n sg < v then (intMax n sg, flagSAT)
  else (v, 0)

/-- The value of an n-bit pattern, signed or not. -/
def patInt (n : Nat) (sg : Bool) (p : Nat) : Int :=
  if sg && decide (2 ^ (n - 1) ≤ p % 2 ^ n) then ((p % 2 ^ n : Nat) : Int) - ((2 ^ n : Nat) : Int)
  else ((p % 2 ^ n : Nat) : Int)

/-- The n-bit pattern of an integer: Wrap(v, n). -/
def intPat (n : Nat) (v : Int) : Nat := (v % ((2 ^ n : Nat) : Int)).toNat

/-- IntResult(x, t, sat) of R197. -/
def intResult (x : Int) (t : Nat) (sat : Bool) : Int × Flags :=
  if sat then satInt x (typeBits t) (typeSigned t)
  else (patInt (typeBits t) (typeSigned t) (intPat (typeBits t) x), 0)

/-! ## Floating formats (R50 to R54) -/

/-- A format: exponent bits, significand bits, bias, and whether it has infinities; `nan` tells whether it has a NaN. -/
structure Fmt where
  eb : Nat
  mb : Nat
  bias : Nat
  inf : Bool
  nan : Bool
  deriving DecidableEq, Repr

def fF32 : Fmt := { eb := 8, mb := 23, bias := 127, inf := true, nan := true }
def fF16 : Fmt := { eb := 5, mb := 10, bias := 15, inf := true, nan := true }
def fB16 : Fmt := { eb := 8, mb := 7, bias := 127, inf := true, nan := true }
def fE5 : Fmt := { eb := 5, mb := 2, bias := 15, inf := true, nan := true }
def fE4 : Fmt := { eb := 4, mb := 3, bias := 7, inf := false, nan := true }
def fF4 : Fmt := { eb := 2, mb := 1, bias := 1, inf := false, nan := false }
def fE3M2 : Fmt := { eb := 3, mb := 2, bias := 3, inf := false, nan := false }
def fE2M3 : Fmt := { eb := 2, mb := 3, bias := 1, inf := false, nan := false }

/-- The format of a real type, and of a component of a complex type (R56). -/
def fmtOf (t : Nat) : Fmt :=
  if t = 8 then fF4 else if t = 9 then fE4 else if t = 10 then fE5 else if t = 11 then fF16
  else if t = 12 ∨ t = 14 then fB16 else fF32

/-- All bits of a format. -/
def Fmt.width (f : Fmt) : Nat := 1 + f.eb + f.mb

/-- The code of the largest finite magnitude. -/
def Fmt.maxCode (f : Fmt) : Nat :=
  if f.inf then (2 ^ f.eb - 1) * 2 ^ f.mb - 1 else if f.nan then 2 ^ (f.eb + f.mb) - 2 else 2 ^ (f.eb + f.mb) - 1

/-- The code of +∞, in a format that has one. -/
def Fmt.infCode (f : Fmt) : Nat := (2 ^ f.eb - 1) * 2 ^ f.mb

/-- The canonical NaN (R57); +0 in a format without NaN. -/
def Fmt.nanCode (f : Fmt) : Nat :=
  if f.inf then f.infCode + 2 ^ (f.mb - 1) else if f.nan then 2 ^ (f.eb + f.mb) - 1 else 0

/-- A code with a sign. -/
def Fmt.signed (f : Fmt) (neg : Bool) (mag : Nat) : Nat := if neg then 2 ^ (f.eb + f.mb) + mag else mag

/-- An exact real: `(−1)^neg · mag · 2^exp`; with `more`, the magnitude lies strictly between that and
`(mag + 1) · 2^exp`. Zero carries a sign. -/
structure Exact where
  neg : Bool
  mag : Nat
  exp : Int
  more : Bool
  deriving DecidableEq, Repr

/-- What a code stands for. -/
inductive Val where
  | nan (signalling : Bool)
  | inf (neg : Bool)
  | fin (x : Exact)
  deriving DecidableEq, Repr

/-- Value(f, code) (R50 to R53). -/
def Fmt.value (f : Fmt) (code : Nat) : Val :=
  let neg := decide (code / 2 ^ (f.eb + f.mb) % 2 = 1)
  let e := code / 2 ^ f.mb % 2 ^ f.eb
  let m := code % 2 ^ f.mb
  if f.inf && decide (e = 2 ^ f.eb - 1) then
    if m = 0 then .inf neg else .nan (decide (m < 2 ^ (f.mb - 1)))
  else if !f.inf && f.nan && decide (e = 2 ^ f.eb - 1) && decide (m = 2 ^ f.mb - 1) then .nan false
  else if e = 0 then .fin { neg := neg, mag := m, exp := 1 - (f.bias : Int) - f.mb, more := false }
  else .fin { neg := neg, mag := 2 ^ f.mb + m, exp := (e : Int) - f.bias - f.mb, more := false }

/-- An integer as an exact real; zero is +0. -/
def Exact.ofInt (v : Int) : Exact := { neg := decide (v < 0), mag := v.natAbs, exp := 0, more := false }

/-! ## Rounding (R58 to R63) -/

/-- RoundIntegral of `mag · 2^(−sh)`, the magnitude of a value of sign `neg`, `more` adding less than one unit of `mag`:
the integer chosen and whether it is inexact (R58). -/
def roundShift (mag : Nat) (sh : Nat) (more neg : Bool) (mode : Nat) : Nat × Bool :=
  let n := mag / 2 ^ sh
  let r := mag % 2 ^ sh
  let half := 2 ^ sh / 2
  let inexact := decide (r ≠ 0) || more
  let above := decide (half < r) || (decide (r = half) && more && decide (sh ≠ 0))
  let tie := decide (r = half) && !more && decide (sh ≠ 0)
  let up :=
    if mode = 0 then above || (tie && decide (n % 2 = 1))
    else if mode = 1 then false
    else if mode = 2 then neg && inexact
    else if mode = 3 then !neg && inexact
    else above || tie
  (if up then n + 1 else n, inexact)

/-- RoundIntegral(|x|, mode, sign of x) as an integer, and whether it is inexact (R58). -/
def Exact.integral (x : Exact) (mode : Nat) : Nat × Bool :=
  if 0 ≤ x.exp then (x.mag * 2 ^ x.exp.toNat, x.more) else roundShift x.mag (-x.exp).toNat x.more x.neg mode

/-- Overflow(f, sg, mode, satsel) of R60. -/
def overflow (f : Fmt) (neg : Bool) (mode : Nat) (satsel : Bool) : Nat × Flags :=
  let base := flagOF ||| flagNX
  if satsel then (f.signed neg f.maxCode, base ||| flagSAT)
  else
    let toInf := decide (mode = 0) || decide (mode = 4) || (decide (mode = 2) && neg) || (decide (mode = 3) && !neg)
    if !toInf then (f.signed neg f.maxCode, base)
    else if f.inf then (f.signed neg f.infCode, base)
    else if f.nan then (f.nanCode, base)
    else (f.signed neg f.maxCode, base ||| flagSAT)

/-- RoundFloat(x, f, mode, satsel) of R59. -/
def roundFloat (f : Fmt) (mode : Nat) (satsel : Bool) (x : Exact) : Nat × Flags :=
  if x.mag = 0 && !x.more then (f.signed x.neg 0, 0)
  else
    let emin : Int := 1 - (f.bias : Int)
    let e := max ((Nat.log2 x.mag : Int) + x.exp) emin
    let k := e - f.mb
    let (n, inexact) :=
      if k ≤ x.exp then (x.mag * 2 ^ (x.exp - k).toNat, x.more)
      else roundShift x.mag (k - x.exp).toNat x.more x.neg mode
    let code := (e + f.bias - 1).toNat * 2 ^ f.mb + n
    let fl := flagIf inexact flagNX ||| flagIf (inexact && decide (code < 2 ^ f.mb)) flagUF
    if f.maxCode < code then
      let o := overflow f x.neg mode satsel
      (o.1, fl ||| o.2)
    else (f.signed x.neg code, fl)

/-- satsel from the sat bit of a word and the destination type (R61). -/
def satsel (t : Nat) (sat : Bool) : Bool :=
  if t = 9 ∨ t = 10 then !sat else if t = 8 then true else sat

/-- A value into a format: RoundFloat when finite, R61 when not; a signalling NaN sets NV (R57). -/
def roundVal (f : Fmt) (mode : Nat) (sel : Bool) : Val → Nat × Flags
  | .nan s => if f.nan then (f.nanCode, flagIf s flagNV) else (0, flagNV)
  | .inf neg =>
    if f.inf then (f.signed neg f.infCode, 0)
    else if f.nan then (if sel then (f.signed neg f.maxCode, flagSAT) else (f.nanCode, flagNV))
    else (f.signed neg f.maxCode, flagSAT)
  | .fin x => roundFloat f mode sel x

/-- FloatToInt(x, t, mode) of R64. -/
def floatToInt (t mode : Nat) : Val → Int × Flags
  | .nan _ => (0, flagNV)
  | .inf neg =>
    let n := typeBits t
    (if neg then intMin n (typeSigned t) else intMax n (typeSigned t), flagNV ||| flagSAT)
  | .fin x =>
    let (m, inexact) := x.integral mode
    let v : Int := if x.neg then -(m : Int) else m
    let (c, clamped) := satInt v (typeBits t) (typeSigned t)
    (c, flagIf inexact flagNX ||| (if clamped = 0 then 0 else flagNV ||| flagSAT))

/-! ## Exact arithmetic -/

/-- The value of an exact number in units of `2^e`, `e` at most its exponent. -/
def Exact.scaled (x : Exact) (e : Int) : Int :=
  let m : Int := (x.mag * 2 ^ (x.exp - e).toNat : Nat)
  if x.neg then -m else m

/-- A non-empty sum of exact numbers; a zero sum is +0. -/
def Exact.sum (xs : List Exact) : Exact :=
  let e := xs.foldl (fun a x => min a x.exp) (xs.headD { neg := false, mag := 0, exp := 0, more := false }).exp
  let v : Int := xs.foldl (fun (a : Int) x => a + x.scaled e) 0
  { neg := decide (v < 0), mag := v.natAbs, exp := e, more := false }

def Exact.mul (x y : Exact) : Exact :=
  { neg := x.neg != y.neg, mag := x.mag * y.mag, exp := x.exp + y.exp, more := false }

def Exact.negate (x : Exact) : Exact := { x with neg := !x.neg }

def Exact.isZero (x : Exact) : Bool := decide (x.mag = 0) && !x.more

/-- `x + y` with the sign of an exact zero of R63. -/
def Exact.add (mode : Nat) (x y : Exact) : Exact :=
  let z := Exact.sum [x, y]
  if z.mag = 0 then
    { z with neg := if x.isZero && y.isZero && x.neg = y.neg then x.neg else decide (mode = 2) }
  else z

/-- `x / y`, y not zero, to at least 64 significant bits. -/
def Exact.div (x y : Exact) : Exact :=
  let k := Nat.log2 y.mag + 66
  { neg := x.neg != y.neg, mag := x.mag * 2 ^ k / y.mag, exp := x.exp - y.exp - k,
    more := decide (x.mag * 2 ^ k % y.mag ≠ 0) }

/-- The integer square root, from bit `k` down. -/
def isqrtFrom : Nat → Nat → Nat → Nat
  | 0, m, r => if (r + 1) * (r + 1) ≤ m then r + 1 else r
  | k + 1, m, r =>
    let c := r + 2 ^ (k + 1)
    isqrtFrom k m (if c * c ≤ m then c else r)

/-- `Floor(√m)`. -/
def isqrt (m : Nat) : Nat := isqrtFrom (Nat.log2 m / 2 + 1) m 0

/-- `√x` of a positive number, to at least 64 significant bits. -/
def Exact.sqrt (x : Exact) : Exact :=
  let s : Nat := if (x.exp - 130) % 2 = 0 then 130 else 131
  let m := x.mag * 2 ^ s
  let r := isqrt m
  { neg := false, mag := r, exp := (x.exp - (s : Int)) / 2, more := decide (r * r ≠ m) }

/-- `1 / √x` of a positive number, to at least 64 significant bits. -/
def Exact.rsqrt (x : Exact) : Exact :=
  let t0 : Nat := Nat.log2 x.mag + 140
  let t : Nat := if (x.exp + (t0 : Int)) % 2 = 0 then t0 else t0 + 1
  let r := isqrt (2 ^ t / x.mag)
  { neg := false, mag := r, exp := (-x.exp - (t : Int)) / 2, more := decide (r * r * x.mag ≠ 2 ^ t) }

/-! ## Enclosed functions (R209, R233)

An irrational value is enclosed between two numbers of many bits; when both ends round alike the rounding is the value's. -/

/-- Fraction bits of the enclosures. -/
def encBits : Nat := 320

/-- The bounds of an irrational magnitude in units of `2^exp`. -/
structure Enclosure where
  neg : Bool
  lo : Nat
  hi : Nat
  exp : Int
  deriving DecidableEq, Repr

/-- Round an enclosed irrational number; a rounding that its ends do not settle is a free value. -/
def Enclosure.round (v : Enclosure) (f : Fmt) (mode : Nat) : Nat × Flags :=
  let a := roundFloat f mode false { neg := v.neg, mag := v.lo, exp := v.exp, more := true }
  let b := roundFloat f mode false { neg := v.neg, mag := v.hi - 1, exp := v.exp, more := true }
  if a = b then a else ((Config.unresolved (v.lo + v.hi)).toNat % 2 ^ f.width, flagNX)

/-- As `Enclosure.round`, an overflow following `sel`. -/
def Enclosure.roundSat (v : Enclosure) (f : Fmt) (mode : Nat) (sel : Bool) : Nat × Flags :=
  let a := roundFloat f mode sel { neg := v.neg, mag := v.lo, exp := v.exp, more := true }
  let b := roundFloat f mode sel { neg := v.neg, mag := v.hi - 1, exp := v.exp, more := true }
  if a = b then a else ((Config.unresolved (v.lo + v.hi)).toNat % 2 ^ f.width, flagNX)

/-- Bounds of `2^(0.b1 b2 …)`: the bits of the fraction, highest first, multiply in `2^(1/2)`, `2^(1/4)` and so on. -/
def exp2Bits : Nat → Nat → Nat × Nat → Nat × Nat → Nat × Nat
  | 0, _, _, acc => acc
  | n + 1, frac, c, acc =>
    let lo := isqrt (c.1 * 2 ^ encBits)
    let hi := isqrt (c.2 * 2 ^ encBits) + 1
    let acc' := if frac / 2 ^ n % 2 = 1 then (acc.1 * lo / 2 ^ encBits, acc.2 * hi / 2 ^ encBits + 1) else acc
    exp2Bits n frac (lo, hi) acc'

/-- `2^x`: exact when x is an integer, enclosed otherwise. -/
def exp2 (f : Fmt) (mode : Nat) (sel : Bool) (x : Exact) : Nat × Flags :=
  if 0 ≤ x.exp || decide (x.mag = 0) || decide (x.mag % 2 ^ (-x.exp).toNat = 0) then
    let n : Nat := if x.mag = 0 then 0 else if 0 ≤ x.exp then min 5000 (x.mag * 2 ^ (min 20 x.exp.toNat)) else x.mag / 2 ^ (-x.exp).toNat
    let n := min 5000 n
    roundFloat f mode sel { neg := false, mag := 1, exp := if x.neg then -(n : Int) else n, more := false }
  else
    let w := (-x.exp).toNat
    if 5000 ≤ x.mag / 2 ^ w then
      roundFloat f mode sel { neg := false, mag := 1, exp := if x.neg then -5000 else 5000, more := true }
    else
      let v : Int := if x.neg then -(x.mag : Int) else x.mag
      let n := v / ((2 ^ w : Nat) : Int)
      let frac := (v % ((2 ^ w : Nat) : Int)).toNat
      let one := 2 ^ encBits
      let r := exp2Bits w frac (2 * one, 2 * one) (one, one)
      Enclosure.roundSat { neg := false, lo := r.1, hi := r.2 + 1, exp := n - encBits } f mode sel

/-- The bits of log2 of a number in [1, 2) of `encBits` fraction bits, by repeated squaring, rounding down or up. -/
def log2Bits : Nat → Bool → Nat → Nat → Nat
  | 0, _, _, acc => acc
  | n + 1, up, m, acc =>
    let q := m * m / 2 ^ encBits + (if up then 1 else 0)
    if 2 * 2 ^ encBits ≤ q then log2Bits n up (q / 2 + (if up then 1 else 0)) (2 * acc + 1)
    else log2Bits n up q (2 * acc)

/-- Bits of log2 that are computed. -/
def logBits : Nat := 140

/-- `log2 x` of a positive number: exact for a power of two, enclosed otherwise. -/
def log2 (f : Fmt) (mode : Nat) (sel : Bool) (x : Exact) : Nat × Flags :=
  let e : Int := (Nat.log2 x.mag : Int) + x.exp
  if x.mag = 2 ^ Nat.log2 x.mag then roundFloat f mode sel (Exact.ofInt e)
  else
    let m := x.mag * 2 ^ encBits / 2 ^ Nat.log2 x.mag
    let lo : Int := e * ((2 ^ logBits : Nat) : Int) + log2Bits logBits false m 0
    let hi : Int := e * ((2 ^ logBits : Nat) : Int) + log2Bits logBits true (m + 1) 0 + 1
    if 0 ≤ lo then Enclosure.roundSat { neg := false, lo := lo.toNat, hi := hi.toNat, exp := -(logBits : Int) } f mode sel
    else Enclosure.roundSat { neg := true, lo := (-hi).toNat, hi := (-lo).toNat, exp := -(logBits : Int) } f mode sel

/-- Bounds of cos and sin, in units of `2^(−encBits)`: (cos low, cos high, sin low, sin high). -/
structure Rot where
  cl : Nat
  ch : Nat
  sl : Nat
  sh : Nat
  deriving DecidableEq, Repr

/-- The rotation by half the angle. -/
def Rot.half (r : Rot) : Rot :=
  let one := 2 ^ encBits
  { cl := isqrt ((one + r.cl) * 2 ^ encBits / 2), ch := isqrt ((one + r.ch) * 2 ^ encBits / 2 + 1) + 1,
    sl := isqrt ((one - min one r.ch) * 2 ^ encBits / 2), sh := isqrt ((one - r.cl) * 2 ^ encBits / 2 + 1) + 1 }

/-- The product of two rotations whose angles add up to at most a quarter turn. -/
def Rot.mul (p q : Rot) : Rot :=
  let d := 2 ^ encBits
  { cl := (p.cl * q.cl - p.sh * q.sh) / d - 1, ch := (p.ch * q.ch - p.sl * q.sl) / d + 1,
    sl := (p.sl * q.cl + p.cl * q.sl) / d, sh := (p.sh * q.ch + p.ch * q.sh) / d + 1 }

/-- The rotation by `2π · frac / 2^n`, `frac` having `n` bits, from the rotation by a half turn over `2^i`. -/
def turnBits : Nat → Nat → Rot → Rot → Rot
  | 0, _, _, acc => acc
  | n + 1, frac, r, acc =>
    let r' := r.half
    turnBits n frac r' (if frac / 2 ^ n % 2 = 1 then acc.mul r' else acc)

/-- cos and sin of `2π κ / 2^n` rounded into a format, `κ < 2^n` (R233). Quarter turns are exact; other angles are taken
into the first eighth of a turn. -/
def twiddle (f : Fmt) (mode : Nat) (n κ : Nat) (negIm : Bool) : (Nat × Flags) × (Nat × Flags) :=
  -- work with 2^(n+3) steps to the turn, so that eighths are whole
  let k8 := κ * 8
  let turn := 2 ^ (n + 3)
  let quad := 4 * k8 / turn
  let rest := 4 * k8 % turn / 4
  let one := roundFloat f mode false { neg := false, mag := 1, exp := 0, more := false }
  let mone := roundFloat f mode false { neg := true, mag := 1, exp := 0, more := false }
  let put (neg : Bool) (lo hi : Nat) : Nat × Flags :=
    Enclosure.round { neg := neg, lo := lo, hi := hi, exp := -(encBits : Int) } f mode
  if rest = 0 then
    let c := if quad = 0 then one else if quad = 2 then mone else (0, 0)
    let sn := if quad = 1 then (if negIm then mone else one) else if quad = 3 then (if negIm then one else mone) else (0, 0)
    (c, sn)
  else
    let swap := decide (turn < 8 * rest)
    let r := if swap then turn / 4 - rest else rest
    let d := 2 ^ encBits
    -- from the quarter turn: halving gives the eighth, the sixteenth, …
    let quarter : Rot := { cl := 0, ch := 0, sl := d, sh := d }
    let w := turnBits (n + 1) r quarter { cl := d, ch := d, sl := 0, sh := 0 }
    let (c1, c2, s1, s2) := if swap then (w.sl, w.sh + 1, w.cl, w.ch + 1) else (w.cl, w.ch + 1, w.sl, w.sh + 1)
    if quad = 0 then (put false c1 c2, put negIm s1 s2)
    else if quad = 1 then (put true s1 s2, put negIm c1 c2)
    else if quad = 2 then (put true c1 c2, put (!negIm) s1 s2)
    else (put false s1 s2, put (!negIm) c1 c2)

/-! ## MX blocks (R55, R65 to R67) -/

/-- An exact number times `2^k`. -/
def Exact.shift (x : Exact) (k : Int) : Exact := { x with exp := x.exp + k }

/-- EncodeScale(j). -/
def encodeScale (j : Int) : Nat × Flags :=
  if j < -127 then (0, 0) else if 127 < j then (0xFE, flagSAT) else ((j + 127).toNat, 0)

/-- EMaxElem(t). -/
def emaxElem (t : Nat) : Int := if t = 9 then 8 else if t = 10 then 15 else 2

/-- |x| < |y| of exact numbers. -/
def Exact.magLt (x y : Exact) : Bool :=
  let e := min x.exp y.exp
  decide (x.mag * 2 ^ (x.exp - e).toNat < y.mag * 2 ^ (y.exp - e).toNat)

/-- The finite values of a list, none when one of them is NaN or infinite. -/
def finites : List Val → Option (List Exact)
  | [] => some []
  | .fin x :: t => (finites t).map (x :: ·)
  | _ :: _ => none

/-- QuantiseMX(x, B, t, mode) of R66: the scale, the codes, and the flags. -/
def quantiseMX (xs : List Val) (t mode : Nat) : Nat × List Nat × Flags :=
  let snan := flagIf (xs.any (fun v => decide (v = .nan true))) flagNV
  match finites xs with
  | none => (0xFF, xs.map (fun _ => 0), snan)
  | some fs =>
    let top : Exact := fs.foldl (fun (a x : Exact) => if a.magLt x then x else a) { neg := false, mag := 0, exp := 0, more := false }
    let sc : Nat × Flags := if top.mag = 0 then (0, 0) else encodeScale ((Nat.log2 top.mag : Int) + top.exp - emaxElem t)
    let cs := fs.map (fun x => roundFloat (fmtOf t) mode true (x.shift (127 - (sc.1 : Int))))
    (sc.1, cs.map (·.1), cs.foldl (fun a c => a ||| c.2) sc.2)

/-- The value of an MX element under its scale (R65); a signalling NaN stays one, so that it sets NV (R57). -/
def mxValue (v : Val) (scale : Nat) : Val :=
  match v with
  | .nan q => .nan q
  | .fin x => if scale = 0xFF then .nan false else .fin (x.shift ((scale : Int) - 127))
  | w => if scale = 0xFF then .nan false else w

/-- The E4M3 code of an FP6 element: E2M3 for memory format 1, E3M2 for 2 (R54). -/
def expandFp6 (memfmt code : Nat) : Nat :=
  (roundVal fE4 0 true ((if memfmt = 1 then fE2M3 else fE3M2).value code)).1

/-! ## Error feedback (R68) -/

/-- x + y of two values, as IEEE addition before rounding; the flag is NV. -/
def addVal (mode : Nat) : Val → Val → Val × Flags
  | .nan a, .nan b => (.nan false, flagIf (a || b) flagNV)
  | .nan a, _ => (.nan false, flagIf a flagNV)
  | _, .nan b => (.nan false, flagIf b flagNV)
  | .inf a, .inf b => if a = b then (.inf a, 0) else (.nan false, flagNV)
  | .inf a, _ => (.inf a, 0)
  | _, .inf b => (.inf b, 0)
  | .fin x, .fin y => (.fin (x.add mode y), 0)

/-- x × y of two values. -/
def mulVal : Val → Val → Val × Flags
  | .nan a, .nan b => (.nan false, flagIf (a || b) flagNV)
  | .nan a, _ => (.nan false, flagIf a flagNV)
  | _, .nan b => (.nan false, flagIf b flagNV)
  | .inf a, .inf b => (.inf (a != b), 0)
  | .inf a, .fin y => if y.isZero then (.nan false, flagNV) else (.inf (a != y.neg), 0)
  | .fin x, .inf b => if x.isZero then (.nan false, flagNV) else (.inf (x.neg != b), 0)
  | .fin x, .fin y => (.fin (x.mul y), 0)

/-- The value with its sign inverted. -/
def Val.negate : Val → Val
  | .nan s => .nan s
  | .inf b => .inf (!b)
  | .fin x => .fin x.negate

/-- CvtErrorFeedback(a, c, td, tc): the code of d, the code of the residue, the flags. An integer d is given as a pattern of
its type. -/
def errorFeedback (a c : Val) (td tc : Nat) : Nat × Nat × Flags :=
  let fc := fmtOf tc
  let t := addVal 0 a c
  match t.1 with
  | .nan _ =>
    (if typeFloat td then (fmtOf td).nanCode else 0, fc.nanCode, flagNV)
  | .inf neg =>
    if typeFloat td then
      let d := roundVal (fmtOf td) 0 true (.inf neg)
      if (fmtOf td).inf then (d.1, fc.nanCode, d.2 ||| flagNV) else (d.1, fc.signed neg fc.infCode, d.2)
    else
      let d := floatToInt td 0 (.inf neg)
      (intPat (typeBits td) d.1, fc.signed neg fc.infCode, d.2)
  | .fin x =>
    let (code, fl, back) :=
      if typeFloat td then
        let d := roundFloat (fmtOf td) 0 true x
        (d.1, d.2, match (fmtOf td).value d.1 with | .fin y => y | _ => Exact.ofInt 0)
      else
        let d := floatToInt td 0 (.fin x)
        (intPat (typeBits td) d.1, d.2, Exact.ofInt d.1)
    let r := roundFloat fc 0 false (x.add 0 back.negate)
    (code, r.1, fl ||| r.2)

/-! ## The wide sum (R69 to R71) -/

/-- A wide-sum record. -/
structure Wide where
  value : Int
  count : Nat
  nan : Bool
  pinf : Bool
  ninf : Bool
  negz : Bool
  deriving DecidableEq, Repr

/-- The record in the layout of Table 2.10. -/
def Wide.bits (p : Wide) : BitVec 384 :=
  let b (x : Bool) (k : Nat) : Nat := if x then 2 ^ k else 0
  BitVec.ofNat 384 ((p.value % 2 ^ 320).toNat + b p.nan 320 + b p.pinf 321 + b p.ninf 322 + b p.negz 323 + p.count % 2 ^ 41 * 2 ^ 324)

/-- The record that 384 bits hold. -/
def Wide.ofBits (v : BitVec 384) : Wide :=
  { value := (v.extractLsb' 0 320).toInt, count := (v.extractLsb' 324 41).toNat, nan := v.getLsbD 320, pinf := v.getLsbD 321
    ninf := v.getLsbD 322, negz := v.getLsbD 323 }

def Wide.empty : Wide := { value := 0, count := 0, nan := false, pinf := false, ninf := false, negz := true }

/-- WideTerm(x), with NV for a signalling NaN. -/
def wideTerm : Val → Wide × Flags
  | .nan s => ({ Wide.empty with count := 1, nan := true, negz := false }, flagIf s flagNV)
  | .inf true => ({ Wide.empty with count := 1, ninf := true, negz := false }, 0)
  | .inf false => ({ Wide.empty with count := 1, pinf := true, negz := false }, 0)
  | .fin x => ({ Wide.empty with count := 1, value := x.scaled (-150), negz := x.isZero && x.neg }, 0)

/-- WideAdd(p, q). -/
def wideAdd (p q : Wide) : Wide :=
  { value := p.value + q.value, count := min (p.count + q.count) (2 ^ 41 - 1), nan := p.nan || q.nan,
    pinf := p.pinf || q.pinf, ninf := p.ninf || q.ninf, negz := p.negz && q.negz }

/-- WideRound(p, f, mode). -/
def wideRound (p : Wide) (f : Fmt) (mode : Nat) : Nat × Flags :=
  if 2 ^ 40 < p.count then (f.nanCode, flagNV)
  else if p.pinf && p.ninf then (f.nanCode, flagNV)
  else if p.nan then (f.nanCode, 0)
  else if p.pinf then (f.infCode, 0)
  else if p.ninf then (f.signed true f.infCode, 0)
  else if p.value = 0 then (f.signed (decide (1 ≤ p.count) && p.negz) 0, 0)
  else roundFloat f mode false { neg := decide (p.value < 0), mag := p.value.natAbs, exp := -150, more := false }

/-- WideSum(list, f, mode). -/
def wideSum (vs : List Val) (f : Fmt) (mode : Nat) : Nat × Flags :=
  let r := vs.foldl (fun (a : Wide × Flags) v => let t := wideTerm v; (wideAdd a.1 t.1, a.2 ||| t.2)) (Wide.empty, 0)
  let o := wideRound r.1 f mode
  (o.1, r.2 ||| o.2)

end Sys2Proof.Machine
end

