-- ==== Sys2Proof/Machine/Maps.lean ====
section
/-! DEFINITION. Sparse arrays: lists of (index, value) pairs with indexes strictly rising. The large arrays of
the machine (memory, register windows, barriers, semaphores) are held in them. `find?`, `put` and `del` treat
presence itself as information; `get` and `set` treat an unlisted index as holding a default, and `set` never
lists an entry equal to the default, so that equal arrays are equal lists. -/

namespace Sys2Proof

variable {α : Type}

/-- What index `k` holds, if it is listed. -/
def SMap.find? (k : Nat) : SMap α → Option α
  | [] => none
  | (j, v) :: t => if j = k then some v else SMap.find? k t

/-- The array without index `k`. -/
def SMap.del (k : Nat) : SMap α → SMap α
  | [] => []
  | (j, v) :: t => if j = k then SMap.del k t else (j, v) :: SMap.del k t

/-- Put an entry in its place by index; the index is not yet listed. -/
def SMap.place (k : Nat) (v : α) : SMap α → SMap α
  | [] => [(k, v)]
  | (j, u) :: t => if k < j then (k, v) :: (j, u) :: t else (j, u) :: SMap.place k v t

/-- The array with index `k` listed as holding `v`. -/
def SMap.put (k : Nat) (v : α) (m : SMap α) : SMap α := SMap.place k v (SMap.del k m)

/-- What index `k` holds, an unlisted index holding `d`. -/
def SMap.get (d : α) (k : Nat) (m : SMap α) : α := (SMap.find? k m).getD d

/-- The array in which index `k` holds `v`, unlisted indexes holding `d`. -/
def SMap.set [DecidableEq α] (d : α) (k : Nat) (v : α) (m : SMap α) : SMap α :=
  if v = d then SMap.del k m else SMap.put k v m

/-- The array with `f` applied to what index `k` lists, if it is listed. -/
def SMap.adjust (k : Nat) (f : α → α) : SMap α → SMap α
  | [] => []
  | (j, v) :: t => if j = k then (j, f v) :: t else (j, v) :: SMap.adjust k f t

/-- The values, in rising order of index. -/
def SMap.values (m : SMap α) : List α := m.map (·.2)

/-- Indexes strictly rising. -/
def SMap.rising : SMap α → Bool
  | [] => true
  | [_] => true
  | (j, _) :: (k, v) :: t => (j < k) && SMap.rising ((k, v) :: t)

/-- The canonical form of an array with default `d`: indexes strictly rising, no entry equal to the default. -/
def SMap.wf [DecidableEq α] (d : α) (m : SMap α) : Bool := SMap.rising m && m.all (fun e => decide (e.2 ≠ d))

end Sys2Proof
end

