-- ==== Sys2Proof/Machine/State.lean ====
section
/-! DEFINITION. The state of one tower of the package as plain data: every piece of state the manual names,
at the reach R13 gives it. Arrays are sparse (`SMap`); the docstring of a field says what an unlisted index holds. -/

namespace Sys2Proof.Machine

/-! ## Names -/

/-- The three streams of a task (R13). -/
inductive Stream where
  | a | x | m
  deriving DecidableEq, Repr

/-- Who issues a word: the Rubricator, or a stream of a task. -/
inductive Agent where
  | rub
  | task (id : Nat) (st : Stream)
  deriving DecidableEq, Repr

/-- The cause codes of Table 15.1 (R348). -/
inductive Cause where
  | illegalOp | reservedField | sectionFormat | sliceRange | badOperand | misaligned | xlate | access
  | overdraw | hazard | deadRead | queueProtocol | barrierMisuse | leaseViolation | glyphInvalid
  | fpException | divideZero | trap | groupSilent | mapLost | uncorrectable | folioExhausted | watchdog
  deriving DecidableEq, Repr

/-- What PARK waits for (R180). -/
inductive ParkCond where
  | bar (n : Nat) (firing : BitVec 32)
  | sem (n : Nat) (value : Word)
  | mbx (n : Nat)
  | ink (level : Word)
  deriving DecidableEq, Repr

/-- The states of Table 14.4 (R334). `saved` of the task tells the two parked states apart. -/
inductive Run where
  | waiting
  | runnable
  | resident
  | running
  | parked (c : ParkCond)
  | onRecord
  | retired
  | faulted
  deriving DecidableEq, Repr

/-- What holds a stream between two words (R80 to R85). -/
inductive Phase where
  | header      -- the next two parcels are decoded as a header
  | waiting     -- the header is decoded and a wait is not satisfied
  | words       -- words of the span issue
  | ended       -- FIN, XFIN or MFIN has issued
  deriving DecidableEq, Repr

/-- Kinds of an access, with the right each needs (R301). -/
inductive Access where
  | read | write | fetch | sem
  deriving DecidableEq, Repr

/-! ## A task -/

/-- One stream of a task (R15, R80 to R85, R342). -/
structure StreamSt where
  /-- The launch entry gives it an entry point. -/
  present : Bool
  phase : Phase
  /-- The next word, or the header to be decoded. -/
  pc : Parcel
  /-- Address of the current header. -/
  hdr : Parcel
  /-- Words of the current section; 0 where there is no span. -/
  len : Nat
  /-- The current header's 64 bits. -/
  hword : Word
  /-- A header has been entered. -/
  begun : Bool
  /-- The current section number. -/
  sec : BitVec 16
  /-- The retired-section count. -/
  retired : BitVec 16
  /-- The retired count before the cycle `retiredAt`, which R82 shows to header waits of that cycle. -/
  retiredPrev : BitVec 16
  retiredAt : Nat
  /-- Sections left and not retired, oldest first; at most 16 (R83). -/
  left : List (BitVec 16)
  /-- Stopped by a trap, a park or a pre-emption. -/
  stopped : Bool
  /-- R342. -/
  waitCount : Nat
  deriving DecidableEq, Repr

/-- A loop level (R33, R243 to R250). -/
structure Loop where
  first : Parcel
  last : Parcel
  /-- LOOPR. -/
  rotating : Bool
  /-- Stages S, source iterations N and rotation step σ of a LOOPR level (R247). -/
  stages : Nat
  trips : Nat
  sigma : Nat
  deriving DecidableEq, Repr

/-- Where an X result lands (R352). -/
inductive Dest where
  /-- Slices, after renaming, with one value each. -/
  | slices (ss : List Nat) (vals : List Slice)
  | pred (k : Nat) (val : Pred)
  /-- A scale register: one mask bit per value (R223). -/
  | scale (e : Nat) (mask : BitVec 16) (val : BitVec 128)
  /-- Slices marked dead. -/
  | dead (ss : List Nat)
  /-- A VPUSH entry on its way to `aq q` (R254). -/
  | aq (q : Nat) (val : Word)
  deriving DecidableEq, Repr

/-- An X effect issued and not yet landed: an entry of the pending-write queue once captured (R21, R352). -/
structure Effect where
  dest : Dest
  /-- The lanes written. -/
  mask : Pred
  /-- The cycle of landing; while captured, the remaining cycles. -/
  due : Nat
  /-- Captured under R352 and not yet resumed. -/
  captured : Bool
  /-- Captured once; it lands by replay (R353). -/
  replay : Bool
  /-- Flags the landing sets (R43). -/
  flags : BitVec 6
  /-- The FP_EXCEPTION condition that a captured landing raises, as it stood at the capture (R352). -/
  raises : Bool
  /-- The section of the instruction (R83). -/
  sec : BitVec 16
  deriving DecidableEq, Repr

/-- An entry of the reuse cache, most recently used first (R24). -/
structure Reuse where
  start : Nat
  width : Nat
  /-- The slices' values. -/
  vals : List Slice
  deriving DecidableEq, Repr

/-- An entry of an A-to-X queue (R27): `ready` once its data have arrived (R141). -/
structure XqEntry where
  /-- Bits of one element. -/
  width : Nat
  ready : Bool
  serial : Nat
  vals : Vec
  deriving DecidableEq, Repr

/-- Where a load returns. -/
inductive LoadDst where
  | reg (n : Nat)
  | xq (q : Nat) (serial : Nat)
  deriving DecidableEq, Repr

/-- A load in flight (R138); `bad` when a lasting error will be delivered (R370). -/
structure Load where
  /-- Its serial among the loads and queue entries of its task, or of the Rubricator. -/
  id : Nat
  dst : LoadDst
  val : Word
  vec : Vec
  /-- The load has returned: kept only while its error is undelivered. -/
  returned : Bool
  bad : Bool
  /-- The address the load failed at. -/
  badAt : Nat
  /-- `tsc` at its issue, of a load that a monitor unit measures (R394). -/
  issued : Option Nat
  /-- The tag of the request that brings its value, of a load from another tower, until the answer has come (R138, R417); the bytes
  its value is sign-extended from, or 0. -/
  tag : Option Nat
  sext : Nat
  /-- Of a failed load: the cause it is delivered with, and whether it is a path failure. -/
  cause : Cause
  path : Bool
  /-- The word of a load that can fail, or is fetched again, and the registers it read (R367, R370). -/
  again : Option (Instr × SMap Word)
  sec : BitVec 16
  pc : Parcel
  deriving DecidableEq, Repr

/-- A vector fetched ahead (R26, R159). -/
structure SVec where
  vals : Vec
  flags : BitVec 6
  padded : Bool
  deriving DecidableEq, Repr

/-- A bound stream register (R26, R157, R158). -/
structure Binding where
  /-- The glyph's number, and its words as the SBIND read them. -/
  glyph : Nat
  data : List Word
  index : List Word
  desc : List Word
  /-- The code lengths of the glyph's entropy table, read at the SBIND (R399). -/
  table : List Nat
  /-- The SBIND. -/
  pc : Parcel
  /-- Vectors popped. -/
  pos : Nat
  buf : List SVec
  /-- Of an entropy chain: the bits decoded so far, and the elements of the last vectors decoded (R399). -/
  bitPos : Nat
  elems : List (List Nat)
  /-- A fetch fault stops the engine: its record is open (R158). -/
  stopped : Bool
  /-- First poisoned vector and its cause (R363). -/
  poison : Option (Nat × Cause)
  deriving DecidableEq, Repr

/-- The task CSRs of Table 1.7. -/
structure TaskCsr where
  fpFlags : BitVec 6
  fpTrap : BitVec 5
  deadmode : BitVec 1
  hazard : BitVec 1
  strPad : BitVec 16
  rotBase : BitVec 13
  rotSize : BitVec 13
  rotOff : BitVec 13
  trapVec : Parcel
  trapCause : BitVec 8
  trapPc : Parcel
  trapStream : BitVec 2
  wdLimit : BitVec 32
  deriving DecidableEq, Repr

/-- The A stream's saved section state while an in-task handler runs (R356). -/
structure Handler where
  saved : StreamSt
  /-- Loads before this serial return before a handler word issues (R350). -/
  before : Nat
  deriving DecidableEq, Repr

/-- A matrix command of the command list (R261, R265, R267). -/
structure Cmd where
  word : Instr
  /-- The coordinates captured at issue (R268). -/
  ca : BitVec 32
  cb : BitVec 32
  ct : BitVec 32
  pc : Parcel
  sec : BitVec 16
  /-- The row-progress register (R265). -/
  row : Nat
  /-- Reads have begun or writes have begun. -/
  started : Bool
  /-- A fetch fault has stopped it: its record is open. -/
  faulted : Bool
  /-- Flags so far, set at completion (R266). -/
  flags : BitVec 6
  serial : Nat
  deriving DecidableEq, Repr

/-- A repeated issue of the next command (R277). -/
structure Mrep where
  /-- Issues still to make. -/
  left : Nat
  /-- The MREP word's stepped register and immediate. -/
  creg : BitVec 5
  imm : Word
  deriving DecidableEq, Repr

/-- A power region (R175). -/
structure Region where
  lvl : Nat
  dur : Nat
  start : Nat
  /-- Expired: the automatic request waits for its grant. -/
  expired : Bool
  /-- The serial of its grant, under which its draw is measured (R384). -/
  id : Nat
  /-- `tsc` from which microseconds count for R386, and the draws of the last ones, newest first. -/
  since : Nat
  draws : List Nat
  /-- OVERDRAW is raised and not yet held for a stream. -/
  raised : Bool
  deriving DecidableEq, Repr

/-- PC sampling (R191, R395). -/
structure Sampling where
  buf : Word
  interval : Nat
  capacity : Nat
  written : Nat
  /-- Cycle of the next sample. -/
  nextAt : Nat
  deriving DecidableEq, Repr

/-- The phase of a pre-emption (R365). -/
inductive PrePhase where
  | drain | saving
  deriving DecidableEq, Repr

/-- A pre-emption in progress. -/
structure Pre where
  phase : PrePhase
  since : Nat
  deriving DecidableEq, Repr

/-- What a counted wait waits on. `bar`: core, number, firing (R167). `sem`: number, threshold, the register that takes the value of
the step that meets it (R172), and the scope at which that step is an acquire, if it is one (R311). -/
inductive WaitOn where
  | park
  | bar (core n : Nat) (firing : BitVec 32)
  | sem (n : Nat) (threshold : Word) (dst : BitVec 6) (acq : Option Nat)
  | ink
  | grant
  deriving DecidableEq, Repr

/-- A wait that the watchdog counts (R181): the cycle it began. -/
structure WaitMark where
  pc : Parcel
  stream : Stream
  since : Nat
  on : WaitOn
  deriving DecidableEq, Repr

/-- A task (R13, R44, R334). -/
structure Task where
  core : Nat
  /-- The slot it holds while resident. -/
  slot : Option Nat
  /-- Serial of its arming, of its launch entry, its rank (R329). -/
  arming : Nat
  entry : Nat
  rank : Nat
  prio : Nat
  cls : Nat
  asid : Nat
  /-- Window in granules. -/
  win : Nat
  /-- Glyph table address (R36). -/
  glyphs : Nat
  run : Run
  /-- A test of its PARK condition, or of its waits, has found it to hold (R180, R336). -/
  unpark : Bool
  /-- Its context lies in a save frame. -/
  saved : Bool
  /-- The frame's physical address (R364). -/
  frame : Option Nat
  /-- Used barrier waits: handle and firing. -/
  waits : List (Word × BitVec 32)
  /-- `tsc` since which placement has passed it over (R339). -/
  passedSince : Option Nat
  sa : StreamSt
  sx : StreamSt
  sm : StreamSt
  /-- `a1` to `a63`; unlisted 0. -/
  regs : SMap Word
  /-- Live slices only: an unlisted slice is dead and zero (R23). -/
  slices : SMap Slice
  /-- `k1` to `k7`; unlisted 0. -/
  preds : SMap Pred
  /-- `e0` to `e63`; unlisted 0x7F in every value (R32). -/
  scales : SMap (BitVec 128)
  /-- `lc0` to `lc3`; unlisted 0. -/
  lc : SMap (BitVec 32)
  /-- The loop stack, innermost first. -/
  loops : List Loop
  /-- A back-edge of a LOOPR level has been taken: its rotation steps at the next issue (R248). -/
  rotPending : Bool
  /-- `c0` to `c31`; unlisted 0. -/
  coords : SMap (BitVec 32)
  csr : TaskCsr
  /-- Bound stream registers. -/
  binds : SMap Binding
  xq : SMap (List XqEntry)
  aq : SMap (List Word)
  /-- The last cycle in which A popped an `aq`, and how many entries it popped then (R254). -/
  aqPops : SMap (Nat × Nat)
  bq : List Bool
  reuse : List Reuse
  /-- The cycle of the last dead marks, and the slices marked in it (R23, R212). -/
  deadAt : Nat × List Nat
  /-- 32-bit groups in which a read meets a lasting parity error, by 64·slice + group (R369). -/
  flawed : List Nat
  effects : List Effect
  loads : List Load
  handler : Option Handler
  /-- A pending array FP_EXCEPTION: the word of the command that raised it (R266, R351). -/
  heldFp : Option Parcel
  /-- An FP_EXCEPTION of a landing, not yet delivered (R43, R351). -/
  heldLand : Bool
  /-- A held OVERDRAW, for the stream it stops (R386). -/
  heldDraw : Option Stream
  /-- The nested trap a record reports (R358). -/
  nested : Option (Cause × Stream × Parcel)
  cmds : List Cmd
  mrep : Option Mrep
  /-- Tiles held, and tiles waited for (R256 to R258). -/
  lease : BitVec 8
  leaseWait : Option (BitVec 8)
  /-- The lease and the tiles that a saved context holds, by 131,072·tile + element, until they are restored (R260). -/
  leaseSaved : Option (BitVec 8 × SMap (BitVec 32))
  /-- The array has met a failing glyph: no further command starts (R264). -/
  cmdStop : Bool
  region : Option Region
  sampling : Option Sampling
  pre : Option Pre
  wait : Option WaitMark
  /-- The load with a lasting error whose destination the A stream's next word reads (R370). -/
  meetsBad : Option Nat
  /-- The cycle after the interval of its last X instruction (R193, R350). -/
  xNext : Nat
  /-- The cycle since which the X stream has waited on an empty stream register or queue (R394). -/
  xStall : Option Nat
  /-- Serial of the next queue entry. -/
  nextSerial : Nat
  deriving DecidableEq, Repr

/-! ## Core and cluster -/

/-- A bound region (R168, R312): a range of the address space of the party that bound it, of physical addresses for the
Rubricator. -/
structure Bound where
  asid : Option Nat
  base : Nat
  len : Nat
  deriving DecidableEq, Repr

/-- A barrier (R37, Table 1.4). -/
structure Barrier where
  count : Nat
  target : Nat
  firing : BitVec 32
  scope : Nat
  regions : SMap Bound
  forward : Word
  deriving DecidableEq, Repr

/-- The three engines of a core: the slot of each engine's last issuer, the cycle after its last issue, and for X
the first cycle at which it is free (R193, R341). -/
structure Core where
  lastA : Nat
  lastX : Nat
  lastM : Nat
  nextA : Nat
  nextX : Nat
  nextM : Nat
  /-- The cycle after the last issue of the X engine (R380). -/
  issuedX : Nat
  /-- The last cycle for which the core has issued sector accesses, and the sectors of it, by address div 32 (R286). -/
  sectors : Nat × List Nat
  deriving DecidableEq, Repr

/-- A current or temperature sensor (R376, R377), with the reading its last check found: in mA or in thousandths of a
degree. -/
structure Sensor where
  valid : Bool
  reading : Int
  /-- `tsc` of the check that last found the reading changed. -/
  changedAt : Nat
  /-- `tsc` since which a faulty sensor has passed all three tests. -/
  passedSince : Option Nat
  deriving DecidableEq, Repr

/-- A logical cluster: its clock and its series-pair monitor (R376 to R381). Its arithmetic cycles are
`cyc0 + ((now - t0) * mhz - lag) / 10000`, never below `cyc0`, `now` in tenths of a nanosecond. -/
structure Cluster where
  mhz : Nat
  cyc0 : Nat
  t0 : Nat
  lag : Int
  /-- Sensors 0 to 4; unlisted: valid, reading 0. -/
  sensors : SMap Sensor
  /-- The clamps in force: 600 MHz on a sensor count, 400 MHz on heat (R377). -/
  clampSensor : Bool
  clampHeat : Bool
  /-- The imbalance of the pair as last measured, in thousandths, and the mark: 0 none, 1 heavier, 2 lighter (R379). -/
  delta : Nat
  mark : Nat
  /-- Stretched since a measurement found 10 % (R380). -/
  stretched : Bool
  /-- The cycle after the last that has been stretched (R381). -/
  stretchedAt : Nat
  ballast : Word
  stretch : Word
  /-- The energy of the last microsecond, in W (R393). -/
  power : BitVec 16
  /-- The activity model estimate at the last checks, newest first: 1 ms of them (R376). -/
  estimates : List Nat
  /-- The cycle after the last in which the matrix array served a chunk (R380). -/
  served : Nat
  deriving DecidableEq, Repr

/-- A monitor unit (R394). -/
structure Monitor where
  sel : BitVec 8
  edges : SMap Word
  min : BitVec 32
  max : BitVec 32
  count : Word
  bins : SMap (BitVec 32)
  /-- Values to be recorded, oldest first. -/
  pending : List Nat
  deriving DecidableEq, Repr

/-- A translation held by a TLB (R298, R302). `unit` is a core, 192 + cluster for the matrix loads, or 240 + cluster for a
cluster's L2 TLB. -/
structure Tlb where
  unit : Nat
  asid : Nat
  global : Bool
  /-- Virtual base and size of the page, its physical base. -/
  va : Nat
  size : Nat
  pa : Nat
  r : Bool
  w : Bool
  x : Bool
  /-- Rights of the A streams' identities (R, W, X), by core, where uniform over the page; unlisted: not uniform. -/
  rights : SMap (Bool × Bool × Bool)
  /-- A walk for this page has failed, and the access that asked for it has not met that yet. -/
  failed : Bool
  deriving DecidableEq, Repr

/-- A missing page: a walk of it is under way, or waits for one of the 64 walkers (R298). -/
structure Walk where
  /-- The TLBs whose misses share it. -/
  units : List Nat
  asid : Nat
  va : Nat
  /-- PREF alone has asked for it: a failure is forgotten (R145). -/
  pref : Bool
  deriving DecidableEq, Repr

/-! ## Engines and the service die -/

/-- Who issued a copy or holds an engine (R300). -/
inductive Issuer where
  | task (id : Nat)
  | rub
  | queue (q : Nat)
  deriving DecidableEq, Repr

/-- The five kinds of copy (R150). -/
inductive CopyKind where
  | box | fill | vecIn | vecOut | remote
  deriving DecidableEq, Repr

/-- A copy issued and not fully landed (R152, R366). -/
structure Copy where
  /-- Its number. -/
  id : Nat
  issuer : Issuer
  /-- Issuing core. -/
  core : Nat
  kind : CopyKind
  dst : List Word
  src : List Word
  dOff : Word
  sOff : Word
  /-- The box (R151); for CPYV the vector count. -/
  ext : List Nat
  /-- Window descriptor of CPYV: start slice and width. -/
  slice : Nat
  width : Nat
  /-- Barrier handle. -/
  bar : Word
  wash : Bool
  wake : Bool
  /-- Address space; none for physical addresses (R119). -/
  asid : Option Nat
  ident : BitVec 32
  /-- Chunks in all, and the landed ones. -/
  chunks : Nat
  landed : List Nat
  /-- Elements of chunks that have not landed which have been written ahead of their chunk (R318). -/
  early : List Nat
  /-- A faulted chunk whose record is open: the copy is stopped (R153). -/
  stopped : Bool
  /-- Squashed by a pre-emption, awaiting its reissue (R366). -/
  squashed : Bool
  pc : Parcel
  /-- `tsc` at its issue (R394). -/
  issued : Nat
  deriving DecidableEq, Repr

/-- An arrival that a fault holds, or a forwarded arrival on its way (R169, R361). -/
structure Arrival where
  handle : Word
  bytes : Nat
  forwarded : Bool
  wake : Bool
  stopped : Bool
  /-- The task concerned, for its record. -/
  task : Option Nat
  deriving DecidableEq, Repr

/-- An arming not yet complete (R329, R337). -/
structure Arming where
  entry : Nat
  csem : Nat
  cinc : Word
  /-- Tasks created and not ended. -/
  live : List Nat
  faulted : Bool
  deriving DecidableEq, Repr

/-- An entry of a Rubricator queue: the action code, the eight doublewords of its image (R187), and that its waits have held
while it was head (R188). -/
structure QEntry where
  action : Nat
  image : List Word
  ready : Bool
  deriving DecidableEq, Repr

/-- A mailbox (R185): `device` tells the owner. -/
structure Mailbox where
  device : Bool
  len : Nat
  buf : SMap Byte
  deriving DecidableEq, Repr

/-- What a fault record concerns, for its answer (R361, R363). -/
inductive Source where
  | none
  | task (id : Nat)
  | copy (id : Nat)
  | binding (task : Nat) (s : Nat)
  | command (task : Nat) (serial : Nat)
  | arrival (id : Nat)
  | collective (k : Nat)
  | load (task : Nat) (id : Nat)
  /-- What it concerned is no more: an answer changes nothing. -/
  | ended
  deriving DecidableEq, Repr

/-- A fault record to be posted: words 0 to 6 without the posting time (R361, R362). -/
structure Record where
  src : Source
  /-- None where the record has no cause (code 0x00). -/
  cause : Option Cause
  kind : Nat
  info : Bool
  nested : Bool
  path : Bool
  transient : Bool
  stream : Nat
  taskId : Nat
  pc : Nat
  va : Nat
  ident : Nat
  detail : Nat
  serial : Nat
  second : Nat
  deriving DecidableEq, Repr

/-- A posted record that awaits its answer: its number and what it concerns. -/
structure Open where
  number : Nat
  src : Source
  kind : Nat
  cause : Option Cause
  deriving DecidableEq, Repr

/-! ## The levels, the service die, the host and the fabric -/

/-- Where an error is detected (R369, Table 15.7). -/
inductive Flaw where
  /-- A physical 32-byte sector, by address div 32. -/
  | sector (q : Nat)
  /-- Entry `j` of a copy of the remap table of a level: what the copy now holds, none where it is unreadable. -/
  | remap (level copy j : Nat) (value : Option Nat)
  /-- A 32-bit group of a task's window, by 64·slice + group. -/
  | slice (task key : Nat)
  /-- A 32-bit group of a tile store, by its key. -/
  | tile (key : Nat)
  deriving DecidableEq, Repr

/-- The Ruling of one T level (R284 to R290). -/
structure Level where
  /-- N_x. -/
  banks : Nat
  /-- Live_x: an unlisted logical bank `j` lies in physical bank `j`. -/
  live : SMap Nat
  spares : Nat
  /-- The physical number of the next spare. -/
  nextBank : Nat
  /-- Logical banks that are lost. -/
  lost : List Nat
  /-- Poisoned sectors, by level offset div 32. -/
  poison : List Nat
  /-- Sectors with lasting errors, counted by logical bank. -/
  errors : SMap Nat
  /-- Groups of 32 vertical lanes whose spare lane is in use, and lanes that have failed since (R288). T4 shares the lanes of T3, which
  are listed with T3 (R3). -/
  lanes : List Nat
  failedLanes : List Nat
  /-- `tsc` since which a logical bank has been above its thermal limit (R377). -/
  hot : SMap Nat
  /-- The entries in which copy 0, 1 or 2 of the remap table differs from the map in force: what the copy holds, none
  where it is unreadable (R371). -/
  copies : SMap (SMap (Option Nat))
  /-- Copies whose fault a record has reported. -/
  reported : List Nat
  /-- A swap in progress: the logical bank and its spare (R288). -/
  swap : Option (Nat × Nat)
  /-- A re-ruling in progress (R290). -/
  busy : Bool
  deriving DecidableEq, Repr

/-- A mirror slot (R292). `written` lists the destination sectors mirrored writes have reached. -/
structure Mirror where
  src : Nat
  dst : Nat
  len : BitVec 32
  refused : Bool
  active : Bool
  written : List Nat
  deriving DecidableEq, Repr

/-- A valid access-table entry (Table 12.7), as its four doublewords. -/
structure AclEntry where
  w0 : Word
  w1 : Word
  w2 : Word
  w3 : Word
  deriving DecidableEq, Repr

/-- A semaphore's four regions (R40, R168). -/
structure SemRegions where
  regions : SMap Bound
  deriving DecidableEq, Repr

/-- A request in the Inkwell's order, or outside it (R175, R385). -/
structure InkReq where
  task : Nat
  lvl : Nat
  dur : Nat
  /-- An automatic re-request. -/
  auto : Bool
  deriving DecidableEq, Repr

/-- The Inkwell (R382 to R387). -/
structure Ink where
  bal : Int
  rate : Nat
  cap : Nat
  order : List InkReq
  outside : List InkReq
  /-- Grants made and not yet met by their INKQ. -/
  granted : List Nat
  /-- Grants so far. -/
  grants : Nat
  /-- Regions ended in this microsecond: grant, cluster, level, ns in force in it (R384). -/
  past : List (Nat × Nat × Nat × Nat)
  deriving DecidableEq, Repr

/-- A member of the Baseline group as this tower knows it (R389 to R391). -/
structure Member where
  ceil : Nat
  pending : Option (Nat × Nat)
  heard : Nat
  deriving DecidableEq, Repr

/-- The Baseline and the governor (R388 to R392). Times are `tsc` values. -/
structure Baseline where
  own : Nat
  governor : Nat
  requested : Nat
  pending : Option (Nat × Nat)
  group : Option Nat
  /-- The other members, by node id. -/
  members : SMap Member
  silent : Bool
  /-- A join in progress: serial, group, `tsc` of the asking, T_join once fixed. -/
  join : Option (Nat × Nat × Nat × Option Nat)
  /-- The members heard from in the reply to a join. -/
  joining : SMap Member
  /-- A leave in progress: serial and T. -/
  leave : Option (Nat × Nat)
  /-- Towers whose membership begins at a time: node, what is known of it, T. -/
  arriving : List (Nat × Member × Nat)
  leaving : List (Nat × Nat)
  excluded : List Nat
  serial : Nat
  result : Nat
  /-- The command word last read. -/
  command : Word
  deriving DecidableEq, Repr

/-- A conversion or a migration under way (R405 to R408). -/
structure Convert where
  block : Nat
  scratch : Nat
  deriving DecidableEq, Repr

/-- A copy-on-write under way: list entry address (physical), old and new block, the storage of the old one that it copies, and the
identity of the writer that asked for it (R404). -/
structure Cow where
  entry : Nat
  block : Nat
  fresh : Nat
  data : Nat
  ident : BitVec 32
  deriving DecidableEq, Repr

/-- The Folio words in force and the Blotter (R396, R405 to R408). -/
structure Folio where
  /-- The header array's physical base while valid. -/
  base : Option Nat
  enable : Bool
  rate : Nat
  sweeps : BitVec 32
  next : Nat
  converting : List Convert
  migrating : Option Convert
  cows : List Cow
  completed : Nat
  aborted : Nat
  skipped : Nat
  /-- Blocks whose refcount is 0 or that a switch has freed, waiting for their reads to end (R162, R406). -/
  freeing : List Nat
  tables : Option Nat
  detectZero : Bool
  detectRepeat : Bool
  /-- FALLOC calls so far, for the free values of new blocks. -/
  allocs : Nat
  /-- The free-list heads in force, by location; an unlisted list is empty. -/
  heads : SMap Nat
  /-- A migration request read and not yet taken (R408). -/
  request : Option Word
  /-- Headers visited in this microsecond (R405). -/
  visited : Nat
  deriving DecidableEq, Repr

/-- The answer to a remote request: a value, or the cause of a refusal (R417). -/
inductive Answer where
  | ok (v : Word)
  | error (c : Cause)
  deriving DecidableEq, Repr

/-- How a semaphore step is ordered: an acquire, a release, and its scope (R171). -/
structure SemOrder where
  acq : Bool
  rel : Bool
  scope : Nat
  deriving DecidableEq, Repr

/-- What one participant says of an instance (R421): op, mode, type, count, root, participants. -/
structure Start where
  channel : Nat
  k : Nat
  node : Nat
  entry : Word
  root : Nat
  parts : List Nat
  deriving DecidableEq, Repr

/-- What a participant contributes to an instance whose participants are `parts` (R421, R422). -/
structure Share where
  channel : Nat
  k : Nat
  node : Nat
  parts : List Nat
  bytes : List Byte
  deriving DecidableEq, Repr

/-- A remote request's operation (R417). A load or a store is strong at a scope or ordinary (R315). -/
inductive RemoteOp where
  | load (addr : Nat) (n : Nat) (strong : Option Nat)
  | store (addr : Nat) (n : Nat) (val : Word) (strong : Option Nat)
  /-- A chunk of CPYX: bit address, bits and value of each element. -/
  | chunk (elems : List (Nat × Nat × Nat))
  /-- A chunk of CPYX that travels in its stored mode: its address, the mode and the stored image (R306). -/
  | washed (addr mode : Nat) (image : List Byte)
  | arrive (handle : Word) (bytes : Nat) (wake : Bool) (forwarded : Bool) (chunk : Bool)
  | wake (handle : Word)
  | sem (op : Nat) (n : Nat) (cmp : Word) (x : Word) (ord : SemOrder)
  /-- Messages of the collective engines: a start, a contribution, and an abandonment (R421, R424). -/
  | start (m : Start)
  | data (m : Share)
  | abandon (channel : Nat) (k : Nat)
  deriving DecidableEq, Repr

/-- Who waits for a remote response. -/
inductive Asker where
  /-- The word of an agent at the request's program counter, in its handler or not. -/
  | word (ag : Agent) (handler : Bool)
  /-- The load of an agent that has the request's tag. -/
  | load (ag : Agent)
  | copy (id : Nat) (chunk : Nat)
  | arrival (id : Nat)
  /-- The collective engines, for instance `k` of a channel. -/
  | collective (channel : Nat) (k : Nat)
  | none
  deriving DecidableEq, Repr

/-- Writes, by the numbers of their bytes: those that happen before (R310); those visible to whatever comes after, in happens-before
(R313); and those visible to the knower alone: its own, or the ones that an arrival publishes whatever the regions. -/
structure Know where
  before : List Nat
  seen : List Nat
  own : List Nat
  deriving DecidableEq, Repr

/-- An outstanding remote request (R173, R417). -/
structure Remote where
  node : Nat
  op : RemoteOp
  /-- The writes in this tower's memory that the request makes known. -/
  know : Know
  asker : Asker
  pc : Parcel
  ident : BitVec 32
  /-- `tsc` of the first and of the last sending; how often it has been sent. -/
  first : Nat
  last : Nat
  sends : Nat
  /-- The port the request has taken, 12 between the towers of the package; none where no path led to its node (R416). -/
  route : Option Nat
  /-- The answer, once it has come: a value, or the cause of a failure; that the failure is a path failure; and the writes in this tower's
  memory that it makes known. -/
  answer : Option Answer
  path : Bool
  learnt : Know
  deriving DecidableEq, Repr

/-- A tag the target keeps for 1 ms with its result (R173). -/
structure Kept where
  node : Nat
  tag : Nat
  result : Answer
  know : Know
  since : Nat
  deriving DecidableEq, Repr

/-- A collective instance admitted and not ended (R421 to R424). -/
structure Instance where
  k : Nat
  /-- The channel entry's words as read at the start. -/
  words : List Word
  parts : List Nat
  /-- Every participant has started with equal values. -/
  data : Bool
  stopped : Bool
  cause : Cause
  /-- An abandon message has come while a record is open. -/
  abandoned : Bool
  deriving DecidableEq, Repr

/-- A collective channel (R421): instances ended, and the instance under way. -/
structure Channel where
  ended : Nat
  completed : BitVec 32
  inst : Option Instance
  deriving DecidableEq, Repr

/-- A Gegil port's link (R414, R415). -/
structure Link where
  nextSeq : BitVec 16
  expect : BitVec 16
  /-- Flits sent and not acknowledged: their sequence numbers and bytes, oldest first. -/
  held : List (BitVec 16 × List Byte)
  /-- The last flit received failed its CRC once. -/
  failedOnce : Bool
  /-- The flit the other end has refused once and not yet acknowledged. -/
  refused : Option (BitVec 16)
  /-- Messages sent. -/
  messages : Nat
  deriving DecidableEq, Repr

/-- The fabric words in force, the ports and the time stamp's steering (R414 to R419). -/
structure Fabric where
  valid : Bool
  master : Bool
  washWanted : BitVec 12
  node : BitVec 16
  up : BitVec 12
  wash : BitVec 12
  /-- Ports in link training, and downed ports that a rewrite of the fabric word is to retrain. -/
  training : BitVec 12
  retrain : BitVec 12
  /-- Nanoseconds by which `tsc` has still to be steered. -/
  slew : Int
  acting : Bool
  synced : Bool
  /-- `tsc` of the last timing exchange. -/
  timed : Nat
  links : SMap Link
  /-- The last value of the fabric word seen. -/
  word : Word
  /-- The valid route words in force, by node id (R416). -/
  routes : SMap (BitVec 32)
  deriving DecidableEq, Repr

/-- The phase of a Proofing (R373). -/
inductive ProofPhase where
  | pending | pattern | retry | aborting
  deriving DecidableEq, Repr

/-- A Proofing under way: core, phase, whether its pattern has begun, `tsc` at which the phase began, tasks saved from the core
since it began. -/
structure Proofing where
  core : Nat
  phase : ProofPhase
  begun : Bool
  since : Nat
  exempt : List Nat
  deriving DecidableEq, Repr

/-- The Rubricator (R119, R134, R359). -/
structure Rub where
  running : Bool
  halted : Bool
  pc : Parcel
  inHandler : Bool
  /-- `a1` to `a63`; unlisted 0. -/
  regs : SMap Word
  loads : List Load
  gtab : Word
  tvec : Parcel
  cause : BitVec 8
  tpc : Parcel
  meetsBad : Option Nat
  /-- Its word waits at a BWT or SWT (R165, R172). -/
  wait : Option WaitMark
  /-- Loads so far. -/
  nextLoad : Nat
  /-- Loads before this one return before a word of the handler issues (R359). -/
  before : Nat
  blotAge : BitVec 32
  preDrain : BitVec 32
  /-- The time, in picoseconds of `now`, of its next cycle (R134). -/
  nextAt : Nat
  deriving DecidableEq, Repr

/-- What the host asks (R410 to R413, R425, R427). -/
inductive HostMsg where
  | bar2Read (off : Nat) (n : Nat)
  | bar2Write (off : Nat) (bytes : List Byte)
  | bar4Write (mode : Nat) (off : Nat) (bytes : List Byte)
  | bar4Read (off : Nat) (n : Nat)
  | hmbCtl (n : Nat) (val : BitVec 32)
  | hmbPend (ones : Word)
  | hmbBuf (n : Nat) (off : Nat) (bytes : List Byte)
  | bar0Read (off : Nat) (n : Nat)
  | bootLen (val : Word)
  | attGo (val : BitVec 8)
  | attNonce (bytes : List Byte)
  | msixMask (vector : Nat) (masked : Bool)
  | msixFunction (masked : Bool)
  deriving DecidableEq, Repr

/-- What the tower gives the host: read data, and MSI-X messages. -/
inductive HostOut where
  | data (bytes : List Byte)
  | msix (vector : Nat)
  deriving DecidableEq, Repr

/-- What reaches a tower over the fabric, once the flits that carry it are whole. -/
inductive FabMsg where
  /-- With what it makes known, the `tsc` of its first sending, and whether it is sent again. What a message makes known are writes to the
  memory of the tower that gets it; of one that sets out, to the memory of the tower that sends it. -/
  | request (node : Nat) (tag : Nat) (ident : BitVec 32) (op : RemoteOp) (know : Know) (stamp : Nat) (again : Bool)
  | response (tag : Nat) (answer : Answer) (know : Know)
  /-- A replay has come after its tag left the filter (R173). -/
  | refused (tag : Nat)
  /-- An abandonment that has been taken from its request and waits for its instance (R424). -/
  | abandon (channel : Nat) (k : Nat)
  | announce (node : Nat) (ceil : Nat) (at_ : Nat)
  | joinAsk (node : Nat) (group : Nat)
  | joining (node : Nat) (ceil : Nat) (pending : Option (Nat × Nat)) (at_ : Nat)
  | leaving (node : Nat) (at_ : Nat)
  /-- The members with their ceilings and pending changes, the towers that join at a time, and those that leave at one. -/
  | joinReply (members : List (Nat × Nat × Option (Nat × Nat))) (arriving : List (Nat × Member × Nat)) (leaving : List (Nat × Nat))
  | heartbeat (node : Nat) (stamp : Nat) (ceil : Nat) (pending : Option (Nat × Nat))
  | timing (port : Nat) (ahead : Int) (master : Bool) (node : Nat)
  deriving DecidableEq, Repr

/-- A flit as it arrives: its port and its 256 bytes (R414). -/
structure Flit where
  port : Nat
  bytes : List Byte
  deriving DecidableEq, Repr

/-- The last times at which what recurs has happened: ticks, checks, evaluations, reads and heartbeats in `tsc` periods, and the
pair measurements in 16-cycle periods (R376, R379, R382, R383, R388, R391). -/
structure Clocks where
  tick : Nat
  sensor : Nat
  governor : Nat
  service : Nat
  heartbeat : Nat
  blotter : Nat
  timing : Nat
  pairs : SMap Nat
  deriving DecidableEq, Repr

/-- Readings and measured energies: what the sensors, the delay lines and the energy meters give (R376, R379, R384). -/
structure Meters where
  /-- By 8·cluster + sensor; unlisted 0. -/
  readings : SMap Int
  /-- The activity model estimate of a cluster, with ballast and idle draw: e_c. -/
  estimates : SMap Nat
  /-- E_c of the microsecond just ended, by cluster, and the estimate e_task of the task that holds a grant, by grant (R384). -/
  energy : SMap Nat
  draws : SMap Nat
  tower : Nat
  deriving DecidableEq, Repr

/-- The host side: mailboxes, interrupts, boot and attestation (R185, R186, R409 to R413, R425 to R427). -/
structure HostSide where
  boxes : SMap Mailbox
  /-- `hmb.ctl<n>` bits [17] set. -/
  refused : List Nat
  pend : Word
  msiPend : BitVec 65
  msiMask : BitVec 65
  funcMask : Bool
  linkUp : Bool
  /-- BAR 2 opens onto T4 only. -/
  staging : Bool
  bootStat : BitVec 8
  bootLen : Word
  version : Word
  digest : List Byte
  attGo : BitVec 8
  nonce : List Byte
  /-- The nonce of the report under way. -/
  taken : List Byte
  report : List Byte
  /-- Tower resets in the model's time (R427). -/
  resets : Word
  /-- Wash chunks that arrive through BAR 4, by host offset: the bytes so far, or none once the chunk has failed (R411). -/
  washing : SMap (Option (List Byte))
  inbox : List HostMsg
  outbox : List HostOut
  deriving DecidableEq, Repr

/-- Writes to the tower control block on their way: offset and value (R290, R292, R299, R303). -/
abbrev CtlWrite := Nat × Word

/-- The registers of the tower control block (Table 12.8). -/
structure Ctl where
  asbase : BitVec 57
  /-- `ctl.asbase` has been written since reset (R325). -/
  written : Bool
  invva : BitVec 52
  inval : Word
  /-- The virtual base of the invalidation that runs. -/
  invFrom : BitVec 52
  /-- An invalidation is running (`ctl.inval` [63]). -/
  invBusy : Bool
  washhost : BitVec 1
  mirrors : SMap Mirror
  incoming : List CtlWrite
  /-- Writes of the service die to its area that a re-ruling holds: address and bytes, oldest first (R290). -/
  heldWrites : List (Nat × List Byte)
  /-- Semaphores with the values that steps of them gave while a re-ruling held the reading of channel entries (R290, R421). -/
  heldBells : List (Nat × Word)
  deriving DecidableEq, Repr

/-! ## Consistency (R307 to R324)

Memory holds the newest write of each doubleword. A reader that has not yet seen it stands at an older write: that is a lag. -/

/-- Who reads memory on its own account, and may lag: the A stream of a task, what a copy or binding it issues now would see, what
a matrix command it issues now would see, a copy, a binding, a command, the Rubricator, a queue, a task created now, the service
engines (collective engines, Blotter, walkers, and what else the service die reads), the host, a peer tower. -/
inductive Viewer where
  | stream (task : Nat)
  | engines (task : Nat)
  | array (task : Nat)
  | copy (id : Nat)
  | binding (task : Nat) (n : Nat)
  | command (task : Nat) (serial : Nat)
  | rub
  | queue (q : Nat)
  | start
  | collective
  | blotter
  | walkers
  | die
  | host
  | peer (node : Nat)
  deriving DecidableEq, Repr

/-- A party (R307). -/
inductive Party where
  | task (id : Nat)
  | rub
  | service
  | host
  | peer (node : Nat)
  deriving DecidableEq, Repr

/-- The home of a release, an acquire or a strong access (R307): a core, the service die, or another tower. -/
inductive Home where
  | core (c : Nat)
  | die
  | far (node : Nat)
  deriving DecidableEq, Repr

/-- A scope, the party that acts at it, and its home (R308). -/
structure Standing where
  scope : Nat
  party : Party
  home : Home
  /-- The party's next strong access has issued, so that this one has been performed for every observer (R315). -/
  done : Bool
  deriving DecidableEq, Repr

/-- A write that some viewer has not yet seen: its number, the doubleword's bytes after it, which of them it wrote (the first, and how
many), and where it stands when it is strong. Byte `i` of write `n` has the number 8·n + i. -/
structure Later where
  id : Nat
  bytes : List Byte
  first : Nat
  count : Nat
  strong : Option Standing
  deriving DecidableEq, Repr

/-- A viewer lags at a doubleword, by address div 8: its bytes before the writes that not everything of it has been seen of, those writes,
oldest first, and how many of them the viewer has seen of each byte. -/
structure Lag where
  who : Viewer
  key : Nat
  base : List Byte
  later : List Later
  pos : List Nat
  deriving DecidableEq, Repr

/-- Of whom or what writes are known: the A stream (`own`: its stores that no FENCE has followed), what a stream passes to the
others of its task, in all, by section, and by sections long retired, a copy at its issue, a chunk, the copies of an issuer that have
landed, the commands of a matrix stream, a command, the Rubricator, a queue, the collective engines, the tasks of an arming that have
ended, a forwarded arrival. -/
inductive Knower where
  | stream (task : Nat)
  | out (task : Nat) (st : Stream)
  | part (task : Nat) (st : Stream) (n : BitVec 16)
  | passed (task : Nat) (st : Stream)
  | landed (by_ : Issuer)
  | copy (id : Nat)
  | chunk (copy : Nat) (k : Nat)
  | matrix (task : Nat) (ms : Nat)
  | command (task : Nat) (serial : Nat)
  | rub
  | queue (q : Nat)
  | collective
  | ended (arming : Nat)
  | arrival (id : Nat)
  deriving DecidableEq, Repr

/-- A release: scope, home, the parties that TASK scope holds, and what it carries: `seen` is what it publishes (R308, R312). -/
structure Release where
  scope : Nat
  home : Home
  parties : List Party
  know : Know
  deriving DecidableEq, Repr

/-- The arrivals at a barrier: the tasks that have arrived in the present phase, the writes that happen before an arrival, the data of
the chunks, commands and forwarded firings among them, and the writes visible to those who made them (R308, R312, R313). -/
structure PhaseLog where
  arrivers : List Party
  before : List Nat
  data : List Nat
  seen : List Nat
  deriving DecidableEq, Repr

/-- What is still unseen, and by whom. Beside `phases`' arrivers, everything is kept only while some viewer lags. -/
structure Order where
  lags : List Lag
  /-- Number of the next write. -/
  next : Nat
  knows : List (Knower × Know)
  /-- By 2,048·core + barrier. -/
  phases : SMap PhaseLog
  /-- Firings: barrier, number, release. -/
  firings : List (Nat × BitVec 32 × Release)
  /-- Semaphore steps that release, in order. -/
  posts : List (Nat × Release)
  deriving DecidableEq, Repr

/-- Memory as instruction fetch by a task sees it: as it stood when the task last began to run (R77). -/
structure Code where
  mem : List Host.Cell
  washed : SMap (BitVec 4)
  deriving DecidableEq, Repr

/-- The parameters of a step that is no word: which task, copy, core, cluster or port it concerns, and so on. -/
structure Arg where
  x : Nat
  y : Nat
  z : Nat
  deriving DecidableEq, Repr

/-- What the next step does: run the word of an agent, run a step, or choose. -/
inductive Turn where
  | idle
  | word (ag : Agent)
  | event (i : Instr) (arg : Arg)
  deriving DecidableEq, Repr

/-- A choice the manual leaves open, made from outside: which engine issues, which step happens, which input
arrives, or that a tenth of a nanosecond passes. -/
inductive Pick where
  | engine (core : Nat) (st : Stream)
  | rub
  | event (i : Instr) (arg : Arg)
  | host (m : HostMsg)
  | fabric (m : FabMsg)
  | flit (f : Flit)
  /-- The other end of a port refuses a flit that has failed its CRC there (R415). -/
  | refuse (port : Nat) (seq : BitVec 16)
  | meters (m : Meters)
  /-- An error is detected, which recurs on its retry or not. -/
  | flaw (f : Flaw) (lasting : Bool)
  /-- A vertical lane of a level fails; T3 and T4 share theirs. -/
  | lane (level lane : Nat)
  /-- From now on a viewer sees a doubleword, by address div 8, as it stands now (R314). -/
  | lag (who : Viewer) (key : Nat)
  /-- The next `n` writes of the element of `size` bytes at `addr` reach a viewer that lags. -/
  | see (who : Viewer) (addr size n : Nat)
  | pass
  deriving DecidableEq, Repr

/-- Why the machine stops. -/
inductive Fault where
  /-- The word to run belongs to no task or stream that could run it. Raised by every meaning that acts for an
  agent; safe: no step of the machine leads to such a state. -/
  | noAgent
  deriving DecidableEq, Repr

/-- Why a step has no meaning. -/
inductive Refusal where
  /-- The instruction has no meaning yet. Raised by `exec`; safe. -/
  | notModelled (mnemonic : String)
  deriving DecidableEq, Repr

/-- The machine. -/
structure State where
  /-- Tenths of a nanosecond since tower reset, and the steering of `tsc` against it (R419). -/
  now : Nat
  tscAdjust : Int
  /-- Which tower of its package this is (R1). -/
  tower : Nat
  /-- Physical memory of the package, by byte address of Table 12.1; an unlisted byte reads 0. -/
  mem : List Host.Cell
  /-- Wash modes by physical address div 512; unlisted: raw (R304). -/
  washed : SMap (BitVec 4)
  /-- Physical 32-byte sectors, by address div 32, in which a read meets an error: true when lasting (R369). -/
  flaws : SMap Bool
  /-- Errors met and not yet judged by their retry. -/
  retries : List (Flaw × Bool)
  /-- 32-bit groups of the tile stores, by key, in which a read meets a lasting parity error (R369). -/
  badTiles : List Nat
  levels : SMap Level
  frozen : Bool
  sealed : Bool
  /-- Access tables of both towers of the package, by 2,048·tower + 256·target + entry; unlisted: all zero (R301). -/
  acl : SMap AclEntry
  ctl : Ctl
  tlb : List Tlb
  walks : List Walk
  tasks : SMap Task
  nextTask : Nat
  cores : SMap Core
  /-- Barriers, by 2,048·core + number; unlisted: all zero (R37). -/
  bars : SMap Barrier
  /-- Semaphores; unlisted 0, regions unlisted empty (R40). -/
  sems : SMap Word
  semRegions : SMap SemRegions
  clusters : SMap Cluster
  /-- Tile stores, by 2^20·cluster + 512·row + column; unlisted 0 (R255). -/
  tiles : SMap (BitVec 32)
  /-- Sectors delayed by conflicts, by 4·core + level (R286). -/
  conflicts : SMap Word
  /-- Monitor units, by 2·core + unit (R394). -/
  monitors : SMap Monitor
  copies : SMap Copy
  nextCopy : Nat
  /-- Forwarded arrivals on their way and arrivals a fault holds. -/
  arrivals : SMap Arrival
  nextArrival : Nat
  armings : SMap Arming
  /-- Arming attempts so far (R361). -/
  nextArming : Nat
  /-- Lease requests in order of request: cluster, task, `tsc` (R258). -/
  leaseOrder : List (Nat × Nat × Nat)
  queues : SMap (List QEntry)
  /-- Records to be posted, and posted ones that await an answer (R362, R363). -/
  records : List Record
  opens : List Open
  /-- Info records dropped and records posted, as the service area shows them. -/
  posted : BitVec 32
  dropped : BitVec 32
  proofing : Option Proofing
  failedCores : List Nat
  /-- Frames in use, by physical address (R364): the number of the save, and the bytes saved. -/
  frames : SMap (Nat × Nat)
  /-- Saves so far. -/
  saves : Nat
  ink : Ink
  base : Baseline
  clocks : Clocks
  /-- Service-area words out of range already reported, by offset (R382). -/
  badWords : SMap Word
  folio : Folio
  fabric : Fabric
  remotes : SMap Remote
  nextTag : Nat
  kept : List Kept
  channels : SMap Channel
  starts : List Start
  /-- Contributions received, by (channel, k, node). -/
  shares : List Share
  host : HostSide
  rub : Rub
  meters : Meters
  /-- Messages and flits that have arrived, and messages sent: node and message. -/
  fabIn : List FabMsg
  flitIn : List Flit
  fabOut : List (Nat × FabMsg)
  /-- Flits sent on the ports (R414). -/
  flitOut : List Flit
  /-- What is written and not yet seen by everyone (R314), and what the tasks that run fetch their code from (R77). -/
  order : Order
  codes : SMap Code
  /-- The model's own: who runs, what the next step is, the parameters of a step, the outside choices still to come,
  whether the last word waited, and a counter for free values. -/
  cur : Agent
  turn : Turn
  arg : Arg
  agenda : List Pick
  stalled : Bool
  fresh : Nat
  deriving DecidableEq, Repr

/-! ## Reset -/

/-- A sensor that no check has yet concerned. -/
def Sensor.reset : Sensor := { valid := true, reading := 0, changedAt := 0, passedSince := none }

/-- A cluster at tower reset: what an unlisted cluster holds. -/
def Cluster.reset : Cluster :=
  { mhz := 1250, cyc0 := 0, t0 := 0, lag := 0, sensors := [], clampSensor := false, clampHeat := false, delta := 0,
    mark := 0, stretched := false, stretchedAt := 0, ballast := 0, stretch := 0, power := 0, estimates := [], served := 0 }

/-- A core's engines at tower reset: what an unlisted core holds. -/
def Core.reset : Core := { lastA := 7, lastX := 7, lastM := 7, nextA := 0, nextX := 0, nextM := 0, issuedX := 0, sectors := (0, []) }

/-- A barrier at tower reset: what an unlisted barrier holds (R37). -/
def Barrier.reset : Barrier := { count := 0, target := 0, firing := 0, scope := 0, regions := [], forward := 0 }

/-- An access-table entry that is all zero. -/
def AclEntry.empty : AclEntry := { w0 := 0, w1 := 0, w2 := 0, w3 := 0 }

/-- Entry 0 of an access table as the boot ROM sets it (R425): all rights on the units `first` to `last`, for class 1. -/
def AclEntry.boot (first last : Word) : AclEntry :=
  { w0 := 0xF800000000000000#64 ||| first, w1 := last, w2 := 0xE000000020000000#64, w3 := 0 }

/-- A level with no bank lost (Table 12.3). -/
def Level.reset (banks spares : Nat) : Level :=
  { banks := banks, live := [], spares := spares, nextBank := banks, lost := [], poison := [], errors := [],
    lanes := [], failedLanes := [], hot := [], copies := [], reported := [], swap := none, busy := false }

/-- A mailbox at reset: what an unlisted mailbox holds (R185). -/
def Mailbox.reset : Mailbox := { device := false, len := 0, buf := [] }

/-- A mirror slot that has not been written. -/
def Mirror.reset : Mirror := { src := 0, dst := 0, len := 0, refused := false, active := false, written := [] }

/-- A monitor unit at reset: what an unlisted unit holds. -/
def Monitor.reset : Monitor :=
  { sel := 0, edges := [], min := 0xFFFFFFFF#32, max := 0, count := 0, bins := [], pending := [] }

/-- The Rubricator at reset: not running until the image verifies (R425). -/
def Rub.reset : Rub :=
  { running := false, halted := false, pc := 0, inHandler := false, regs := [], loads := [], gtab := 0, tvec := 0,
    meetsBad := none, wait := none, nextLoad := 0, before := 0, cause := 0, tpc := 0, blotAge := 0xFFFFFFFF#32, preDrain := 20#32, nextAt := 0 }

/-- The Inkwell at reset: 1,200 W and 120,000 µJ in force, the balance at capacity (R382, R383). -/
def Ink.reset : Ink :=
  { bal := 120000, rate := 1200, cap := 120000, order := [], outside := [], granted := [], grants := 0, past := [] }

/-- The Baseline at reset: no group. -/
def Baseline.reset : Baseline :=
  { own := 1250, governor := 1250, requested := 0, pending := none, group := none, members := [], silent := false,
    join := none, joining := [], leave := none, arriving := [], leaving := [], excluded := [], serial := 0, result := 0,
    command := 0 }

/-- The Folio at reset: invalid, the Blotter disabled (R396). -/
def Folio.reset : Folio :=
  { base := none, enable := false, rate := 1, sweeps := 0, next := 0, converting := [], migrating := none, cows := [],
    completed := 0, aborted := 0, skipped := 0, freeing := [], tables := none, detectZero := false,
    detectRepeat := false, allocs := 0, heads := [], request := none, visited := 0 }

/-- The fabric at reset: no port trains (R416). -/
def Fabric.reset : Fabric :=
  { valid := false, master := false, washWanted := 0, node := 0, up := 0, wash := 0, training := 0,
    retrain := 0, slew := 0, acting := false, synced := false,
    timed := 0, links := [], word := 0, routes := [] }

/-- The host side at reset: the link is up, BAR 2 opens onto T4 only, `boot.stat` reads 0 (R425). -/
def HostSide.reset : HostSide :=
  { boxes := [], refused := [], pend := 0, msiPend := 0, msiMask := 0, funcMask := false, linkUp := true,
    staging := true, bootStat := 0, bootLen := 0, version := 0, digest := [], attGo := 0, nonce := [], taken := [],
    report := [], resets := 0, washing := [], inbox := [], outbox := [] }

/-- The tower control block at reset. -/
def Ctl.reset : Ctl :=
  { asbase := 0, written := false, invva := 0, inval := 0, invFrom := 0, invBusy := false, washhost := 0, mirrors := [],
    incoming := [], heldWrites := [], heldBells := [] }

/-- The access tables of a tower as the boot ROM leaves them (R425, Table 12.2), from index `k` on: T1 to T4, LPDDR6, the
semaphore file, the tower control block and the host window. -/
def bootAcl (k : Nat) : SMap AclEntry :=
  [(k, AclEntry.boot 0x0#64 0x3FFF0000#64), (k + 256, AclEntry.boot 0x40000000#64 0xBFFF0000#64),
    (k + 512, AclEntry.boot 0xC0000000#64 0x17FFF0000#64), (k + 768, AclEntry.boot 0x180000000#64 0x27FFF0000#64),
    (k + 1024, AclEntry.boot 0x4000000000#64 0x9FFFFF0000#64), (k + 1280, AclEntry.boot 0xF100000000#64 0xF100000000#64),
    (k + 1536, AclEntry.boot 0xF000000000#64 0xF000030000#64), (k + 1792, AclEntry.boot 0x0#64 0xFFFFFF0000#64)]

/-- Nothing is unseen. -/
def Order.reset : Order := { lags := [], next := 0, knows := [], phases := [], firings := [], posts := [] }

/-- The machine right after tower reset and the boot ROM's reset actions (R425): nothing in memory, no task, the
Rubricator waiting for an image. -/
def State.reset : State :=
  { now := 0, tscAdjust := 0, tower := 0, mem := [], washed := [], flaws := [], retries := [], badTiles := [],
    levels := [(0, Level.reset 8192 246), (1, Level.reset 4096 123), (2, Level.reset 4096 123), (3, Level.reset 2048 62)],
    frozen := false, sealed := false,
    acl := bootAcl 0 ++ bootAcl 2048,
    ctl := Ctl.reset, tlb := [], walks := [], tasks := [], nextTask := 0, cores := [], bars := [], sems := [],
    semRegions := [], clusters := [], tiles := [], conflicts := [], monitors := [], copies := [], nextCopy := 0,
    arrivals := [], nextArrival := 0, armings := [], nextArming := 0, leaseOrder := [], queues := [], records := [],
    opens := [], posted := 0, dropped := 0, proofing := none, failedCores := [], frames := [], saves := 0, ink := Ink.reset,
    base := Baseline.reset, clocks := { tick := 0, sensor := 0, governor := 0, service := 0, heartbeat := 0, blotter := 0, timing := 0, pairs := [] },
    badWords := [], folio := Folio.reset, fabric := Fabric.reset, remotes := [], nextTag := 0,
    kept := [], channels := [], starts := [], shares := [], host := HostSide.reset, rub := Rub.reset,
    meters := { readings := [], estimates := [], energy := [], draws := [], tower := 0 }, fabIn := [], flitIn := [],
    fabOut := [], flitOut := [], order := Order.reset, codes := [], cur := .rub, turn := .idle, arg := { x := 0, y := 0, z := 0 }, agenda := [], stalled := false,
    fresh := 0 }

end Sys2Proof.Machine
end

