-- ==== Sys2Proof/Machine/Ops.lean ====
section
/-! DEFINITION. The named operations every meaning is built from: time, bits and bytes, physical memory with its access
checks, translation, registers, the program counter, and taking a trap and returning from one. -/

namespace Sys2Proof.Machine

/-! ## Why a word does not complete -/

/-- A word that cannot complete now: it traps, it waits, or it waits for a page-table walk. -/
inductive Stop where
  | trap (c : Cause) (va : Nat)
  /-- A trap after a change that stands (R129). -/
  | trapWith (c : Cause) (s : State)
  /-- UNCORRECTABLE: a lasting parity error of a slice or of a tile-store word (R369). -/
  | parity (place : Nat)
  | hold
  /-- UNCORRECTABLE with the path failure bit of its record (R417). -/
  | path (s : State)
  /-- A wait whose request the state records. -/
  | pend (s : State)
  | miss (unit : Nat) (asid : Nat) (va : Nat)

/-- A result, or why there is none yet. -/
abbrev Try (α : Type) := Except Stop α

/-- Trap with a cause and no address. -/
def raise {α : Type} (c : Cause) : Try α := .error (.trap c 0)

/-- Trap unless the condition holds. -/
def require (b : Bool) (c : Cause) : Try Unit := if b then .ok () else raise c

/-- Wait unless the condition holds. -/
def await (b : Bool) : Try Unit := if b then .ok () else .error .hold

/-! ## Numbers -/

/-- Bits `lo` to `lo + n − 1` of a number. -/
def bits (v lo n : Nat) : Nat := v / 2 ^ lo % 2 ^ n

/-- `Ceil(a / b)`. -/
def ceilDiv (a b : Nat) : Nat := (a + b - 1) / b

/-- An n-bit pattern as a signed number (R46). -/
def signed (n v : Nat) : Int :=
  if v % 2 ^ n < 2 ^ (n - 1) then ((v % 2 ^ n : Nat) : Int) else ((v % 2 ^ n : Nat) : Int) - (2 ^ n : Nat)

/-- `Wrap(v, n)` of R46, as a number below `2^n`. -/
def wrap (n : Nat) (v : Int) : Nat := (v % ((2 ^ n : Nat) : Int)).toNat

/-- A 64-bit value from an exact integer. -/
def word (v : Int) : Word := BitVec.ofInt 64 v

/-- The number little-endian bytes spell (R9). -/
def leNat : List Byte → Nat
  | [] => 0
  | b :: t => b.toNat + 256 * leNat t

/-- A number in `n` little-endian bytes (R9). -/
def leBytes : Nat → Nat → List Byte
  | 0, _ => []
  | n + 1, v => BitVec.ofNat 8 v :: leBytes n (v / 256)

/-- Doublewords from bytes (R147, R187, R327). -/
def dwords (n : Nat) (bs : List Byte) : List Word :=
  (List.range n).map (fun i => BitVec.ofNat 64 (leNat ((bs.drop (8 * i)).take 8)))

/-- A doubleword of a list, 0 beyond its end. -/
def dw (ws : List Word) (i : Nat) : Nat := (ws.getD i 0).toNat

/-- (firing − n) mod 2^32 < 2^31 (R38). -/
def reached (firing n : BitVec 32) : Bool := decide ((firing - n).toNat < 2 ^ 31)

/-! ## Time -/

/-- `tsc` in ns (R419). -/
def State.tsc (s : State) : Nat := ((s.now / 10 : Nat) + s.tscAdjust).toNat

/-- The cluster a core belongs to (R2). -/
def clusterOf (core : Nat) : Nat := core / 4

/-- A cluster; an unlisted one is as at reset. -/
def State.cluster (s : State) (c : Nat) : Cluster := s.clusters.get Cluster.reset c

def State.setCluster (s : State) (c : Nat) (v : Cluster) : State := { s with clusters := s.clusters.set Cluster.reset c v }

/-- Arithmetic-clock cycles of a cluster since tower reset (`cyc`, R42; R381). -/
def State.cycles (s : State) (c : Nat) : Nat :=
  let k := s.cluster c
  k.cyc0 + ((((s.now - k.t0) * k.mhz : Nat) - k.lag : Int) / 10000).toNat

/-- The cycle of a core's engines. -/
def State.cyc (s : State) (core : Nat) : Nat := s.cycles (clusterOf core)

/-- A core's engines; unlisted ones are as at reset. -/
def State.core (s : State) (c : Nat) : Core := s.cores.get Core.reset c

def State.setCore (s : State) (c : Nat) (v : Core) : State := { s with cores := s.cores.set Core.reset c v }

/-! ## Tasks and streams -/

def State.task? (s : State) (id : Nat) : Option Task := s.tasks.find? id

def State.setTask (s : State) (id : Nat) (t : Task) : State := { s with tasks := s.tasks.put id t }

/-- Apply a change to a task that exists. -/
def State.onTask (s : State) (id : Nat) (f : Task → Task) : State := { s with tasks := s.tasks.adjust id f }

def Task.stream (t : Task) : Stream → StreamSt
  | .a => t.sa
  | .x => t.sx
  | .m => t.sm

def Task.setStream (t : Task) (st : Stream) (v : StreamSt) : Task :=
  match st with
  | .a => { t with sa := v }
  | .x => { t with sx := v }
  | .m => { t with sm := v }

/-- The number of a stream in `trap.stream` and in records (R42). -/
def Stream.code : Stream → Nat
  | .a => 0
  | .x => 1
  | .m => 2

/-- `task.id` (R42): launch entry, core, tower and slot. -/
def Task.ident (t : Task) (tower : Nat) : Nat :=
  t.entry * 2 ^ 17 + t.core * 2 ^ 9 + tower * 2 ^ 8 + t.slot.getD 0

/-- WinSize (R16). -/
def Task.winSize (t : Task) : Nat := 256 * t.win

/-- The task is resident on its core. -/
def Task.isResident (t : Task) : Bool := t.slot.isSome

/-- Its context is being saved (R365). -/
def Task.saving (t : Task) : Bool :=
  match t.pre with
  | some p => decide (p.phase = .saving)
  | none => false

/-- The A stream acts for the task and no handler of another stream's trap holds it. -/
def Task.inHandler (t : Task) : Bool := t.handler.isSome

/-! ## Registers -/

/-- An A register of whoever runs: `a0` reads 0 (R14). -/
def State.reg (s : State) (n : BitVec 6) : Word :=
  if n = 0 then 0
  else
    match s.cur with
    | .rub => s.rub.regs.get 0 n.toNat
    | .task id _ =>
      match s.task? id with
      | some t => t.regs.get 0 n.toNat
      | none => 0

/-- A load in flight to register `n` no longer writes it: a later word has (R121). -/
def cancelLoads (n : Nat) (ls : List Load) : List Load :=
  ls.map (fun l => if l.dst = .reg n then { l with dst := .reg 0 } else l)

def Rub.setReg (r : Rub) (n : BitVec 6) (v : Word) : Rub :=
  if n = 0 then r else { r with regs := r.regs.set 0 n.toNat v, loads := cancelLoads n.toNat r.loads }

def Task.setReg (t : Task) (n : BitVec 6) (v : Word) : Task :=
  if n = 0 then t else { t with regs := t.regs.set 0 n.toNat v, loads := cancelLoads n.toNat t.loads }

/-- Write an A register of whoever runs; a write to `a0` is discarded (R14). -/
def State.setReg (s : State) (n : BitVec 6) (v : Word) : State :=
  match s.cur with
  | .rub => { s with rub := s.rub.setReg n v }
  | .task id _ => s.onTask id (fun t => t.setReg n v)

/-- The loads in flight of whoever runs. -/
def State.loads (s : State) : List Load :=
  match s.cur with
  | .rub => s.rub.loads
  | .task id _ =>
    match s.task? id with
    | some t => t.loads
    | none => []

/-- Registers whose value is still being produced make a reader wait (R121). -/
def State.ready (s : State) (ns : List (BitVec 6)) : Bool :=
  ns.all (fun n => n = 0 || s.loads.all (fun l => decide (l.dst ≠ .reg n.toNat)))

/-! ## The program counter -/

/-- The parcel address of the executing word. -/
def State.pc (s : State) : Parcel :=
  match s.cur with
  | .rub => s.rub.pc
  | .task id st =>
    match s.task? id with
    | some t => (t.stream st).pc
    | none => 0

/-- Leave the current section for the header at `to` (R80, R83). -/
def StreamSt.leave (v : StreamSt) (dst : Parcel) : StreamSt :=
  { v with phase := .header, pc := dst, len := 0, left := v.left ++ [v.sec] }

/-- The first parcel after the span (R80). -/
def StreamSt.spanEnd (v : StreamSt) : Parcel := v.hdr + BitVec.ofNat 50 (2 + 3 * v.len)

/-- On to the word after this one; after the last word of a span, to the next header (R80). -/
def StreamSt.advance (v : StreamSt) : StreamSt :=
  if v.pc + 3 = v.spanEnd then v.leave (v.pc + 3) else { v with pc := v.pc + 3 }

/-- How far a parcel lies beyond the header of the current section. -/
def StreamSt.offset (v : StreamSt) (p : Parcel) : Nat := (p - v.hdr).toNat

/-- The target of a taken branch lies inside the current span. -/
def StreamSt.inSpan (v : StreamSt) (p : Parcel) : Bool :=
  decide (2 ≤ v.offset p) && decide (v.offset p < 2 + 3 * v.len)

/-- A parcel of the span is the first of a word. -/
def StreamSt.wordStart (v : StreamSt) (p : Parcel) : Bool := decide ((v.offset p - 2) % 3 = 0)

/-- On past the executing word. In a handler, and on the Rubricator, words follow one another (R134, R356). -/
def State.advance (s : State) : State :=
  match s.cur with
  | .rub => { s with rub := { s.rub with pc := s.rub.pc + 3 } }
  | .task id st =>
    s.onTask id (fun t =>
      let v := t.stream st
      if st = .a && t.inHandler then t.setStream st { v with pc := v.pc + 3 } else t.setStream st v.advance)

/-- Goto(p) is legal: not into the middle of a word of the span (R80). -/
def State.gotoOk (s : State) (p : Parcel) : Bool :=
  match s.cur with
  | .rub => true
  | .task id st =>
    match s.task? id with
    | none => true
    | some t =>
      let v := t.stream st
      (st = .a && t.inHandler) || !v.inSpan p || v.wordStart p

/-- Goto(p) of R128, the target being legal. -/
def State.goto (s : State) (p : Parcel) : State :=
  match s.cur with
  | .rub => { s with rub := { s.rub with pc := p } }
  | .task id st =>
    s.onTask id (fun t =>
      let v := t.stream st
      if (st = .a && t.inHandler) || v.inSpan p then t.setStream st { v with pc := p } else t.setStream st (v.leave p))

/-! ## Master identities and access tables -/

/-- The identity of a core's stream or engine (Table 12.6): engine 0 the stream, 1 Scribe, 2 stream register,
3 matrix array. -/
def coreIdent (tower core stream engine : Nat) : BitVec 32 :=
  BitVec.ofNat 32 (tower * 2 ^ 28 + core * 2 ^ 20 + stream * 2 ^ 18 + engine * 2 ^ 15)

def rubIdent (tower : Nat) : BitVec 32 := BitVec.ofNat 32 (2 ^ 29 + tower * 2 ^ 28)

/-- Service engines: 0 Blotter, 1 walkers, 2 collective engines. -/
def serviceIdent (tower engine : Nat) : BitVec 32 := BitVec.ofNat 32 (2 * 2 ^ 29 + tower * 2 ^ 28 + engine * 2 ^ 24)

def hostIdent (function : Nat) : BitVec 32 := BitVec.ofNat 32 (3 * 2 ^ 29 + function)

def peerIdent (node : Nat) : BitVec 32 := BitVec.ofNat 32 (4 * 2 ^ 29 + node * 2 ^ 13)

/-- Where a physical address leads (R281, R282). -/
inductive Place where
  /-- Target 0 to 4 of R301 in a tower of the package, at a tower offset. -/
  | store (tower target off : Nat)
  | ctl (tower off : Nat)
  | semFile (tower off : Nat)
  | host (off : Nat)
  | remote (node off : Nat)
  | unmapped
  deriving DecidableEq, Repr

/-- The target of a tower offset (Table 12.2). -/
def placeOffset (tower o : Nat) : Place :=
  if o < 0x40000000 then .store tower 0 o
  else if o < 0xC0000000 then .store tower 1 o
  else if o < 0x180000000 then .store tower 2 o
  else if o < 0x280000000 then .store tower 3 o
  else if 0x4000000000 ≤ o ∧ o < 0xA000000000 then .store tower 4 o
  else if 0xF000000000 ≤ o ∧ o < 0xF000040000 then .ctl tower o
  else if 0xF100000000 ≤ o ∧ o < 0xF100008000 then .semFile tower o
  else .unmapped

/-- This tower's node id: the fabric word's, or 0 before it is valid (R281, R416). -/
def State.node (s : State) : Nat := s.fabric.node.toNat

/-- Where a physical address leads, seen from this tower (R281). -/
def State.place (s : State) (pa : Nat) : Place :=
  if 2 ^ 57 ≤ pa then .unmapped
  else if 2 ^ 56 ≤ pa then
    let node := bits pa 40 16
    let o := pa % 2 ^ 40
    if node = s.node then placeOffset s.tower o
    else if node / 2 = s.node / 2 then placeOffset (1 - s.tower) o
    else .remote node o
  else if bits pa 42 14 ≠ 0 then .unmapped
  else if bits pa 41 1 = 1 then (if bits pa 40 1 = 1 then .unmapped else .host (pa % 2 ^ 40))
  else placeOffset (bits pa 40 1) (pa % 2 ^ 40)

/-- The package address of a place in memory: the key under which its bytes are held. -/
def Place.key : Place → Nat
  | .store t _ o => t * 2 ^ 40 + o
  | .ctl t o => t * 2 ^ 40 + o
  | .semFile t o => t * 2 ^ 40 + o
  | .host o => 2 ^ 41 + o
  | .remote n o => 2 ^ 56 + n * 2 ^ 40 + o
  | .unmapped => 2 ^ 57

/-- The access-table target of a place (R301). -/
def Place.target : Place → Option (Nat × Nat × Nat)
  | .store t x o => some (t, x, o)
  | .semFile t o => some (t, 5, o)
  | .ctl t o => some (t, 6, o)
  | .host o => some (0, 7, o)
  | _ => none

/-- An access-table entry decides for this master and offset (R301). -/
def AclEntry.decides (e : AclEntry) (ident : BitVec 32) (off : Nat) : Bool :=
  let unit := off / 65536
  let first := bits e.w0.toNat 16 24
  let last := bits e.w1.toNat 16 24
  let mask := e.w2.extractLsb' 32 32
  let want := e.w2.extractLsb' 0 32
  e.w0.getLsbD 63 && decide (first ≤ unit) && decide (unit ≤ last) && decide (ident &&& mask = want &&& mask)

/-- The right an entry gives for a kind of access. -/
def AclEntry.gives (e : AclEntry) : Access → Bool
  | .read => e.w0.getLsbD 62
  | .write => e.w0.getLsbD 61
  | .fetch => e.w0.getLsbD 60
  | .sem => e.w0.getLsbD 59

/-- The access table of a target gives the right: the first valid entry that decides gives it (R301). -/
def State.admits (s : State) (tower target off : Nat) (ident : BitVec 32) (k : Access) : Bool :=
  match (s.acl.filter (fun e => decide (e.1 / 256 = 8 * tower + target))).find? (fun e => e.2.decides ident off) with
  | some e => e.2.gives k
  | none => false

/-! ## Physical memory -/

/-- A T level of this tower; the other tower's levels are taken with every bank live. -/
def State.level (s : State) (x : Nat) : Level :=
  s.levels.get (if x = 0 then Level.reset 8192 246 else if x = 3 then Level.reset 2048 62 else Level.reset 4096 123) x

/-- Bank size of level x in bytes (Table 12.3). -/
def bankSize (x : Nat) : Nat :=
  if x = 0 then 0x20000 else if x = 1 then 0x80000 else if x = 2 then 0xC0000 else 0x200000

/-- Tower offset at which level x, or LPDDR6, begins (Table 12.2). -/
def levelBase (x : Nat) : Nat :=
  if x = 0 then 0 else if x = 1 then 0x40000000 else if x = 2 then 0xC0000000 else if x = 3 then 0x180000000
  else 0x4000000000

/-- Live capacity of a level (R284). -/
def Level.capacity (l : Level) (x : Nat) : Nat := l.banks * bankSize x

/-- The logical bank of a level offset (R285). -/
def Level.bankOf (l : Level) (o : Nat) : Nat := o / 32 % l.banks

/-- A physical byte; one that is not listed reads 0. -/
def State.byte (s : State) (a : Nat) : Byte := SMap.get (α := Byte) 0 a s.mem

def State.setByte (s : State) (a : Nat) (b : Byte) : State := { s with mem := SMap.set (α := Byte) 0 a b s.mem }

/-- `n` bytes from a physical address on. -/
def State.bytes (s : State) (a n : Nat) : List Byte := (List.range n).map (fun i => s.byte (a + i))

/-- Write bytes from a physical address on. -/
def State.setBytes (s : State) (a : Nat) : List Byte → State
  | [] => s
  | b :: t => (s.setByte a b).setBytes (a + 1) t

/-- The 32-byte sectors an access touches, by address div 32. -/
def sectors (a n : Nat) : List Nat := (List.range (ceilDiv (a % 32 + n) 32)).map (fun i => a / 32 + i)

/-- An access to `n` bytes at `a` covers the whole sector `q`. -/
def coversSector (a n q : Nat) : Bool := decide (a ≤ 32 * q) && decide (32 * q + 32 ≤ a + n)

/-- A read of the sector meets a lasting error: of the sector, or of the other half of its 64-byte ECC code word (R287). -/
def State.flawedSector (s : State) (q : Nat) : Bool :=
  decide (s.flaws.find? q = some true) || decide (s.flaws.find? (q / 2 * 2 + (1 - q % 2)) = some true)

/-- What the banks say of an access to a T level or LPDDR6 (R285, R289, R290, R369, R372): a sealed tower, an unbacked
offset, a lost bank, a poisoned sector, a lasting error. A write of a whole sector needs nothing of what the sector held. -/
def State.storeCheck (s : State) (tower x off n : Nat) (k : Access) : Try Unit :=
  let a := tower * 2 ^ 40 + off
  let reads := (sectors a n).filter (fun q => !(decide (k = .write) && coversSector a n q))
  if tower ≠ s.tower ∨ x = 4 then require (!reads.any s.flawedSector) .uncorrectable
  else if s.sealed then raise .mapLost
  else
    let l := s.level x
    let o := off - levelBase x
    let inLevel (q : Nat) := q - (a - o) / 32
    if l.busy then .error .hold
    else if l.capacity x < o + n then raise .uncorrectable
    else
      require (!reads.any (fun q =>
        l.lost.contains (inLevel q % l.banks) || l.poison.contains (inLevel q) || s.flawedSector q)) .uncorrectable

/-- Which engines may reach a place (R283): the Rubricator reaches the control block, copies the host window, scalar
accesses and CPYX destinations a remote tower. -/
inductive Reach where
  | scalar
  | rubricator
  | copy
  | copyRemote
  | engine
  deriving DecidableEq, Repr

/-- The table gives the right in every 64 KiB unit that `n` bytes at a tower offset touch (R301). -/
def State.admitsAll (s : State) (tower target off n : Nat) (ident : BitVec 32) (k : Access) : Bool :=
  (List.range (ceilDiv (off % 65536 + n) 65536)).all (fun i =>
    s.admits tower target (if i = 0 then off else (off / 65536 + i) * 65536) ident k)

/-- An access by a master to `n` bytes at a physical address: allowed, refused, or held (R283, R301, R289). The Rubricator's own
accesses reach the control block of its tower; the copies it issues do not. That they do not reach the other tower's control block is
the model's choice: R283 does not say. -/
def State.physCheck (s : State) (ident : BitVec 32) (r : Reach) (k : Access) (pa n : Nat) : Try Place :=
  let p := s.place pa
  match p with
  | .unmapped => raise .access
  | .semFile _ _ => raise .access
  | .remote _ _ => if r = .scalar || r = .rubricator || (r = .copyRemote && k = .write) then .ok p else raise .access
  | .ctl t o =>
    if r = .rubricator && t = s.tower && s.admitsAll t 6 o n ident k then .ok p else raise .access
  | .host o =>
    if (r = .copy || r = .copyRemote) && s.admitsAll s.tower 7 o n ident k then .ok p else raise .access
  | .store t x o =>
    match placeOffset t (o + n - 1) with
    | .store _ y _ =>
      if y ≠ x then raise .access
      else if s.admitsAll t x o n ident k then
        match s.storeCheck t x o n k with
        | .ok _ => .ok p
        | .error e => .error e
      else raise .access
    | _ => raise .access

/-! ## Wash chunks (R304, R305) -/

/-- The wash mode of the chunk that holds a physical byte. -/
def State.washMode (s : State) (a : Nat) : Nat := (s.washed.get 0 (a / 512)).toNat

/-! ## The X stream's loops (R244, R248) -/

/-- All ones, or all zeros (R25). -/
def predAll (b : Bool) : Pred := if b then BitVec.allOnes 512 else 0

/-- A predicate register: `k0` reads as all ones (R25). -/
def Task.pred (t : Task) (k : Nat) : Pred := if k = 0 then BitVec.allOnes 512 else t.preds.get 0 k

/-- Write a predicate register; a write to `k0` is discarded. -/
def Task.setPred (t : Task) (k : Nat) (v : Pred) : Task := if k = 0 then t else { t with preds := t.preds.set 0 k v }

/-- The rotation offset after one step (R248). -/
def TaskCsr.rotate (c : TaskCsr) (sigma : Nat) : TaskCsr :=
  if c.rotSize = 0 then c
  else { c with rotOff := BitVec.ofNat 13 (((c.rotOff.toNat : Int) + c.rotSize.toNat - sigma) % c.rotSize.toNat).toNat }

/-- StepRotation of R248 for a level whose counter holds `left`. -/
def Task.stepRotation (t : Task) (l : Loop) (left : Nat) : Task :=
  let i := l.trips + l.stages - 1 - left
  let t := { t with csr := t.csr.rotate l.sigma }
  (((t.setPred 7 (t.pred 6)).setPred 6 (t.pred 5)).setPred 5 (t.pred 4)).setPred 4 (predAll (decide (i < l.trips)))

/-- The step that a back-edge of a LOOPR level leaves to the next issue. -/
def Task.settleRotation (t : Task) : Task :=
  if !t.rotPending then t
  else
    let t := { t with rotPending := false }
    match t.loops with
    | l :: rest => if l.rotating then t.stepRotation l (t.lc.get 0 rest.length).toNat else t
    | [] => t

/-- The end of an iteration at the issue of word `u` (R244), through the open levels from the innermost: the task, and
the next word. -/
def Task.loopEnd (u : Parcel) : List Loop → Task → Task × Parcel
  | [], t => ({ t with loops := [] }, u + 3)
  | l :: rest, t =>
    if l.last ≠ u then ({ t with loops := l :: rest }, u + 3)
    else
      let left := t.lc.get 0 rest.length - 1
      let t := { t with lc := t.lc.set 0 rest.length left }
      if left ≠ 0 then ({ t with loops := l :: rest, rotPending := t.rotPending || l.rotating }, l.first)
      else Task.loopEnd u rest t

/-- On past an X word that is no taken branch (R80, R244). -/
def Task.xAdvance (t : Task) : Task :=
  let r := Task.loopEnd t.sx.pc t.loops t
  if r.2 = r.1.sx.spanEnd then { r.1 with sx := r.1.sx.leave r.2, loops := [] } else { r.1 with sx := { r.1.sx with pc := r.2 } }

/-- Pass over an X word that does not issue (R357). -/
def Task.xSkip (t : Task) : Task := t.settleRotation.xAdvance

/-! ## Stopping a task (R349 to R353) -/

/-- Cause codes of Table 15.1. -/
def Cause.code : Cause → Nat
  | .illegalOp => 0x01
  | .reservedField => 0x02
  | .sectionFormat => 0x03
  | .sliceRange => 0x04
  | .badOperand => 0x05
  | .misaligned => 0x06
  | .xlate => 0x07
  | .access => 0x08
  | .overdraw => 0x09
  | .hazard => 0x0A
  | .deadRead => 0x0B
  | .queueProtocol => 0x0C
  | .barrierMisuse => 0x0D
  | .leaseViolation => 0x0E
  | .glyphInvalid => 0x0F
  | .fpException => 0x10
  | .divideZero => 0x11
  | .trap => 0x12
  | .groupSilent => 0x13
  | .mapLost => 0x14
  | .uncorrectable => 0x15
  | .folioExhausted => 0x16
  | .watchdog => 0x17

/-- The causes an in-task handler takes (Table 15.1, R355). -/
def Cause.inTask (c : Cause) : Bool :=
  decide (c = .overdraw ∨ c = .hazard ∨ c = .deadRead ∨ c = .fpException ∨ c = .trap)

/-- The registers once every load in flight has returned, but those from other towers; loads with a lasting error write nothing
(R370). -/
def landLoads (regs : SMap Word) (ls : List Load) : SMap Word :=
  ls.foldl (fun r l =>
    match l.dst with
    | .reg n => if n = 0 ∨ l.bad ∨ l.tag.isSome then r else r.set 0 n l.val
    | .xq _ _ => r) regs

/-- What is left in flight then: queue entries, errors not yet delivered, and loads whose answer has not come. -/
def restLoads (ls : List Load) : List Load :=
  ls.filterMap (fun l =>
    match l.dst with
    | .xq _ _ => some l
    | .reg _ => if l.tag.isSome then some l else if l.bad then some { l with returned := true } else none)

def Task.returnLoads (t : Task) : Task := { t with regs := landLoads t.regs t.loads, loads := restLoads t.loads }

def Rub.returnLoads (r : Rub) : Rub := { r with regs := landLoads r.regs r.loads, loads := restLoads r.loads }

/-- An X effect due after the stop cycle (R352). -/
def Effect.late (e : Effect) (c : Nat) : Bool := !e.captured && decide (c < e.due)

/-- An effect once the X stream has stopped at cycle `c`: a late one holds its remaining cycles, and whether its flags raise
FP_EXCEPTION under the enables `traps` now in force (R352). -/
def Effect.capture (c : Nat) (traps : BitVec 5) (e : Effect) : Effect :=
  if e.late c then { e with captured := true, due := e.due - c, raises := if e.replay then e.raises else decide (e.flags.extractLsb' 0 5 &&& traps ≠ 0) } else e

/-- A VPUSH entry on its way. -/
def Effect.push? (e : Effect) : Option (Nat × Word) :=
  match e.dest with
  | .aq q v => some (q, v)
  | _ => none

/-- The X stream stops at cycle `c`: late effects are captured, and VPUSH entries in flight enter their queues (R352). -/
def Task.stopX (t : Task) (c : Nat) : Task :=
  let pushes := (t.effects.filter (fun e => e.late c)).filterMap Effect.push?
  { t with
    sx := { t.sx with stopped := true }
    effects := (t.effects.filter (fun e => !(e.late c && e.push?.isSome))).map (Effect.capture c t.csr.fpTrap)
    aq := pushes.foldl (fun m p => m.set [] p.1 (m.get [] p.1 ++ [p.2])) t.aq }

/-- The cycle at which the X stream stops for a stop in cycle `now` (R350). -/
def Task.stopCycle (t : Task) (now : Nat) : Nat := max (now + 1) t.xNext

/-- All three streams stop (R350). -/
def Task.stopAll (t : Task) (now : Nat) : Task :=
  let t := t.stopX (t.stopCycle now)
  { t with sa := { t.sa with stopped := true }, sm := { t.sm with stopped := true }, wait := none }

/-- The X stream resumes in cycle `now`: what was captured lands after its remaining cycles from the cycle on in which it may first
issue (R353). -/
def Task.resumeX (t : Task) (now : Nat) : Task :=
  let c := max now t.xNext
  { t with
    sx := { t.sx with stopped := false }
    effects := t.effects.map (fun e => if e.captured then { e with captured := false, due := c + e.due, replay := true } else e) }

/-- All three streams resume where they stopped, and the array takes the command list again (R264). -/
def Task.resumeAll (t : Task) (c : Nat) : Task :=
  let t := t.resumeX c
  { t with sa := { t.sa with stopped := false }, sm := { t.sm with stopped := false }, cmdStop := false }

/-- The trap CSRs (R349). -/
def TaskCsr.trapped (k : TaskCsr) (c : Cause) (st : Stream) (pc : Parcel) : TaskCsr :=
  { k with trapCause := BitVec.ofNat 8 c.code, trapPc := pc, trapStream := BitVec.ofNat 2 st.code }

/-- Monitor unit `u` of a core (R394). -/
def State.monitor (s : State) (core u : Nat) : Monitor := s.monitors.get Monitor.reset (2 * core + u)

def State.setMonitor (s : State) (core u : Nat) (m : Monitor) : State :=
  { s with monitors := s.monitors.set Monitor.reset (2 * core + u) m }

/-- A value for the units of a core that have a selector: it is recorded in a later step (R394). -/
def State.measure (s : State) (core sel v : Nat) : State :=
  if s.monitors.isEmpty then s
  else
    [0, 1].foldl (fun s u =>
      let m := s.monitor core u
      if m.sel.toNat = sel then s.setMonitor core u { m with pending := m.pending ++ [v] } else s) s

/-- A load has returned: what a monitor unit measures of it. -/
def State.measureLoad (s : State) (core : Nat) (l : Load) : State :=
  match l.issued with
  | some t => s.measure core 1 (s.tsc - t)
  | none => s

/-- Every load to a register returns now. -/
def State.measureReturns (s : State) (t : Task) : State :=
  t.loads.foldl (fun s l =>
    match l.dst with
    | .reg _ => if l.returned || l.tag.isSome then s else s.measureLoad t.core l
    | .xq _ _ => s) s

/-- Queue a fault record for posting (R361). -/
def State.post (s : State) (r : Record) : State := { s with records := s.records ++ [r] }

/-- What some records concern is no more: their answers change nothing (R363). -/
def State.endSources (s : State) (p : Source → Bool) : State :=
  let src (x : Source) : Source := if p x then .ended else x
  { s with
    records := s.records.map (fun (r : Record) => { r with src := src r.src })
    opens := s.opens.map (fun (o : Open) => { o with src := src o.src }) }

/-- A record parks a task. -/
def Source.parks (id : Nat) : Source → Bool
  | .task i | .load i _ => decide (i = id)
  | _ => false

/-- A task record (R361). -/
def State.taskRecord (s : State) (id : Nat) (t : Task) (st : Stream) (c : Cause) (pc : Parcel) (va second : Nat) : Record :=
  { src := .task id, cause := some c, kind := 0, info := false, nested := t.inHandler, path := false, transient := false,
    stream := st.code, taskId := t.ident s.tower, pc := pc.toNat, va := va,
    ident := (coreIdent s.tower t.core st.code 0).toNat, detail := 0, serial := t.arming % 2 ^ 32, second := second }

/-- An info record that concerns no task (R361). DEDUCED: the service die posts it with the Rubricator's identity, as Table 23.3
shows. -/
def infoRecord (tower kind : Nat) (cause : Option Cause) (detail second : Nat) : Record :=
  { src := .none, cause := cause, kind := kind, info := true, nested := false, path := false, transient := false, stream := 0,
    taskId := 0, pc := 0, va := 0, ident := (rubIdent tower).toNat, detail := detail, serial := 0, second := second }

/-- A task that a trap of its own takes into its handler is parked no more: its PARK issues again when the handler returns. -/
def Run.awake (r : Run) (saved : Bool) : Run :=
  match r with
  | .parked _ => if saved then .runnable else .running
  | r => r

/-- An in-task trap enters the handler: the A stream's section state is saved, X and M stop (R356). -/
def Task.enterHandler (t : Task) (c : Cause) (st : Stream) (pc : Parcel) (now : Nat) : Task :=
  let u := t.returnLoads.stopAll now
  { u with
    run := t.run.awake t.saved
    unpark := false
    csr := u.csr.trapped c st pc
    handler := some { saved := { t.sa with stopped := false }, before := u.nextSerial }
    sa := { t.sa with phase := .words, pc := u.csr.trapVec, stopped := false } }

/-- A trap that parks the task on a fault record: nested traps leave the trap CSRs alone (R355, R358). -/
def Task.parkOnRecord (t : Task) (c : Cause) (st : Stream) (pc : Parcel) (now : Nat) : Task :=
  let u := t.returnLoads.stopAll now
  if t.inHandler then { u with run := .onRecord, nested := some (c, st, pc) }
  else { u with run := .onRecord, csr := u.csr.trapped c st pc }

/-- The trap is taken inside the task (R355). -/
def Task.takesInside (t : Task) (c : Cause) : Bool := c.inTask && decide (t.csr.trapVec ≠ 0) && !t.inHandler

/-- Deliver a trap of a task's stream (R349 to R358). -/
def State.trapTask (s : State) (id : Nat) (st : Stream) (c : Cause) (pc : Parcel) (va second : Nat) : State :=
  match s.task? id with
  | none => s
  | some t =>
    let s := s.measureReturns t
    if t.takesInside c then s.setTask id (t.enterHandler c st pc (s.cyc t.core))
    else (s.setTask id (t.parkOnRecord c st pc (s.cyc t.core))).post (s.taskRecord id t st c pc va second)

/-- Deliver a trap of a Rubricator word: its handler, or a halt (R359). -/
def State.trapRub (s : State) (c : Cause) (pc : Parcel) : State :=
  let r := { s.rub.returnLoads with cause := BitVec.ofNat 8 c.code, tpc := pc, wait := none }
  if r.tvec ≠ 0 ∧ r.inHandler = false then { s with rub := { r with inHandler := true, before := r.nextLoad, pc := r.tvec } }
  else
    { s with
      rub := { r with halted := true, running := false }
      host := { s.host with bootStat := 6, msiPend := s.host.msiPend ||| (1#65 <<< 64) } }

/-- A failed walk that the access waiting for it has met, or that a new walk takes the place of, is forgotten. -/
def State.dropFailed (s : State) (va : Nat) : State :=
  { s with tlb := s.tlb.filter (fun e => !(e.failed && decide (e.va ≤ va) && decide (va < e.va + e.size))) }

/-- Take a trap of the executing word (R348 to R359). -/
def State.takeTrap (s : State) (c : Cause) (va : Nat) : State :=
  match s.cur with
  | .rub => s.trapRub c s.pc
  | .task id st => (if va = 0 then s else s.dropFailed va).trapTask id st c s.pc va 0

/-- The requests of waiting words of an agent, in its handler or not, that no word waits for any more: an answer that has come is
dropped, one that has not is dropped when it comes. A request of the word at `keep` stands. -/
def State.dropAsked (s : State) (ag : Agent) (handler : Bool) (keep : Option Parcel) : State :=
  { s with remotes := s.remotes.filterMap (fun r =>
      if r.2.asker = .word ag handler ∧ some r.2.pc ≠ keep then
        (if r.2.answer.isSome then none else some (r.1, { r.2 with asker := .none }))
      else some r) }

/-- TRET on a task inside its handler: the streams resume, the trapping one at or after its word (R357). -/
def Task.leaveHandler (t : Task) (h : Handler) (skip : Bool) (now : Nat) : Task :=
  let u := { t.returnLoads with handler := none, sa := h.saved }.resumeAll now
  if !skip then u
  else if u.csr.trapStream = 0 then { u with sa := u.sa.advance }
  else if u.csr.trapStream = 1 then u.xSkip
  else { u with sm := u.sm.advance, mrep := none }

/-- TRET (R177, R357, R359); none where it is not legal. -/
def State.trapReturn (s : State) (skip : Bool) : Option State :=
  match s.cur with
  | .rub =>
    if s.rub.inHandler then
      let u := (s.dropAsked .rub true none).dropAsked .rub false (if skip then none else some s.rub.tpc)
      some { u with rub := { u.rub with inHandler := false, pc := if skip then s.rub.tpc + 3 else s.rub.tpc } }
    else none
  | .task id _ =>
    match s.task? id with
    | none => none
    | some t =>
      match t.handler with
      | none => none
      | some h =>
        let u := s.dropAsked (.task id .a) true none
        let u := if skip && decide (t.csr.trapStream = 0) then u.dropAsked (.task id .a) false none else u
        some ((u.measureReturns t).setTask id (t.leaveHandler h skip (s.cyc t.core)))

/-! ## How a word ends -/

/-- A word of this stream can act: the agent exists and runs that stream; the Rubricator runs A words (R119). -/
def State.acts (s : State) (st : Stream) : Bool :=
  match s.cur with
  | .rub => decide (st = .a)
  | .task id st' => decide (st' = st) && (s.task? id).isSome

/-- The executing word waits: it is issued again later. -/
def State.held (s : State) : State := { s with stalled := true }

/-- A missing page of an address space. -/
def Walk.isFor (w : Walk) (asid va : Nat) : Bool := decide (w.asid = asid) && decide (w.va / 65536 = va / 65536)

/-- A further missing page, while fewer than 4,096 are missing (R298). -/
def State.newWalk (s : State) (unit asid va : Nat) (pref : Bool) : State :=
  if 4096 ≤ s.walks.length then s
  else { s with walks := s.walks ++ [{ units := [unit], asid := asid, va := va, pref := pref }] }

/-- A further miss shares the walk of its page. -/
def Walk.join (w : Walk) (unit : Nat) : Walk :=
  { w with units := if w.units.contains unit then w.units else w.units ++ [unit], pref := false }

/-- A page misses: its walk is started, or shared where there is one (R298). -/
def State.startWalk (s : State) (unit asid va : Nat) : State :=
  let s := s.dropFailed va
  if s.walks.any (fun w => w.isFor asid va) then
    { s with walks := s.walks.map (fun w => if w.isFor asid va then w.join unit else w) }
  else s.newWalk unit asid va false

/-- The records that have been added since `s`, completed. -/
def State.newRecords (u s : State) (f : Record → Record) : State :=
  { u with records := u.records.take s.records.length ++ (u.records.drop s.records.length).map f }

/-- A trap whose record, where one is posted, names the word of a matrix command (R264, R266). -/
def State.trapNaming (s : State) (id : Nat) (st : Stream) (c : Cause) (pc : Parcel) (va : Nat) (word : Parcel) : State :=
  (s.trapTask id st c pc va 0).newRecords s (fun r => { r with pc := word.toNat })

/-- A path failure of the executing word (R173, R417): the record, where one is posted, says so. -/
def State.pathTrap (s : State) : State := (s.takeTrap .uncorrectable 0).newRecords s (fun r => { r with path := true })

/-- Register-file parity met by the executing word: the record's second detail is the slice (R369, R446). -/
def State.parityTrap (s : State) (k : Nat) : State := (s.takeTrap .uncorrectable 0).newRecords s (fun r => { r with second := k })

/-- The state in which a word leaves the machine: complete, waiting, or trapped. -/
def State.finish (s : State) : Try State → State
  | .ok s' => s'
  | .error (.trap c va) => s.takeTrap c va
  | .error (.trapWith c s') => s'.takeTrap c 0
  | .error (.path s') => s'.pathTrap
  | .error (.parity k) => s.parityTrap k
  | .error .hold => s.held
  | .error (.pend s') => s'.held
  | .error (.miss u a va) => (s.startWalk u a va).held

/-- The A stream has met a register whose load failed for good: the first of them is to be delivered (R370). -/
def State.markBad (s : State) (ns : List (BitVec 6)) : State :=
  match s.loads.find? (fun l => l.bad && l.returned && ns.any (fun n => decide (n ≠ 0) && decide (l.dst = .reg n.toNat))) with
  | none => s
  | some l =>
    match s.cur with
    | .rub => { s with rub := { s.rub with meetsBad := some l.id } }
    | .task id _ => s.onTask id (fun t => { t with meetsBad := some l.id })

/-- Run an A word that reads the registers `need`: it waits while one of them is still being produced (R121). -/
def State.aWord (s : State) (need : List (BitVec 6)) (f : State → Try State) : Host.Outcome State Fault Refusal :=
  if !s.acts .a then .fault .noAgent
  else if !s.ready need then .next (s.markBad need).held
  else .next (s.finish (f s))

/-- Run an M word. -/
def State.mWord (s : State) (f : State → Try State) : Host.Outcome State Fault Refusal :=
  if !s.acts .m then .fault .noAgent else .next (s.finish (f s))

end Sys2Proof.Machine
end

