-- ==== Sys2Proof/Machine/Flags.lean ====
section
/-! DEFINITION. How flags reach `fp.flags` (R43, Table 1.8): sticky, one register per task. The flags of each computation are
returned by the functions of Numbers.lean. -/

namespace Sys2Proof.Machine

/-- Flags set by a task: they stay until a CSR write clears them (R43). -/
def Task.setFlags (t : Task) (f : Flags) : Task := { t with csr := { t.csr with fpFlags := t.csr.fpFlags ||| f } }

/-- Some flag just set has its trap enabled; SAT has no enable (R43). -/
def Task.trapsOn (t : Task) (f : Flags) : Bool := decide (f.extractLsb' 0 5 &&& t.csr.fpTrap ≠ 0)

/-- Flags set by whoever runs: the Rubricator holds no `fp.flags` (R125). -/
def State.setFlags (s : State) (f : Flags) : State :=
  match s.cur with
  | .rub => s
  | .task id _ => if f = 0 then s else s.onTask id (fun t => t.setFlags f)

end Sys2Proof.Machine
end

