-- ==== Sys2Proof/Machine/Control.lean ====
section
/-! DEFINITION. The control instructions of the A stream (R127 to R134). -/

namespace Sys2Proof.Machine

/-- The condition of Table 3.5. -/
def condHolds (cc : BitVec 8) (a b : Word) : Bool :=
  if cc = 0 then decide (a = b)
  else if cc = 1 then decide (a ≠ b)
  else if cc = 2 then a.slt b
  else if cc = 3 then !a.slt b
  else if cc = 4 then a.ult b
  else !a.ult b

/-- The target of an AB word: its own parcel plus the signed offset, modulo 2^50 (R89). -/
def State.branchTarget (s : State) (off : BitVec 48) : Parcel := s.pc + off.signExtend 50

/-- Goto(p): the middle of a word of the span traps at the branch, what was written before standing (R80, R129). -/
def State.jump (s : State) (p : Parcel) : Try State :=
  if s.gotoOk p then .ok (s.goto p) else .error (.trapWith .sectionFormat s)

/-- A word that only a task has: on the Rubricator its opcode is unassigned (R119). -/
def State.taskWord (s : State) (need : List (BitVec 6)) (f : State → Nat → Task → Try State) :
    Host.Outcome State Fault Refusal :=
  s.aWord need (fun s =>
    match s.cur with
    | .rub => raise .illegalOp
    | .task id _ =>
      match s.task? id with
      | none => raise .illegalOp
      | some t => f s id t)

/-- Words that trap with ACCESS inside an in-task handler (R356). -/
def Task.notInHandler (t : Task) : Try Unit := require (!t.inHandler) .access

/-- A stream ends: its section is left at the ending word (R132, R252). -/
def StreamSt.finish (v : StreamSt) : StreamSt := { v with phase := .ended, len := 0, left := v.left ++ [v.sec] }

def execB (w : AB) (s : State) : Host.Outcome State Fault Refusal :=
  s.aWord [w.a, w.b] (fun s =>
    if condHolds w.cc (s.reg w.a) (s.reg w.b) then s.jump (s.branchTarget w.off) else .ok s.advance)

def execJ (w : AB) (s : State) : Host.Outcome State Fault Refusal :=
  s.aWord [] (fun s => s.jump (s.branchTarget w.off))

/-- The link is the parcel after the word, and lies in the a field (R127, R128). -/
def execJal (w : AB) (s : State) : Host.Outcome State Fault Refusal :=
  s.aWord [] (fun s => (s.setReg w.a ((s.pc + 3).setWidth 64)).jump (s.branchTarget w.off))

/-- The target is read before the link is written (R129). -/
def execJr (w : AR) (s : State) : Host.Outcome State Fault Refusal :=
  s.aWord [w.a] (fun s => do
    require (decide ((s.reg w.a).toNat < 2 ^ 50)) .misaligned
    (s.setReg w.d ((s.pc + 3).setWidth 64)).jump ((s.reg w.a).setWidth 50))

/-- The outcome goes to `bq`; a full queue makes A wait, or traps when X can never pop (R131). -/
def execBqp (w : AB) (s : State) : Host.Outcome State Fault Refusal :=
  s.taskWord [w.a, w.b] (fun s id t => do
    t.notInHandler
    require t.sx.present .queueProtocol
    if 64 ≤ t.bq.length then
      require (decide (t.sx.phase ≠ .ended)) .queueProtocol
      .error .hold
    else
      let taken := condHolds w.cc (s.reg w.a) (s.reg w.b)
      .ok (s.setTask id { t with bq := t.bq ++ [taken] }).advance)

def execFin (_ : AR) (s : State) : Host.Outcome State Fault Refusal :=
  s.taskWord [] (fun s id t => do
    t.notInHandler
    .ok (s.setTask id { t with sa := t.sa.finish }))

def execNop (_ : AR) (s : State) : Host.Outcome State Fault Refusal := s.aWord [] (fun s => .ok s.advance)

end Sys2Proof.Machine
end

