-- ==== Sys2Proof/Machine/Order.lean ====
section
/-! DEFINITION. Lags and knowledge: what a viewer of memory sees, and which writes happen before an event or are visible to it
(R309 to R316). None of it does anything while no viewer lags. -/

namespace Sys2Proof.Machine

/-! ## Sets of writes -/

/-- The numbers of two sets, each once. -/
def joinNats (a b : List Nat) : List Nat := a ++ b.filter (fun n => !a.contains n)

/-- No write. -/
def Know.none : Know := { before := [], seen := [], own := [] }

/-- Two pieces of knowledge together. -/
def Know.join (a b : Know) : Know :=
  { before := joinNats a.before b.before, seen := joinNats a.seen b.seen, own := joinNats a.own b.own }

/-- The writes visible to the knower. -/
def Know.visible (k : Know) : List Nat := joinNats k.seen k.own

/-- What is known of a knower. -/
def Order.know (o : Order) (k : Knower) : Know := ((o.knows.find? (fun e => decide (e.1 = k))).map (·.2)).getD Know.none

/-- A knower's knowledge is replaced. -/
def Order.tell (o : Order) (k : Knower) (x : Know) : Order := { o with knows := o.knows.filter (fun e => decide (e.1 ≠ k)) ++ [(k, x)] }

/-- A knower learns of writes. -/
def Order.learn (o : Order) (k : Knower) (x : Know) : Order := if o.lags.isEmpty then o else o.tell k ((o.know k).join x)

/-- What is known of several knowers. -/
def Order.knowAll (o : Order) (p : Knower → Bool) : Know := (o.knows.filter (fun e => p e.1)).foldl (fun a e => a.join e.2) Know.none

/-! ## Lags -/

/-- While nobody lags there is nothing to know of. -/
def Order.tidy (o : Order) : Order :=
  if o.lags.isEmpty then
    { o with
      knows := [], firings := [], posts := []
      phases := (o.phases.filter (fun e => !e.2.arrivers.isEmpty)).map (fun e =>
        (e.1, { e.2 with before := [], data := [], seen := [] })) }
  else o

/-- The write has written byte `i` of its doubleword. -/
def Later.wrote (w : Later) (i : Nat) : Bool := decide (w.first ≤ i) && decide (i < w.first + w.count)

/-- The doubleword after the first `p` of the writes. -/
def Lag.version (g : Lag) (p : Nat) : List Byte := (((g.later.take p).getLast?).map (·.bytes)).getD g.base

/-- How many of the writes the viewer has seen of the element of `n` bytes that begins at byte `i`: no element is torn (R314). -/
def Lag.at (g : Lag) (i n : Nat) : Nat := ((g.pos.drop i).take n).foldl max 0

/-- A lag that has been caught up with is one no more; one that no write has yet followed stands. Writes of which every byte has been
seen are forgotten. -/
def Lag.trim (g : Lag) : Option Lag :=
  let p := g.pos.foldl min g.later.length
  if g.later ≠ [] ∧ p = g.later.length then none
  else some { g with base := g.version p, later := g.later.drop p, pos := g.pos.map (· - p) }

/-- How many writes, up to the last that has a property. -/
def countTo (p : Later → Bool) (ws : List Later) : Nat := ws.length - (ws.reverse.takeWhile (fun w => !p w)).length

/-- Bytes of writes become visible: of each byte none is seen that comes before one of these (R314). -/
def Lag.reach (g : Lag) (p : Later → Nat → Bool) : Lag :=
  { g with pos := g.pos.zipIdx.map (fun e => max e.1 (countTo (fun w => w.wrote e.2 && p w e.2) g.later)) }

/-- Bytes of writes become visible where they lag. -/
def Order.reach (o : Order) (p : Lag → Later → Nat → Bool) : Order :=
  if o.lags.isEmpty then o
  else { o with lags := o.lags.filterMap (fun g => (g.reach (p g)).trim) : Order }.tidy

/-- Writes of a set become visible to some viewers. -/
def Order.show (o : Order) (vs : List Viewer) (ns : List Nat) : Order :=
  if ns.isEmpty then o else o.reach (fun g w i => vs.contains g.who && ns.contains (8 * w.id + i))

/-- A viewer begins to lag at a doubleword, which holds `bs`. -/
def Order.lag (o : Order) (who : Viewer) (key : Nat) (bs : List Byte) : Order :=
  if o.lags.any (fun g => decide (g.who = who) && decide (g.key = key)) then o
  else { o with lags := o.lags ++ [{ who := who, key := key, base := bs, later := [], pos := List.replicate 8 0 }] }

/-- The viewer sees the next `n` writes of the element of `m` bytes that begins at byte `i`. -/
def Lag.see (g : Lag) (i m n : Nat) : Lag :=
  { g with pos := g.pos.zipIdx.map (fun e =>
      if i ≤ e.2 ∧ e.2 < i + m then max e.1 (min g.later.length (g.at i m + n)) else e.1) }

/-- The next `n` writes of the element of `m` bytes at an address reach a viewer. -/
def Order.see (o : Order) (who : Viewer) (a m n : Nat) : Order :=
  { o with lags := o.lags.filterMap (fun g => if g.who = who ∧ g.key = a / 8 then (g.see (a % 8) m n).trim else some g) : Order }.tidy

/-- A viewer sees from now on what another sees. -/
def Order.clone (o : Order) (src dst : Viewer) : Order :=
  if o.lags.isEmpty then o
  else
    { o with lags := o.lags.filter (fun g => decide (g.who ≠ dst)) ++
        o.lags.filterMap (fun g => if g.who = src then some { g with who := dst } else none) : Order }.tidy

/-- Viewers and knowers that are no more. -/
def Order.forget (o : Order) (v : Viewer → Bool) (p : Knower → Bool) : Order :=
  if o.lags.isEmpty then o
  else { o with lags := o.lags.filter (fun g => !v g.who), knows := o.knows.filter (fun e => !p e.1) : Order }.tidy

/-- Everyone sees some doublewords as they now stand: a switch of versions has put them in place (R323). -/
def Order.renew (o : Order) (first n : Nat) : Order :=
  if o.lags.isEmpty then o
  else { o with lags := o.lags.filter (fun g => !(decide (first ≤ g.key) && decide (g.key < first + n))) : Order }.tidy

/-- A write of `n` bytes of a doubleword, from byte `i` on; the doubleword now holds `bs`. -/
def Order.note (o : Order) (key i n : Nat) (bs : List Byte) : Order :=
  if o.lags.any (fun g => decide (g.key = key)) then
    { o with
      next := o.next + 1
      lags := o.lags.map (fun g =>
        if g.key = key then { g with later := g.later ++ [{ id := o.next, bytes := bs, first := i, count := n, strong := none }] } else g) }
  else o

/-- Bytes at an address as a viewer sees them, in elements of `grain` bytes, aligned; `bs` is the newest. -/
def Order.view (o : Order) (who : Option Viewer) (grain a : Nat) (bs : List Byte) : List Byte :=
  match who with
  | none => bs
  | some v =>
    if o.lags.isEmpty then bs
    else
      (bs.zipIdx).map (fun b =>
        let x := a + b.2
        match o.lags.find? (fun g => decide (g.who = v) && decide (g.key = x / 8)) with
        | some g =>
          let lo := max a (x / grain * grain)
          let hi := min (a + bs.length) (x / grain * grain + grain)
          (g.version (g.at (lo % 8) (hi - lo))).getD (x % 8) b.1
        | none => b.1)

/-- The numbers of the bytes of the writes made since `from_`. -/
def Order.since (o : Order) (from_ : Nat) : List Nat := (List.range (8 * (o.next - from_))).map (8 * from_ + ·)

/-- Writes made since `from_` are strong. -/
def Order.strengthen (o : Order) (from_ : Nat) (st : Standing) : Order :=
  { o with lags := o.lags.map (fun g => { g with later := g.later.map (fun w => if from_ ≤ w.id then { w with strong := some st } else w) }) }

/-- The strong writes of a party have been performed for their observers: its next strong access issues (R315). -/
def Order.performed (o : Order) (p : Party) : Order :=
  { o with lags := o.lags.map (fun g => { g with later := g.later.map (fun w =>
      { w with strong := w.strong.map (fun v => if v.party = p then { v with done := true } else v) }) }) }

/-! ## Strands: who acquires and releases -/

/-- A sequence of events in which each happens before the next: the A stream of a task, the Rubricator, a queue, the collective engines. -/
inductive Strand where
  | task (id : Nat)
  | rub
  | queue (q : Nat)
  | collective
  deriving DecidableEq, Repr

/-- The party a strand acts for (R307). -/
def Strand.party : Strand → Party
  | .task id => .task id
  | .rub => .rub
  | .queue _ => .rub
  | .collective => .service

/-- The viewers that see what a strand has acquired. -/
def Strand.viewers : Strand → List Viewer
  | .task id => [.stream id, .engines id]
  | .rub => [.rub]
  | .queue q => [.queue q]
  | .collective => [.collective]

/-- Of whom the knowledge of a strand is. -/
def Strand.knower : Strand → Knower
  | .task id => .stream id
  | .rub => .rub
  | .queue q => .queue q
  | .collective => .collective

/-- The writes that happen before the next event of a strand. -/
def Order.before (o : Order) (st : Strand) : List Nat := (o.know st.knower).before

/-- A stream of a task, in its section `n`, knows of writes, and passes them on (R309). -/
def Order.pass (o : Order) (id : Nat) (st : Stream) (n : BitVec 16) (x : Know) : Order := (o.learn (.out id st) x).learn (.part id st n) x

/-- A strand has acquired writes; `n` is the section of the A stream it was made in. -/
def Order.gain (o : Order) (st : Strand) (n : BitVec 16) (x : Know) : Order :=
  (match st with
    | .task id => (o.learn (.stream id) { x with own := [] }).pass id .a n x
    | st => o.learn st.knower x).show st.viewers x.visible

/-- Writes of a strand's own: it sees them, and they happen before what follows. The service die sees those of the Rubricator (R326). -/
def Order.own (o : Order) (st : Strand) (ns : List Nat) : Order :=
  (o.learn st.knower { before := ns, seen := [], own := ns }).show (match st with
    | .task id => [.stream id]
    | .rub => [.rub, .die]
    | st => st.viewers) ns

/-- A viewer that acts for a task, apart from the copies and commands it has issued. -/
def Viewer.ofTask (id : Nat) : Viewer → Bool
  | .stream i | .engines i | .array i | .binding i _ => decide (i = id)
  | _ => false

/-- A knower that is a task's streams. -/
def Knower.ofTask (id : Nat) : Knower → Bool
  | .stream i | .out i _ | .part i _ _ | .passed i _ | .landed (.task i) => decide (i = id)
  | _ => false

/-- A task has retired: what happened before then happened before its arming completes (R316). -/
def Order.retire (o : Order) (id arming : Nat) : Order :=
  let k := ((o.know (.stream id)).join (o.know (.out id .x))).join (o.know (.out id .m))
  (o.learn (.ended arming) { k with own := [] }).forget (Viewer.ofTask id) (Knower.ofTask id)

/-- A FENCE of a task: the stores before it, and what its copies have written, come before its A stream's later events and its other
streams; its engines see the stores (R309, R318). -/
def Order.fence (o : Order) (id : Nat) (n : BitVec 16) : Order :=
  let k := o.know (.stream id)
  let ls := (o.know (.landed (.task id))).before
  if o.lags.isEmpty then o
  else
    ((o.tell (.stream id) { before := joinNats k.before ls, seen := k.seen, own := [] }).pass id .a n
      { before := joinNats k.own ls, seen := [], own := k.own }).show [.engines id] k.own

/-- A FENCE of the Rubricator: what its copies have written comes before its later words. -/
def Order.fenceRub (o : Order) : Order := o.learn .rub { before := (o.know (.landed .rub)).before, seen := [], own := [] }

/-- The parts that a stream has passed on from sections long retired are kept as one, before their numbers come round again; section `n`
begins (R83, R309). -/
def Order.foldParts (o : Order) (id : Nat) (st : Stream) (n : BitVec 16) : Order :=
  let old (k : Knower) := match k with
    | .part i v m => decide (i = id) && decide (v = st) && decide (1024 ≤ (n - m).toNat)
    | _ => false
  if o.knows.any (fun e => old e.1) then (o.learn (.passed id st) (o.knowAll old)).forget (fun _ => false) old else o

end Sys2Proof.Machine
end

