-- ==== Sys2Proof/Machine/Scope.lean ====
section
/-! DEFINITION. Scope domains (R307, R308) and the strong writes that a strong read comes after (R315). -/

namespace Sys2Proof.Machine

/-- Change what is unseen. -/
def State.ordered (s : State) (f : Order → Order) : State := { s with order := f s.order }

/-! ## Domains (Table 13.1) -/

/-- The strand that runs. -/
def State.strand (s : State) : Strand :=
  match s.cur with
  | .rub => .rub
  | .task id _ => .task id

/-- The core of a task. -/
def State.coreOf (s : State) (id : Nat) : Option Nat := (s.task? id).map (·.core)

/-- The home of a strand's steps (R307). -/
def State.homeOf (s : State) : Strand → Home
  | .task id => ((s.coreOf id).map Home.core).getD .die
  | _ => .die

/-- A party of this tower: a task, the Rubricator, or a service engine. -/
def Party.here : Party → Bool
  | .task _ | .rub | .service => true
  | _ => false

/-- A party lies in the domain of a scope at a home; `own` are the parties that TASK scope holds (Table 13.1). -/
def State.inDomain (s : State) (scope : Nat) (home : Home) (own : List Party) (p : Party) : Bool :=
  if scope = 4 then true
  else if scope = 0 then own.contains p
  else
    match home with
    | .far n => decide (p = .peer n)
    | .die => if scope = 3 then p.here else own.contains p
    | .core c =>
      if scope = 3 then p.here
      else
        match p with
        | .task id =>
          (match s.coreOf id with
            | some d => if scope = 1 then decide (d = c) else decide (clusterOf d = clusterOf c)
            | none => false)
        | _ => false

/-- The home of a release lies in the domain of an acquire's scope at the acquire's home (R311). -/
def Release.homeIn (r : Release) (scope : Nat) (home : Home) (p : Party) : Bool :=
  if scope = 4 then true
  else if scope = 0 then r.parties.contains p
  else
    match home, r.home with
    | .core c, .core d => if scope = 1 then decide (c = d) else if scope = 2 then decide (clusterOf c = clusterOf d) else true
    | .far n, .far m => decide (n = m)
    | .far _, _ | _, .far _ => false
    | .die, .die => decide (scope = 3) || r.parties.contains p
    | _, _ => decide (scope = 3)

/-! ## Strong accesses (R315) -/

/-- Where a strand stands at a scope. -/
def State.standing (s : State) (st : Strand) (scope : Nat) : Standing :=
  { scope := scope, party := st.party, home := s.homeOf st, done := false }

/-- Two strong accesses at one scope, each party in the domain of the other's. -/
def State.mutual (s : State) (a b : Standing) : Bool :=
  decide (a.scope = b.scope) && s.inDomain a.scope a.home [a.party] b.party && s.inDomain b.scope b.home [b.party] a.party

/-- A strong read by `me` comes after a strong write by `w`: in the single order of their scope, or because the write has been performed for
`me` as one of its observers. -/
def State.strongAfter (s : State) (me w : Standing) : Bool :=
  s.mutual me w || (w.done && s.inDomain w.scope w.home [w.party] me.party)

/-- A strong read of `n` bytes at `a`: of them, the viewers see the strong writes that it comes after. -/
def State.strongRead (s : State) (vs : List Viewer) (me : Standing) (a n : Nat) : State :=
  s.ordered (fun o => o.reach (fun g w i =>
    vs.contains g.who && decide (a ≤ 8 * g.key + i) && decide (8 * g.key + i < a + n) &&
      (match w.strong with
        | some v => s.strongAfter me v
        | none => false)))

/-- A load of the running strand at `a`, when it is strong. -/
def State.strongLoad (s : State) (strong : Option Nat) (a n : Nat) : State :=
  match strong with
  | some scope => s.strongRead s.strand.viewers (s.standing s.strand scope) a n
  | none => s

/-- The running strand's next strong access issues. -/
def State.performs (s : State) : State := s.ordered (fun o => o.performed s.strand.party)

/-- The writes since `old` are strong. -/
def State.strongWrite (old s : State) (me : Standing) : State := s.ordered (fun o => o.strengthen old.order.next me)

end Sys2Proof.Machine
end

