-- ==== Sys2Proof/Machine/Memory.lean ====
section
/-! DEFINITION. Physical reads and writes with their checks and wash chunks, the page-table walk, translation, and the two
accesses every word uses: read and write of virtual (or, on the Rubricator, physical) bytes. -/

namespace Sys2Proof.Machine

/-! ## The parts of an access (R136) -/

/-- The order in which R136 looks at the bytes of an access: translation, then rights, and what the data hold last. -/
def Stop.rank : Stop → Nat
  | .trap .xlate _ => 0
  | .miss _ _ _ => 0
  | .trap .access _ => 1
  | .trap .uncorrectable _ => 3
  | _ => 2

/-- Why a part has no result. -/
def stopOf {α : Type} : Try α → Option Stop
  | .ok _ => none
  | .error e => some e

/-- The results of the parts of an access; else the stop that R136 meets first. -/
def collect {α : Type} (rs : List (Try α)) : Try (List α) :=
  let es := rs.filterMap stopOf
  match es.find? (fun e => es.all (fun d => decide (e.rank ≤ d.rank))) with
  | some e => .error e
  | none => .ok (rs.filterMap (fun r =>
    match r with
    | .ok x => some x
    | .error _ => none))

/-- Whether a part has a result. -/
def checked {α : Type} : Try α → Try Unit
  | .ok _ => .ok ()
  | .error e => .error e

/-- The stop that R136 meets first in several accesses of one instruction, if there is one. -/
def together (rs : List (Try Unit)) : Try Unit := checked (collect rs)

/-! ## Canonical prefix code (R398) -/

/-- The symbols of one code length, ascending, with their codes; and the next code. -/
def codesOfLength (lens : List Nat) (n : Nat) (code : Nat) : List (Nat × Nat × Nat) × Nat :=
  (lens.zipIdx).foldl
    (fun (a : List (Nat × Nat × Nat) × Nat) e => if e.1 = n then (a.1 ++ [(n, a.2, e.2)], a.2 + 1) else a) ([], code)

/-- All codes of a table: (length, code, symbol). -/
def canonicalCodes (lens : List Nat) : List (Nat × Nat × Nat) :=
  ((List.range 12).foldl
    (fun (a : List (Nat × Nat × Nat) × Nat) i =>
      let r := codesOfLength lens (i + 1) a.2
      (a.1 ++ r.1, r.2 * 2)) ([], 0)).1

/-- A valid code table: some symbol, no length above 12, and `Σ 2^(−length) ≤ 1`. -/
def tableValid (lens : List Nat) : Bool :=
  lens.any (fun l => l ≠ 0) && lens.all (fun l => l ≤ 12) &&
    decide ((lens.foldl (fun a l => if l = 0 then a else a + 2 ^ (12 - l)) 0) ≤ 2 ^ 12)

/-- Bit `i` of a stored stream: least significant bit of each byte first. -/
def streamBit (bs : List Byte) (i : Nat) : Nat := (bs.getD (i / 8) 0).toNat / 2 ^ (i % 8) % 2

/-- Decode up to `want` bytes from bit `i` on, with the bit reached: `fuel` bounds the bits read. None for a bit sequence that
begins no code. -/
def decodeBits (codes : List (Nat × Nat × Nat)) (bs : List Byte) :
    Nat → Nat → Nat → Nat → Nat → List Byte → Option (List Byte × Nat)
  | 0, i, _, _, _, acc => some (acc.reverse, i)
  | fuel + 1, i, len, code, want, acc =>
    if want = 0 then some (acc.reverse, i)
    else if 8 * bs.length ≤ i then none
    else
      let code' := 2 * code + streamBit bs i
      match codes.find? (fun c => c.1 = len + 1 && c.2.1 = code') with
      | some c => decodeBits codes bs fuel (i + 1) 0 0 (want - 1) (BitVec.ofNat 8 c.2.2 :: acc)
      | none => if 12 ≤ len + 1 then none else decodeBits codes bs fuel (i + 1) (len + 1) code' want acc

/-- The bytes a coded stream holds, where they are exactly `want`: the last code ends in the last byte (R304). -/
def decodeStream (lens : List Nat) (bs : List Byte) (want : Nat) : Option (List Byte) :=
  match decodeBits (canonicalCodes lens) bs (8 * bs.length + 1) 0 0 0 want [] with
  | some r => if r.1.length = want ∧ 8 * bs.length < r.2 + 8 then some r.1 else none
  | none => none

/-! ## Wash chunks (R304, R305, R397) -/

/-- The 512 bytes a stored chunk expands to, by the code tables; none where the read reports UNCORRECTABLE (Table 12.9). Bytes 272
to 319 of an MX-packed chunk are not looked at; an entropy chunk whose byte 3 is not zero does not decode. -/
def expandWith (table : Nat → Option (List Nat)) (mode : Nat) (bs : List Byte) : Option (List Byte) :=
  if mode = 0 then some bs
  else if mode = 1 then some (List.replicate 512 0)
  else if mode = 2 then some (((List.replicate 64 (bs.take 8)).flatten))
  else if mode = 3 then
    (List.range 512).foldr
      (fun i acc =>
        match acc with
        | none => none
        | some t =>
          let scale := (bs.getD (256 + i / 32) 0).toNat
          let code := (bs.getD (i / 2) 0).toNat / 16 ^ (i % 2) % 16
          if scale = 0xFF then none
          else
            let r := roundVal fE4 0 true (mxValue (fF4.value code) scale)
            if r.2 = 0 then some (BitVec.ofNat 8 r.1 :: t) else none) (some [])
  else if mode = 4 then
    let len := (bs.getD 0 0).toNat + 256 * (bs.getD 1 0).toNat
    if len = 0 ∨ 508 < len ∨ (bs.getD 3 0) ≠ 0 then none
    else
      match table (bs.getD 2 0).toNat with
      | none => none
      | some lens => decodeStream lens ((bs.drop 4).take len) 512
  else none

/-- Where code table `k` stands, when the code tables are valid and the table may be read: with the identity of the service die, which
the spec leaves open (R301, R398). -/
def State.tableBase (s : State) (k : Nat) : Option Nat :=
  match s.folio.tables with
  | none => none
  | some b =>
    match s.physCheck (rubIdent s.tower) .engine .read (b + 256 * k) 256 with
    | .ok p => some p.key
    | .error _ => none

/-- `n` bytes as a read sees them; none where a chunk does not expand. A code table is read so too: `fuel` bounds how many tables
stand in chunks that another table codes. -/
def State.readFuel (s : State) : Nat → Nat → Nat → Option (List Byte)
  | 0, _, _ => none
  | fuel + 1, a, n =>
    let table (k : Nat) : Option (List Nat) :=
      match s.tableBase k with
      | none => none
      | some base =>
        match s.readFuel fuel base 256 with
        | none => none
        | some bs =>
          let lens := bs.map (·.toNat)
          if tableValid lens then some lens else none
    (List.range (ceilDiv (a % 512 + n) 512)).foldr
      (fun i acc =>
        let c := a / 512 + i
        let lo := max a (512 * c)
        let hi := min (a + n) (512 * c + 512)
        let mode := (s.washed.get 0 c).toNat
        match acc with
        | none => none
        | some t =>
          if mode = 0 then some (s.bytes lo (hi - lo) ++ t)
          else (expandWith table mode (s.bytes (512 * c) 512)).map (fun bs => (bs.drop (lo - 512 * c)).take (hi - lo) ++ t)) (some [])

/-- The chunks that `n` bytes at `a` touch. -/
def chunksOf (a n : Nat) : List Nat := (List.range (ceilDiv (a % 512 + n) 512)).map (fun i => a / 512 + i)

/-- The code table a wash chunk names, when the code tables are valid and the table is (R398). -/
def State.washTable (s : State) (n : Nat) : Option (List Nat) :=
  match s.tableBase n with
  | none => none
  | some base =>
    match s.readFuel 129 base 256 with
    | none => none
    | some bs =>
      let lens := bs.map (·.toNat)
      if tableValid lens then some lens else none

/-- The 512 bytes a stored chunk expands to. -/
def State.expand (s : State) (mode : Nat) (bs : List Byte) : Option (List Byte) := expandWith s.washTable mode bs

/-- Bytes stored for a chunk in a mode (Table 12.9). -/
def washSize (mode : Nat) (bs : List Byte) : Nat :=
  if mode = 0 then 512 else if mode ≤ 2 then 64 else if mode = 3 then 320
  else 64 * ceilDiv (4 + ((bs.getD 0 0).toNat + 256 * (bs.getD 1 0).toNat)) 64

/-- A re-ruling holds accesses to a place (R290). -/
def State.heldAt (s : State) (a : Nat) : Bool :=
  match s.place a with
  | .store t x _ => decide (t = s.tower) && decide (x ≤ 3) && (s.level x).busy
  | _ => false

/-- The read needs a code table that a re-ruling holds. -/
def State.tableHeld (s : State) (a n : Nat) : Bool :=
  (chunksOf a n).any (fun c => decide (s.washed.get 0 c = 4)) &&
    (match s.folio.tables with
      | some b => s.heldAt b || s.heldAt (b + 0xFFFF)
      | none => false)

/-- Bytes as a read sees them: wash chunks expanded (R305). -/
def State.readBytes (s : State) (a n : Nat) : Try (List Byte) :=
  if s.washed.isEmpty then .ok (s.bytes a n)
  else if s.tableHeld a n then .error .hold
  else
    match s.readFuel 130 a n with
    | some bs => .ok bs
    | none => raise .uncorrectable

/-- Bytes that no error keeps from being read: a chunk that does not expand gives zeros. -/
def State.plainBytes (s : State) (a n : Nat) : List Byte :=
  match s.readBytes a n with
  | .ok bs => bs
  | .error _ => List.replicate n 0

/-- A chunk becomes raw: its expanded bytes, or zeros where it does not expand. -/
def State.makeRaw (s : State) (c : Nat) : State :=
  match s.washed.find? c with
  | none => s
  | some m =>
    let bs := (s.expand m.toNat (s.bytes (512 * c) 512)).getD (List.replicate 512 0)
    { (s.setBytes (512 * c) bs) with washed := s.washed.del c }

/-- Whole 32-byte sectors written lose their poison (R289). -/
def State.clearPoison (s : State) (tower x off n : Nat) : State :=
  if tower ≠ s.tower ∨ 4 ≤ x then s
  else
    let l := s.level x
    if l.poison.isEmpty then s
    else
      let o := off - levelBase x
      let poison := l.poison.filter (fun q => !((sectors o n).contains q && coversSector o n q))
      { s with levels := s.levels.put x { l with poison := poison } }

/-- Store bytes in place; every chunk touched becomes raw (R305). -/
def State.store (s : State) (a : Nat) (bs : List Byte) : State :=
  let s := if s.washed.isEmpty then s else (chunksOf a bs.length).foldl (fun s c => s.makeRaw c) s
  s.setBytes a bs

/-- The key of a physical address. -/
def State.keyOf (s : State) (pa : Nat) : Nat := (s.place pa).key

/-- The active mirror slots whose source range holds a sector, and its destination sector (R292). -/
def State.mirrorOf (s : State) (q : Nat) : List (Nat × Nat) :=
  s.ctl.mirrors.filterMap (fun e =>
    let m := e.2
    let src := s.keyOf m.src
    if m.active && decide (src / 32 ≤ q) && decide (q < (src + 65536 * m.len.toNat) / 32) then
      some (e.1, s.keyOf m.dst / 32 + (q - src / 32))
    else none)

/-- Wash detection of a T-level controller on a whole chunk that one step has written raw (R397). -/
def State.detectWash (s : State) (key : Nat) : State :=
  if !(s.folio.detectZero || s.folio.detectRepeat) then s
  else
    match s.place key with
    | .store _ x _ =>
      if x ≤ 3 ∧ key % 512 = 0 ∧ (s.washed.get 0 (key / 512)) = 0 then
        let bs := s.bytes key 512
        if s.folio.detectZero = true ∧ bs.all (fun b => decide (b = 0)) = true then { s with washed := s.washed.set 0 (key / 512) 1 }
        else if s.folio.detectRepeat = true ∧ decide (bs = (List.replicate 64 (bs.take 8)).flatten) = true then
          { s with washed := s.washed.set 0 (key / 512) 2 }
        else s
      else s
    | _ => s

/-- A write of `n` bytes has been made: whoever lags at a doubleword of it has that write still to see. -/
def State.noteWrite (s : State) (a n : Nat) : State :=
  if s.order.lags.isEmpty then s
  else
    (List.range (ceilDiv (a % 8 + n) 8)).foldl (fun s i =>
      let k := a / 8 + i
      let lo := max a (8 * k)
      s.ordered (fun o => o.note k (lo % 8) (min (a + n) (8 * k + 8) - lo) (s.plainBytes (8 * k) 8))) s

/-- A T level of a sealed tower takes no write (R372). -/
def State.sealedAt (s : State) (a : Nat) : Bool :=
  s.sealed &&
    (match s.place a with
      | .store t x _ => decide (t = s.tower) && decide (x ≤ 3)
      | _ => false)

/-- `n` bytes lie within this tower's T levels, which follow one another, or within its LPDDR6. -/
def State.ownStore (s : State) (a n : Nat) : Bool :=
  match s.place a, s.place (a + n - 1) with
  | .store t x _, .store u y _ => decide (t = s.tower) && decide (u = s.tower) && (decide (x = y) || (decide (x ≤ 3) && decide (y ≤ 3)))
  | _, _ => false

/-- `ctl.asbase` has been written and the area lies within this tower's T levels or LPDDR6. -/
def State.serviceBase (s : State) : Option Nat :=
  let b := s.ctl.asbase.toNat
  if s.ctl.written && s.ownStore b 0x160000 then some b else none

/-- A write that reaches the fabric word has the downed ports retrain (R325, R415). -/
def State.fabricWritten (s : State) (a n : Nat) : State :=
  match s.serviceBase with
  | none => s
  | some b =>
    let w := s.keyOf (b + 0x10A300)
    if a < w + 8 ∧ w < a + n then { s with fabric := { s.fabric with retrain := ~~~(s.fabric.up ||| s.fabric.training) } } else s

/-- Store bytes in place, with the poison of whole sectors cleared. -/
def State.put (s : State) (a : Nat) (bs : List Byte) : State :=
  if s.sealedAt a then s
  else
    let s := ((s.store a bs).noteWrite a bs.length).fabricWritten a bs.length
    match s.place a with
    | .store t x o => s.clearPoison t x o bs.length
    | _ => s

/-- One mirrored sector: as it stands after the write it goes to the destination too (R292), and from there on where another slot mirrors
that: through each slot once; `fuel` bounds them. -/
def State.mirrorSector : Nat → List Nat → State → Nat → State
  | 0, _, s, _ => s
  | fuel + 1, done, s, q =>
    (s.mirrorOf q).foldl
      (fun s e =>
        if done.contains e.1 then s
        else
          let s := s.put (32 * e.2) (s.plainBytes (32 * q) 32)
          State.mirrorSector fuel (e.1 :: done)
            { s with ctl := { s.ctl with mirrors := s.ctl.mirrors.adjust e.1 (fun m => { m with written := e.2 :: m.written }) } } e.2)
      s

/-- A write of `n` bytes at `a` would be mirrored into a level that a re-ruling holds. -/
def State.mirrorHeld (s : State) (a n : Nat) : Bool :=
  !s.ctl.mirrors.isEmpty && s.levels.any (fun (e : Nat × Level) => e.2.busy) &&
    (sectors a n).any (fun q => (s.mirrorOf q).any (fun e => s.heldAt (32 * e.2)))

/-- The whole chunks among `n` bytes at `a`. -/
def wholeChunks (a n : Nat) : List Nat := (chunksOf a n).filter (fun c => decide (a ≤ 512 * c) && decide (512 * c + 512 ≤ a + n))

/-- Mirrored writes of `n` bytes at `a`, chunks that they cover whole going through wash detection (R292, R397). -/
def State.mirror (s : State) (a n : Nat) : State :=
  if s.ctl.mirrors.isEmpty then s
  else
    let s := (sectors a n).foldl (State.mirrorSector 8 []) s
    (wholeChunks a n).foldl (fun s c => (s.mirrorOf (16 * c)).foldl (fun s e => s.detectWash (32 * e.2)) s) s

/-- Perform a write of bytes at a package address: in place, with poison cleared and mirrors served. -/
def State.writeBytes (s : State) (a : Nat) (bs : List Byte) : State := (s.put a bs).mirror a bs.length

/-- A checked physical read (R283, R301). -/
def State.physRead (s : State) (ident : BitVec 32) (r : Reach) (pa n : Nat) : Try (List Byte) := do
  let p ← s.physCheck ident r .read pa n
  s.readBytes p.key n

/-- Bytes in memory as a viewer sees them, in elements of `grain` bytes (R314). -/
def State.seenBytes (s : State) (who : Option Viewer) (grain a n : Nat) : Try (List Byte) := do
  let bs ← s.readBytes a n
  .ok (s.order.view who grain a bs)

/-- The viewer that an identity of the service die is. -/
def dieViewer (tower : Nat) (ident : BitVec 32) : Option Viewer :=
  if ident = rubIdent tower then some .die
  else if ident = serviceIdent tower 0 then some .blotter
  else if ident = serviceIdent tower 1 then some .walkers
  else if ident = serviceIdent tower 2 then some .collective
  else none

/-- A read of the service die's own, which may see an older value (R314, R326). -/
def State.dieRead (s : State) (ident : BitVec 32) (pa n : Nat) : Try (List Byte) := do
  let p ← s.physCheck ident .engine .read pa n
  s.seenBytes (dieViewer s.tower ident) 8 p.key n

/-- The service die sees the writes that it has made since `old`. -/
def State.dieWrote (old s : State) (ident : BitVec 32) : State :=
  if s.order.next = old.order.next then s
  else
    match dieViewer s.tower ident with
    | some v => s.ordered (fun o => o.show [v] (o.since old.order.next))
    | none => s

/-- A write of part of a chunk that does not expand is not performed (R304, R305, R369), and one that is mirrored into a level which a
re-ruling holds waits with it (R290, R292). -/
def State.writable (s : State) (a n : Nat) : Try Unit := do
  await !(s.mirrorHeld a n)
  if s.washed.isEmpty then .ok ()
  else do
    let part := (chunksOf a n).filter (fun c => !(decide (a ≤ 512 * c) && decide (512 * c + 512 ≤ a + n)))
    let _ ← collect (part.map (fun c => s.readBytes (max a (512 * c)) (min (a + n) (512 * c + 512) - max a (512 * c))))
    .ok ()

/-- A checked physical write. -/
def State.physWrite (s : State) (ident : BitVec 32) (r : Reach) (pa : Nat) (bs : List Byte) : Try State := do
  let p ← s.physCheck ident r .write pa bs.length
  s.writable p.key bs.length
  .ok (State.dieWrote s (s.writeBytes p.key bs) ident)

/-! ## The service area (R325)

The service die reads and writes it with the Rubricator's identity. -/

/-- No re-ruling holds the service area: a step of the service die that reads there waits until then (R290). -/
def State.serviceFree (s : State) : Bool :=
  match s.serviceBase with
  | none => true
  | some b => !s.heldAt b && !s.heldAt (b + 0x15FFFF)

/-- A doubleword of the service area. -/
def State.serviceWord (s : State) (off : Nat) : Option Word :=
  match s.serviceBase with
  | none => none
  | some b =>
    match s.dieRead (rubIdent s.tower) (b + off) 8 with
    | .ok bs => some (BitVec.ofNat 64 (leNat bs))
    | .error _ => none

/-- Bytes of the service area. -/
def State.serviceBytes (s : State) (off n : Nat) : Option (List Byte) :=
  match s.serviceBase with
  | none => none
  | some b =>
    match s.dieRead (rubIdent s.tower) (b + off) n with
    | .ok bs => some bs
    | .error _ => none

/-- The service die writes a word of the service area that is its own; a write that a re-ruling holds is performed when it ends. -/
def State.serviceWrite (s : State) (off n v : Nat) : State :=
  match s.serviceBase with
  | none => s
  | some b =>
    match s.physWrite (rubIdent s.tower) .engine (b + off) (leBytes n v) with
    | .ok u => u
    | .error .hold => { s with ctl := { s.ctl with heldWrites := s.ctl.heldWrites ++ [(b + off, leBytes n v)] } }
    | .error _ => s

/-- The writes that a re-ruling held, once it has ended. -/
def State.releaseWrites (s : State) : State :=
  s.ctl.heldWrites.foldl (fun s w =>
    match s.physWrite (rubIdent s.tower) .engine w.1 w.2 with
    | .ok u => u
    | .error .hold => { s with ctl := { s.ctl with heldWrites := s.ctl.heldWrites ++ [w] } }
    | .error _ => s) { s with ctl := { s.ctl with heldWrites := [] } }

/-! ## Page tables (R294 to R298) -/

/-- What a walker reads, as an LDS at TOWER scope would (R297). -/
def State.walkSees (s : State) (pa : Nat) : Try (List Byte) := do
  let p ← s.physCheck (serviceIdent s.tower 1) .engine .read pa 8
  (s.strongRead [.walkers] { scope := 3, party := .service, home := .die, done := false } p.key 8).seenBytes (some .walkers) 8 p.key 8

/-- The index of a virtual address in the table of a level (R294). -/
def ptIndex (level va : Nat) : Nat :=
  if level = 3 then bits va 39 13 else if level = 2 then bits va 30 9 else if level = 1 then bits va 21 9 else bits va 16 5

/-- Bytes of a table of a level. -/
def ptBytes (level : Nat) : Nat := if level = 3 then 65536 else if level = 0 then 256 else 4096

/-- Bytes of a page whose leaf stands at a level. -/
def pageBytes (level : Nat) : Nat := if level = 2 then 2 ^ 30 else if level = 1 then 2 ^ 21 else 2 ^ 16

/-- A walker's read of a doubleword: refused, it fails the walk with XLATE (R296); a re-ruling holds it. -/
def State.walkRead (s : State) (pa : Nat) : Try Nat :=
  match s.walkSees pa with
  | .ok bs => .ok (leNat bs)
  | .error (.trap .uncorrectable _) => raise .uncorrectable
  | .error (.trap .mapLost _) => raise .mapLost
  | .error .hold => .error .hold
  | .error _ => raise .xlate

/-- A table lies in this tower's T levels or LPDDR6, aligned to its size. -/
def State.tableOk (s : State) (level pa : Nat) : Bool :=
  decide (pa % ptBytes level = 0) &&
    match s.place pa with
    | .store t _ _ => decide (t = s.tower)
    | _ => false

/-- A page lies wholly within one target, outside the control block and the semaphore file, below live capacity. -/
def State.pageOk (s : State) (level pa : Nat) : Bool :=
  let n := pageBytes level
  decide (pa % n = 0) &&
    match s.place pa, s.place (pa + n - 1) with
    | .store t x _, .store t' y o' =>
      decide (t = t') && decide (x = y) && (decide (x = 4) || decide (t ≠ s.tower) || decide (o' - levelBase x < (s.level x).capacity x))
    | .host _, .host _ => true
    | .remote a o, .remote b o' =>
      decide (a = b) &&
        (match placeOffset 0 o, placeOffset 0 o' with
          | .store _ x _, .store _ y _ => decide (x = y)
          | _, _ => false)
    | _, _ => false

/-- The A stream's rights over a page for an identity, when they are the same in every 64 KiB unit (R302). -/
def State.uniformRights (s : State) (ident : BitVec 32) (pa n : Nat) : Option (Bool × Bool × Bool) :=
  match (s.place pa).target with
  | none => some (true, true, true)
  | some (t, x, o) =>
    let at_ (i : Nat) := (s.admits t x (o + 65536 * i) ident .read, s.admits t x (o + 65536 * i) ident .write,
      s.admits t x (o + 65536 * i) ident .fetch)
    let first := at_ 0
    -- rights change only where an entry's range begins or ends
    let es := s.acl.filter (fun e => decide (e.1 / 256 = 8 * t + x))
    let marks := es.flatMap (fun e => [bits e.2.w0.toNat 16 24, bits e.2.w1.toNat 16 24 + 1])
    let inside := (marks.filter (fun u => o / 65536 ≤ u && u < (o + n) / 65536)).map (fun u => u - o / 65536)
    if inside.all (fun i => decide (at_ i = first)) then some first else none

/-- Below level `n` of the walk: the table at `tab`; `fuel` is the level. -/
def State.walkFrom (s : State) (va : Nat) : Nat → Nat → Try (Nat × Nat × Nat)
  | level, tab =>
    if !s.tableOk level tab then raise .xlate
    else
      match s.walkRead (tab + 8 * ptIndex level va) with
      | .error c => .error c
      | .ok e =>
        if bits e 57 7 ≠ 0 ∨ bits e 6 2 ≠ 0 ∨ e % 2 = 0 then raise .xlate
        else
          let pa := bits e 8 49 * 256
          if bits e 1 1 = 1 then
            if level = 3 then raise .xlate
            else if s.pageOk level pa then .ok (e, level, pa) else raise .xlate
          else
            match level with
            | 0 => raise .xlate
            | n + 1 => s.walkFrom va n pa

/-- The cores whose A streams a TLB serves: one, or the four of a cluster. -/
def unitCores (unit : Nat) : List Nat :=
  if unit < 192 then [unit] else if unit < 240 then [] else (List.range 4).map (fun i => 4 * (unit - 240) + i)

/-- The rights a TLB entry records, by core. -/
def State.entryRights (s : State) (unit pa n : Nat) : SMap (Bool × Bool × Bool) :=
  (unitCores unit).filterMap (fun c => (s.uniformRights (coreIdent s.tower c 0 0) pa n).map (fun r => (c, r)))

/-- A page-table walk (R295, R296): the translation, for a TLB unit. -/
def State.walk (s : State) (unit asid va : Nat) : Try Tlb :=
  match s.serviceBase with
  | none => raise .xlate
  | some b =>
    match s.walkRead (b + 8 * asid) with
    | .error c => .error c
    | .ok e =>
      if e % 2 = 0 ∨ bits e 1 15 ≠ 0 ∨ bits e 57 7 ≠ 0 then raise .xlate
      else
        match s.walkFrom va 3 (bits e 16 41 * 65536) with
        | .error c => .error c
        | .ok (pte, level, pa) =>
          let n := pageBytes level
          .ok { unit := unit, asid := asid, global := decide (bits pte 5 1 = 1), va := va / n * n, size := n, pa := pa,
                r := decide (bits pte 2 1 = 1), w := decide (bits pte 3 1 = 1), x := decide (bits pte 4 1 = 1),
                rights := s.entryRights unit pa n, failed := false }

/-! ## Translation (R136, R296, R298) -/

/-- The L2 TLB behind a core's TLB (R298); a matrix-load TLB has none behind it. -/
def l2Of (unit : Nat) : Nat := if unit < 192 then 240 + clusterOf unit else unit

/-- The TLB entry that holds a virtual address for a unit: its own or its cluster's L2. -/
def State.tlbFind (s : State) (unit asid va : Nat) : Option Tlb :=
  s.tlb.find? (fun e => (e.unit = unit || e.unit = l2Of unit) && (e.global || e.asid = asid) && e.va ≤ va && va < e.va + e.size)

/-- The entry's permission for a kind of access. -/
def Tlb.permits (e : Tlb) : Access → Bool
  | .read => e.r
  | .write => e.w
  | .fetch => e.x
  | .sem => false

/-- The recorded right of a core's A stream, when uniform (R302). -/
def Tlb.right (e : Tlb) (core : Nat) : Access → Bool
  | .read => ((SMap.find? core e.rights).map (·.1)).getD true
  | .write => ((SMap.find? core e.rights).map (·.2.1)).getD true
  | .fetch => ((SMap.find? core e.rights).map (·.2.2)).getD true
  | .sem => false

/-- The TLB entry of a virtual address: its walk is missing, or has failed. A failed walk whose entries have become valid since is
made again: no TLB keeps an invalid entry (R297). -/
def State.entryOf (s : State) (unit asid va : Nat) : Try Tlb :=
  if 2 ^ 52 ≤ va then .error (.trap .xlate va)
  else
    match s.tlbFind unit asid va with
    | none => .error (.miss unit asid va)
    | some e =>
      if e.failed then
        match s.walk unit asid va with
        | .error (.trap c _) => .error (.trap c va)
        | .error e => .error e
        | .ok _ => .error (.miss unit asid va)
      else .ok e

/-- The entry allows a kind of access, and the rights it records do for the A stream. -/
def Tlb.allows (e : Tlb) (unit : Nat) (k : Access) (astream : Bool) : Bool := e.permits k && (!astream || e.right unit k)

/-- Translate one virtual address. -/
def State.translate (s : State) (unit asid va : Nat) (k : Access) (astream : Bool) : Try Nat := do
  let e ← s.entryOf unit asid va
  if e.allows unit k astream then .ok (e.pa + (va - e.va)) else .error (.trap .access va)

/-- The entries of a virtual range, cut at 64 KiB, with the address and the length of each piece: every byte translates before any
right is asked for (R136). `fuel` bounds the pieces. -/
def State.entries (s : State) (unit asid : Nat) : Nat → Nat → Nat → Try (List (Tlb × Nat × Nat))
  | 0, _, _ => .ok []
  | fuel + 1, va, n =>
    if n = 0 then .ok []
    else do
      let e ← s.entryOf unit asid va
      let m := min n (65536 - va % 65536)
      let t ← s.entries unit asid fuel (va + m) (n - m)
      .ok ((e, va, m) :: t)

/-- The physical pieces of a virtual range: addresses and lengths. -/
def State.pieces (s : State) (unit asid : Nat) (k : Access) (astream : Bool) (va n : Nat) : Try (List (Nat × Nat)) := do
  let es ← s.entries unit asid (n / 65536 + 2) va n
  match es.find? (fun e => !e.1.allows unit k astream) with
  | some e => .error (.trap .access e.2.1)
  | none => .ok (es.map (fun e => (e.1.pa + (e.2.1 - e.1.va), e.2.2)))

/-- A physical range cut at 64 KiB. `fuel` bounds the pieces. -/
def physPieces : Nat → Nat → Nat → List (Nat × Nat)
  | 0, _, _ => []
  | fuel + 1, pa, n =>
    if n = 0 then []
    else
      let m := min n (65536 - pa % 65536)
      (pa, m) :: physPieces fuel (pa + m) (n - m)

/-- How an engine or a stream addresses memory: through translation, or physically. -/
structure View where
  unit : Nat
  asid : Option Nat
  ident : BitVec 32
  reach : Reach
  astream : Bool
  /-- Who reads; none sees the newest writes. -/
  who : Option Viewer
  /-- Bytes of the elements that are read (R314). -/
  grain : Nat
  deriving DecidableEq, Repr

/-- A view of elements of `w` bits. -/
def View.grained (v : View) (w : Nat) : View := { v with grain := max 1 (w / 8) }

/-- The physical pieces of a range under a view. -/
def State.range (s : State) (v : View) (k : Access) (va n : Nat) : Try (List (Nat × Nat)) :=
  match v.asid with
  | none => .ok (physPieces (n / 65536 + 2) va n)
  | some a => s.pieces v.unit a k v.astream va n

/-- Put the virtual address into a trap that has none. -/
def atVa {α : Type} (va : Nat) : Try α → Try α
  | .error (.trap c 0) => .error (.trap c va)
  | r => r

/-- Every check of an access: translation, permission, access table, banks (R136). -/
def State.check (s : State) (v : View) (k : Access) (va n : Nat) : Try (List (Nat × Nat)) := do
  let ps ← s.range v k va n
  let _ ← atVa va (collect (ps.map (fun p => do
    let pl ← s.physCheck v.ident v.reach k p.1 p.2
    if k = .write then s.writable pl.key p.2)))
  .ok ps

/-- Read bytes of a physical piece under a view. -/
def State.pieceRead (s : State) (v : View) (pa n : Nat) : Try (List Byte) := do
  let p ← s.physCheck v.ident v.reach .read pa n
  s.seenBytes v.who v.grain p.key n

/-- Read bytes under a view. -/
def State.viewRead (s : State) (v : View) (va n : Nat) : Try (List Byte) := do
  let ps ← s.range v .read va n
  let bs ← atVa va (collect (ps.map (fun p => s.pieceRead v p.1 p.2)))
  .ok bs.flatten

/-- Write bytes to pieces that have been checked. -/
def State.writePieces (s : State) : List (Nat × Nat) → List Byte → State
  | [], _ => s
  | (pa, n) :: t, bs => (s.writeBytes (s.place pa).key (bs.take n)).writePieces t (bs.drop n)

/-- Write bytes under a view: every byte is checked before any is written. -/
def State.viewWrite (s : State) (v : View) (va : Nat) (bs : List Byte) : Try State := do
  let ps ← s.check v .write va bs.length
  .ok (s.writePieces ps bs)

/-- The view of whoever runs, on the A stream: translated for a task, physical for the Rubricator (R119, R283). -/
def State.aView (s : State) : View :=
  match s.cur with
  | .rub => { unit := 0, asid := none, ident := rubIdent s.tower, reach := .rubricator, astream := false, who := some .rub, grain := 8 }
  | .task id _ =>
    match s.task? id with
    | none => { unit := 0, asid := none, ident := 0, reach := .engine, astream := false, who := none, grain := 8 }
    | some t =>
      { unit := t.core, asid := some t.asid, ident := coreIdent s.tower t.core 0 0, reach := .scalar, astream := true,
        who := some (.stream id), grain := 8 }

/-- The pieces of `n` bytes of code from parcel `p` on: parcel addresses wrap at 2^50 (R76). -/
def State.codePieces (s : State) (core asid : Nat) (p : Parcel) (n : Nat) : Try (List (Nat × Nat)) := do
  let va := 4 * p.toNat
  let m := min n (2 ^ 52 - va)
  let a ← s.pieces core asid .fetch false va m
  let b ← s.pieces core asid .fetch false 0 (n - m)
  .ok (a ++ b)

/-- What a task fetches its code from: memory as it stood when the task last began to run (R77). -/
def State.codeOf (s : State) (id : Nat) : State :=
  match SMap.find? id s.codes with
  | some c => { s with mem := c.mem, washed := c.washed }
  | none => s

/-- A task begins to run: it fetches from memory as it now stands. -/
def State.keepCode (s : State) (id : Nat) : State := { s with codes := s.codes.put id { mem := s.mem, washed := s.washed } }

/-- Virtual bytes fetched as code by task `id` (R76, R77): through the core's translations, with the right X. -/
def State.fetch (s : State) (id core asid stream : Nat) (p : Parcel) (n : Nat) : Try (List Byte) := do
  let ps ← s.codePieces core asid p n
  let bs ← atVa (4 * p.toNat) (collect (ps.map (fun q => do
    let pl ← s.physCheck (coreIdent s.tower core stream 0) .engine .fetch q.1 q.2
    (s.codeOf id).readBytes pl.key q.2)))
  .ok bs.flatten

end Sys2Proof.Machine
end

