-- ==== Sys2Proof/Machine/Folio.lean ====
section
/-! DEFINITION. The Folio table as the service die keeps it: headers, free lists, references and conversions (R160 to R162,
R396, R400 to R408). -/

namespace Sys2Proof.Machine

/-- A number with bits `lo` to `lo + n − 1` replaced. -/
def setBits (v lo n x : Nat) : Nat := v - bits v lo n * 2 ^ lo + x % 2 ^ n * 2 ^ lo

/-! ## Headers (Table 17.2) -/

/-- The key of doubleword `i` of the header of block `b`. -/
def State.headerKey (s : State) (b i : Nat) : Nat := (s.place (s.folio.base.getD 0)).key + 64 * b + 8 * i

/-- Doubleword `i` of the header of block `b`. -/
def State.header (s : State) (b i : Nat) : Nat := leNat (s.plainBytes (s.headerKey b i) 8)

/-- No re-ruling holds the header array: it is held as one (R290). -/
def State.headersFree (s : State) : Bool :=
  match s.folio.base with
  | some b => !s.heldAt b && !s.heldAt (b + 0x3FFFFFF)
  | none => true

/-- The service die's access to a header, with the identity it has in the service area: allowed, refused or held (R301, R372). -/
def State.headerCheck (s : State) (k : Access) (b : Nat) : Try Unit := do
  await s.headersFree
  let a := s.folio.base.getD 0 + 64 * b
  let _ ← s.physRead (rubIdent s.tower) .engine a 64
  let _ ← s.physCheck (rubIdent s.tower) .engine k a 64
  .ok ()

/-- The header may be read and written now. -/
def State.headerOk (s : State) (b : Nat) : Bool :=
  match s.headerCheck .write b with
  | .ok _ => true
  | .error _ => false

/-- The service die writes a doubleword of a header; one that is refused stays as it is. -/
def State.setHeader (s : State) (b i v : Nat) : State :=
  match s.physWrite (rubIdent s.tower) .engine (s.folio.base.getD 0 + 64 * b + 8 * i) (leBytes 8 v) with
  | .ok u => u
  | .error _ => s

/-- Replace a field of a header. -/
def State.setHeaderBits (s : State) (b i lo n x : Nat) : State := s.setHeader b i (setBits (s.header b i) lo n x)

def State.blockState (s : State) (b : Nat) : Nat := bits (s.header b 0) 60 2
def State.blockFormat (s : State) (b : Nat) : Nat := bits (s.header b 0) 52 4
def State.blockPlace (s : State) (b : Nat) : Nat := bits (s.header b 0) 48 3
def State.blockGroup (s : State) (b : Nat) : Nat := bits (s.header b 0) 40 8
def State.blockRefs (s : State) (b : Nat) : Nat := bits (s.header b 0) 0 24
def State.blockAge (s : State) (b : Nat) : Nat := bits (s.header b 1) 32 32
def State.blockData (s : State) (b : Nat) : Nat := bits (s.header b 2) 16 41 * 65536
def State.blockBusy (s : State) (b : Nat) : Bool := decide (bits (s.header b 4) 63 1 = 1)

/-- The block is on a free list, or has left its last reference and waits to return to one (R162). -/
def State.blockFree (s : State) (b : Nat) : Bool := decide (bits (s.header b 0) 63 1 = 1) || s.folio.freeing.contains b

/-- The state of Table 17.2 and age 0. -/
def State.setBlockState (s : State) (b st : Nat) : State := (s.setHeaderBits b 0 60 2 st).setHeaderBits b 1 32 32 0

/-! ## Free lists (Table 17.1) -/

/-- The first free block of a location, as the head word in force says. -/
def State.freeHead (s : State) (loc : Nat) : Option Nat := SMap.find? loc s.folio.heads

/-- A head word comes into force. -/
def State.takeHead (s : State) (loc w : Nat) : State :=
  { s with folio := { s.folio with
    heads := if bits w 63 1 = 1 then s.folio.heads.del loc else s.folio.heads.put loc (bits w 0 20) } }

/-- The service die sets a head: it owns the words while the Folio is valid. -/
def State.setHead (s : State) (loc w : Nat) : State := (s.takeHead loc w).serviceWrite (0x10A208 + 8 * loc) 8 w

/-- Take the first free block of a location: its header leaves the list. -/
def State.takeFree (s : State) (loc : Nat) : Option (Nat × State) :=
  match s.freeHead loc with
  | none => none
  | some b =>
    let link := s.header b 3
    let rest := if bits link 63 1 = 1 then 2 ^ 63 else bits link 0 20
    if s.headerOk b then some (b, (((s.setHead loc rest).setHeaderBits b 0 63 1 0).setHeader b 3 0).setHeader b 4 0) else none

/-- A block returns to the head of the free list of its location. -/
def State.returnFree (s : State) (b : Nat) : State :=
  let loc := s.blockPlace b
  let link := match s.freeHead loc with
    | none => 2 ^ 63
    | some n => n
  ((s.setHeader b 3 link).setHeaderBits b 0 63 1 1).setHead loc b

/-- A new block: open, age 0, one reference (R161, R400). -/
def State.allocBlock (s : State) (loc format group : Nat) : Option (Nat × State) :=
  match s.takeFree loc with
  | none => none
  | some (b, s) =>
    some (b, (s.setHeader b 0 (format * 2 ^ 52 + loc * 2 ^ 48 + group * 2 ^ 40 + 1)).setHeaderBits b 1 32 32 0)

/-! ## Conversions (R405 to R407) -/

/-- The conversion counts as the service area shows them, each saturating (Table 17.1). -/
def State.showConversions (s : State) : State :=
  s.serviceWrite 0x10A248 8
    (min s.folio.completed (2 ^ 32 - 1) * 2 ^ 32 + min s.folio.aborted 65535 * 65536 + min s.folio.skipped 65535)

/-- A conversion of block `b` is aborted: the scratch block returns to its free list (R407). -/
def State.abortConversion (s : State) (b : Nat) : State :=
  match s.folio.converting.find? (fun c => c.block = b) with
  | none => s
  | some c =>
    let s := (s.returnFree c.scratch).setHeader b 4 0
    { s with folio := { s.folio with
        converting := s.folio.converting.filter (fun c => decide (c.block ≠ b)), aborted := s.folio.aborted + 1 } }.showConversions

/-- A write reaches the block: sealed and converting blocks become open with age 0 (R403). -/
def State.openBlock (s : State) (b : Nat) : State :=
  if s.blockState b = 1 then s.setBlockState b 0
  else if s.blockState b = 2 then (s.abortConversion b).setBlockState b 0
  else s

/-- One reference less; at 0 the block is freed once its reads have ended, and a conversion of it is aborted (R162, R407). -/
def State.dropRef (s : State) (b : Nat) : State :=
  let n := s.blockRefs b
  let s := s.setHeaderBits b 0 0 24 (n - 1)
  if n ≠ 1 then s
  else
    let s := if s.blockState b = 2 then s.abortConversion b else s
    { s with folio := { s.folio with freeing := s.folio.freeing ++ [b] } }

/-! ## The Blotter's request word and refused accesses (R408, R447) -/

/-- The Blotter's identity (Table 12.6). -/
def State.blotterIdent (s : State) : BitVec 32 := serviceIdent s.tower 0

/-- The request word is answered: bit 63 cleared, the result written. -/
def State.endRequest (s : State) (result : Nat) : State :=
  match s.serviceWord 0x10A240 with
  | some w => s.serviceWrite 0x10A240 8 (setBits (setBits w.toNat 63 1 0) 61 2 result)
  | none => s

/-- The record of a refused access of the Blotter: the access is its own. -/
def State.blotterRecord (s : State) (cause : Cause) (block pa : Nat) : Record :=
  { infoRecord s.tower 10 (some cause) block pa with ident := s.blotterIdent.toNat }

/-- A refused access of a migration ends it: its scratch block returns, the block is not busy, and the result is 2. -/
def State.refuseMigration (s : State) (c : Convert) (cause : Cause) (pa : Nat) : State :=
  let s := (s.setHeader c.block 4 0).returnFree c.scratch
  ({ s with folio := { s.folio with migrating := none } }.endRequest 2).post (s.blotterRecord cause c.block pa)

/-! ## Storage -/

/-- The storage lies in this tower's T levels or LPDDR6 (R400). -/
def State.storageOk (s : State) (pa : Nat) : Bool :=
  match s.place pa with
  | .store t _ _ => decide (t = s.tower)
  | _ => false

/-- Elements of a page (Table 17.3): the bytes of one element of its formats. -/
def pageElem (format : Nat) : Nat := if format ≤ 2 then 1 else 2

end Sys2Proof.Machine
end

