-- ==== Sys2Proof/Machine/Glyphs.lean ====
section
/-! DEFINITION. Glyphs: their fields and validity (R147), the element a coordinate or a flat index names (R148), and the read
and the write of one element under a view, paged glyphs included (R402 to R404). -/

namespace Sys2Proof.Machine

/-- A glyph's fields (Table 6.4). -/
structure Glyph where
  valid : Bool
  rank : Nat
  mx : Nat
  memfmt : Nat
  ty : Nat
  base : Nat
  dims : List Nat
  /-- Byte strides of axes 1 to 4. -/
  strides : List Int
  pad : Nat
  paged : Bool
  layout : Nat
  scale : Nat
  entropy : Nat
  zeros : Bool
  deriving DecidableEq, Repr

/-- The glyph that eight doublewords hold. -/
def glyphOf (ws : List Word) : Glyph :=
  let w (i : Nat) := dw ws i
  { valid := decide (bits (w 0) 63 1 = 1), rank := bits (w 0) 60 3, mx := bits (w 0) 58 2, memfmt := bits (w 0) 56 2,
    ty := bits (w 0) 52 4, base := bits (w 0) 0 52,
    dims := [bits (w 1) 0 32, bits (w 1) 32 32, bits (w 2) 0 32, bits (w 2) 32 32, bits (w 3) 0 32],
    strides := [signed 32 (bits (w 3) 32 32), signed 32 (bits (w 4) 0 32), signed 32 (bits (w 4) 32 32),
      signed 32 (bits (w 5) 0 32)],
    pad := bits (w 5) 32 32, paged := decide (bits (w 6) 56 1 = 1), layout := bits (w 6) 52 4, scale := bits (w 6) 0 52,
    entropy := bits (w 7) 0 52, zeros := decide (bits (w 6) 57 7 = 0) && decide (bits (w 7) 52 12 = 0) }

/-- Bits of one element in memory: 6 for FP6 storage (R54). -/
def Glyph.storeBits (g : Glyph) : Nat := if g.memfmt ≠ 0 then 6 else typeBits g.ty

/-- The number of elements. -/
def Glyph.count (g : Glyph) : Nat := g.dims.foldl (· * ·) 1

/-- dim j. -/
def Glyph.dim (g : Glyph) (j : Nat) : Nat := g.dims.getD j 1

/-- The pad as an element of the glyph's type. -/
def Glyph.padValue (g : Glyph) : Nat := g.pad % 2 ^ typeBits g.ty

/-- The conditions of Table 6.5. -/
def Glyph.ok (g : Glyph) : Bool :=
  g.valid && decide (1 ≤ g.rank) && decide (g.rank ≤ 5) &&
  (g.dims.zipIdx).all (fun d => if d.2 < g.rank then decide (1 ≤ d.1) else decide (d.1 = 1)) &&
  decide (g.mx ≤ 2) && (decide (g.mx = 0) || decide (g.ty = 9 ∨ g.ty = 10 ∨ g.ty = 8) || decide (g.memfmt = 1 ∨ g.memfmt = 2)) &&
  decide (g.memfmt ≤ 2) && (decide (g.memfmt = 0) || decide (g.ty = 9)) && decide (g.layout = 0) && g.zeros &&
  (if g.paged then decide (g.base % 4 = 0)
   else decide (g.storeBits < 8) || decide (g.base % (g.storeBits / 8) = 0)) &&
  decide (g.count ≤ 2 ^ 40)

/-! ## Elements (R148) -/

/-- Coordinates as integers. -/
def intCoords (c : List Nat) : List Int := c.map (fun (x : Nat) => (x : Int))

/-- Coordinates of flat index `f`. -/
def Glyph.coordsOf (g : Glyph) (f : Nat) : List Nat :=
  [f % g.dim 0, f / g.dim 0 % g.dim 1, f / (g.dim 0 * g.dim 1) % g.dim 2, f / (g.dim 0 * g.dim 1 * g.dim 2) % g.dim 3,
    f / (g.dim 0 * g.dim 1 * g.dim 2 * g.dim 3)]

/-- The bit offset from base of the element at coordinates. -/
def Glyph.offset (g : Glyph) (c : List Int) : Int :=
  c.getD 0 0 * g.storeBits +
    8 * (c.getD 1 0 * g.strides.getD 0 0 + c.getD 2 0 * g.strides.getD 1 0 + c.getD 3 0 * g.strides.getD 2 0 +
      c.getD 4 0 * g.strides.getD 3 0)

/-- The bit offset of flat index `f`. -/
def Glyph.flat (g : Glyph) (f : Nat) : Int := g.offset (intCoords (g.coordsOf f))

/-- The address of the MX scale of the element at coordinates, wherever they lie (R148, R158). -/
def Glyph.scaleAt (g : Glyph) (c : List Int) : Nat :=
  let b : Nat := if g.mx = 2 then 256 else 32
  let d (j : Nat) : Int := (g.dim j : Int)
  wrap 64 (g.scale + c.getD 0 0 / (b : Int) +
    (ceilDiv (g.dim 0) b : Int) * (c.getD 1 0 + d 1 * (c.getD 2 0 + d 2 * (c.getD 3 0 + d 3 * c.getD 4 0))))

/-- The element byte address of a bit offset, displaced by bytes. -/
def Glyph.byteAt (g : Glyph) (off disp : Int) : Nat := wrap 64 (g.base + disp + off / 8)

/-- Bytes an element touches from its first byte on. -/
def Glyph.span (g : Glyph) (off : Int) : Nat := ((off % 8).toNat + g.storeBits + 7) / 8

/-! ## Paged elements (R402) -/

/-- Table 17.4: the formats a type reads, and the one it writes. -/
def pagedReads (ty : Nat) : List Nat := if ty = 9 ∨ ty = 10 then [0, 1, 2] else if ty = 11 ∨ ty = 12 then [3, 4] else []

/-- The page format a glyph type writes. -/
def pagedWrites (ty : Nat) : Nat := if ty = 9 then 0 else if ty = 10 then 1 else if ty = 12 then 3 else 4

/-- The list entry of a sequence offset: its physical address. -/
def State.listEntry (s : State) (v : View) (g : Glyph) (o : Int) : Try Nat := do
  let ev := wrap 64 (g.base + 4 * (o / 65536))
  let ps ← s.range v .read ev 4
  .ok ((ps.headD (0, 0)).1)

/-- The block that a sequence offset resolves to (R402). -/
def State.resolveBlock (s : State) (v : View) (g : Glyph) (o : Int) : Try Nat := do
  require s.folio.base.isSome .access
  require (decide (pagedReads g.ty ≠ []) && decide (g.mx = 0)) .glyphInvalid
  let pa ← s.listEntry v g o
  let bs ← s.pieceRead { v with reach := .engine } pa 4
  require (decide (leNat bs < 2 ^ 20)) .glyphInvalid
  s.headerCheck .read (leNat bs)
  require (!s.blockFree (leNat bs)) .access
  .ok (leNat bs)

/-- The logical element of a sequence offset in its page. -/
def Glyph.pageIndex (g : Glyph) (o : Int) : Nat := (o % 65536).toNat / (typeBits g.ty / 8)

/-- Value(format, element) of a page, as the glyph's type (R402). -/
def pageValue (format ty code scale : Nat) : Nat :=
  let v : Val :=
    if format = 0 then fE4.value code
    else if format = 1 then fE5.value code
    else if format = 2 then mxValue (fF4.value code) scale
    else if format = 3 then fB16.value code
    else fF16.value code
  (roundVal (fmtOf ty) 0 true v).1

/-- The bytes of a block's storage that a page element is read from: physical addresses and lengths. -/
def State.pageBytesAt (s : State) (b : Nat) (g : Glyph) (o : Int) : List (Nat × Nat) :=
  let d := s.blockData b
  let j := g.pageIndex o
  let f := s.blockFormat b
  if f = 2 then [(d + j / 2, 1), (d + 32768 + j / 32, 1)] else [(d + pageElem f * j, pageElem f)]

/-- Read a paged element. -/
def State.pagedRead (s : State) (v : View) (g : Glyph) (o : Int) : Try Nat := do
  let b ← s.resolveBlock v g o
  let f := s.blockFormat b
  require ((pagedReads g.ty).contains f) .glyphInvalid
  let d := s.blockData b
  let j := g.pageIndex o
  require (s.storageOk d) .access
  if f = 2 then
    let c ← s.pieceRead { v with reach := .engine } (d + j / 2) 1
    let e ← s.pieceRead { v with reach := .engine } (d + 32768 + j / 32) 1
    .ok (pageValue f g.ty (leNat c / 16 ^ (j % 2) % 16) (leNat e))
  else
    let n := pageElem f
    let c ← s.pieceRead { v with reach := .engine } (d + n * j) n
    .ok (pageValue f g.ty (leNat c) 0)

/-- Copy-on-write of block `b` starts for the list entry at `e`: a new block, both storages within reach of the writer (R400, R404). -/
def State.startCow (s : State) (v : View) (e b : Nat) : Try State := do
  let loc := s.blockPlace b
  match s.freeHead loc with
  | some h => s.headerCheck .write h
  | none => .ok ()
  match s.allocBlock loc (s.blockFormat b) (s.blockGroup b) with
  | none => raise .folioExhausted
  | some (nb, u) => do
    require (s.storageOk (s.blockData b) && u.storageOk (u.blockData nb)) .access
    let _ ← s.physCheck v.ident .engine .read (s.blockData b) 65536
    let _ ← u.physCheck v.ident .engine .write (u.blockData nb) 65536
    .ok { u with folio := { u.folio with
      cows := u.folio.cows ++ [{ entry := e, block := b, fresh := nb, data := s.blockData b, ident := v.ident }] } }

/-- A write into a block that is migrating is not held on its other side: where the scratch block lies, and where the migration's end would be
told. -/
def State.migrationFree (s : State) (b : Nat) : Bool :=
  match s.folio.migrating with
  | some m => decide (m.block ≠ b) || (!s.heldAt (s.blockData m.scratch) && s.serviceFree)
  | none => true

/-- The block that a write may reach in place, and where in its storage: copy-on-write is started for a shared one, and the write waits
(R403, R404). -/
def State.pagedPlace (s : State) (v : View) (g : Glyph) (o : Int) : Try (Nat × Nat) := do
  require s.folio.base.isSome .access
  let e ← s.listEntry v g o
  await (!s.folio.cows.any (fun c => c.entry = e))
  let b ← s.resolveBlock v g o
  s.headerCheck .write b
  require (decide (s.blockFormat b = pagedWrites g.ty)) .glyphInvalid
  if 1 < s.blockRefs b then
    if 64 ≤ s.folio.cows.length then .error .hold
    else do
      let u ← s.startCow v e b
      .error (.pend u)
  else do
    require (s.storageOk (s.blockData b)) .access
    await (s.migrationFree b)
    .ok (b, s.blockData b + typeBits g.ty / 8 * g.pageIndex o)

/-- A place of a block's storage may be written. -/
def State.storageReady (s : State) (v : View) (pa n : Nat) : Try Unit := do
  let p ← s.physCheck v.ident .engine .write pa n
  s.writable p.key n

/-- A paged element may be written. -/
def State.pagedReady (s : State) (v : View) (g : Glyph) (o : Int) : Try (Nat × Nat) := do
  let r ← s.pagedPlace v g o
  s.storageReady v r.2 (typeBits g.ty / 8)
  .ok r

/-! ## One element -/

/-- Read the element at a bit offset, displaced by bytes: a pattern of the glyph's type (R54, R148). -/
def State.readElem (s : State) (v : View) (g : Glyph) (off disp : Int) : Try Nat :=
  if g.paged then s.pagedRead v g (disp + off / 8)
  else do
    let bs ← s.viewRead v (g.byteAt off disp) (g.span off)
    let raw := leNat bs / 2 ^ (off % 8).toNat % 2 ^ g.storeBits
    .ok (if g.memfmt = 0 then raw else expandFp6 g.memfmt raw)

/-- The physical addresses an element is read from, where nothing stops the read. -/
def State.elemAddrs (s : State) (v : View) (g : Glyph) (off : Int) : List Nat :=
  if g.paged then
    match s.listEntry v g (off / 8), s.resolveBlock v g (off / 8) with
    | .ok a, .ok b => a :: (s.pageBytesAt b g (off / 8)).map (·.1)
    | _, _ => []
  else
    match s.range v .read (g.byteAt off 0) (g.span off) with
    | .ok ps => ps.map (·.1)
    | .error _ => []

/-- Read several elements. -/
def State.readElems (s : State) (v : View) (g : Glyph) (disp : Int) (os : List Int) : Try (List Nat) :=
  collect (os.map (fun o => s.readElem v g o disp))

/-- The element at a bit offset may be written. -/
def State.elemReady (s : State) (v : View) (g : Glyph) (off disp : Int) : Try Unit :=
  if g.paged then do
    let _ ← s.pagedReady v g (disp + off / 8)
    .ok ()
  else do
    let _ ← s.check v .write (g.byteAt off disp) (g.span off)
    .ok ()

/-- Every element may be written. -/
def State.elemsReady (s : State) (v : View) (g : Glyph) (disp : Int) (os : List Int) : Try Unit := do
  let _ ← collect (os.map (fun o => s.elemReady v g o disp))
  .ok ()

/-- Writes into a migrating block reach its scratch storage too, in whole sectors (R408); refused there, they end the migration (R447). -/
def State.mirrorBlock (s : State) (b pa n : Nat) : State :=
  match s.folio.migrating with
  | none => s
  | some m =>
    if m.block ≠ b then s
    else
      let first := pa / 32 * 32
      let dst := s.blockData m.scratch + (first - s.blockData b)
      match (do
        require (s.storageOk dst) .access
        s.physWrite s.blotterIdent .engine dst (s.plainBytes (s.keyOf first) (32 * ceilDiv (pa % 32 + n) 32)) : Try State) with
      | .ok u => u
      | .error (.trap c _) => s.refuseMigration m c dst
      | .error _ => s

/-- Write an element that may be written: a 4-bit element changes its own nibble only (R144). -/
def State.writeElem (s : State) (v : View) (g : Glyph) (off disp : Int) (x : Nat) : Try State :=
  if g.paged then do
    let r ← s.pagedReady v g (disp + off / 8)
    let n := typeBits g.ty / 8
    .ok (((s.openBlock r.1).writeBytes (s.place r.2).key (leBytes n x)).mirrorBlock r.1 r.2 n)
  else if g.storeBits = 4 then do
    let ps ← s.check v .write (g.byteAt off disp) 1
    let key := (s.place (ps.headD (0, 0)).1).key
    let old ← s.readBytes key 1
    .ok (s.writeBytes key (leBytes 1 (setBits (leNat old) (off % 8).toNat 4 x)))
  else s.viewWrite v (g.byteAt off disp) (leBytes (g.storeBits / 8) x)

/-- Write several elements in order; all of them may be written. -/
def State.writeElems (s : State) (v : View) (g : Glyph) (disp : Int) : List (Int × Nat) → Try State
  | [] => .ok s
  | (o, x) :: os => do
    let s ← s.writeElem v g o disp x
    s.writeElems v g disp os

/-! ## Runs: elements that lie one beside another are written as one range of bits, so that a chunk or a row writes whole sectors -/

/-- Elements as ranges of bits of the address space: first bit, length, value. -/
def elemBits (g : Glyph) (disp : Int) (ws : List (Int × Nat)) : List (Nat × Nat × Nat) :=
  ws.map (fun w => (8 * g.byteAt w.1 disp + (w.1 % 8).toNat, g.storeBits, w.2))

/-- Put a range in its place by its first bit. -/
def placeBits (r : Nat × Nat × Nat) : List (Nat × Nat × Nat) → List (Nat × Nat × Nat)
  | [] => [r]
  | q :: qs => if r.1 ≤ q.1 then r :: q :: qs else q :: placeBits r qs

/-- Join a range to the extents before it, which begin no later: first bit and the bit after the last; the last extent stands first. -/
def joinExtent (es : List (Nat × Nat)) (r : Nat × Nat × Nat) : List (Nat × Nat) :=
  match es with
  | [] => [(r.1, r.1 + r.2.1)]
  | e :: rest => if r.1 ≤ e.2 then (e.1, max e.2 (r.1 + r.2.1)) :: rest else (r.1, r.1 + r.2.1) :: es

/-- The runs of some ranges: their extents, each with what the ranges, in their order, leave in it. -/
def mergeBits (rs : List (Nat × Nat × Nat)) : List (Nat × Nat × Nat) :=
  ((rs.foldr placeBits []).foldl joinExtent []).reverse.map (fun e =>
    (e.1, e.2 - e.1,
      (rs.filter (fun r => decide (e.1 ≤ r.1) && decide (r.1 < e.2))).foldl (fun v r => setBits v (r.1 - e.1) r.2.1 r.2.2) 0))

/-- The bytes a run touches: the first and their number. -/
def runBytes (r : Nat × Nat × Nat) : Nat × Nat := (r.1 / 8, ceilDiv (r.1 % 8 + r.2.1) 8)

/-- The byte at an address, where a run fills only a part of it. -/
def State.edgeByte (s : State) (v : View) (whole : Bool) (va : Nat) : Try Nat :=
  if whole then .ok 0
  else do
    let ps ← s.range v .write va 1
    let bs ← s.readBytes (s.keyOf (ps.headD (0, 0)).1) 1
    .ok (leNat bs)

/-- Write a run that may be written: half a byte at either end changes its own nibble only (R144). -/
def State.writeRun (s : State) (v : View) (r : Nat × Nat × Nat) : Try State := do
  let b := runBytes r
  let lo := r.1 % 8
  let hi := (r.1 + r.2.1) % 8
  let ps ← s.check v .write b.1 b.2
  let first ← s.edgeByte v (decide (lo = 0)) b.1
  let last ← s.edgeByte v (decide (hi = 0)) (b.1 + b.2 - 1)
  .ok (s.writePieces ps (leBytes b.2 (first % 2 ^ lo + r.2.2 % 2 ^ r.2.1 * 2 ^ lo + last / 2 ^ hi * 2 ^ (lo + r.2.1))))

/-- Write several runs in order. -/
def State.writeRuns (s : State) (v : View) : List (Nat × Nat × Nat) → Try State
  | [] => .ok s
  | r :: rs => do
    let s ← s.writeRun v r
    s.writeRuns v rs

/-- Write ranges of bits as runs: every run is checked before any is written. -/
def State.writeRanges (s : State) (v : View) (rs : List (Nat × Nat × Nat)) : Try State := do
  let _ ← collect ((mergeBits rs).map (fun r => s.check v .write (runBytes r).1 (runBytes r).2))
  s.writeRuns v (mergeBits rs)

/-- A run of one block's storage, which may be written, is written there and where the block migrates to. -/
def State.writeStorage (bs : List (Nat × Nat)) (s : State) (r : Nat × Nat × Nat) : State :=
  (physPieces ((runBytes r).2 / 65536 + 2) (runBytes r).1 (runBytes r).2).foldl (fun s p =>
    let s := s.writeBytes (s.keyOf p.1) (leBytes p.2 (r.2.2 / 2 ^ (8 * p.1 - r.1)))
    match bs.find? (fun b => decide (b.2 / 65536 = p.1 / 65536)) with
    | some b => s.mirrorBlock b.1 p.1 p.2
    | none => s) s

/-- Elements of a paged glyph are written, as runs of the storage, each block once it has passed the step at its header (R403): the state,
and the runs. -/
def State.writePaged (s : State) (v : View) (g : Glyph) (disp : Int) (ws : List (Int × Nat)) : Try (State × List (Nat × Nat × Nat)) := do
  let bs ← collect (ws.map (fun w => s.pagedPlace v g (disp + w.1 / 8)))
  let rs := mergeBits ((bs.zip ws).map (fun p => (8 * p.1.2, typeBits g.ty, p.2.2)))
  let _ ← collect ((rs.flatMap (fun r => physPieces ((runBytes r).2 / 65536 + 2) (runBytes r).1 (runBytes r).2)).map
    (fun p => s.storageReady v p.1 p.2))
  let u := (bs.map (·.1)).eraseDups.foldl State.openBlock s
  .ok (rs.foldl (State.writeStorage bs) u, rs)

/-- Elements that one step writes together: every one is checked before any is written. -/
def State.writeTogether (s : State) (v : View) (g : Glyph) (disp : Int) (ws : List (Int × Nat)) : Try State :=
  if g.paged then do
    let r ← s.writePaged v g disp ws
    .ok r.1
  else s.writeRanges v (elemBits g disp ws)

/-! ## The glyph table (R36, R119) -/

/-- The view of whoever runs for accesses that stay in the package (R283). -/
def State.aEngine (s : State) : View := { s.aView with reach := .engine }

/-- The address of glyph `n` of whoever runs: virtual for a task, physical on the Rubricator. -/
def State.glyphAddr (s : State) (n : Nat) : Try Nat :=
  match s.cur with
  | .rub =>
    if s.rub.gtab.getLsbD 63 then .ok (bits s.rub.gtab.toNat 6 51 * 64 + 64 * n) else raise .glyphInvalid
  | .task id _ =>
    match s.task? id with
    | some t => .ok (t.glyphs + 64 * n)
    | none => raise .glyphInvalid

/-- The 64 bytes of a glyph of whoever runs. -/
def State.glyphWords (s : State) (n : Nat) : Try (List Word) := do
  let a ← s.glyphAddr n
  let bs ← s.viewRead s.aEngine a 64
  .ok (dwords 8 bs)

/-- A glyph read for use: its words, valid under Table 6.5. -/
def State.useGlyph (s : State) (n : Nat) : Try (List Word) := do
  let ws ← s.glyphWords n
  require (glyphOf ws).ok .glyphInvalid
  .ok ws

end Sys2Proof.Machine
end

