-- ==== Sys2Proof/Machine/Release.lean ====
section
/-! DEFINITION. What a release publishes (R312), and acquires (R311): of the firings of barriers and of semaphore steps. -/

namespace Sys2Proof.Machine

/-! ## Bound regions (R168, R312) -/

/-- The physical pieces of a region, by key: translated in the address space of the party that bound it. A page without a valid
translation at the release is left out, so that nothing of it is published: the model's choice. -/
def State.boundPieces (s : State) (b : Bound) : List (Nat × Nat) :=
  (physPieces (b.len / 65536 + 2) b.base b.len).filterMap (fun p =>
    match b.asid with
    | none => some (s.keyOf p.1, p.2)
    | some a =>
      match s.walk 0 a p.1 with
      | .ok e => some (s.keyOf (e.pa + (p.1 - e.va)), p.2)
      | .error _ => none)

/-- The writes of a set whose bytes lie in a region. -/
def State.published (s : State) (regions : SMap Bound) (ns : List Nat) : List Nat :=
  if ns.isEmpty then []
  else
    let ps := regions.flatMap (fun e => s.boundPieces e.2)
    s.order.lags.flatMap (fun g =>
      ((List.range 8).filter (fun i => ps.any (fun p => decide (p.1 ≤ 8 * g.key + i) && decide (8 * g.key + i < p.1 + p.2)))).flatMap
        (fun i => (g.later.map (fun w => 8 * w.id + i)).filter ns.contains))

/-! ## Acquires and releases -/

/-- A strand acquires writes. -/
def State.gains (s : State) (st : Strand) (x : Know) : State :=
  let n := match st with
    | .task id => ((s.task? id).map (fun t => t.sa.sec)).getD 0
    | _ => 0
  s.ordered (fun o => o.gain st n x)

/-- A strand acquires releases. -/
def State.acquires (s : State) (st : Strand) (rs : List Release) : State := rs.foldl (fun s r => s.gains st r.know) s

/-- Firings of barrier `n` of a core, up to number `f`, whose scope at the core holds the acquirer (R311). -/
def State.acquireBar (s : State) (st : Strand) (core n : Nat) (f : BitVec 32) : State :=
  s.acquires st ((s.order.firings.filter (fun e => decide (e.1 = 2048 * core + n) && reached f e.2.1 &&
    s.inDomain e.2.2.scope e.2.2.home e.2.2.parties st.party)).map (fun e => e.2.2))

/-- The releases on a semaphore so far, as far as both domains allow (R311). -/
def State.releasesFor (s : State) (n scope : Nat) (home : Home) (p : Party) : List Release :=
  (s.order.posts.filter (fun e => decide (e.1 = n) && s.inDomain e.2.scope e.2.home e.2.parties p && e.2.homeIn scope home p)).map (·.2)

/-- A strand acquires them. -/
def State.acquireSem (s : State) (st : Strand) (n scope : Nat) : State :=
  s.acquires st (s.releasesFor n scope (s.homeOf st) st.party)

/-- A release on a semaphore: it carries what happens before it and what is visible to who makes it, `k`, and publishes `pub`. -/
def State.postRelease (s : State) (n scope : Nat) (home : Home) (p : Party) (k : Know) (pub : List Nat) : State :=
  if s.order.lags.isEmpty then s
  else
    s.ordered (fun o => { o with posts := o.posts ++
      [(n, { scope := scope, home := home, parties := [p]
             know := { before := joinNats k.before pub, seen := joinNats k.seen pub, own := [] } })] })

/-- A release, by a party that knows `k`, of its writes to the regions bound to a semaphore (R171). -/
def State.releaseRegions (s : State) (n scope : Nat) (home : Home) (p : Party) (k : Know) : State :=
  s.postRelease n scope home p k (s.published (s.semRegions.get { regions := [] } n).regions k.before)

/-- A release of a strand's on a semaphore. -/
def State.releaseSem (s : State) (st : Strand) (n scope : Nat) : State :=
  s.releaseRegions n scope (s.homeOf st) st.party (s.order.know st.knower)

/-- What a semaphore step does as an acquire and as a release, in this order. -/
def State.orderSem (s : State) (st : Strand) (n : Nat) (o : SemOrder) : State :=
  let s := if o.acq then s.acquireSem st n o.scope else s
  if o.rel then s.releaseSem st n o.scope else s

/-- A release at SYSTEM scope to the host of the writes in the host window (R317), with what is visible to who makes it (R313). -/
def State.releaseHost (s : State) (st : Strand) : State :=
  let k := s.order.know st.knower
  s.ordered (fun o => o.reach (fun g w i =>
    decide (g.who = .host) && (k.seen.contains (8 * w.id + i) ||
      (k.before.contains (8 * w.id + i) && decide (2 ^ 41 ≤ 8 * g.key) && decide (8 * g.key < 2 ^ 41 + 2 ^ 40)))))

/-- The writes since `old` are a strand's own. -/
def State.owned (old s : State) (st : Strand) : State :=
  if s.order.next = old.order.next then s else s.ordered (fun o => o.own st (o.since old.order.next))

end Sys2Proof.Machine
end

