-- ==== Sys2Proof/Machine/Remote.lean ====
section
/-! DEFINITION. Paths, flits and requests to other towers (R173, R324, R414 to R418), and the tower control block as the
Rubricator's scalar accesses see it (R303). -/

namespace Sys2Proof.Machine

/-! ## Remote requests -/

/-- The identity of the stream that runs (Table 12.6). -/
def State.ownIdent (s : State) : BitVec 32 :=
  match s.cur with
  | .rub => rubIdent s.tower
  | .task id st =>
    match s.task? id with
    | some t => coreIdent s.tower t.core st.code 0
    | none => 0

/-- Whoever runs is in a trap handler. -/
def State.handling (s : State) : Bool :=
  match s.cur with
  | .rub => s.rub.inHandler
  | .task id _ => ((s.task? id).map (fun t => t.inHandler)).getD false

/-- The request of the executing word, when it has been sent: a handler's word does not take the answer of the word it interrupted. -/
def State.asked (s : State) : Option (Nat × Remote) :=
  List.find? (fun (r : Nat × Remote) => decide (r.2.asker = .word s.cur s.handling) && decide (r.2.pc = s.pc)) s.remotes

/-! ### Paths (R416) -/

/-- A port is up. -/
def State.portUp (s : State) (p : Nat) : Bool := decide (p ≤ 11) && s.fabric.up.getLsbD p

/-- The path a request to a node takes now: between the dies of the package, or the routed port, or its alternate. -/
def State.pathTo (s : State) (node : Nat) : Option Nat :=
  if !s.fabric.valid then none
  else if node / 2 = s.node / 2 then some 12
  else
    let w := (s.fabric.routes.get 0 node).toNat
    if bits w 31 1 = 0 then none
    else if s.portUp (bits w 0 4) then some (bits w 0 4)
    else if bits w 12 1 = 1 ∧ s.portUp (bits w 8 4) = true then some (bits w 8 4)
    else none

/-! ### Flits (R414, R415) -/

/-- One bit of the CRC with the ECMA-182 polynomial. -/
def crcBit (c : BitVec 64) : BitVec 64 := if c.getLsbD 63 then (c <<< 1) ^^^ 0x42F0E1EBA9EA3693#64 else c <<< 1

/-- The CRC of Table 18.3. -/
def crc64 (bs : List Byte) : BitVec 64 :=
  bs.foldl (fun (c : BitVec 64) (b : Byte) =>
    (List.range 8).foldl (fun (c : BitVec 64) _ => crcBit c) (c ^^^ (BitVec.setWidth 64 b <<< (56 : Nat)))) 0

/-- A link that has carried nothing. -/
def Link.reset : Link := { nextSeq := 0, expect := 0, held := [], failedOnce := false, refused := none, messages := 0 }

/-- The link of a port. -/
def State.link (s : State) (p : Nat) : Link := s.fabric.links.get Link.reset p

def State.setLink (s : State) (p : Nat) (l : Link) : State :=
  { s with fabric := { s.fabric with links := s.fabric.links.set Link.reset p l } }

/-- The kind of the flits that carry a message: 1 request, 2 response, 3 timing. -/
def FabMsg.kind : FabMsg → Nat
  | .response _ _ _ | .refused _ => 2
  | .timing _ _ _ _ => 3
  | _ => 1

/-- Bytes 0 to 247 of a flit with its CRC (Table 18.3): the last sequence number received in order is acknowledged. -/
def Link.flit (l : Link) (kind : Nat) (payload : List Byte) : List Byte :=
  let w := l.nextSeq.toNat * 2 ^ 48 + (l.expect - 1).toNat * 2 ^ 32 + kind * 2 ^ 24
  let bs := leBytes 8 w ++ payload
  bs ++ leBytes 8 (crc64 bs).toNat

/-- A flit sets out and is held until it is acknowledged. -/
def State.sendFlit (s : State) (p kind : Nat) (payload : List Byte) : State :=
  let l := s.link p
  let bs := l.flit kind payload
  { s.setLink p { l with nextSeq := l.nextSeq + 1, held := l.held ++ [(l.nextSeq, bs)] } with
    flitOut := s.flitOut ++ [{ port := p, bytes := bs }] }

/-- A message sets out for a node by a path, over a port in as many flits as its payload needs; without a path it does not (R416). -/
def State.sendVia (s : State) (path : Option Nat) (node : Nat) (m : FabMsg) : State :=
  match path with
  | none => s
  | some p =>
    let s := { s with fabOut := s.fabOut ++ [(node, m)] }
    if 12 ≤ p then s
    else
      let n := (s.link p).messages
      let s := s.setLink p { s.link p with messages := n + 1 }
      (List.range (1 + Config.flitsBeyond n)).foldl (fun s k =>
        s.sendFlit p m.kind ((List.range 240).map (Config.flitByte n k))) s

/-- The node number that stands for every tower. -/
def everyNode : Nat := 65536

/-- A message sets out for a node by the path there is now, or for every node. -/
def State.sendMsg (s : State) (node : Nat) (m : FabMsg) : State :=
  if node = everyNode then { s with fabOut := s.fabOut ++ [(node, m)] } else s.sendVia (s.pathTo node) node m

/-- A message sets out for several nodes. -/
def State.sendAll (s : State) (ns : List Nat) (m : FabMsg) : State := ns.foldl (fun s n => s.sendMsg n m) s

/-! ### Requests (R417, R418) -/

/-- The aligned 8-byte elements of a tower that an operation touches. -/
def RemoteOp.elements : RemoteOp → List Nat
  | .load o n _ | .store o n _ _ => [o / 8, (o + n - 1) / 8]
  | .chunk es => es.map (fun e => e.1 / 64)
  | .washed o _ _ => (List.range 64).map (o / 8 + ·)
  | .sem _ n _ _ _ => [0xF100000000 / 8 + n]
  | _ => []

/-- No unanswered request of the same stream or engine touches an aligned 8-byte element of this one (R418). -/
def State.opClear (s : State) (node : Nat) (ident : BitVec 32) (op : RemoteOp) : Bool :=
  List.all s.remotes (fun (r : Nat × Remote) =>
    decide (r.2.node ≠ node) || decide (r.2.ident ≠ ident) || r.2.answer.isSome || !op.elements.any r.2.op.elements.contains)

/-- What an arrival brings: its party, the writes that happen before it, those it publishes whatever the regions, and those visible to who
makes it (R308, R312, R313). -/
structure Bring where
  party : Party
  before : List Nat
  data : List Nat
  seen : List Nat
  deriving DecidableEq, Repr

/-- What the request of an arrival makes known at its tower (R320, R324). -/
def Bring.know (b : Bring) : Know := { before := b.before, seen := b.seen, own := b.data }

/-- Send a tagged request, which makes writes known (R417). -/
def State.sendRequest (s : State) (node : Nat) (op : RemoteOp) (k : Know) (asker : Asker) (ident : BitVec 32) (pc : Parcel) : State :=
  { s with
    remotes := s.remotes.put s.nextTag
      { node := node, op := op, know := k, asker := asker, pc := pc, ident := ident, first := s.tsc, last := s.tsc, sends := 1
        route := s.pathTo node, answer := none, path := false, learnt := Know.none }
    nextTag := (s.nextTag + 1) % 2 ^ 32 }.sendMsg node (.request s.node s.nextTag ident op k s.tsc false)

/-- A message of the collective engines sets out for several nodes, as a tagged request to each. -/
def State.sendCollective (s : State) (ns : List Nat) (c k : Nat) (op : RemoteOp) : State :=
  ns.foldl (fun s n => s.sendRequest n op Know.none (.collective c k) (serviceIdent s.tower 2) 0) s

/-- Carry out a step of the executing word at another tower: the word waits for the response and then completes with its
value, so that its traps are precise (R135, R136); a failed path is UNCORRECTABLE with the path bit (R173, R417). -/
def State.remoteStep (s : State) (node : Nat) (op : RemoteOp) (k : Know) (done : State → Know → Word → Try State) : Try State :=
  match s.asked with
  | none => do
    await (s.opClear node s.ownIdent op)
    .error (.pend (s.sendRequest node op k (.word s.cur s.handling) s.ownIdent s.pc))
  | some (tag, r) =>
    let u := { s with remotes := s.remotes.del tag }
    match r.answer with
    | none => .error .hold
    | some (.ok v) => done u r.learnt v
    | some (.error c) => if r.path then .error (.path u) else .error (.trapWith c u)

/-! ## The tower control block (Table 12.8, R301) -/

/-- The block offset of a tower offset in the control block (Table 12.2). -/
def ctlOffset (o : Nat) : Nat := o - 0xF000000000

/-- A mirror slot; one not listed is as never written. -/
def State.mirrorSlot (s : State) (n : Nat) : Mirror := s.ctl.mirrors.get Mirror.reset n

/-- The doubleword at a block offset that is a multiple of 8. -/
def State.ctlRead (s : State) (o : Nat) : Nat :=
  if o = 0 then s.ctl.asbase.toNat
  else if o = 8 then s.ctl.invva.toNat
  else if o = 0x10 then s.ctl.inval.toNat % 2 ^ 63 + (if s.ctl.invBusy then 2 ^ 63 else 0)
  else if 0x40 ≤ o ∧ o < 0x60 then
    let l := s.level ((o - 0x40) / 8)
    l.banks + l.spares * 2 ^ 16 + l.lost.length * 2 ^ 32 + (if l.busy then 2 ^ 63 else 0)
  else if o = 0x60 then s.ctl.washhost.toNat
  else if 0x100 ≤ o ∧ o < 0x200 then
    let m := s.mirrorSlot ((o - 0x100) / 32)
    let i := (o - 0x100) % 32 / 8
    if i = 0 then m.src else if i = 1 then m.dst else if i = 2 then m.len.toNat + (if m.refused then 2 ^ 63 else 0) else 0
  else if 0x10000 ≤ o ∧ o < 0x20000 then
    let e := s.acl.get AclEntry.empty (2048 * s.tower + (o - 0x10000) / 32)
    let i := o % 32 / 8
    (if i = 0 then e.w0 else if i = 1 then e.w1 else if i = 2 then e.w2 else e.w3).toNat
  else 0

/-- A store of `n` bytes to the block: the doubleword it is taken as. A narrow store to a register that holds what was
written keeps its other bytes; to one that acts, they are zero. -/
def State.ctlMerge (s : State) (o n v : Nat) : Nat :=
  let d := o / 8 * 8
  let acts := decide (d = 0x10) || (decide (0x40 ≤ d) && decide (d < 0x60)) ||
    (decide (0x100 ≤ d) && decide (d < 0x200) && decide ((d - 0x100) % 32 = 16))
  let old := if acts then 0 else s.ctlRead d
  let lo := 8 * (o % 8)
  old - bits old lo (8 * n) * 2 ^ lo + v % 2 ^ (8 * n) * 2 ^ lo

/-- A store to the block is on its way to its register. -/
def State.ctlSend (s : State) (o n v : Nat) : State :=
  { s with ctl := { s.ctl with incoming := s.ctl.incoming ++ [(o / 8 * 8, BitVec.ofNat 64 (s.ctlMerge o n v))] } }

end Sys2Proof.Machine
end

