-- ==== Sys2Proof/Machine/Access.lean ====
section
/-! DEFINITION. The memory instructions of the A stream: scalar, vector and indexed accesses, prefetch, fence, glyph and
Folio instructions (R136 to R149, R160 to R162). -/

namespace Sys2Proof.Machine

/-! ## Loads in flight -/

/-- Put a load in flight for whoever runs (R138); a load to `a0` is in flight too and writes nothing. -/
def State.launch (s : State) (dst : LoadDst) (val : Word) (vec : Vec) (bad : Option Instr) (badAt : Nat) : State :=
  match s.cur with
  | .rub =>
    let l : Load :=
      { id := s.rub.nextLoad, dst := dst, val := val, vec := vec, returned := false, bad := bad.isSome, badAt := badAt,
        tag := none, sext := 0, cause := .uncorrectable, path := false, issued := none, again := none, sec := 0, pc := s.rub.pc }
    let old := match dst with
      | .reg n => cancelLoads n s.rub.loads
      | .xq _ _ => s.rub.loads
    { s with rub := { s.rub with loads := old ++ [l], nextLoad := s.rub.nextLoad + 1 } }
  | .task id _ =>
    s.onTask id (fun t =>
      let l : Load :=
        { id := t.nextSerial, dst := dst, val := val, vec := vec, returned := false, bad := bad.isSome, badAt := badAt, tag := none, sext := 0
          cause := .uncorrectable, path := false, issued := none, again := bad.map (fun i => (i, t.regs)), sec := t.sa.sec, pc := t.sa.pc }
      let old := match dst with
        | .reg n => if n = 0 then t.loads else cancelLoads n t.loads
        | .xq _ _ => t.loads
      { t with loads := old ++ [l], nextSerial := t.nextSerial + 1 })

/-- A load to a register. -/
def State.launchReg (s : State) (d : BitVec 6) (v : Word) : State := s.launch (.reg d.toNat) v [] none 0

/-- A load that a lasting error has failed: it is delivered at its first reader, or at its section's retirement (R370). -/
def State.launchBad (s : State) (i : Instr) (d : BitVec 6) (va : Nat) : State := s.launch (.reg d.toNat) 0 [] (some i) va

/-- Change the load just put in flight. -/
def changeLast (f : Load → Load) (ls : List Load) : List Load := ls.dropLast ++ (ls.getLast?.map f).toList

/-- The load just put in flight is one that monitor units measure (R394). -/
def State.timed (s : State) : State :=
  match s.cur with
  | .rub => s
  | .task id _ => s.onTask id (fun t => { t with loads := changeLast (fun l => { l with issued := some s.tsc }) t.loads })

/-- The effective address of an AM word (R88). -/
def State.effective (s : State) (w : AM) : Nat :=
  (s.reg w.base + s.reg w.index <<< w.shift.toNat + w.off.signExtend 64).toNat

/-- A load from another tower: its request sets out, and the stream goes on (R138, R417). -/
def State.launchRemote (s : State) (w : AM) (i : Instr) (node off : Nat) (strong : Option Nat) : State :=
  let n := 2 ^ w.size.toNat
  let far (regs : SMap Word) (l : Load) : Load :=
    { l with tag := some s.nextTag, sext := if w.sx = 1 then n else 0, badAt := s.effective w, again := some (i, regs) }
  let u := s.launchReg w.d 0
  let u := match s.cur with
    | .rub => { u with rub := { u.rub with loads := changeLast (far []) u.rub.loads } }
    | .task id _ => u.onTask id (fun t => { t with loads := changeLast (far t.regs) t.loads })
  u.sendRequest node (.load off n strong) Know.none (.load s.cur) s.ownIdent s.pc

/-! ## Run-ahead hazards (R137) -/

/-- Elements of the box of a copy, as coordinates, axis 0 fastest. -/
def boxCoords (ext : List Nat) (f : Nat) : List Nat :=
  [f % ext.getD 0 1, f / ext.getD 0 1 % ext.getD 1 1, f / (ext.getD 0 1 * ext.getD 1 1) % ext.getD 2 1,
    f / (ext.getD 0 1 * ext.getD 1 1 * ext.getD 2 1) % ext.getD 3 1,
    f / (ext.getD 0 1 * ext.getD 1 1 * ext.getD 2 1 * ext.getD 3 1)]

/-- Elements of a copy. -/
def Copy.elems (c : Copy) : Nat :=
  if c.kind = .vecIn ∨ c.kind = .vecOut then 512 * c.ext.getD 0 0 else c.ext.foldl (· * ·) 1

/-- The bit offset of element `f` of a copy in a glyph: box order, or flat order for the register window (R151, R154). -/
def Copy.offset (c : Copy) (g : Glyph) (f : Nat) : Int :=
  if c.kind = .vecIn ∨ c.kind = .vecOut then g.flat f else g.offset ((boxCoords c.ext f).map (fun (x : Nat) => (x : Int)))

/-- Two ranges of bytes meet. -/
def meets (a n b m : Nat) : Bool := decide (a < b + m) && decide (b < a + n)

/-- The copy writes one of `n` bytes at a virtual address, its destination being no paged glyph. -/
def Copy.writesTo (c : Copy) (va n : Nat) : Bool :=
  let g := glyphOf c.dst
  decide (c.kind ≠ .vecIn) && !g.paged &&
    (List.range c.elems).any (fun f => meets (g.byteAt (c.offset g f) c.dOff.toInt) (g.span (c.offset g f)) va n)

/-- What an access of the copy would wait for, the load waits for; where the copy's access would be refused it lands nowhere. -/
def placed {α : Type} (none : α) : Try α → Try α
  | .error (.trap _ _) => .ok none
  | r => r

/-- The bytes of memory a copy's element lands in: keys and lengths. -/
def State.landsIn (s : State) (c : Copy) (g : Glyph) (f : Nat) : Try (List (Nat × Nat)) :=
  let v := { s.aEngine with reach := .engine }
  placed [] (do
    if g.paged then
      let o := c.dOff.toInt + c.offset g f / 8
      let b ← s.resolveBlock v g o
      .ok ((s.pageBytesAt b g o).map (fun p => (s.keyOf p.1, p.2)))
    else
      let ps ← s.range v .write (g.byteAt (c.offset g f) c.dOff.toInt) (g.span (c.offset g f))
      .ok (ps.map (fun p => (s.keyOf p.1, p.2))))

/-- The copy lands in one of some bytes of memory. -/
def State.landsOn (s : State) (c : Copy) (ks : List (Nat × Nat)) : Try Bool :=
  if c.kind = .vecIn then .ok false
  else do
    let ls ← collect ((List.range c.elems).map (s.landsIn c (glyphOf c.dst)))
    .ok (ls.flatten.any (fun k => ks.any (fun j => meets k.1 k.2 j.1 j.2)))

/-- No copy of the task that has chunks still to land has a property, or `dbg.hazard` is 0 (R137). -/
def State.hazardFree (s : State) (p : Copy → Try Bool) : Try Unit :=
  match s.cur with
  | .rub => .ok ()
  | .task id _ =>
    match s.task? id with
    | none => .ok ()
    | some t =>
      if t.csr.hazard = 0 then .ok ()
      else do
        let mine := s.copies.filter (fun c => decide (c.2.issuer = .task id) && decide (c.2.landed.length < c.2.chunks))
        let bs ← collect (mine.map (fun c => p c.2))
        require (bs.all (fun b => !b)) .hazard

/-- A load meets a byte that a copy of the same task has still to land: by its address, and in paged storage by the place of the
byte. -/
def State.hazard (s : State) (va n : Nat) : Try Unit :=
  s.hazardFree (fun c =>
    if (glyphOf c.dst).paged then do
      let ps ← s.range s.aEngine .read va n
      s.landsOn c (ps.map (fun p => (s.keyOf p.1, p.2)))
    else .ok (c.writesTo va n))

/-! ## Scalar accesses (R88, R139) -/

/-- The word of a load. -/
def loadWord (w : AM) : Option Nat → Instr
  | none => .ld w
  | some _ => .lds w

/-- A load of whoever runs, strong at a scope or ordinary (R315). -/
def State.scalarLoad (s : State) (w : AM) (strong : Option Nat) : Try State := do
  let n := 2 ^ w.size.toNat
  let ea := s.effective w
  let put (s : State) (x : Nat) : State :=
    (s.launchReg w.d (if w.sx = 1 then word (signed (8 * n) x) else BitVec.ofNat 64 x)).timed.advance
  if ea % n ≠ 0 then .error (.trap .misaligned ea)
  else
    match s.check s.aView .read ea n with
    | .error (.trap .uncorrectable _) => do
      s.hazard ea n
      .ok (s.launchBad (loadWord w strong) w.d ea).timed.advance
    | .error e => .error e
    | .ok ps => do
      s.hazard ea n
      match s.place (ps.headD (0, 0)).1 with
      | .remote node o => do
        await (s.opClear node s.ownIdent (.load o n strong))
        .ok (s.launchRemote w (loadWord w strong) node o strong).timed.advance
      | .ctl _ o => do
        await s.ctl.incoming.isEmpty
        .ok (put s (bits (s.ctlRead (ctlOffset o / 8 * 8)) (8 * (o % 8)) (8 * n)))
      | p =>
        let u := s.strongLoad strong p.key n
        match u.seenBytes s.aView.who 8 p.key n with
        | .ok bs => .ok (put u (leNat bs))
        | .error _ => .ok (s.launchBad (loadWord w strong) w.d ea).timed.advance

/-- A store of whoever runs, strong at a scope or ordinary (R315). -/
def State.scalarStore (s : State) (w : AM) (strong : Option Nat) : Try State := do
  let n := 2 ^ w.size.toNat
  let ea := s.effective w
  if ea % n ≠ 0 then .error (.trap .misaligned ea)
  else do
    let ps ← s.check s.aView .write ea n
    let v := (s.reg w.d).toNat % 2 ^ (8 * n)
    match s.place (ps.headD (0, 0)).1 with
    | .remote node o => s.remoteStep node (.store o n (BitVec.ofNat 64 v) strong) Know.none (fun s _ _ => .ok s.advance)
    | .ctl _ o => do
      await s.ctl.incoming.isEmpty
      .ok (s.ctlSend (ctlOffset o) n v).advance
    | _ => .ok (s.writePieces ps (leBytes n v)).advance

def execLd (w : AM) (s : State) : Host.Outcome State Fault Refusal :=
  s.aWord [w.base, w.index] (fun s => s.scalarLoad w none)

def execSt (w : AM) (s : State) : Host.Outcome State Fault Refusal :=
  s.aWord [w.base, w.index, w.d] (fun s => s.scalarStore w none)

/-- A request is a strong load. -/
def Remote.strongLoad (r : Remote) : Bool :=
  match r.op with
  | .load _ _ strong => strong.isSome
  | _ => false

/-- No strong load from another tower is on its way: a strong access is performed before the next one issues (R315). -/
def State.near (s : State) : Bool :=
  s.loads.all (fun l =>
    match l.tag with
    | some n => !(((SMap.find? n s.remotes).map Remote.strongLoad).getD false)
    | none => true)

/-- LDS sees the latest strong write to its bytes that it comes after (R315). -/
def execLds (w : AM) (s : State) : Host.Outcome State Fault Refusal :=
  s.aWord [w.base, w.index] (fun s => do
    await s.near
    s.performs.scalarLoad w (some w.scope.toNat))

def execSts (w : AM) (s : State) : Host.Outcome State Fault Refusal :=
  s.aWord [w.base, w.index, w.d] (fun s => do
    await s.near
    let u ← s.performs.scalarStore w (some w.scope.toNat)
    .ok (s.strongWrite u (s.standing s.strand w.scope.toNat)))

/-! ## Vector and indexed accesses (R140 to R144) -/

/-- `n` elements of `w` bits from bytes (R9). -/
def elemsOf (w n : Nat) (bs : List Byte) : List Nat :=
  if w = 4 then (List.range n).map (fun i => (bs.getD (i / 2) 0).toNat / 16 ^ (i % 2) % 16)
  else (List.range n).map (fun i => leNat ((bs.drop (w / 8 * i)).take (w / 8)))

/-- An A push to `xq q` has room, waits, or can never have it (R141). -/
def Task.xqRoom (t : Task) (q : Nat) : Try Unit := do
  require t.sx.present .queueProtocol
  if 8 ≤ (t.xq.get [] q).length then do
    require (decide (t.sx.phase ≠ .ended)) .queueProtocol
    .error .hold
  else .ok ()

/-- Take a place in `xq q` and put the load that fills it in flight (R141). -/
def State.pushXq (s : State) (id : Nat) (t : Task) (q width : Nat) (vals : List Nat) (i : Instr) (bad : Bool) (va : Nat) : State :=
  let n := t.nextSerial
  let e : XqEntry := { width := width, ready := false, serial := n, vals := [] }
  let s := s.setTask id { t with xq := t.xq.set [] q (t.xq.get [] q ++ [e]), nextSerial := n + 1 }
  let s := s.launch (.xq q n) 0 (vals.map (BitVec.ofNat 64)) (if bad then some i else none) va
  (s.onTask id (fun t => { t with loads := changeLast (fun l => { l with again := some (i, t.regs) }) t.loads })).timed

/-- What a load delivers, or that a lasting error has met it; every other stop is the word's own. -/
def lasting {α : Type} : Try α → Try (Option α)
  | .ok x => .ok (some x)
  | .error (.trap .uncorrectable _) => .ok none
  | .error e => .error e

def execLdx (w : AC) (s : State) : Host.Outcome State Fault Refusal :=
  s.taskWord [w.a] (fun s id t => do
    t.notInHandler
    let width := 4 * 2 ^ w.fn.toNat
    let va := (s.reg w.a).toNat
    let q := bits w.opt.toNat 0 3
    if va % max 1 (width / 8) ≠ 0 then .error (.trap .misaligned va)
    else do
      let bs ← lasting (s.viewRead (s.aEngine.grained width) va (64 * width))
      s.hazard va (64 * width)
      t.xqRoom q
      .ok (s.pushXq id t q width (elemsOf width 512 (bs.getD [])) (.ldx w) bs.isNone va).advance)

/-- An `aq` can receive no further entry (R142). -/
def Task.aqOver (t : Task) (q : Nat) : Bool :=
  !t.sx.present ||
    (decide (t.sx.phase = .ended) &&
      !t.effects.any (fun e => match e.push? with | some p => decide (p.1 = q) | none => false))

/-- A pops the head of `aq q` at cycle `p` (R29, R254). -/
def Task.popAq (t : Task) (q p : Nat) : Task :=
  let n := t.aqPops.get (0, 0) q
  { t with
    aq := t.aq.set [] q ((t.aq.get [] q).drop 1)
    aqPops := t.aqPops.set (0, 0) q (p, (if n.1 = p then n.2 else 0) + 1) }

def execStx (w : AC) (s : State) : Host.Outcome State Fault Refusal :=
  s.taskWord [w.a] (fun s id t => do
    let n := 2 ^ w.fn.toNat
    let va := (s.reg w.a).toNat
    let q := bits w.opt.toNat 0 2
    if va % n ≠ 0 then .error (.trap .misaligned va)
    else do
      let ps ← s.check s.aEngine .write va n
      match t.aq.get [] q with
      | [] => if t.aqOver q then raise .queueProtocol else .error .hold
      | v :: _ =>
        let s := s.setTask id (t.popAq q (s.cyc t.core))
        .ok (s.writePieces ps (leBytes n (v.toNat % 2 ^ (8 * n)))).advance)

/-- The 512 indexes of GATH and SCAT. -/
def State.indices (s : State) (va : Nat) : Try (List Nat) :=
  if va % 4 ≠ 0 then .error (.trap .misaligned va)
  else do
    let bs ← s.viewRead (s.aEngine.grained 32) va 2048
    .ok (elemsOf 32 512 bs)

/-- Elements of a glyph at flat indexes; the pad at or beyond the element count. -/
def State.gather (s : State) (v : View) (g : Glyph) (fs : List Nat) : Try (List Nat) :=
  collect (fs.map (fun f => if g.count ≤ f then .ok g.padValue else s.readElem v g (g.flat f) 0))

/-- The bytes a gathered element is read from meet no copy's destination (R137). -/
def State.gatherHazard (s : State) (g : Glyph) (f : Nat) : Try Unit :=
  if g.count ≤ f then .ok ()
  else if g.paged then do
    let b ← s.resolveBlock s.aEngine g (g.flat f / 8)
    s.hazardFree (fun c => s.landsOn c ((s.pageBytesAt b g (g.flat f / 8)).map (fun p => (s.keyOf p.1, p.2))))
  else s.hazard (g.byteAt (g.flat f) 0) (g.span (g.flat f))

/-- What GATH reads: the element width and the elements, none where a lasting error has met one. -/
def State.gathRead (s : State) (w : AC) : Try (Nat × Option (List Nat)) := do
  let va := (s.reg w.a).toNat
  if va % 4 ≠ 0 then .error (.trap .misaligned va)
  together [checked (s.indices va), checked (s.glyphWords w.gs.toNat)]
  let ix ← s.indices va
  let g := glyphOf (← s.useGlyph w.gs.toNat)
  require (decide (g.mx = 0)) .glyphInvalid
  let xs ← lasting (s.gather s.aEngine g ix)
  s.hazard va 2048
  let _ ← collect (ix.map (s.gatherHazard g))
  .ok (typeBits g.ty, xs)

/-- The width a failed gather's entry has: its glyph's. -/
def State.gathWidth (s : State) (w : AC) : Nat :=
  match s.glyphWords w.gs.toNat with
  | .ok ws => typeBits (glyphOf ws).ty
  | .error _ => 4

def execGath (w : AC) (s : State) : Host.Outcome State Fault Refusal :=
  s.taskWord [w.a] (fun s id t => do
    let q := bits w.opt.toNat 0 3
    let r ← lasting (s.gathRead w)
    t.xqRoom q
    match r with
    | some (width, some xs) => .ok (s.pushXq id t q width xs (.gath w) false (s.reg w.a).toNat).advance
    | _ => .ok (s.pushXq id t q (s.gathWidth w) [] (.gath w) true (s.reg w.a).toNat).advance)

/-- The stores of SCAT: bit offsets and values of the lanes whose index lies in the glyph, in lane order. -/
def scatters (g : Glyph) (ix xs : List Nat) : List (Int × Nat) :=
  (ix.zip xs).filterMap (fun p => if p.1 < g.count then some (g.flat p.1, p.2) else none)

/-- The glyph of SCAT and the alignment of its elements; before the glyph is known nothing is. -/
def State.scatGlyph (s : State) (w : AC) : Try Glyph := do
  let ws ← s.glyphWords w.gd.toNat
  let g := glyphOf ws
  let vb := (s.reg w.b).toNat
  if vb % max 1 (typeBits g.ty / 8) ≠ 0 then .error (.trap .misaligned vb) else .ok g

/-- The stores of SCAT, all of which may be made: the checks of its bytes come in the order of R136, over its operands together. -/
def State.scatStores (s : State) (w : AC) : Try (Glyph × List (Int × Nat)) := do
  let va := (s.reg w.a).toNat
  if va % 4 ≠ 0 then .error (.trap .misaligned va)
  match s.scatGlyph w with
  | .error (.trap .misaligned va) => .error (.trap .misaligned va)
  | .error e => do
    together [.error e, checked (s.indices va)]
    .error e
  | .ok g => do
    let n := typeBits g.ty
    let bs := s.viewRead (s.aEngine.grained n) (s.reg w.b).toNat (64 * n)
    match s.indices va with
    | .error e => do
      together [.error e, checked bs]
      .error e
    | .ok ix => do
      require (g.ok && decide (g.mx = 0) && decide (g.memfmt = 0)) .glyphInvalid
      let os := (scatters g ix (List.replicate 512 0)).map (·.1)
      together [checked bs, s.elemsReady s.aEngine g 0 os]
      let bs ← bs
      .ok (g, scatters g ix (elemsOf n 512 bs))

def execScat (w : AC) (s : State) : Host.Outcome State Fault Refusal :=
  s.taskWord [w.a, w.b] (fun s _ _ => do
    let r ← s.scatStores w
    let s ← s.writeElems s.aEngine r.1 0 r.2
    .ok s.advance)

/-! ## Prefetch and fence (R145, R146) -/

/-- PREF starts a translation, and never waits for it or traps; on the Rubricator it does nothing (R119). -/
def execPref (w : AM) (s : State) : Host.Outcome State Fault Refusal :=
  s.aWord [w.base, w.index] (fun s =>
    let ea := s.effective w
    match s.aView.asid with
    | none => .ok s.advance
    | some a =>
      if 2 ^ 52 ≤ ea ∨ (s.tlbFind s.aView.unit a ea).isSome then .ok s.advance
      else if s.walks.any (fun w => w.isFor a ea) then .ok s.advance
      else .ok (s.newWalk s.aView.unit a ea true).advance)

/-- Every load has returned, every copy of the issuer has landed every chunk, and every store of the Rubricator to the control block
has been taken; other stores and bindings are done at once. -/
def State.settled (s : State) : Bool :=
  let mine : Issuer := match s.cur with
    | .rub => .rub
    | .task id _ => .task id
  s.loads.all (·.returned) && (decide (s.cur ≠ .rub) || s.ctl.incoming.isEmpty) && !s.copies.any (fun c => decide (c.2.issuer = mine) && decide (c.2.landed.length < c.2.chunks))

/-- The stores before a FENCE, and what the copies before it have written, come before what is done after it (R309). -/
def State.fenced (s : State) : State :=
  match s.cur with
  | .rub => s.ordered Order.fenceRub
  | .task id _ => s.ordered (fun o => o.fence id (((s.task? id).map (fun t => t.sa.sec)).getD 0))

def execFence (_ : AR) (s : State) : Host.Outcome State Fault Refusal :=
  s.aWord [] (fun s => do
    await s.settled
    .ok s.fenced.advance)

/-! ## Glyph instructions (R149) -/

/-- Table 6.7: doubleword, lowest bit and width of a field. -/
def glyphField (fn : Nat) : Nat × Nat × Nat :=
  if fn = 0x00 then (0, 0, 52) else if fn = 0x01 then (0, 52, 4) else if fn = 0x02 then (0, 56, 2)
  else if fn = 0x03 then (0, 58, 2) else if fn = 0x04 then (0, 60, 3) else if fn = 0x05 then (0, 63, 1)
  else if fn = 0x06 then (6, 56, 1) else if fn = 0x07 then (1, 0, 32) else if fn = 0x08 then (1, 32, 32)
  else if fn = 0x09 then (2, 0, 32) else if fn = 0x0A then (2, 32, 32) else if fn = 0x0B then (3, 0, 32)
  else if fn = 0x0C then (3, 32, 32) else if fn = 0x0D then (4, 0, 32) else if fn = 0x0E then (4, 32, 32)
  else if fn = 0x0F then (5, 0, 32) else if fn = 0x10 then (5, 32, 32) else if fn = 0x11 then (6, 0, 52)
  else if fn = 0x12 then (6, 52, 4) else (7, 0, 52)

/-- Strides and the pad are read sign-extended. -/
def glyphFieldSigned (fn : Nat) : Bool := decide (0x0C ≤ fn) && decide (fn ≤ 0x10)

def execGdef (w : AC) (s : State) : Host.Outcome State Fault Refusal :=
  s.taskWord [w.a] (fun s _ t => do
    let va := (s.reg w.a).toNat
    if va % 64 ≠ 0 then .error (.trap .misaligned va)
    else do
      let dst := t.glyphs + 64 * w.gd.toNat
      together [checked (s.viewRead s.aEngine va 64), checked (s.check s.aEngine .write dst 64)]
      let bs ← s.viewRead s.aEngine va 64
      let s ← s.viewWrite s.aEngine dst bs
      .ok s.advance)

def execGset (w : AC) (s : State) : Host.Outcome State Fault Refusal :=
  s.taskWord [w.a] (fun s _ t => do
    let f := glyphField w.fn.toNat
    let va := t.glyphs + 64 * w.gd.toNat + 8 * f.1
    together [checked (s.viewRead s.aEngine va 8), checked (s.check s.aEngine .write va 8)]
    let bs ← s.viewRead s.aEngine va 8
    let s ← s.viewWrite s.aEngine va (leBytes 8 (setBits (leNat bs) f.2.1 f.2.2 (s.reg w.a).toNat))
    .ok s.advance)

def execGget (w : AC) (s : State) : Host.Outcome State Fault Refusal :=
  s.taskWord [] (fun s _ t => do
    let f := glyphField w.fn.toNat
    let va := t.glyphs + 64 * w.gs.toNat + 8 * f.1
    match ← lasting (s.viewRead s.aEngine va 8) with
    | none => .ok (s.launchBad (.gget w) w.d va).advance
    | some bs =>
      let x := bits (leNat bs) f.2.1 f.2.2
      .ok (s.launchReg w.d (if glyphFieldSigned w.fn.toNat then word (signed f.2.2 x) else BitVec.ofNat 64 x)).advance)

/-! ## Folio instructions (R160 to R162) -/

/-- A block number of a Folio instruction: below 2^20, the Folio valid, the block not free. -/
def State.blockOf (s : State) (a : BitVec 6) : Try Nat := do
  let b := (s.reg a).toNat
  require (decide (b < 2 ^ 20)) .access
  require s.folio.base.isSome .access
  s.headerCheck .write b
  require (!s.blockFree b) .access
  .ok b

/-- What the storage of a new block holds is undefined until it is written (R161). -/
def State.freshen (s : State) (b : Nat) : State :=
  if s.storageOk (s.blockData b) then
    s.writeBytes (s.place (s.blockData b)).key ((List.range 65536).map (Config.freshBlockByte s.folio.allocs))
  else s

/-- FALLOC: the checks of R161 in order, then the head of the free list of the location; the data bytes are free values. -/
def execFalloc (w : AC) (s : State) : Host.Outcome State Fault Refusal :=
  s.taskWord [w.a] (fun s _ _ => do
    let v := (s.reg w.a).toNat
    let format := bits v 0 4
    let loc := bits v 4 3
    require (decide (loc ≤ 4) && decide (format ≤ 4) && decide (format ≠ 2) && decide (bits v 7 1 = 0) &&
      decide (bits v 16 48 = 0)) .reservedField
    require s.folio.base.isSome .access
    match s.freeHead loc with
    | some h => s.headerCheck .write h
    | none => .ok ()
    match s.allocBlock loc format (bits v 8 8) with
    | none => raise .folioExhausted
    | some (b, s) =>
      let s := s.freshen b
      let s := { s with folio := { s.folio with allocs := s.folio.allocs + 1 } }
      .ok (s.setReg w.d (BitVec.ofNat 64 b)).advance)

def execFaddref (w : AC) (s : State) : Host.Outcome State Fault Refusal :=
  s.taskWord [w.a] (fun s _ _ => do
    let b ← s.blockOf w.a
    require (decide (s.blockRefs b ≠ 2 ^ 24 - 1)) .access
    .ok (s.setHeaderBits b 0 0 24 (s.blockRefs b + 1)).advance)

def execFdrop (w : AC) (s : State) : Host.Outcome State Fault Refusal :=
  s.taskWord [w.a] (fun s _ _ => do
    let b ← s.blockOf w.a
    .ok (s.dropRef b).advance)

/-- PSEAL: an open block becomes sealed with age 0; other states are left (R162, R403). -/
def execPseal (w : AC) (s : State) : Host.Outcome State Fault Refusal :=
  s.taskWord [w.a] (fun s _ _ => do
    let b ← s.blockOf w.a
    .ok (if s.blockState b = 0 then s.setBlockState b 1 else s).advance)

end Sys2Proof.Machine
end

