-- ==== Sys2Proof/Machine/Sync.lean ====
section
/-! DEFINITION. Barriers and semaphores: their state, arrivals and firings (R37 to R40), the tests that each change of one
makes of parked tasks and queue heads (R171, R180), and the instructions on them (R163 to R173). -/

namespace Sys2Proof.Machine

/-! ## State -/

def handleNode (h : Word) : Nat := bits h.toNat 32 16
def handleCore (h : Word) : Nat := bits h.toNat 16 8
def handleBar (h : Word) : Nat := bits h.toNat 0 11

/-- A barrier of a core; an unlisted one is as at tower reset. -/
def State.bar (s : State) (core n : Nat) : Barrier := s.bars.get Barrier.reset (2048 * core + n)

def State.setBar (s : State) (core n : Nat) (b : Barrier) : State :=
  { s with bars := s.bars.set Barrier.reset (2048 * core + n) b }

/-- A semaphore of this tower. -/
def State.sem (s : State) (n : Nat) : Word := s.sems.get 0 n

/-- A mailbox. -/
def State.mailbox (s : State) (n : Nat) : Mailbox := s.host.boxes.get Mailbox.reset n

/-! ## Tests at a change -/

/-- The condition of PARK holds for a task (R180). -/
def State.parkHolds (s : State) (t : Task) : ParkCond → Bool
  | .bar n f => reached (s.bar t.core n).firing f
  | .sem n v => v.ule (s.sem n)
  | .mbx n => (s.mailbox n).device
  | .ink level => decide (level.toInt ≤ s.ink.bal)

/-- The test of one task. -/
def State.testTask (s : State) (t : Task) : Task :=
  match t.run with
  | .parked c => if s.parkHolds t c then { t with unpark := true } else t
  | _ => t

/-- A used wait has been reached (R336). -/
def State.waitReached (s : State) (e : Word × BitVec 32) : Bool :=
  reached (s.bar (handleCore e.1) (handleBar e.1)).firing e.2

/-- Of the `k` firings that follow number `old`, one meets a condition on its number that changes from false to true at the numbers
`fs` alone (R38, R336). -/
def passes (old : BitVec 32) (k : Nat) (fs : List (BitVec 32)) (p : BitVec 32 → Bool) : Bool :=
  ((old + 1) :: fs).any (fun c => decide ((c - (old + 1)).toNat < k) && p c)

/-- The test that each of `k` firings of a barrier after number `old` makes of one task: its PARK condition, or its waits (R180, R336,
R338). -/
def State.testFired (s : State) (core n : Nat) (old : BitVec 32) (k : Nat) (t : Task) : Task :=
  match t.run with
  | .parked (.bar m f) =>
    if t.core = core ∧ m = n ∧ passes old k [f] (fun c => reached c f) = true then { t with unpark := true } else t
  | .waiting =>
    let at_ (c : BitVec 32) (e : Word × BitVec 32) : Bool :=
      if handleCore e.1 = core ∧ handleBar e.1 = n then reached c e.2 else s.waitReached e
    if passes old k (t.waits.map (·.2)) (fun c => t.waits.all (at_ c)) then { t with unpark := true } else t
  | _ => t

/-- The firings of a barrier test the tasks that are parked on it or wait for it. -/
def State.testFirings (s : State) (core n : Nat) (old : BitVec 32) (k : Nat) : State :=
  { s with tasks := s.tasks.map (fun (e : Nat × Task) => (e.1, s.testFired core n old k e.2)) }

/-- Every parked task's condition is tested (R180, R338): a change of one object alters no other test. -/
def State.testParks (s : State) : State := { s with tasks := s.tasks.map (fun (e : Nat × Task) => (e.1, s.testTask e.2)) }

/-- A wait of a queue entry holds: valid bit 0, or semaphore ≥ value (R188). -/
def State.queueWait (s : State) (e : QEntry) (i : Nat) : Bool :=
  let w := dw e.image 0
  decide (bits w (63 - i) 1 = 0) || decide (dw e.image (1 + i) ≤ (s.sem (bits w (12 * i) 12)).toNat)

/-- The waits of a queue's head hold. -/
def State.headHolds (s : State) (e : QEntry) : Bool := e.ready || (s.queueWait e 0 && s.queueWait e 1)

/-- A queue whose head's waits have come to hold acquires their semaphores at TOWER scope (R311). -/
def State.acquireHead (s : State) (q : Nat × List QEntry) : State :=
  match q.2 with
  | e :: _ =>
    if !e.ready && s.headHolds e then
      [0, 1].foldl (fun s i =>
        if bits (dw e.image 0) (63 - i) 1 = 1 then s.acquireSem (.queue q.1) (bits (dw e.image 0) (12 * i) 12) 3 else s) s
    else s
  | [] => s

/-- Mark the heads whose waits hold (R171, R188). -/
def State.testQueues (s : State) : State :=
  { s.queues.foldl State.acquireHead s with queues := s.queues.map (fun (q : Nat × List QEntry) =>
      (q.1, match q.2 with
        | e :: es => { e with ready := s.headHolds e } :: es
        | [] => [])) }

/-- A word at which the A stream waits completes, and the stream goes on past it. -/
def Task.passWait (t : Task) : Task :=
  { t with wait := none, sa := if t.inHandler then { t.sa with pc := t.sa.pc + 3 } else t.sa.advance }

/-- A word at which the Rubricator waits completes. -/
def Rub.passWait (r : Rub) : Rub := { r with wait := none, pc := r.pc + 3 }

/-- A waiting SWT whose threshold semaphore `n` meets with the value `v`: the register that takes the value, and the scope at which it
acquires, if it does. -/
def WaitMark.met (n : Nat) (v : Word) (w : WaitMark) : Option (BitVec 6 × Option Nat) :=
  match w.on with
  | .sem m t d a => if m = n ∧ t.ule v = true then some (d, a) else none
  | _ => none

/-- A strand that waits at an SWT acquires at the step that meets its threshold (R311). -/
def State.acquireMet (s : State) (st : Strand) (n : Nat) : Option Nat → State
  | some scope => s.acquireSem st n scope
  | none => s

/-- A task's waiting SWT completes with the value of the step that first meets its threshold (R172). -/
def State.meetTask (n : Nat) (v : Word) (s : State) (e : Nat × Task) : State :=
  match e.2.wait.bind (WaitMark.met n v) with
  | some (d, a) => (s.acquireMet (.task e.1) n a).onTask e.1 (fun t => (t.setReg d v).passWait)
  | none => s

/-- So does the Rubricator's. -/
def State.meetRub (s : State) (n : Nat) (v : Word) : State :=
  match s.rub.wait.bind (WaitMark.met n v) with
  | some (d, a) =>
    let u := s.acquireMet .rub n a
    { u with rub := (u.rub.setReg d v).passWait }
  | none => s

/-- A BWT that waits for a firing which the `k` firings of a barrier after number `old` reach. -/
def WaitMark.fired (core n : Nat) (old : BitVec 32) (k : Nat) (w : WaitMark) : Option (BitVec 32) :=
  match w.on with
  | .bar c m f => if c = core ∧ m = n ∧ passes old k [f] (fun x => reached x f) = true then some f else none
  | _ => none

/-- A task's waiting BWT completes at the firing it waits for (R167). -/
def State.fireTask (core n : Nat) (old : BitVec 32) (k : Nat) (s : State) (e : Nat × Task) : State :=
  match e.2.wait.bind (WaitMark.fired core n old k) with
  | some f => (s.acquireBar (.task e.1) core n f).onTask e.1 (fun t => { t.passWait with reuse := [] })
  | none => s

/-- So does the Rubricator's. -/
def State.fireRub (s : State) (core n : Nat) (old : BitVec 32) (k : Nat) : State :=
  match s.rub.wait.bind (WaitMark.fired core n old k) with
  | some f =>
    let u := s.acquireBar .rub core n f
    { u with rub := u.rub.passWait }
  | none => s

/-- What the firings of a barrier end: waits at BWT, and tests that now hold. -/
def State.fired (s : State) (core n : Nat) (old : BitVec 32) (k : Nat) : State :=
  ((s.tasks.foldl (State.fireTask core n old k) s).fireRub core n old k).testFirings core n old k

/-! ## Doorbells (R421) -/

/-- A collective channel. -/
def State.channel (s : State) (c : Nat) : Channel := s.channels.get { ended := 0, completed := 0, inst := none } c

def State.setChannel (s : State) (c : Nat) (v : Channel) : State :=
  { s with channels := s.channels.set { ended := 0, completed := 0, inst := none } c v }

/-- The words of a channel's entry; none where nothing of what the resident program writes is set (Table 18.6). -/
def State.channelEntry (s : State) (c : Nat) : Option (List Word) :=
  match s.serviceBytes (0x10B000 + 64 * c) 64 with
  | some bs => if (bs.take 32 ++ bs.drop 40).all (fun b => decide (b = 0)) then none else some (dwords 8 bs)
  | none => none

/-- Put a node id in its place in a rising list. -/
def insertNat (x : Nat) : List Nat → List Nat
  | [] => [x]
  | y :: ys => if x < y then x :: y :: ys else if x = y then y :: ys else y :: insertNat x ys

/-- The participants of an instance that starts now: the members of the group in force, or the tower alone. -/
def State.participants (s : State) : List Nat :=
  if s.base.group.isSome then insertNat s.node (s.base.members.map (·.1)) else [s.node]

/-- What this tower's start message says. -/
def State.startMessage (s : State) (c k : Nat) (words : List Word) (parts : List Nat) : Start :=
  { channel := c, k := k, node := s.node, entry := words.getD 0 0, root := bits (dw words 3) 48 16, parts := parts }

/-- Instance `k` starts: the entry is read, and the start messages go to the other participants. -/
def State.startInstance (s : State) (c : Nat) (words : List Word) : State :=
  let ch := s.channel c
  let parts := s.participants
  let m := s.startMessage c ch.ended words parts
  let i : Instance :=
    { k := ch.ended, words := words, parts := parts, data := false, stopped := false, cause := .access, abandoned := false }
  let s' := (s.setChannel c { ch with inst := some i }).acquireSem .collective (bits (dw words 3) 0 12) 3
  { s' with
    starts := s'.starts.filter (fun (x : Start) => !(decide (x.channel = c) && decide (x.k = ch.ended) && decide (x.node = s.node))) ++ [m] : State }.sendCollective
    (parts.filter (fun n => decide (n ≠ s.node))) c ch.ended (.start m)

/-- A channel whose doorbell is semaphore `n` is tested at a value of it: its next instance starts when the value has reached it. -/
def State.testDoorbell (s : State) (n : Nat) (v : Word) (c : Nat) : State :=
  match s.channelEntry c with
  | none => s
  | some ws =>
    let ch := s.channel c
    if ch.inst.isNone && decide (bits (dw ws 3) 0 12 = n) && decide (ch.ended + 1 ≤ v.toNat) then s.startInstance c ws
    else s

/-- Every channel whose doorbell is semaphore `n` is tested at a value of it; the reading of the entries may have to wait (R290). -/
def State.ringDoorbells (s : State) (n : Nat) (v : Word) : State :=
  if s.serviceBase.isNone then s
  else if !s.serviceFree then { s with ctl := { s.ctl with heldBells := s.ctl.heldBells ++ [(n, v)] } }
  else (List.range 64).foldl (fun s c => s.testDoorbell n v c) s

/-- The doorbells that a re-ruling held are tested. -/
def State.releaseBells (s : State) : State :=
  s.ctl.heldBells.foldl (fun s b => s.ringDoorbells b.1 b.2) { s with ctl := { s.ctl with heldBells := [] } }

/-- A semaphore takes a value: its waiters and doorbells are tested. -/
def State.setSem (s : State) (n : Nat) (v : Word) : State :=
  let s := { s with sems := s.sems.set 0 n v }
  ((s.tasks.foldl (State.meetTask n v) s).meetRub n v).testParks.testQueues.ringDoorbells n v

/-! ## Arrivals (R38, R169) -/

/-- The fields of a handle (R39). -/
def handleOk (h : Word) : Bool :=
  decide (bits h.toNat 48 16 = 0) && decide (bits h.toNat 25 7 = 0) && decide (bits h.toNat 11 5 = 0) &&
    decide (bits h.toNat 16 8 < 192) && decide (bits h.toNat 24 1 = bits h.toNat 32 1)

/-- The handle of a barrier of this tower. -/
def State.handleOf (s : State) (core n : Nat) : Word :=
  BitVec.ofNat 64 (s.node * 2 ^ 32 + s.node % 2 * 2 ^ 24 + core * 2 ^ 16 + n)

/-- A forwarded arrival sets out, with the writes that its firing published (R169, R320). -/
def State.forward (s : State) (handle : Word) (bytes : Nat) (ns : List Nat) : State :=
  { s with
    arrivals := s.arrivals.put s.nextArrival
      { handle := handle, bytes := bytes, forwarded := true, wake := false, stopped := false, task := none }
    nextArrival := s.nextArrival + 1 }.ordered (fun o => o.learn (.arrival s.nextArrival) { before := [], seen := [], own := ns })

/-- `k` firings forward. A firing that a forwarded arrival caused does not. -/
def State.forwards (s : State) (handle : Word) (bytes : Nat) (ns : List Nat) : Nat → State
  | 0 => s
  | k + 1 => (s.forward handle bytes ns).forwards handle bytes ns k

/-- What an arrival of a strand's own brings. -/
def State.bring (s : State) (st : Strand) : Bring :=
  let k := s.order.know st.knower
  { party := st.party, before := k.before, data := [], seen := k.seen }

/-- The arrivals at a barrier in its present phase: none. -/
def PhaseLog.empty : PhaseLog := { arrivers := [], before := [], data := [], seen := [] }

/-- The arrivals at a barrier in its present phase. -/
def Order.phase (o : Order) (key : Nat) : PhaseLog := o.phases.get PhaseLog.empty key

def Order.setPhase (o : Order) (key : Nat) (p : PhaseLog) : Order := { o with phases := o.phases.set PhaseLog.empty key p }

/-- The party is a task (Table 13.1: TASK scope of a firing holds every task that made an arrival). -/
def Party.isTask : Party → Bool
  | .task _ => true
  | _ => false

/-- An arrival joins the present phase. -/
def PhaseLog.join (p : PhaseLog) (b : Bring) : PhaseLog :=
  { arrivers := if !b.party.isTask || p.arrivers.contains b.party then p.arrivers else p.arrivers ++ [b.party]
    before := joinNats p.before (joinNats b.before b.data), data := joinNats p.data b.data, seen := joinNats p.seen b.seen }

/-- The writes that a firing of a barrier publishes now (R312). -/
def State.firingPublishes (s : State) (core n : Nat) : List Nat :=
  let p := s.order.phase (2048 * core + n)
  joinNats (s.published (s.bar core n).regions p.before) p.data

/-- The release that a firing of a barrier is now; with what it publishes goes what is visible to those who have arrived (R313). -/
def State.firingRelease (s : State) (core n : Nat) : Release :=
  let p := s.order.phase (2048 * core + n)
  { scope := (s.bar core n).scope, home := .core core, parties := p.arrivers
    know := { before := p.before, seen := joinNats p.seen (s.firingPublishes core n), own := [] } }

/-- A barrier has fired, the first of its firings with number `f`: the release is kept, and a new phase begins. -/
def Order.fire (o : Order) (key : Nat) (f : BitVec 32) (r : Release) : Order :=
  { o.setPhase key { o.phase key with arrivers := [] } with
    firings := if o.lags.isEmpty then o.firings else o.firings ++ [(key, f, r)] }

/-- An arrival of `b` bytes at a barrier whose target is not 0 (R38). -/
def State.arrive (s : State) (core n b : Nat) (forwarded : Bool) (by_ : Bring) : State :=
  let x := s.bar core n
  let sum := x.count + b
  let k := sum / x.target
  let s := s.ordered (fun o => o.setPhase (2048 * core + n) ((o.phase (2048 * core + n)).join by_))
  let r := s.firingRelease core n
  let ns := s.firingPublishes core n
  let s := s.setBar core n { x with count := sum % x.target, firing := x.firing + BitVec.ofNat 32 k }
  if k = 0 then s
  else
    let s := s.ordered (fun o => o.fire (2048 * core + n) (x.firing + 1) r)
    let s := s.fired core n x.firing k
    if x.forward = 0 ∨ forwarded = true then s else s.forwards x.forward x.target ns k

/-! ## Counted waits -/

/-- The executing word waits; of a task, the watchdog counts (R181). -/
def State.waitOn (s : State) (on : WaitOn) : State :=
  match s.cur with
  | .rub => if s.rub.wait.isSome then s else { s with rub := { s.rub with wait := some { pc := s.rub.pc, stream := .a, since := s.tsc, on := on } } }
  | .task id st =>
    s.onTask id (fun t =>
      if t.wait.isSome then t
      else { t with wait := some { pc := (t.stream st).pc, stream := st, since := s.cyc t.core, on := on } })

/-- The wait is over. -/
def State.endWait (s : State) : State :=
  match s.cur with
  | .rub => { s with rub := { s.rub with wait := none } }
  | .task id _ => s.onTask id (fun t => { t with wait := none })

/-- Empty the reuse cache of the running task (R24, R167). -/
def State.emptyReuse (s : State) : State :=
  match s.cur with
  | .rub => s
  | .task id _ => s.onTask id (fun t => { t with reuse := [] })

/-! ## The barrier operand (R163) -/

/-- Where a barrier operand leads. -/
inductive BarRef where
  | here (core n : Nat)
  | there (node : Nat) (handle : Word)
  deriving DecidableEq, Repr

/-- The barrier a handle names. -/
def State.byHandle (s : State) (h : Word) : Try BarRef :=
  if !handleOk h then raise .barrierMisuse
  else if handleNode h = s.node then .ok (.here (handleCore h) (handleBar h))
  else .ok (.there (handleNode h) h)

/-- The barrier a word names: of its own core, or by handle. The Rubricator has none of its own. -/
def State.barRef (s : State) (w : AC) : Try BarRef :=
  if w.hnd = 1 then s.byHandle (s.reg w.b)
  else
    match s.cur with
    | .rub => raise .barrierMisuse
    | .task id _ =>
      match s.task? id with
      | some t => .ok (.here t.core w.bar.toNat)
      | none => raise .barrierMisuse

/-- The barrier a word names, on this tower. -/
def State.barHere (s : State) (w : AC) : Try (Nat × Nat) := do
  match ← s.barRef w with
  | .here c n => .ok (c, n)
  | .there _ _ => raise .barrierMisuse

/-- The register of a handle, where the word reads one. -/
def handleReg (w : AC) : List (BitVec 6) := if w.hnd = 1 then [w.b] else []

/-! ## Barrier instructions (R165 to R169) -/

/-- A BWT waits on a barrier. -/
def WaitMark.atBar (w : WaitMark) (core n : Nat) : Bool :=
  match w.on with
  | .bar c m _ => decide (c = core) && decide (m = n)
  | _ => false

/-- A BWT waiting on a barrier that is disabled traps at that moment (R165). -/
def State.trapWaiters (s : State) (core n : Nat) : State :=
  let s := s.tasks.foldl (fun s e =>
    match e.2.wait with
    | some w => if w.atBar core n then s.trapTask e.1 .a .barrierMisuse w.pc 0 0 else s
    | none => s) s
  match s.rub.wait with
  | some w => if w.atBar core n then s.trapRub .barrierMisuse w.pc else s
  | none => s

def execBxp (w : AC) (s : State) : Host.Outcome State Fault Refusal :=
  s.aWord (w.a :: handleReg w) (fun s => do
    let r ← s.barHere w
    let t := (s.reg w.a).toNat
    require (decide (t < 2 ^ 40)) .barrierMisuse
    let s := (s.setBar r.1 r.2 { s.bar r.1 r.2 with count := 0, target := t, scope := w.scope.toNat }).advance
    .ok (if t = 0 then s.trapWaiters r.1 r.2 else s))

/-- An arrival, with `.WAKE` also a wake write (R166). -/
def execBarv (w : AC) (s : State) : Host.Outcome State Fault Refusal :=
  s.aWord (w.a :: handleReg w) (fun s => do
    let b := (s.reg w.a).toNat
    match ← s.barRef w with
    | .here c n =>
      require (decide (b < 2 ^ 40)) .barrierMisuse
      require (decide ((s.bar c n).target ≠ 0)) .barrierMisuse
      let s := s.arrive c n b false (s.bring s.strand)
      .ok (if w.opt.getLsbD 0 then s.testParks else s).advance
    | .there node h =>
      require (decide (b < 2 ^ 40)) .barrierMisuse
      s.remoteStep node (.arrive h b (w.opt.getLsbD 0) false false) (s.bring s.strand).know (fun s _ _ => .ok s.advance))

/-- BWT: waits until the firing is reached, then empties the reuse cache (R167). -/
def execBwt (w : AC) (s : State) : Host.Outcome State Fault Refusal :=
  s.aWord (w.a :: handleReg w) (fun s => do
    let r ← s.barHere w
    let b := s.bar r.1 r.2
    require (decide (b.target ≠ 0)) .barrierMisuse
    if reached b.firing ((s.reg w.a).setWidth 32) then
      .ok (s.acquireBar s.strand r.1 r.2 ((s.reg w.a).setWidth 32)).endWait.emptyReuse.advance
    else .error (.pend (s.waitOn (.bar r.1 r.2 ((s.reg w.a).setWidth 32)))))

def execBtst (w : AC) (s : State) : Host.Outcome State Fault Refusal :=
  s.aWord (w.a :: handleReg w) (fun s => do
    let r ← s.barHere w
    let b := s.bar r.1 r.2
    require (decide (b.target ≠ 0)) .barrierMisuse
    let n := (s.reg w.a).setWidth 32
    let hit := reached b.firing n
    let s := s.setReg w.d (if hit then 1 else 0)
    .ok (if hit && decide (w.acq = 1) then (s.acquireBar s.strand r.1 r.2 n).emptyReuse else s).advance)

/-- The address space of whoever runs; none for the Rubricator's physical addresses. -/
def State.ownSpace (s : State) : Option Nat :=
  match s.cur with
  | .rub => none
  | .task id _ => (s.task? id).map (fun t => t.asid)

/-- What BBND and BUBD act on: a barrier of this tower or, with `.SEM`, a semaphore. -/
def State.boundObject (s : State) (w : AC) : Try (Option (Nat × Nat) × Nat) := do
  if w.opt.getLsbD 2 then do
    let n := (s.reg w.b).toNat
    require (decide (n < 4096)) .barrierMisuse
    .ok (none, n)
  else do
    let r ← s.barHere w
    .ok (some r, 0)

/-- Change the bound regions of an object. -/
def State.onRegions (s : State) (o : Option (Nat × Nat) × Nat) (f : SMap Bound → SMap Bound) : State :=
  match o.1 with
  | some r => s.setBar r.1 r.2 { s.bar r.1 r.2 with regions := f (s.bar r.1 r.2).regions }
  | none =>
    let old := s.semRegions.get { regions := [] } o.2
    { s with semRegions := s.semRegions.set { regions := [] } o.2 { old with regions := f old.regions } }

/-- The registers BBND and BUBD read for their object. -/
def objectReg (w : AC) : List (BitVec 6) := if w.opt.getLsbD 2 then [w.b] else handleReg w

def execBbnd (w : AC) (s : State) : Host.Outcome State Fault Refusal :=
  s.aWord (w.a :: w.ext :: objectReg w) (fun s => do
    let o ← s.boundObject w
    let base := (s.reg w.a).toNat
    let len := (s.reg w.ext).toNat
    require (decide (base < 2 ^ 52) && decide (len < 2 ^ 40) && decide (base + len ≤ 2 ^ 52)) .barrierMisuse
    let slot := bits w.opt.toNat 0 2
    .ok (s.onRegions o (fun m => if len = 0 then m.del slot else m.put slot { asid := s.ownSpace, base := base, len := len })).advance)

def execBubd (w : AC) (s : State) : Host.Outcome State Fault Refusal :=
  s.aWord (objectReg w) (fun s => do
    let slot := bits w.opt.toNat 0 2
    require (!w.opt.getLsbD 3 || decide (slot = 0)) .reservedField
    let o ← s.boundObject w
    .ok (s.onRegions o (fun m => if w.opt.getLsbD 3 then [] else m.del slot)).advance)

def execBfwd (w : AC) (s : State) : Host.Outcome State Fault Refusal :=
  s.aWord (w.a :: handleReg w) (fun s => do
    let r ← s.barHere w
    let h := s.reg w.a
    require (decide (h = 0) || handleOk h) .barrierMisuse
    .ok (s.setBar r.1 r.2 { s.bar r.1 r.2 with forward := h }).advance)

/-! ## Semaphore instructions (R170 to R173) -/

/-- The target node of a semaphore step: none for this tower (R170). -/
def State.semNode (s : State) (b : Word) : Try (Option Nat) := do
  require (decide (b.toNat < 2 ^ 17)) .access
  let n := b.toNat % 2 ^ 16
  .ok (if b = 0 ∨ n = s.node then none else some n)

/-- The access table gives S on a semaphore of this tower. -/
def State.semAllowed (s : State) (n : Nat) (ident : BitVec 32) : Try Unit :=
  require (s.admits s.tower 5 (0xF100000000 + 8 * n) ident .sem) .access

/-- The operations of R171, as codes: 0 add, 1 compare and swap, 2 maximum, 3 exchange, 4 read. -/
def semValue (op : Nat) (old cmp x : Word) : Word :=
  if op = 0 then old + x
  else if op = 1 then (if old = cmp then x else old)
  else if op = 2 then (if old.ult x then x else old)
  else if op = 3 then x
  else old

/-- How a semaphore word is ordered. -/
def semOrder (w : AQ) : SemOrder := { acq := decide (w.acq = 1), rel := decide (w.rel = 1), scope := w.scope.toNat }

/-- A word's step at another tower has acquired: what the answer makes known is known to the strand (R311, R324). -/
def State.acquirePeer (s : State) (o : SemOrder) (k : Know) : State := if o.acq then s.gains s.strand { k with own := [] } else s

/-- A semaphore step on this tower or another. -/
def State.semStep (s : State) (w : AQ) (op : Nat) : Try State := do
  let n := w.sem.toNat
  match ← s.semNode (s.reg w.b) with
  | none =>
    s.semAllowed n s.ownIdent
    let old := s.sem n
    let u := s.orderSem s.strand n (semOrder w)
    let s' := if op = 4 then u else u.setSem n (semValue op old (s.reg w.d) (s.reg w.a))
    .ok (s'.setReg w.d old).advance
  | some node =>
    s.remoteStep node (.sem op n (s.reg w.d) (s.reg w.a) (semOrder w)) (if w.rel = 1 then s.order.know s.strand.knower else Know.none)
      (fun s k v => .ok ((s.acquirePeer (semOrder w) k).setReg w.d v).advance)

def execSadd (w : AQ) (s : State) : Host.Outcome State Fault Refusal := s.aWord [w.a, w.b] (fun s => s.semStep w 0)

def execScas (w : AQ) (s : State) : Host.Outcome State Fault Refusal := s.aWord [w.d, w.a, w.b] (fun s => s.semStep w 1)

def execSmax (w : AQ) (s : State) : Host.Outcome State Fault Refusal := s.aWord [w.a, w.b] (fun s => s.semStep w 2)

def execSxch (w : AQ) (s : State) : Host.Outcome State Fault Refusal := s.aWord [w.a, w.b] (fun s => s.semStep w 3)

def execSrd (w : AQ) (s : State) : Host.Outcome State Fault Refusal := s.aWord [w.b] (fun s => s.semStep w 4)

/-- SWT: a threshold already met completes it; else it waits, and completes at the step that meets the threshold (R172). -/
def execSwt (w : AQ) (s : State) : Host.Outcome State Fault Refusal :=
  s.aWord [w.a] (fun s => do
    let n := w.sem.toNat
    s.semAllowed n s.ownIdent
    let acq := if w.acq = 1 then some w.scope.toNat else none
    if (s.reg w.a).ule (s.sem n) then .ok ((s.acquireMet s.strand n acq).endWait.setReg w.d (s.sem n)).advance
    else .error (.pend (s.waitOn (.sem n (s.reg w.a) w.d acq))))

end Sys2Proof.Machine
end

