-- ==== Sys2Proof/Machine/Arming.lean ====
section
/-! DEFINITION. Launch entries, groups, the logical core map, and an arming from its checks to the tasks it creates (R183,
R184, R327 to R333), with the start values of a task (R14, R44). -/

namespace Sys2Proof.Machine

/-! ## The service area (Table 14.1) -/

/-- The 32 doublewords of a launch-entry image. -/
def State.launchImage (s : State) (n : Nat) : Option (List Word) := (s.serviceBytes (0x8000 + 256 * n) 256).map (dwords 32)

/-- Bits of a number that are 1, below `n`, in rising order. -/
def onesBelow (n v : Nat) : List Nat := (List.range n).filter (fun i => decide (bits v i 1 = 1))

/-- The members of a valid group (R331). The service die reads the entry in one step, and of each aligned doubleword that another writer
races the value that it sees then, old or new (R326, R333): a mixture comes of where it lags. That one step reads all is the model's
choice. -/
def State.groupMembers (s : State) (g : Nat) : Option (List Nat) :=
  match s.serviceBytes (0x108000 + 32 * g) 32 with
  | none => none
  | some bs =>
    let v := leNat bs
    if bits v 255 1 = 1 ∧ bits v 192 63 = 0 then some (onesBelow 192 v) else none

/-- A logical core is present in the map (R331). -/
def State.corePresent (s : State) (c : Nat) : Bool :=
  match s.serviceBytes 0x10A000 32 with
  | none => false
  | some bs => decide (c < 192) && decide (bits (leNat bs) c 1 = 1)

/-- No member of the group has it as a fifth or later group (R332). -/
def State.groupAdmissible (s : State) (g : Nat) (members : List Nat) : Bool :=
  members.all (fun c =>
    !s.corePresent c ||
      decide (((List.range g).filter (fun h =>
        match s.groupMembers h with
        | some ms => ms.contains c
        | none => false)).length < 4))

/-! ## Fields of an image (Table 14.2, Table 7.6) -/

/-- A wait that is not used. -/
def unusedWait : Nat := 0x8000000000000000

/-- An entry point that is none. -/
def noEntry : Nat := 0xFFFFFFFFFFFFFFFF

/-- The used waits: handle and firing. -/
def imageWaits (img : List Word) : List (Word × BitVec 32) :=
  (List.range 4).filterMap (fun i =>
    let h := dw img (9 + i)
    if h = unusedWait then none
    else some (BitVec.ofNat 64 h, BitVec.ofNat 32 (bits (dw img (7 + i / 2)) (32 * (i % 2)) 32)))

/-- The cores an image targets, in rank order, when the target is legal (R328). -/
def State.imageCores (s : State) (img : List Word) : Option (List Nat) :=
  let n := bits (dw img 3) 32 8
  if bits (dw img 3) 40 1 = 0 then (if s.corePresent n then some [n] else none)
  else
    match s.groupMembers n with
    | none => none
    | some ms => if ms ≠ [] ∧ ms.all s.corePresent = true ∧ s.groupAdmissible n ms = true then some ms else none

/-- The zero fields of an image, and words 21 to 31. -/
def imageZeros (img : List Word) : Bool :=
  let w := dw img 3
  decide (bits w 41 21 = 0) && decide (bits w 28 4 = 0) && decide (bits w 15 1 = 0) && decide (bits w 10 2 = 0) &&
  decide (bits w 5 3 = 0) && decide (bits (dw img 5) 44 20 = 0) && decide (bits (dw img 5) 26 6 = 0) &&
  (List.range 11).all (fun i => decide (dw img (21 + i) = 0))

/-- A legal entry point (Table 7.6). -/
def entryOk (v : Nat) : Bool := decide (v < 2 ^ 50) || decide (v = noEntry)

/-- Every field holds a value of Table 7.6, and some entry point is given. -/
def imageValues (img : List Word) : Bool :=
  (List.range 3).all (fun i => entryOk (dw img i)) && (List.range 3).any (fun i => decide (dw img i ≠ noEntry)) &&
  decide (1 ≤ bits (dw img 3) 0 5) && decide (bits (dw img 3) 0 5 ≤ 24) &&
  decide (dw img 4 < 2 ^ 52) && decide (dw img 4 % 64 = 0) &&
  (decide (bits (dw img 3) 40 1 = 1) || decide (bits (dw img 3) 32 8 < 192)) &&
  (imageWaits img).all (fun e => handleOk e.1)

/-- The checks of R328, in its order; the target's cores where all pass. -/
def State.armChecks (s : State) (img : List Word) (byTask : Bool) : Option (List Nat) :=
  if bits (dw img 3) 63 1 = 1 ∧ (byTask = false ∨ bits (dw img 3) 62 1 = 1) ∧ imageZeros img = true ∧
      imageValues img = true ∧ (imageWaits img).all (fun e => decide (handleNode e.1 = s.node)) = true then
    s.imageCores img
  else none

/-! ## Tasks (R14, R44, R329) -/

/-- A stream at task start: its entry point is decoded as a header; without one it starts retired. -/
def StreamSt.start (entry : Nat) : StreamSt :=
  { present := decide (entry ≠ noEntry), phase := if entry = noEntry then .ended else .header, pc := BitVec.ofNat 50 entry,
    hdr := 0, len := 0, hword := 0, begun := false, sec := 0, retired := 0, retiredPrev := 0, retiredAt := 0, left := [],
    stopped := false, waitCount := 0 }

/-- Task CSRs at task start. The spec gives the read-only ones, the trap CSRs, no start value (R44, Table 1.9); 0 is the model's choice. -/
def TaskCsr.start : TaskCsr :=
  { fpFlags := 0, fpTrap := 0, deadmode := 0, hazard := 0, strPad := 0, rotBase := 0, rotSize := 0, rotOff := 0, trapVec := 0,
    trapCause := 0, trapPc := 0, trapStream := 0, wdLimit := 0 }

/-- The A registers at task start: INIT1 to INIT8 and the rank (R14). -/
def startRegs (img : List Word) (rank : Nat) : SMap Word :=
  (List.range 9).foldl (fun m i =>
    m.set 0 (i + 1) (if i = 8 then BitVec.ofNat 64 rank else img.getD (13 + i) 0)) []

/-- A task as an arming creates it. -/
def Task.start (img : List Word) (entry arming core rank : Nat) : Task :=
  let w := dw img 3
  { core := core, slot := none, arming := arming, entry := entry, rank := rank, prio := bits w 8 2, cls := bits w 12 3,
    asid := bits w 16 12, win := bits w 0 5, glyphs := dw img 4, run := .waiting, unpark := false, saved := false, frame := none,
    waits := imageWaits img, passedSince := none, sa := StreamSt.start (dw img 0), sx := StreamSt.start (dw img 1),
    sm := StreamSt.start (dw img 2), regs := startRegs img rank, slices := [], preds := [], scales := [], lc := [],
    loops := [], rotPending := false, coords := [], csr := TaskCsr.start, binds := [], xq := [], aq := [], aqPops := [],
    bq := [], reuse := [], deadAt := (0, []), flawed := [], effects := [], loads := [], handler := none, heldFp := none, heldLand := false, heldDraw := none,
    nested := none, cmds := [], mrep := none, lease := 0, leaseWait := none, leaseSaved := none, cmdStop := false, region := none,
    sampling := none, pre := none, wait := none, meetsBad := none, xNext := 0, xStall := none, nextSerial := 0 }

/-- A new task sees what stands for every new task, and the writes that happen before its arming (R316); `k` is known to who arms. -/
def Order.start (o : Order) (id : Nat) (k : Know) : Order :=
  let x : Know := { before := k.before, seen := joinNats k.before k.seen, own := [] }
  (((((o.clone .start (.stream id)).clone .start (.engines id)).clone .start (.array id)).gain (.task id) 0 x).learn (.out id .m)
    x).show [.array id] x.seen

/-- The waits of a task have been reached: it acquires each of them, with its core as its location (R316, R336). -/
def State.acquireWaits (s : State) (id : Nat) (t : Task) : State :=
  t.waits.foldl (fun s e => s.acquireBar (.task id) (handleCore e.1) (handleBar e.1) e.2) s

/-- Create the tasks of an arming, in rank order (R329); each is runnable at once when its waits have been reached. `k` is known to who
arms. -/
def State.createTasks (s : State) (img : List Word) (entry arming : Nat) (k : Know) : List Nat → Nat → State
  | [], _ => s
  | c :: cs, rank =>
    let t := Task.start img entry arming c rank
    let ready := t.waits.all s.waitReached
    let id := s.nextTask
    let s := { s with tasks := s.tasks.put id (if ready then { t with run := .runnable } else t), nextTask := id + 1 }.ordered
      (fun o => o.start id k)
    let s := if ready then s.acquireWaits id t else s
    s.createTasks img entry arming k cs (rank + 1)

/-- The tower holds as many armings as it can (R183). -/
def State.armingsFull (s : State) : Bool := decide (4096 ≤ s.armings.length)

/-- An arming attempt of a strand (R328, R329): counted in any case; its tasks are created when every check passes.
Where the service die's own read of the image is refused or fails, the check fails with ACCESS; a group it cannot read counts as invalid, a
map it cannot read as naming no core: the model's choice, the spec giving none. -/
def State.arm (s : State) (entry : Nat) (byTask : Bool) (st : Strand) : Bool × State :=
  let k := s.nextArming + 1
  let s := { s with nextArming := k }
  match s.launchImage entry with
  | none => (false, s)
  | some img =>
    match s.armChecks img byTask with
    | none => (false, s)
    | some cores =>
      let live := (List.range cores.length).map (fun i => s.nextTask + i)
      let a : Arming :=
        { entry := entry, csem := bits (dw img 5) 32 12, cinc := img.getD 6 0, live := live, faulted := false }
      (true, { s with armings := s.armings.put k a }.createTasks img entry k (s.order.know st.knower) cores 0)

/-! ## LGO and LPATCH (R183, R184) -/

/-- The task that runs issues the word, not the Rubricator. -/
def State.byTask (s : State) : Bool :=
  match s.cur with
  | .rub => false
  | .task _ _ => true

def execLgo (w : AS) (s : State) : Host.Outcome State Fault Refusal :=
  s.aWord [] (fun s => do
    await (!s.armingsFull && s.serviceFree)
    let r := s.arm w.obj.toNat s.byTask s.strand
    if r.1 then .ok r.2.advance else .error (.trapWith .access r.2))

/-- Where LPATCH code `fn` writes (Table 4.4): doubleword, lowest bit and width. -/
def patchField (fn : Nat) : Nat × Nat × Nat :=
  if fn ≤ 2 then (fn, 0, 64)
  else if fn = 3 then (3, 0, 5)
  else if fn = 4 then (3, 8, 2)
  else if fn = 5 then (3, 12, 3)
  else if fn = 6 then (4, 0, 64)
  else if fn = 7 then (3, 32, 9)
  else if fn ≤ 0x0B then (9 + (fn - 8), 0, 64)
  else if fn ≤ 0x0F then (7 + (fn - 0x0C) / 2, 32 * ((fn - 0x0C) % 2), 32)
  else if fn ≤ 0x17 then (13 + (fn - 0x10), 0, 64)
  else if fn = 0x18 then (5, 32, 12)
  else (6, 0, 64)

/-- The legal values of Table 7.6. -/
def patchOk (fn v : Nat) : Bool :=
  if fn ≤ 2 then entryOk v
  else if fn = 3 then decide (1 ≤ v) && decide (v ≤ 24)
  else if fn = 4 then decide (v ≤ 3)
  else if fn = 5 then decide (v ≤ 7)
  else if fn = 6 then decide (v < 2 ^ 52) && decide (v % 64 = 0)
  else if fn = 7 then decide (v < 512) && (decide (256 ≤ v) || decide (v < 192))
  else if fn ≤ 0x0B then handleOk (BitVec.ofNat 64 v) || decide (v = unusedWait)
  else if fn ≤ 0x0F then decide (v < 2 ^ 32)
  else if fn = 0x18 then decide (v < 4096)
  else true

/-- LPATCH is carried out by the service die; an entry that cannot be read or written refuses it. -/
def execLpatch (w : AS) (s : State) : Host.Outcome State Fault Refusal :=
  s.aWord [w.a] (fun s => do
    let fn := w.fn.toNat
    let v := (s.reg w.a).toNat
    match s.serviceBase with
    | none => raise .access
    | some b =>
      let at_ := b + 0x8000 + 256 * w.obj.toNat
      let m ← s.physRead (rubIdent s.tower) .engine (at_ + 40) 8
      require (!s.byTask || decide (bits (leNat m) fn 1 = 1)) .access
      require (patchOk fn v) .reservedField
      let f := patchField fn
      let old ← s.physRead (rubIdent s.tower) .engine (at_ + 8 * f.1) 8
      let s ← s.physWrite (rubIdent s.tower) .engine (at_ + 8 * f.1) (leBytes 8 (setBits (leNat old) f.2.1 f.2.2 v))
      .ok s.advance)

end Sys2Proof.Machine
end

