-- ==== Sys2Proof/Machine/Operands.lean ====
section
/-! DEFINITION. Operands of the X stream: how an operand field names slices, a queue, a stream register or a constant (R47),
what a read finds (R16 to R29), how a result lands (R21, R23, R48), the reuse cache (R24), and the frame every X word that
writes the register file runs in (R193, R196). -/

namespace Sys2Proof.Machine

/-! ## Lanes -/

/-- One value per lane: extended for an integer type, a bit pattern for a floating type. -/
abbrev Lanes := List Int

/-- The lanes of a mask, lane 0 first. -/
def maskBits (p : Pred) : List Bool := (List.range 512).map (fun l => p.getLsbD l)

/-- A mask from its lanes. -/
def bitsMask (bs : List Bool) : Pred := BitVec.ofNat 512 (bs.foldr (fun b acc => acc * 2 + (if b then 1 else 0)) 0)

/-- The nibbles of a mask: 15 where the lane is set. -/
def maskSlice (p : Pred) : Slice :=
  if p = BitVec.allOnes 512 then BitVec.allOnes 2048
  else BitVec.ofNat 2048 ((maskBits p).foldr (fun b acc => acc * 16 + (if b then 15 else 0)) 0)

/-- Nibble `j` of every lane pattern, as a slice. -/
def packSlice (vs : List Nat) (j : Nat) : Slice :=
  BitVec.ofNat 2048 (vs.foldr (fun v acc => acc * 16 + v / 16 ^ j % 16) 0)

/-- Lane patterns from slices, least significant slice first (R17). -/
def unpackSlices (ss : List Slice) : List Nat :=
  (List.range 512).map (fun l => ss.foldr (fun s acc => acc * 16 + s.toNat / 2 ^ (4 * l) % 16) 0)

/-- Active(p, l) for every lane (R25): bit 3 of the predicate field negates. -/
def Task.activeMask (t : Task) (k : BitVec 4) : Pred :=
  let p := t.pred (k.toNat % 8)
  if k.getLsbD 3 then ~~~p else p

/-! ## Slices -/

/-- The value a slice holds: a dead slice holds zero (R23). -/
def Task.slice (t : Task) (s : Nat) : Slice := (SMap.find? s t.slices).getD 0

/-- The slice is alive. -/
def Task.alive (t : Task) (s : Nat) : Bool := (SMap.find? s t.slices).isSome

/-- A LOOPR level is open. -/
def Task.rotating (t : Task) : Bool := t.loops.any (·.rotating)

/-- The effective slice under LOOPR (R34). -/
def Task.rename (t : Task) (s : Nat) : Nat :=
  let base := t.csr.rotBase.toNat
  let size := t.csr.rotSize.toNat
  if t.rotating && decide (size ≠ 0) && decide (base ≤ s) && decide (s < base + size) then
    base + (s - base + t.csr.rotOff.toNat) % size
  else s

/-- The slices an operand of start `s` and width `w` names. -/
def Task.named (t : Task) (s w : Nat) : List Nat := (List.range w).map (fun j => t.rename (s + j))

/-- Distinct elements. -/
def distinct : List Nat → List Nat
  | [] => []
  | x :: xs => if xs.contains x then distinct xs else x :: distinct xs

/-- The slices touch more 32-bit groups than their width needs (R18). -/
def crosses (ss : List Nat) : Bool :=
  decide ((if ss.length = 16 then 2 else 1) < (distinct (ss.map (· / 8))).length)

/-- Slices start, start + 1, … -/
def contiguous (ss : List Nat) : Bool :=
  match ss with
  | [] => true
  | s :: _ => decide (ss = (List.range ss.length).map (s + ·))

/-! ## Stream registers and queues -/

/-- The element type a binding delivers (Table 6.10). -/
def Binding.type (b : Binding) : Nat := bits (dw b.desc 6) 40 4

/-- The iterations of loop `j` of a stream descriptor. -/
def loopCount (desc : List Word) (j : Nat) : Nat := max 1 (bits (dw desc (2 + j)) 0 32)

/-- Vectors in all (R157). -/
def Binding.total (b : Binding) : Nat :=
  loopCount b.desc 0 * loopCount b.desc 1 * loopCount b.desc 2 * loopCount b.desc 3

/-- A queue or stream register as an operand (Table 3.7): which, its number, and whether it is only looked at. -/
structure Head where
  xq : Bool
  n : Nat
  peek : Bool
  deriving DecidableEq, Repr

/-- The head an operand's start code names, from 6,144 on (R47). -/
def headOf (code : Nat) : Head :=
  if code < 6160 then { xq := false, n := code - 6144, peek := false }
  else if code < 6176 then { xq := false, n := code - 6160, peek := true }
  else if code < 6184 then { xq := true, n := code - 6176, peek := false }
  else { xq := true, n := code - 6184, peek := true }

/-- The A stream can make no further push: it has ended, or was never there (R132). -/
def Task.aOver (t : Task) : Bool := !t.sa.present || decide (t.sa.phase = .ended)

/-- The vector that stands `i` places behind a head: present, on its way, or never to come. -/
inductive HeadState where
  | here (v : SVec) (width : Nat)
  | coming
  | never (c : Cause)
  deriving DecidableEq, Repr

/-- What stands `i` places behind a head (R26, R27, R132, R159, R363). What can never come is QUEUE_PROTOCOL for a peek as for a
pop: the spec says it of the pop only, and the model chooses it for the peek. -/
def Task.headAt (t : Task) (h : Head) (i : Nat) : HeadState :=
  if h.xq then
    match (t.xq.get [] h.n)[i]? with
    | some e => if e.ready then .here { vals := e.vals, flags := 0, padded := false } e.width else .coming
    | none => if t.aOver then .never .queueProtocol else .coming
  else
    match SMap.find? h.n t.binds with
    | none => .never .queueProtocol
    | some b =>
      if b.total ≤ b.pos + i then .never .queueProtocol
      else
        match b.poison with
        | some (k, c) =>
          if k ≤ b.pos + i then .never c
          else match b.buf[i]? with
            | some v => .here v (typeBits b.type)
            | none => .coming
        | none =>
          match b.buf[i]? with
          | some v => .here v (typeBits b.type)
          | none => .coming

/-- The operand fields that name a head, in operand order, each with the pops before it. -/
def headUses : List (BitVec 17) → List Head → List (Head × Nat)
  | [], _ => []
  | f :: fs, popped =>
    let code := f.toNat / 16
    if 6144 ≤ code ∧ code < 6192 then
      let h := headOf code
      let i := (popped.filter (fun g => g.xq = h.xq && g.n = h.n)).length
      (h, i) :: headUses fs (if h.peek then popped else h :: popped)
    else headUses fs popped

/-- Some head is still on its way: the X stream waits (R28). -/
def Task.headsWait (t : Task) (fs : List (BitVec 17)) : Bool :=
  (headUses fs []).any (fun u => decide (t.headAt u.1 u.2 = .coming))

/-- Remove the head vector. -/
def Task.popHead (t : Task) (h : Head) : Task :=
  if h.peek then t
  else if h.xq then { t with xq := t.xq.set [] h.n ((t.xq.get [] h.n).drop 1) }
  else { t with binds := t.binds.adjust h.n (fun b => { b with pos := b.pos + 1, buf := b.buf.drop 1 }) }

/-- The vector's operator flags, and the pad flag, reach their CSRs when it is used (R159). -/
def Task.useHead (t : Task) (h : Head) (v : SVec) : Task :=
  let t := if v.flags = 0 then t else t.setFlags v.flags
  if v.padded then { t with csr := { t.csr with strPad := t.csr.strPad ||| (1#16 <<< h.n) } } else t

/-! ## Sources (R47) -/

/-- A source operand of a word: its field, the type it is read as, its sgn, reuse and dead bits, and how many vectors of
one width it names (R216). -/
structure Src where
  f : BitVec 17
  ty : Nat
  sg : Bool
  reuse : Bool
  dead : Bool
  group : Nat
  deriving DecidableEq, Repr

/-- A destination operand. -/
structure Dst where
  f : BitVec 17
  ty : Nat
  group : Nat
  deriving DecidableEq, Repr

/-- The width in slices a field's width code gives. -/
def widthOf (f : BitVec 17) : Nat := if f.toNat % 16 = 8 then 16 else f.toNat % 16 + 1

/-- A resolved operand. -/
inductive Opd where
  | const (c : Int)
  | head (h : Head) (i : Nat)
  | slices (vs : List (List Nat))
  deriving DecidableEq, Repr

/-- The pattern of a small constant in a type; none when the type cannot represent it (ConstVector, Table 1.10). -/
def constPattern (t : Nat) (c : Int) : Option Int :=
  if typeFloat t then
    let r := roundFloat (fmtOf t) 0 false (Exact.ofInt c)
    if r.2 = 0 then some r.1 else none
  else if intMin (typeBits t) (typeSigned t) ≤ c ∧ c ≤ intMax (typeBits t) (typeSigned t) then some c else none

/-- The operand's width fits its type: exactly for a floating type, at most for an integer type (R19, R20). -/
def widthFits (t w : Nat) : Bool := if typeFloat t then decide (4 * w = typeBits t) else decide (4 * w ≤ typeBits t)

/-- No slice that the operand reads from the register file has a lasting parity error (R369); a reuse hit reads none (R24). -/
def Task.parityOk (t : Task) (reuse : Bool) (vs : List (List Nat)) : Try Unit :=
  let read := vs.filter (fun v => !(reuse && contiguous v && t.reuse.any (fun e => decide (e.start = v.headD 0) && decide (e.width = v.length))))
  match t.flawed.find? (fun k => read.any (fun v => v.contains (k / 64))) with
  | some k => .error (.parity (k / 64))
  | none => .ok ()

/-- Resolve a source operand, with every check of R47 in its order; `i` counts the pops before it, `never` leaves out the
checks on heads and dead slices (R25). -/
def Task.resolve (t : Task) (never : Bool) (o : Src) (i : Nat) : Try Opd := do
  let code := o.f.toNat / 16
  require (decide (o.f.toNat % 16 < 9)) .reservedField
  let w := widthOf o.f
  if 8064 ≤ code then
    require (decide (o.group = 1)) .badOperand
    match constPattern o.ty ((code : Int) - 8128) with
    | some c => .ok (.const c)
    | none => raise .badOperand
  else if 6192 ≤ code then raise .badOperand
  else if 6144 ≤ code then
    require (decide (o.group = 1)) .badOperand
    let h := headOf code
    if never then do
      require (widthFits o.ty w) .reservedField
      .ok (.head h i)
    else
      match t.headAt h i with
      | .never c => raise c
      | .coming => .error .hold
      | .here _ width => do
        require (decide (width = 4 * w)) .queueProtocol
        require (widthFits o.ty w) .reservedField
        .ok (.head h i)
  else
    let vs := (List.range o.group).map (fun j => t.named (code + j * w) w)
    require (vs.all (fun v => v.all (fun s => decide (s < t.winSize)))) .sliceRange
    require (never || t.csr.deadmode = 0 || vs.all (fun v => v.all t.alive)) .deadRead
    require (widthFits o.ty w) .reservedField
    if never then .ok () else t.parityOk o.reuse vs
    .ok (.slices vs)

/-- Resolve several sources in order. -/
def Task.resolveAll (t : Task) (never : Bool) : List Src → List Head → Try (List Opd)
  | [], _ => .ok []
  | o :: os, popped => do
    let code := o.f.toNat / 16
    let isHead := decide (6144 ≤ code) && decide (code < 6192)
    let h := headOf code
    let i := (popped.filter (fun g => g.xq = h.xq && g.n = h.n)).length
    let r ← t.resolve never o i
    let rs ← t.resolveAll never os (if isHead && !h.peek then h :: popped else popped)
    .ok (r :: rs)

/-- The vectors a destination names, with every check of R48. -/
def Task.resolveDst (t : Task) (d : Dst) : Try (List (List Nat)) := do
  let code := d.f.toNat / 16
  require (decide (d.f.toNat % 16 < 9)) .reservedField
  let w := widthOf d.f
  require (decide (code < 6144)) .badOperand
  let vs := (List.range d.group).map (fun j => t.named (code + j * w) w)
  require (vs.all (fun v => v.all (fun s => decide (s < t.winSize)))) .sliceRange
  require (!typeFloat d.ty || decide (4 * w = typeBits d.ty)) .reservedField
  .ok vs

/-- Resolve several destinations in order. -/
def Task.resolveDsts (t : Task) : List Dst → Try (List (List (List Nat)))
  | [] => .ok []
  | d :: ds => do
    let v ← t.resolveDst d
    let vs ← t.resolveDsts ds
    .ok (v :: vs)

/-- The slices of a resolved operand, for crossings and dead marks. -/
def Opd.vectors : Opd → List (List Nat)
  | .slices vs => vs
  | _ => []

/-- A pattern of `w` slices as a value of a type: extended by the sgn bit for an integer type (R47). -/
def extend (ty w : Nat) (sg : Bool) (p : Nat) : Int :=
  if typeFloat ty then (p : Int) else if sg then signed (4 * w) p else (p : Int)

/-- The values of a register-file vector, through the reuse cache when the reuse bit is set (R24, R213). -/
def Task.readVector (t : Task) (reuse : Bool) (ss : List Nat) : List Nat × Task :=
  let start := ss.headD 0
  if reuse && contiguous ss then
    match t.reuse.find? (fun e => e.start = start && e.width = ss.length) with
    | some e =>
      (unpackSlices e.vals, { t with reuse := e :: t.reuse.filter (fun g => !(g.start = start && g.width = ss.length)) })
    | none =>
      let vals := ss.map t.slice
      (unpackSlices vals, { t with reuse := { start := start, width := ss.length, vals := vals } :: t.reuse.take 3 })
  else (unpackSlices (ss.map t.slice), t)

/-- Read several vectors. -/
def Task.readVectors (t : Task) (reuse : Bool) (f : Nat → Int) : List (List Nat) → List Lanes × Task
  | [] => ([], t)
  | ss :: rest =>
    let r := t.readVector reuse ss
    let q := r.2.readVectors reuse f rest
    (r.1.map f :: q.1, q.2)

/-- Read a resolved source: its vectors, and the task after a pop or a fill (R28). A pop takes the head as it now stands. -/
def Task.readOpd (t : Task) (o : Src) : Opd → List Lanes × Task
  | .const c => ([List.replicate 512 c], t)
  | .head h _ =>
    match t.headAt h 0 with
    | .here v _ =>
      let t := (t.useHead h v).popHead h
      ([v.vals.map (fun x => extend o.ty (widthOf o.f) o.sg x.toNat)], t)
    | _ => ([List.replicate 512 0], t)
  | .slices vs => t.readVectors o.reuse (extend o.ty (widthOf o.f) o.sg) vs

/-- Read several sources in order. -/
def Task.readAll (t : Task) : List (Src × Opd) → List (List Lanes) × Task
  | [] => ([], t)
  | (o, r) :: rest =>
    let x := t.readOpd o r
    let xs := x.2.readAll rest
    (x.1 :: xs.1, xs.2)

/-- ApplyModifier of R96: rotate, butterfly swap or broadcast within segments of lanes. -/
def applyMod (m : BitVec 12) (x : Lanes) : Lanes :=
  let cls := bits m.toNat 10 2
  let seg := 2 ^ bits m.toNat 6 4
  let d := bits m.toNat 0 6
  if cls = 0 then x
  else
    (List.range 512).map (fun l =>
      let base := l - l % seg
      x.getD (if cls = 1 then base + (l % seg + d) % seg else if cls = 2 then l ^^^ d else base + d) 0)

/-! ## Results -/

/-- A value placed in a destination of `w` slices (R48): the pattern and its flags. -/
def placeVal (ty : Nat) (sat : Bool) (w : Nat) (v : Int) : Nat × Flags :=
  if typeFloat ty then (v.toNat, 0)
  else if 4 * w < typeBits ty ∧ sat = true then
    let r := satInt v (4 * w) (typeSigned ty)
    (intPat (4 * w) r.1, r.2)
  else (intPat (4 * w) v, 0)

/-- The lanes' patterns placed in a destination, inactive lanes 0, with the flags of the active ones. -/
def placeAll (ty : Nat) (sat : Bool) (w : Nat) : List Bool → Lanes → List Nat × Flags
  | b :: bs, v :: vs =>
    let r := placeAll ty sat w bs vs
    if b then
      let p := placeVal ty sat w v
      (p.1 :: r.1, p.2 ||| r.2)
    else (0 :: r.1, r.2)
  | _, _ => ([], 0)

/-- Apply a function to the active lanes, collecting flags; inactive lanes give 0. -/
def mapAct (f : Int → Int × Flags) : List Bool → Lanes → Lanes × Flags
  | b :: bs, v :: vs =>
    let r := mapAct f bs vs
    if b then
      let p := f v
      (p.1 :: r.1, p.2 ||| r.2)
    else (0 :: r.1, r.2)
  | _, _ => ([], 0)

/-- As `mapAct`, of two sources. -/
def mapAct2 (f : Int → Int → Int × Flags) : List Bool → Lanes → Lanes → Lanes × Flags
  | b :: bs, v :: vs, u :: us =>
    let r := mapAct2 f bs vs us
    if b then
      let p := f v u
      (p.1 :: r.1, p.2 ||| r.2)
    else (0 :: r.1, r.2)
  | _, _, _ => ([], 0)

/-- As `mapAct`, of three sources. -/
def mapAct3 (f : Int → Int → Int → Int × Flags) : List Bool → Lanes → Lanes → Lanes → Lanes × Flags
  | b :: bs, v :: vs, u :: us, x :: xs =>
    let r := mapAct3 f bs vs us xs
    if b then
      let p := f v u x
      (p.1 :: r.1, p.2 ||| r.2)
    else (0 :: r.1, r.2)
  | _, _, _, _ => ([], 0)

/-- What an instruction produces: destinations with their values and lanes, and the flags of the whole. -/
structure XRes where
  outs : List (Dest × Pred)
  flags : Flags
  deriving DecidableEq, Repr

/-- One vector result for a destination. -/
def vecRes (ty : Nat) (sat : Bool) (ss : List Nat) (mask : Pred) (act : List Bool) (v : Lanes × Flags) : XRes :=
  let p := placeAll ty sat ss.length act v.1
  { outs := [(.slices ss ((List.range ss.length).map (packSlice p.1)), mask)], flags := v.2 ||| p.2 }

/-- Results of several vectors. -/
def XRes.join (a b : XRes) : XRes := { outs := a.outs ++ b.outs, flags := a.flags ||| b.flags }

/-- A predicate result: the bits of the active lanes (R202, R240). -/
def predRes (k : Nat) (mask : Pred) (bs : List Bool) (flags : Flags) : XRes :=
  { outs := [(.pred k (bitsMask bs), mask)], flags := flags }

/-! ## The frame of an X word (R193, R196) -/

/-- What an X word needs besides its function: predicate field, sources, destinations, modifier, and interval and latency
for the width in slices of its destination (or first source). -/
structure XReq where
  k : BitVec 4
  srcs : List Src
  dsts : List Dst
  md : BitVec 12
  interval : Nat → Nat
  latency : Nat

/-- What the function of an X word sees: the task, the lanes, the sources' vectors and the destinations' slices. -/
structure XIn where
  t : Task
  mask : Pred
  act : List Bool
  srcs : List (List Lanes)
  dsts : List (List (List Nat))

/-- Vector `j` of source `i`. -/
def XIn.src (x : XIn) (i : Nat) (j : Nat := 0) : Lanes := (x.srcs.getD i []).getD j (List.replicate 512 0)

/-- The slices of vector `j` of destination `i`. -/
def XIn.dst (x : XIn) (i : Nat) (j : Nat := 0) : List Nat := (x.dsts.getD i []).getD j []

/-- The slices of the sources whose dead bit is set. -/
def deadSlices (rs : List (Src × Opd)) : List Nat :=
  rs.flatMap (fun r => if r.1.dead then r.2.vectors.flatten else [])

/-- An effect of an X word of the current section. -/
def Task.effect (t : Task) (d : Dest) (mask : Pred) (due : Nat) (flags : Flags) : Effect :=
  { dest := d, mask := mask, due := due, captured := false, replay := false, flags := flags, raises := false, sec := t.sx.sec }

/-- The effects of the results: the first carries the flags. -/
def Task.effectsOf (t : Task) (due : Nat) (flags : Flags) : List (Dest × Pred) → List Effect
  | [] => []
  | (d, m) :: rest => t.effect d m due flags :: Task.effectsOf t due 0 rest

/-- The X engine is taken for an interval (R193). -/
def State.takeEngine (s : State) (id : Nat) (t : Task) (interval : Nat) : State :=
  let p := s.cyc t.core
  (s.setTask id { t with xNext := p + interval }).setCore t.core
    { s.core t.core with nextX := p + interval, issuedX := p + 1 }

/-- The engine is taken, and the stream goes on to its next word. -/
def State.occupy (s : State) (id : Nat) (t : Task) (interval : Nat) : State := s.takeEngine id t.xAdvance interval

/-- Some effect due now has not landed: reads of this cycle must see it (R21). -/
def Task.landingsDue (t : Task) (p : Nat) : Bool := t.effects.any (fun e => !e.captured && decide (e.due ≤ p))

/-- Run a word of the X stream on its task, after the rotation a back-edge has left and the landings of this cycle. -/
def State.xWord (s : State) (f : State → Nat → Task → Nat → Try State) : Host.Outcome State Fault Refusal :=
  if !s.acts .x then .fault .noAgent
  else
    .next (s.finish
      (match s.cur with
      | .rub => raise .illegalOp
      | .task id _ =>
        match s.task? id with
        | none => raise .illegalOp
        | some t =>
          let p := s.cyc t.core
          if t.landingsDue p then .error .hold else f s id t.settleRotation p))

/-- The crossing cycle of R18. -/
def crossCycles (rs : List Opd) (ds : List (List (List Nat))) : Nat :=
  if (rs.any (fun r => r.vectors.any crosses)) || ds.any (fun d => d.any crosses) then 1 else 0

/-- An X word that reads sources and writes the register file, predicates or scale registers: it waits for heads, makes
every check, then reads, computes and leaves its effects to land (R28, R193, R196). `own` is the instruction's own checks,
`g` its function. The width that times a word with no vector destination is its first source's field, even of a constant, whose width
code R47 calls unused: the model's choice (KMOV.FROMV). -/
def State.xOp (s : State) (q : XReq) (own : Task → Try Unit) (g : XIn → XRes) : Host.Outcome State Fault Refusal :=
  s.xWord (fun s id t p => do
    let never := decide (q.k = 8)
    await (never || !t.headsWait (q.srcs.map (·.f)))
    let rs ← t.resolveAll never q.srcs []
    let ds ← t.resolveDsts q.dsts
    own t
    let w := match q.dsts, q.srcs with
      | d :: _, _ => widthOf d.f
      | [], o :: _ => widthOf o.f
      | [], [] => 1
    let cross := crossCycles rs ds
    let interval := q.interval w + cross
    let latency := q.latency + cross + (if q.md = 0 then 0 else 1)
    if never then .ok (s.occupy id t interval)
    else
      let mask := t.activeMask q.k
      let x := t.readAll (q.srcs.zip rs)
      let vals := match x.1 with
        | (v :: vs) :: rest => (applyMod q.md v :: vs) :: rest
        | vs => vs
      let r := g { t := t, mask := mask, act := maskBits mask, srcs := vals, dsts := ds }
      let dead := deadSlices (q.srcs.zip rs)
      let marks := if dead.isEmpty then [] else [t.effect (.dead dead) mask (p + 1) 0]
      let t' := { x.2 with effects := x.2.effects ++ marks ++ t.effectsOf (p + latency) r.flags r.outs }
      .ok (s.occupy id t' interval))

/-! ## Landings (R21, R23, R24) -/

/-- Old lanes with new ones where the mask is set. -/
def blend (old new m : Slice) : Slice := (old &&& ~~~m) ||| (new &&& m)

/-- A slice written by a landing is alive; lanes of a revived slice that are not written hold zero (R23). A 32-bit group
written whole is sound again (R369). -/
def Task.landSlice (t : Task) (s : Nat) (v m : Slice) : Task :=
  { t with
    slices := t.slices.put s (blend (t.slice s) v m)
    flawed := t.flawed.filter (fun k => decide (k / 64 ≠ s ∨ m.extractLsb' (32 * (k % 64)) 32 ≠ BitVec.allOnes 32))
    reuse := t.reuse.map (fun e =>
      if e.start ≤ s ∧ s < e.start + e.width then
        { e with vals := e.vals.modify (s - e.start) (fun o => blend o v m) }
      else e) }

/-- Several slices written. -/
def Task.landSlices (t : Task) (m : Slice) : List (Nat × Slice) → Task
  | [] => t
  | (s, v) :: rest => (t.landSlice s v m).landSlices m rest

/-- Slices have been marked dead in cycle `c` (R212). -/
def Task.noteDead (t : Task) (c : Nat) (ss : List Nat) : Task :=
  { t with deadAt := (c, if t.deadAt.1 = c then t.deadAt.2 ++ ss else ss) }

/-- A slice marked dead holds zero, in the reuse cache too (R23, R24). -/
def Task.markDead (t : Task) (s : Nat) : Task :=
  { t with
    slices := t.slices.del s
    reuse := t.reuse.map (fun e =>
      if e.start ≤ s ∧ s < e.start + e.width then { e with vals := e.vals.set (s - e.start) 0 } else e) }

/-- Scale value `j` replaced where the mask has bit `j`. -/
def blendScale (old new : BitVec 128) (m : BitVec 16) : BitVec 128 :=
  BitVec.ofNat 128 ((List.range 16).foldr (fun j acc =>
    acc * 256 + (if m.getLsbD j then bits new.toNat (8 * j) 8 else bits old.toNat (8 * j) 8)) 0)

/-- 0x7F in every value: a scale register at task start (R32). -/
def scaleStart : BitVec 128 := 0x7F7F7F7F7F7F7F7F7F7F7F7F7F7F7F7F#128

/-- An effect lands. -/
def Task.applyDest (t : Task) (mask : Pred) : Dest → Task
  | .slices ss vals => t.landSlices (maskSlice mask) (ss.zip vals)
  | .pred k v => if k = 0 then t else t.setPred k ((t.pred k &&& ~~~mask) ||| (v &&& mask))
  | .scale e m v => { t with scales := t.scales.set scaleStart e (blendScale (t.scales.get scaleStart e) v m) }
  | .dead ss => ss.foldl Task.markDead t
  | .aq q v => { t with aq := t.aq.set [] q (t.aq.get [] q ++ [v]) }

/-- An effect lands with its flags; an enabled flag leaves FP_EXCEPTION to be delivered (R43). -/
def Task.land (t : Task) (e : Effect) : Task :=
  let t := (t.applyDest e.mask e.dest)
  let t := match e.dest with
    | .dead ss => t.noteDead e.due ss
    | _ => t
  if e.flags = 0 then t
  else
    let u := t.setFlags e.flags
    { u with heldLand := u.heldLand || (if e.replay then e.raises else t.trapsOn e.flags) }

/-- The earliest due of the uncaptured effects. -/
def earliest (es : List Effect) : Option Nat :=
  es.foldl (fun a e => if e.captured then a else match a with | none => some e.due | some d => some (min d e.due)) none

/-- Take the first uncaptured effect due at `d` out of the list. -/
def takeDue (d : Nat) : List Effect → Option (Effect × List Effect)
  | [] => none
  | e :: es =>
    if !e.captured && e.due = d then some (e, es)
    else (takeDue d es).map (fun r => (r.1, e :: r.2))

/-- The next effect that lands at cycle `now`: the earliest due, and of those the first issued. -/
def Task.nextLanding (t : Task) (now : Nat) : Option (Effect × Task) :=
  match earliest t.effects with
  | none => none
  | some d =>
    if d ≤ now then (takeDue d t.effects).map (fun r => (r.1, { t with effects := r.2 })) else none

end Sys2Proof.Machine
end

