-- ==== Sys2Proof/Machine/Copies.lean ====
section
/-! DEFINITION. Copies: the checks at their issue, and the landing of a chunk (R90, R150 to R156, R292, R306, R366). -/

namespace Sys2Proof.Machine

/-! ## Steps that are no word -/

/-- A step that is no word: a change, or nothing when it is not due. A walk it needs is started, a wait it records stands. -/
def State.eventEnd (s : State) : Try State → State
  | .ok s' => s'
  | .error (.pend s') => s'.held
  | .error (.miss u a va) => (s.startWalk u a va).held
  | .error (.path s') => s'
  | .error (.trapWith _ s') => s'
  | .error (.trap _ _) => s.held
  | .error (.parity _) => s.held
  | .error .hold => s.held

/-- Run a step that is no word. -/
def State.event (s : State) (f : State → Try State) : Host.Outcome State Fault Refusal := .next (s.eventEnd (f s))

/-- A step needs something that is there. -/
def need {α : Type} : Option α → Try α
  | some x => .ok x
  | none => .error .hold

/-! ## Issue -/

/-- The extents of a box copy (R151): 0 takes the smaller dim; they must not exceed either. -/
def boxExtents (v : Nat) (gs : List Glyph) : Option (List Nat) :=
  let es := (List.range 5).map (fun j =>
    let e := bits v (12 * j) 12
    if e = 0 then gs.foldl (fun m g => min m (g.dim j)) (2 ^ 32) else e)
  if gs.all (fun g => (es.zipIdx).all (fun e => decide (e.1 ≤ g.dim e.2))) then some es else none

/-- The box is contiguous in a glyph, and begins at a multiple of 512 bytes (R151). -/
def boxContiguous (g : Glyph) (ext : List Nat) (disp : Int) : Bool :=
  let per (j : Nat) : Int := ((ext.take j).foldl (· * ·) 1 * g.storeBits : Nat)
  [1, 2, 3, 4].all (fun j => decide (ext.getD j 1 = 1) || decide (8 * g.strides.getD (j - 1) 0 = per j)) &&
    decide (g.byteAt 0 disp % 512 = 0)

/-- Elements to the chunk (R152). -/
def chunkElems (bits_ : Nat) : Nat := 4096 / bits_

/-- The barrier of a copy, as a handle. -/
def State.copyBarrier (s : State) (w : AC) (anyNode : Bool) : Try Word := do
  match ← s.barRef w with
  | .here c n => .ok (s.handleOf c n)
  | .there _ h => if anyNode then .ok h else raise .barrierMisuse

/-- The view a copy's accesses have: `write` for its destination. -/
def Copy.view (c : Copy) (write : Bool) : View :=
  { unit := c.core, asid := c.asid, ident := c.ident
    reach := if c.kind = .box ∨ (c.kind = .remote ∧ write = false) then .copy else if c.kind = .remote then .copyRemote else .engine
    astream := false, who := if write then none else some (.copy c.id), grain := 8 }

/-- A copy that whoever runs issues. -/
def State.newCopy (s : State) (kind : CopyKind) (dst src : List Word) (dOff sOff : Word) (ext : List Nat) (slice width : Nat)
    (bar : Word) (wash wake : Bool) (elems bits_ : Nat) : Copy :=
  let core := match s.cur with
    | .rub => 0
    | .task id _ => ((s.task? id).map (·.core)).getD 0
  { id := s.nextCopy
    issuer := match s.cur with
      | .rub => .rub
      | .task id _ => .task id
    core := core, kind := kind, dst := dst, src := src, dOff := dOff, sOff := sOff, ext := ext, slice := slice, width := width
    bar := bar, wash := wash, wake := wake, asid := s.aView.asid
    ident := match s.cur with
      | .rub => rubIdent s.tower
      | .task _ _ => coreIdent s.tower core 0 1
    chunks := ceilDiv elems (chunkElems bits_), landed := [], early := [], stopped := false, squashed := false, pc := s.pc,
    issued := s.tsc }

/-- The core of whoever runs has room for one more copy (R152). -/
def State.copyRoom (s : State) : Bool :=
  match s.cur with
  | .rub => true
  | .task id _ =>
    match s.task? id with
    | none => true
    | some t =>
      decide (((s.copies.filter (fun c =>
        decide (c.2.core = t.core) && (match c.2.issuer with | .task _ => true | _ => false))).length) < 64)

/-- What a copy sees and what happens before it, at its issue (R318): of a task, what FENCE and its acquires have put before its engines. -/
def Order.issueCopy (o : Order) (c : Copy) : Order :=
  match c.issuer with
  | .task id => (o.clone (.engines id) (.copy c.id)).learn (.copy c.id) { o.know (.out id .a) with own := [] }
  | .rub => (o.clone .rub (.copy c.id)).learn (.copy c.id) { o.know .rub with own := [] }
  | .queue q => (o.clone (.queue q) (.copy c.id)).learn (.copy c.id) { o.know (.queue q) with own := [] }

/-- The copy is handed to a Scribe. -/
def State.issueCopy (s : State) (c : Copy) : State :=
  { s with copies := s.copies.put s.nextCopy c, nextCopy := s.nextCopy + 1 }.ordered (fun o => o.issueCopy c)

/-- The checks of a box copy, after its glyphs have been read (R151): its extents. -/
def boxChecks (dst src : Glyph) (ext : Word) (dOff sOff : Word) (bar : Try Word) (wash remote : Bool) : Try (List Nat × Word) := do
  require (dst.ok && src.ok) .glyphInvalid
  let some es := boxExtents ext.toNat [dst, src] | raise .glyphInvalid
  require (decide (bits ext.toNat 60 4 = 0)) .reservedField
  let h ← bar
  require (decide (dst.ty = src.ty) && decide (dst.memfmt = 0) && !(remote && dst.paged)) .glyphInvalid
  require (!wash ||
    (!dst.paged && !src.paged && boxContiguous dst es dOff.toInt && boxContiguous src es sOff.toInt &&
      decide ((es.foldl (· * ·) 1) * typeBits dst.ty % 4096 = 0))) .glyphInvalid
  .ok (es, h)

/-- CPY and CPYX of whoever runs. -/
def State.boxCopy (s : State) (w : AC) (kind : CopyKind) : Try State := do
  together [checked (s.glyphWords w.gd.toNat), checked (s.glyphWords w.gs.toNat)]
  let dst ← s.glyphWords w.gd.toNat
  let src ← s.glyphWords w.gs.toNat
  let r ← boxChecks (glyphOf dst) (glyphOf src) (s.reg w.ext) (s.reg w.d) (s.reg w.a)
    (s.copyBarrier w (decide (kind = .remote))) (decide (w.wash = 1)) (decide (kind = .remote))
  await s.copyRoom
  .ok (s.issueCopy (s.newCopy kind dst src (s.reg w.d) (s.reg w.a) r.1 0 0 r.2 (decide (w.wash = 1)) (w.opt.getLsbD 0)
    (r.1.foldl (· * ·) 1) (typeBits (glyphOf dst).ty))).advance

def execCpy (w : AC) (s : State) : Host.Outcome State Fault Refusal :=
  s.aWord ([w.d, w.a, w.ext] ++ handleReg w) (fun s => s.boxCopy w .box)

def execCpyx (w : AC) (s : State) : Host.Outcome State Fault Refusal :=
  s.taskWord [w.d, w.a, w.ext, w.b] (fun s _ _ => s.boxCopy w .remote)

/-- CPYB writes the pad into every element of its box. -/
def execCpyb (w : AC) (s : State) : Host.Outcome State Fault Refusal :=
  s.taskWord ([w.d, w.ext] ++ handleReg w) (fun s _ _ => do
    let dst ← s.useGlyph w.gd.toNat
    let g := glyphOf dst
    let some es := boxExtents (s.reg w.ext).toNat [g] | raise .glyphInvalid
    require (decide (bits (s.reg w.ext).toNat 60 4 = 0)) .reservedField
    let h ← s.copyBarrier w false
    require (decide (g.memfmt = 0)) .glyphInvalid
    await s.copyRoom
    .ok (s.issueCopy (s.newCopy .fill dst [] (s.reg w.d) 0 es 0 0 h false false (es.foldl (· * ·) 1) (typeBits g.ty))).advance)

/-- CPYV: the window descriptor, the vector count, the glyph and the barrier (R154). -/
def State.windowCopy (s : State) (t : Task) (w : AC) (kind : CopyKind) (glyph : BitVec 10) : Try State := do
  let v := (s.reg w.d).toNat
  let code := bits v 16 4
  require (decide (bits v 13 3 = 0) && decide (bits v 20 44 = 0) && decide (code ≤ 8)) .reservedField
  let n := (s.reg w.ext).toNat
  require (decide (1 ≤ n) && decide (n ≤ 65536)) .reservedField
  let width := if code = 8 then 16 else code + 1
  require (decide (bits v 0 13 + width * n ≤ t.winSize)) .sliceRange
  let ws ← s.useGlyph glyph.toNat
  let g := glyphOf ws
  require (decide (typeBits g.ty = 4 * width) && decide (512 * n ≤ g.count) && (kind = .vecIn || decide (g.memfmt = 0))) .glyphInvalid
  let h ← s.copyBarrier w false
  await s.copyRoom
  let c := if kind = .vecIn then s.newCopy kind [] ws 0 (s.reg w.a) [n] (bits v 0 13) width h false false (512 * n) (4 * width)
    else s.newCopy kind ws [] (s.reg w.a) 0 [n] (bits v 0 13) width h false false (512 * n) (4 * width)
  .ok (s.issueCopy c).advance

def execCpyvIn (w : AC) (s : State) : Host.Outcome State Fault Refusal :=
  s.taskWord ([w.d, w.a, w.ext] ++ handleReg w) (fun s _ t => s.windowCopy t w .vecIn w.gs)

def execCpyvOut (w : AC) (s : State) : Host.Outcome State Fault Refusal :=
  s.taskWord ([w.d, w.a, w.ext] ++ handleReg w) (fun s _ t => s.windowCopy t w .vecOut w.gd)

/-! ## Chunks (R152) -/

/-- Bits of a destination element. -/
def Copy.bits (c : Copy) : Nat := if c.kind = .vecIn then 4 * c.width else typeBits (glyphOf c.dst).ty

/-- The elements of a chunk. -/
def Copy.chunk (c : Copy) (k : Nat) : List Nat :=
  let per := chunkElems c.bits
  (List.range (min per (c.elems - per * k))).map (fun i => per * k + i)

/-- The bytes a chunk counts at its barrier. -/
def Copy.chunkBytes (c : Copy) (k : Nat) : Nat := ceilDiv ((c.chunk k).length * c.bits) 8

/-- Nibble `j` of lane `l` in a window. -/
def Task.nibble (t : Task) (sl l : Nat) : Nat := (t.slice sl).toNat / 16 ^ l % 16

/-- Element `f` of a window copy, as it stands in the register window. -/
def Task.windowElem (t : Task) (slice width f : Nat) : Nat :=
  (List.range width).foldr (fun j acc => acc * 16 + t.nibble (slice + width * (f / 512) + j) (f % 512)) 0

/-- The task whose window a copy names. -/
def State.copyTask (s : State) (c : Copy) : Option (Nat × Task) :=
  match c.issuer with
  | .task id => (s.task? id).map (fun t => (id, t))
  | _ => none

/-- The first slice of element `f` of a window copy. -/
def Copy.windowSlice (c : Copy) (f : Nat) : Nat := c.slice + c.width * (f / 512)

/-- A chunk of a window copy writes all eight lanes of a 32-bit group of the window. -/
def Copy.writesGroup (c : Copy) (fs : List Nat) (key : Nat) : Bool :=
  let f := 512 * ((key / 64 - c.slice) / c.width) + 8 * (key % 64)
  decide (c.slice ≤ key / 64) && (List.range 8).all (fun i => fs.contains (f + i))

/-- What a chunk reads at its source. -/
def State.copySource (s : State) (c : Copy) (fs : List Nat) : Try (List Nat) :=
  match c.kind with
  | .fill => .ok (fs.map (fun _ => (glyphOf c.dst).padValue))
  | .vecOut =>
    match s.copyTask c with
    | some (_, t) =>
      match t.flawed.find? (fun k => fs.any (fun f => decide (c.windowSlice f ≤ k / 64) && decide (k / 64 < c.windowSlice f + c.width))) with
      | some k => .error (.parity (k / 64))
      | none => .ok (fs.map (t.windowElem c.slice c.width))
    | none => .ok (fs.map (fun _ => 0))
  | _ => s.readElems (c.view false) (glyphOf c.src) c.sOff.toInt (fs.map (c.offset (glyphOf c.src)))

/-- Elements land in the window: their slices are revived, and the reuse cache is left (R22, R155). What lands in a slice in the
cycle its dead mark takes effect is discarded (R23, R212). A task that has ended takes nothing (R132). -/
def State.landWindow (s : State) (c : Copy) (fs xs : List Nat) : State :=
  match s.copyTask c with
  | none => s
  | some (id, t) =>
    if t.run = .retired ∨ t.run = .faulted then s
    else
      let gone := if t.deadAt.1 = s.cyc t.core then t.deadAt.2 else []
      let write (sl : SMap Slice) (p : Nat × Nat) : SMap Slice :=
        (List.range c.width).foldl (fun sl j =>
          let k := c.windowSlice p.1 + j
          if gone.contains k then sl
          else sl.put k (BitVec.ofNat 2048 (setBits ((SMap.find? k sl).getD 0).toNat (4 * (p.1 % 512)) 4 (p.2 / 16 ^ j)))) sl
      s.setTask id { t with
        slices := (fs.zip xs).foldl write t.slices
        flawed := t.flawed.filter (fun k => !c.writesGroup fs k) }

/-- A range of bits cut at multiples of `unit` bits; `fuel` bounds the cuts. -/
def cutBits (unit : Nat) : Nat → Nat × Nat × Nat → List (Nat × Nat × Nat)
  | 0, r => [r]
  | fuel + 1, r =>
    let n := unit - r.1 % unit
    if r.2.1 ≤ n then [r] else (r.1, n, r.2.2 % 2 ^ n) :: cutBits unit fuel (r.1 + n, r.2.1 - n, r.2.2 / 2 ^ n)

/-- The key of a byte under a view. -/
def State.byteKey (s : State) (v : View) (k : Access) (va : Nat) : Option Nat :=
  match s.range v k va 1 with
  | .ok ps => some (s.keyOf (ps.headD (0, 0)).1)
  | .error _ => none

/-- A part of a sector, written at `d` and read at `a`, lies in a sector of a migration copy that a mirrored write has reached since the
activation: the copy leaves it (R292). -/
def State.migrationSkips (s : State) (d a : Option Nat) : Bool :=
  match d, a with
  | some d, some a =>
    s.ctl.mirrors.any (fun e =>
      let src := s.keyOf e.2.src
      e.2.active && decide (src ≤ a) && decide (a < src + 65536 * e.2.len.toNat) &&
        decide (d = s.keyOf e.2.dst + (a - src)) && e.2.written.contains (d / 32))
  | _, _ => false

/-- A copy that may be a migration copy. -/
def State.mayMigrate (s : State) (c : Copy) : Bool :=
  !s.ctl.mirrors.isEmpty && decide (c.kind = .box ∨ c.kind = .remote) && !(glyphOf c.dst).paged && !(glyphOf c.src).paged

/-- The ranges of bits that an element of a copy writes, without what a migration copy leaves. -/
def State.landRanges (s : State) (c : Copy) (p : Nat × Nat) : List (Nat × Nat × Nat) :=
  let rs := elemBits (glyphOf c.dst) c.dOff.toInt [(c.offset (glyphOf c.dst) p.1, p.2)]
  if s.mayMigrate c then
    let src := (glyphOf c.src).byteAt (c.offset (glyphOf c.src) p.1) c.sOff.toInt
    rs.flatMap (fun r => (cutBits 256 2 r).filter (fun q =>
      !s.migrationSkips (s.byteKey (c.view true) .write (q.1 / 8)) (s.byteKey (c.view false) .read (src + (q.1 / 8 - r.1 / 8)))))
  else rs

/-- Some of the elements is left by a migration copy, in a part at least. -/
def State.leavesSome (s : State) (c : Copy) (fs : List Nat) : Bool :=
  s.mayMigrate c && fs.any (fun f => decide ((s.landRanges c (f, 0)).foldl (fun n r => n + r.2.1) 0 < (glyphOf c.dst).storeBits))

/-- The whole chunks that runs have written go through wash detection (R397). -/
def State.detectRuns (s : State) (v : View) (rs : List (Nat × Nat × Nat)) : State :=
  rs.foldl (fun s r =>
    if r.1 % 8 = 0 ∧ r.2.1 % 8 = 0 then
      (wholeChunks (r.1 / 8) (r.2.1 / 8)).foldl (fun s c => ((s.byteKey v .write (512 * c)).map s.detectWash).getD s) s
    else s) s

/-- The ranges of bits that elements of a copy write. -/
def State.landBits (s : State) (c : Copy) (fs xs : List Nat) : List (Nat × Nat × Nat) := (fs.zip xs).flatMap (s.landRanges c)

/-- Ranges of bits land in the package. -/
def State.landNear (s : State) (c : Copy) (rs : List (Nat × Nat × Nat)) : Try State := do
  let u ← s.writeRanges (c.view true) rs
  .ok (u.detectRuns (c.view true) (mergeBits rs))

/-- Elements land in memory; a whole chunk goes through wash detection (R397), in paged storage too. -/
def State.landMemory (s : State) (c : Copy) (fs xs : List Nat) : Try State := do
  let g := glyphOf c.dst
  let v := c.view true
  if g.paged then do
    let r ← s.writePaged v g c.dOff.toInt ((fs.zip xs).map (fun p => (c.offset g p.1, p.2)))
    .ok (r.1.detectRuns { v with asid := none } r.2)
  else s.landNear c (s.landBits c fs xs)

/-- A chunk is stored in a mode: its sectors are poisoned no more, and active mirror slots see the write. -/
def State.storeWashed (s : State) (t x o mode : Nat) (image : List Byte) : State :=
  let a := (Place.store t x o).key
  if mode = 0 then (s.writeBytes a image).detectWash a
  else
  let u := s.setBytes a (image.take (washSize mode image))
  ((({ u with washed := u.washed.put (a / 512) (BitVec.ofNat 4 mode) }.noteWrite a 512).fabricWritten a 512).clearPoison t x o 512).mirror a 512

/-- The copy reads the chunk at `a` as it now stands: no older element of it (R318). -/
def State.readsNewest (s : State) (c : Copy) (a : Nat) : Bool :=
  !s.order.lags.any (fun g => decide (g.who = .copy c.id) && decide (g.key / 64 = a / 512))

/-- A `.WASH` chunk between T levels of the package travels in its stored mode (R306); one that a migration must land sector by
sector does not. -/
def State.landWashed (s : State) (c : Copy) (fs : List Nat) : Try (Option State) := do
  let g := glyphOf c.dst
  let h := glyphOf c.src
  let f := fs.headD 0
  let ps ← s.check (c.view false) .read (h.byteAt (c.offset h f) c.sOff.toInt) 512
  let pd ← s.check (c.view true) .write (g.byteAt (c.offset g f) c.dOff.toInt) 512
  match s.place (ps.headD (0, 0)).1, s.place (pd.headD (0, 0)).1 with
  | .store a x o, .store b y p =>
    let from_ := (Place.store a x o).key
    let mode := s.washMode from_
    if x ≤ 3 ∧ y ≤ 3 ∧ mode ≠ 0 ∧ h.memfmt = 0 ∧ s.leavesSome c fs = false ∧ s.readsNewest c from_ = true then
      .ok (some (s.storeWashed b y p mode (s.bytes from_ 512)))
    else .ok none
  | _, _ => .ok none

/-- A `.WASH` chunk from a T level for another tower travels in its stored mode, where the next hop carries wash blocks: the node and the
request (R306). -/
def State.farWashed (s : State) (c : Copy) (fs : List Nat) : Try (Option (Nat × RemoteOp)) := do
  let g := glyphOf c.dst
  let h := glyphOf c.src
  let f := fs.headD 0
  let ps ← s.check (c.view false) .read (h.byteAt (c.offset h f) c.sOff.toInt) 512
  let pd ← s.check (c.view true) .write (g.byteAt (c.offset g f) c.dOff.toInt) 512
  match s.place (ps.headD (0, 0)).1, s.place (pd.headD (0, 0)).1 with
  | .store a x o, .remote node off =>
    let from_ := (Place.store a x o).key
    let mode := s.washMode from_
    let carries := match s.pathTo node with
      | some p => decide (p = 12) || s.fabric.wash.getLsbD p
      | none => false
    if x ≤ 3 ∧ mode ≠ 0 ∧ h.memfmt = 0 ∧ carries = true ∧ s.readsNewest c from_ = true then
      let image := s.bytes from_ 512
      .ok (some (node, .washed off mode (image.take (washSize mode image))))
    else .ok none
  | _, _ => .ok none

/-- The ranges of bits that a chunk writes, by where they lie: those in the package, and those on remote towers, by node, each as a
request carries it (R156). -/
def State.remoteParts (s : State) (c : Copy) (fs xs : List Nat) :
    Try (List (Nat × Nat × Nat) × List (Nat × List (Nat × Nat × Nat))) := do
  let qs := (s.landBits c fs xs).flatMap (cutBits 524288 2)
  let rs ← collect (qs.map (fun q => do
    let ps ← s.check (c.view true) .write (runBytes q).1 (runBytes q).2
    match s.place (ps.headD (0, 0)).1 with
    | .remote node o => .ok (some (node, (8 * o + q.1 % 8, q.2)))
    | _ => .ok none))
  let far := rs.filterMap id
  let nodes := distinct (far.map (·.1))
  .ok ((qs.zip rs).filterMap (fun e => if e.2.isNone then some e.1 else none),
    nodes.map (fun (n : Nat) => (n, far.filterMap (fun e => if e.1 = n then some e.2 else none))))

/-- The requests of a chunk. -/
def State.chunkRequests (s : State) (id k : Nat) : List (Nat × Remote) :=
  s.remotes.filter (fun (r : Nat × Remote) => decide (r.2.asker = .copy id k))

/-- The writes of chunk `k` of a copy, those since `old` among them: they have landed, and the FENCE of its issuer and the completion of
its task's arming may pass them on (R309, R316). -/
def State.landed (old s : State) (id k : Nat) : State :=
  if s.order.next = old.order.next then s
  else
    let x : Know := { before := s.order.since old.order.next, seen := [], own := [] }
    match SMap.find? id s.copies with
    | none => s
    | some c => s.ordered (fun o =>
      let o := (o.learn (.chunk id k) x).learn (.landed c.issuer) x
      match s.copyTask c with
      | some (_, t) => o.learn (.ended t.arming) { before := [], seen := [], own := x.before }
      | none => o)

/-- The party a copy acts for (R307). -/
def Issuer.party : Issuer → Party
  | .task id => .task id
  | _ => .rub

/-- What the arrival of chunk `k` of a copy brings: its bytes (R312). -/
def State.chunkBring (s : State) (id k : Nat) (c : Copy) : Bring :=
  { party := c.issuer.party, before := (s.order.know (.copy id)).before, data := (s.order.know (.chunk id k)).before
    seen := (s.order.know (.copy id)).seen }

/-- The copy is no more. -/
def State.dropCopy (s : State) (id : Nat) : State :=
  { s with copies := s.copies.del id }.ordered (fun o => o.forget (fun v => decide (v = Viewer.copy id)) (fun x => decide (x = Knower.copy id)))

/-- The chunk has landed and arrived. -/
def State.chunkDone (s : State) (id k : Nat) : State :=
  let s := { s with copies := s.copies.adjust id (fun c =>
    { c with landed := c.landed ++ [k], early := c.early.filter (fun f => !(c.chunk k).contains f) }) }
  match SMap.find? id s.copies with
  | some c =>
    let s := match c.issuer with
      | .task _ => s.measure c.core 2 (s.tsc - c.issued)
      | _ => s
    let s := s.ordered (fun o => o.forget (fun _ => false) (fun x => decide (x = Knower.chunk id k)))
    if c.landed.length = c.chunks then s.dropCopy id else s
  | none => s

/-- The chunks of a copy whose arrival at another tower is on its way. -/
def State.arriving (s : State) (id : Nat) : Nat :=
  (s.remotes.filter (fun (r : Nat × Remote) =>
    (match r.2.asker with
      | .copy i _ => decide (i = id)
      | _ => false) &&
    (match r.2.op with
      | .arrive _ _ _ _ _ => true
      | _ => false))).length

/-- The arrival of a landed chunk: at a barrier of this tower at once, elsewhere by request. The last one wakes. -/
def State.chunkArrive (s : State) (id k : Nat) (c : Copy) : State :=
  let wake := c.wake && decide (c.landed.length + s.arriving id + 1 = c.chunks)
  if handleNode c.bar = s.node then
    let s := s.arrive (handleCore c.bar) (handleBar c.bar) (c.chunkBytes k) false (s.chunkBring id k c)
    (if wake then s.testParks else s).chunkDone id k
  else s.sendRequest (handleNode c.bar) (.arrive c.bar (c.chunkBytes k) wake false true) (s.chunkBring id k c).know (.copy id k) c.ident c.pc

/-- A barrier of this tower whose target is 0 takes no chunk (R37, R152). -/
def State.chunkMisuse (s : State) (c : Copy) : Bool :=
  decide (handleNode c.bar = s.node) && decide ((s.bar (handleCore c.bar) (handleBar c.bar)).target = 0)

/-- A CPYX chunk: what lies in the package is written, and the rest is sent to its nodes. -/
def State.passRemote (s : State) (id k : Nat) (c : Copy) (fs xs : List Nat) : Try State := do
  let (near, far) ← s.remoteParts c fs xs
  if far.isEmpty then do
    let t ← s.landNear c near
    .ok ((s.landed t id k).chunkArrive id k c)
  else do
    await (far.all (fun e => s.opClear e.1 c.ident (.chunk e.2)))
    let t ← s.landNear c near
    .ok (far.foldl (fun s e => s.sendRequest e.1 (.chunk e.2) Know.none (.copy id k) c.ident c.pc) (s.landed t id k))

/-- A chunk that no wash keeps from landing: its bytes are read, and written or sent. -/
def State.passChunk (s : State) (id k : Nat) (c : Copy) : Try State := do
  let fs := (c.chunk k).filter (fun f => !c.early.contains f)
  let xs ← s.copySource c fs
  if c.kind = .vecIn then .ok ((s.landWindow c fs xs).chunkArrive id k c)
  else if c.kind = .remote then s.passRemote id k c fs xs
  else do
    let t ← s.landMemory c fs xs
    .ok ((s.landed t id k).chunkArrive id k c)

/-- A chunk of the register window waits for what is due to land there. -/
def State.windowClear (s : State) (c : Copy) : Bool :=
  if c.kind = .vecIn ∨ c.kind = .vecOut then
    match s.copyTask c with
    | some (_, t) => !t.landingsDue (s.cyc t.core)
    | none => true
  else true

/-- A chunk reads, lands and arrives, as far as it goes in one step. At a barrier of this tower with target 0 it stops before it has
written anything; a chunk with bytes for another tower, or a barrier there, has written them by then: the model's choice, R37 and R152
giving only the record. -/
def State.runChunk (s : State) (id k : Nat) (c : Copy) : Try State := do
  require (!s.chunkMisuse c) .barrierMisuse
  await (s.windowClear c)
  let fresh := c.wash && !(c.chunk k).any (fun f => c.early.contains f)
  let washed ← if fresh then s.landWashed c (c.chunk k) else .ok none
  let far ← if fresh && decide (c.kind = .remote) then s.farWashed c (c.chunk k) else .ok none
  match washed, far with
  | some t, _ => .ok ((s.landed t id k).chunkArrive id k c)
  | none, some (node, op) => do
    await (s.opClear node c.ident op)
    .ok (s.sendRequest node op Know.none (.copy id k) c.ident c.pc)
  | none, none => s.passChunk id k c

/-- The record of a chunk's fault (R153, R446). -/
def State.copyRecord (s : State) (id k : Nat) (c : Copy) (cause : Cause) (va : Nat) (path : Bool) : Record :=
  { src := .copy id, cause := some cause, kind := 1, info := false, nested := false, path := path, transient := false, stream := 0,
    taskId := ((s.copyTask c).map (fun t => t.2.ident s.tower)).getD 0, pc := c.pc.toNat, va := va, ident := c.ident.toNat,
    detail := k % 2 ^ 32, serial := ((s.copyTask c).map (fun t => t.2.arming % 2 ^ 32)).getD 0, second := c.bar.toNat }

/-- A fault stops the copy until its record is answered (R153). -/
def State.stopCopy (s : State) (id k : Nat) (c : Copy) (cause : Cause) (va : Nat) (path : Bool) : State :=
  { s with copies := s.copies.put id { c with stopped := true } }.post (s.copyRecord id k c cause va path)

/-- The first chunk that has not landed. -/
def Copy.frontier (c : Copy) : Nat := ((List.range c.chunks).find? (fun k => !c.landed.contains k)).getD c.chunks

/-- Chunk `k` of copy `id` lands (R152): its bytes, then one arrival. A request it has made of another tower is taken up when its
response has come. -/
def State.landChunk (s : State) (id k : Nat) (c : Copy) : Try State := do
  await (!c.stopped && !c.squashed && decide (k < c.chunks) && !c.landed.contains k && decide (k < c.frontier + 4096))
  match s.chunkRequests id k with
  | [] =>
    match s.runChunk id k c with
    | .error (.trap cause va) => .ok ((if va = 0 then s else s.dropFailed va).stopCopy id k c cause va false)
    | .error (.parity _) => .ok (s.stopCopy id k c .uncorrectable 0 false)
    | r => r
  | rs => do
    await (rs.all (fun r => r.2.answer.isSome))
    let t := { s with remotes := s.remotes.filter (fun (r : Nat × Remote) => decide (r.2.asker ≠ Asker.copy id k)) }
    match rs.findSome? (fun r =>
      match r.2.answer with
      | some (.error cause) => some (cause, r.2.path)
      | _ => none) with
    | some (cause, path) => .ok (t.stopCopy id k c cause 0 path)
    | none =>
      if rs.any (fun r => match r.2.op with | .arrive _ _ _ _ _ => true | _ => false) then .ok (t.chunkDone id k)
      else if t.chunkMisuse c then .ok (t.stopCopy id k c .barrierMisuse 0 false)
      else .ok (t.chunkArrive id k c)

/-- The `j`-th element left of chunk `k` is written ahead of the others: of two copies that write an element with no order between
them either may write it last, element by element (R318). A chunk that could not land writes none; an element on a remote tower goes with
its request, and those of a paged glyph land in one step (R323, R403). -/
def State.landEarly (s : State) (id k j : Nat) (c : Copy) : Try State := do
  await (!c.stopped && !c.squashed && decide (k < c.chunks) && !c.landed.contains k && decide (k < c.frontier + 4096) &&
    decide (c.kind ≠ .vecIn) && !(glyphOf c.dst).paged && !(glyphOf c.src).paged && !s.chunkMisuse c && s.windowClear c &&
    (s.chunkRequests id k).isEmpty)
  let fs := (c.chunk k).filter (fun f => !c.early.contains f)
  let f ← need fs[j]?
  let xs ← s.copySource c fs
  let chunk ← s.remoteParts c fs xs
  let _ ← s.landNear c chunk.1
  let one ← s.remoteParts c [f] [xs.getD j 0]
  await one.2.isEmpty
  let t ← s.landNear c one.1
  .ok { s.landed t id k with copies := t.copies.adjust id (fun c => { c with early := c.early ++ [f] }) }

/-- COPY_CHUNK_LANDING: chunk `arg.y` of copy `arg.x` lands, or where `arg.z` is not 0 one element of it is written ahead. -/
def execCopyChunkLanding (s : State) : Host.Outcome State Fault Refusal :=
  s.event (fun s => do
    let c ← need (SMap.find? s.arg.x s.copies)
    if s.arg.z = 0 then s.landChunk s.arg.x s.arg.y c else s.landEarly s.arg.x s.arg.y (s.arg.z - 1) c)

/-- PAGED_WRITE: chunk `arg.y` of copy `arg.x`, whose destination is paged, lands: its write passes the step at the header of each
block it reaches (R403). -/
def execPagedWrite (s : State) : Host.Outcome State Fault Refusal :=
  s.event (fun s => do
    let c ← need (SMap.find? s.arg.x s.copies)
    await (glyphOf c.dst).paged
    s.landChunk s.arg.x s.arg.y c)

end Sys2Proof.Machine
end

