-- ==== Sys2Proof/Machine/Fabric.lean ====
section
/-! DEFINITION. The fabric: requests of other towers and their responses, forwarded arrivals, flits and ports, and the steering of
`tsc` (R169, R173, R414 to R419). -/

namespace Sys2Proof.Machine

/-! ## Arrivals that wait for an answer (R166, R169, R446) -/

/-- The record of an arrival at a disabled barrier, or of one whose path failed. -/
def arrivalRecord (id : Nat) (a : Arrival) (ident : BitVec 32) (cause : Cause) (path : Bool) : Record :=
  { src := .arrival id, cause := some cause, kind := 5, info := false, nested := false, path := path, transient := false,
    stream := 0, taskId := 0, pc := 0, va := 0, ident := ident.toNat, detail := a.bytes % 2 ^ 32, serial := 0,
    second := a.handle.toNat }

/-- An arrival is held until its record is answered. -/
def State.stopArrival (s : State) (id : Nat) (a : Arrival) (ident : BitVec 32) (cause : Cause) (path : Bool) : State :=
  { s with arrivals := s.arrivals.put id { a with stopped := true } }.post (arrivalRecord id a ident cause path)

/-- The request of an arrival is on its way. -/
def State.arrivalSent (s : State) (id : Nat) : Bool :=
  List.any s.remotes (fun (r : Nat × Remote) => decide (r.2.asker = .arrival id))

/-- What an arrival that has been on its way brings (R320). -/
def State.arrivalBring (s : State) (id : Nat) : Bring :=
  let k := s.order.know (.arrival id)
  { party := .service, before := k.before, data := k.own, seen := k.seen }

/-- FORWARDED_ARRIVAL: arrival `arg.x` reaches its barrier, here or on another tower (R169). -/
def execForwardedArrival (s : State) : Host.Outcome State Fault Refusal :=
  s.event (fun s => do
    let id := s.arg.x
    let a ← need (SMap.find? id s.arrivals)
    await (!a.stopped && !s.arrivalSent id)
    if handleNode a.handle ≠ s.node then
      .ok (s.sendRequest (handleNode a.handle) (.arrive a.handle a.bytes a.wake a.forwarded false)
        (s.order.know (.arrival id)) (.arrival id) (rubIdent s.tower) 0)
    else
      let c := handleCore a.handle
      let n := handleBar a.handle
      if (s.bar c n).target = 0 then .ok (s.stopArrival id a (rubIdent s.tower) .barrierMisuse false)
      else
        let s := { s with arrivals := s.arrivals.del id }.arrive c n a.bytes a.forwarded (s.arrivalBring id)
        .ok (if a.wake then s.testParks else s))

/-! ## Requests of other towers (R173, R324, R417) -/

/-- The package address of an offset of this tower. -/
def State.ownAddress (s : State) (off : Nat) : Nat := s.tower * 2 ^ 40 + off

/-- A chunk of a peer lands: its elements run by run, as a chunk of this tower does (R289, R305, R397); every run is checked before any
is written. -/
def State.chunkWrite (s : State) (ident : BitVec 32) (es : List (Nat × Nat × Nat)) : Try State := do
  let v : View := { unit := 0, asid := none, ident := ident, reach := .engine, astream := false, who := none, grain := 8 }
  let rs := mergeBits (es.map (fun e => (8 * s.ownAddress 0 + e.1, e.2.1, e.2.2)))
  let _ ← collect (rs.map (fun r => s.check v .write (runBytes r).1 (runBytes r).2))
  let s' ← s.writeRuns v rs
  .ok (match rs with
    | [r] => if r.1 % 4096 = 0 ∧ r.2.1 = 4096 then s'.detectWash (s.keyOf (r.1 / 8)) else s'
    | _ => s')

/-- A chunk of a peer lands in its stored mode; in LPDDR6, which does not advertise, its expanded bytes land (R306). -/
def State.washedWrite (s : State) (ident : BitVec 32) (off mode : Nat) (image : List Byte) : Try State := do
  let p ← s.physCheck ident .engine .write (s.ownAddress off) 512
  match p with
  | .store t x o =>
    if x ≤ 3 then .ok (s.storeWashed t x o mode image)
    else
      match s.expand mode image with
      | some bs => .ok (s.writeBytes p.key bs)
      | none => raise .uncorrectable
  | _ => raise .access

/-- A peer's physical view of memory. -/
def peerView (node : Nat) : View :=
  { unit := 0, asid := none, ident := peerIdent node, reach := .engine, astream := false, who := some (.peer node), grain := 8 }

/-- What an arrival of a peer brings, as its message says (R320, R324). -/
def peerBring (node : Nat) (k : Know) : Bring := { party := .peer node, before := k.before, data := k.own, seen := k.seen }

/-- A contribution is kept in place of an older one of the same participant and instance. -/
def State.keepShare (s : State) (m : Share) : State :=
  { s with shares := s.shares.filter (fun (u : Share) =>
      !(decide (u.channel = m.channel) && decide (u.k = m.k) && decide (u.node = m.node))) ++ [m] }

/-- Where a peer stands at a scope. -/
def peerStanding (node scope : Nat) : Standing := { scope := scope, party := .peer node, home := .far node, done := false }

/-- The other towers see what a peer has written since `old`. -/
def State.peerWrote (old s : State) (node : Nat) : State := s.ordered (fun o => o.show [.peer node] (o.since old.order.next))

/-- A semaphore step of a peer as an acquire, which its answer makes known, and as a release (R311). -/
def State.peerSem (s : State) (node n : Nat) (k : Know) (o : SemOrder) : Know × State :=
  let x := if o.acq then (s.releasesFor n o.scope (.far node) (.peer node)).foldl (fun a r => a.join r.know) Know.none else Know.none
  (x, if o.rel then s.releaseRegions n o.scope (.far node) (.peer node) (k.join x) else s)

/-- A start message is kept in place of an older one of the same participant and instance. -/
def State.keepStart (s : State) (m : Start) : State :=
  { s with starts := s.starts.filter (fun (u : Start) =>
      !(decide (u.channel = m.channel) && decide (u.k = m.k) && decide (u.node = m.node))) ++ [m] }

/-- A load of a peer at a place: what it reads, the writes that its message says it knows of being visible, and the state after it. -/
def State.peerLoad (s : State) (node : Nat) (k : Know) (off n : Nat) (strong : Option Nat) : Try (List Byte × State) := do
  let a := s.keyOf (s.ownAddress off)
  let u := match strong with
    | some scope => s.strongRead [.peer node] (peerStanding node scope) a n
    | none => s
  let bs ← (u.ordered (fun o => o.show [.peer node] k.visible)).pieceRead (peerView node) (s.ownAddress off) n
  .ok (bs, u)

/-- A remote operation applied here for a peer: its answer, what that makes known, and the state after it. A semaphore step of the other
tower of the package is checked as a fabric peer's, class 4, like every other: the model's choice. -/
def State.applyRemote (s : State) (node : Nat) (ident : BitVec 32) (k : Know) : RemoteOp → Try (Answer × Know × State)
  | .load off n strong => do
    let r ← s.peerLoad node k off n strong
    .ok (.ok (BitVec.ofNat 64 (leNat r.1)), Know.none, r.2)
  | .store off n v strong => do
    let u ← s.physWrite (peerIdent node) .engine (s.ownAddress off) (leBytes n v.toNat)
    let u := s.peerWrote u node
    .ok (.ok 0, Know.none, match strong with
      | some scope => s.strongWrite u (peerStanding node scope)
      | none => u)
  | .chunk es => do
    let u ← s.chunkWrite (peerIdent node) es
    .ok (.ok 0, Know.none, u)
  | .washed off mode image => do
    let u ← s.washedWrite (peerIdent node) off mode image
    .ok (.ok 0, Know.none, u)
  | .arrive handle bytes wake forwarded chunk =>
    let c := handleCore handle
    let n := handleBar handle
    if (s.bar c n).target = 0 then
      if forwarded || chunk then .ok (.error .barrierMisuse, Know.none, s)
      else
        let a : Arrival :=
          { handle := handle, bytes := bytes, forwarded := false, wake := wake, stopped := true, task := none }
        .ok (.ok 0, Know.none,
          ({ s with nextArrival := s.nextArrival + 1 }.stopArrival s.nextArrival a ident .barrierMisuse false).ordered
            (fun o => o.learn (.arrival s.nextArrival) k))
    else
      let s := s.arrive c n bytes forwarded (peerBring node k)
      .ok (.ok 0, Know.none, if wake then s.testParks else s)
  | .wake _ => .ok (.ok 0, Know.none, s.testParks)
  | .sem op n cmp x ord => do
    s.semAllowed n (peerIdent node)
    let old := s.sem n
    let r := s.peerSem node n k ord
    .ok (.ok old, r.1, if op = 4 then r.2 else r.2.setSem n (semValue op old cmp x))
  | .start m => .ok (.ok 0, Know.none, s.keepStart m)
  | .data m => .ok (.ok 0, Know.none, s.keepShare m)
  | .abandon c k => .ok (.ok 0, Know.none, { s with fabIn := s.fabIn ++ [.abandon c k] })

/-- The answer of a remote operation; a refusal is an answer. -/
def State.answerRemote (s : State) (node : Nat) (ident : BitVec 32) (k : Know) (op : RemoteOp) : Try (Answer × Know × State) :=
  match s.applyRemote node ident k op with
  | .error (.trap c _) => .ok (.error c, Know.none, s)
  | r => r

/-- The response sets out, and the tag is kept with its result: the last 4,096. -/
def State.respond (s : State) (node tag : Nat) (answer : Answer) (k : Know) (keep : Bool) : State :=
  let e : Kept := { node := node, tag := tag, result := answer, know := k, since := s.tsc }
  { s with
    kept := if keep then (s.kept ++ [e]).drop ((s.kept.length + 1) - 4096) else s.kept }.sendMsg node (.response tag answer k)

/-- A request is applied once: a kept tag gives its result again, a replay from outside the filter is refused. -/
def State.serveRequest (s : State) (node tag : Nat) (ident : BitVec 32) (op : RemoteOp) (k : Know) (stamp : Nat) (again : Bool) :
    Try State :=
  match s.kept.find? (fun k => k.node = node && k.tag = tag) with
  | some e => .ok (s.respond node tag e.result e.know false)
  | none =>
    if again && (decide (stamp + 1000000 < s.tsc) || decide (4096 ≤ s.kept.length)) then
      .ok (s.sendMsg node (.refused tag))
    else do
      let r ← s.answerRemote node ident k op
      .ok (r.2.2.respond node tag r.1 r.2.1 true)

/-- A message of the list is taken. -/
def State.takeMessage (s : State) (i : Nat) : State := { s with fabIn := s.fabIn.eraseIdx i }

/-- The operation is a wake write. -/
def RemoteOp.isWake : RemoteOp → Bool
  | .wake _ => true
  | _ => false

/-- An earlier message of the list is the same request: a replay waits for it. -/
def State.requestBefore (s : State) (i node tag : Nat) : Bool :=
  (s.fabIn.take i).any (fun m =>
    match m with
    | .request n t _ _ _ _ _ => decide (n = node) && decide (t = tag)
    | _ => false)

/-- One element of a chunk that has come lands before the rest: overlapping chunks may interleave by element (R318). The whole chunk must
pass its checks; the element is not written again. -/
def State.chunkAhead (s : State) (i j node tag : Nat) (ident : BitVec 32) (es : List (Nat × Nat × Nat)) (k : Know) (stamp : Nat)
    (again : Bool) : Try State := do
  await (decide (1 < es.length) && !s.kept.any (fun e => decide (e.node = node) && decide (e.tag = tag)) &&
    !(again && (decide (stamp + 1000000 < s.tsc) || decide (4096 ≤ s.kept.length))))
  let e ← need es[j]?
  match s.chunkWrite (peerIdent node) es with
  | .error _ => .error .hold
  | .ok _ => do
    let u ← s.chunkWrite (peerIdent node) [e]
    .ok { u with fabIn := u.fabIn.set i (.request node tag ident (.chunk (es.eraseIdx j)) k stamp again) }

/-- REMOTE_REQUEST_APPLY: message `arg.x` is a request of another tower; with `arg.y` = 1, element `arg.z` of its chunk lands first. -/
def execRemoteRequestApply (s : State) : Host.Outcome State Fault Refusal :=
  s.event (fun s => do
    match ← need s.fabIn[s.arg.x]? with
    | .request node tag ident op k stamp again => do
      await (!op.isWake && !s.requestBefore s.arg.x node tag)
      match s.arg.y, op with
      | 1, .chunk es => s.chunkAhead s.arg.x s.arg.z node tag ident es k stamp again
      | _, _ => (s.takeMessage s.arg.x).serveRequest node tag ident op k stamp again
    | _ => .error .hold)

/-- WAKE_WRITE: message `arg.x` forces the test of the tasks parked on a barrier (R418). -/
def execWakeWrite (s : State) : Host.Outcome State Fault Refusal :=
  s.event (fun s => do
    match ← need s.fabIn[s.arg.x]? with
    | .request node tag ident op k stamp again => do
      await op.isWake
      (s.takeMessage s.arg.x).serveRequest node tag ident op k stamp again
    | _ => .error .hold)

/-! ## Responses, resending, path failures (R417) -/

/-- The answer of a load from another tower: its value, or what it is delivered with at its first reader (R370). -/
def Load.answered (l : Load) (answer : Answer) (path : Bool) : Load :=
  match answer with
  | .ok v => { l with tag := none, val := if l.sext = 0 then v else word (signed (8 * l.sext) v.toNat), again := none }
  | .error c => { l with tag := none, bad := true, cause := c, path := path }

/-- The load with a tag gets its answer; one whose register has been written since has none to take it. -/
def State.deliverLoad (s : State) (ag : Agent) (tag : Nat) (answer : Answer) (path : Bool) : State :=
  let f (ls : List Load) := ls.map (fun l => if l.tag = some tag then l.answered answer path else l)
  match ag with
  | .rub => { s with rub := { s.rub with loads := f s.rub.loads } }
  | .task id _ => s.onTask id (fun t => { t with loads := f t.loads })

/-- An instance is held until its record is answered (R424). -/
def State.stopCollective (s : State) (c : Nat) (i : Instance) (cause : Cause) (second : Nat) (path : Bool) : State :=
  (s.setChannel c { s.channel c with inst := some { i with stopped := true, cause := cause } }).post
    { infoRecord s.tower 10 (some cause) c second with
      src := .collective c, info := false, path := path, ident := (serviceIdent s.tower 2).toNat }

/-- A message of instance `k` of a channel has failed: the instance is held while that node takes part in it (R417, R424); where it has
ended, is held already, or the node takes part no more, the record alone is posted, the engines going on. -/
def State.collectiveFailed (s : State) (c k node : Nat) (cause : Cause) (path : Bool) : State :=
  let failed := s.post { infoRecord s.tower 10 (some cause) c 0 with
    src := .ended, info := false, path := path, ident := (serviceIdent s.tower 2).toNat }
  match (s.channel c).inst with
  | some i => if i.k = k ∧ node ∈ i.parts ∧ i.stopped = false then s.stopCollective c i cause 0 path else failed
  | none => failed

/-- A request has its answer: a word, a load or a copy takes it up, an arrival is done or held, a collective instance is held where
its message has failed. -/
def State.answered (s : State) (tag : Nat) (r : Remote) (answer : Answer) (k : Know) (path : Bool) : State :=
  match r.asker with
  | .none => { s with remotes := s.remotes.del tag }
  | .arrival id =>
    let s := { s with remotes := s.remotes.del tag }
    match SMap.find? id s.arrivals, answer with
    | some _, .ok _ => { s with arrivals := s.arrivals.del id }
    | some a, .error c => s.stopArrival id a r.ident c path
    | none, _ => s
  | .load ag => { s with remotes := s.remotes.del tag }.deliverLoad ag tag answer path
  | .collective c k =>
    let s := { s with remotes := s.remotes.del tag }
    match answer with
    | .ok _ => s
    | .error cause => s.collectiveFailed c k r.node cause path
  | _ => { s with remotes := s.remotes.put tag { r with answer := some answer, path := path, learnt := k } }

/-- REMOTE_RESPONSE: message `arg.x` answers a request; a refused replay is a path failure (R173). -/
def execRemoteResponse (s : State) : Host.Outcome State Fault Refusal :=
  s.event (fun s => do
    match ← need s.fabIn[s.arg.x]? with
    | .response tag answer k =>
      let s := s.takeMessage s.arg.x
      match SMap.find? tag s.remotes with
      | some r => if r.answer.isSome then .ok s else .ok (s.answered tag r answer k false)
      | none => .ok s
    | .refused tag =>
      let s := s.takeMessage s.arg.x
      match SMap.find? tag s.remotes with
      | some r => if r.answer.isSome then .ok s else .ok (s.answered tag r (.error .uncorrectable) Know.none true)
      | none => .ok s
    | _ => .error .hold)

/-- A request is sent again on its route (R416). -/
def State.sendAgain (s : State) (tag : Nat) (r : Remote) : State :=
  { s with remotes := s.remotes.put tag { r with last := s.tsc, sends := r.sends + 1 } }.sendVia r.route r.node
    (.request s.node tag r.ident r.op r.know r.first true)

/-- REMOTE_RESEND: request `arg.x` has had no response for 100 µs; at most 7 times. -/
def execRemoteResend (s : State) : Host.Outcome State Fault Refusal :=
  s.event (fun s => do
    let tag := s.arg.x
    let r ← need (SMap.find? tag s.remotes)
    await (r.answer.isNone && decide (r.last + 100000 ≤ s.tsc) && decide (r.sends < 8) && decide (s.tsc < r.first + 800000))
    .ok (s.sendAgain tag r))

/-- PATH_FAILURE: request `arg.x` is unanswered 800 µs after its first sending, or has no path (R416, R417). -/
def execPathFailure (s : State) : Host.Outcome State Fault Refusal :=
  s.event (fun s => do
    let tag := s.arg.x
    let r ← need (SMap.find? tag s.remotes)
    await (r.answer.isNone && (decide (r.first + 800000 ≤ s.tsc) || r.route.isNone))
    .ok (s.answered tag r (.error .uncorrectable) Know.none true))

/-- TAG_FILTER_EXPIRY: kept tag `arg.x` is 1 ms old (R173). -/
def execTagFilterExpiry (s : State) : Host.Outcome State Fault Refusal :=
  s.event (fun s => do
    let k ← need s.kept[s.arg.x]?
    await (decide (k.since + 1000000 ≤ s.tsc))
    .ok { s with kept := s.kept.eraseIdx s.arg.x })

/-! ## Flits and ports (R414 to R416, R306) -/

/-- The fabric status word (Table 18.4). -/
def State.showFabric (s : State) : State :=
  s.serviceWrite 0x10A308 8
    (s.fabric.wash.toNat * 2 ^ 40 + s.fabric.up.toNat * 2 ^ 16 + (if s.fabric.acting then 2 else 0) + (if s.fabric.synced then 1 else 0))

/-- One bit of a port mask. -/
def portBit (p : Nat) : BitVec 12 := 1#12 <<< p

/-- A request whose port has gone down takes the path that is left, and is sent again where it may be (R415 to R417). -/
def State.reroute (s : State) (tag : Nat) (r : Remote) : State :=
  let r := { r with route := s.pathTo r.node }
  if r.sends < 8 then s.sendAgain tag r else { s with remotes := s.remotes.put tag r }

/-- A port goes down: a record says so, and the requests that took it are sent again (R415). -/
def State.portDown (s : State) (p : Nat) : State :=
  let s := ({ s with fabric := { s.fabric with
      up := s.fabric.up &&& ~~~(portBit p), wash := s.fabric.wash &&& ~~~(portBit p)
      links := s.fabric.links.del p } }.post (infoRecord s.tower 10 none p 0)).showFabric
  s.remotes.foldl (fun s e =>
    if e.2.answer.isNone && decide (e.2.route = some p) then s.reroute e.1 e.2 else s) s

/-- The other end has refused flit `seq` of a port: it is sent again with every flit after it, in order; refused again, it takes the
port down (R369, R415). -/
def State.refuseFlit (s : State) (p : Nat) (seq : BitVec 16) : State :=
  let l := s.link p
  let again := l.held.dropWhile (fun h => decide (h.1 ≠ seq))
  if !s.portUp p || again.isEmpty then s
  else if l.refused = some seq then s.portDown p
  else
    { s.setLink p { l with refused := some seq } with
      flitOut := s.flitOut ++ again.map (fun h => { port := p, bytes := h.2 }) }

/-- GEGIL_FLIT_RECEIVE: the oldest flit that has arrived (R414, R415). The flits before its acknowledged sequence number are held no
more; one that is not the next in order, or is none of Table 18.3, is not taken. -/
def execGegilFlitReceive (s : State) : Host.Outcome State Fault Refusal :=
  s.event (fun s => do
    let f ← need s.flitIn.head?
    let s := { s with flitIn := s.flitIn.drop 1 }
    if !s.portUp f.port then .ok s
    else
      let l := s.link f.port
      let w := leNat (f.bytes.take 8)
      if BitVec.ofNat 64 (leNat ((f.bytes.drop 248).take 8)) ≠ crc64 (f.bytes.take 248) then
        if l.failedOnce then .ok (s.portDown f.port) else .ok (s.setLink f.port { l with failedOnce := true })
      else
        let seq := BitVec.ofNat 16 (bits w 48 16)
        let ack := BitVec.ofNat 16 (bits w 32 16)
        let held := l.held.filter (fun h => decide (2 ^ 15 ≤ (ack - h.1).toNat))
        let refused := l.refused.filter (fun n => held.any (fun h => decide (h.1 = n)))
        let l := { l with held := held, refused := refused }
        if seq = l.expect ∧ bits w 24 8 ≤ 4 ∧ bits w 0 24 = 0 then
          .ok (s.setLink f.port { l with expect := l.expect + 1, failedOnce := false })
        else .ok (s.setLink f.port l))

/-- PORT_RETRAIN: downed port `arg.x`, after a rewrite of the fabric word. -/
def execPortRetrain (s : State) : Host.Outcome State Fault Refusal :=
  s.event (fun s => do
    let p := s.arg.x
    await (s.fabric.valid && decide (p ≤ 11) && s.fabric.retrain.getLsbD p && !s.fabric.up.getLsbD p)
    .ok { s with fabric := { s.fabric with
      retrain := s.fabric.retrain &&& ~~~(portBit p), training := s.fabric.training ||| portBit p } })

/-- LINK_TRAINING_COMPLETE: port `arg.x` comes up; its hop carries wash blocks when both ends ask for it, the other end's part
being `arg.y` (R306, R416). -/
def execLinkTrainingComplete (s : State) : Host.Outcome State Fault Refusal :=
  s.event (fun s => do
    let p := s.arg.x
    await (s.fabric.valid && decide (p ≤ 11) && s.fabric.training.getLsbD p)
    let wash := decide (s.arg.y = 1) && s.fabric.washWanted.getLsbD p
    .ok { s with fabric := { s.fabric with
      training := s.fabric.training &&& ~~~(portBit p), up := s.fabric.up ||| portBit p
      wash := if wash then s.fabric.wash ||| portBit p else s.fabric.wash &&& ~~~(portBit p)
      links := s.fabric.links.del p } }.showFabric)

/-! ## The time stamp (R419) -/

/-- Steer towards the master: forward at once before synchronisation, then by rate alone; the bit is set while the tower lies within 4 ns
of the master. -/
def State.steer (s : State) (ahead : Int) : State :=
  if !s.fabric.synced && decide (0 ≤ ahead) then
    { s with tscAdjust := s.tscAdjust + ahead, fabric := { s.fabric with slew := 0, synced := true } }
  else
    { s with fabric := { s.fabric with
        slew := max (-2) (min 2 ahead), synced := decide (-4 ≤ ahead) && decide (ahead ≤ 4) } }

/-- This tower's part of a timing exchange: a flit of kind 3 (Table 18.3). -/
def State.sendTiming (s : State) (p : Nat) : State :=
  if s.portUp p then
    let n := (s.link p).messages
    (s.setLink p { s.link p with messages := n + 1 }).sendFlit p 3 ((List.range 240).map (Config.flitByte n 0))
  else s

/-- TSC_TIMING_EXCHANGE: every 10 µs each port sends its timing flit (`arg.y` = 1); message `arg.x`, measured from the flits of both
ends, gives the master's lead over this tower. -/
def execTscTimingExchange (s : State) : Host.Outcome State Fault Refusal :=
  s.event (fun s => do
    if s.arg.y = 1 then do
      await (decide (s.clocks.timing < s.tsc / 10000))
      .ok ((List.range 12).foldl State.sendTiming { s with clocks := { s.clocks with timing := s.tsc / 10000 } })
    else
    match ← need s.fabIn[s.arg.x]? with
    | .timing _ ahead master node =>
      let s := s.takeMessage s.arg.x
      if s.fabric.acting then
        if master && decide (node < s.node) then
          .ok ({ s with fabric := { s.fabric with acting := false, timed := s.tsc } }.post (infoRecord s.tower 10 none 0 0)).showFabric
        else .ok s
      else
        let s := { s with fabric := { s.fabric with timed := s.tsc } }
        .ok (s.steer ahead).showFabric
    | _ => .error .hold)

/-- TSC_SYNC_LOSS: no timing path for 1 ms. -/
def execTscSyncLoss (s : State) : Host.Outcome State Fault Refusal :=
  s.event (fun s => do
    await (s.fabric.synced && !s.fabric.acting && decide (s.fabric.timed + 1000000 ≤ s.tsc))
    .ok { s with fabric := { s.fabric with synced := false, slew := 0 } }.showFabric)

end Sys2Proof.Machine
end

