-- ==== Sys2Proof/Machine/Collect.lean ====
section
/-! DEFINITION. The collective engines: the phases of an instance, its results and its endings (R420 to R424). -/

namespace Sys2Proof.Machine

/-! ## The entry of an instance (Tables 18.6 to 18.8) -/

/-- Word `j` of the entry. -/
def Instance.w (i : Instance) (j : Nat) : Nat := dw i.words j

def Instance.op (i : Instance) : Nat := bits (i.w 0) 60 3
def Instance.fast (i : Instance) : Bool := decide (bits (i.w 0) 59 1 = 1)
def Instance.ty (i : Instance) : Nat := bits (i.w 0) 55 4
def Instance.count (i : Instance) : Nat := bits (i.w 0) 0 32
def Instance.root (i : Instance) : Nat := bits (i.w 3) 48 16

/-- The rank of a node: its place among the participants. -/
def Instance.rank (i : Instance) (node : Nat) : Nat := i.parts.findIdx (fun n => n = node)

/-- Elements to a participant of REDUCESCATTER. -/
def Instance.share (i : Instance) : Nat := ceilDiv i.count i.parts.length

/-- Elements of the destination at a rank (Table 18.7). -/
def Instance.outCount (i : Instance) (r : Nat) : Nat :=
  if i.op = 1 then min i.share (i.count - r * i.share) else if i.op = 2 then i.count * i.parts.length else i.count

/-- Bytes of `n` elements. -/
def Instance.size (i : Instance) (n : Nat) : Nat := n * typeBits i.ty / 8

/-- The type, the mode and the count are those of Table 18.7. -/
def Instance.typeOk (i : Instance) : Bool :=
  decide (i.op ≤ 3) && decide (1 ≤ i.count) && decide (i.count ≤ 2 ^ 28) &&
  (if i.op ≤ 1 then decide (11 ≤ i.ty ∧ i.ty ≤ 13) || (decide (i.ty = 6 ∨ i.ty = 7) && !i.fast) else !i.fast) &&
  (decide (typeBits i.ty ≠ 4) || decide (i.count % 2 = 0))

/-- Bits that Table 18.6 does not list. -/
def Instance.zeros (i : Instance) : Bool :=
  decide (bits (i.w 0) 53 2 = 0) && decide (bits (i.w 0) 43 1 = 0) && decide (bits (i.w 1) 57 7 = 0) &&
  decide (bits (i.w 2) 57 7 = 0) && decide (bits (i.w 3) 44 4 = 0) && decide (bits (i.w 3) 12 20 = 0) &&
  decide (bits (i.w 4) 0 24 = 0) && [5, 6, 7].all (fun j => decide (i.w j = 0)) && (decide (i.op = 3) || decide (i.root = 0))

/-- The instance is malformed (Table 18.8, result 2). -/
def State.malformed (s : State) (i : Instance) : Bool :=
  let src := i.w 1
  let dst := i.w 2
  let n := i.size i.count
  let m := i.size (i.outCount (i.rank s.node))
  !(decide (bits (i.w 0) 63 1 = 1) && i.typeOk && i.zeros && decide (src % 512 = 0) && decide (dst % 512 = 0) &&
    s.ownStore src 1 && s.ownStore dst 1 &&
    (decide (m = 0) || decide (src + n ≤ dst) || decide (dst + m ≤ src) || (decide (i.op = 0) && decide (src = dst))) &&
    (decide (i.op ≠ 3) || i.parts.contains i.root) &&
    (decide (bits (i.w 0) 52 1 = 0) ||
      match s.groupMembers (bits (i.w 0) 44 8) with
      | some ms => s.groupAdmissible (bits (i.w 0) 44 8) ms
      | none => false))

/-! ## Agreement (R421) -/

/-- The start message of a participant; one that names an excluded node is of before the exclusion. -/
def State.startOf (s : State) (c : Nat) (i : Instance) (node : Nat) : Option Start :=
  s.starts.find? (fun m => m.channel = c && m.k = i.k && m.node = node && !m.parts.any (fun p => s.base.excluded.contains p))

/-- Every participant has started the instance. -/
def State.allStarted (s : State) (c : Nat) (i : Instance) : Bool := i.parts.all (fun n => (s.startOf c i n).isSome)

/-- The values that must be equal: op, mode, type and count, root, participants. -/
def Start.agrees (m : Start) (i : Instance) : Bool :=
  decide (bits m.entry.toNat 55 8 = bits (i.w 0) 55 8) && decide (bits m.entry.toNat 0 32 = i.count) && decide (m.root = i.root) &&
    decide (m.parts = i.parts)

/-- Every participant has started with equal values. -/
def State.agreed (s : State) (c : Nat) (i : Instance) : Bool :=
  i.parts.all (fun n => match s.startOf c i n with
    | some m => m.agrees i
    | none => false)

/-! ## Sums (R422) -/

/-- Element `e` of the contribution of a participant. -/
def elemAt (ty : Nat) (bs : List Byte) (e : Nat) : Nat :=
  let n := typeBits ty
  if n = 4 then (bs.getD (e / 2) 0).toNat / 16 ^ (e % 2) % 16 else leNat ((bs.drop (n / 8 * e)).take (n / 8))

/-- Add up values two at a time in the order of the picks. -/
def fastTree : Nat → List Nat → List Nat → Nat
  | 0, _, xs => xs.headD 0
  | fuel + 1, picks, xs =>
    match xs with
    | [] => 0
    | [x] => x
    | _ =>
      let i := picks.headD 0 % xs.length
      let ys := xs.eraseIdx i
      let j := (picks.drop 1).headD 0 % ys.length
      let z := roundVal fF32 0 false (addVal 0 (fF32.value (xs.getD i 0)) (fF32.value (ys.getD j 0))).1
      fastTree fuel (picks.drop 2) (ys.eraseIdx j ++ [z.1])

/-- The engines carry records of Table 2.10: an EXACT sum of floating-point values (R69, R422). -/
def Instance.wide (i : Instance) : Bool := decide (i.op ≤ 1) && !i.fast && decide (8 ≤ i.ty)

/-- What a contribution travels as: the WideTerm of each element as 48 bytes, or the elements themselves. -/
def Instance.carried (i : Instance) (bs : List Byte) : List Byte :=
  if i.wide then
    (List.range i.count).flatMap (fun e => leBytes 48 (wideTerm ((fmtOf i.ty).value (elemAt i.ty bs e))).1.bits.toNat)
  else bs

/-- Element `e` of a contribution as it travels. -/
def Instance.carriedAt (i : Instance) (bs : List Byte) (e : Nat) : Nat :=
  if i.wide then leNat ((bs.drop (48 * e)).take 48) else elemAt i.ty bs e

/-- The sum of the contributions to one element. -/
def Instance.sum (i : Instance) (e : Nat) (xs : List Nat) : Nat :=
  if i.ty < 8 then xs.foldl (· + ·) 0 % 2 ^ 32
  else if i.fast then
    let fs := xs.map (fun x => (roundVal fF32 0 false ((fmtOf i.ty).value x)).1)
    (roundVal (fmtOf i.ty) 0 false (fF32.value (fastTree xs.length (Config.fastOrder i.k e) fs))).1
  else (wideRound (xs.foldl (fun p x => wideAdd p (Wide.ofBits (BitVec.ofNat 384 x))) Wide.empty) (fmtOf i.ty) 0).1

/-- Elements as bytes of a type. -/
def packElems (ty : Nat) (xs : List Nat) : List Byte :=
  let n := typeBits ty
  if n = 4 then
    (List.range (ceilDiv xs.length 2)).map (fun i => BitVec.ofNat 8 (xs.getD (2 * i) 0 + 16 * xs.getD (2 * i + 1) 0))
  else xs.flatMap (leBytes (n / 8))

/-- The contribution of a participant that has come. -/
def State.shareOf (s : State) (c : Nat) (i : Instance) (node : Nat) : Option (List Byte) :=
  (s.shares.find? (fun m => m.channel = c && m.k = i.k && m.node = node && m.parts = i.parts)).map (·.bytes)

/-- Every contribution has come. -/
def State.allShares (s : State) (c : Nat) (i : Instance) : Bool := i.parts.all (fun n => (s.shareOf c i n).isSome)

/-- The bytes of the destination (Table 18.7). -/
def State.outcome (s : State) (c : Nat) (i : Instance) : List Byte :=
  let bs := i.parts.map (fun n => (s.shareOf c i n).getD [])
  let r := i.rank s.node
  if i.op = 2 then bs.flatten
  else if i.op = 3 then (s.shareOf c i i.root).getD []
  else
    let first := if i.op = 1 then r * i.share else 0
    packElems i.ty ((List.range (i.outCount r)).map (fun e => i.sum (first + e) (bs.map (fun b => i.carriedAt b (first + e)))))

/-! ## The steps of an instance -/

/-- The identity of the collective engines (Table 12.6). -/
def State.collectIdent (s : State) : BitVec 32 := serviceIdent s.tower 2

/-- The engines' physical view of memory. -/
def State.collectView (s : State) : View :=
  { unit := 0, asid := none, ident := s.collectIdent, reach := .engine, astream := false, who := some .collective, grain := 8 }

/-- What this tower contributes: its source, and for BROADCAST only the root's. -/
def State.ownShare (s : State) (i : Instance) : Try (List Byte) :=
  if i.op = 3 ∧ i.root ≠ s.node then .ok []
  else do
    let bs ← s.viewRead (s.collectView.grained (typeBits i.ty)) (i.w 1) (i.size i.count)
    .ok (i.carried bs)

/-- The completion semaphore of an instance. -/
def Instance.done (i : Instance) : Nat := bits (i.w 3) 32 12

/-- The destination written, and the step of the completion semaphore within the engines' rights (R301, R424). -/
def State.writeOutcome (s : State) (c : Nat) (i : Instance) : Try State := do
  let bs := s.outcome c i
  s.semAllowed i.done s.collectIdent
  if bs = [] then .ok s else s.viewWrite s.collectView (i.w 2) bs

/-- The instance of channel `arg.x` that goes on. -/
def State.goingOn (s : State) : Try (Nat × Instance) := do
  let i ← need (s.channel s.arg.x).inst
  await (!i.stopped && s.serviceFree)
  .ok (s.arg.x, i)

/-- COLLECTIVE_DATA_PHASE: every participant has started with equal values; the source is read and sent. -/
def execCollectiveDataPhase (s : State) : Host.Outcome State Fault Refusal :=
  s.event (fun s => do
    let (c, i) ← s.goingOn
    await (!i.data && !s.malformed i && s.agreed c i)
    let bs ← s.ownShare i
    let s := s.setChannel c { s.channel c with inst := some { i with data := true } }
    let m : Share := { channel := c, k := i.k, node := s.node, parts := i.parts, bytes := bs }
    .ok ((s.keepShare m).sendCollective (i.parts.filter (fun n => decide (n ≠ s.node))) c i.k (.data m)))

/-- One arrival of a barrier's own target bytes, which publishes the destination and forwards no further (R423); a disabled barrier
posts its record. -/
def State.notifyCore (s : State) (core n : Nat) (ns : List Nat) : State :=
  let b := s.bar core n
  if b.target = 0 then
    let a : Arrival := { handle := s.handleOf core n, bytes := 0, forwarded := true, wake := false, stopped := true, task := none }
    { s with nextArrival := s.nextArrival + 1 }.stopArrival s.nextArrival a s.collectIdent .barrierMisuse false
  else s.arrive core n b.target true { party := .service, before := ns, data := ns, seen := [] }

/-- Notification of the members of gp. -/
def State.notify (s : State) (i : Instance) (ns : List Nat) : State :=
  if bits (i.w 0) 52 1 = 0 then s
  else ((s.groupMembers (bits (i.w 0) 44 8)).getD []).foldl (fun s core => s.notifyCore core (bits (i.w 0) 32 11) ns) s

/-- The step of the completion semaphore, a release of the destination's bytes (R423); one that the access table refuses is not performed, and an info record says so. -/
def State.stepDone (s : State) (i : Instance) (ns : List Nat) : State :=
  match s.semAllowed i.done s.collectIdent with
  | .ok _ => (s.postRelease i.done 3 .die .service (s.order.know .collective) ns).setSem i.done (s.sem i.done + 1)
  | .error _ => s.post { infoRecord s.tower 10 (some .access) s.arg.x 0 with ident := s.collectIdent.toNat }

/-- The instance ends: the completion semaphore is stepped once, only result 0 notifies, and the next instance may start
(R423, R424). The writes `ns` are those of its destination. -/
def State.endInstance (s : State) (c : Nat) (i : Instance) (result : Nat) (ns : List Nat) : State :=
  let ch := s.channel c
  let s := s.setChannel c { ended := ch.ended + 1, completed := ch.completed + 1, inst := none }
  let s := { s with
    starts := s.starts.filter (fun m => !(decide (m.channel = c) && decide (m.k ≤ i.k)))
    shares := s.shares.filter (fun m => !(decide (m.channel = c) && decide (m.k ≤ i.k))) }
  let s := s.stepDone i ns
  let s := if result = 0 then s.notify i ns else s
  let s := s.serviceWrite (0x10B000 + 64 * c + 32) 8 ((ch.completed + 1).toNat * 2 ^ 32 + result * 2 ^ 24)
  match s.channelEntry c with
  | some ws => s.testDoorbell (bits (dw ws 3) 0 12) (s.sem (bits (dw ws 3) 0 12)) c
  | none => s

/-- COLLECTIVE_COMPLETION: instance of channel `arg.x` ends complete, malformed, or disagreed. -/
def execCollectiveCompletion (s : State) : Host.Outcome State Fault Refusal :=
  s.event (fun s => do
    let (c, i) ← s.goingOn
    if s.malformed i then .ok ((s.endInstance c i 2 []).post (infoRecord s.tower 10 none c 0))
    else if s.allStarted c i && !s.agreed c i && !i.data then .ok ((s.endInstance c i 3 []).post (infoRecord s.tower 10 none c 0))
    else do
      await (i.data && s.allShares c i)
      let u ← s.writeOutcome c i
      .ok (u.endInstance c i 0 (u.order.since s.order.next)))

/-- Why an instance stops: a participant is excluded, or an access is refused (R424). -/
def State.stopCause (s : State) (c : Nat) (i : Instance) : Option (Cause × Nat) :=
  match i.parts.find? (fun n => s.base.excluded.contains n) with
  | some n => some (.groupSilent, n)
  | none =>
    if !i.data then
      if s.agreed c i then
        match s.ownShare i with
        | .error (.trap _ _) => some (.access, 0)
        | _ => none
      else none
    else if s.allShares c i then
      match s.writeOutcome c i with
      | .error (.trap _ _) => some (.access, 0)
      | _ => none
    else none

/-- COLLECTIVE_STOP: the instance of channel `arg.x` is held until its record is answered. -/
def execCollectiveStop (s : State) : Host.Outcome State Fault Refusal :=
  s.event (fun s => do
    let (c, i) ← s.goingOn
    await (!s.malformed i)
    let (cause, node) ← need (s.stopCause c i)
    .ok (s.stopCollective c i cause node false))

/-- COLLECTIVE_ABANDON_MESSAGE: message `arg.x` ends the instance with result 1, at once or at its own answer. -/
def execCollectiveAbandonMessage (s : State) : Host.Outcome State Fault Refusal :=
  s.event (fun s => do
    match ← need s.fabIn[s.arg.x]? with
    | .abandon c k =>
      let ch := s.channel c
      if k < ch.ended then .ok (s.takeMessage s.arg.x)
      else do
        let i ← need ch.inst
        await (decide (i.k = k) && s.serviceFree)
        let s := s.takeMessage s.arg.x
        if i.stopped then .ok (s.setChannel c { ch with inst := some { i with abandoned := true } })
        else .ok (s.endInstance c i 1 [])
    | _ => .error .hold)

/-! ## Answers (R424) -/

/-- RESUME: instance `k` starts again, or ends when it has been abandoned meanwhile. A contribution of another participant to an
instance of the same participants stands, for that participant may not have stopped. -/
def State.resumeCollective (s : State) (c : Nat) : State :=
  match (s.channel c).inst with
  | none => s
  | some i =>
    if i.abandoned then s.endInstance c i 1 []
    else s.startInstance c ((s.channelEntry c).getD [])

/-- ABANDON: result 1, and a message to the other participants. -/
def State.abandonCollective (s : State) (c : Nat) : State :=
  match (s.channel c).inst with
  | none => s
  | some i =>
    (s.sendCollective (i.parts.filter (fun n => decide (n ≠ s.node))) c i.k (.abandon c i.k)).endInstance c i 1 []

end Sys2Proof.Machine
end

