-- ==== Sys2Proof/Machine/Vector.lean ====
section
/-! DEFINITION. The integer and floating-point instructions of the X stream (R193 to R213). -/

namespace Sys2Proof.Machine

/-! ## Operands of the two formats -/

/-- Source a of an XV3 word, read as type `ty`. -/
def srcA3 (w : XV3) (ty : Nat) : Src :=
  { f := w.a, ty := ty, sg := w.sgn.getLsbD 1, reuse := w.reuse.getLsbD 1, dead := w.dead.getLsbD 1, group := 1 }

/-- Source b of an XV3 word. -/
def srcB3 (w : XV3) (ty : Nat) : Src :=
  { f := w.b, ty := ty, sg := w.sgn.getLsbD 0, reuse := w.reuse.getLsbD 0, dead := w.dead.getLsbD 0, group := 1 }

/-- Source a of an XV4 word. -/
def srcA4 (w : XV4) (ty : Nat) : Src :=
  { f := w.a, ty := ty, sg := w.sgn.getLsbD 1, reuse := false, dead := w.dead.getLsbD 2, group := 1 }

/-- Source b of an XV4 word. -/
def srcB4 (w : XV4) (ty : Nat) : Src :=
  { f := w.b, ty := ty, sg := w.sgn.getLsbD 0, reuse := false, dead := w.dead.getLsbD 1, group := 1 }

/-- Source c of an XV4 word: extended by the type's signedness (R92). -/
def srcC4 (w : XV4) (ty : Nat) : Src :=
  { f := w.c, ty := ty, sg := typeSigned ty, reuse := false, dead := w.dead.getLsbD 0, group := 1 }

/-- Source a of an XI word: extended by the type's signedness (R92). -/
def srcAI (w : XI) (ty : Nat) : Src :=
  { f := w.a, ty := ty, sg := typeSigned ty, reuse := false, dead := false, group := 1 }

/-- No checks of an instruction's own. -/
def noOwn (_ : Task) : Try Unit := .ok ()

/-! ## Timing classes (Table 8.1): interval and latency -/

/-- I8 to I64, by the bits of the type. -/
def timeInt (t : Nat) : Nat × Nat :=
  if typeBits t ≤ 8 then (1, 3) else if typeBits t = 16 then (2, 4) else if typeBits t = 32 then (4, 6) else (8, 6)

/-- VMUL, VMULH and VMAD: M32 at 32 bits. -/
def timeMul (t : Nat) : Nat × Nat := if typeBits t = 32 then (4, 8) else timeInt t

def timeDot (_ : Nat) : Nat × Nat := (2, 6)

/-- F16, F32 and F64. -/
def timeFloat (t : Nat) : Nat × Nat := if typeBits t = 16 then (2, 7) else if typeBits t = 32 then (4, 9) else (8, 9)

def timeTr (_ : Nat) : Nat × Nat := (8, 24)

/-! ## Forms -/

/-- One source of type `ta`, a vector result of type `td`. -/
def State.xv1 (s : State) (w : XV3) (ta td : Nat) (time : Nat × Nat) (f : Nat → Int → Int × Flags) :
    Host.Outcome State Fault Refusal :=
  s.xOp { k := w.k, srcs := [srcA3 w ta], dsts := [{ f := w.d, ty := td, group := 1 }], md := w.md,
          interval := fun _ => time.1, latency := time.2 } noOwn
    (fun x => vecRes td (decide (w.sat = 1)) (x.dst 0) x.mask x.act (mapAct (f (x.dst 0).length) x.act (x.src 0)))

/-- Two sources of types `ta` and `tb`; the function also sees the width of the destination. -/
def State.xv2 (s : State) (w : XV3) (ta tb td : Nat) (time : Nat × Nat) (f : Nat → Int → Int → Int × Flags) :
    Host.Outcome State Fault Refusal :=
  s.xOp { k := w.k, srcs := [srcA3 w ta, srcB3 w tb], dsts := [{ f := w.d, ty := td, group := 1 }], md := w.md,
          interval := fun _ => time.1, latency := time.2 } noOwn
    (fun x => vecRes td (decide (w.sat = 1)) (x.dst 0) x.mask x.act
      (mapAct2 (f (x.dst 0).length) x.act (x.src 0) (x.src 1)))

/-- Three sources of one type. -/
def State.xv3 (s : State) (w : XV4) (ty : Nat) (time : Nat × Nat) (own : Task → Try Unit)
    (f : Int → Int → Int → Int × Flags) : Host.Outcome State Fault Refusal :=
  s.xOp { k := w.k, srcs := [srcA4 w ty, srcB4 w ty, srcC4 w ty], dsts := [{ f := w.d, ty := ty, group := 1 }], md := 0,
          interval := fun _ => time.1, latency := time.2 } own
    (fun x => vecRes ty (decide (w.sat = 1)) (x.dst 0) x.mask x.act
      (mapAct3 f x.act (x.src 0) (x.src 1) (x.src 2)))

/-- A comparison: a predicate result (R202). -/
def State.xcmp (s : State) (w : XV3) (f : Int → Int → Int × Flags) : Host.Outcome State Fault Refusal :=
  s.xOp { k := w.k, srcs := [srcA3 w w.ty.toNat, srcB3 w w.ty.toNat], dsts := [], md := w.md,
          interval := fun _ => (timeInt w.ty.toNat).1, latency := (timeInt w.ty.toNat).2 } noOwn
    (fun x =>
      let r := mapAct2 f x.act (x.src 0) (x.src 1)
      predRes (w.d.toNat % 8) x.mask (r.1.map (fun v => decide (v ≠ 0))) r.2)

/-- An integer instruction of two sources, its exact value placed by IntResult (R197). -/
def State.xint2 (s : State) (w : XV3) (time : Nat → Nat × Nat) (f : Int → Int → Int) : Host.Outcome State Fault Refusal :=
  s.xv2 w w.ty.toNat w.ty.toNat w.ty.toNat (time w.ty.toNat)
    (fun _ x y => intResult (f x y) w.ty.toNat (decide (w.sat = 1)))

/-- An integer instruction of one source. -/
def State.xint1 (s : State) (w : XV3) (f : Int → Int) : Host.Outcome State Fault Refusal :=
  s.xv1 w w.ty.toNat w.ty.toNat (timeInt w.ty.toNat) (fun _ x => intResult (f x) w.ty.toNat (decide (w.sat = 1)))

/-- A pattern result of two patterns (R197). -/
def State.xpat2 (s : State) (w : XV3) (f : Nat → Nat → Nat) : Host.Outcome State Fault Refusal :=
  let n := typeBits w.ty.toNat
  s.xv2 w w.ty.toNat w.ty.toNat w.ty.toNat (timeInt w.ty.toNat)
    (fun _ x y => intResult (f (intPat n x) (intPat n y)) w.ty.toNat false)

/-- An integer instruction of three sources. -/
def State.xint3 (s : State) (w : XV4) (time : Nat → Nat × Nat) (f : Int → Int → Int → Int) :
    Host.Outcome State Fault Refusal :=
  s.xv3 w w.ty.toNat (time w.ty.toNat) noOwn (fun x y z => intResult (f x y z) w.ty.toNat (decide (w.sat = 1)))

/-! ## Integer instructions (Table 8.3) -/

/-- The shift count of R199: outside 0 to n − 1 it is n. -/
def shiftCount (n : Nat) (y : Int) : Nat := if 0 ≤ y ∧ y < n then y.toNat else n

/-- A signed rational of denominator 2^s rounded to an integer (R200). -/
def roundRatio (v : Int) (s mode : Nat) : Int :=
  let r := (roundShift v.natAbs s false (decide (v < 0)) mode).1
  if v < 0 then -(r : Int) else r

/-- Leading zero bits of an n-bit pattern. -/
def leadingZeros (n p : Nat) : Nat := if p = 0 then n else n - 1 - Nat.log2 p

/-- An element of a dot product: bits [e(j+1) − 1 : ej], signed or not (R201). -/
def dotElem (e j : Nat) (sg : Bool) (p : Nat) : Int := patInt e sg (p / 2 ^ (e * j) % 2 ^ e)

/-- VDOT4 and VDOT8: `m` elements of `e` bits (R201). -/
def dotSum (e m : Nat) (sa sb : Bool) (x y z : Int) : Int :=
  let pa := intPat 32 x
  let pb := intPat 32 y
  (List.range m).foldl (fun acc j => acc + dotElem e j sa pa * dotElem e j sb pb) z

/-- Sources a and b of a dot product have 8 slices; a constant has no width (R201). -/
def dotWidths (w : XV4) (_ : Task) : Try Unit :=
  require ((decide (w.a.toNat / 16 ≥ 8064) || decide (widthOf w.a = 8)) &&
    (decide (w.b.toNat / 16 ≥ 8064) || decide (widthOf w.b = 8))) .reservedField

/-- A dot product (R201). -/
def State.xdot (s : State) (w : XV4) (e m : Nat) : Host.Outcome State Fault Refusal :=
  s.xv3 w w.ty.toNat (timeDot w.ty.toNat) (dotWidths w)
    (fun x y z => intResult (dotSum e m (w.sgn.getLsbD 1) (w.sgn.getLsbD 0) x y z) w.ty.toNat (decide (w.sat = 1)))

/-- The comparisons of R114 on integers. -/
def intCompare (fn : Nat) (x y : Int) : Bool :=
  if fn = 0 then decide (x = y) else if fn = 1 then decide (x ≠ y) else if fn = 2 then decide (x < y)
  else if fn = 3 then decide (x ≤ y) else if fn = 4 then decide (y < x) else decide (y ≤ x)

def execVadd (w : XV3) (s : State) : Host.Outcome State Fault Refusal :=
  s.xint2 w timeInt (fun x y => x + y)

def execVsub (w : XV3) (s : State) : Host.Outcome State Fault Refusal :=
  s.xint2 w timeInt (fun x y => x - y)

def execVmul (w : XV3) (s : State) : Host.Outcome State Fault Refusal :=
  s.xint2 w timeMul (fun x y => x * y)

def execVmulh (w : XV3) (s : State) : Host.Outcome State Fault Refusal :=
  s.xint2 w timeMul (fun x y => x * y / 2 ^ typeBits w.ty.toNat)

def execVmad (w : XV4) (s : State) : Host.Outcome State Fault Refusal :=
  s.xint3 w timeMul (fun x y z => x * y + z)

def execVdot4 (w : XV4) (s : State) : Host.Outcome State Fault Refusal :=
  s.xdot w 4 8

def execVdot8 (w : XV4) (s : State) : Host.Outcome State Fault Refusal :=
  s.xdot w 8 4

def execVmin (w : XV3) (s : State) : Host.Outcome State Fault Refusal :=
  s.xint2 w timeInt (fun x y => min x y)

def execVmax (w : XV3) (s : State) : Host.Outcome State Fault Refusal :=
  s.xint2 w timeInt (fun x y => max x y)

def execVabs (w : XV3) (s : State) : Host.Outcome State Fault Refusal :=
  s.xint1 w (fun x => (x.natAbs : Int))

/-- The result is placed under the N type of the same width. -/
def execVabsd (w : XV3) (s : State) : Host.Outcome State Fault Refusal :=
  let tn := w.ty.toNat / 2 * 2 + 1
  s.xv2 w w.ty.toNat w.ty.toNat tn (timeInt w.ty.toNat) (fun _ x y => intResult ((x - y).natAbs : Int) tn (decide (w.sat = 1)))

def execVneg (w : XV3) (s : State) : Host.Outcome State Fault Refusal :=
  s.xint1 w (fun x => -x)

/-- R200. -/
def execVavg (w : XV3) (s : State) : Host.Outcome State Fault Refusal :=
  s.xint2 w timeInt (fun x y => roundRatio (x + y) 1 w.rnd.toNat)

/-- R199. -/
def execVshl (w : XV3) (s : State) : Host.Outcome State Fault Refusal :=
  s.xint2 w timeInt (fun x y => x * 2 ^ shiftCount (typeBits w.ty.toNat) y)

/-- R199. -/
def execVshr (w : XV3) (s : State) : Host.Outcome State Fault Refusal :=
  let n := typeBits w.ty.toNat
  s.xv2 w w.ty.toNat w.ty.toNat w.ty.toNat (timeInt w.ty.toNat)
    (fun _ x y => intResult ((intPat n x / 2 ^ shiftCount n y : Nat) : Int) w.ty.toNat false)

/-- R199. -/
def execVsra (w : XV3) (s : State) : Host.Outcome State Fault Refusal :=
  let n := typeBits w.ty.toNat
  s.xv2 w w.ty.toNat w.ty.toNat w.ty.toNat (timeInt w.ty.toNat)
    (fun _ x y => intResult (patInt n true (intPat n x) / 2 ^ shiftCount n y) w.ty.toNat false)

/-- A rounding shift that always saturates, to the narrower of destination and type (R200). A count of 64 and a larger one
round every value of 33 bits alike. -/
def execVrsh (w : XV3) (s : State) : Host.Outcome State Fault Refusal :=
  s.xv2 w w.ty.toNat w.ty.toNat w.ty.toNat (timeInt w.ty.toNat)
    (fun wd x y => satInt (roundRatio x (min 64 (max y 0).toNat) w.rnd.toNat) (min (4 * wd) (typeBits w.ty.toNat))
      (typeSigned w.ty.toNat))

def execVand (w : XV3) (s : State) : Host.Outcome State Fault Refusal :=
  s.xpat2 w (fun x y => x &&& y)

def execVor (w : XV3) (s : State) : Host.Outcome State Fault Refusal :=
  s.xpat2 w (fun x y => x ||| y)

def execVxor (w : XV3) (s : State) : Host.Outcome State Fault Refusal :=
  s.xpat2 w (fun x y => x ^^^ y)

def execVandn (w : XV3) (s : State) : Host.Outcome State Fault Refusal :=
  s.xpat2 w (fun x y => x &&& (2 ^ typeBits w.ty.toNat - 1 - y))

def execVnot (w : XV3) (s : State) : Host.Outcome State Fault Refusal :=
  let n := typeBits w.ty.toNat
  s.xv1 w w.ty.toNat w.ty.toNat (timeInt w.ty.toNat)
    (fun _ x => intResult ((2 ^ n - 1 - intPat n x : Nat) : Int) w.ty.toNat false)

def execVpopc (w : XV3) (s : State) : Host.Outcome State Fault Refusal :=
  s.xint1 w (fun x => (((List.range (typeBits w.ty.toNat)).foldl
    (fun acc i => acc + intPat (typeBits w.ty.toNat) x / 2 ^ i % 2) 0 : Nat) : Int))

def execVclz (w : XV3) (s : State) : Host.Outcome State Fault Refusal :=
  s.xint1 w (fun x => ((leadingZeros (typeBits w.ty.toNat) (intPat (typeBits w.ty.toNat) x) : Nat) : Int))

/-- Bit patterns move unchanged; the condition is the pattern of c (R198). -/
def execVsel (w : XV4) (s : State) : Host.Outcome State Fault Refusal :=
  s.xv3 w w.ty.toNat (timeInt w.ty.toNat) noOwn (fun x y z =>
    let v := if z ≠ 0 then x else y
    if typeFloat w.ty.toNat then (v, 0) else intResult v w.ty.toNat false)

/-- R202. -/
def execVcmp (w : XV3) (s : State) : Host.Outcome State Fault Refusal :=
  s.xcmp w (fun x y => (if intCompare w.fn.toNat x y then 1 else 0, 0))

def execVclamp (w : XV4) (s : State) : Host.Outcome State Fault Refusal :=
  s.xint3 w timeInt (fun x y z => min (max x y) z)

/-! ## Floating-point instructions (Table 8.5) -/

/-- The value of a pattern of a real type. -/
def valOf (t : Nat) (x : Int) : Val := (fmtOf t).value x.toNat

/-- Round a value into a real type, with the word's rounding code and sat bit (R59, R61). -/
def toType (t : Nat) (rnd : BitVec 3) (sat : BitVec 1) (v : Val × Flags) : Int × Flags :=
  let r := roundVal (fmtOf t) rnd.toNat (satsel t (decide (sat = 1))) v.1
  ((r.1 : Int), v.2 ||| r.2)

/-- A signalling NaN among the operands sets NV (R57). -/
def snanFlag (vs : List Val) : Flags := flagIf (vs.any (fun v => decide (v = .nan true))) flagNV

/-- Bits of a component of a complex type. -/
def partBits (t : Nat) : Nat := if t = 14 then 16 else 32

/-- The real and the imaginary part of a complex pattern (R56). -/
def parts (t : Nat) (x : Int) : Nat × Nat := (x.toNat % 2 ^ partBits t, x.toNat / 2 ^ partBits t)

/-- A complex pattern from its parts. -/
def ofParts (t : Nat) (re im : Int) : Int := re + im * 2 ^ partBits t

/-- Apply a function on values to a real type, or to each part of a complex one (R203). -/
def floatBy2 (t : Nat) (rnd : BitVec 3) (sat : BitVec 1) (f : Val → Val → Val × Flags) (x y : Int) : Int × Flags :=
  if 14 ≤ t then
    let a := parts t x
    let b := parts t y
    let re := toType t rnd sat (f (valOf t a.1) (valOf t b.1))
    let im := toType t rnd sat (f (valOf t a.2) (valOf t b.2))
    (ofParts t re.1 im.1, re.2 ||| im.2)
  else toType t rnd sat (f (valOf t x) (valOf t y))

/-- A floating instruction of two sources. -/
def State.xfloat2 (s : State) (w : XV3) (time : Nat → Nat × Nat) (f : Val → Val → Val × Flags) :
    Host.Outcome State Fault Refusal :=
  s.xv2 w w.ty.toNat w.ty.toNat w.ty.toNat (time w.ty.toNat) (fun _ x y => floatBy2 w.ty.toNat w.rnd w.sat f x y)

/-- A floating instruction of three sources (R205). -/
def State.xfloat3 (s : State) (w : XV4) (f : Val → Val → Val → Val × Flags) : Host.Outcome State Fault Refusal :=
  let t := w.ty.toNat
  s.xv3 w t (timeFloat t) noOwn (fun x y z => toType t w.rnd w.sat (f (valOf t x) (valOf t y) (valOf t z)))

/-- `(± x × y) ± z`, rounded once (R205). -/
def fusedVal (mode : Nat) (negProduct negAddend : Bool) (x y z : Val) : Val × Flags :=
  let p := mulVal x y
  let r := addVal mode (if negProduct then p.1.negate else p.1) (if negAddend then z.negate else z)
  (r.1, p.2 ||| r.2)

/-- The order of R206 on values that are no NaN: −0 lies below +0. -/
def valBelow : Val → Val → Bool
  | .inf a, .inf b => a && !b
  | .inf a, _ => a
  | _, .inf b => !b
  | .fin x, .fin y =>
    let e := min x.exp y.exp
    let u := x.scaled e
    let v := y.scaled e
    decide (u < v) || (decide (u = v) && x.isZero && y.isZero && x.neg && !y.neg)
  | _, _ => false

/-- A value is a NaN. -/
def Val.isNaN : Val → Bool
  | .nan _ => true
  | _ => false

/-- VFMIN and VFMAX: an operand unchanged, or the canonical NaN (R206). -/
def minMax (t : Nat) (isMax : Bool) (x y : Int) : Int × Flags :=
  let a := valOf t x
  let b := valOf t y
  let fl := snanFlag [a, b]
  if a.isNaN && b.isNaN then (((fmtOf t).nanCode : Int), fl)
  else if a.isNaN then (y, fl)
  else if b.isNaN then (x, fl)
  else if isMax then (if valBelow a b then y else x, fl)
  else (if valBelow b a then y else x, fl)

/-- A pattern of a part with its sign bit changed; a NaN becomes canonical, without a flag (R204). -/
def signOp (t : Nat) (f : Bool → Bool) (x : Nat) : Int :=
  let m := fmtOf t
  if (m.value x).isNaN then (m.nanCode : Int)
  else
    let top := 2 ^ (m.eb + m.mb)
    ((m.signed (f (decide (x / top % 2 = 1))) (x % top) : Nat) : Int)

/-- VFABS and VFNEG (R204). -/
def State.xsign (s : State) (w : XV3) (f : Bool → Bool) : Host.Outcome State Fault Refusal :=
  let t := w.ty.toNat
  s.xv1 w t t (timeInt t) (fun _ x =>
    if 14 ≤ t then
      let a := parts t x
      (ofParts t (signOp t f a.1) (signOp t f a.2), 0)
    else (signOp t f x.toNat, 0))

/-- VFCMP of two values (R207): the result and NV. −0 equals +0. -/
def floatCompare (fn : Nat) (a b : Val) : Bool × Flags :=
  if a.isNaN || b.isNaN then
    (decide (fn = 1) || decide (fn = 6), if 2 ≤ fn ∧ fn ≤ 5 then flagNV else snanFlag [a, b])
  else
    let eq := match a, b with
      | .inf p, .inf q => decide (p = q)
      | .fin x, .fin y => decide (x.scaled (min x.exp y.exp) = y.scaled (min x.exp y.exp))
      | _, _ => false
    let lt := valBelow a b && !eq
    (if fn = 0 then eq else if fn = 1 then !eq else if fn = 2 then lt else if fn = 3 then lt || eq
      else if fn = 4 then !lt && !eq else if fn = 5 then !lt else decide (fn = 7), 0)

/-- The class mask of R208. -/
def classMask (f : Fmt) (x : Nat) : Nat :=
  let neg := decide (x / 2 ^ (f.eb + f.mb) % 2 = 1)
  match f.value x with
  | .nan sig => if sig then 256 else 512
  | .inf n => if n then 1 else 128
  | .fin v =>
    if v.mag = 0 then (if neg then 8 else 16)
    else if x / 2 ^ f.mb % 2 ^ f.eb = 0 then (if neg then 4 else 32)
    else (if neg then 2 else 64)

/-- A function of the TR class: special operands, or the correctly rounded value (R209). -/
def State.xtr1 (s : State) (w : XV3) (f : Fmt → Nat → Bool → Val → Nat × Flags) : Host.Outcome State Fault Refusal :=
  let t := w.ty.toNat
  s.xv1 w t t (timeTr t) (fun _ x =>
    let v := valOf t x
    let m := fmtOf t
    match v with
    | .nan sg => ((m.nanCode : Int), flagIf sg flagNV)
    | _ => let r := f m w.rnd.toNat (satsel t (decide (w.sat = 1))) v
           ((r.1 : Int), r.2))

/-- 1 / x (Table 8.7). -/
def recipVal (m : Fmt) (rnd : Nat) (sel : Bool) : Val → Nat × Flags
  | .inf n => (m.signed n 0, 0)
  | .fin x => if x.isZero then (m.signed x.neg m.infCode, flagDZ)
              else roundFloat m rnd sel ((Exact.ofInt 1).div x)
  | .nan _ => (m.nanCode, 0)

/-- 1 / √x (Table 8.7). -/
def rsqrtVal (m : Fmt) (rnd : Nat) (sel : Bool) : Val → Nat × Flags
  | .inf n => if n then (m.nanCode, flagNV) else (0, 0)
  | .fin x =>
    if x.isZero then (m.signed x.neg m.infCode, flagDZ)
    else if x.neg then (m.nanCode, flagNV)
    else roundFloat m rnd sel x.rsqrt
  | .nan _ => (m.nanCode, 0)

/-- √x (Table 8.7). -/
def sqrtVal (m : Fmt) (rnd : Nat) (sel : Bool) : Val → Nat × Flags
  | .inf n => if n then (m.nanCode, flagNV) else (m.infCode, 0)
  | .fin x =>
    if x.isZero then (m.signed x.neg 0, 0)
    else if x.neg then (m.nanCode, flagNV)
    else roundFloat m rnd sel x.sqrt
  | .nan _ => (m.nanCode, 0)

/-- 2^x (Table 8.7). -/
def exp2Val (m : Fmt) (rnd : Nat) (sel : Bool) : Val → Nat × Flags
  | .inf n => (if n then 0 else m.infCode, 0)
  | .fin x => exp2 m rnd sel x
  | .nan _ => (m.nanCode, 0)

/-- log2 x (Table 8.7). -/
def log2Val (m : Fmt) (rnd : Nat) (sel : Bool) : Val → Nat × Flags
  | .inf n => if n then (m.nanCode, flagNV) else (m.infCode, 0)
  | .fin x =>
    if x.isZero then (m.signed true m.infCode, flagDZ)
    else if x.neg then (m.nanCode, flagNV)
    else log2 m rnd sel x
  | .nan _ => (m.nanCode, 0)

/-- x / y (Table 8.7). -/
def divVal (m : Fmt) (rnd : Nat) (sel : Bool) (x y : Val) : Nat × Flags :=
  match x, y with
  | .nan a, .nan b => (m.nanCode, flagIf (a || b) flagNV)
  | .nan a, _ => (m.nanCode, flagIf a flagNV)
  | _, .nan b => (m.nanCode, flagIf b flagNV)
  | .inf _, .inf _ => (m.nanCode, flagNV)
  | .inf a, .fin v => (m.signed (a != v.neg) m.infCode, 0)
  | .fin u, .inf b => (m.signed (u.neg != b) 0, 0)
  | .fin u, .fin v =>
    if v.isZero then (if u.isZero then (m.nanCode, flagNV) else (m.signed (u.neg != v.neg) m.infCode, flagDZ))
    else if u.isZero then (m.signed (u.neg != v.neg) 0, 0)
    else roundFloat m rnd sel (u.div v)

/-- The exponents VFSCL adds beyond which every finite value overflows, or falls below half the smallest subnormal. -/
def scaleClamp (y : Int) : Int := max (-1000) (min 1000 y)

/-- x × 2^y (R210). -/
def scaleVal (y : Int) : Val → Val
  | .fin x => if x.isZero then .fin x else .fin (x.shift (scaleClamp y))
  | v => v

def execVfadd (w : XV3) (s : State) : Host.Outcome State Fault Refusal :=
  s.xfloat2 w timeFloat (addVal w.rnd.toNat)

def execVfsub (w : XV3) (s : State) : Host.Outcome State Fault Refusal :=
  s.xfloat2 w timeFloat (fun x y => addVal w.rnd.toNat x y.negate)

def execVfmul (w : XV3) (s : State) : Host.Outcome State Fault Refusal :=
  s.xfloat2 w timeFloat mulVal

def execVfma (w : XV4) (s : State) : Host.Outcome State Fault Refusal :=
  s.xfloat3 w (fusedVal w.rnd.toNat false false)

def execVfms (w : XV4) (s : State) : Host.Outcome State Fault Refusal :=
  s.xfloat3 w (fusedVal w.rnd.toNat false true)

def execVfnma (w : XV4) (s : State) : Host.Outcome State Fault Refusal :=
  s.xfloat3 w (fusedVal w.rnd.toNat true false)

def execVfmin (w : XV3) (s : State) : Host.Outcome State Fault Refusal :=
  s.xv2 w w.ty.toNat w.ty.toNat w.ty.toNat (timeInt w.ty.toNat) (fun _ => minMax w.ty.toNat false)

def execVfmax (w : XV3) (s : State) : Host.Outcome State Fault Refusal :=
  s.xv2 w w.ty.toNat w.ty.toNat w.ty.toNat (timeInt w.ty.toNat) (fun _ => minMax w.ty.toNat true)

def execVfabs (w : XV3) (s : State) : Host.Outcome State Fault Refusal :=
  s.xsign w (fun _ => false)

def execVfneg (w : XV3) (s : State) : Host.Outcome State Fault Refusal :=
  s.xsign w (fun b => !b)

/-- R202, R207. -/
def execVfcmp (w : XV3) (s : State) : Host.Outcome State Fault Refusal :=
  s.xcmp w (fun x y =>
    let r := floatCompare w.fn.toNat (valOf w.ty.toNat x) (valOf w.ty.toNat y)
    (if r.1 then 1 else 0, r.2))

/-- The class mask is written as an .N16 value, and no flag is set (R208). -/
def execVfclass (w : XV3) (s : State) : Host.Outcome State Fault Refusal :=
  s.xOp { k := w.k, srcs := [srcA3 w w.ty.toNat], dsts := [{ f := w.d, ty := 5, group := 1 }], md := w.md,
          interval := fun _ => (timeInt w.ty.toNat).1, latency := (timeInt w.ty.toNat).2 } noOwn
    (fun x =>
      { vecRes 5 (decide (w.sat = 1)) (x.dst 0) x.mask x.act
          (mapAct (fun v => ((classMask (fmtOf w.ty.toNat) v.toNat : Nat), 0)) x.act (x.src 0)) with flags := 0 })

def execVrcp (w : XV3) (s : State) : Host.Outcome State Fault Refusal :=
  s.xtr1 w recipVal

def execVrsq (w : XV3) (s : State) : Host.Outcome State Fault Refusal :=
  s.xtr1 w rsqrtVal

def execVsqrt (w : XV3) (s : State) : Host.Outcome State Fault Refusal :=
  s.xtr1 w sqrtVal

def execVdiv (w : XV3) (s : State) : Host.Outcome State Fault Refusal :=
  let t := w.ty.toNat
  s.xv2 w t t t (timeTr t) (fun _ x y =>
    let r := divVal (fmtOf t) w.rnd.toNat (satsel t (decide (w.sat = 1))) (valOf t x) (valOf t y)
    ((r.1 : Int), r.2))

def execVexp2 (w : XV3) (s : State) : Host.Outcome State Fault Refusal :=
  s.xtr1 w exp2Val

def execVlog2 (w : XV3) (s : State) : Host.Outcome State Fault Refusal :=
  s.xtr1 w log2Val

/-- Source b is an .I32 count (R210). -/
def execVfscl (w : XV3) (s : State) : Host.Outcome State Fault Refusal :=
  let t := w.ty.toNat
  s.xv2 w t 6 t (timeFloat t) (fun _ x y => toType t w.rnd w.sat (scaleVal y (valOf t x), 0))

end Sys2Proof.Machine
end

