-- ==== Sys2Proof/Machine/Convert.lean ====
section
/-! DEFINITION. Conversion, quantisation and scale registers (R214 to R223). -/

namespace Sys2Proof.Machine

/-! ## Conversion -/

/-- One converted value of real types (R218). -/
def convertReal (ts td : Nat) (rnd : BitVec 3) (sat : BitVec 1) (x : Int) : Int × Flags :=
  if typeFloat ts && typeFloat td then toType td rnd sat (valOf ts x, 0)
  else if typeFloat ts then
    let v := valOf ts x
    let r := floatToInt td rnd.toNat v
    (r.1, r.2)
  else if typeFloat td then toType td rnd sat (.fin (Exact.ofInt x), 0)
  else intResult x td (decide (sat = 1))

/-- A conversion, of each part for complex types (R218). -/
def convert (ts td : Nat) (rnd : BitVec 3) (sat : BitVec 1) (x : Int) : Int × Flags :=
  if 14 ≤ td then
    let a := parts ts x
    let re := toType td rnd sat (valOf ts a.1, 0)
    let im := toType td rnd sat (valOf ts a.2, 0)
    (ofParts td re.1 im.1, re.2 ||| im.2)
  else convertReal ts td rnd sat x

def execVcvt (w : XV3) (s : State) : Host.Outcome State Fault Refusal :=
  let td := w.ty.toNat
  let ts := w.fn.toNat % 16
  s.xv1 w ts td (if typeBits td ≤ 16 then 2 else 4, 8) (fun _ x => convert ts td w.rnd w.sat x)

/-- The residue type of VCVTE (Table 4.7). -/
def residueType (fn : BitVec 3) : Nat := if fn = 0 then 13 else if fn = 1 then 12 else 11

/-- The residue operand is in the register file and has exactly its type's width (R219). -/
def residueOk (w : XV4) (_ : Task) : Try Unit := do
  require (decide (w.c.toNat / 16 < 6144)) .badOperand
  require (decide (4 * widthOf w.c = typeBits (residueType w.fn))) .reservedField

/-- Conversion with error feedback: the residue is a source and a second destination, which lands after the first (R219). -/
def execVcvte (w : XV4) (s : State) : Host.Outcome State Fault Refusal :=
  let td := w.ty.toNat
  let tc := residueType w.fn
  s.xOp { k := w.k, srcs := [srcA4 w 13, srcC4 w tc], dsts := [{ f := w.d, ty := td, group := 1 }, { f := w.c, ty := tc, group := 1 }],
          md := 0, interval := fun _ => if typeBits td ≤ 16 ∧ typeBits tc ≤ 16 then 2 else 4, latency := 8 } (residueOk w)
    (fun x =>
      let each := mapAct2 (fun a c =>
        let r := errorFeedback (valOf 13 a) (valOf tc c) td tc
        ((r.1 : Int) + (r.2.1 : Int) * 2 ^ 64, r.2.2)) x.act (x.src 0) (x.src 1)
      let d := each.1.map (fun v =>
        let p : Nat := v.toNat % 2 ^ 64
        if typeFloat td then (p : Int) else patInt (typeBits td) (typeSigned td) p)
      let c := each.1.map (fun v => ((v.toNat / 2 ^ 64 : Nat) : Int))
      (vecRes td false (x.dst 0) x.mask x.act (d, each.2)).join (vecRes tc false (x.dst 1) x.mask x.act (c, 0)))

/-! ## Quantisation (R220 to R222) -/

/-- Lanes cut into blocks of `b`. -/
def blocks {α : Type} (b : Nat) : Nat → List α → List (List α)
  | 0, _ => []
  | n + 1, xs => xs.take b :: blocks b n (xs.drop b)

/-- Put codes back into the active lanes of a block. -/
def spread : List Bool → List Nat → Lanes
  | [], _ => []
  | true :: bs, c :: cs => (c : Int) :: spread bs cs
  | true :: bs, [] => 0 :: spread bs []
  | false :: bs, cs => 0 :: spread bs cs

/-- The values of the active lanes of a block. -/
def activeVals (act : List Bool) (x : Lanes) : Lanes := ((act.zip x).filter (·.1)).map (·.2)

/-- The block size of VQMX and VAMAX (Table 4.7). -/
def blockSize (fn : BitVec 7) : Nat := if fn.getLsbD 4 then 256 else 32

/-- One block quantised: its lanes, its scale if it has an active lane, and flags (R220). -/
def quantBlock (ts te rnd : Nat) (act : List Bool) (x : Lanes) : Lanes × Option Nat × Flags :=
  let vs := activeVals act x
  if vs.isEmpty then (act.map (fun _ => 0), none, 0)
  else
    let r := quantiseMX (vs.map (valOf ts)) te rnd
    (spread act r.2.1, some r.1, r.2.2)

/-- The scale values of a list of blocks of `per` values each: mask and value. -/
def scaleVals (per : Nat) (bs : List (Option Nat)) : BitVec 16 × BitVec 128 :=
  let vs : List (Option Nat) := bs.flatMap (fun b => List.replicate per b)
  (BitVec.ofNat 16 (vs.foldr (fun v acc => acc * 2 + (if v.isSome then 1 else 0)) 0),
    BitVec.ofNat 128 (vs.foldr (fun v acc => acc * 256 + v.getD 0) 0))

/-- Codes in the destination and one scale per block, landing together (R220). -/
def execVqmx (w : XV3) (s : State) : Host.Outcome State Fault Refusal :=
  let te := w.ty.toNat
  let ts := w.fn.toNat % 16
  let b := blockSize w.fn
  s.xOp { k := w.k, srcs := [srcA3 w ts], dsts := [{ f := w.d, ty := te, group := 1 }], md := w.md,
          interval := fun _ => 4, latency := 12 } noOwn
    (fun x =>
      let r := ((blocks b (512 / b) x.act).zip (blocks b (512 / b) (x.src 0))).map
        (fun p => quantBlock ts te w.rnd.toNat p.1 p.2)
      let sc := scaleVals (b / 32) (r.map (·.2.1))
      (vecRes te false (x.dst 0) x.mask x.act ((r.map (·.1)).flatten, r.foldl (fun a q => a ||| q.2.2) 0)).join
        { outs := [(.scale (w.b.toNat % 64) sc.1 sc.2, 0)], flags := 0 })

/-- Value `j` of a scale register as read at issue (R217). -/
def Task.scaleValue (t : Task) (e j : Nat) : Nat := bits (t.scales.get scaleStart e).toNat (8 * j) 8

/-- R221. -/
def execVdqmx (w : XV3) (s : State) : Host.Outcome State Fault Refusal :=
  let td := w.ty.toNat
  let te := w.fn.toNat % 16
  s.xOp { k := w.k, srcs := [srcA3 w te], dsts := [{ f := w.d, ty := td, group := 1 }], md := w.md,
          interval := fun _ => if typeBits td = 16 then 2 else 4, latency := 8 } noOwn
    (fun x =>
      let sc : Lanes := (List.range 512).map (fun l => (x.t.scaleValue (w.b.toNat % 64) (l / 32) : Nat))
      vecRes td (decide (w.sat = 1)) (x.dst 0) x.mask x.act
        (mapAct2 (fun c e => toType td w.rnd w.sat (mxValue (valOf te c) e.toNat, snanFlag [valOf te c])) x.act (x.src 0) sc))

/-- The largest magnitude of a block, and NV (R222). -/
def blockMax (t : Nat) (vs : Lanes) : Nat × Flags :=
  let f := fmtOf t
  let ws := vs.map (valOf t)
  if ws.any Val.isNaN then (f.nanCode, snanFlag ws)
  else
    let mags := vs.map (fun v => v.toNat % 2 ^ (f.eb + f.mb))
    -- within a format the magnitude grows with the code, infinity above every finite value
    (mags.foldl max 0, 0)

def execVamax (w : XV3) (s : State) : Host.Outcome State Fault Refusal :=
  let t := w.ty.toNat
  let b := blockSize w.fn
  s.xOp { k := w.k, srcs := [srcA3 w t], dsts := [{ f := w.d, ty := t, group := 1 }], md := w.md,
          interval := fun _ => 4, latency := 8 } noOwn
    (fun x =>
      let r := ((blocks b (512 / b) x.act).zip (blocks b (512 / b) (x.src 0))).map
        (fun p => (blockMax t (activeVals p.1 p.2)))
      vecRes t false (x.dst 0) x.mask x.act
        ((r.map (fun q => List.replicate b ((q.1 : Nat) : Int))).flatten, r.foldl (fun a q => a ||| q.2) 0))

/-! ## Scale registers (R223) -/

/-- The scale mask of a lane mask: value j by lane 32j. -/
def scaleMask (m : Pred) : BitVec 16 :=
  BitVec.ofNat 16 ((List.range 16).foldr (fun j acc => acc * 2 + (if m.getLsbD (32 * j) then 1 else 0)) 0)

/-- A scale register from its 16 values. -/
def scaleOf (vs : List Nat) : BitVec 128 := BitVec.ofNat 128 (vs.foldr (fun v acc => acc * 256 + v % 256) 0)

def execEset (w : XI) (s : State) : Host.Outcome State Fault Refusal :=
  s.xOp { k := w.k, srcs := [srcAI w 3], dsts := [], md := 0, interval := fun _ => 1, latency := 5 } noOwn
    (fun x =>
      { outs := [(.scale (w.d.toNat % 64) (scaleMask x.mask)
          (scaleOf ((List.range 16).map (fun j => ((x.src 0).getD (32 * j) 0).toNat))), 0)], flags := 0 })

def execEsetImm (w : XI) (s : State) : Host.Outcome State Fault Refusal :=
  s.xOp { k := w.k, srcs := [], dsts := [], md := 0, interval := fun _ => 1, latency := 5 } noOwn
    (fun x =>
      { outs := [(.scale (w.d.toNat % 64) (scaleMask x.mask) (scaleOf (List.replicate 16 (bits w.imm.toNat 8 8))), 0)],
        flags := 0 })

/-- M(w) of R214. -/
def widthTime (w : Nat) : Nat := if w ≤ 2 then 1 else if w ≤ 4 then 2 else 4

def execEget (w : XI) (s : State) : Host.Outcome State Fault Refusal :=
  let t := w.ty.toNat
  s.xOp { k := w.k, srcs := [], dsts := [{ f := w.d, ty := t, group := 1 }], md := 0, interval := widthTime, latency := 5 } noOwn
    (fun x =>
      vecRes t (decide (w.sat = 1)) (x.dst 0) x.mask x.act
        ((List.range 512).map (fun l => (x.t.scaleValue (w.a.toNat % 64) (l / 32) : Nat)), 0))

end Sys2Proof.Machine
end

