-- ==== Sys2Proof/Machine/Lanes.lean ====
section
/-! DEFINITION. Lane movement and complex arithmetic of the X stream (R224 to R233). -/

namespace Sys2Proof.Machine

/-- A moved value: placed by IntResult for an integer type, the bit pattern for a floating type (R224). -/
def moveVal (t : Nat) (sat : BitVec 1) (x : Int) : Int × Flags :=
  if typeFloat t then (x, 0) else intResult x t (decide (sat = 1))

def execVmov (w : XV3) (s : State) : Host.Outcome State Fault Refusal :=
  s.xOp { k := w.k, srcs := [srcA3 w w.ty.toNat], dsts := [{ f := w.d, ty := w.ty.toNat, group := 1 }], md := w.md,
          interval := widthTime, latency := 5 } noOwn
    (fun x => vecRes w.ty.toNat (decide (w.sat = 1)) (x.dst 0) x.mask x.act
      (mapAct (moveVal w.ty.toNat w.sat) x.act (x.src 0)))

/-- The immediate as a value of the type (R224). -/
def execVmovi (w : XI) (s : State) : Host.Outcome State Fault Refusal :=
  let t := w.ty.toNat
  let p := w.imm.toNat % 2 ^ typeBits t
  let v : Int := if typeFloat t then (p : Int) else patInt (typeBits t) (typeSigned t) p
  s.xOp { k := w.k, srcs := [], dsts := [{ f := w.d, ty := t, group := 1 }], md := 0, interval := widthTime, latency := 5 } noOwn
    (fun x => vecRes t false (x.dst 0) x.mask x.act (List.replicate 512 v, 0))

/-- Source b of VPERM and VBCST: an .N16 index of 1 to 4 slices (R225). -/
def indexSrc (w : XV3) : Src := srcB3 w 5

/-- A lane by its index; the zero pattern from 512 on. -/
def laneAt (x : Lanes) (i : Int) : Int := if 0 ≤ i ∧ i < 512 then x.getD i.toNat 0 else 0

def execVperm (w : XV3) (s : State) : Host.Outcome State Fault Refusal :=
  let t := w.ty.toNat
  s.xOp { k := w.k, srcs := [srcA3 w t, indexSrc w], dsts := [{ f := w.d, ty := t, group := 1 }], md := w.md,
          interval := fun _ => 4, latency := 6 } noOwn
    (fun x => vecRes t (decide (w.sat = 1)) (x.dst 0) x.mask x.act
      (mapAct (fun i => moveVal t w.sat (laneAt (x.src 0) i)) x.act (x.src 1)))

/-- The index is lane 0 of b, whatever the predicate (R225). -/
def execVbcst (w : XV3) (s : State) : Host.Outcome State Fault Refusal :=
  let t := w.ty.toNat
  s.xOp { k := w.k, srcs := [srcA3 w t, indexSrc w], dsts := [{ f := w.d, ty := t, group := 1 }], md := w.md,
          interval := widthTime, latency := 5 } noOwn
    (fun x => vecRes t (decide (w.sat = 1)) (x.dst 0) x.mask x.act
      (mapAct (moveVal t w.sat) x.act (List.replicate 512 (laneAt (x.src 0) ((x.src 1).getD 0 0)))))

/-- R226. -/
def execVlsh (w : XI) (s : State) : Host.Outcome State Fault Refusal :=
  let t := w.ty.toNat
  let n := signed 32 w.imm.toNat
  s.xOp { k := w.k, srcs := [srcAI w t], dsts := [{ f := w.d, ty := t, group := 1 }], md := 0,
          interval := widthTime, latency := 5 } noOwn
    (fun x => vecRes t false (x.dst 0) x.mask x.act
      (mapAct (moveVal t 0) x.act ((List.range 512).map (fun (l : Nat) => laneAt (x.src 0) ((l : Int) - n)))))

/-- Two lists, one element of each in turn. -/
def interleave {α : Type} : List α → List α → List α
  | x :: xs, y :: ys => x :: y :: interleave xs ys
  | xs, _ => xs

/-- Every second element, from the first. -/
def evens {α : Type} : List α → List α
  | x :: _ :: xs => x :: evens xs
  | xs => xs

/-- The two-vector destination of VZIP and VUNZIP (R216, R227). -/
def State.xpair (s : State) (w : XV3) (f : Lanes → Lanes → Lanes × Lanes) : Host.Outcome State Fault Refusal :=
  let t := w.ty.toNat
  s.xOp { k := w.k, srcs := [srcA3 w t, srcB3 w t], dsts := [{ f := w.d, ty := t, group := 2 }], md := w.md,
          interval := fun n => 2 * widthTime n, latency := 5 } noOwn
    (fun x =>
      let r := f (x.src 0) (x.src 1)
      (vecRes t false (x.dst 0 0) x.mask x.act (mapAct (moveVal t 0) x.act r.1)).join
        (vecRes t false (x.dst 0 1) x.mask x.act (mapAct (moveVal t 0) x.act r.2)))

def execVzip (w : XV3) (s : State) : Host.Outcome State Fault Refusal :=
  s.xpair w (fun x y => (interleave (x.take 256) (y.take 256), interleave (x.drop 256) (y.drop 256)))

def execVunzip (w : XV3) (s : State) : Host.Outcome State Fault Refusal :=
  s.xpair w (fun x y => (evens (x ++ y), evens ((x ++ y).drop 1)))

/-- VPACK and VUNPK: the predicate selects lanes of the sources, and every lane is written (R228). -/
def State.xselect (s : State) (w : XV3) (f : List Bool → Lanes → Lanes → Lanes) : Host.Outcome State Fault Refusal :=
  let t := w.ty.toNat
  s.xOp { k := w.k, srcs := [srcA3 w t, srcB3 w t], dsts := [{ f := w.d, ty := t, group := 1 }], md := w.md,
          interval := fun _ => 4, latency := 6 } noOwn
    (fun x =>
      let all := List.replicate 512 true
      vecRes t false (x.dst 0) (BitVec.allOnes 512) all (mapAct (moveVal t 0) all (f x.act (x.src 0) (x.src 1))))

def execVpack (w : XV3) (s : State) : Host.Outcome State Fault Refusal :=
  s.xselect w (fun act x y => let p := activeVals act x; p ++ y.drop p.length)

/-- Lanes handed out in order to the active places. -/
def expandLanes : List Bool → Lanes → Lanes → Lanes
  | true :: bs, x :: xs, _ :: ys => x :: expandLanes bs xs ys
  | false :: bs, xs, y :: ys => y :: expandLanes bs xs ys
  | _, _, _ => []

def execVunpk (w : XV3) (s : State) : Host.Outcome State Fault Refusal := s.xselect w expandLanes

/-! ## Complex arithmetic (R229 to R233) -/

/-- A term of a component: a sign and one or two factors (R229). -/
structure Term where
  neg : Bool
  p : Val
  q : Option Val
  deriving DecidableEq, Repr

/-- A product term. -/
def prod (neg : Bool) (p q : Val) : Term := { neg := neg, p := p, q := some q }

/-- A single-component term. -/
def single (neg : Bool) (p : Val) : Term := { neg := neg, p := p, q := none }

/-- The value of a term, and NV for a signalling NaN or 0 × ∞. -/
def Term.value (t : Term) : Val × Flags :=
  let r : Val × Flags := match t.q with
    | none => (t.p, snanFlag [t.p])
    | some q => mulVal t.p q
  (if t.neg then r.1.negate else r.1, r.2)

/-- The exact numbers among finite values. -/
def finVals (vs : List Val) : List Exact := vs.filterMap (fun v => match v with | .fin x => some x | _ => none)

/-- ComponentRound of R229. -/
def componentRound (ts : List Term) (f : Fmt) (mode : Nat) (sel : Bool) : Nat × Flags :=
  let vs := ts.map Term.value
  let nv := vs.foldl (fun a v => a ||| v.2) (0 : Flags)
  let ws := vs.map (·.1)
  if ws.any Val.isNaN then (f.nanCode, nv)
  else if ws.contains (.inf false) && ws.contains (.inf true) then (f.nanCode, flagNV)
  else if ws.contains (.inf false) then (f.infCode, 0)
  else if ws.contains (.inf true) then (f.signed true f.infCode, 0)
  else
    let xs := finVals ws
    let z := Exact.sum xs
    if z.mag = 0 then (f.signed (xs.all (fun x => x.isZero && x.neg)) 0, 0)
    else roundFloat f mode sel z

/-- A complex value as its parts. -/
structure Cpx where
  re : Val
  im : Val
  deriving DecidableEq, Repr

def cpxOf (t : Nat) (x : Int) : Cpx :=
  let p := parts t x
  { re := valOf t p.1, im := valOf t p.2 }

/-- A complex result from the terms of its two parts. -/
def cpxRound (t : Nat) (rnd : BitVec 3) (sat : BitVec 1) (re im : List Term) : Int × Flags :=
  let a := componentRound re (fmtOf t) rnd.toNat (decide (sat = 1))
  let b := componentRound im (fmtOf t) rnd.toNat (decide (sat = 1))
  (ofParts t a.1 b.1, a.2 ||| b.2)

/-- Terms of the real part of `± ω × y`. -/
def mulRe (neg : Bool) (w y : Cpx) : List Term := [prod neg w.re y.re, prod (!neg) w.im y.im]

/-- Terms of the imaginary part of `± ω × y`. -/
def mulIm (neg : Bool) (w y : Cpx) : List Term := [prod neg w.re y.im, prod neg w.im y.re]

/-- Interval of VCMUL and VCMAC (Table 9.1). -/
def cmulTime (t : Nat) : Nat × Nat := (if t = 14 then 4 else 8, 9)

def execVcmul (w : XV3) (s : State) : Host.Outcome State Fault Refusal :=
  let t := w.ty.toNat
  s.xv2 w t t t (cmulTime t) (fun _ x y =>
    cpxRound t w.rnd w.sat (mulRe false (cpxOf t x) (cpxOf t y)) (mulIm false (cpxOf t x) (cpxOf t y)))

def execVcmac (w : XV4) (s : State) : Host.Outcome State Fault Refusal :=
  let t := w.ty.toNat
  s.xv3 w t (cmulTime t) noOwn (fun x y z =>
    cpxRound t w.rnd w.sat (mulRe false (cpxOf t x) (cpxOf t y) ++ [single false (cpxOf t z).re])
      (mulIm false (cpxOf t x) (cpxOf t y) ++ [single false (cpxOf t z).im]))

/-- The radix-2 butterfly: u at d, v at d + w (R231). -/
def execVbf2 (w : XV4) (s : State) : Host.Outcome State Fault Refusal :=
  let t := w.ty.toNat
  let half (neg : Bool) (x y c : Int) : Int × Flags :=
    cpxRound t w.rnd w.sat (single false (cpxOf t x).re :: mulRe neg (cpxOf t c) (cpxOf t y))
      (single false (cpxOf t x).im :: mulIm neg (cpxOf t c) (cpxOf t y))
  s.xOp { k := w.k, srcs := [srcA4 w t, srcB4 w t, srcC4 w t], dsts := [{ f := w.d, ty := t, group := 2 }], md := 0,
          interval := fun _ => 8, latency := 12 } noOwn
    (fun x =>
      (vecRes t false (x.dst 0 0) x.mask x.act (mapAct3 (half false) x.act (x.src 0) (x.src 1) (x.src 2))).join
        (vecRes t false (x.dst 0 1) x.mask x.act (mapAct3 (half true) x.act (x.src 0) (x.src 1) (x.src 2))))

/-- The rows of Table 9.4 for output k with σ: for t1, t2 and t3 the quarter turns `(−jσ)^m` that multiply them. -/
def quarterTurns (k : Nat) : List Nat := [k % 4, 2 * k % 4, 3 * k % 4]

/-- The terms of `(−jσ)^m × t`, t being `ω × y`: real and imaginary part. -/
def turned (m : Nat) (sigma : Bool) (w y : Cpx) : List Term × List Term :=
  -- sigma true stands for +1: a quarter turn is −j, so re' = im and im' = −re
  let q := if sigma then m else (4 - m) % 4
  if q = 0 then (mulRe false w y, mulIm false w y)
  else if q = 1 then (mulIm false w y, mulRe true w y)
  else if q = 2 then (mulRe true w y, mulIm true w y)
  else (mulIm true w y, mulRe false w y)

/-- One lane of output k of the radix-4 butterfly (R232). -/
def butterfly4 (t : Nat) (rnd : BitVec 3) (sat : BitVec 1) (sigma : Bool) (k : Nat) (xs ws : List Int) : Int × Flags :=
  let x0 := cpxOf t (xs.getD 0 0)
  let rest := (quarterTurns k).zipIdx.map (fun m => turned m.1 sigma (cpxOf t (ws.getD m.2 0)) (cpxOf t (xs.getD (m.2 + 1) 0)))
  cpxRound t rnd sat (single false x0.re :: rest.flatMap (·.1)) (single false x0.im :: rest.flatMap (·.2))

/-- One lane's values of several vectors, lane by lane. -/
def transposeLanes : List Lanes → List (List Int)
  | [] => List.replicate 512 []
  | v :: vs => (v.zip (transposeLanes vs)).map (fun p => p.1 :: p.2)

/-- Lane results of output k, active lanes only. -/
def butterflyLanes (f : List Int → List Int → Int × Flags) : List Bool → List (List Int) → List (List Int) → Lanes × Flags
  | b :: bs, x :: xs, w :: ws =>
    let r := butterflyLanes f bs xs ws
    if b then
      let p := f x w
      (p.1 :: r.1, p.2 ||| r.2)
    else (0 :: r.1, r.2)
  | _, _, _ => ([], 0)

/-- The radix-4 butterfly: groups of four and three vectors, direction in the constant c (R232). -/
def execVbf4 (w : XV4) (s : State) : Host.Outcome State Fault Refusal :=
  let t := w.ty.toNat
  let sigma := decide (w.c.toNat / 16 = 8129)
  s.xOp { k := w.k, srcs := [{ srcA4 w t with group := 4 }, { srcB4 w t with group := 3 }],
          dsts := [{ f := w.d, ty := t, group := 4 }], md := 0,
          interval := fun _ => if t = 14 then 8 else 16, latency := 12 } noOwn
    (fun x =>
      let xs := transposeLanes (x.srcs.getD 0 [])
      let ws := transposeLanes (x.srcs.getD 1 [])
      let out (k : Nat) : XRes :=
        vecRes t false (x.dst 0 k) x.mask x.act (butterflyLanes (butterfly4 t w.rnd w.sat sigma k) x.act xs ws)
      (((out 0).join (out 1)).join (out 2)).join (out 3))

/-- Twiddle factors; source a is an .N32 number (R233). -/
def execVtwg (w : XI) (s : State) : Host.Outcome State Fault Refusal :=
  let t := w.ty.toNat
  let n := bits w.imm.toNat 0 5
  s.xOp { k := w.k, srcs := [srcAI w 7], dsts := [{ f := w.d, ty := t, group := 1 }], md := 0,
          interval := fun _ => 8, latency := 20 } noOwn
    (fun x => vecRes t false (x.dst 0) x.mask x.act
      (mapAct (fun v =>
        let r := twiddle (fmtOf t) w.rnd.toNat n (v.toNat % 2 ^ n) (w.imm.getLsbD 5)
        (ofParts t r.1.1 r.2.1, r.1.2 ||| r.2.2)) x.act (x.src 0)))

end Sys2Proof.Machine
end

