-- ==== Sys2Proof/Machine/Reduce.lean ====
section
/-! DEFINITION. Reductions, scans and predicate instructions of the X stream (R234 to R241). -/

namespace Sys2Proof.Machine

/-! ## Reductions (R235 to R238) -/

/-- One combination of VRED and VSCAN (R235): exact for integers, rounded for floating types. -/
def combine (t op : Nat) (rnd : BitVec 3) (sat : Bool) (x y : Int) : Int × Flags :=
  if typeFloat t then
    if op = 0 then
      let r := addVal rnd.toNat (valOf t x) (valOf t y)
      let q := roundVal (fmtOf t) rnd.toNat sat r.1
      ((q.1 : Int), r.2 ||| q.2)
    else minMax t (decide (op = 2)) x y
  else
    let n := typeBits t
    (if op = 0 then x + y else if op = 1 then min x y else if op = 2 then max x y
      else if op = 3 then ((intPat n x &&& intPat n y : Nat) : Int)
      else if op = 4 then ((intPat n x ||| intPat n y : Nat) : Int)
      else ((intPat n x ^^^ intPat n y : Nat) : Int), 0)

/-- The identities of Table 10.2. -/
def identityVal (t op : Nat) : Int :=
  let n := typeBits t
  if typeFloat t then
    (if op = 0 then 0 else if op = 1 then ((fmtOf t).infCode : Int) else ((fmtOf t).signed true (fmtOf t).infCode : Nat))
  else if op = 1 then intMax n (typeSigned t)
  else if op = 2 then intMin n (typeSigned t)
  else if op = 3 then ((2 ^ n - 1 : Nat) : Int)
  else 0

/-- A combination with absent partners (R74): a single partner passes unchanged. -/
def combineOpt (f : Int → Int → Int × Flags) : Option Int → Option Int → Option Int × Flags
  | some x, some y => let r := f x y; (some r.1, r.2)
  | some x, none => (some x, 0)
  | none, y => (y, 0)

/-- Two lists combined lane by lane, with the flags. -/
def combineLanes (f : Int → Int → Int × Flags) : List (Option Int) → List (Option Int) → List (Option Int) × Flags
  | x :: xs, y :: ys =>
    let r := combineLanes f xs ys
    let c := combineOpt f x y
    (c.1 :: r.1, c.2 ||| r.2)
  | _, _ => ([], 0)

/-- TreeReduce of R74 over `2^j` lanes: lane i with lane i + 2^(j−1), level by level. -/
def treeReduce (f : Int → Int → Int × Flags) : Nat → List (Option Int) → Option Int × Flags
  | 0, xs => (xs.headD none, 0)
  | j + 1, xs =>
    let c := combineLanes f (xs.take (2 ^ j)) (xs.drop (2 ^ j))
    let r := treeReduce f j c.1
    (r.1, c.2 ||| r.2)

/-- The levels `j` to 8 of VSCAN (R237): each lane from 2^j up takes in the lane 2^j below it. -/
def scanLevels (f : Int → Int → Int × Flags) : Nat → Nat → List (Option Int) → List (Option Int) × Flags
  | 0, _, xs => (xs, 0)
  | n + 1, j, xs =>
    let c := combineLanes f xs (xs.drop (2 ^ j))
    let r := scanLevels f n (j + 1) (xs.take (2 ^ j) ++ c.1)
    (r.1, c.2 ||| r.2)

/-- Active lanes present, the others absent. -/
def presentLanes (act : List Bool) (x : Lanes) : List (Option Int) :=
  (act.zip x).map (fun p => if p.1 then some p.2 else none)

/-- The final placement of an integer combination (R235): a bitwise result is a pattern. -/
def reduceVal (t op : Nat) (sat : Bool) (v : Int) : Int × Flags :=
  if typeFloat t then (v, 0) else intResult v t (sat && decide (op < 3))

/-- VRED, VSCAN and VRSUM: every lane is written (R235). -/
def State.xreduce (s : State) (w : XV3) (time : Nat × Nat) (f : List Bool → Lanes → Lanes × Flags) :
    Host.Outcome State Fault Refusal :=
  let t := w.ty.toNat
  s.xOp { k := w.k, srcs := [srcA3 w t], dsts := [{ f := w.d, ty := t, group := 1 }], md := w.md,
          interval := fun _ => time.1, latency := time.2 } noOwn
    (fun x =>
      let r := f x.act (x.src 0)
      vecRes t (decide (w.sat = 1)) (x.dst 0) (BitVec.allOnes 512) (List.replicate 512 true) r)

def execVred (w : XV3) (s : State) : Host.Outcome State Fault Refusal :=
  let t := w.ty.toNat
  let op := w.fn.toNat
  let sat := decide (w.sat = 1)
  s.xreduce w (4, 14) (fun act x =>
    let r := treeReduce (combine t op w.rnd sat) 9 (presentLanes act x)
    let v := reduceVal t op sat (r.1.getD (identityVal t op))
    (List.replicate 512 v.1, r.2 ||| v.2))

def execVscan (w : XV3) (s : State) : Host.Outcome State Fault Refusal :=
  let t := w.ty.toNat
  let op := w.fn.toNat
  let sat := decide (w.sat = 1)
  s.xreduce w (4, 14) (fun act x =>
    let r := scanLevels (combine t op w.rnd sat) 9 0 (presentLanes act x)
    let v := mapAct (reduceVal t op sat) (List.replicate 512 true) (r.1.map (fun c => c.getD (identityVal t op)))
    (v.1, r.2 ||| v.2))

def execVrsum (w : XV3) (s : State) : Host.Outcome State Fault Refusal :=
  let t := w.ty.toNat
  s.xreduce w (8, 30) (fun act x =>
    let r := wideSum ((activeVals act x).map (valOf t)) (fmtOf t) w.rnd.toNat
    (List.replicate 512 ((r.1 : Nat) : Int), r.2))

/-! ## Predicate instructions (R239 to R241) -/

/-- A predicate instruction: the bits written where active, from predicates as read at issue. -/
def State.xpred (s : State) (w : XI) (f : Task → Pred) : Host.Outcome State Fault Refusal :=
  s.xOp { k := w.k, srcs := [], dsts := [], md := 0, interval := fun _ => 1, latency := 2 } noOwn
    (fun x => { outs := [(.pred (w.d.toNat % 8) (f x.t), x.mask)], flags := 0 })

/-- ka, and kb from imm32, with their negations (R239). -/
def predA (w : XI) (t : Task) : Pred :=
  let p := t.pred (w.a.toNat % 8)
  if w.imm.getLsbD 4 then ~~~p else p

def predB (w : XI) (t : Task) : Pred :=
  let p := t.pred (bits w.imm.toNat 0 3)
  if w.imm.getLsbD 3 then ~~~p else p

def execKand (w : XI) (s : State) : Host.Outcome State Fault Refusal := s.xpred w (fun t => predA w t &&& predB w t)

def execKor (w : XI) (s : State) : Host.Outcome State Fault Refusal := s.xpred w (fun t => predA w t ||| predB w t)

def execKxor (w : XI) (s : State) : Host.Outcome State Fault Refusal := s.xpred w (fun t => predA w t ^^^ predB w t)

def execKnot (w : XI) (s : State) : Host.Outcome State Fault Refusal := s.xpred w (fun t => ~~~(t.pred (w.a.toNat % 8)))

/-- The mask of the lanes a test holds for. -/
def lanesWhere (f : Nat → Bool) : Pred := bitsMask ((List.range 512).map f)

def execKsetLt (w : XI) (s : State) : Host.Outcome State Fault Refusal :=
  s.xpred w (fun _ => lanesWhere (fun l => decide (l < bits w.imm.toNat 0 10)))

def execKsetGe (w : XI) (s : State) : Host.Outcome State Fault Refusal :=
  s.xpred w (fun _ => lanesWhere (fun l => decide (bits w.imm.toNat 0 10 ≤ l)))

def execKsetMod (w : XI) (s : State) : Host.Outcome State Fault Refusal :=
  s.xpred w (fun _ => lanesWhere (fun l => decide (l % 2 ^ bits w.imm.toNat 10 4 < bits w.imm.toNat 0 10)))

def execKmov (w : XI) (s : State) : Host.Outcome State Fault Refusal := s.xpred w (fun t => t.pred (w.a.toNat % 8))

/-- A predicate from the lanes whose value is not 0 (R241). -/
def execKmovFromv (w : XI) (s : State) : Host.Outcome State Fault Refusal :=
  s.xOp { k := w.k, srcs := [srcAI w w.ty.toNat], dsts := [], md := 0, interval := widthTime, latency := 3 } noOwn
    (fun x => predRes (w.d.toNat % 8) x.mask ((x.src 0).map (fun v => decide (v ≠ 0))) 0)

/-- Lanes of all ones where the predicate is set (R241). -/
def execKmovTov (w : XI) (s : State) : Host.Outcome State Fault Refusal :=
  let t := w.ty.toNat
  let one : Int := if typeSigned t then -1 else intMax (typeBits t) false
  s.xOp { k := w.k, srcs := [], dsts := [{ f := w.d, ty := t, group := 1 }], md := 0, interval := widthTime, latency := 3 } noOwn
    (fun x => vecRes t (decide (w.sat = 1)) (x.dst 0) x.mask x.act
      ((maskBits (x.t.pred (w.a.toNat % 8))).map (fun b => if b then one else 0), 0))

end Sys2Proof.Machine
end

