-- ==== Sys2Proof/Machine/Loops.lean ====
section
/-! DEFINITION. Hardware loops, branches, the end of the X stream, and register management (R242 to R254). -/

namespace Sys2Proof.Machine

/-! ## Loops -/

/-- A LOOP or LOOPR may open its level at parcel `u` (R243): its counter is the next one, and its last word lies in the
span. -/
def Task.loopChecks (t : Task) (w : XC) : Try Unit := do
  let v := t.sx
  let off := w.off.toInt
  require (decide (w.lc.toNat = t.loops.length)) .queueProtocol
  require (decide (3 ≤ off) && decide (off % 3 = 0) && decide ((v.offset v.pc : Int) + off < 2 + 3 * v.len)) .sectionFormat

/-- The count a loop word takes (R243): from its field, the head of a queue, or a counter. -/
def Task.loopCount (t : Task) (w : XC) (field : Nat) : Try Nat :=
  if w.csrc = 0 then .ok field
  else if w.csrc = 1 then
    match t.headAt { xq := true, n := w.q.toNat, peek := false } 0 with
    | .here v _ => .ok ((v.vals.headD 0).toNat % 2 ^ 32)
    | .coming => .error .hold
    | .never c => raise c
  else .ok (t.lc.get 0 (field % 4)).toNat

/-- The pop of a loop word with csrc 1. -/
def Task.loopPop (t : Task) (w : XC) : Task :=
  if w.csrc = 1 then t.popHead { xq := true, n := w.q.toNat, peek := false } else t

/-- Continue after a body that is skipped (R243). A loop word that is itself the last word of an open level ends no iteration of it, whether
it opens a level or skips its body: the spec leaves open whether R244 applies there, and this is the model's choice. -/
def Task.skipBody (t : Task) (w : XC) : Task :=
  let next := t.sx.pc + w.off.signExtend 50 + 3
  if next = t.sx.spanEnd then { t with sx := t.sx.leave next, loops := [] } else { t with sx := { t.sx with pc := next } }

/-- Open a level at the executing word (R243). -/
def Task.openLoop (t : Task) (w : XC) (rotating : Bool) (stages trips sigma count : Nat) : Task :=
  { t with
    lc := t.lc.set 0 w.lc.toNat (BitVec.ofNat 32 count)
    loops := { first := t.sx.pc + 3, last := t.sx.pc + w.off.signExtend 50, rotating := rotating, stages := stages,
               trips := trips, sigma := sigma } :: t.loops
    sx := { t.sx with pc := t.sx.pc + 3 } }

def execLoop (w : XC) (s : State) : Host.Outcome State Fault Refusal :=
  s.xWord (fun s id t _ => do
    await (decide (w.csrc ≠ 1) || decide (t.headAt { xq := true, n := w.q.toNat, peek := false } 0 ≠ .coming))
    t.loopChecks w
    let n ← t.loopCount w w.count.toNat
    let u := t.loopPop w
    if n = 0 then .ok (s.takeEngine id ({ u with lc := u.lc.set 0 w.lc.toNat 0 }.skipBody w) 1)
    else .ok (s.takeEngine id (u.openLoop w false 0 0 0 n) 1))

/-- A rotating loop: the trip count is N + S − 1, and `k4` to `k7` become the stage predicates (R246, R247). Where several of its checks
fail, the spec gives no order of the nested-LOOPR check against those of R243, nor of the check of N, and of a pop that can never be
served, against the range of the rotation window; the order here is the model's choice. -/
def execLoopr (w : XC) (s : State) : Host.Outcome State Fault Refusal :=
  s.xWord (fun s id t _ => do
    let sigma := bits w.count.toNat 24 8
    let stages := bits w.count.toNat 22 2 + 1
    await (decide (w.csrc ≠ 1) || decide (t.headAt { xq := true, n := w.q.toNat, peek := false } 0 ≠ .coming))
    require (!t.rotating) .queueProtocol
    t.loopChecks w
    let n ← t.loopCount w (bits w.count.toNat 0 22)
    require (decide (n < 2 ^ 22)) .reservedField
    require (decide (t.csr.rotBase.toNat + t.csr.rotSize.toNat ≤ t.winSize)) .sliceRange
    require (decide (t.csr.rotSize = 0) || decide (sigma < t.csr.rotSize.toNat)) .reservedField
    let u := t.loopPop w
    if n = 0 then .ok (s.takeEngine id (u.skipBody w) 1)
    else
      let v := u.openLoop w true stages n sigma (n + stages - 1)
      .ok (s.takeEngine id ((((v.setPred 4 (BitVec.allOnes 512)).setPred 5 0).setPred 6 0).setPred 7 0) 1))

/-! ## Branches (R245, R251) -/

/-- A level's body holds a parcel of the span. -/
def Loop.holds (l : Loop) (v : StreamSt) (p : Parcel) : Bool :=
  decide (v.offset l.first ≤ v.offset p) && decide (v.offset p ≤ v.offset l.last)

/-- The levels a taken branch to `p` leaves open: a level whose body does not hold `p` closes with every level inside it. -/
def keepHolding (v : StreamSt) (p : Parcel) : List Loop → List Loop
  | [] => []
  | l :: ls => if (l :: ls).all (fun m => m.holds v p) then l :: ls else keepHolding v p ls

/-- The levels that a taken branch at `u` leaves open: every level that ends on it closes, with the levels inside it. -/
def dropEnding (u : Parcel) : List Loop → List Loop
  | [] => []
  | l :: ls => if (l :: ls).any (fun m => decide (m.last = u)) then dropEnding u ls else l :: ls

/-- A taken branch of the X stream (R80, R245). -/
def Task.xJump (t : Task) (p : Parcel) : Try Task :=
  let v := t.sx
  if v.inSpan p then do
    require (v.wordStart p) .sectionFormat
    .ok { t with sx := { v with pc := p }, loops := keepHolding v p (dropEnding v.pc t.loops) }
  else .ok { t with sx := v.leave p, loops := [] }

/-- The target of an XC word (R242). -/
def Task.xTarget (t : Task) (w : XC) : Parcel := t.sx.pc + w.off.signExtend 50

/-- A branch, taken or not: `u` is the task after a pop. -/
def State.xBranch (s : State) (id : Nat) (w : XC) (u : Task) (taken : Bool) : Try State :=
  if taken then do
    let v ← u.xJump (u.xTarget w)
    .ok (s.takeEngine id v 3)
  else .ok (s.occupy id u 1)

/-- XB pops one outcome (R251): taken on 1, XB.Z on 0. -/
def execXb (w : XC) (s : State) : Host.Outcome State Fault Refusal :=
  s.xWord (fun s id t _ =>
    match t.bq with
    | [] => if t.aOver then raise .queueProtocol else .error .hold
    | b :: rest => s.xBranch id w { t with bq := rest } (b != decide (w.fn = 1)))

/-- XBK tests a predicate over all lanes (R117). -/
def execXbk (w : XC) (s : State) : Host.Outcome State Fault Refusal :=
  s.xWord (fun s id t _ =>
    let m := t.activeMask w.k
    s.xBranch id w t
      (if w.fn = 0 then decide (m ≠ 0) else if w.fn = 1 then decide (m = BitVec.allOnes 512) else decide (m = 0)))

def execXj (w : XC) (s : State) : Host.Outcome State Fault Refusal := s.xWord (fun s id t _ => s.xBranch id w t true)

/-- XFIN closes every level and ends the stream (R252). -/
def execXfin (_ : XC) (s : State) : Host.Outcome State Fault Refusal :=
  s.xWord (fun s id t _ => .ok (s.takeEngine id { t with sx := t.sx.finish, loops := [] } 1))

/-! ## Register management (R253, R254) -/

def execVdead (w : XI) (s : State) : Host.Outcome State Fault Refusal :=
  s.xWord (fun s id t p => do
    let start := bits w.imm.toNat 0 13
    let count := bits w.imm.toNat 13 13
    let ss := t.named start count
    require (decide (start + count ≤ t.winSize) && ss.all (fun x => decide (x < t.winSize))) .sliceRange
    if w.k = 8 then .ok (s.occupy id t 1)
    else .ok (s.occupy id { t with effects := t.effects ++ [t.effect (.dead ss) (BitVec.allOnes 512) (p + 1) 0] } 1))

/-- Entries of an `aq` that count as present at cycle `p`: popped in this cycle frees no place (R254). -/
def Task.aqCount (t : Task) (q p : Nat) : Nat :=
  let pops := t.aqPops.get (0, 0) q
  (t.aq.get [] q).length + (if pops.1 = p then pops.2 else 0) +
    (t.effects.filter (fun e => match e.push? with | some r => r.1 = q | none => false)).length

/-- VPUSH: one lane of a, extended to 64 bits, on its way to a queue that has room (R254). -/
def execVpush (w : XI) (s : State) : Host.Outcome State Fault Refusal :=
  let q := bits w.imm.toNat 9 2
  s.xOp { k := w.k, srcs := [srcAI w w.ty.toNat], dsts := [], md := 0, interval := fun _ => 1, latency := 5 }
    (fun t => require (decide (w.k = 8) || decide (t.aqCount q (s.cyc t.core) < 8)) .queueProtocol)
    (fun x => { outs := [(.aq q (word ((x.src 0).getD (bits w.imm.toNat 0 9) 0)), 0)], flags := 0 })

end Sys2Proof.Machine
end

