-- ==== Sys2Proof/Machine/Matrix.lean ====
section
/-! DEFINITION. The matrix stream: leases, the command list, the array commands chunk by chunk and row by row, and the steps of
the array (R255 to R280, R72, R73). -/

namespace Sys2Proof.Machine

/-! ## The tile store (R255) -/

/-- The index of element (m, n) of a tile of a cluster. -/
def tileIndex (cluster tile m n : Nat) : Nat := 2 ^ 20 * cluster + 512 * (256 * tile + m) + n

/-- A word of a tile. -/
def State.tile (s : State) (cluster tile m n : Nat) : BitVec 32 := s.tiles.get 0 (tileIndex cluster tile m n)

/-- `n` words from index `k` on take the values `f` gives. -/
def fillTiles (k n : Nat) (f : Nat → BitVec 32) (m : SMap (BitVec 32)) : SMap (BitVec 32) :=
  m.filter (fun e => decide (e.1 < k)) ++
    (List.range n).filterMap (fun i => if f i = 0 then none else some (k + i, f i)) ++
    m.filter (fun e => decide (k + n ≤ e.1))

/-- Row `m` of a tile takes new words. -/
def State.setRow (s : State) (cluster tile m : Nat) (f : Nat → BitVec 32) : State :=
  let k := tileIndex cluster tile m 0
  { s with tiles := fillTiles k 512 f s.tiles, badTiles := s.badTiles.filter (fun b => decide (b < k ∨ k + 512 ≤ b)) }

/-- A whole tile takes new words: `f m n` for element (m, n). What is written is sound again. -/
def State.setTile (s : State) (cluster tile : Nat) (f : Nat → Nat → BitVec 32) : State :=
  let k := tileIndex cluster tile 0 0
  { s with
    tiles := fillTiles k 131072 (fun i => f (i / 512) (i % 512)) s.tiles
    badTiles := s.badTiles.filter (fun b => decide (b < k ∨ k + 131072 ≤ b)) }

/-! ## The command list (R261, R262) -/

/-- The matrix stream of a command; `.ALL` is of every stream. -/
def Cmd.streams (c : Cmd) : BitVec 8 :=
  match c.word with
  | .mma w | .mmaz w | .mmb w | .mmi w | .mclr w | .mld w | .mst w | .madd w | .mscl w => 1#8 <<< w.ms.toNat
  | .mbarv w => if w.imm.getLsbD 19 then 0xFF#8 else 1#8 <<< (w.imm.extractLsb' 16 3).toNat
  | _ => 0

/-- The fields of an array command; none for MBARV. -/
def Cmd.fields (c : Cmd) : Option MC :=
  match c.word with
  | .mma w | .mmaz w | .mmb w | .mmi w | .mclr w | .mld w | .mst w | .madd w | .mscl w => some w
  | _ => none

/-- The commands of a list before a serial. -/
def beforeSerial (n : Nat) (cs : List Cmd) : List Cmd := cs.filter (fun c => decide (c.serial < n))

/-- Some command of the list belongs to one of these matrix streams. -/
def busyStreams (mask : BitVec 8) (cs : List Cmd) : Bool := cs.any (fun c => decide (c.streams &&& mask ≠ 0))

/-- The lease holds a tile. -/
def Task.leases (t : Task) (tile : Nat) : Bool := t.lease.getLsbD tile

/-- The tiles an array command names: its accumulator, and the source of MADD (R261). -/
def commandTiles (i : Instr) : List Nat :=
  match i with
  | .mma w | .mmaz w | .mmb w | .mmi w | .mclr w | .mld w | .mst w | .mscl w => [w.acc.toNat]
  | .madd w => [w.acc.toNat, bits w.cfn.toNat 0 3]
  | _ => []

/-- A coordinate register. -/
def Task.coord (t : Task) (n : BitVec 5) : BitVec 32 := t.coords.get 0 n.toNat

/-- The command as an entry of the list, its coordinates captured (R261, R268). -/
def Task.newCmd (t : Task) (i : Instr) (ca cb ct : BitVec 5) : Cmd :=
  { word := i, ca := t.coord ca, cb := t.coord cb, ct := t.coord ct, pc := t.sm.pc, sec := t.sm.sec, row := 0, started := false,
    faulted := false, flags := 0, serial := t.nextSerial }

def Task.pushCmd (t : Task) (c : Cmd) : Task := { t with cmds := t.cmds ++ [c], nextSerial := t.nextSerial + 1 }

/-- After a repetition the stepped register moves on; the last one takes the stream past the word (R277). -/
def Task.repeated (t : Task) : Task :=
  match t.mrep with
  | none => { t with sm := t.sm.advance }
  | some r =>
    let t := { t with coords := t.coords.set 0 r.creg.toNat (t.coord r.creg + r.imm.extractLsb' 0 32) }
    if r.left ≤ 1 then { t with mrep := none, sm := t.sm.advance } else { t with mrep := some { r with left := r.left - 1 } }

/-- How far the tile of this repetition lies beyond the word's (R277). -/
def Task.tileStep (t : Task) : BitVec 3 :=
  match t.mrep with
  | none => 0
  | some r => BitVec.ofNat 3 ((bits r.imm.toNat 32 16 - r.left) * bits r.imm.toNat 48 3)

/-- A word of the M stream on its task. -/
def State.mTask (s : State) (f : State → Nat → Task → Try State) : Host.Outcome State Fault Refusal :=
  s.mWord (fun s =>
    match s.cur with
    | .rub => raise .illegalOp
    | .task id _ =>
      match s.task? id with
      | none => raise .illegalOp
      | some t => f s id t)

/-- The matrix streams of a command. -/
def Cmd.matrices (c : Cmd) : List Nat := (List.range 8).filter c.streams.getLsbD

/-- The writes of the completed commands of some matrix streams of a task. -/
def Order.ofMatrices (o : Order) (id : Nat) (ms : List Nat) : List Nat :=
  o.knowAll (fun k =>
    match k with
    | .matrix i m => decide (i = id) && ms.contains m
    | _ => false) |>.before

/-- An array command is issued: it sees what the array sees, and what earlier commands of its matrix streams have written (R262, R322). -/
def Order.issueCommand (o : Order) (id serial : Nat) (ms : List Nat) : Order :=
  (o.clone (.array id) (.command id serial)).show [.command id serial] (o.ofMatrices id ms)

/-- Issue an array command: the lease covers its tiles, the list has room, the coordinates are captured (R261). -/
def State.arrayCommand (s : State) (w : MC) (mk : MC → Instr) : Host.Outcome State Fault Refusal :=
  s.mTask (fun s id t => do
    let i := mk { w with acc := w.acc + t.tileStep }
    require (decide (t.lease ≠ 0) && (commandTiles i).all t.leases) .leaseViolation
    await (decide (t.cmds.length < 32))
    let c := t.newCmd i w.ca w.cb w.ct
    .ok ((s.setTask id (t.pushCmd c).repeated).ordered (fun o => o.issueCommand id t.nextSerial c.matrices)))

def execMma (w : MC) (s : State) : Host.Outcome State Fault Refusal := s.arrayCommand w .mma
def execMmaz (w : MC) (s : State) : Host.Outcome State Fault Refusal := s.arrayCommand w .mmaz
def execMmb (w : MC) (s : State) : Host.Outcome State Fault Refusal := s.arrayCommand w .mmb
def execMmi (w : MC) (s : State) : Host.Outcome State Fault Refusal := s.arrayCommand w .mmi
def execMclr (w : MC) (s : State) : Host.Outcome State Fault Refusal := s.arrayCommand w .mclr
def execMld (w : MC) (s : State) : Host.Outcome State Fault Refusal := s.arrayCommand w .mld
def execMst (w : MC) (s : State) : Host.Outcome State Fault Refusal := s.arrayCommand w .mst
def execMadd (w : MC) (s : State) : Host.Outcome State Fault Refusal := s.arrayCommand w .madd
def execMscl (w : MC) (s : State) : Host.Outcome State Fault Refusal := s.arrayCommand w .mscl

/-! ## Leases (R256 to R258) -/

/-- The tiles of a cluster that leases hold. -/
def State.leased (s : State) (cluster : Nat) : BitVec 8 :=
  s.tasks.foldl (fun m e => if clusterOf e.2.core = cluster then m ||| e.2.lease else m) 0

/-- The mask a waiting request asks for. -/
def Task.wants (t : Task) : BitVec 8 :=
  match t.leaseSaved with
  | some r => r.1
  | none => t.leaseWait.getD 0

/-- The waiting requests of a cluster in order of request: task, priority, mask, `tsc` of the request. -/
def State.leaseRequests (s : State) (cluster : Nat) : List (Nat × Nat × BitVec 8 × Nat) :=
  s.leaseOrder.filterMap (fun r =>
    if r.1 ≠ cluster then none
    else (s.task? r.2.1).map (fun t => (r.2.1, t.prio, t.wants, r.2.2)))

/-- The request at place `k` can be granted: its tiles are free, and no earlier request of equal or higher priority that has
waited 1 ms stands ungranted before it (R258). -/
def State.leaseFree (s : State) (cluster prio : Nat) (mask : BitVec 8) (before : List (Nat × Nat × BitVec 8 × Nat)) : Bool :=
  decide (mask &&& s.leased cluster = 0) && before.all (fun r => decide (r.2.1 < prio) || decide (s.tsc < r.2.2.2 + 1000000))

/-- The requests that can be granted, each with what it asks for. -/
def State.grantable (s : State) (cluster : Nat) : List (Nat × Nat × BitVec 8 × Nat) :=
  let rs := s.leaseRequests cluster
  ((rs.zipIdx).filter (fun r => s.leaseFree cluster r.1.2.1 r.1.2.2.1 (rs.take r.2))).map (·.1)

/-- The first of the highest priority. -/
def firstHighest : List (Nat × Nat × BitVec 8 × Nat) → Option (Nat × Nat × BitVec 8 × Nat)
  | [] => none
  | r :: rs =>
    match firstHighest rs with
    | none => some r
    | some q => if r.2.1 < q.2.1 then some q else some r

/-- A request leaves the order. -/
def State.dropLease (s : State) (id : Nat) : State := { s with leaseOrder := s.leaseOrder.filter (fun r => decide (r.2.1 ≠ id)) }

/-- The saved tiles of a task go back into the tile store. -/
def State.restoreTiles (s : State) (cluster : Nat) (mask : BitVec 8) (saved : SMap (BitVec 32)) : State :=
  (List.range 8).foldl (fun s i =>
    if mask.getLsbD i then s.setTile cluster i (fun m n => saved.get 0 (131072 * i + 512 * m + n)) else s) s

/-- A lease is granted: to a task whose context has been loaded, with its tiles restored (R260). -/
def State.grantLease (s : State) (id : Nat) (t : Task) (mask : BitVec 8) : State :=
  let s := (s.dropLease id).setTask id { t with lease := mask, leaseSaved := none }
  match t.leaseSaved with
  | some r => s.restoreTiles (clusterOf t.core) mask r.2
  | none => s

/-- LEASE: granted at once where it can be, else requested and waited for (R256). Requests that a release lets through are granted
before any other step (R258: `State.atOnce`). -/
def execLease (w : MS) (s : State) : Host.Outcome State Fault Refusal :=
  s.mTask (fun s id t => do
    let mask := w.imm.extractLsb' 0 8
    let c := clusterOf t.core
    match t.leaseWait with
    | some _ =>
      if t.lease ≠ 0 then .ok (s.setTask id { t with leaseWait := none, sm := t.sm.advance }) else .error .hold
    | none =>
      require (decide (t.lease = 0)) .leaseViolation
      if s.leaseFree c t.prio mask (s.leaseRequests c) then
        .ok (s.setTask id { t with lease := mask, sm := t.sm.advance })
      else
        .error (.pend { s.setTask id { t with leaseWait := some mask } with leaseOrder := s.leaseOrder ++ [(c, id, s.tsc)] }))

/-- LFREE: once every command has completed the lease is released; without a lease it does nothing (R257). -/
def execLfree (_ : MS) (s : State) : Host.Outcome State Fault Refusal :=
  s.mTask (fun s id t => do
    await (decide (t.lease = 0) || t.cmds.isEmpty)
    .ok (s.setTask id { t with lease := 0, sm := t.sm.advance }))

/-- LEASE_GRANT in cluster `arg.x`: the request that R258 puts first. -/
def execLeaseGrant (s : State) : Host.Outcome State Fault Refusal :=
  s.event (fun s => do
    let r ← need (firstHighest (s.grantable s.arg.x))
    let t ← need (s.task? r.1)
    .ok (s.grantLease r.1 t r.2.2.1))

/-! ## Stream words (R268, R276 to R279) -/

def execMset (w : MS) (s : State) : Host.Outcome State Fault Refusal :=
  s.mTask (fun s id t =>
    .ok (s.setTask id { t with coords := t.coords.set 0 w.creg.toNat (w.imm.extractLsb' 0 32), sm := t.sm.advance }))

def execMinc (w : MS) (s : State) : Host.Outcome State Fault Refusal :=
  s.mTask (fun s id t =>
    .ok (s.setTask id
      { t with coords := t.coords.set 0 w.creg.toNat (t.coord w.creg + w.imm.extractLsb' 0 32), sm := t.sm.advance }))

/-- A word whose opcode is that of an array command. -/
def isArrayWord (v : BitVec 96) : Bool := decide (3 ≤ opcode v) && decide (opcode v ≤ 0x0B)

/-- MREP: the checks before the first repetition, then the next word `count` times (R277). -/
def execMrep (w : MS) (s : State) : Host.Outcome State Fault Refusal :=
  s.mTask (fun s id t => do
    require (decide (t.sm.pc + 3 ≠ t.sm.spanEnd)) .sectionFormat
    let bs ← s.fetch id t.core t.asid 2 (t.sm.pc + 3) 12
    let v := bytesWord bs
    require (isArrayWord v) .reservedField
    match decode .m v with
    | .error .illegalOp => raise .illegalOp
    | .error .reservedField => raise .reservedField
    | .ok i =>
      let count := bits w.imm.toNat 32 16
      let step := bits w.imm.toNat 48 3
      let named := (List.range (min count 8)).flatMap (fun r =>
        match commandTiles i with
        | a :: rest => (a + r * step) % 8 :: rest
        | [] => [])
      require (decide (count = 0) || decide (t.lease ≠ 0) && named.all t.leases) .leaseViolation
      let u := { t with sm := t.sm.advance }
      if count = 0 then .ok (s.setTask id { u with sm := u.sm.advance })
      else .ok (s.setTask id { u with mrep := some { left := count, creg := w.creg, imm := w.imm } }))

/-- MFENCE: waits until no earlier command of the streams in its mask is left; later commands see their writes (R262, R278). -/
def execMfence (w : MS) (s : State) : Host.Outcome State Fault Refusal :=
  s.mTask (fun s id t => do
    let ms := w.imm.extractLsb' 0 8
    await (!busyStreams ms t.cmds)
    .ok ((s.setTask id { t with sm := t.sm.advance }).ordered (fun o =>
      o.show [.array id] (o.ofMatrices id ((List.range 8).filter ms.getLsbD)))))

/-- MBARV enters the command list (R278). -/
def execMbarv (w : MS) (s : State) : Host.Outcome State Fault Refusal :=
  s.mTask (fun s id t => do
    await (decide (t.cmds.length < 32))
    let u := t.pushCmd (t.newCmd (.mbarv w) 0 0 0)
    .ok (s.setTask id { u with sm := u.sm.advance }))

def execMfin (_ : MS) (s : State) : Host.Outcome State Fault Refusal :=
  s.mTask (fun s id t => .ok (s.setTask id { t with sm := t.sm.finish }))

def execMnop (_ : MS) (s : State) : Host.Outcome State Fault Refusal :=
  s.mTask (fun s id t => .ok (s.setTask id { t with sm := t.sm.advance }))

/-! ## The glyphs of a command (R264, R269) -/

/-- The view of a cluster's matrix loads and stores for a command of a task: it sees what was visible at the command's issue (R322). -/
def State.matrixView (s : State) (id : Nat) (t : Task) (serial : Nat) : View :=
  { unit := 192 + clusterOf t.core, asid := some t.asid, ident := coreIdent s.tower t.core 2 3, reach := .engine, astream := false,
    who := some (.command id serial), grain := 8 }

/-- A glyph of a task as the array reads it. -/
def State.matrixGlyph (s : State) (v : View) (t : Task) (n : BitVec 10) : Try Glyph := do
  let bs ← s.viewRead v (t.glyphs + 64 * n.toNat) 64
  .ok (glyphOf (dwords 8 bs))

/-- Elements of a block of an MX glyph. -/
def Glyph.block (g : Glyph) : Nat := if g.mx = 2 then 256 else 32

/-- The rules of MMA, MMAZ (R271), MMB and MMI (R272) on their two glyphs. -/
def mulOk (i : Instr) (ga gb : Glyph) : Bool :=
  ga.ok && gb.ok &&
  match i with
  | .mma w | .mmaz w =>
    decide (ga.ty = w.mtype.toNat) && decide (ga.mx = 0) && decide (gb.mx = 0) &&
      (decide (gb.ty = ga.ty) || (decide (ga.ty = 9 ∨ ga.ty = 10) && decide (gb.ty = 9 ∨ gb.ty = 10)))
  | .mmb w =>
    decide (ga.ty = w.mtype.toNat) && decide (ga.mx ≠ 0) && decide (gb.mx ≠ 0) && decide (8 ≤ gb.ty) && decide (gb.ty ≤ 10)
  | .mmi w =>
    decide (ga.ty = w.mtype.toNat) && decide (gb.ty < 4) && decide (typeBits gb.ty = typeBits ga.ty)
  | _ => true

/-- The rules of MLD (R274). -/
def mldOk (w : MC) (g : Glyph) : Bool := g.ok && decide (g.ty = w.mtype.toNat) && decide (g.mx = 0)

/-- The rules of MST (R275); `org` is the tile's origin on axis 0. -/
def mstOk (w : MC) (g : Glyph) (org : Int) : Bool :=
  g.ok && decide (g.ty = w.mtype.toNat) && decide (g.memfmt = 0) &&
  (if g.mx ≠ 0 then
      decide (w.msat = 0) && !w.cfn.getLsbD 0 && decide (8 ≤ g.ty) && decide (g.ty ≤ 10) && decide (org % (g.block : Int) = 0)
   else w.cfn.getLsbD 0 || typeFloat g.ty || decide (w.msat = 0))

/-- The origin of a store on axis 0. -/
def Cmd.origin0 (c : Cmd) (w : MC) : Int := if w.ta = 0 then c.cb.toInt else c.ca.toInt

/-- The glyphs of a command, checked: GLYPH_INVALID where they fail (R264). -/
def State.commandGlyphs (s : State) (v : View) (t : Task) (c : Cmd) : Try (List Glyph) :=
  match c.word with
  | .mma w | .mmaz w | .mmb w | .mmi w => do
    let ga ← s.matrixGlyph v t w.ga
    let gb ← s.matrixGlyph v t w.gb
    require (mulOk c.word ga gb) .glyphInvalid
    .ok [ga, gb]
  | .mld w => do
    let g ← s.matrixGlyph v t w.ga
    require (mldOk w g) .glyphInvalid
    .ok [g]
  | .mst w => do
    let g ← s.matrixGlyph v t w.ga
    require (mstOk w g (c.origin0 w)) .glyphInvalid
    .ok [g]
  | _ => .ok []

/-! ## Operands (R269) -/

/-- The element of a glyph at coordinates of axes 0 and 1: out of range, the pad, without an access; with its MX scale. -/
def State.matrixElem (s : State) (v : View) (g : Glyph) (x y : Int) : Try (Nat × Nat) :=
  let c := [x, y, 0, 0, 0]
  if outsideOf g x y then .ok (g.padValue, 127)
  else do
    let e ← s.readElem v g (g.offset c) 0
    if g.mx = 0 then .ok (e, 127)
    else do
      let bs ← s.viewRead v (g.scaleAt c) 1
      .ok (e, leNat bs)
where
  outsideOf (g : Glyph) (x y : Int) : Bool :=
    decide (x < 0) || decide ((g.dim 0 : Int) ≤ x) || decide (y < 0) || decide ((g.dim 1 : Int) ≤ y)

/-- Several elements, at the coordinates listed. -/
def State.matrixElems (s : State) (v : View) (g : Glyph) : List (Int × Int) → Try (List (Nat × Nat))
  | [] => .ok []
  | p :: ps => do
    let x ← s.matrixElem v g p.1 p.2
    let xs ← s.matrixElems v g ps
    .ok (x :: xs)

/-- Elements to a chunk of K (R72). -/
def chunkSize (ga gb : Glyph) : Nat := if typeBits ga.ty = 4 ∧ typeBits gb.ty = 4 then 128 else 64

/-- The coordinates of OpA(m, k) for the ks listed. -/
def opA (c : Cmd) (w : MC) (m : Nat) (k : Nat) : Int × Int :=
  let h : Int := c.ct.toInt + (k : Int)
  let a : Int := c.ca.toInt + (m : Int)
  if w.ta = 0 then (h, a) else (a, h)

/-- The coordinates of OpB(k, n). -/
def opB (c : Cmd) (w : MC) (k : Nat) (n : Nat) : Int × Int :=
  let h : Int := c.ct.toInt + (k : Int)
  let b : Int := c.cb.toInt + (n : Int)
  if w.tb = 0 then (h, b) else (b, h)

/-- An element as a value, with its scale. -/
def elemVal (g : Glyph) (e : Nat × Nat) : Val :=
  if g.mx = 0 then (fmtOf g.ty).value e.1 else mxValue ((fmtOf g.ty).value e.1) e.2

/-- Only NV and OF reach `fp.flags` (R73). -/
def arrayFlags (f : Flags) : Flags := f &&& 0b000101#6

/-- One element after a chunk: the exact chunk sum rounded to FP32, then added (R72, R73). -/
def chunkFloat (acc : BitVec 32) (ps : List (Val × Val)) : BitVec 32 × Flags :=
  let sum := componentRound (ps.map (fun p => prod false p.1 p.2)) fF32 0 false
  let t := addVal 0 (fF32.value acc.toNat) (fF32.value sum.1)
  let r := roundVal fF32 0 false t.1
  (BitVec.ofNat 32 r.1, sum.2 ||| t.2 ||| r.2)

/-- One element after a chunk of MMI. -/
def chunkInt (acc : BitVec 32) (ps : List (Int × Int)) : BitVec 32 :=
  acc + BitVec.ofInt 32 (ps.foldl (fun (a : Int) p => a + p.1 * p.2) 0)

/-- An integer element. -/
def elemInt (g : Glyph) (e : Nat × Nat) : Int := if typeSigned g.ty then signed (typeBits g.ty) e.1 else (e.1 : Int)

/-- The accumulators start at zero: MMAZ, and MMI with cfn bit 0. -/
def startsZero (i : Instr) : Bool :=
  match i with
  | .mmaz _ => true
  | .mmi w => w.cfn.getLsbD 0
  | _ => false

/-- Chunk `j` of a multiply: every element of the tile takes its chunk sum (R271, R272). -/
def State.mulChunk (s : State) (v : View) (cluster : Nat) (c : Cmd) (w : MC) (ga gb : Glyph) (j : Nat) : Try (State × Flags) := do
  let size := chunkSize ga gb
  let ks := (List.range (min size (w.kk.toNat - size * j))).map (fun i => size * j + i)
  let as_ ← rows s v ga (fun m => ks.map (opA c w m)) (List.range 256)
  let bs ← rows s v gb (fun n => ks.map (fun k => opB c w k n)) (List.range 512)
  let tile := w.acc.toNat
  let acc (m n : Nat) : BitVec 32 := if startsZero c.word && decide (j = 0) then 0 else s.tile cluster tile m n
  match c.word with
  | .mmi _ =>
    let xa := as_.map (fun r => r.map (elemInt ga))
    let xb := bs.map (fun r => r.map (elemInt gb))
    .ok (s.setTile cluster tile (fun m n => chunkInt (acc m n) ((xa.getD m []).zip (xb.getD n []))), 0)
  | _ =>
    let xa := as_.map (fun r => r.map (elemVal ga))
    let xb := bs.map (fun r => r.map (elemVal gb))
    let out (m n : Nat) := chunkFloat (acc m n) ((xa.getD m []).zip (xb.getD n []))
    let fl := (List.range 256).foldl (fun f m => (List.range 512).foldl (fun f n => f ||| (out m n).2) f) (0 : Flags)
    .ok (s.setTile cluster tile (fun m n => (out m n).1), arrayFlags fl)
where
  /-- Several rows of elements. -/
  rows (s : State) (v : View) (g : Glyph) (f : Nat → List (Int × Int)) : List Nat → Try (List (List (Nat × Nat)))
    | [] => .ok []
    | i :: is => do
      let x ← s.matrixElems v g (f i)
      let xs ← rows s v g f is
      .ok (x :: xs)

/-! ## Loads and stores of tiles (R274, R275) -/

/-- The coordinates of element (m, n) of the tile in the glyph of MLD and MST. -/
def tileCoords (c : Cmd) (w : MC) (m n : Nat) : Int × Int :=
  let a : Int := c.ca.toInt + (m : Int)
  let b : Int := c.cb.toInt + (n : Int)
  if w.ta = 0 then (b, a) else (a, b)

/-- An element as MLD writes it. -/
def mldValue (ty e : Nat) : BitVec 32 × Flags :=
  if ty = 11 ∨ ty = 12 then
    let r := roundVal fF32 0 false ((fmtOf ty).value e)
    (BitVec.ofNat 32 r.1, r.2)
  else (BitVec.ofNat 32 e, 0)

/-- Row `m` of MLD. -/
def State.mldRow (s : State) (v : View) (cluster : Nat) (c : Cmd) (w : MC) (g : Glyph) (m : Nat) : Try (State × Flags) := do
  let es ← s.matrixElems v g ((List.range 512).map (tileCoords c w m))
  let rs := es.map (fun e => mldValue g.ty e.1)
  .ok (s.setRow cluster w.acc.toNat m (fun n => (rs.getD n (0, 0)).1), arrayFlags (rs.foldl (fun f r => f ||| r.2) 0))

/-- A tile word as MST writes it to a glyph without scales. -/
def mstValue (w : MC) (ty : Nat) (x : BitVec 32) : Nat × Flags :=
  let rnd := w.mrnd.toNat
  let sat := decide (w.msat = 1)
  if !w.cfn.getLsbD 0 then
    if typeFloat ty then roundVal (fmtOf ty) rnd (satsel ty sat) (fF32.value x.toNat)
    else
      let r := floatToInt ty rnd (fF32.value x.toNat)
      (intPat (typeBits ty) r.1, r.2)
  else if typeFloat ty then roundVal (fmtOf ty) rnd (satsel ty sat) (.fin (Exact.ofInt x.toInt))
  else
    let r := intResult x.toInt ty sat
    (intPat (typeBits ty) r.1, r.2)

/-- Element writes of a glyph at coordinates in range, all checked before any is made. -/
def State.putElems (s : State) (v : View) (g : Glyph) (es : List ((Int × Int) × Nat)) : Try State := do
  let at_ (p : Int × Int) : Int := g.offset [p.1, p.2, 0, 0, 0]
  s.writeTogether v g 0 (es.map (fun e => (at_ e.1, e.2)))

/-- Coordinates inside the glyph. -/
def Glyph.inRange (g : Glyph) (p : Int × Int) : Bool :=
  decide (0 ≤ p.1) && decide (p.1 < (g.dim 0 : Int)) && decide (0 ≤ p.2) && decide (p.2 < (g.dim 1 : Int))

/-- Row `m` of MST to a glyph without scales. -/
def State.mstRow (s : State) (v : View) (cluster : Nat) (c : Cmd) (w : MC) (g : Glyph) (m : Nat) : Try (State × Flags) := do
  let es := (List.range 512).map (fun n => (tileCoords c w m n, mstValue w g.ty (s.tile cluster w.acc.toNat m n)))
  let es := es.filter (fun e => g.inRange e.1)
  let s' ← s.putElems v g (es.map (fun e => (e.1, e.2.1)))
  .ok (s', arrayFlags (es.foldl (fun f e => f ||| e.2.2) 0))

/-- A block of MST to an MX glyph: quantised over its elements in range, with its scale; none in range writes nothing. -/
def State.mstBlock (s : State) (v : View) (g : Glyph) (rnd : Nat) (es : List ((Int × Int) × BitVec 32)) : Try (State × Flags) := do
  let es := es.filter (fun e => g.inRange e.1)
  match es with
  | [] => .ok (s, 0)
  | e :: _ =>
    let q := quantiseMX (es.map (fun e => fF32.value e.2.toNat)) g.ty rnd
    let at_ := g.scaleAt [e.1.1, e.1.2, 0, 0, 0]
    let _ ← s.check v .write at_ 1
    let s ← s.putElems v g ((es.map (·.1)).zip q.2.1)
    let s ← s.viewWrite v at_ [BitVec.ofNat 8 q.1]
    .ok (s, arrayFlags q.2.2)

/-- Blocks one after another. -/
def State.mstBlocks (s : State) (v : View) (g : Glyph) (rnd : Nat) : List (List ((Int × Int) × BitVec 32)) → Flags →
    Try (State × Flags)
  | [], f => .ok (s, f)
  | b :: bs, f => do
    let r ← s.mstBlock v g rnd b
    r.1.mstBlocks v g rnd bs (f ||| r.2)

/-- Unit `r` of MST to an MX glyph: row `r` with blocks along n, or with ta = 1 a group of B rows (R265, R275). -/
def State.mstGroup (s : State) (v : View) (cluster : Nat) (c : Cmd) (w : MC) (g : Glyph) (r : Nat) : Try (State × Flags) :=
  let b := g.block
  let elem (m n : Nat) := (tileCoords c w m n, s.tile cluster w.acc.toNat m n)
  let blocks :=
    if w.ta = 0 then (List.range (512 / b)).map (fun k => (List.range b).map (fun i => elem r (b * k + i)))
    else (List.range 512).map (fun n => (List.range b).map (fun i => elem (b * r + i) n))
  s.mstBlocks v g w.mrnd.toNat blocks 0

/-! ## A command, unit by unit -/

/-- The units of a command: K chunks, or tile rows, or groups of rows (R265); an MBARV has none. -/
def Cmd.units (c : Cmd) (gs : List Glyph) : Nat :=
  match c.word, gs with
  | .mma w, [ga, gb] | .mmaz w, [ga, gb] | .mmb w, [ga, gb] | .mmi w, [ga, gb] =>
    let n := ceilDiv w.kk.toNat (chunkSize ga gb)
    if startsZero c.word then max n 1 else n
  | .mst w, [g] => if g.mx ≠ 0 ∧ w.ta = 1 then 256 / g.block else 256
  | .mld _, _ | .mclr _, _ | .madd _, _ | .mscl _, _ => 256
  | _, _ => 0

/-- The tile rows that unit `r` of a command reads: tile, first row, number of rows. -/
def tileReads (i : Instr) (gs : List Glyph) (r : Nat) : List (Nat × Nat × Nat) :=
  match i, gs with
  | .mma w, _ | .mmb w, _ => [(w.acc.toNat, 0, 256)]
  | .mmaz w, _ => if r = 0 then [] else [(w.acc.toNat, 0, 256)]
  | .mmi w, _ => if startsZero i && decide (r = 0) then [] else [(w.acc.toNat, 0, 256)]
  | .mst w, [g] => if g.mx ≠ 0 ∧ w.ta = 1 then [(w.acc.toNat, g.block * r, g.block)] else [(w.acc.toNat, r, 1)]
  | .madd w, _ => [(w.acc.toNat, r, 1), (bits w.cfn.toNat 0 3, r, 1)]
  | .mscl w, _ => [(w.acc.toNat, r, 1)]
  | _, _ => []

/-- A word with a lasting parity error in the rows a unit reads (R369). -/
def State.tileParity (s : State) (cluster : Nat) (reads : List (Nat × Nat × Nat)) : Option Nat :=
  s.badTiles.find? (fun b => reads.any (fun r =>
    decide (tileIndex cluster r.1 r.2.1 0 ≤ b) && decide (b < tileIndex cluster r.1 (r.2.1 + r.2.2) 0)))

/-- An element of the sum of two tiles, in integers or in FP32 (R273). -/
def maddValue (w : MC) (x y : BitVec 32) : BitVec 32 × Flags :=
  if w.cfn.getLsbD 3 then (x + y, 0)
  else
    let z := addVal 0 (fF32.value x.toNat) (fF32.value y.toNat)
    let q := roundVal fF32 0 false z.1
    (BitVec.ofNat 32 q.1, z.2 ||| q.2)

/-- An element of a tile scaled by the FP32 value in `ct` (R273). -/
def msclValue (c : Cmd) (w : MC) (x : BitVec 32) : BitVec 32 × Flags :=
  let z := mulVal (fF32.value x.toNat) (fF32.value c.ct.toNat)
  let q := roundVal fF32 w.mrnd.toNat (decide (w.msat = 1)) z.1
  (BitVec.ofNat 32 q.1, z.2 ||| q.2)

/-- The flags of the elements of a tile row. -/
def rowFlags (out : Nat → BitVec 32 × Flags) : Flags :=
  arrayFlags ((List.range 512).foldl (fun f n => f ||| (out n).2) (0 : Flags))

/-- Unit `r` of a command on sound rows. -/
def State.soundUnit (s : State) (v : View) (t : Task) (c : Cmd) (gs : List Glyph) (r : Nat) : Try (State × Flags) :=
  let k := clusterOf t.core
  match c.word, gs with
  | .mma w, [ga, gb] | .mmaz w, [ga, gb] | .mmb w, [ga, gb] | .mmi w, [ga, gb] => s.mulChunk v k c w ga gb r
  | .mld w, [g] => s.mldRow v k c w g r
  | .mst w, [g] => if g.mx = 0 then s.mstRow v k c w g r else s.mstGroup v k c w g r
  | .mclr w, _ => .ok (s.setRow k w.acc.toNat r (fun _ => 0), 0)
  | .madd w, _ =>
    let out (n : Nat) := maddValue w (s.tile k w.acc.toNat r n) (s.tile k (bits w.cfn.toNat 0 3) r n)
    .ok (s.setRow k w.acc.toNat r (fun n => (out n).1), rowFlags out)
  | .mscl w, _ =>
    let out (n : Nat) := msclValue c w (s.tile k w.acc.toNat r n)
    .ok (s.setRow k w.acc.toNat r (fun n => (out n).1), rowFlags out)
  | _, _ => .ok (s, 0)

/-- Unit `r` of a command. -/
def State.commandUnit (s : State) (v : View) (t : Task) (c : Cmd) (gs : List Glyph) (r : Nat) : Try (State × Flags) :=
  match s.tileParity (clusterOf t.core) (tileReads c.word gs r) with
  | some b => .error (.parity b)
  | none => s.soundUnit v t c gs r

/-- Where a command has got to: the machine, the units done, its flags, and why it stopped, if it has. -/
structure Progress where
  s : State
  row : Nat
  flags : Flags
  stop : Option Stop

/-- Run units in order until one stops. -/
def Progress.run (v : View) (t : Task) (c : Cmd) (gs : List Glyph) : Nat → Progress → Progress
  | 0, p => p
  | n + 1, p =>
    match p.s.commandUnit v t c gs p.row with
    | .ok r => Progress.run v t c gs n { s := r.1, row := p.row + 1, flags := p.flags ||| r.2, stop := none }
    | .error (.pend s') => { p with s := s', stop := some .hold }
    | .error e => { p with stop := some e }

/-- What the arrival of an MBARV brings: the writes of the commands it has waited for, and what else the M stream knows (R278, R312). -/
def State.mbarvBring (s : State) (id : Nat) (c : Cmd) : Bring :=
  { party := .task id, before := (s.order.know (.out id .m)).before, data := s.order.ofMatrices id c.matrices
    seen := (s.order.know (.out id .m)).seen }

/-- The writes that a command has made since `old`. -/
def State.commandWrites (old s : State) (id : Nat) (c : Cmd) : State :=
  if s.order.next = old.order.next then s
  else s.ordered (fun o => o.learn (.command id c.serial) { before := o.since old.order.next, seen := [], own := [] })

/-- A command has completed: its writes happen before what waits for it, and the task's sections that wait on its section, and the
commands after it in its matrix streams, `later`, see them (R262, R263, R309, R312). -/
def Order.commandDone (o : Order) (id : Nat) (c : Cmd) (later : List Nat) : Order :=
  let ns := (o.know (.command id c.serial)).before
  let x : Know := { before := ns, seen := [], own := ns }
  (((c.matrices.foldl (fun o m => o.learn (.matrix id m) x) o).pass id .m c.sec x).show (later.map (Viewer.command id)) ns).forget
    (fun v => decide (v = Viewer.command id c.serial)) (fun k => decide (k = Knower.command id c.serial))

/-- The commands after one in its matrix streams. -/
def Task.laterCmds (t : Task) (c : Cmd) : List Nat :=
  (t.cmds.filter (fun d => decide (c.serial < d.serial) && decide (d.streams &&& c.streams ≠ 0))).map (·.serial)

/-- MBARV: its arrival at a barrier of the task's core; a target of 0 stops it (R278). -/
def State.mbarvArrive (s : State) (id : Nat) (t : Task) (c : Cmd) (w : MS) : Try State :=
  let n := bits w.imm.toNat 0 11
  if (s.bar t.core n).target = 0 then raise .barrierMisuse
  else .ok (s.arrive t.core n (bits w.imm.toNat 24 40) false (s.mbarvBring id c))

/-- A command from its recorded boundary on (R265), its glyphs checked first (R264): where it gets to. -/
def State.runCommand (s : State) (id : Nat) (t : Task) (c : Cmd) : Progress :=
  let v := s.matrixView id t c.serial
  let p : Progress := { s := s, row := c.row, flags := c.flags, stop := none }
  match c.word with
  | .mbarv w =>
    match s.mbarvArrive id t c w with
    | .ok s' => { p with s := s' }
    | .error e => { p with stop := some e }
  | _ =>
    match s.commandGlyphs v t c with
    | .ok gs => Progress.run v t c gs (c.units gs - c.row) p
    | .error e => { p with stop := some e }

/-! ## The steps of the array -/

/-- Another command has started and not completed, and names a tile of this one. -/
def Task.tilesTaken (t : Task) (c : Cmd) : Bool :=
  t.cmds.any (fun d => decide (d.serial ≠ c.serial) && d.started && (commandTiles d.word).any (commandTiles c.word).contains)

/-- The array may work on a command of a task: no earlier command of its matrix streams is left, no command that has got part of the
way names a tile of it, so that each takes effect whole (R262), its lease is held, and the array has not stopped starting commands
(R264). -/
def Task.canRun (t : Task) (c : Cmd) : Bool :=
  !c.faulted && !busyStreams c.streams (beforeSerial c.serial t.cmds) && !t.tilesTaken c &&
    (match c.word with
      | .mbarv _ => (t.isResident && !t.saving) || decide (t.run = .faulted) || decide (t.run = .retired)
      | _ => decide (t.lease ≠ 0)) &&
    (c.started || (!t.cmdStop && t.heldFp.isNone))

/-- The command a step of the array concerns: `arg.x` its task, `arg.y` its serial. -/
def State.theCommand (s : State) : Try (Nat × Task × Cmd) := do
  let t ← need (s.task? s.arg.x)
  let c ← need (t.cmds.find? (fun c => c.serial = s.arg.y))
  await (t.canRun c)
  .ok (s.arg.x, t, c)

/-- Change a command of the list. -/
def Task.onCmd (t : Task) (n : Nat) (f : Cmd → Cmd) : Task :=
  { t with cmds := t.cmds.map (fun c => if c.serial = n then f c else c) }

/-- The progress of a command that has stopped at a boundary is recorded (R265). -/
def Task.recordProgress (t : Task) (c : Cmd) (p : Progress) : Task :=
  t.onCmd c.serial (fun c => { c with row := p.row, flags := p.flags, started := c.started || decide (p.row ≠ 0) })

/-- The command has completed: it leaves the list and its flags are set; an enabled one leaves an array FP_EXCEPTION to be
delivered, and the array starts no further command (R266). -/
def Task.completeCmd (t : Task) (c : Cmd) (flags : Flags) : Task :=
  let t := { t with cmds := t.cmds.filter (fun d => decide (d.serial ≠ c.serial)) }
  if flags = 0 then t
  else { t.setFlags flags with heldFp := if t.heldFp.isNone && t.trapsOn flags then some c.pc else t.heldFp }

/-- A task that ended faulted keeps its lease until the commands that had started have completed (R257). -/
def Task.endLease (t : Task) : Task := if t.run = .faulted ∧ t.cmds.isEmpty = true then { t with lease := 0 } else t

/-- The array has served a chunk or a row in this cycle, where a command has got further (R380). -/
def State.served (s : State) (core : Nat) (c : Cmd) (p : Progress) : State :=
  if p.row = c.row then s
  else s.setCluster (clusterOf core) { s.cluster (clusterOf core) with served := s.cyc core + 1 }

/-- MATRIX_COMMAND_COMPLETE: the command runs to its end; a wait on a translation or on a copy of a paged block leaves it at a
boundary (R261, R265). -/
def execMatrixCommandComplete (s : State) : Host.Outcome State Fault Refusal :=
  s.event (fun s => do
    let (id, t, c) ← s.theCommand
    let p := s.runCommand id t c
    let v := (s.commandWrites p.s id c).served t.core c p
    match p.stop with
    | none => .ok ((v.onTask id (fun t => (t.completeCmd c p.flags).endLease)).ordered (fun o => o.commandDone id c (t.laterCmds c)))
    | some (.miss u a va) => .error (.pend ((v.onTask id (fun t => t.recordProgress c p)).startWalk u a va))
    | some .hold => .error (.pend (v.onTask id (fun t => t.recordProgress c p)))
    | _ => .error .hold)

/-- The record of a matrix command (R265, R446). -/
def State.commandRecord (s : State) (id : Nat) (t : Task) (c : Cmd) (row : Nat) (cause : Cause) (va : Nat) : Record :=
  let w := c.fields.map (fun w => w.ms.toNat + 8 * w.acc.toNat)
  let m := match c.word with
    | .mbarv w => bits w.imm.toNat 16 3
    | _ => 0
  { src := .command id c.serial, cause := some cause, kind := 3, info := false, nested := false, path := false, transient := false,
    stream := 2, taskId := t.ident s.tower, pc := c.pc.toNat, va := va, ident := (coreIdent s.tower t.core 2 3).toNat,
    detail := w.getD m, serial := t.arming % 2 ^ 32, second := row }

/-- A task record whose word 1 names the failing command's word (R264). -/
def State.arrayTrap (s : State) (id : Nat) (t : Task) (c : Cmd) (cause : Cause) (va : Nat) : State :=
  (s.onTask id (fun t => { t with cmdStop := true })).trapNaming id .m cause t.sm.pc va c.pc

/-- A glyph of the command fails its checks: MATRIX_GLYPH_INVALID is the step (R264). -/
def State.glyphsFail (s : State) (id : Nat) (t : Task) (c : Cmd) : Bool :=
  match s.commandGlyphs (s.matrixView id t c.serial) t c with
  | .error (.trap .glyphInvalid _) => true
  | _ => false

/-- A command stops at the boundary it has reached, and a record of it is posted (R265). -/
def State.stopCommand (s : State) (id : Nat) (t : Task) (c : Cmd) (row : Nat) (cause : Cause) (va : Nat) : State :=
  (s.onTask id (fun t => t.onCmd c.serial (fun c => { c with faulted := true }))).post (s.commandRecord id t c row cause va)

/-- MATRIX_FETCH_FAULT: the command stops at the boundary it has reached and a record is posted (R265), of a failed paged resolution
(R402) and of a parity error (R369) too. A lasting error of memory is handled as a failing glyph is. -/
def execMatrixFetchFault (s : State) : Host.Outcome State Fault Refusal :=
  s.event (fun s => do
    let (id, t, c) ← s.theCommand
    let p := s.runCommand id t c
    let v := (s.commandWrites p.s id c).served t.core c p
    match p.stop with
    | some (.trap cause va) =>
      let u := (if va = 0 then v else v.dropFailed va).onTask id (fun t => t.recordProgress c p)
      await (!s.glyphsFail id t c)
      if cause = .uncorrectable then do
        await (decide (t.run = .running))
        .ok (u.arrayTrap id t c cause va)
      else .ok (u.stopCommand id t c p.row cause va)
    | some (.parity _) => .ok ((v.onTask id (fun t => t.recordProgress c p)).stopCommand id t c p.row .uncorrectable 0)
    | _ => .error .hold)

/-- MATRIX_GLYPH_INVALID: the array finds a failing glyph; it starts no further command, and the M stream stops (R264). -/
def execMatrixGlyphInvalid (s : State) : Host.Outcome State Fault Refusal :=
  s.event (fun s => do
    let (id, t, c) ← s.theCommand
    await (decide (t.run = .running) && s.glyphsFail id t c)
    .ok (s.arrayTrap id t c .glyphInvalid 0))

end Sys2Proof.Machine
end

