-- ==== Sys2Proof/Machine/Csr.lean ====
section
/-! DEFINITION. The control and status registers (R41, R42, R178, R393, R448), with what the power chapter shows in them: the
group ceiling (R389), sensor values (R376, R377) and the monitor units (R394). -/

namespace Sys2Proof.Machine

/-! ## The group ceiling (R389) -/

/-- The least of several ceilings and one more. -/
def least (x : Nat) (xs : List Nat) : Nat := xs.foldl min x

/-- The group ceiling, from the members now (R389). -/
def Baseline.now (b : Baseline) : Nat :=
  if b.group.isSome then least b.own (b.members.values.map (·.ceil)) else b.own

/-- The change of a member that is due. -/
def Member.due (m : Member) (tsc : Nat) : Member :=
  match m.pending with
  | some (v, at_) => if at_ ≤ tsc then { m with ceil := v, pending := none } else m
  | none => m

/-- The own ceiling takes its pending value. -/
def Baseline.dueOwn (b : Baseline) (tsc : Nat) : Baseline :=
  match b.pending with
  | some (v, at_) => if at_ ≤ tsc then { b with own := v, pending := none } else b
  | none => b

/-- The members at a time: changes, arrivals and departures that are due by then have been made. -/
def Baseline.membersAt (b : Baseline) (tsc : Nat) (ms : SMap Member) : SMap Member :=
  let ms := (b.arriving.filter (fun e => decide (e.2.2 ≤ tsc))).foldl (fun (ms : SMap Member) e => ms.put e.1 { e.2.1 with heard := e.2.2 }) ms
  let ms := (b.leaving.filter (fun e => decide (e.2 ≤ tsc))).foldl (fun (ms : SMap Member) e => ms.del e.1) ms
  ms.map (fun e => (e.1, e.2.due tsc))

/-- The other towers' changes, arrivals and departures that are due, in the group or in the one that is being joined. -/
def Baseline.dueOthers (b : Baseline) (tsc : Nat) : Baseline :=
  { b with
    members := if b.group.isSome then b.membersAt tsc b.members else b.members
    joining := if b.group.isSome then b.joining else b.membersAt tsc b.joining
    arriving := b.arriving.filter (fun e => decide (tsc < e.2.2)), leaving := b.leaving.filter (fun e => decide (tsc < e.2))
    excluded := b.excluded.filter (fun n => !b.arriving.any (fun e => decide (e.1 = n) && decide (e.2.2 ≤ tsc))) }

/-- A join or a leave of this tower that is due: it takes effect, with result 0. -/
def Baseline.dueSelf (b : Baseline) (tsc : Nat) : Baseline :=
  match b.join, b.leave with
  | some (serial, g, _, some at_), _ =>
    if at_ ≤ tsc then
      { b with group := some g, members := b.joining.map (fun e => (e.1, { e.2 with heard := at_ })), joining := [],
               join := none, serial := serial, result := 0, excluded := [] }
    else b
  | _, some (serial, at_) =>
    if at_ ≤ tsc then
      { b with group := none, members := [], leave := none, serial := serial, result := 0, silent := false, arriving := [],
               leaving := [] }
    else b
  | _, _ => b

/-- Every change that is due. -/
def Baseline.due (b : Baseline) (tsc : Nat) : Baseline := ((b.dueOwn tsc).dueOthers tsc).dueSelf tsc

/-- The group ceiling at a coming time, under the changes now pending. -/
def Baseline.after (b : Baseline) (T : Nat) : Nat := (b.due T).now

/-- The times at which a change is pending. -/
def Baseline.times (b : Baseline) : List Nat :=
  let changes (ms : List Member) := ms.filterMap (fun m => m.pending.map (·.2))
  (b.pending.map (·.2)).toList ++ changes b.members.values ++ changes b.joining.values ++ changes (b.arriving.map (·.2.1)) ++
  (match b.join with
    | some (_, _, _, tj) => tj.toList
    | none => []) ++
  (b.leave.map (·.2)).toList ++ b.arriving.map (·.2.2) ++ b.leaving.map (·.2)

/-- `base.ceil` (R389). -/
def Baseline.ceil (b : Baseline) : Nat := if b.silent then min b.now 600 else b.now

/-- `base.next` and `base.at` (R389): both 0 when no pending change alters the group ceiling. -/
def Baseline.next (b : Baseline) : Nat × Nat :=
  match b.times.filter (fun T => decide (b.after T ≠ b.now)) with
  | [] => (0, 0)
  | T :: Ts => let m := least T Ts; (b.after m, m)

/-! ## Sensors (R376, R377) -/

/-- Put a number in its place in a rising list. -/
def insertInt (x : Int) : List Int → List Int
  | [] => [x]
  | y :: ys => if x ≤ y then x :: y :: ys else y :: insertInt x ys

/-- The median: the mean of the middle two, rounded down, of an even number. -/
def median (xs : List Int) : Option Int :=
  let ys := xs.foldr insertInt []
  let n := ys.length
  if n = 0 then none
  else if n % 2 = 1 then ys[n / 2]?
  else some ((ys.getD (n / 2 - 1) 0 + ys.getD (n / 2) 0) / 2)

/-- A sensor of a cluster. -/
def Cluster.sensor (k : Cluster) (i : Nat) : Sensor := k.sensors.get Sensor.reset i

/-- The sensors of the same kind: currents 0 to 2, temperatures 3 and 4. -/
def sameKind (i : Nat) : List Nat := if i < 3 then [0, 1, 2] else [3, 4]

/-- The value of a sensor: a faulty one is replaced by the median of the valid ones of its kind, or by the estimate. That the one
estimate of a cluster stands in for currents and temperatures alike, in the unit of each, is the model's choice. -/
def State.sensorValue (s : State) (c i : Nat) : Int :=
  let k := s.cluster c
  let raw (j : Nat) := s.meters.readings.get 0 (8 * c + j)
  if (k.sensor i).valid then raw i
  else
    match median (((sameKind i).filter (fun j => (k.sensor j).valid)).map raw) with
    | some v => v
    | none => (s.meters.estimates.get 0 c : Nat)

/-- The hottest temperature of a cluster, in thousandths of a degree. -/
def State.hottest (s : State) (c : Nat) : Int := max (s.sensorValue c 3) (s.sensorValue c 4)

/-- `mon.temp`: whole degrees, rounded down. -/
def State.monTemp (s : State) (c : Nat) : Int := s.hottest c / 1000

/-- `mon.sens` (Table 16.4). -/
def Cluster.monSens (k : Cluster) : Nat :=
  (List.range 5).foldr (fun i acc => acc * 2 + (if (k.sensor i).valid then 1 else 0)) 0 +
    (if k.clampSensor then 32 else 0) + (if k.clampHeat then 64 else 0)

/-- `mon.pair` (Table 16.4). -/
def Cluster.monPair (k : Cluster) : Nat := min (k.delta / 10) 255 * 256 + k.mark

/-! ## Monitor units (R394) -/

/-- Edge `b` of a unit. -/
def Monitor.edge (m : Monitor) (b : Nat) : Nat := bits (m.edges.get 0 (b / 4)).toNat (16 * (b % 4)) 16

/-- A unit's register at its offset from the unit's first number. -/
def Monitor.read (m : Monitor) (o : Nat) : Option Word :=
  if o = 0 then some (m.sel.setWidth 64)
  else if o ≤ 4 then some (m.edges.get 0 (o - 1))
  else if o = 5 then some (m.min.setWidth 64)
  else if o = 6 then some (m.max.setWidth 64)
  else if o = 7 then some m.count
  else if 0x10 ≤ o ∧ o < 0x20 then some ((m.bins.get 0 (o - 0x10)).setWidth 64)
  else none

/-! ## Reads (R41, R42, Table 1.7, Table 16.4) -/

/-- A CSR of task reach. -/
def State.csrTask (s : State) (t : Task) (n : Nat) : Option Word :=
  if n = 0x001 then some (BitVec.ofNat 64 (s.cyc t.core))
  else if n = 0x002 then some (BitVec.ofNat 64 (t.ident s.tower))
  else if n = 0x003 then some (BitVec.ofNat 64 t.win)
  else if n = 0x010 then some (t.csr.fpFlags.setWidth 64)
  else if n = 0x011 then some (t.csr.fpTrap.setWidth 64)
  else if n = 0x012 then some (t.csr.deadmode.setWidth 64)
  else if n = 0x013 then some (t.csr.hazard.setWidth 64)
  else if n = 0x014 then some (t.csr.strPad.setWidth 64)
  else if n = 0x020 then some (t.csr.rotBase.setWidth 64)
  else if n = 0x021 then some (t.csr.rotSize.setWidth 64)
  else if n = 0x022 then some (t.csr.rotOff.setWidth 64)
  else if n = 0x030 then some (t.csr.trapVec.setWidth 64)
  else if n = 0x031 then some (t.csr.trapCause.setWidth 64)
  else if n = 0x032 then some (t.csr.trapPc.setWidth 64)
  else if n = 0x033 then some (t.csr.trapStream.setWidth 64)
  else if n = 0x040 then some (t.csr.wdLimit.setWidth 64)
  else none

/-- A CSR of core or cluster reach. -/
def State.csrCore (s : State) (core n : Nat) : Option Word :=
  let c := clusterOf core
  let k := s.cluster c
  if n = 0x120 then some (BitVec.ofNat 64 k.mhz)
  else if 0x200 ≤ n ∧ n ≤ 0x203 then some (s.conflicts.get 0 (4 * core + (n - 0x200)))
  else if n = 0x208 then some k.ballast
  else if n = 0x209 then some k.stretch
  else if n = 0x20A then some (BitVec.ofNat 64 k.monPair)
  else if n = 0x20B then some (k.power.setWidth 64)
  else if n = 0x20C then some (BitVec.ofNat 64 k.monSens)
  else if n = 0x20D then some (BitVec.ofNat 64 (wrap 16 (s.monTemp c)))
  else if 0x240 ≤ n ∧ n < 0x280 then (s.monitor core ((n - 0x240) / 0x20)).read ((n - 0x240) % 0x20)
  else none

/-- A CSR of tower reach. -/
def State.csrTower (s : State) (n : Nat) : Option Word :=
  if n = 0x000 then some (BitVec.ofNat 64 s.tsc)
  else if n = 0x100 then some (word s.ink.bal)
  else if n = 0x110 then some (BitVec.ofNat 64 s.base.ceil)
  else if n = 0x111 then some (BitVec.ofNat 64 s.base.next.1)
  else if n = 0x112 then some (BitVec.ofNat 64 s.base.next.2)
  else if n = 0x800 then some (s.rub.blotAge.setWidth 64)
  else if n = 0x801 then some (s.rub.preDrain.setWidth 64)
  else if n = 0x802 then some s.rub.gtab
  else if n = 0x803 then some (s.rub.tvec.setWidth 64)
  else if n = 0x804 then some (s.rub.cause.setWidth 64)
  else if n = 0x805 then some (s.rub.tpc.setWidth 64)
  else none

/-- A CSR as whoever runs sees it: the Rubricator sees those of tower reach alone (R448). -/
def State.csrRead (s : State) (n : Nat) : Option Word :=
  match s.cur with
  | .rub => s.csrTower n
  | .task id _ =>
    match s.task? id with
    | none => none
    | some t => ((s.csrTask t n).orElse (fun _ => s.csrCore t.core n)).orElse (fun _ => s.csrTower n)

/-! ## Writes -/

/-- A write to a task CSR that software may write; none for the read-only ones. -/
def TaskCsr.write (k : TaskCsr) (n : Nat) (v : Word) : Option TaskCsr :=
  if n = 0x010 then some { k with fpFlags := v.setWidth 6 }
  else if n = 0x011 then some { k with fpTrap := v.setWidth 5 }
  else if n = 0x012 then some { k with deadmode := v.setWidth 1 }
  else if n = 0x013 then some { k with hazard := v.setWidth 1 }
  else if n = 0x014 then some { k with strPad := v.setWidth 16 }
  else if n = 0x020 then some { k with rotBase := v.setWidth 13 }
  else if n = 0x021 then some { k with rotSize := v.setWidth 13 }
  else if n = 0x022 then some { k with rotOff := v.setWidth 13 }
  else if n = 0x030 then some { k with trapVec := v.setWidth 50 }
  else if n = 0x040 then some { k with wdLimit := v.setWidth 32 }
  else none

/-- A write to a register of a monitor unit (R394): the selector clears the unit. -/
def State.monWrite (s : State) (core u o : Nat) (v : Word) : Try State :=
  if o = 0 then do
    require (decide (v.toNat % 256 < 8)) .reservedField
    .ok (s.setMonitor core u
      { s.monitor core u with sel := v.setWidth 8, min := 0xFFFFFFFF#32, max := 0, count := 0, bins := [], pending := [] })
  else if o ≤ 4 then
    .ok (s.setMonitor core u { s.monitor core u with edges := (s.monitor core u).edges.set 0 (o - 1) v })
  else raise .access

/-- A write to a supervisor CSR by the Rubricator (Table 1.7); none for the read-only ones. -/
def Rub.csrWrite (r : Rub) (n : Nat) (v : Word) : Option Rub :=
  if n = 0x800 then some { r with blotAge := v.setWidth 32 }
  else if n = 0x801 then some { r with preDrain := v.setWidth 32 }
  else if n = 0x802 then some { r with gtab := v &&& 0x81FFFFFFFFFFFFC0#64 }
  else if n = 0x803 then some { r with tvec := v.setWidth 50 }
  else none

/-- CSRW of whoever runs (R41): unassigned numbers, then read-only and supervisor CSRs, then the write. -/
def State.csrWrite (s : State) (n : Nat) (v : Word) : Try State := do
  require (s.csrRead n).isSome .reservedField
  match s.cur with
  | .rub =>
    match s.rub.csrWrite n v with
    | some r => .ok { s with rub := r }
    | none => raise .access
  | .task id _ =>
    match s.task? id with
    | none => raise .access
    | some t =>
      if 0x240 ≤ n ∧ n < 0x280 then s.monWrite t.core ((n - 0x240) / 0x20) ((n - 0x240) % 0x20) v
      else
        match t.csr.write n v with
        | some k => .ok (s.setTask id { t with csr := k })
        | none => raise .access

end Sys2Proof.Machine
end

