-- ==== Sys2Proof/Machine/System.lean ====
section
/-! DEFINITION. The system instructions of the A stream: power regions, traps, CSRs, parking, queues, mailboxes, host interrupts,
pre-emption, Proofing and sampling (R174 to R191). -/

namespace Sys2Proof.Machine

/-! ## Power regions (R175, R176, R387) -/

/-- The credit of a region that ends now, in µJ; never below 0. -/
def Region.credit (r : Region) (tsc : Nat) : Nat := r.lvl * (r.start + 1000 * r.dur - tsc) / 1000

/-- The ns of a span in which a region is in force. -/
def Region.within (r : Region) (from_ to_ : Nat) : Nat := min to_ (r.start + 1000 * r.dur) - max from_ r.start

/-- The share of a microsecond in which a region that ends now has been in force: grant, cluster, level, ns (R384). -/
def State.regionShare (s : State) (t : Task) (r : Region) : Nat × Nat × Nat × Nat :=
  (r.id, clusterOf t.core, r.lvl, r.within (s.clocks.tick * 1000) s.tsc)

/-- The wait for a grant is over. -/
def Task.endGrantWait (t : Task) : Task :=
  match t.wait with
  | some w => if w.on = .ink ∨ w.on = .grant then { t with wait := none } else t
  | none => t

/-- A request of the task that a re-request made stands in the order no longer. -/
def Ink.withdraw (k : Ink) (id : Nat) : Ink :=
  { k with order := k.order.filter (fun r => decide (r.task ≠ id) || !r.auto)
           outside := k.outside.filter (fun r => decide (r.task ≠ id) || !r.auto) }

/-- The request of the task's INKQ leaves the order without a grant (R385). -/
def Ink.abandon (k : Ink) (id : Nat) : Ink :=
  { k with order := k.order.filter (fun r => decide (r.task ≠ id) || r.auto)
           outside := k.outside.filter (fun r => decide (r.task ≠ id) || r.auto) }

/-- EndRegion: the credit of INKR, and the re-request withdrawn (R176, R387). -/
def State.endRegion (s : State) (id : Nat) : State :=
  match s.task? id with
  | none => s
  | some t =>
    match t.region with
    | none => s
    | some r =>
      let k := s.ink.withdraw id
      let bal := min (k.bal + (r.credit s.tsc : Nat)) (k.cap : Nat)
      { s.setTask id { t.endGrantWait with region := none } with
        ink := { k with bal := bal, past := k.past ++ [s.regionShare t r] } }.testParks

/-- A request of the task's INKQ stands in the order, or outside it. -/
def Ink.asked (k : Ink) (id : Nat) : Bool := (k.order ++ k.outside).any (fun r => decide (r.task = id) && !r.auto)

/-- A request reaches the Inkwell: at the back of the order, or outside it when its cost exceeds the capacity (R385). -/
def Ink.request (k : Ink) (r : InkReq) : Ink :=
  if k.cap < r.lvl * r.dur then { k with outside := k.outside ++ [r] } else { k with order := k.order ++ [r] }

/-- INKQ: the request is made once, and the word waits for its grant (R175). -/
def execInkq (w : AS) (s : State) : Host.Outcome State Fault Refusal :=
  s.taskWord [w.a, w.b] (fun s id t => do
    t.notInHandler
    let lvl := (s.reg w.a).toNat
    let dur := (s.reg w.b).toNat
    require (decide (1 ≤ lvl) && decide (lvl ≤ 4095) && decide (1 ≤ dur) && decide (dur ≤ 65535)) .reservedField
    if s.ink.granted.contains id then
      .ok { s with ink := { s.ink with granted := s.ink.granted.filter (fun x => decide (x ≠ id)) } }.endWait.advance
    else if s.ink.asked id then .error (.pend (s.waitOn .ink))
    else
      let s := s.endRegion id
      .error (.pend ({ s with ink := s.ink.request { task := id, lvl := lvl, dur := dur, auto := false } }.waitOn .ink)))

def execInkr (_ : AS) (s : State) : Host.Outcome State Fault Refusal :=
  s.taskWord [] (fun s id _ => .ok (s.endRegion id).advance)

/-! ## Traps and CSRs (R177 to R179) -/

def execTrap (_ : AS) (s : State) : Host.Outcome State Fault Refusal := s.aWord [] (fun _ => raise .trap)

/-- TRET outside a handler is refused (R177). -/
def execTret (w : AS) (s : State) : Host.Outcome State Fault Refusal :=
  s.aWord [] (fun s =>
    match s.trapReturn (w.imm.getLsbD 0) with
    | some s' => .ok s'
    | none => raise .access)

def execCsrr (w : AS) (s : State) : Host.Outcome State Fault Refusal :=
  s.aWord [] (fun s =>
    match s.csrRead w.obj.toNat with
    | some v => .ok (s.setReg w.d v).advance
    | none => raise .reservedField)

def execCsrw (w : AS) (s : State) : Host.Outcome State Fault Refusal :=
  s.aWord [w.a] (fun s => do
    let s ← s.csrWrite w.obj.toNat (s.reg w.a)
    .ok s.advance)

def execTsc (w : AS) (s : State) : Host.Outcome State Fault Refusal :=
  s.aWord [] (fun s => .ok (s.setReg w.d (BitVec.ofNat 64 s.tsc)).advance)

/-! ## Parking and yielding (R180, R182) -/

/-- PARK: nothing when the condition holds; else the task is parked at the word, and the watchdog counts. The A stream goes on
past it when the condition is found to hold. -/
def State.park (s : State) (id : Nat) (t : Task) (c : ParkCond) : Try State :=
  if s.parkHolds t c then .ok s.advance
  else .ok ((s.waitOn .park).onTask id (fun t => { t with run := .parked c, unpark := false }))

def execParkBar (w : AS) (s : State) : Host.Outcome State Fault Refusal :=
  s.taskWord [w.a, w.b] (fun s id t => do
    t.notInHandler
    require (decide ((s.reg w.a).toNat < 2048)) .reservedField
    s.park id t (.bar (s.reg w.a).toNat ((s.reg w.b).setWidth 32)))

def execParkSem (w : AS) (s : State) : Host.Outcome State Fault Refusal :=
  s.taskWord [w.a, w.b] (fun s id t => do
    t.notInHandler
    require (decide ((s.reg w.a).toNat < 4096)) .reservedField
    s.park id t (.sem (s.reg w.a).toNat (s.reg w.b)))

def execParkMbx (w : AS) (s : State) : Host.Outcome State Fault Refusal :=
  s.taskWord [w.a] (fun s id t => do
    t.notInHandler
    require (decide ((s.reg w.a).toNat < 64)) .reservedField
    s.park id t (.mbx (s.reg w.a).toNat))

def execParkInk (w : AS) (s : State) : Host.Outcome State Fault Refusal :=
  s.taskWord [w.a] (fun s id t => do
    t.notInHandler
    s.park id t (.ink (s.reg w.a)))

/-- A pre-emption of the task is in its drain phase: its yield points stop (R365). -/
def Task.yields (t : Task) : Bool :=
  match t.pre with
  | some p => decide (p.phase = .drain)
  | none => false

def execYield (_ : AS) (s : State) : Host.Outcome State Fault Refusal :=
  s.taskWord [] (fun s id t => do
    t.notInHandler
    let s := s.advance
    .ok (if t.yields then s.onTask id (fun t => { t with sa := { t.sa with stopped := true } }) else s))

/-! ## Queues (R187) -/

/-- A supervisor form in a task traps at issue, before its other checks (R120). -/
def State.supervisor (s : State) : Try Unit := require (!s.byTask) .access

/-- The fields of a queue-entry image that an action leaves zero (Table 7.7). -/
def imageOk (action : Nat) (im : List Word) : Bool :=
  decide (bits (dw im 0) 25 37 = 0) && (decide (action = 1) || decide (bits (dw im 0) 24 1 = 0)) && decide (dw im 7 = 0) &&
  (if action = 0 then decide (dw im 3 < 4096)
   else if action = 1 then true
   else if action = 2 then decide (dw im 3 < 3 * 4096)
   else decide (dw im 3 < 64)) &&
  (decide (action = 1) || decide (action = 2) || decide (dw im 4 = 0)) &&
  (decide (action = 1) || (decide (dw im 5 = 0) && decide (dw im 6 = 0)))

/-- What comes before an entry's appending in the Rubricator's program order comes before the queue's actions (R307, R310). -/
def Order.append (o : Order) (q : Nat) : Order := (o.learn (.queue q) (o.know .rub)).show [.queue q] (o.know .rub).visible

/-- QENT: one entry at the end of a queue. -/
def State.enqueue (s : State) (w : AS) (action : Nat) : Host.Outcome State Fault Refusal :=
  s.aWord [w.a] (fun s => do
    s.supervisor
    let a := (s.reg w.a).toNat
    if a % 64 ≠ 0 then .error (.trap .misaligned a)
    else do
      let im := dwords 8 (← s.viewRead s.aEngine a 64)
      require (imageOk action im) .reservedField
      let q := s.queues.get [] w.obj.toNat
      await (decide (q.length < 256))
      let e : QEntry := { action := action, image := im, ready := false }
      .ok ({ s with queues := s.queues.set [] w.obj.toNat (q ++ [e]) }.ordered (fun o => o.append w.obj.toNat)).testQueues.advance)

def execQentLaunch (w : AS) (s : State) : Host.Outcome State Fault Refusal := s.enqueue w 0

def execQentCopy (w : AS) (s : State) : Host.Outcome State Fault Refusal := s.enqueue w 1

def execQentSem (w : AS) (s : State) : Host.Outcome State Fault Refusal := s.enqueue w 2

def execQentHirq (w : AS) (s : State) : Host.Outcome State Fault Refusal := s.enqueue w 3

/-! ## Mailboxes and host interrupts (R185, R186) -/

def State.setMailbox (s : State) (n : Nat) (m : Mailbox) : State :=
  { s with host := { s.host with boxes := s.host.boxes.set Mailbox.reset n m } }

/-- Bytes of a mailbox buffer. -/
def Mailbox.bytes (m : Mailbox) (off n : Nat) : List Byte := (List.range n).map (fun i => SMap.get (α := Byte) 0 (off + i) m.buf)

/-- Write bytes into a mailbox buffer. -/
def Mailbox.write (m : Mailbox) (off : Nat) (bs : List Byte) : Mailbox :=
  { m with buf := (bs.zipIdx).foldl (fun b e => b.set (0 : Byte) (off + e.2) e.1) m.buf }

/-- Raise an MSI-X vector: it is pending until its message has been sent (R186). -/
def State.raiseVector (s : State) (v : Nat) : State := { s with host := { s.host with msiPend := s.host.msiPend ||| (1#65 <<< v) } }

/-- What MBXR copies and reads: the buffer as stores in program order, then its length (R185). -/
def State.mbxrRead (s : State) (w : AS) : Try (State × Word) := do
  let a := (s.reg w.a).toNat
  if a % 8 ≠ 0 then .error (.trap .misaligned a)
  else
    let m := s.mailbox w.obj.toNat
    if m.device then do
      let s ← s.viewWrite s.aEngine a (m.bytes 0 m.len)
      .ok (s, BitVec.ofNat 64 m.len)
    else .ok (s, BitVec.allOnes 64)

/-- MBXR: a lasting error it meets is delivered as that of a load (R370). -/
def execMbxr (w : AS) (s : State) : Host.Outcome State Fault Refusal :=
  s.aWord [w.a] (fun s => do
    match ← lasting (s.mbxrRead w) with
    | some (s, v) => .ok (s.launchReg w.d v).advance
    | none => .ok (s.launchBad (.mbxr w) w.d (s.reg w.a).toNat).advance)

/-- MBXS: the checks of R185 in order; the host owns the mailbox, its bit of `hmb.pend` is set and vector 64 is raised
(R412). -/
def execMbxs (w : AS) (s : State) : Host.Outcome State Fault Refusal :=
  s.aWord [w.a, w.b] (fun s => do
    let a := (s.reg w.a).toNat
    let n := (s.reg w.b).toNat
    if a % 8 ≠ 0 then .error (.trap .misaligned a)
    else do
      require (decide (n ≤ 4096)) .reservedField
      let bs ← s.viewRead s.aEngine a n
      let m := s.mailbox w.obj.toNat
      require m.device .queueProtocol
      let s := s.setMailbox w.obj.toNat { m.write 0 bs with len := n, device := false }
      let s := { s with host := { s.host with pend := s.host.pend ||| (1#64 <<< w.obj.toNat) } }
      .ok ((s.releaseHost s.strand).raiseVector 64).advance)

def execHirq (w : AS) (s : State) : Host.Outcome State Fault Refusal :=
  s.aWord [] (fun s => .ok ((s.releaseHost s.strand).raiseVector w.obj.toNat).advance)

/-! ## Pre-emption, Proofing, sampling (R189 to R191) -/

/-- The task that holds a slot of a core. -/
def State.taskIn (s : State) (core slot : Nat) : Option (Nat × Task) :=
  List.find? (fun (e : Nat × Task) => decide (e.2.core = core) && decide (e.2.slot = some slot)) s.tasks

def execPreempt (w : AS) (s : State) : Host.Outcome State Fault Refusal :=
  s.aWord [w.a] (fun s => do
    s.supervisor
    let v := (s.reg w.a).toNat
    require (decide (bits v 3 6 = 0) && decide (bits v 17 47 = 0)) .reservedField
    match s.taskIn (bits v 9 8) (bits v 0 3) with
    | none => .ok (s.setReg w.d 1).advance
    | some (id, t) =>
      if t.pre.isSome then .ok (s.setReg w.d 2).advance
      else .ok ((s.setTask id { t with pre := some { phase := .drain, since := s.tsc } }).setReg w.d 0).advance)

/-- Some task is resident on a core. -/
def State.coreBusy (s : State) (core : Nat) : Bool := List.any s.tasks (fun (e : Nat × Task) => decide (e.2.core = core) && e.2.isResident)

/-- The pattern begins in the step in which the last resident task leaves the core (R373). -/
def State.startPattern (s : State) : State :=
  match s.proofing with
  | some p =>
    if p.phase = .pending ∧ s.coreBusy p.core = false then
      { s with proofing := some { p with phase := .pattern, begun := true, since := s.tsc } }
    else s
  | none => s

/-- PROOF start: its status and what it starts (R190, R373). -/
def State.proofStart (s : State) (core : Nat) : Nat × State :=
  if 192 ≤ core then (3, s)
  else if !s.corePresent core then (4, s)
  else if s.proofing.isSome then (2, s)
  else
    let busy := s.coreBusy core
    (if busy then 1 else 0,
      { s with proofing := some { core := core, phase := if busy then .pending else .pattern, begun := !busy, since := s.tsc, exempt := [] } })

/-- PROOF abort (R190, R374). While an earlier abort of the core is being carried out it returns 1, nothing being left to abort: the
model's choice. -/
def State.proofAbort (s : State) (core : Nat) : Nat × State :=
  match s.proofing with
  | some p =>
    if p.core = core ∧ p.phase ≠ .aborting then (0, { s with proofing := some { p with phase := .aborting, since := s.tsc } })
    else (1, s)
  | none => (1, s)

/-- PROOF: bit 8 of the register is the action. -/
def State.proof (s : State) (w : AS) : Host.Outcome State Fault Refusal :=
  s.aWord [w.a] (fun s => do
    s.supervisor
    let v := (s.reg w.a).toNat
    require (decide (v < 512)) .reservedField
    await s.serviceFree
    let r := if bits v 8 1 = 0 then s.proofStart (v % 256) else s.proofAbort (v % 256)
    .ok (r.2.setReg w.d (BitVec.ofNat 64 r.1)).advance)

def execProofStart (w : AS) (s : State) : Host.Outcome State Fault Refusal := s.proof w

def execProofAbort (w : AS) (s : State) : Host.Outcome State Fault Refusal := s.proof w

/-- SAMPM: a new sampling replaces the previous one; an interval of 0 stops it (R191). -/
def execSampm (w : AS) (s : State) : Host.Outcome State Fault Refusal :=
  s.taskWord [w.a, w.b] (fun s id t => do
    let a := (s.reg w.a).toNat
    let v := (s.reg w.b).toNat
    let interval := bits v 0 32
    if a % 64 ≠ 0 then .error (.trap .misaligned a)
    else do
      require ((decide (interval = 0) || decide (64 ≤ interval)) && decide (1 ≤ bits v 32 16) && decide (bits v 48 16 = 0)) .reservedField
      let m : Option Sampling :=
        if interval = 0 then none
        else some { buf := s.reg w.a, interval := interval, capacity := bits v 32 16, written := 0,
                    nextAt := s.cyc t.core + interval }
      .ok (s.setTask id { t with sampling := m }).advance)

end Sys2Proof.Machine
end

