-- ==== Sys2Proof/Machine/Sections.lean ====
section
/-! DEFINITION. The steps inside a task's streams: landings, returns of loads, queue entries, headers and their waits, the
retirement of sections and tasks, and the choice of the X engine (R21, R79 to R85, R138, R141, R254, R340 to R343). -/

namespace Sys2Proof.Machine

/-! ## The task of a step -/

/-- The stream a number names (R42). -/
def streamOf (n : Nat) : Stream := if n = 0 then .a else if n = 1 then .x else .m

/-- The task `arg.x`. -/
def State.argTask (s : State) : Try (Nat × Task) := do
  let t ← need (s.task? s.arg.x)
  .ok (s.arg.x, t)

/-- The streams of the task may go on: it runs, in a slot. -/
def Task.live (t : Task) : Bool := decide (t.run = .running) && t.isResident && !t.saving

/-- A held FP_EXCEPTION is due: the task runs, and no handler of it does (R351). -/
def Task.fpDue (t : Task) : Bool := t.live && !t.inHandler && (t.heldFp.isSome || t.heldLand)

/-- A held OVERDRAW is due in every state of a task that has begun and not ended, parked and saved ones and its handler included
(R358, R386), but while it waits for the answer to a record: the model's choice. -/
def Task.drawDue (t : Task) : Bool :=
  t.heldDraw.isSome &&
    match t.run with
    | .waiting | .onRecord | .retired | .faulted => false
    | _ => true

/-- A held condition is due now. -/
def Task.trapDue (t : Task) : Bool := t.drawDue || t.fpDue

/-! ## Landings (R21, R254, R353) -/

/-- The next effect due, which `pick` accepts. -/
def State.nextDue (s : State) (t : Task) (pick : Effect → Bool) : Try (Effect × Task) := do
  let r ← need (t.nextLanding (s.cyc t.core))
  await (pick r.1)
  .ok r

/-- X_LANDING on task `arg.x`: the first landing that is due. -/
def execXLanding (s : State) : Host.Outcome State Fault Refusal :=
  s.event (fun s => do
    let (id, t) ← s.argTask
    let r ← s.nextDue t (fun e => !e.replay && e.push?.isNone)
    .ok (s.setTask id (r.2.land r.1)))

/-- PENDING_WRITE_REPLAY: a captured landing, at c′ + r (R353). -/
def execPendingWriteReplay (s : State) : Host.Outcome State Fault Refusal :=
  s.event (fun s => do
    let (id, t) ← s.argTask
    let r ← s.nextDue t (fun e => e.replay && e.push?.isNone)
    .ok (s.setTask id (r.2.land r.1)))

/-- VPUSH_ARRIVAL: an entry arrives in its queue at p + 5 (R254). -/
def execVpushArrival (s : State) : Host.Outcome State Fault Refusal :=
  s.event (fun s => do
    let (id, t) ← s.argTask
    let r ← s.nextDue t (fun e => e.push?.isSome)
    .ok (s.setTask id (r.2.land r.1)))

/-! ## Loads (R138, R141, R370) -/

/-- Load `i` of a list returns: it writes its register and is gone; one with a lasting error waits to be delivered. -/
def returnLoad (i : Nat) (regs : SMap Word) (ls : List Load) : Try (SMap Word × List Load) := do
  let l ← need ls[i]?
  await (!l.returned && l.tag.isNone)
  match l.dst with
  | .xq _ _ => .error .hold
  | .reg n =>
    if l.bad then .ok (regs, ls.set i { l with returned := true })
    else .ok (if n = 0 then regs else regs.set 0 n l.val, ls.eraseIdx i)

/-- LOAD_RETURN: load `arg.z` of task `arg.x`, or of the Rubricator when `arg.y` is 1. -/
def execLoadReturn (s : State) : Host.Outcome State Fault Refusal :=
  s.event (fun s => do
    if s.arg.y = 1 then
      let r ← returnLoad s.arg.z s.rub.regs s.rub.loads
      .ok { s with rub := { s.rub with regs := r.1, loads := r.2 } }
    else
      let (id, t) ← s.argTask
      let r ← returnLoad s.arg.z t.regs t.loads
      let s := match t.loads[s.arg.z]? with
        | some l => s.measureLoad t.core l
        | none => s
      .ok (s.setTask id { t with regs := r.1, loads := r.2 }))

/-- The entry with a serial has its data. -/
def fillEntry (n : Nat) (vals : Vec) (es : List XqEntry) : List XqEntry :=
  es.map (fun e => if e.serial = n then { e with ready := true, vals := vals } else e)

/-- An LDX that a squash has kept from its data reads them now; a lasting error, or a refusal that it meets only now, fails it (R367,
R370). -/
def State.freshLoad (s : State) (id : Nat) (l : Load) : Try Load :=
  match l.dst, l.bad, l.vec, l.again with
  | .xq _ _, false, [], some (.ldx w, regs) =>
    let width := 4 * 2 ^ w.fn.toNat
    let u := ({ s with cur := .task id .a }).onTask id (fun t => { t with regs := regs })
    match u.viewRead (u.aEngine.grained width) l.badAt (64 * width) with
    | .ok bs => .ok { l with vec := (elemsOf width 512 bs).map (BitVec.ofNat 64) }
    | .error (.trap c _) => .ok { l with bad := true, cause := c }
    | .error e => .error e
  | _, _, _, _ => .ok l

/-- XQ_ENTRY_ARRIVAL: the data of load `arg.z` of task `arg.x` take their place in the queue (R141). -/
def execXqEntryArrival (s : State) : Host.Outcome State Fault Refusal :=
  s.event (fun s => do
    let (id, t) ← s.argTask
    let l ← need t.loads[s.arg.z]?
    await (!l.returned && t.isResident)
    let l ← s.freshLoad id l
    let s := s.measureLoad t.core l
    match l.dst with
    | .reg _ => .error .hold
    | .xq q n =>
      if l.bad then .ok (s.setTask id { t with loads := t.loads.set s.arg.z { l with returned := true } })
      else
        .ok (s.setTask id
          { t with xq := t.xq.set [] q (fillEntry n l.vec (t.xq.get [] q)), loads := t.loads.eraseIdx s.arg.z }))

/-- The failed load that is delivered now: the A stream has met its destination, or it holds up the retirement of its section
(R370). -/
def Task.badLoad (t : Task) : Option Load :=
  t.loads.find? (fun l => l.bad && l.returned && (decide (t.meetsBad = some l.id) || decide (t.sa.left.head? = some l.sec)))

/-- UNCORRECTABLE_LOAD_DELIVERY on task `arg.x`: the record names the load and the stop address (R370). -/
def execUncorrectableLoadDelivery (s : State) : Host.Outcome State Fault Refusal :=
  s.event (fun s => do
    let (id, t) ← s.argTask
    await (decide (t.run = .running) && t.isResident && !t.saving)
    let l ← need t.badLoad
    .ok (((s.setTask id { t with meetsBad := none }).trapTask id .a l.cause l.pc l.badAt t.sa.pc.toNat).newRecords s
      (fun r => { r with src := .load id l.id, path := l.path })))

/-! ## Headers (R78, R79) -/

/-- A header that breaks R79. -/
def headerBad (h : Nat) : Bool :=
  decide (bits h 60 4 ≠ 9) || decide (bits h 48 12 = 0) || decide (bits h 0 13 ≠ 0) ||
    (decide (bits h 15 1 = 0) && decide (bits h 32 16 ≠ 0)) || (decide (bits h 14 1 = 0) && decide (bits h 16 16 ≠ 0))

/-- The streams the waits of a header name (Table 3.2). -/
def Stream.others : Stream → Stream × Stream
  | .a => (.x, .m)
  | .x => (.a, .m)
  | .m => (.a, .x)

/-- `w` sections have retired, `retired` being the count. -/
def waitMet (retired w : BitVec 16) : Bool := decide ((retired - w).toNat < 2 ^ 15)

/-- A count of a stream meets a wait number; a stream that started retired meets 0 only (R15). -/
def StreamSt.meets (v : StreamSt) (count w : BitVec 16) : Bool := if v.present then waitMet count w else decide (w = 0)

/-- The retired count as it stood at the end of the previous cycle (R82). -/
def StreamSt.retiredSeen (v : StreamSt) (now : Nat) : BitVec 16 := if v.retiredAt = now then v.retiredPrev else v.retired

/-- The waits in force of a stream's header: the streams and the wait numbers. -/
def Task.headerWaits (t : Task) (st : Stream) : List (Stream × BitVec 16) :=
  let h := (t.stream st).hword
  (if h.getLsbD 15 then [(st.others.1, h.extractLsb' 32 16)] else []) ++
    (if h.getLsbD 14 then [(st.others.2, h.extractLsb' 16 16)] else [])

/-- Every wait of a stream's header holds (R82). -/
def Task.waitsHold (t : Task) (st : Stream) (now : Nat) : Bool :=
  (t.headerWaits st).all (fun w => (t.stream w.1).meets ((t.stream w.1).retiredSeen now) w.2)

/-- The stream has ended, its final section retired. -/
def StreamSt.final (v : StreamSt) : Bool := decide (v.phase = .ended) && v.left.isEmpty

/-- The stream is stalled at a header with a wait that the present counts do not satisfy. -/
def Task.stalledAt (t : Task) (st : Stream) : Bool :=
  decide ((t.stream st).phase = .waiting) && !(t.headerWaits st).all (fun w => (t.stream w.1).meets (t.stream w.1).retired w.2)

/-- A circular wait (R84): the streams that have not ended are all stalled at headers, and no section is left and not
retired. -/
def Task.circular (t : Task) : Bool :=
  [Stream.a, .x, .m].all (fun st => decide ((t.stream st).phase = .ended) || t.stalledAt st) &&
    [Stream.a, .x, .m].all (fun st => (t.stream st).left.isEmpty)

/-- The stream that R84 makes trap: a wait on an ended stream that can never hold, or the first of a circular wait. -/
def Task.neverWaits (t : Task) : Option Stream :=
  [Stream.a, .x, .m].find? (fun st =>
    t.stalledAt st &&
      ((t.headerWaits st).any (fun w => (t.stream w.1).final && !(t.stream w.1).meets (t.stream w.1).retired w.2) || t.circular))

/-- The trap of R84, where it is due. -/
def State.trapNever (s : State) (id : Nat) : State :=
  match s.task? id with
  | none => s
  | some t =>
    match t.neverWaits with
    | some st => if t.live then s.trapTask id st .sectionFormat (t.stream st).pc 0 0 else s
    | none => s

/-- The stream on its header's word, which begins a section instance (R81). -/
def StreamSt.enter (v : StreamSt) (h : Word) : StreamSt :=
  { v with hdr := v.pc, hword := h, len := bits h.toNat 48 12, sec := if v.begun then v.sec + 1 else 0, begun := true,
           phase := .waiting }

/-- The section starts: its first word is next. -/
def StreamSt.release (v : StreamSt) : StreamSt := { v with phase := .words, pc := v.hdr + 2 }

/-- What the retired sections of a stream have passed on, `count` of them having retired (R309). -/
def Order.fromParts (o : Order) (id : Nat) (st : Stream) (count : BitVec 16) : Know :=
  o.knowAll (fun k =>
    match k with
    | .part i v n => decide (i = id) && decide (v = st) && waitMet count (n + 1)
    | .passed i v => decide (i = id) && decide (v = st)
    | _ => false)

/-- A section `n` of a stream begins, what its waits have brought being known to it. -/
def Order.begin (o : Order) (id : Nat) (st : Stream) (n : BitVec 16) (x : Know) : Order :=
  let o := o.foldParts id st n
  match st with
  | .a => o.gain (.task id) n x
  | .x => o.pass id .x n x
  | .m => (o.pass id .m n x).show [.array id] x.visible

/-- A section's waits hold, and it starts (R82, R309). -/
def State.startSection (s : State) (id : Nat) (t : Task) (st : Stream) : State :=
  let now := s.cyc t.core
  (s.setTask id (t.setStream st (t.stream st).release)).ordered (fun o =>
    o.begin id st (t.stream st).sec ((t.headerWaits st).foldl (fun a w =>
      a.join (o.fromParts id w.1 ((t.stream w.1).retiredSeen now))) Know.none))

/-- HEADER_ENTRY: stream `arg.y` of task `arg.x` decodes a header and begins an instance (R79 to R85); the X stream not before its
next word could issue (R193). A header reached while 16 instances are outstanding stalls before it is read, so its own checks (R79)
and its yield (R85) come after the stall: the model's choice. -/
def execHeaderEntry (s : State) : Host.Outcome State Fault Refusal :=
  s.event (fun s => do
    let (id, t) ← s.argTask
    let st := streamOf s.arg.y
    let v := t.stream st
    await (t.live && decide (v.phase = .header) && !v.stopped && decide (v.left.length < 16) &&
      (decide (st ≠ .x) || decide (t.xNext ≤ s.cyc t.core)))
    match s.fetch id t.core t.asid st.code v.pc 8 with
    | .error (.trap c va) => .ok ((if va = 0 then s else s.dropFailed va).trapTask id st c v.pc va 0)
    | .error e => .error e
    | .ok bs =>
      let h := leNat bs
      if headerBad h then .ok (s.trapTask id st .sectionFormat v.pc 0 0)
      else if bits h 13 1 = 1 ∧ t.yields = true then .ok (s.setTask id (t.setStream st { v with stopped := true }))
      else
        let u := t.setStream st (v.enter (BitVec.ofNat 64 h))
        if u.waitsHold st (s.cyc t.core) then .ok (s.startSection id u st)
        else .ok ((s.setTask id u).trapNever id))

/-- HEADER_WAIT_RELEASE: the waits hold and the section starts; a wait that can never hold traps (R82, R84). -/
def execHeaderWaitRelease (s : State) : Host.Outcome State Fault Refusal :=
  s.event (fun s => do
    let (id, t) ← s.argTask
    let st := streamOf s.arg.y
    let v := t.stream st
    await (t.live && decide (v.phase = .waiting) && !v.stopped)
    if t.waitsHold st (s.cyc t.core) then .ok (s.startSection id t st)
    else do
      await (decide (t.neverWaits = some st))
      .ok (s.trapTask id st .sectionFormat v.pc 0 0))

/-! ## Retirement (R45, R83) -/

/-- A dead mark, which nothing awaits (R83). -/
def Effect.marksDead (e : Effect) : Bool :=
  match e.dest with
  | .dead _ => true
  | _ => false

/-- What section `n` of a stream has issued is done (R83). -/
def Task.sectionDone (t : Task) (st : Stream) (n : BitVec 16) : Bool :=
  match st with
  | .a => t.loads.all (fun l => decide (l.sec ≠ n))
  | .x => t.effects.all (fun e => decide (e.sec ≠ n) || e.marksDead)
  | .m => t.cmds.all (fun c => decide (c.sec ≠ n))

/-- One more section retired, in cycle `now`. -/
def StreamSt.retire (v : StreamSt) (now : Nat) : StreamSt :=
  { v with left := v.left.drop 1, retired := v.retired + 1, retiredAt := now,
           retiredPrev := if v.retiredAt = now then v.retiredPrev else v.retired }

/-- Every stream has ended, its final section retired. -/
def Task.over (t : Task) : Bool := t.sa.final && t.sx.final && t.sm.final

/-- What a task that has ended holds no more: slot, window, lease, queues and stream registers (R31, R45). -/
def Task.close (t : Task) (r : Run) : Task :=
  { t with run := r, slot := none, xq := [], aq := [], bq := [], binds := [], reuse := [], wait := none, sampling := none,
           pre := none, passedSince := none, heldFp := none, heldLand := false, heldDraw := none, leaseWait := none,
           leaseSaved := none }

/-- The arming of a task sees it end. -/
def State.leaveArming (s : State) (id : Nat) (t : Task) (faulted : Bool) : State :=
  { s with armings := s.armings.adjust t.arming (fun a =>
      { a with live := a.live.filter (fun x => decide (x ≠ id)), faulted := a.faulted || faulted }) }

/-- What the machine holds for a task that has ended: its requests to other towers, its lease request, its bindings' records. -/
def State.dropTask (s : State) (id : Nat) : State :=
  let s := s.dropLease id
  { s with
    remotes := s.remotes.map (fun r =>
      match r.2.asker with
      | .word (.task k _) _ | .load (.task k _) => if k = id then (r.1, { r.2 with asker := .none }) else r
      | _ => r)
    ink := { s.ink with
      order := s.ink.order.filter (fun r => decide (r.task ≠ id)), outside := s.ink.outside.filter (fun r => decide (r.task ≠ id))
      granted := s.ink.granted.filter (fun x => decide (x ≠ id)) }
    codes := s.codes.del id }

/-- The task retires: its region ends as INKR ends it (R45, R176). -/
def State.retireTask (s : State) (id : Nat) : State :=
  let s := s.endRegion id
  match s.task? id with
  | none => s
  | some t =>
    ((((s.setTask id { t.close .retired with lease := 0 }).leaveArming id t false).dropTask id).ordered
      (fun o => o.retire id t.arming)).startPattern

/-- SECTION_RETIREMENT: the oldest left section of stream `arg.y` of task `arg.x` retires; with MFIN's the lease is released,
with the last one the task retires (R83, R45, R257). -/
def execSectionRetirement (s : State) : Host.Outcome State Fault Refusal :=
  s.event (fun s => do
    let (id, t) ← s.argTask
    let st := streamOf s.arg.y
    let v := t.stream st
    let n ← need v.left.head?
    await (decide (t.run ≠ .retired) && decide (t.run ≠ .faulted) && t.sectionDone st n)
    let u := t.setStream st (v.retire (s.cyc t.core))
    if u.over then do
      await (t.live && !t.trapDue && decide (t.cmds = []))
      .ok ((s.setTask id u).retireTask id)
    else
      .ok ((if st = .m ∧ u.sm.final = true then (s.dropLease id).setTask id { u with lease := 0, leaseSaved := none }
        else s.setTask id u).trapNever id))

/-! ## Readiness of the X stream (R28, R340) -/

/-- The operand fields of an X word that may name heads, by its opcode. -/
def headFields (v : BitVec 96) : List (BitVec 17) :=
  let op := opcode v
  if op ∈ [0x05, 0x06, 0x07, 0x19, 0x1B, 0x23, 0x24, 0x25, 0x70, 0x74] then
    let w := getXV4 v
    [w.a, w.b, w.c]
  else if op = 0x41 ∨ op = 0x71 then
    let w := getXV4 v
    [w.a, w.b]
  else if op ∈ [0x45, 0x46, 0x66, 0x68, 0x72] ∨ 0x78 ≤ op ∧ op ≤ 0x7D ∨ 0x90 ≤ op then [(getXI v).a]
  else if op < 0x80 then
    let w := getXV3 v
    [w.a, w.b]
  else []

/-- The predicate field "never", of the words that have one. -/
def neverField (v : BitVec 96) : Bool :=
  let op := opcode v
  if op ∈ [0x05, 0x06, 0x07, 0x19, 0x1B, 0x23, 0x24, 0x25, 0x41, 0x70, 0x71, 0x74] then decide ((getXV4 v).k = 8)
  else if op < 0x80 ∨ 0x90 ≤ op then decide ((getXV3 v).k = 8)
  else false

/-- The operands of an X word do not hold it: heads present, `bq` not empty, or a trap is certain (R28, R251). -/
def Task.operandsReady (t : Task) (v : BitVec 96) : Bool :=
  match decode .x v with
  | .error _ => true
  | .ok (.loop w) | .ok (.loopr w) =>
    decide (w.csrc ≠ 1) || decide (t.headAt { xq := true, n := w.q.toNat, peek := false } 0 ≠ .coming)
  | .ok (.xb _) => !t.bq.isEmpty || t.aOver
  | .ok _ => neverField v || !t.headsWait (headFields v)

/-- A stream that competes for an engine. -/
structure Candidate where
  task : Nat
  slot : Nat
  prio : Nat
  cls : Nat
  waits : Nat
  deriving DecidableEq, Repr

/-- A stream of a task as a candidate, with its effective priority (R342). -/
def Task.candidate (t : Task) (id : Nat) (st : Stream) : Candidate :=
  let n := (t.stream st).waitCount
  { task := id, slot := t.slot.getD 0, prio := if n < 256 then t.prio else min (t.prio + 1) 3, cls := t.cls, waits := n }

/-- The candidates with the least value of a measure. -/
def leastBy (f : Candidate → Nat) (cs : List Candidate) : List Candidate :=
  cs.filter (fun c => cs.all (fun d => decide (f c ≤ f d)))

/-- The choice of R341 to R343: `last` is the slot of the engine's last issuer, `mark` that of the cluster (R379). -/
def chooseStream (last mark : Nat) (cs : List Candidate) : Option Candidate :=
  let top := leastBy (fun c => 3 - c.prio) cs
  let pref :=
    if top.any (fun c => decide (128 ≤ c.waits)) then top
    else if mark = 1 then leastBy (·.cls) top
    else if mark = 2 then leastBy (fun c => 7 - c.cls) top
    else top
  (leastBy (fun c => (c.slot + 15 - last) % 8) pref).head?

/-- No load that was issued before the handler is still on its way from another tower (R350). -/
def Task.handlerFree (t : Task) : Bool :=
  match t.handler with
  | some h => t.loads.all (fun l => l.tag.isNone || decide (h.before ≤ l.id))
  | none => true

/-- A stream may issue a word now: words of a span, or of a handler, are next, nothing stops it, no held condition is to be delivered
at its own boundary (R351), and no grant is waited for (R340); whether the A stream's word is one that ends the wait is seen once it is fetched (R387). -/
def Task.mayIssue (t : Task) (st : Stream) : Bool :=
  let v := t.stream st
  t.live && decide (v.phase = .words) && !v.stopped &&
    (match t.region with
      | some r => !r.expired || decide (st = .a)
      | none => true) &&
    (decide (st ≠ .m) || (t.leaseSaved.isNone && t.heldFp.isNone)) &&
    (decide (st ≠ .a) || (t.handlerFree && decide (t.heldDraw ≠ some .a)))

/-- The X word of a task as fetched. -/
def State.xFetched (s : State) (id : Nat) (t : Task) : Try (List Byte) := s.fetch id t.core t.asid 1 t.sx.pc 12

/-- The X stream of a task is ready in this cycle. -/
def State.xReady (s : State) (id : Nat) (t : Task) : Bool :=
  let p := s.cyc t.core
  t.mayIssue .x && decide ((s.core t.core).nextX ≤ p) && decide (t.xNext ≤ p) && !t.landingsDue p &&
    (match s.xFetched id t with
      | .ok bs => t.operandsReady (bytesWord bs)
      | .error (.trap _ _) => true
      | .error _ => false)

/-- The ready X streams of a core. -/
def State.xCandidates (s : State) (core : Nat) : List Candidate :=
  s.tasks.filterMap (fun e => if e.2.core = core ∧ s.xReady e.1 e.2 = true then some (e.2.candidate e.1 .x) else none)

/-- An X stream of the core whose next word lies on a page not yet translated: what the walk is for (R298). -/
def State.xMissing (s : State) (core : Nat) : Option (Nat × Nat × Nat) :=
  s.tasks.findSome? (fun e =>
    if e.2.core = core ∧ e.2.mayIssue .x = true then
      match s.xFetched e.1 e.2 with
      | .error (.miss u a va) =>
        if s.walks.any (fun w => w.isFor a va && w.units.contains u) then none else some (u, a, va)
      | _ => none
    else none)

/-- Every ready stream that is not chosen counts one more cycle (R342). -/
def State.countWaits (s : State) (st : Stream) (chosen : Nat) (cs : List Candidate) : State :=
  cs.foldl (fun s c =>
    if c.task = chosen then s
    else s.onTask c.task (fun t => t.setStream st { t.stream st with waitCount := (t.stream st).waitCount + 1 })) s

/-- X_ISSUE: the X engine of core `arg.x` chooses a ready stream, and its word runs next (R341). -/
def execXIssue (s : State) : Host.Outcome State Fault Refusal :=
  s.event (fun s => do
    let core := s.arg.x
    let cs := s.xCandidates core
    match chooseStream (s.core core).lastX (s.cluster (clusterOf core)).mark cs with
    | some c => .ok { s.countWaits .x c.task cs with turn := .word (.task c.task .x) }
    | none =>
      let (u, a, va) ← need (s.xMissing core)
      .error (.pend (s.startWalk u a va)))

end Sys2Proof.Machine
end

