-- ==== Sys2Proof/Machine/Records.lean ====
section
/-! DEFINITION. The delivery of held traps, the posting of fault records and the answers to them, the watchdog and the end of a
PARK (R180, R181, R349 to R363, R370). -/

namespace Sys2Proof.Machine

/-! ## Held conditions (R350, R351) -/

/-- TRAP_DELIVERY on task `arg.x`: of its held conditions that are due, the first in the order A, X, M; in a handler an OVERDRAW is a
nested trap (R358). -/
def execTrapDelivery (s : State) : Host.Outcome State Fault Refusal :=
  s.event (fun s => do
    let (id, t) ← s.argTask
    await t.trapDue
    let d := { t with heldDraw := none, region := t.region.map (fun r => { r with since := s.tsc, draws := [] }) }
    if t.drawDue && decide (t.heldDraw = some .a) then .ok ((s.setTask id d).trapTask id .a .overdraw t.sa.pc 0 0)
    else if t.drawDue && decide (t.heldDraw = some .x) then .ok ((s.setTask id d).trapTask id .x .overdraw t.sx.pc 0 0)
    else if t.fpDue && t.heldLand then .ok ((s.setTask id { t with heldLand := false }).trapTask id .x .fpException t.sx.pc 0 0)
    else if t.drawDue then .ok ((s.setTask id d).trapTask id .m .overdraw t.sm.pc 0 0)
    else .ok ((s.setTask id { t with heldFp := none, cmdStop := true }).trapNaming id .m .fpException t.sm.pc 0 (t.heldFp.getD 0)))

/-- RUBRICATOR_TRAP: a failed load of the Rubricator is delivered at its first reader (R359, R370). -/
def execRubricatorTrap (s : State) : Host.Outcome State Fault Refusal :=
  s.event (fun s => do
    await s.rub.running
    let n ← need s.rub.meetsBad
    let l ← need (s.rub.loads.find? (fun l => l.bad && l.returned && l.id = n))
    let r := { s.rub with meetsBad := none, loads := s.rub.loads.filter (fun m => decide (m.id ≠ n)) }
    .ok ({ s with rub := r }.trapRub l.cause l.pc))

/-! ## Posting (R361, R362) -/

/-- Words 0 to 6 of a record as 56 bytes (Table 15.4). -/
def Record.bytes (r : Record) (tsc : Nat) : List Byte :=
  let b (x : Bool) (k : Nat) := if x then 2 ^ k else 0
  let w0 := 2 ^ 63 + b r.info 62 + b r.nested 61 + b r.path 60 + b r.transient 59 +
    (match r.cause with | some c => c.code | none => 0) % 256 * 2 ^ 48 + r.kind % 16 * 2 ^ 44 + r.stream % 4 * 2 ^ 42 +
    r.taskId % 2 ^ 29
  leBytes 8 w0 ++ leBytes 8 (r.pc % 2 ^ 50) ++ leBytes 8 r.va ++ leBytes 8 (r.ident % 2 ^ 32 * 2 ^ 32 + r.detail % 2 ^ 32) ++
    leBytes 8 tsc ++ leBytes 8 (r.serial % 2 ^ 32) ++ leBytes 8 r.second

/-- The offset of the slot of a record. -/
def ringSlot (n : Nat) : Nat := 0x110000 + 64 * (n % 1024)

/-- Write bytes that are the service die's own into the service area. -/
def State.servicePut (s : State) (off : Nat) : List Byte → State
  | [] => s
  | b :: bs => (s.serviceWrite off 1 b.toNat).servicePut (off + 1) bs

/-- The next slot is free (R362): consumed has passed its last record, and that is answered or expects no answer. -/
def State.slotFree (s : State) : Bool :=
  match s.serviceWord 0x10A030 with
  | none => false
  | some w =>
    decide ((s.posted - w.setWidth 32).toNat < 1024) && !s.opens.any (fun o => decide (o.number % 1024 = s.posted.toNat % 1024))

/-- Fault control is on: the notice semaphore. -/
def State.faultControl (s : State) : Option Nat :=
  match s.serviceWord 0x10A020 with
  | some w => if w.getLsbD 63 then some (bits w.toNat 0 12) else none
  | none => none

/-- The record is posted in the four steps of R362; the last is a release that publishes it. A notice that the access table of the semaphore
file refuses the service die is not given. -/
def State.postRecord (s : State) (r : Record) (sem : Nat) : State :=
  let n := s.posted.toNat
  let first := s.order.next
  let s := s.servicePut (ringSlot n) (r.bytes s.tsc)
  let s := { s with
    posted := s.posted + 1
    opens := if r.info then s.opens else s.opens ++ [({ number := n, src := r.src, kind := r.kind, cause := r.cause } : Open)] }
  let s := s.serviceWrite 0x10A028 8 s.posted.toNat
  let s := s.serviceWrite (ringSlot n + 56) 8 0
  let ns := s.order.since first
  match s.semAllowed sem (rubIdent s.tower) with
  | .ok _ => (s.postRelease sem 3 .die .service Know.none ns).setSem sem (s.sem sem + 1)
  | .error _ => s

/-- An info record is dropped and counted (R362). -/
def State.dropInfo (s : State) : State :=
  ({ s with dropped := s.dropped + 1 } : State).serviceWrite 0x10A038 8 (s.dropped + 1).toNat

/-- An info record is posted in the step of its event, or dropped (R362, R444). -/
def State.postNow (s : State) (r : Record) : State :=
  match s.faultControl with
  | some sem => if s.slotFree then s.postRecord r sem else s.dropInfo
  | none => s.dropInfo

/-- FAULT_RECORD_POST: record `arg.x` of those that wait, the earliest of its source. Without a free slot, or with fault control
off, an info record is dropped and any other waits. -/
def execFaultRecordPost (s : State) : Host.Outcome State Fault Refusal :=
  s.event (fun s => do
    await s.serviceFree
    let r ← need s.records[s.arg.x]?
    await (!(s.records.take s.arg.x).any (fun q => decide (q.src = r.src)))
    let u := { s with records := s.records.eraseIdx s.arg.x }
    match s.faultControl with
    | some sem => if s.slotFree then .ok (u.postRecord r sem) else dropped u r
    | none => dropped u r)
where
  /-- An info record is dropped and counted; any other waits. -/
  dropped (u : State) (r : Record) : Try State := do
    await r.info
    .ok u.dropInfo

/-! ## Answers (R363) -/

/-- The open record `arg.x` with its answer code, once it is answered. -/
def State.answer (s : State) : Try (Open × Nat) := do
  await s.serviceFree
  let o ← need (s.opens.find? (fun o => o.number = s.arg.x))
  let w ← need (s.serviceWord (ringSlot o.number + 56))
  await (w.getLsbD 63)
  .ok (o, bits w.toNat 0 3)

/-- The record awaits an answer no more. -/
def State.closeRecord (s : State) (o : Open) : State := { s with opens := s.opens.filter (fun p => decide (p.number ≠ o.number)) }

/-- A code that does not apply: the record reads as unanswered, with refused set. -/
def State.refuseAnswer (s : State) (o : Open) : State := s.serviceWrite (ringSlot o.number + 56) 8 (2 ^ 62)

/-- The load of a record, performed again: its new entry (R370), and the state with what an MBXR stores. -/
def State.loadAgain (s : State) (id : Nat) (l : Load) : Try (State × Load) :=
  match l.again with
  | none => .error .hold
  | some (i, regs) =>
    let u := ({ s with cur := .task id .a }).onTask id (fun t => { t with regs := regs, loads := [] })
    let good (val : Word) (vec : Vec) : Load := { l with val := val, vec := vec, bad := false, again := none }
    match i with
    | .ld w | .lds w =>
      do
        let v ← (match i with
          | .lds _ => u.performs.scalarLoad w (some w.scope.toNat)
          | _ => u.scalarLoad w none)
        let m ← need ((v.task? id).bind (fun t => t.loads.getLast?))
        .ok ({ v with tasks := s.tasks, cur := s.cur }, { m with id := l.id, dst := l.dst, sec := l.sec, pc := l.pc })
    | .gget w =>
      let f := glyphField w.fn.toNat
      do
        let t ← need (u.task? id)
        let bs ← u.viewRead u.aEngine (t.glyphs + 64 * w.gs.toNat + 8 * f.1) 8
        let x := bits (leNat bs) f.2.1 f.2.2
        .ok (s, good (if glyphFieldSigned w.fn.toNat then word (signed f.2.2 x) else BitVec.ofNat 64 x) [])
    | .ldx w =>
      let width := 4 * 2 ^ w.fn.toNat
      do
        let bs ← u.viewRead (u.aEngine.grained width) l.badAt (64 * width)
        .ok (s, good 0 ((elemsOf width 512 bs).map (BitVec.ofNat 64)))
    | .gath w => do
      let r ← u.gathRead w
      match r.2 with
      | some xs => .ok (s, good 0 (xs.map (BitVec.ofNat 64)))
      | none => raise .uncorrectable
    | .mbxr w => do
      let r ← u.mbxrRead w
      .ok ({ r.1 with tasks := s.tasks, cur := s.cur }, good r.2 [])
    | _ => .error .hold

/-- The failed load of a record is replaced. -/
def Task.onBadLoad (t : Task) (n : Nat) (f : Load → List Load) : Task :=
  { t with loads := t.loads.flatMap (fun l => if l.bad && l.returned && l.id = n then f l else [l]) }

/-- The queue entry of a failed load holds zeros (R370). -/
def Task.zeroLoad (t : Task) (l : Load) : Task :=
  match l.dst with
  | .reg n => if n = 0 then t else { t with regs := t.regs.set 0 n 0 }
  | .xq q n => { t with xq := t.xq.set [] q (fillEntry n (List.replicate 512 0) (t.xq.get [] q)) }

/-- RESUME or RESUME.SKIP of a failed load: performed again, or zero written; the A stream goes on at its stop address. A load performed
again that is refused has failed again, with the new cause; one that waits for a translation leaves the answer to be acted on. -/
def State.resumeLoad (s : State) (id n : Nat) (skip : Bool) : Try State :=
  match s.task? id with
  | none => .ok s
  | some t =>
    match t.loads.find? (fun l => l.bad && l.returned && l.id = n) with
    | none => .ok s
    | some l =>
      if skip then .ok (s.setTask id ((t.zeroLoad l).onBadLoad n (fun _ => [])))
      else
        match s.loadAgain id l with
        | .ok (u, m) => .ok (u.onTask id (fun t => t.onBadLoad n (fun _ => [{ m with returned := false }])))
        | .error (.trap c _) => .ok (s.onTask id (fun t => t.onBadLoad n (fun l => [{ l with cause := c }])))
        | .error e => .error e

/-- The streams go on after a record: all three, or inside a handler the A stream alone (R358, R363). -/
def Task.goOn (t : Task) (now : Nat) : Task :=
  if t.inHandler then { t with sa := { t.sa with stopped := false }, nested := none } else { t.resumeAll now with nested := none }

/-- The stream of the trap that has parked the task on a record. -/
def Task.trapCode (t : Task) : Nat :=
  match t.nested with
  | some n => n.2.1.code
  | none => t.csr.trapStream.toNat

/-- The trapping stream passes over its word (R357, R363). -/
def Task.skipWord (t : Task) : Task :=
  let st := t.trapCode
  if t.inHandler ∧ st = 0 then { t with sa := { t.sa with pc := t.sa.pc + 3 } }
  else if st = 0 then { t with sa := t.sa.advance }
  else if st = 1 then t.xSkip
  else { t with sm := t.sm.advance, mrep := none }

/-- A record that parks the task is still to be posted or answered. -/
def State.parkedByRecord (s : State) (id : Nat) : Bool :=
  s.records.any (fun r => r.src.parks id) || s.opens.any (fun o => o.src.parks id)

/-- A task parked on a record is resumed: running, or runnable when its context is saved; one that has never been placed waits again.
While another record parks it (R372) it stays parked: the model's choice. -/
def State.resumeTask (s : State) (id : Nat) : State :=
  match s.task? id with
  | none => s
  | some t =>
    if s.parkedByRecord id then s
    else if t.saved then s.setTask id { t with run := .runnable, nested := none }
    else if t.slot.isNone then s.setTask id { t.goOn (s.cyc t.core) with run := .waiting }
    else s.setTask id { t.goOn (s.cyc t.core) with run := .running }

/-- The trapping stream of a task on a record passes over its word; a request of that word to another tower is answered for nobody. -/
def State.skipTask (s : State) (id : Nat) : State :=
  match s.task? id with
  | none => s
  | some t => (if t.trapCode = 0 then s.dropAsked (.task id .a) t.inHandler none else s).setTask id t.skipWord

/-- The task of a record, which an answer may reach now: it is parked on it, and no save of it is under way. -/
def State.onRecordTask (s : State) (id : Nat) : Try Task := do
  let t ← need (s.task? id)
  await (decide (t.run = .onRecord) && !t.saving)
  .ok t

/-- A binding changes. -/
def Task.onBinding (t : Task) (n : Nat) (f : Binding → Binding) : Task := { t with binds := t.binds.adjust n f }

/-- ANSWER_RESUME of record `arg.x`. -/
def execAnswerResume (s : State) : Host.Outcome State Fault Refusal :=
  s.event (fun s => do
    let (o, code) ← s.answer
    await (decide (code = 1))
    let u := s.closeRecord o
    match o.src with
    | .task id => do
      let _ ← s.onRecordTask id
      .ok (u.resumeTask id)
    | .load id n => do
      let _ ← s.onRecordTask id
      .ok ((← u.resumeLoad id n false).resumeTask id)
    | .copy id => .ok { u with copies := u.copies.adjust id (fun c => { c with stopped := false }) }
    | .binding id n => .ok (u.onTask id (fun t => t.onBinding n (fun b => { b with stopped := false })))
    | .command id n => .ok (u.onTask id (fun t => t.onCmd n (fun c => { c with faulted := false })))
    | .arrival id => .ok { u with arrivals := u.arrivals.adjust id (fun a => { a with stopped := false }) }
    | .collective c => .ok (u.resumeCollective c)
    | .ended => .ok u
    | .none => .ok (s.refuseAnswer o))

/-- ANSWER_SKIP of record `arg.x`: task records only. -/
def execAnswerSkip (s : State) : Host.Outcome State Fault Refusal :=
  s.event (fun s => do
    let (o, code) ← s.answer
    await (decide (code = 2))
    match o.src with
    | .task id => do
      let _ ← s.onRecordTask id
      .ok (((s.closeRecord o).skipTask id).resumeTask id)
    | .load id n => do
      let _ ← s.onRecordTask id
      .ok ((← (s.closeRecord o).resumeLoad id n true).resumeTask id)
    | _ => .ok (s.refuseAnswer o))

/-- The task ends faulted: slot and window freed, its region ended, its commands that have not started discarded, its frame
freed (R31, R257, R335, R337, R364, R387). -/
def State.endFaulted (s : State) (id : Nat) : State :=
  let s := s.endRegion id
  match s.task? id with
  | none => s
  | some t =>
    let u := { t.close .faulted with cmds := t.cmds.filter (·.started), cmdStop := false, saved := false, frame := none }
    let s := match t.frame with
      | some a => { s with frames := s.frames.del a }
      | none => s
    (((((s.setTask id u.endLease).leaveArming id t true).dropTask id).endSources (Source.parks id)).ordered
      (fun o => o.retire id t.arming)).startPattern

/-- ANSWER_END of record `arg.x`: task records only. A task that waits on a disabled barrier has no record, and R336 refers to this
chapter for its end; the chapter gives none, so it waits on: the model's choice. -/
def execAnswerEnd (s : State) : Host.Outcome State Fault Refusal :=
  s.event (fun s => do
    let (o, code) ← s.answer
    await (decide (code = 3))
    match o.src with
    | .task id | .load id _ => do
      let _ ← s.onRecordTask id
      .ok ((s.closeRecord o).endFaulted id)
    | _ => .ok (s.refuseAnswer o))

/-- ANSWER_ABANDON of record `arg.x`: copies, bindings, arrivals and collectives; every other code, and every other source, is
refused. -/
def execAnswerAbandon (s : State) : Host.Outcome State Fault Refusal :=
  s.event (fun s => do
    let (o, code) ← s.answer
    await (decide (code = 0) || decide (4 ≤ code))
    let u := s.closeRecord o
    match o.src with
    | .copy id => .ok (if code = 4 then u.dropCopy id else s.refuseAnswer o)
    | .binding id n =>
      .ok (if code = 4 then
          u.onTask id (fun t => t.onBinding n (fun b =>
            { b with stopped := false, poison := some (b.pos + b.buf.length, o.cause.getD .access) }))
        else s.refuseAnswer o)
    | .arrival id => .ok (if code = 4 then { u with arrivals := u.arrivals.del id } else s.refuseAnswer o)
    | .collective c => .ok (if code = 4 then u.abandonCollective c else s.refuseAnswer o)
    | .ended => .ok (if code = 4 then u else s.refuseAnswer o)
    | _ => .ok (s.refuseAnswer o))

/-! ## The watchdog, and the end of a PARK (R180, R181) -/

/-- WATCHDOG_EXPIRY on task `arg.x`: `wd.limit` cycles in a counted wait. -/
def execWatchdogExpiry (s : State) : Host.Outcome State Fault Refusal :=
  s.event (fun s => do
    let (id, t) ← s.argTask
    let w ← need t.wait
    await (decide (t.csr.wdLimit ≠ 0) && decide (t.run ≠ .onRecord) && decide (w.since + t.csr.wdLimit.toNat ≤ s.cyc t.core) &&
      !t.saving && !t.unpark)
    let s := if w.on = .ink then { s with ink := s.ink.abandon id } else s
    .ok (s.trapTask id w.stream .watchdog w.pc 0 0))

/-- TASK_UNPARK on task `arg.x`: its condition was found to hold; it goes on after the PARK, or becomes runnable (R180, R338). -/
def execTaskUnpark (s : State) : Host.Outcome State Fault Refusal :=
  s.event (fun s => do
    let (id, t) ← s.argTask
    match t.run with
    | .parked _ => do
      await (t.unpark && !t.saving)
      .ok (s.setTask id { t with run := if t.saved then .runnable else .running, unpark := false, wait := none, sa := t.sa.advance })
    | _ => .error .hold)

end Sys2Proof.Machine
end

