-- ==== Sys2Proof/Machine/Tasks.lean ====
section
/-! DEFINITION. The life of a task outside its words: waits, placement, the loading of its context, the completion of its arming,
and pre-emption (R335 to R339, R364 to R368). -/

namespace Sys2Proof.Machine

/-! ## Waits and armings (R336, R337) -/

/-- TASK_WAITS_REACHED: every used wait of task `arg.x` has been reached, now or at a firing since. -/
def execTaskWaitsReached (s : State) : Host.Outcome State Fault Refusal :=
  s.event (fun s => do
    let (id, t) ← s.argTask
    await (decide (t.run = .waiting) && (t.unpark || t.waits.all s.waitReached))
    .ok ((s.setTask id { t with run := .runnable, unpark := false }).acquireWaits id t))

/-- The completion of an arming is a release of what happened before its tasks retired, and of their chunks that have landed (R316,
R337). -/
def State.releaseArming (s : State) (n sem : Nat) : State :=
  let k := s.order.know (.ended n)
  s.postRelease sem 3 .die .service k (joinNats k.before k.own)

/-- ARMING_COMPLETION: every task of arming `arg.x` has ended; when none faulted, CINC is added to CSEM, unless the access table of the
semaphore file refuses the service die. -/
def execArmingCompletion (s : State) : Host.Outcome State Fault Refusal :=
  s.event (fun s => do
    let a ← need (SMap.find? s.arg.x s.armings)
    await a.live.isEmpty
    let s := { s with armings := s.armings.del s.arg.x }
    .ok (if a.faulted || !s.admits s.tower 5 (0xF100000000 + 8 * a.csem) (rubIdent s.tower) .sem then s else (s.releaseArming s.arg.x a.csem).setSem a.csem (s.sem a.csem + a.cinc)))

/-! ## Placement (R339) -/

/-- The core may be placed on: present, with no lasting Proofing failure and no Proofing (R339, R373, R375). -/
def State.coreOpen (s : State) (core : Nat) : Bool :=
  s.corePresent core && !s.failedCores.contains core &&
    (match s.proofing with
      | some p => decide (p.core ≠ core)
      | none => true)

/-- A candidate comes before another: higher priority first, then earlier arming, then lower rank. -/
def Task.before (t u : Task) : Bool :=
  decide (u.prio < t.prio) ||
    (decide (u.prio = t.prio) && (decide (t.arming < u.arming) || (decide (t.arming = u.arming) && decide (t.rank ≤ u.rank))))

/-- Put a candidate in its place in the order. -/
def insertTask (e : Nat × Task) : List (Nat × Task) → List (Nat × Task)
  | [] => [e]
  | d :: ds => if e.2.before d.2 then e :: d :: ds else d :: insertTask e ds

/-- The runnable tasks of a core, in the order of placement. -/
def State.placeable (s : State) (core : Nat) : List (Nat × Task) :=
  (s.tasks.filter (fun e => decide (e.2.core = core) && decide (e.2.run = .runnable))).foldr insertTask []

/-- The lowest free slot of a core. -/
def State.freeSlot (s : State) (core : Nat) : Option Nat := (List.range 8).find? (fun k => (s.taskIn core k).isNone)

/-- The free granules of a core (R16). -/
def State.freeGranules (s : State) (core : Nat) : Nat :=
  24 - s.tasks.foldl (fun n e => if e.2.core = core ∧ e.2.isResident = true then n + e.2.win else n) 0

/-- Candidates in order: each that fits is placed, each other is passed over; one passed over for 1 ms holds back the rest. -/
def State.placeAll (s : State) (core : Nat) : List (Nat × Task) → State
  | [] => s
  | (id, t) :: es =>
    match s.freeSlot core, decide (t.win ≤ s.freeGranules core) with
    | some k, true => (s.setTask id { t with slot := some k, run := .resident, passedSince := none }).placeAll core es
    | _, _ =>
      let since := t.passedSince.getD s.tsc
      let s := s.setTask id { t with passedSince := some since }
      if since + 1000000 ≤ s.tsc then s else s.placeAll core es

/-- TASK_PLACEMENT on core `arg.x`. -/
def execTaskPlacement (s : State) : Host.Outcome State Fault Refusal :=
  s.event (fun s => do
    let core := s.arg.x
    await (s.serviceFree && s.coreOpen core)
    let s' := s.placeAll core (s.placeable core)
    await (decide (s'.tasks ≠ s.tasks))
    .ok s')

/-! ## Frames (R364, R367) -/

/-- The physical address of frame `n` of the save pool. -/
def State.frameAt (s : State) (n : Nat) : Option Nat :=
  match s.serviceWord 0x10A040, s.serviceWord 0x10A048 with
  | some b, some c =>
    let a := bits b.toNat 23 34 * 2 ^ 23 + n * 2 ^ 23
    if n < bits c.toNat 0 16 then
      match s.place a, s.place (a + 2 ^ 23 - 1) with
      | .store t x _, .store u y _ => if t = s.tower ∧ u = s.tower ∧ x = y ∧ 3 ≤ x then some a else none
      | _, _ => none
    else none
  | _, _ => none

/-- Every frame of the pool lies wholly within this tower's T4 or LPDDR6. -/
def State.poolOk (s : State) : Bool :=
  match s.serviceWord 0x10A048 with
  | some c => (List.range (bits c.toNat 0 16)).all (fun n => (s.frameAt n).isSome)
  | none => false

/-- The lowest free frame: its number and its address. -/
def State.freeFrame (s : State) : Option (Nat × Nat) :=
  if !s.poolOk then none
  else
    match s.serviceWord 0x10A048 with
    | none => none
    | some c =>
      (List.range (bits c.toNat 0 16)).findSome? (fun n =>
        match s.frameAt n with
        | some a => if (SMap.find? a s.frames).isSome then none else some (n, a)
        | none => none)

/-- Granules with a live slice (R367). -/
def Task.liveGranules (t : Task) : Nat :=
  ((List.range 24).filter (fun g => List.any t.slices (fun (e : Nat × Slice) => decide (e.1 / 256 = g)))).length

/-- The bytes the `k`-th save writes for a task, its check code at the least, the frame's 8 MiB at the most (R364, R368). -/
def Task.savedBytes (t : Task) (k : Nat) : Nat := 65536 * t.liveGranules + 1 + Config.frameRest k % (2 ^ 23 - 24 * 65536)

/-- The bytes of a frame still are those its save wrote. -/
def State.frameIntact (s : State) (a : Nat) : Bool :=
  match SMap.find? a s.frames with
  | none => false
  | some (k, n) =>
    match s.dieRead (rubIdent s.tower) a n with
    | .ok bs => decide (bs = (List.range n).map (Config.frameByte k))
    | .error _ => false

/-- No re-ruling holds the frame. -/
def State.frameFree (s : State) (a : Nat) : Bool := !s.heldAt a && !s.heldAt (a + 2 ^ 23 - 1)

/-- A frame is free again. -/
def State.freeFrameAt (s : State) : Option Nat → State
  | some a => { s with frames := s.frames.del a }
  | none => s

/-! ## Pre-emption (R260, R365 to R368) -/

/-- The copies that a task has issued. -/
def Copy.issuedBy (c : Copy) (id : Nat) : Bool := decide (c.issuer = .task id)

/-- A stream has stopped, or will issue no more. -/
def StreamSt.still (v : StreamSt) : Bool := v.stopped || decide (v.phase = .ended)

/-- Every stream has stopped and every copy has landed. -/
def State.drained (s : State) (id : Nat) (t : Task) : Bool :=
  (decide (t.run ≠ .running) || (t.sa.still && t.sx.still && t.sm.still)) && !List.any s.copies (fun (c : Nat × Copy) => c.2.issuedBy id)

/-- The contents of the leased tiles, by 131,072·tile + element. -/
def State.savedTiles (s : State) (cluster : Nat) (mask : BitVec 8) : SMap (BitVec 32) :=
  s.tiles.filterMap (fun e =>
    if e.1 / 2 ^ 20 = cluster ∧ mask.getLsbD (e.1 % 2 ^ 20 / 131072) = true then some (e.1 % 2 ^ 20, e.2) else none)

/-- The lease of a task that is saved is released, or its request withdrawn (R260, R365); a LEASE whose lease was granted while it
waited completes once the lease is back. -/
def State.saveLease (s : State) (t : Task) : Task :=
  if t.lease ≠ 0 then
    { t with lease := 0, leaseSaved := some (t.lease, s.savedTiles (clusterOf t.core) t.lease) }
  else if t.leaseSaved.isSome then t
  else { t with leaseWait := none }

/-- What a task's loads into queues become at the squash: a gather has returned; an LDX whose data have not come is fetched again on
resume (R365, R367). -/
def Task.squashLoads (t : Task) : Task :=
  t.loads.foldl (fun t l =>
    match l.dst, l.bad, l.again with
    | .xq q n, false, some (.gath _, _) =>
      { t with xq := t.xq.set [] q (fillEntry n l.vec (t.xq.get [] q)), loads := t.loads.filter (fun m => decide (m.id ≠ l.id)) }
    | .xq _ _, false, some (.ldx _, _) => { t with loads := t.loads.map (fun m => if m.id = l.id then { m with vec := [] } else m) }
    | _, _, _ => t) t

/-- What a monitor unit measures of the gathers that return at the squash. -/
def State.measureGathers (s : State) (t : Task) : State :=
  t.loads.foldl (fun s l =>
    match l.dst, l.bad, l.again with
    | .xq _ _, false, some (.gath _, _) => s.measureLoad t.core l
    | _, _, _ => s) s

/-- The squash: every stream stops, waits are abandoned, copies that have not landed are squashed, the lease is released, and the
save begins in a frame. -/
def State.squash (s : State) (id : Nat) (t : Task) (frame : Nat) : State :=
  let mark := match t.wait with
    | some w => if w.on = .park then some w else none
    | none => none
  let u := s.saveLease (t.squashLoads.returnLoads.stopAll (s.cyc t.core))
  let u := { u with wait := mark, sampling := none, frame := some frame, pre := some { phase := .saving, since := s.tsc } }
  { (((s.measureReturns t).measureGathers t).setTask id u).dropLease id with
    ink := s.ink.abandon id
    frames := s.frames.put frame (s.saves + 1, 0)
    saves := s.saves + 1
    copies := s.copies.map (fun c => if c.2.issuedBy id then (c.1, { c.2 with squashed := true, early := [] }) else c) }

/-- The task whose drain may end, and a frame for it. -/
def State.drainTask (s : State) (due : Task → Pre → Bool) : Try State := do
  let (id, t) ← s.argTask
  let p ← need t.pre
  await (s.serviceFree && decide (p.phase = .drain) && due t p && t.isResident && decide (t.run ≠ .resident))
  let f ← need s.freeFrame
  .ok (s.squash id t f.2)

/-- PREEMPT_DRAIN_END of task `arg.x`. -/
def execPreemptDrainEnd (s : State) : Host.Outcome State Fault Refusal :=
  s.event (fun s => s.drainTask (fun t _ => s.drained s.arg.x t))

/-- PREEMPT_DRAIN_TIMEOUT of task `arg.x`: `pre.drain` µs have passed. -/
def execPreemptDrainTimeout (s : State) : Host.Outcome State Fault Refusal :=
  s.event (fun s => s.drainTask (fun _ p => decide (p.since + 1000 * s.rub.preDrain.toNat ≤ s.tsc)))

/-- The state a saved task is in (R335, R338). -/
def State.savedRun (s : State) (t : Task) : Task :=
  match t.run with
  | .running => { t with run := .runnable }
  | .parked c =>
    if t.unpark || s.parkHolds t c then { t with run := .runnable, unpark := false, wait := none, sa := t.sa.advance } else t
  | _ => t

/-- The frame's bytes are written; where that is refused the frame fails its check. -/
def State.writeFrame (s : State) (a : Nat) : State :=
  match SMap.find? a s.frames with
  | none => s
  | some (k, n) =>
    match s.physWrite (rubIdent s.tower) .engine a ((List.range n).map (Config.frameByte k)) with
    | .ok u => u
    | .error _ => s

/-- A task saved from a core under Proofing never aborts that Proofing (R374). -/
def State.exemptSaved (s : State) (id core : Nat) : State :=
  match s.proofing with
  | some p => if p.core = core then { s with proofing := some { p with exempt := p.exempt ++ [id] } } else s
  | none => s

/-- The number of a frame in the pool in force. -/
def State.frameNumber (s : State) (a : Nat) : Nat :=
  match s.serviceWord 0x10A040 with
  | some b => (a - bits b.toNat 23 34 * 2 ^ 23) / 2 ^ 23
  | none => 0

/-- PREEMPT_SAVE_COMPLETE of task `arg.x`: every write in flight has landed or is captured. -/
def execPreemptSaveComplete (s : State) : Host.Outcome State Fault Refusal :=
  s.event (fun s => do
    let (id, t) ← s.argTask
    let a ← need t.frame
    await (t.saving && t.effects.all (·.captured) && s.serviceFree && s.frameFree a)
    let k := ((SMap.find? a s.frames).map (·.1)).getD 0
    let n := t.savedBytes k
    let s := { s with frames := s.frames.put a (k, n) }
    let u := s.savedRun { t with slot := none, saved := true, pre := none, reuse := [] }
    let r := { infoRecord s.tower 6 none (s.frameNumber a % 2 ^ 16) n with
                taskId := t.ident s.tower, serial := t.arming % 2 ^ 32 }
    .ok ((((s.writeFrame a).setTask id u).exemptSaved id t.core).post r).startPattern)

/-! ## Loading (R364, R368) -/

/-- The context of a saved task is in place: its lease is requested again, its copies issue again, its bindings resume, and its
pending writes replay. -/
def State.loadContext (s : State) (id : Nat) (t : Task) : State :=
  let u := { t.goOn (s.cyc t.core) with run := .running, saved := false, frame := none, reuse := [] }
  let s := ((s.setTask id u).freeFrameAt t.frame).keepCode id
  { s with
    leaseOrder := if t.leaseSaved.isSome then s.leaseOrder ++ [(clusterOf t.core, id, s.tsc)] else s.leaseOrder
    copies := s.copies.map (fun c => if c.2.issuedBy id then (c.1, { c.2 with squashed := false }) else c) }

/-- A frame that fails its check ends the task faulted, with an info record. -/
def State.refuseContext (s : State) (id : Nat) (t : Task) : State :=
  (s.endFaulted id).post
    { s.taskRecord id t .a .uncorrectable 0 0 0 with src := .none, info := true }

/-- CONTEXT_LOAD_COMPLETE of task `arg.x`. -/
def execContextLoadComplete (s : State) : Host.Outcome State Fault Refusal :=
  s.event (fun s => do
    let (id, t) ← s.argTask
    await (decide (t.run = .resident))
    match t.saved, t.frame with
    | true, some a => do
      await (s.frameFree a)
      .ok (if s.frameIntact a then s.loadContext id t else s.refuseContext id t)
    | _, _ => .ok ((s.setTask id { t with run := .running }).keepCode id))

end Sys2Proof.Machine
end

