-- ==== Sys2Proof/Machine/Block.lean ====
section
/-! DEFINITION. The tower control block, page-table walks and invalidation, the Ruling of the levels, detected errors, and the
remap tables (R288 to R292, R298, R299, R303, R369 to R372). -/

namespace Sys2Proof.Machine

/-! ## Writes to the tower control block (Table 12.8) -/

/-- The oldest write on its way: its offset, its value, and the state once it has been taken. -/
def State.ctlHead (s : State) : Try (Nat × Word × State) := do
  let w ← need s.ctl.incoming.head?
  .ok (w.1, w.2, { s with ctl := { s.ctl with incoming := s.ctl.incoming.drop 1 } })

/-- The offset is that of a level's `ctl.ruling`. -/
def isRuling (o : Nat) : Bool := decide (0x40 ≤ o) && decide (o < 0x60)

/-- The offset is that of a slot's `ctl.mirlen`. -/
def isMirlen (o : Nat) : Bool := decide (0x100 ≤ o) && decide (o < 0x200) && decide ((o - 0x100) % 32 = 16)

/-- Write a doubleword of an access-table entry. -/
def AclEntry.write (e : AclEntry) (i : Nat) (v : Word) : AclEntry :=
  if i = 0 then { e with w0 := v }
  else if i = 1 then { e with w1 := v }
  else if i = 2 then { e with w2 := v }
  else { e with w3 := v }

def State.setMirror (s : State) (n : Nat) (m : Mirror) : State :=
  { s with ctl := { s.ctl with mirrors := s.ctl.mirrors.set Mirror.reset n m } }

/-- A write to a register that holds what is written, or to an offset where there is none. The base of an active mirror slot may be
written too: the active range moves at once, and its conditions are judged again only when its length is written. The spec leaves
open what such a write does; this is the model's choice. -/
def State.ctlWrite (s : State) (o : Nat) (v : Word) : State :=
  if o = 0 then { s with ctl := { s.ctl with asbase := v.setWidth 57, written := true } }
  else if o = 8 then { s with ctl := { s.ctl with invva := v.setWidth 52 } }
  else if o = 0x60 then { s with ctl := { s.ctl with washhost := v.setWidth 1 } }
  else if 0x100 ≤ o ∧ o < 0x200 then
    let n := (o - 0x100) / 32
    let i := (o - 0x100) % 32 / 8
    if i = 0 then s.setMirror n { s.mirrorSlot n with src := v.toNat % 2 ^ 57 }
    else if i = 1 then s.setMirror n { s.mirrorSlot n with dst := v.toNat % 2 ^ 57 }
    else s
  else if 0x10000 ≤ o ∧ o < 0x20000 then
    let n := 2048 * s.tower + (o - 0x10000) / 32
    { s with acl := s.acl.set AclEntry.empty n ((s.acl.get AclEntry.empty n).write (o % 32 / 8) v) }
  else s

/-- A host write to a register of its function that has no behaviour of its own. -/
def State.hostRegister (s : State) : Try State := do
  let m ← need s.host.inbox.head?
  let h := { s.host with inbox := s.host.inbox.drop 1 }
  match m with
  | .attNonce bs => .ok { s with host := { h with nonce := bs.take 32 } }
  | .msixMask v on =>
    .ok { s with host := { h with msiMask := if on then h.msiMask ||| (1#65 <<< v) else h.msiMask &&& ~~~(1#65 <<< v) } }
  | .msixFunction on => .ok { s with host := { h with funcMask := on } }
  | _ => .error .hold

/-- REGISTER_WRITE: the oldest write to the control block or (`arg.x` = 1) of the host, to a register that has no behaviour of its
own. -/
def execRegisterWrite (s : State) : Host.Outcome State Fault Refusal :=
  s.event (fun s =>
    if s.arg.x = 1 then s.hostRegister
    else do
      let (o, v, u) ← s.ctlHead
      await (decide (o ≠ 0x10) && !isMirlen o && !(isRuling o && v.getLsbD 0))
      .ok (u.ctlWrite o v))

/-! ## Invalidation (R299) -/

/-- CTL_INVAL: an invalidation starts once none runs; a write with bits [62:46] set is ignored. -/
def execCtlInval (s : State) : Host.Outcome State Fault Refusal :=
  s.event (fun s => do
    let (o, v, u) ← s.ctlHead
    await (decide (o = 0x10))
    if bits v.toNat 46 17 ≠ 0 then .ok u
    else do
      await (!s.ctl.invBusy)
      .ok { u with ctl := { u.ctl with inval := v, invFrom := s.ctl.invva, invBusy := true } })

/-- A page of an address space falls under the invalidation that runs. -/
def Ctl.covers (c : Ctl) (asid : Nat) (global : Bool) (va n : Nat) : Bool :=
  let v := c.inval.toNat
  let lo := c.invFrom.toNat / 65536 * 65536
  let hi := lo + 65536 * bits v 14 32
  (global || decide (bits v 12 1 = 1) || decide (asid = bits v 0 12)) &&
    (decide (bits v 13 1 = 1) || (decide (va < hi) && decide (lo < va + n)))

/-- A request on its way to another tower that a translation has addressed. -/
def Remote.translated (r : Remote) : Bool :=
  r.answer.isNone &&
    match r.op with
    | .load _ _ _ | .store _ _ _ _ | .chunk _ | .washed _ _ _ => true
    | _ => false

/-- INVALIDATION_COMPLETE: no TLB and no walker of the tower holds a matching translation, and every access that used one has been
performed: those of this tower are performed as they translate, and no request is on its way to another. -/
def execInvalidationComplete (s : State) : Host.Outcome State Fault Refusal :=
  s.event (fun s => do
    await (s.ctl.invBusy && !List.any s.remotes (fun (r : Nat × Remote) => r.2.translated))
    .ok { s with
      tlb := s.tlb.filter (fun e => !s.ctl.covers e.asid e.global e.va e.size)
      walks := s.walks.filter (fun w => !s.ctl.covers w.asid false (w.va / 65536 * 65536) 65536)
      ctl := { s.ctl with invBusy := false } })

/-! ## Walks (R298) -/

/-- Entries of a TLB: 1,024 of a core, 512 of a cluster's matrix loads, 8,192 of a cluster's L2. -/
def tlbRoom (unit : Nat) : Nat := if unit < 192 then 1024 else if unit < 240 then 512 else 8192

/-- A translation is filled in; the oldest of a full TLB leaves. -/
def State.fillTlb (s : State) (e : Tlb) : State :=
  let mine := s.tlb.filter (fun d => decide (d.unit = e.unit))
  let others := s.tlb.filter (fun d => decide (d.unit ≠ e.unit))
  { s with tlb := others ++ (mine.drop (mine.length + 1 - tlbRoom e.unit)) ++ [e] }

/-- The TLBs a walk fills: those that missed, and the L2 TLBs behind them. -/
def Walk.fills (w : Walk) : List Nat := (w.units.flatMap (fun u => [u, l2Of u])).eraseDups

/-- The page is filled into every TLB of the walk, with the rights of the cores each serves. -/
def State.fillAll (s : State) (w : Walk) (e : Tlb) : State :=
  w.fills.foldl (fun s u => s.fillTlb { e with unit := u, rights := s.entryRights u e.pa e.size }) s

/-- What tells the access that waits that its walk has failed. -/
def failedEntry (unit asid va : Nat) : Tlb :=
  { unit := unit, asid := asid, global := false, va := va / 65536 * 65536, size := 65536, pa := 0, r := false, w := false,
    x := false, rights := [], failed := true }

/-- WALK_COMPLETION of walk `arg.x`, one of the 64 under way: the TLBs are filled, or the failure is left for the access that
waits. -/
def execWalkCompletion (s : State) : Host.Outcome State Fault Refusal :=
  s.event (fun s => do
    await (decide (s.arg.x < 64))
    let w ← need s.walks[s.arg.x]?
    let u := { s with walks := s.walks.eraseIdx s.arg.x }
    match u.walk 0 w.asid w.va with
    | .ok e => .ok (u.fillAll w e)
    | .error (.trap _ _) => .ok (if w.pref then u else w.units.foldl (fun s k => s.fillTlb (failedEntry k w.asid w.va)) u)
    | .error e => .error e)

/-! ## Mirror slots (R292) -/

/-- A range of `n` bytes lies in the T levels or in LPDDR6 of this tower. -/
def State.ownRange (s : State) (a n : Nat) : Bool :=
  match s.place a, s.place (a + n - 1) with
  | .store t x o, .store u y p =>
    decide (t = s.tower) && decide (u = s.tower) && (decide (x = 4) == decide (y = 4)) && decide (p + 1 = o + n)
  | _, _ => false

/-- Both ranges are aligned, lie in T levels or LPDDR6 of this tower, and do not overlap. -/
def State.mirrorOk (s : State) (m : Mirror) : Bool :=
  let n := 65536 * m.len.toNat
  decide (m.src % 65536 = 0) && decide (m.dst % 65536 = 0) && s.ownRange m.src n && s.ownRange m.dst n &&
    (decide (s.keyOf m.src + n ≤ s.keyOf m.dst) || decide (s.keyOf m.dst + n ≤ s.keyOf m.src))

/-- CTL_MIRLEN: the slot is activated, refused, or with length 0 deactivated. -/
def execCtlMirlen (s : State) : Host.Outcome State Fault Refusal :=
  s.event (fun s => do
    let (o, v, u) ← s.ctlHead
    await (isMirlen o)
    let n := (o - 0x100) / 32
    let m : Mirror := { s.mirrorSlot n with len := v.setWidth 32, written := [] }
    let on := decide (0 < m.len.toNat)
    let ok := s.mirrorOk m
    .ok (u.setMirror n { m with active := on && ok, refused := on && !ok }))

/-! ## Re-ruling (R290) -/

def State.setLevel (s : State) (x : Nat) (l : Level) : State := { s with levels := s.levels.put x l }

/-- The live banks that stay, as (old number, physical bank). -/
def Level.staying (l : Level) : List (Nat × Nat) :=
  ((List.range l.banks).filter (fun j => !l.lost.contains j)).map (fun j => (j, l.live.get j j))

/-- The level once its lost banks are gone. -/
def Level.ruled (l : Level) (newPoison : List Nat) : Level :=
  let ps := l.staying
  { l with
    banks := ps.length
    live := (ps.zipIdx).filterMap (fun e => if e.1.2 = e.2 then none else some (e.2, e.1.2))
    lost := [], poison := newPoison, busy := true
    errors := (ps.zipIdx).filterMap (fun e => (l.errors.find? e.1.1).map (fun n => (e.2, n)))
    hot := (ps.zipIdx).filterMap (fun e => (l.hot.find? e.1.1).map (fun n => (e.2, n)))
    swap := l.swap.bind (fun w => ((ps.zipIdx).find? (fun e => e.1.1 = w.1)).map (fun e => (e.2, w.2)))
    copies := [] }

/-- The package address div 32 of the first sector of a level of this tower. -/
def State.levelSector (s : State) (x : Nat) : Nat := (s.tower * 2 ^ 40 + levelBase x) / 32

/-- A level is ruled anew: sectors of lost banks read as zero, every other below the new capacity keeps its contents, and a lasting
error stays with its bank and line. Every access is held until the re-ruling ends, so that nothing tells when in it this happens. -/
def State.reRule (s : State) (x : Nat) : State :=
  let l := s.level x
  let first := s.levelSector x
  let all := l.banks * bankSize x / 32
  let keep := l.staying
  let cap := keep.length * bankSize x / 32
  let inLevel (q : Nat) := decide (first ≤ q) && decide (q < first + all)
  let gone (q : Nat) := inLevel q && l.lost.contains ((q - first) % l.banks)
  let moved (q : Nat) : Option Nat :=
    match (keep.zipIdx).find? (fun e => e.1.1 = (q - first) % l.banks) with
    | some e => some (first + (q - first) / l.banks * keep.length + e.2)
    | none => none
  let unread := (s.flaws.filter (fun e => e.2 && inLevel e.1)).map (fun e => e.1 - first)
  let poison := ((l.poison ++ unread).filter (fun q => decide (q < cap) && !gone (first + q))).eraseDups
  let flaws := (s.flaws.filter (fun e => inLevel e.1)).foldl (fun m e =>
    match moved e.1 with
    | some q => SMap.put q e.2 m
    | none => m) (s.flaws.filter (fun e => !inLevel e.1))
  { s with
    mem := s.mem.filter (fun e => !gone (e.1 / 32))
    washed := s.washed.filter (fun e => !(gone (16 * e.1) || gone (16 * e.1 + 1)))
    flaws := flaws }.setLevel x (l.ruled poison)

/-- CTL_RULING: a write of 1 starts a re-ruling, which holds every access to the level until it ends; it is ignored while the remaps
are frozen. -/
def execCtlRuling (s : State) : Host.Outcome State Fault Refusal :=
  s.event (fun s => do
    let (o, v, u) ← s.ctlHead
    await (isRuling o && v.getLsbD 0)
    let x := (o - 0x40) / 8
    if s.frozen || s.sealed || (s.level x).busy then .ok u else .ok (u.reRule x))

/-- RE_RULING_COMPLETE of level `arg.x`: the accesses held by it go on, the reads of channel entries at a doorbell among them. -/
def execReRulingComplete (s : State) : Host.Outcome State Fault Refusal :=
  s.event (fun s => do
    let l := s.level s.arg.x
    await (l.busy && !s.sealed)
    .ok ((s.setLevel s.arg.x { l with busy := false }).releaseWrites.releaseBells))

/-! ## Bank retirement (R288) -/

/-- The level that lists the vertical lanes of a level: T3 and T4 share theirs (R3). -/
def laneHome (x : Nat) : Nat := if x = 3 then 2 else x

/-- Vertical lane `n` fails: the spare lane of its group of 32 replaces it, or none remains (R288). Which banks a lane serves is free
(`Config.laneOf`); that lanes form groups in the order of their numbers is the model's choice. -/
def Level.failLane (l : Level) (n : Nat) : Level :=
  if l.lanes.contains (n / 32) then { l with failedLanes := l.failedLanes ++ [n] } else { l with lanes := l.lanes ++ [n / 32] }

/-- The lane that serves logical bank `j` of level `x` has failed, and no spare lane has replaced it. -/
def State.laneFailed (s : State) (x j : Nat) : Bool :=
  (s.level (laneHome x)).failedLanes.contains (Config.laneOf x ((s.level x).live.get j j))

/-- The banks of a level that such lanes serve. -/
def State.laneBanks (s : State) (x : Nat) : List Nat :=
  if (s.level (laneHome x)).failedLanes.isEmpty then [] else (List.range (s.level x).banks).filter (s.laneFailed x)

/-- A bank is to be retired (R288): more than 16 sectors with lasting errors, a failed lane that no spare lane replaces, or more than
100 ms above the thermal limit. -/
def State.retires (s : State) (x j : Nat) : Bool :=
  let l := s.level x
  decide (16 < l.errors.get 0 j) || s.laneFailed x j ||
    (match SMap.find? j l.hot with
      | some t => decide (t + 100000000 ≤ s.tsc)
      | none => false)

/-- BANK_RETIREMENT of bank `arg.y` of level `arg.x`: a spare is taken, or the bank is lost. -/
def execBankRetirement (s : State) : Host.Outcome State Fault Refusal :=
  s.event (fun s => do
    let x := s.arg.x
    let j := s.arg.y
    let l := s.level x
    await (decide (x ≤ 3) && decide (j < l.banks) && !s.frozen && !s.sealed && !l.busy && l.swap.isNone && !l.lost.contains j &&
      s.retires x j)
    if l.spares = 0 then .ok (s.setLevel x { l with lost := l.lost ++ [j] })
    else .ok (s.setLevel x { l with swap := some (j, l.nextBank), spares := l.spares - 1, nextBank := l.nextBank + 1 }))

/-- BANK_SWAP_SWITCH of level `arg.x`: the list entry switches to the spare; sectors that could not be read are poisoned. -/
def execBankSwapSwitch (s : State) : Host.Outcome State Fault Refusal :=
  s.event (fun s => do
    let x := s.arg.x
    let l := s.level x
    let (j, spare) ← need l.swap
    await (!s.frozen && !s.sealed)
    let first := s.levelSector x
    let mine (q : Nat) := decide (first ≤ q) && decide (q < first + l.banks * bankSize x / 32) && decide ((q - first) % l.banks = j)
    let bad := (s.flaws.filter (fun e => e.2 && mine e.1)).map (fun e => e.1 - first)
    .ok ({ s with flaws := s.flaws.filter (fun e => !mine e.1) }.setLevel x
      { l with live := l.live.set j j spare, swap := none, errors := l.errors.del j, hot := l.hot.del j
               poison := (l.poison ++ bad).eraseDups
               copies := l.copies.map (fun (c : Nat × SMap (Option Nat)) => (c.1, SMap.del j c.2)) }))

/-! ## Detected errors (R287, R369) -/

/-- The level of a sector of this tower, as records number them: 0 to 3, 4 for LPDDR6. -/
def State.sectorLevel (s : State) (q : Nat) : Option (Nat × Nat) :=
  match s.place (32 * q) with
  | .store t x o => if t = s.tower then some (x, o) else none
  | _ => none

/-- A transient error: an info record with its place. -/
def State.transient (s : State) (kind detail second : Nat) : State :=
  s.post { infoRecord s.tower kind none detail second with transient := true }

/-- An error in a sector: a lasting one counts towards R288, and the sector reads as UNCORRECTABLE. -/
def State.sectorError (s : State) (q : Nat) (lasting : Bool) : State :=
  match s.sectorLevel q with
  | none => s
  | some (x, o) =>
    if !lasting then s.transient 8 x (32 * q)
    else
      let known := (s.flaws.find? q).isSome
      let s := { s with flaws := s.flaws.put q true }
      if known || decide (x = 4) then s
      else
        let l := s.level x
        let j := l.bankOf (o - levelBase x)
        s.setLevel x { l with errors := l.errors.set 0 j (l.errors.get 0 j + 1) }

/-- What a copy of the remap table holds in an entry: none where it is unreadable. -/
def Level.copyEntry (l : Level) (copy j : Nat) : Option Nat := (SMap.find? j (l.copies.get [] copy)).getD (some (l.live.get j j))

/-- The vote on an entry: the value in which at least two readable copies agree. -/
def Level.vote (l : Level) (j : Nat) : Option Nat :=
  let a := l.copyEntry 0 j
  let b := l.copyEntry 1 j
  let c := l.copyEntry 2 j
  if a.isSome ∧ (a = b ∨ a = c) then a else if b.isSome ∧ b = c then b else none

/-- The entries in which some copy is not as written. -/
def Level.suspects (l : Level) : List Nat := (l.copies.flatMap (fun c => c.2.map (fun (e : Nat × Option Nat) => e.1))).eraseDups

/-- The map in force is the voted one: an entry that two copies have come to agree in otherwise follows them. -/
def Level.voted (l : Level) : Level :=
  { l with live := l.suspects.foldl (fun m j => match l.vote j with | some v => SMap.set j j v m | none => m) l.live }

/-- What each copy holds in an entry, listed: the vote may come to change it in the map, and not in a copy. -/
def Level.listed (l : Level) (j : Nat) : Level :=
  { l with copies := [0, 1, 2].foldl (fun m k => SMap.set [] k (SMap.put j (l.copyEntry k j) (SMap.get [] k m)) m) l.copies }

/-- An error in an entry of a copy of a remap table: a lasting one leaves the copy unreadable there, or with another value. -/
def State.remapError (s : State) (x copy j : Nat) (value : Option Nat) (lasting : Bool) : State :=
  if !lasting then s.transient 9 (x + 4 * copy) 0
  else
    let l := (s.level x).listed j
    s.setLevel x { l with copies := l.copies.set [] copy (SMap.put j value (l.copies.get [] copy)) }.voted

/-- ECC_RETRY of error `arg.x`: transient, with an info record, or lasting. A parity error of the register file or of a tile store
that lasts meets whoever reads there (R369). -/
def execEccRetry (s : State) : Host.Outcome State Fault Refusal :=
  s.event (fun s => do
    let (f, lasting) ← need s.retries[s.arg.x]?
    let s := { s with retries := s.retries.eraseIdx s.arg.x }
    match f with
    | .sector q => .ok (s.sectorError q lasting)
    | .remap x copy j value =>
      if x ≤ 3 ∧ copy ≤ 2 ∧ j < (s.level x).banks then .ok (s.remapError x copy j value lasting) else .ok s
    | .slice id k =>
      if lasting then .ok (s.onTask id (fun t => { t with flawed := if t.flawed.contains k then t.flawed else t.flawed ++ [k] }))
      else .ok (s.transient 8 5 (k / 64))
    | .tile key =>
      if lasting then .ok { s with badTiles := if s.badTiles.contains key then s.badTiles else s.badTiles ++ [key] }
      else .ok (s.transient 8 6 (key / 512 % 2048)))

/-! ## Remap tables (R371, R372) -/

/-- A copy is unreadable in an entry, or disagrees with the vote. -/
def Level.badCopy (l : Level) (copy : Nat) : Bool :=
  l.suspects.any (fun j => (l.vote j).isSome && decide (l.copyEntry copy j ≠ l.vote j))

/-- An entry has no two readable copies that agree. -/
def Level.lostVote (l : Level) : Bool := l.suspects.any (fun j => (l.vote j).isNone)

/-- A swap in progress is abandoned before its entry switches: the spare stays free. -/
def Level.abandonSwap (l : Level) : Level :=
  if l.swap.isSome then { l with swap := none, spares := l.spares + 1, nextBank := l.nextBank - 1 } else l

/-- A level after a reset: no swap or re-ruling is under way, and a bad copy has been rewritten from the vote wherever two copies agree
(R371). -/
def Level.afterReset (l : Level) : Level :=
  { l.abandonSwap with
    busy := false, reported := []
    copies := l.copies.map (fun (c : Nat × SMap (Option Nat)) => (c.1, c.2.filter (fun (e : Nat × Option Nat) => (l.vote e.1).isNone))) }

/-- REMAP_VOTE_FREEZE: copy `arg.y` of level `arg.x` is bad; remaps freeze, and swaps under way are abandoned. -/
def execRemapVoteFreeze (s : State) : Host.Outcome State Fault Refusal :=
  s.event (fun s => do
    let x := s.arg.x
    let l := s.level x
    await (decide (x ≤ 3) && decide (s.arg.y ≤ 2) && !s.sealed && l.badCopy s.arg.y && !l.reported.contains s.arg.y)
    let u := s.setLevel x { l with reported := l.reported ++ [s.arg.y] }
    .ok ({ u with frozen := true, levels := u.levels.map (fun (e : Nat × Level) => (e.1, e.2.abandonSwap)) }.post
      (infoRecord s.tower 9 none (x + 4 * s.arg.y) 0)))

/-- A task that has not ended parks on a record of MAP_LOST; one that is on a record stays there and has this record beside it, and
one that is being loaded leaves its slot. -/
def State.sealTask (s : State) (e : Nat × Task) : State :=
  match e.2.run with
  | .retired | .faulted => s
  | .onRecord => s.post (s.taskRecord e.1 e.2 .a .mapLost e.2.sa.pc 0 0)
  | .resident => (s.setTask e.1 { e.2 with slot := none }).trapTask e.1 .a .mapLost e.2.sa.pc 0 0
  | _ => s.trapTask e.1 .a .mapLost e.2.sa.pc 0 0

/-- TOWER_SEAL: an entry of the remap tables has no two copies that agree. A re-ruling in progress stops. -/
def execTowerSeal (s : State) : Host.Outcome State Fault Refusal :=
  s.event (fun s => do
    await (!s.sealed && [0, 1, 2, 3].any (fun x => (s.level x).lostVote))
    let s := { s with sealed := true, levels := s.levels.map (fun (e : Nat × Level) => (e.1, { e.2 with busy := false })) }
    .ok (s.tasks.foldl State.sealTask s))

end Sys2Proof.Machine
end

