-- ==== Sys2Proof/Machine/Blotter.lean ====
section
/-! DEFINITION. The Blotter and the switches of Folio blocks: visits, conversions, migrations, copy-on-write and deferred frees
(R162, R403 to R408, R447). -/

namespace Sys2Proof.Machine

/-! ## Visits (R405) -/

/-- A block serves as a scratch block. -/
def Folio.isScratch (f : Folio) (b : Nat) : Bool :=
  f.converting.any (fun c => decide (c.scratch = b)) ||
    (match f.migrating with
      | some c => decide (c.scratch = b)
      | none => false)

/-- A sealed block may start a conversion at a visit. -/
def State.mayConvert (s : State) (b : Nat) : Bool :=
  decide (s.rub.blotAge.toNat < s.blockAge b) && decide (s.blockFormat b ≤ 1) && decide (s.blockGroup b ≤ 1) && !s.blockBusy b &&
    decide (s.folio.converting.length < 4)

/-- The block is busy with a scratch block. -/
def State.setBusy (s : State) (b scratch : Nat) : State := s.setHeader b 4 (2 ^ 63 + scratch)

/-- A conversion starts, or is skipped where no scratch block is free. -/
def State.startConversion (s : State) (b : Nat) : State :=
  match s.takeFree (s.blockPlace b) with
  | none => { s with folio := { s.folio with skipped := s.folio.skipped + 1 } }.showConversions
  | some (sc, s) =>
    let s := (s.setHeaderBits b 0 60 2 2).setBusy b sc
    { s with folio := { s.folio with converting := s.folio.converting ++ [{ block := b, scratch := sc }] } }

/-- The visit of a header. -/
def State.visit (s : State) (b : Nat) : State :=
  if s.blockFree b || s.folio.isScratch b || decide (s.blockState b ≠ 1) then s
  else
    let s := s.setHeaderBits b 1 32 32 (min (s.blockAge b + 1) (2 ^ 32 - 1))
    if s.mayConvert b then s.startConversion b else s

/-- On to the next header; a wrap ends a sweep, and the status word shows both. -/
def State.nextHeader (s : State) : State :=
  let n := (s.folio.next + 1) % 2 ^ 20
  let k := if n = 0 then s.folio.sweeps + 1 else s.folio.sweeps
  { s with folio := { s.folio with next := n, sweeps := k } }.serviceWrite 0x10A238 8 (k.toNat * 2 ^ 32 + n)

/-- BLOTTER_VISIT: the next header, as often in each microsecond as the control word says. -/
def execBlotterVisit (s : State) : Host.Outcome State Fault Refusal :=
  s.event (fun s => do
    let n := s.tsc / 1000
    let done := if s.clocks.blotter = n then s.folio.visited else 0
    await (s.folio.enable && s.folio.base.isSome && decide (done < s.folio.rate))
    let s := { s with clocks := { s.clocks with blotter := n }, folio := { s.folio with visited := done + 1 } }
    match s.headerCheck .write s.folio.next with
    | .error .hold => .error .hold
    | .error _ => .ok s.nextHeader
    | .ok _ => .ok (s.visit s.folio.next).nextHeader)

/-! ## Conversions (R406) -/

/-- The 65,536 bytes of a block's storage, read and written by the Blotter. -/
def State.blotterRead (s : State) (b : Nat) : Try (List Byte) := do
  require (s.storageOk (s.blockData b)) .access
  s.dieRead s.blotterIdent (s.blockData b) 65536

def State.blotterWrite (s : State) (b : Nat) (bs : List Byte) : Try State := do
  require (s.storageOk (s.blockData b)) .access
  s.physWrite s.blotterIdent .engine (s.blockData b) bs

/-- A list in runs of `n`; `fuel` bounds them. -/
def runs {α : Type} (n : Nat) : Nat → List α → List (List α)
  | 0, _ => []
  | fuel + 1, xs => if xs.isEmpty then [] else xs.take n :: runs n fuel (xs.drop n)

/-- Two codes to a byte. -/
def packNibbles (cs : List Nat) : List Byte := (runs 2 cs.length cs).map (fun p => BitVec.ofNat 8 (p.getD 0 0 + 16 * p.getD 1 0))

/-- A page of format 0 or 1 in format 2, quantised in blocks of 32, or of 256 with the scale in eight places. -/
def convertPage (format group : Nat) (bs : List Byte) : List Byte :=
  let vs := bs.map (fun b => if format = 0 then fE4.value b.toNat else fE5.value b.toNat)
  let qs := (runs (if group = 0 then 32 else 256) bs.length vs).map (fun r => quantiseMX r 8 0)
  packNibbles (qs.flatMap (fun q => q.2.1)) ++
    qs.flatMap (fun q => List.replicate (if group = 0 then 1 else 8) (BitVec.ofNat 8 q.1)) ++ List.replicate 30720 0

/-- Blocks exchange a header field. -/
def State.swapHeaders (s : State) (a b i lo n : Nat) : State :=
  let x := bits (s.header a i) lo n
  let y := bits (s.header b i) lo n
  (s.setHeaderBits a i lo n y).setHeaderBits b i lo n x

/-- A switch of versions publishes the storage of a block: everyone sees it as it now stands (R323). -/
def State.renewBlock (s : State) (b : Nat) : State :=
  let key := s.keyOf (s.blockData b)
  s.ordered (fun o => o.renew (key / 8) 8192)

/-- A scratch block that holds old storage returns once the reads of it have ended. -/
def State.retireScratch (s : State) (b : Nat) : State := { s with folio := { s.folio with freeing := s.folio.freeing ++ [b] } }

/-- The scratch block with the converted page written. -/
def State.convertInto (s : State) (c : Convert) : Try State := do
  let bs ← s.blotterRead c.block
  s.blotterWrite c.scratch (convertPage (s.blockFormat c.block) (s.blockGroup c.block) bs)

/-- The conversion or migration of a block. -/
def State.conversionOf (s : State) (b : Nat) : Option Convert := s.folio.converting.find? (fun c => c.block = b)

/-- CONVERSION_SWITCH of block `arg.x`. -/
def execConversionSwitch (s : State) : Host.Outcome State Fault Refusal :=
  s.event (fun s => do
    let b := s.arg.x
    let c ← need (s.conversionOf b)
    await (decide (s.blockState b = 2) && s.headerOk b && s.headerOk c.scratch)
    let s ← s.convertInto c
    let s := (((s.swapHeaders b c.scratch 2 16 41).setHeaderBits b 0 52 4 2).setHeaderBits b 0 60 2 3).setHeader b 4 0
    .ok (({ s with folio := { s.folio with
      converting := s.folio.converting.filter (fun d => decide (d.block ≠ b)), completed := s.folio.completed + 1 } }.retireScratch
        c.scratch).showConversions.renewBlock b))

/-! ## Migrations (R408) -/

/-- MIGRATION_START: the request last read is taken. -/
def execMigrationStart (s : State) : Host.Outcome State Fault Refusal :=
  s.event (fun s => do
    let w ← need s.folio.request
    await (s.folio.migrating.isNone && s.headersFree && s.serviceFree)
    let s := { s with folio := { s.folio with request := none } }
    let b := bits w.toNat 0 20
    let loc := bits w.toNat 20 3
    if 5 ≤ loc then .ok (s.endRequest 3)
    else if s.folio.base.isNone || s.blockFree b || s.blockBusy b || decide (s.blockPlace b = loc) then .ok (s.endRequest 2)
    else
      match s.takeFree loc with
      | none => .ok (s.endRequest 1)
      | some (sc, s) =>
        .ok { s.setBusy b sc with folio := { s.folio with migrating := some { block := b, scratch := sc } } })

/-- The scratch block with the page copied. -/
def State.migrateInto (s : State) (c : Convert) : Try State := do
  let bs ← s.blotterRead c.block
  s.blotterWrite c.scratch bs

/-- MIGRATION_SWITCH: data addresses and locations are exchanged. -/
def execMigrationSwitch (s : State) : Host.Outcome State Fault Refusal :=
  s.event (fun s => do
    let c ← need s.folio.migrating
    await (s.headerOk c.block && s.headerOk c.scratch && s.serviceFree)
    let s ← s.migrateInto c
    let s := ((s.swapHeaders c.block c.scratch 2 16 41).swapHeaders c.block c.scratch 0 48 3).setHeader c.block 4 0
    .ok ((({ s with folio := { s.folio with migrating := none } }.retireScratch c.scratch).endRequest 0).renewBlock c.block))

/-! ## Refused accesses (R447) -/

/-- The refused access of a conversion or migration: its cause and physical address. -/
def State.refused (s : State) (c : Convert) : Option (Cause × Nat) :=
  match s.blotterRead c.block with
  | .error (.trap e _) => some (e, s.blockData c.block)
  | _ =>
    match s.blotterWrite c.scratch (List.replicate 65536 0) with
    | .error (.trap e _) => some (e, s.blockData c.scratch)
    | _ => none

/-- BLOTTER_ACCESS_REFUSED on block `arg.x`: the conversion or the migration ends, and a record says so. -/
def execBlotterAccessRefused (s : State) : Host.Outcome State Fault Refusal :=
  s.event (fun s => do
    let b := s.arg.x
    await (s.headersFree && s.serviceFree)
    match s.conversionOf b with
    | some c => do
      let e ← need (s.refused c)
      .ok (((s.abortConversion b).setBlockState b 1).post (s.blotterRecord e.1 b e.2))
    | none => do
      let c ← need s.folio.migrating
      await (decide (c.block = b))
      let e ← need (s.refused c)
      .ok (s.refuseMigration c e.1 e.2))

/-! ## Copy-on-write and deferred frees (R162, R404) -/

/-- The copy of a copy-on-write, from the storage the block had as it started (R323). -/
def State.copyBlock (s : State) (c : Cow) : Try State := do
  let bs ← s.dieRead c.ident c.data 65536
  let u ← s.physWrite c.ident .engine (s.blockData c.fresh) bs
  .ok (u.renewBlock c.fresh)

/-- The list entry switches to the new block, with the identity of the writer, unless another writer has switched it first. -/
def State.switchEntry (s : State) (c : Cow) : Try State := do
  let bs ← s.physRead c.ident .engine c.entry 4
  if leNat bs = c.block then do
    let u ← s.physWrite c.ident .engine c.entry (leBytes 4 c.fresh)
    .ok ((u.ordered (fun o => o.renew (s.keyOf c.entry / 8) 1)).dropRef c.block)
  else .ok (s.dropRef c.fresh)

/-- COPY_ON_WRITE at list entry `arg.x`: the storage is copied, and the entry switches if it still names the block; a copy or a switch
that has come to be refused ends without one. -/
def execCopyOnWrite (s : State) : Host.Outcome State Fault Refusal :=
  s.event (fun s => do
    let c ← need (s.folio.cows.find? (fun c => c.entry = s.arg.x))
    await s.headersFree
    let u := { s with folio := { s.folio with cows := s.folio.cows.filter (fun d => decide (d.entry ≠ c.entry)) } }
    match (do (← u.copyBlock c).switchEntry c : Try State) with
    | .error .hold => .error .hold
    | .error _ => .ok (u.dropRef c.fresh)
    | r => r)

/-- FOLIO_DEFERRED_FREE of block `arg.x`: its reads have ended, and it returns to the free list of its location. -/
def execFolioDeferredFree (s : State) : Host.Outcome State Fault Refusal :=
  s.event (fun s => do
    let b := s.arg.x
    await (s.folio.freeing.contains b && s.headerOk b && !s.folio.cows.any (fun c => decide (c.block = b) || decide (c.data = s.blockData b)) &&
      (match s.folio.migrating with
        | some c => decide (c.block ≠ b)
        | none => true))
    .ok ({ s with folio := { s.folio with freeing := s.folio.freeing.filter (fun x => decide (x ≠ b)) } }.returnFree b))

end Sys2Proof.Machine
end

