-- ==== Sys2Proof/Machine/Crypto.lean ====
section
/-! DEFINITION. What the boot ROM and the attestation compute (R425, R427): SHAKE256, and the verification of ML-DSA-65. The spec names
FIPS 204 and does not repeat it: its steps, and those of FIPS 202 for SHAKE, are taken from those standards. -/

namespace Sys2Proof.Machine

/-! ## SHAKE (FIPS 202) -/

/-- The constants of the 24 rounds. -/
def keccakRounds : List (BitVec 64) :=
  [0x0000000000000001, 0x0000000000008082, 0x800000000000808A, 0x8000000080008000, 0x000000000000808B, 0x0000000080000001,
    0x8000000080008081, 0x8000000000008009, 0x000000000000008A, 0x0000000000000088, 0x0000000080008009, 0x000000008000000A] ++
  [0x000000008000808B, 0x800000000000008B, 0x8000000000008089, 0x8000000000008003, 0x8000000000008002, 0x8000000000000080,
    0x000000000000800A, 0x800000008000000A, 0x8000000080008081, 0x8000000000008080, 0x0000000080000001, 0x8000000080008008]

/-- By how much lane `x` + 5·`y` is rotated. -/
def keccakTurns : List Nat :=
  [0, 1, 62, 28, 27, 36, 44, 6, 55, 20, 3, 10, 43, 25, 39, 41, 45, 15, 21, 8, 18, 2, 61, 56, 14]

/-- A round on the 25 lanes. -/
def keccakRound (a : List (BitVec 64)) (rc : BitVec 64) : List (BitVec 64) :=
  let lane (l : List (BitVec 64)) (x y : Nat) := l.getD (x % 5 + 5 * (y % 5)) 0
  let c := (List.range 5).map (fun x => (List.range 5).foldl (fun s y => s ^^^ lane a x y) 0)
  let d := (List.range 5).map (fun x => c.getD ((x + 4) % 5) 0 ^^^ (c.getD ((x + 1) % 5) 0).rotateLeft 1)
  let e := a.zipIdx.map (fun p => p.1 ^^^ d.getD (p.2 % 5) 0)
  let b := (List.range 25).map (fun i =>
    let j := (i % 5 + 3 * (i / 5)) % 5 + 5 * (i % 5)
    (e.getD j 0).rotateLeft (keccakTurns.getD j 0))
  (List.range 25).map (fun i =>
    lane b i (i / 5) ^^^ (~~~(lane b (i % 5 + 1) (i / 5)) &&& lane b (i % 5 + 2) (i / 5)) ^^^ (if i = 0 then rc else 0))

/-- The permutation. -/
def keccak (a : List (BitVec 64)) : List (BitVec 64) := keccakRounds.foldl keccakRound a

/-- The lanes with a block of a message in them. -/
def absorbBlock (a : List (BitVec 64)) (bs : List Byte) : List (BitVec 64) :=
  keccak (a.zipIdx.map (fun p => p.1 ^^^ BitVec.ofNat 64 (leNat ((bs.drop (8 * p.2)).take 8))))

/-- A message padded to whole blocks of `rate` bytes. -/
def shakePad (rate : Nat) (m : List Byte) : List Byte :=
  let z := rate - 1 - m.length % rate
  if z = 0 then m ++ [0x9F] else m ++ [0x1F] ++ List.replicate (z - 1) 0 ++ [0x80]

/-- The first `n` blocks of `rate` bytes that the lanes give. -/
def squeeze (rate : Nat) : Nat → List (BitVec 64) → List Byte
  | 0, _ => []
  | n + 1, a => (a.flatMap (fun l => leBytes 8 l.toNat)).take rate ++ squeeze rate n (keccak a)

/-- `n` bytes of SHAKE with a rate. -/
def shake (rate n : Nat) (m : List Byte) : List Byte :=
  let p := shakePad rate m
  let a := (List.range (p.length / rate)).foldl (fun a i => absorbBlock a ((p.drop (rate * i)).take rate)) (List.replicate 25 0)
  (squeeze rate (ceilDiv n rate) a).take n

def shake128 (n : Nat) (m : List Byte) : List Byte := shake 168 n m

def shake256 (n : Nat) (m : List Byte) : List Byte := shake 136 n m

/-- SHAKE256 taken to 512 bits. -/
def digest (m : List Byte) : List Byte := shake256 64 m

/-! ## ML-DSA-65 (FIPS 204) -/

/-- The modulus. -/
def dsaQ : Nat := 8380417

/-- A power of the 512th root of unity. -/
def dsaZeta (e : Nat) : Nat := 1753 ^ (e % 512) % dsaQ

/-- The exponent of the root at place `j` of a transform. -/
def dsaExp (j : Nat) : Nat := 2 * (List.range 8).foldl (fun a k => 2 * a + j / 2 ^ k % 2) 0 + 1

/-- The transform of a polynomial: its values at the roots. -/
def dsaNtt (f : List Nat) : List Nat :=
  (List.range 256).map (fun j => f.zipIdx.foldl (fun a p => (a + p.1 * dsaZeta (dsaExp j * p.2)) % dsaQ) 0)

/-- The polynomial of a transform; 8,347,681 is the inverse of 256. -/
def dsaInv (f : List Nat) : List Nat :=
  (List.range 256).map (fun k =>
    f.zipIdx.foldl (fun a p => (a + p.1 * dsaZeta (512 - dsaExp p.2 * k % 512)) % dsaQ) 0 * 8347681 % dsaQ)

/-- Place by place, modulo q. -/
def dsaAdd (a b : List Nat) : List Nat := List.zipWith (fun x y => (x + y) % dsaQ) a b
def dsaSub (a b : List Nat) : List Nat := List.zipWith (fun x y => (x + dsaQ - y) % dsaQ) a b
def dsaMul (a b : List Nat) : List Nat := List.zipWith (fun x y => x * y % dsaQ) a b

/-- 256 numbers of `w` bits. -/
def dsaUnpack (w : Nat) (bs : List Byte) : List Nat :=
  let v := leNat bs
  (List.range 256).map (fun i => bits v (w * i) w)

/-- An element of the matrix in transformed form: 23-bit numbers below q. -/
def dsaSample (seed : List Byte) : List Nat :=
  let bs := shake128 1680 seed
  (((List.range 560).map (fun i => leNat ((bs.drop (3 * i)).take 3) % 2 ^ 23)).filter (fun v => decide (v < dsaQ))).take 256

/-- The places of a challenge, drawn from the bytes of a stream: each at most the place it serves. -/
def dsaPlaces : Nat → Nat → List Byte → List Nat
  | _, 0, _ => []
  | i, n + 1, bs =>
    let t := bs.dropWhile (fun b => decide (i < b.toNat))
    (t.headD 0).toNat :: dsaPlaces (i + 1) n (t.drop 1)

/-- The challenge: 49 coefficients of 1 or -1. -/
def dsaBall (seed : List Byte) : List Nat :=
  let bs := shake256 1088 seed
  let h := leNat (bs.take 8)
  ((dsaPlaces 207 49 (bs.drop 8)).zipIdx).foldl (fun c p =>
    (c.set (207 + p.2) (c.getD p.1 0)).set p.1 (if bits h p.2 1 = 1 then dsaQ - 1 else 1)) (List.replicate 256 0)

/-- The places of the hint of each of the 6 polynomials; none where they are not laid out as they should be. -/
def dsaHints (y : List Byte) : Option (List (List Nat)) :=
  let at_ (i : Nat) := (y.getD i 0).toNat
  let ends := 0 :: (List.range 6).map (fun i => at_ (55 + i))
  let parts := (List.range 6).map (fun i =>
    ((List.range (ends.getD (i + 1) 0)).drop (ends.getD i 0)).map at_)
  if (List.range 6).all (fun i => decide (ends.getD i 0 ≤ ends.getD (i + 1) 0) && decide (ends.getD (i + 1) 0 ≤ 55)) &&
      parts.all (fun l => (l.zip (l.drop 1)).all (fun p => decide (p.1 < p.2))) &&
      ((List.range 55).drop (ends.getD 6 0)).all (fun i => decide (at_ i = 0)) then some parts
  else none

/-- High bits of a number after a hint; 2·γ2 = 523,776 (FIPS 204, UseHint). -/
def dsaHigh (hint : Bool) (r : Nat) : Nat :=
  let low : Int := if r % 523776 ≤ 261888 then (r % 523776 : Nat) else (r % 523776 : Nat) - 523776
  let top := decide ((r : Int) - low = 8380416)
  let r1 := if top then 0 else ((r : Int) - low).toNat / 523776
  let r0 := if top then low - 1 else low
  if !hint then r1 else if 0 < r0 then (r1 + 1) % 16 else (r1 + 15) % 16

/-- Verification of a signature over a message with an empty context. -/
def dsaVerify (pk m sig : List Byte) : Bool :=
  let rho := pk.take 32
  let t1 := (List.range 6).map (fun i => dsaUnpack 10 ((pk.drop (32 + 320 * i)).take 320))
  let seed := sig.take 48
  let z := (List.range 5).map (fun i => (dsaUnpack 20 ((sig.drop (48 + 640 * i)).take 640)).map (fun (v : Nat) => (524288 : Int) - (v : Int)))
  match dsaHints (sig.drop 3248) with
  | none => false
  | some hs =>
    let mu := shake256 64 (shake256 64 pk ++ [0, 0] ++ m)
    let zs := z.map (fun f => dsaNtt (f.map (fun x => (x % (dsaQ : Int)).toNat)))
    let c := dsaNtt (dsaBall seed)
    let w1 := (List.range 6).map (fun r =>
      let az := zs.zipIdx.foldl (fun a p => dsaAdd a (dsaMul (dsaSample (rho ++ [BitVec.ofNat 8 p.2, BitVec.ofNat 8 r])) p.1))
        (List.replicate 256 0)
      let ct := dsaMul c (dsaNtt ((t1.getD r []).map (8192 * ·)))
      (dsaInv (dsaSub az ct)).zipIdx.map (fun p => dsaHigh ((hs.getD r []).contains p.2) p.1))
    let packed := w1.flatMap (fun f => leBytes 128 (f.zipIdx.foldl (fun a p => a + p.1 * 2 ^ (4 * p.2)) 0))
    z.all (fun f => f.all (fun x => decide (x.natAbs < 524092))) && decide (shake256 48 (mu ++ packed) = seed)

end Sys2Proof.Machine
end

