-- ==== Sys2Proof/Machine/HostBar.lean ====
section
/-! DEFINITION. The host's side: its BARs, mailboxes, wash chunks, MSI-X messages, tower reset, boot and attestation (R185, R186,
R409 to R413, R425 to R427). -/

namespace Sys2Proof.Machine

/-! ## What arrives, in order (R410) -/

/-- The oldest host access, and the state once it has been taken. -/
def State.hostHead (s : State) : Try (HostMsg × State) := do
  let m ← need s.host.inbox.head?
  .ok (m, { s with host := { s.host with inbox := s.host.inbox.drop 1 } })

/-- Something is given to the host. -/
def State.hostGive (s : State) (o : HostOut) : State := { s with host := { s.host with outbox := s.host.outbox ++ [o] } }

/-- Data that the host has read. -/
def State.hostData (s : State) (bs : List Byte) : State := s.hostGive (.data bs)

/-- A refused or unmapped access: an info record with the host offset. -/
def State.hostRefused (s : State) (off : Nat) : State :=
  s.post { infoRecord s.tower 10 none 0 off with ident := (hostIdent s.tower).toNat }

/-- The access lies in a BAR of the function (Table 18.1) or names a mailbox, vector or register that there is. -/
def HostMsg.fits : HostMsg → Bool
  | .bar2Read off n => decide (off + n ≤ 2 ^ 40)
  | .bar2Write off bs => decide (off + bs.length ≤ 2 ^ 40)
  | .bar4Write mode off bs => decide (mode < 8) && decide (off + bs.length ≤ 2 ^ 40)
  | .bar4Read off n => decide (off + n ≤ 2 ^ 43)
  | .hmbCtl n _ => decide (n < 64)
  | .hmbBuf n off bs => decide (n < 64) && decide (off + bs.length ≤ 4096)
  | .bar0Read off n => decide (off + n ≤ 2 ^ 20)
  | .attNonce bs => decide (bs.length ≤ 32)
  | .msixMask v _ => decide (v < 65)
  | _ => true

/-! ## BAR 2 (R410, R425) -/

/-- The package address of a host offset where BAR 2 leads: a T level or LPDDR6; T4 only, and without access tables, while the
staging area is open. -/
def State.bar2 (s : State) (off n : Nat) (k : Access) : Try Nat :=
  let pa := s.tower * 2 ^ 40 + off
  if s.host.staging then
    match placeOffset s.tower off, placeOffset s.tower (off + n - 1) with
    | .store t 3 o, .store _ 3 _ => do
      s.storeCheck t 3 o n k
      .ok pa
    | _, _ => raise .access
  else do
    let p ← s.physCheck (hostIdent s.tower) .engine k pa n
    .ok p.key

/-- The host reads after its own writes what they have left: its accesses are treated in arrival order (R410). -/
def State.hostSees (old s : State) : State :=
  if s.order.next = old.order.next then s else s.ordered (fun o => o.show [.host] (o.since old.order.next))

/-- A host write through BAR 2. -/
def State.bar2Write (s : State) (off : Nat) (bs : List Byte) : Try State :=
  if bs = [] then .ok s
  else do
    let a ← s.bar2 off bs.length .write
    s.writable a bs.length
    .ok (s.hostSees (s.writeBytes a bs))

/-- A host read through BAR 2. -/
def State.bar2Read (s : State) (off n : Nat) : Try (List Byte) := do
  let a ← s.bar2 off n .read
  s.seenBytes (some .host) 8 a n

/-! ## BAR 0 (Table 18.2) -/

/-- A byte of a number. -/
def byteOf (v i : Nat) : Byte := BitVec.ofNat 8 (v / 256 ^ i)

/-- `hmb.ctl<n>` as read. -/
def State.hmbValue (s : State) (n : Nat) : Nat :=
  let m := s.mailbox n
  m.len % 8192 + (if m.device then 65536 else 0) + (if s.host.refused.contains n then 131072 else 0)

/-- A byte of BAR 0. -/
def State.bar0Byte (s : State) (o : Nat) : Byte :=
  if o < 0x40000 then SMap.get (α := Byte) 0 (o % 4096) (s.mailbox (o / 4096)).buf
  else if o < 0x40200 then byteOf (s.hmbValue ((o - 0x40000) / 8)) (o % 8)
  else if o < 0x40208 then byteOf s.host.pend.toNat (o - 0x40200)
  else if o = 0x41000 then s.host.bootStat
  else if 0x41008 ≤ o ∧ o < 0x41010 then byteOf s.host.bootLen.toNat (o - 0x41008)
  else if o = 0x41010 then s.host.attGo
  else if 0x41020 ≤ o ∧ o < 0x41040 then s.host.nonce.getD (o - 0x41020) 0
  else if 0x42000 ≤ o ∧ o < 0x44000 then s.host.report.getD (o - 0x42000) 0
  else if 0x80000 ≤ o ∧ o < 0x90000 then Config.idCert (o - 0x80000)
  else 0

/-- The bytes lie above a level's live capacity (R290). -/
def State.unbacked (s : State) (off n : Nat) : Bool :=
  match placeOffset s.tower off with
  | .store _ x _ => decide (x ≤ 3) && decide ((s.level x).capacity x < off - levelBase x + n)
  | _ => false

/-- HOST_BAR_ACCESS: the oldest host access is a read or write through BAR 2, or a read of BAR 0 or BAR 4. -/
def execHostBarAccess (s : State) : Host.Outcome State Fault Refusal :=
  s.event (fun s => do
    let (m, u) ← s.hostHead
    let ones (n : Nat) := List.replicate n (255 : Byte)
    match m with
    | .bar2Read off n =>
      match s.bar2Read off n with
      | .ok bs => .ok (u.hostData bs)
      | .error .hold => .error .hold
      | .error _ => .ok ((u.hostData (ones n)).hostRefused off)
    | .bar2Write off bs =>
      match u.bar2Write off bs with
      | .ok t => .ok t
      | .error .hold => .error .hold
      | .error _ => .ok (u.hostRefused off)
    | .bar4Read off n =>
      match s.bar2 (off % 2 ^ 40) n .read with
      | .error .hold => .error .hold
      | .error (.trap .access _) | .error (.trap .mapLost _) => .ok ((u.hostData (ones n)).hostRefused off)
      | _ =>
        let v := u.hostData (ones n)
        .ok (if s.unbacked (off % 2 ^ 40) n then v.hostRefused off else v)
    | .bar0Read off n => .ok (u.hostData ((List.range n).map (fun i => s.bar0Byte (off + i))))
    | _ => .error .hold)

/-! ## Wash chunks (R411) -/

/-- The bytes of a chunk so far, with the write that arrives now: none where it does not go on in order, or the chunk has failed. -/
def State.washGather (s : State) (key pos : Nat) (bs : List Byte) : Option (List Byte) :=
  if pos = 0 then some bs
  else
    match s.host.washing.find? key with
    | some (some old) => if old.length = pos then some (old ++ bs) else none
    | _ => none

/-- Where a chunk in a mode is stored, when the link advertises it, the mode is one of Table 12.9 and it lies in a T level; a chunk that the
host may not write, or that is not there, is refused (R410), and a re-ruling holds it. -/
def State.washPlace (s : State) (mode chunk : Nat) : Try (Option (Nat × Nat)) :=
  match placeOffset s.tower chunk with
  | .store t x o => do
    require (s.admits t x o (hostIdent s.tower) .write) .access
    s.storeCheck t x o 512 .write
    .ok (if s.ctl.washhost = 1 ∧ mode ≤ 4 ∧ s.host.staging = false ∧ x ≤ 3 then some (x, o) else none)
  | _ => raise .access

/-- What has arrived of a chunk, by its host offset. -/
def State.setWashing (s : State) (key : Nat) (v : Option (Option (List Byte))) : State :=
  { s with host := { s.host with
    washing := match v with
      | some x => s.host.washing.put key x
      | none => s.host.washing.del key } }

/-- The chunk's writes are discarded, and a record is posted once for it. -/
def State.washFail (s : State) (key : Nat) : State :=
  if s.host.washing.find? key = some none then s else (s.setWashing key (some none)).hostRefused key

/-- An attempt at the chunk that was never finished has failed: the first write of another has come. -/
def State.washAgain (s : State) (key pos : Nat) : State :=
  if pos ≠ 0 then s
  else
    match s.host.washing.find? key with
    | some (some _) => (s.washFail key).setWashing key none
    | _ => s.setWashing key none

/-- A write through BAR 4 that lies in one chunk: refused, each with its host offset (R410), or the next bytes of the chunk. -/
def State.washWrite (s : State) (mode off : Nat) (bs : List Byte) : Try State :=
  let chunk := off / 512 * 512
  let key := mode * 2 ^ 40 + chunk
  let u := s.washAgain key (off % 512)
  match s.washPlace mode chunk with
  | .error .hold => .error .hold
  | .error _ => .ok ((u.setWashing key (some none)).hostRefused (mode * 2 ^ 40 + off))
  | .ok none => .ok (u.washFail key)
  | .ok (some (x, o)) =>
    match s.washGather key (off % 512) bs with
    | none => .ok (u.washFail key)
    | some acc =>
      let size := if mode = 4 ∧ acc.length < 2 then 512 else washSize mode acc
      if 512 < size ∨ size < acc.length then .ok (u.washFail key)
      else if acc.length < size then .ok (u.setWashing key (some (some acc)))
      else .ok (u.hostSees ((u.setWashing key none).storeWashed s.tower x o mode acc))

/-- A write through BAR 4, cut at the chunks. -/
def washParts (off : Nat) (bs : List Byte) : List (Nat × List Byte) :=
  (List.range (ceilDiv (off % 512 + bs.length) 512)).map (fun i =>
    let lo := max off (512 * (off / 512 + i))
    (lo, (bs.drop (lo - off)).take (512 - lo % 512)))

/-- The parts of a write in order. -/
def State.washWrites (mode : Nat) : List (Nat × List Byte) → State → Try State
  | [], s => .ok s
  | p :: ps, s => do
    let u ← s.washWrite mode p.1 p.2
    State.washWrites mode ps u

/-- HOST_WASH_CHUNK_WRITE: the oldest host access is a write through BAR 4. -/
def execHostWashChunkWrite (s : State) : Host.Outcome State Fault Refusal :=
  s.event (fun s => do
    match ← s.hostHead with
    | (.bar4Write mode off bs, u) => State.washWrites mode (washParts off bs) u
    | _ => .error .hold)

/-! ## Mailboxes (R412) -/

/-- HMB_CTL: a handover to the device, accepted or refused. -/
def execHmbCtl (s : State) : Host.Outcome State Fault Refusal :=
  s.event (fun s => do
    match ← s.hostHead with
    | (.hmbCtl n v, u) =>
      let m := s.mailbox n
      let len := bits v.toNat 0 13
      if v.getLsbD 16 && !m.device && decide (len ≤ 4096) then
        let u := u.setMailbox n { m with len := len, device := true }
        .ok { u with host := { u.host with refused := u.host.refused.filter (fun k => decide (k ≠ n)) } }.testParks
      else
        .ok { u with host := { u.host with
          refused := if u.host.refused.contains n then u.host.refused else u.host.refused ++ [n] } }
    | _ => .error .hold)

/-- HMB_PEND: bits written as 1 are cleared. -/
def execHmbPend (s : State) : Host.Outcome State Fault Refusal :=
  s.event (fun s => do
    match ← s.hostHead with
    | (.hmbPend ones, u) => .ok { u with host := { u.host with pend := u.host.pend &&& ~~~ones } }
    | _ => .error .hold)

/-- MAILBOX_BUFFER_WRITE: stored while the owner is HOST. -/
def execMailboxBufferWrite (s : State) : Host.Outcome State Fault Refusal :=
  s.event (fun s => do
    match ← s.hostHead with
    | (.hmbBuf n off bs, u) =>
      let m := s.mailbox n
      .ok (if m.device then u else u.setMailbox n (m.write off (bs.take (4096 - off))))
    | _ => .error .hold)

/-- MSIX_SEND: vector `arg.x` is pending and unmasked. -/
def execMsixSend (s : State) : Host.Outcome State Fault Refusal :=
  s.event (fun s => do
    let v := s.arg.x
    await (decide (v ≤ 64) && s.host.linkUp && !s.host.funcMask && s.host.msiPend.getLsbD v && !s.host.msiMask.getLsbD v)
    .ok ({ s with host := { s.host with msiPend := s.host.msiPend &&& ~~~(1#65 <<< v) } }.hostGive (.msix v)))

/-! ## Reset and boot (R425) -/

/-- TOWER_RESET: the tower is as the boot ROM leaves it. What memory holds stays, and so does the state of the banks; the other
tower's access tables and the accesses on the link are not the tower's. -/
def execTowerReset (s : State) : Host.Outcome State Fault Refusal :=
  s.event (fun s =>
    let r := State.reset
    .ok { r with
      tower := s.tower, mem := s.mem, washed := s.washed, flaws := s.flaws
      levels := s.levels.map (fun (e : Nat × Level) => (e.1, e.2.afterReset))
      acl := (if s.tower = 0 then bootAcl 0 ++ s.acl.filter (fun e => decide (2048 ≤ e.1))
        else s.acl.filter (fun e => decide (e.1 < 2048)) ++ bootAcl 2048)
      host := { r.host with inbox := s.host.inbox, outbox := s.host.outbox, resets := s.host.resets + 1 }
      meters := s.meters, fabIn := s.fabIn, flitIn := s.flitIn, fabOut := s.fabOut, flitOut := s.flitOut, agenda := s.agenda, fresh := s.fresh })

/-- Where the image lies: the start of the tower's T4. -/
def State.imageBase (s : State) : Nat := s.tower * 2 ^ 40 + 0x180000000

/-- Bytes of the image; of one that cannot be read, none. -/
def State.imageBytes (s : State) (off n : Nat) : List Byte :=
  match s.readBytes (s.imageBase + off) n with
  | .ok bs => bs
  | .error _ => []

/-- A number of the image. -/
def State.imageNat (s : State) (off n : Nat) : Nat := leNat (s.imageBytes off n)

/-- The image is malformed (R425). -/
def State.imageBad (s : State) : Bool :=
  let len := s.imageNat 8 8
  let entry := s.imageNat 16 8
  decide (s.imageNat 0 8 ≠ 1) || decide (s.imageNat 32 32 ≠ 0) || (s.imageBytes 5325 2867).any (fun b => decide (b ≠ 0)) ||
    decide (len = 0) || decide (2 ^ 28 < len) || decide (len ≤ entry) || decide (entry % 4 ≠ 0)

/-- D of R425. -/
def State.imageDigest (s : State) : List Byte :=
  digest (s.imageBytes 0 64 ++ s.imageBytes 8192 (s.imageNat 8 8))

/-- The result of verification: `boot.stat`. -/
def State.verify (s : State) : BitVec 8 :=
  let key := s.imageBytes 64 1952
  if s.imageBad then 5
  else if digest key ≠ Config.bootKeyHash then 3
  else if dsaVerify key s.imageDigest (s.imageBytes 2016 3309) then 2
  else 4

/-- BOOT_LEN_WRITE: verification starts, unless one runs or the Rubricator has been started. -/
def execBootLenWrite (s : State) : Host.Outcome State Fault Refusal :=
  s.event (fun s => do
    match ← s.hostHead with
    | (.bootLen v, u) =>
      let h := { u.host with bootLen := v }
      .ok { u with host := if h.bootStat = 1 ∨ h.bootStat = 2 ∨ h.bootStat = 6 then h else { h with bootStat := 1 } }
    | _ => .error .hold)

/-- BOOT_VERIFY_DONE: the Rubricator starts, or the image is refused. -/
def execBootVerifyDone (s : State) : Host.Outcome State Fault Refusal :=
  s.event (fun s => do
    await (decide (s.host.bootStat = 1))
    let r := s.verify
    let h := { s.host with bootStat := r }
    if r ≠ 2 then .ok { s with host := h }
    else
      let pc := (s.imageBase + 8192 + s.imageNat 16 8) / 4
      .ok { s with
        host := { h with staging := false, version := BitVec.ofNat 64 (s.imageNat 24 8), digest := s.imageDigest }
        rub := { s.rub with running := true, pc := BitVec.ofNat 50 pc } })

/-! ## Attestation (R427) -/

/-- A list cut or filled with zeros to `n` bytes. -/
def sized (n : Nat) (bs : List Byte) : List Byte := bs.take n ++ List.replicate (n - bs.length) 0

/-- Bytes 0 to 255 of the report (Table 18.5). -/
def State.reportHead (s : State) : List Byte :=
  leBytes 8 1 ++ leBytes 2 s.node ++ leBytes 1 s.tower ++ leBytes 5 0 ++ leBytes 8 s.host.version.toNat ++ sized 64 s.host.digest ++
    sized 64 Config.bootKeyHash ++ sized 24 ((s.serviceBytes 0x10A000 24).getD []) ++ leBytes 8 s.tsc ++ sized 32 s.host.taken ++
    leBytes 8 (Config.resetsSinceManufacture + s.host.resets).toNat ++ leBytes 32 0

/-- ATT_GO: a write of 1 starts a report, unless one is under way. -/
def execAttGo (s : State) : Host.Outcome State Fault Refusal :=
  s.event (fun s => do
    match ← s.hostHead with
    | (.attGo v, u) =>
      .ok (if v = 1 ∧ u.host.attGo.getLsbD 0 = false then
          { u with host := { u.host with attGo := 1, taken := u.host.nonce } }
        else u)
    | _ => .error .hold)

/-- ATT_REPORT_DONE: the report is complete and signed. -/
def execAttReportDone (s : State) : Host.Outcome State Fault Refusal :=
  s.event (fun s => do
    await (s.host.attGo.getLsbD 0 && s.serviceFree)
    let head := s.reportHead
    .ok { s with host := { s.host with attGo := 2, report := head ++ sized 3309 (Config.attSign (digest head)) } })

end Sys2Proof.Machine
end

