-- ==== Sys2Proof/Machine/Integer.lean ====
section
/-! DEFINITION. The integer instructions of the A stream (R123 to R126). -/

namespace Sys2Proof.Machine

/-- Leading zero bits (Table 5.3). -/
def clz64 (a : Word) : Nat := if a = 0 then 64 else 63 - Nat.log2 a.toNat

/-- Trailing zero bits, from bit `64 − n` up. -/
def ctzFrom (a : Word) : Nat → Nat
  | 0 => 0
  | n + 1 => if a.getLsbD (63 - n) then 0 else 1 + ctzFrom a n

/-- Trailing zero bits (Table 5.3). -/
def ctz64 (a : Word) : Nat := ctzFrom a 64

/-- One bits among the lowest `n`. -/
def popcBelow (a : Nat) : Nat → Nat
  | 0 => 0
  | n + 1 => a / 2 ^ n % 2 + popcBelow a n

/-- One bits (Table 5.3). -/
def popc64 (a : Word) : Nat := popcBelow a.toNat 64

/-- The signed high half of a product. -/
def mulHigh (a b : Word) : Word := word (a.toInt * b.toInt / 2 ^ 64)

/-- The unsigned high half of a product. -/
def mulHighN (a b : Word) : Word := BitVec.ofNat 64 (a.toNat * b.toNat / 2 ^ 64)

/-- `Floor(S(A) / 2^Min(Z(B), 63))`. -/
def shiftArith (a b : Word) : Word := a.sshiftRight (min b.toNat 63)

/-- A bit field (R126): bits [pos + width − 1 : pos], extended. -/
def bfx (imm a : Word) : Word :=
  let width := bits imm.toNat 0 7
  let f := a.toNat / 2 ^ bits imm.toNat 8 6 % 2 ^ width
  if imm.getLsbD 16 then word (signed width f) else BitVec.ofNat 64 f

/-- A bit field put into `old` (R126). -/
def bfi (imm old a : Word) : Word :=
  let pos := bits imm.toNat 8 6
  let width := bits imm.toNat 0 7
  let mask := BitVec.ofNat 64 ((2 ^ width - 1) * 2 ^ pos)
  (old &&& ~~~mask) ||| BitVec.ofNat 64 (a.toNat % 2 ^ width * 2 ^ pos)

/-- A word that computes a value from two registers and writes it to `d` (R123). -/
def State.alu2 (s : State) (w : AR) (f : Word → Word → Word) : Host.Outcome State Fault Refusal :=
  s.aWord [w.a, w.b] (fun s => .ok ((s.setReg w.d (f (s.reg w.a) (s.reg w.b))).advance))

/-- A word that computes a value from one register. -/
def State.alu1 (s : State) (w : AR) (f : Word → Word) : Host.Outcome State Fault Refusal :=
  s.aWord [w.a] (fun s => .ok ((s.setReg w.d (f (s.reg w.a))).advance))

/-- A division: a zero divisor traps, and `d` is not written (R124). -/
def State.divide (s : State) (w : AR) (f : Word → Word → Word) : Host.Outcome State Fault Refusal :=
  s.aWord [w.a, w.b] (fun s => do
    require (decide (s.reg w.b ≠ 0)) .divideZero
    .ok ((s.setReg w.d (f (s.reg w.a) (s.reg w.b))).advance))

/-- 1 or 0. -/
def flag01 (b : Bool) : Word := if b then 1 else 0

def execAdd (w : AR) (s : State) : Host.Outcome State Fault Refusal := s.alu2 w (fun a b => a + b)

def execSub (w : AR) (s : State) : Host.Outcome State Fault Refusal := s.alu2 w (fun a b => a - b)

def execAddi (w : AI) (s : State) : Host.Outcome State Fault Refusal :=
  s.aWord [w.a] (fun s => .ok ((s.setReg w.d (s.reg w.a + w.imm)).advance))

def execMul (w : AR) (s : State) : Host.Outcome State Fault Refusal := s.alu2 w (fun a b => a * b)

def execMulh (w : AR) (s : State) : Host.Outcome State Fault Refusal := s.alu2 w mulHigh

def execMulhn (w : AR) (s : State) : Host.Outcome State Fault Refusal := s.alu2 w mulHighN

/-- Signed quotient rounded towards zero. -/
def execDiv (w : AR) (s : State) : Host.Outcome State Fault Refusal :=
  s.divide w (fun a b => word (a.toInt.tdiv b.toInt))

def execDivn (w : AR) (s : State) : Host.Outcome State Fault Refusal :=
  s.divide w (fun a b => BitVec.ofNat 64 (a.toNat / b.toNat))

/-- Signed remainder, of the sign of the dividend. -/
def execRem (w : AR) (s : State) : Host.Outcome State Fault Refusal :=
  s.divide w (fun a b => word (a.toInt.tmod b.toInt))

def execRemn (w : AR) (s : State) : Host.Outcome State Fault Refusal :=
  s.divide w (fun a b => BitVec.ofNat 64 (a.toNat % b.toNat))

def execAnd (w : AR) (s : State) : Host.Outcome State Fault Refusal := s.alu2 w (fun a b => a &&& b)

def execOr (w : AR) (s : State) : Host.Outcome State Fault Refusal := s.alu2 w (fun a b => a ||| b)

def execXor (w : AR) (s : State) : Host.Outcome State Fault Refusal := s.alu2 w (fun a b => a ^^^ b)

def execAndn (w : AR) (s : State) : Host.Outcome State Fault Refusal := s.alu2 w (fun a b => a &&& ~~~b)

def execShl (w : AR) (s : State) : Host.Outcome State Fault Refusal :=
  s.alu2 w (fun a b => if b.toNat < 64 then a <<< b.toNat else 0)

def execShr (w : AR) (s : State) : Host.Outcome State Fault Refusal :=
  s.alu2 w (fun a b => if b.toNat < 64 then a >>> b.toNat else 0)

def execSra (w : AR) (s : State) : Host.Outcome State Fault Refusal := s.alu2 w shiftArith

def execRol (w : AR) (s : State) : Host.Outcome State Fault Refusal :=
  s.alu2 w (fun a b => a.rotateLeft (b.toNat % 64))

def execRor (w : AR) (s : State) : Host.Outcome State Fault Refusal :=
  s.alu2 w (fun a b => a.rotateRight (b.toNat % 64))

def execClz (w : AR) (s : State) : Host.Outcome State Fault Refusal := s.alu1 w (fun a => BitVec.ofNat 64 (clz64 a))

def execCtz (w : AR) (s : State) : Host.Outcome State Fault Refusal := s.alu1 w (fun a => BitVec.ofNat 64 (ctz64 a))

def execPopc (w : AR) (s : State) : Host.Outcome State Fault Refusal := s.alu1 w (fun a => BitVec.ofNat 64 (popc64 a))

def execMin (w : AR) (s : State) : Host.Outcome State Fault Refusal := s.alu2 w (fun a b => if a.slt b then a else b)

def execMax (w : AR) (s : State) : Host.Outcome State Fault Refusal := s.alu2 w (fun a b => if a.slt b then b else a)

def execMinn (w : AR) (s : State) : Host.Outcome State Fault Refusal := s.alu2 w (fun a b => if a.ult b then a else b)

def execMaxn (w : AR) (s : State) : Host.Outcome State Fault Refusal := s.alu2 w (fun a b => if a.ult b then b else a)

def execSel (w : AR) (s : State) : Host.Outcome State Fault Refusal :=
  s.aWord [w.a, w.b, w.c] (fun s =>
    .ok ((s.setReg w.d (if s.reg w.c = 0 then s.reg w.b else s.reg w.a)).advance))

def execSlt (w : AR) (s : State) : Host.Outcome State Fault Refusal := s.alu2 w (fun a b => flag01 (a.slt b))

def execSltn (w : AR) (s : State) : Host.Outcome State Fault Refusal := s.alu2 w (fun a b => flag01 (a.ult b))

def execSeq (w : AR) (s : State) : Host.Outcome State Fault Refusal := s.alu2 w (fun a b => flag01 (decide (a = b)))

def execLi (w : AI) (s : State) : Host.Outcome State Fault Refusal :=
  s.aWord [] (fun s => .ok ((s.setReg w.d w.imm).advance))

def execBfx (w : AI) (s : State) : Host.Outcome State Fault Refusal :=
  s.aWord [w.a] (fun s => .ok ((s.setReg w.d (bfx w.imm (s.reg w.a))).advance))

/-- `d` is source and destination (R126). -/
def execBfi (w : AI) (s : State) : Host.Outcome State Fault Refusal :=
  s.aWord [w.a, w.d] (fun s => .ok ((s.setReg w.d (bfi w.imm (s.reg w.d) (s.reg w.a))).advance))

/-- The saturating add; a clamped result sets SAT in a task (R125). -/
def execAdds (w : AR) (s : State) : Host.Outcome State Fault Refusal :=
  s.aWord [w.a, w.b] (fun s =>
    let r := satInt ((s.reg w.a).toInt + (s.reg w.b).toInt) 64 true
    .ok (((s.setReg w.d (word r.1)).setFlags r.2).advance))

end Sys2Proof.Machine
end

