-- ==== Sys2Proof/Machine/Power.lean ====
section
/-! DEFINITION. Power: the sensors, the cluster clocks and their clamps, series pairs and droops, the Inkwell and its regions, the
governor, and the Baseline (R175, R376 to R392). -/

namespace Sys2Proof.Machine

/-! ## Clocks (R378, R381) -/

/-- Ten-thousandths of the cycle in progress that have passed; below 0 while the cycle is stretched. -/
def State.intoCycle (s : State) (k : Cluster) : Int :=
  (((s.now - k.t0) * k.mhz : Nat) - k.lag : Int) - 10000 * ((((s.now - k.t0) * k.mhz : Nat) - k.lag : Int) / 10000).toNat

/-- The cluster runs at `f` from the end of the cycle in progress on. -/
def State.setClock (s : State) (c f : Nat) : State :=
  let k := s.cluster c
  if f = k.mhz then s
  else
    s.setCluster c { k with cyc0 := s.cycles c, t0 := s.now, mhz := f,
                            lag := (10000 - s.intoCycle k) * (f : Int) / (k.mhz : Int) - 10000 }

/-- The clock of a cluster (R378). -/
def State.clockOf (s : State) (c : Nat) : Nat :=
  let k := s.cluster c
  min (min s.base.ceil 1250) (min (if k.clampSensor then 600 else 1250) (if k.clampHeat then 400 else 1250))

/-- Every cluster takes its clock. -/
def State.reclock (s : State) : State := (List.range 48).foldl (fun s c => s.setClock c (s.clockOf c)) s

/-- The cycle in progress is longer by `y` ten-thousandths, and counts as stretched (R380, R381). -/
def State.stretchCycle (s : State) (c y : Nat) : State :=
  let k := s.cluster c
  s.setCluster c { k with cyc0 := s.cycles c, t0 := s.now, lag := (y : Int) - s.intoCycle k, stretch := k.stretch + 1
                          stretchedAt := s.cycles c + 1 }

/-- The cycle that begins now of the heavier cluster of a pair is stretched, by an amount the manual leaves open (R380). -/
def State.stretchHeavy (s : State) (c : Nat) : State :=
  if (s.cluster c).stretched then s.stretchCycle c (Config.stretchBy c (s.cycles c) % 5000 + 1) else s

/-- DROOP_DETECT: the cycle of cluster `arg.x` that begins now is stretched by `arg.y` ten-thousandths, at most half, unless it has
been stretched. -/
def execDroopDetect (s : State) : Host.Outcome State Fault Refusal :=
  s.event (fun s => do
    let c := s.arg.x
    let k := s.cluster c
    await (decide (c < 48) && decide (1 ≤ s.arg.y) && decide (s.arg.y ≤ 5000) && decide (k.stretchedAt ≤ s.cycles c) && decide (0 ≤ s.intoCycle k) && decide (s.intoCycle k < (k.mhz : Int)))
    .ok (s.stretchCycle c s.arg.y))

/-! ## Sensors (R376, R377) -/

/-- The raw reading of a sensor. -/
def State.raw (s : State) (c i : Nat) : Int := s.meters.readings.get 0 (8 * c + i)

/-- The first test: out of range. -/
def rangeFails (i : Nat) (r : Int) : Bool :=
  if i < 3 then decide (r < 0) || decide (80000 < r) else decide (r < -20000) || decide (130000 < r)

/-- The estimate has changed by 10 % or more since the oldest of the list. -/
def estimateMoved (es : List Nat) : Bool :=
  let old := es.getLast?.getD 0
  es.any (fun e => decide (e ≠ old) && decide (old ≤ 10 * ((e - old) + (old - e))))

/-- The second test: stuck. -/
def stuckFails (tsc : Nat) (k : Sensor) (r : Int) (es : List Nat) : Bool :=
  decide (r = k.reading) && decide (k.changedAt + 1000000 ≤ tsc) && estimateMoved es

/-- The neighbours of a sensor: cluster and number. -/
def neighbours (c i : Nat) : List (Nat × Nat) :=
  if i < 3 then ([0, 1, 2].filter (fun j => decide (j ≠ i))).map (fun j => (c, j))
  else
    let p := if c % 2 = 0 then c + 1 else c - 1
    [(c, 7 - i), (p, 3), (p, 4)]

/-- How far a reading is from the median of the valid neighbours, and that median. -/
def State.apart (s : State) (ok : Nat → Nat → Bool) (c i : Nat) : Option (Nat × Nat) :=
  (median ((neighbours c i).filterMap (fun n => if ok n.1 n.2 then some (s.raw n.1 n.2) else none))).map
    (fun m => ((s.raw c i - m).natAbs, m.natAbs))

/-- The third test: more than 20 % from it. -/
def disagrees : Option (Nat × Nat) → Bool
  | some (d, m) => decide (m < 5 * d)
  | none => false

/-- Of the sensors listed, the one furthest from its neighbours. -/
def State.worst (s : State) (ok : Nat → Nat → Bool) (c : Nat) (is : List Nat) : Option Nat :=
  is.find? (fun i => is.all (fun j => decide (((s.apart ok c j).getD (0, 0)).1 ≤ ((s.apart ok c i).getD (0, 0)).1)))

/-- Record a declaration or a restoration (R377). -/
def sensorRecord (tower c i : Nat) (faulty : Bool) (r : Int) : Record :=
  infoRecord tower 10 none (c + i * 256 + (if faulty then 4096 else 0)) (wrap 64 r)

/-- The check of one sensor. `own`: its first two tests fail; `third`: the disagreement test declares it now. -/
def State.checkSensor (s : State) (c i : Nat) (own third apart : Bool) : State :=
  let k := s.cluster c
  let q := k.sensor i
  let r := s.raw c i
  let q1 := { q with reading := r, changedAt := if r = q.reading then q.changedAt else s.tsc }
  let put (q : Sensor) (s : State) := s.setCluster c { s.cluster c with sensors := (s.cluster c).sensors.set Sensor.reset i q }
  if q.valid then
    if own || third then (put { q1 with valid := false, passedSince := none } s).post (sensorRecord s.tower c i true r)
    else put q1 s
  else if own || apart then put { q1 with passedSince := none } s
  else
    let since := q.passedSince.getD s.tsc
    if since + 10000000 ≤ s.tsc then (put { q1 with valid := true, passedSince := none } s).post (sensorRecord s.tower c i false r)
    else put { q1 with passedSince := some since } s

/-- The check of a cluster's sensors. -/
def State.checkCluster (old s : State) (c : Nat) : State :=
  let k := old.cluster c
  let es := (old.meters.estimates.get 0 c :: k.estimates).take 11
  let own (i : Nat) := rangeFails i (old.raw c i) || stuckFails old.tsc (k.sensor i) (old.raw c i) es
  let ok (d j : Nat) := ((old.cluster d).sensor j).valid && !(decide (d = c) && own j)
  let far (i : Nat) := disagrees (old.apart ok c i)
  let s := s.setCluster c { s.cluster c with estimates := es }
  [[0, 1, 2], [3, 4]].foldl (fun s is =>
    let bad := old.worst ok c (is.filter (fun i => ok c i && far i))
    is.foldl (fun s i => s.checkSensor c i (own i) (decide (bad = some i)) (far i)) s) s

/-- The temperature of a bank is above its thermal limit: that of the hottest cluster beneath it exceeds 105 °C. -/
def State.bankHot (s : State) (x bank : Nat) : Bool := (Config.beneath x bank).any (fun c => decide (105000 < s.hottest c))

/-- The logical banks of a level above their thermal limit, each with the time since which it has been. -/
def State.hotBanks (s : State) (x : Nat) (l : Level) : SMap Nat :=
  (List.range l.banks).filterMap (fun j => if s.bankHot x (l.live.get j j) then some (j, (SMap.find? j l.hot).getD s.tsc) else none)

/-- The temperatures of the banks follow those of the clusters (R377). -/
def State.heatBanks (s : State) : State :=
  let any := (List.range 48).any (fun c => decide (105000 < s.hottest c))
  { s with levels := s.levels.map (fun (e : Nat × Level) => (e.1, { e.2 with hot := if any then s.hotBanks e.1 e.2 else [] })) }

/-- SENSOR_CHECK: every 100 µs. -/
def execSensorCheck (s : State) : Host.Outcome State Fault Refusal :=
  s.event (fun s => do
    await (decide (s.clocks.sensor < s.tsc / 100000))
    let old := s
    let s := { s with clocks := { s.clocks with sensor := s.tsc / 100000 } }
    .ok ((List.range 48).foldl (fun s c => old.checkCluster s c) s).heatBanks)

/-- The clamps a cluster should have (R377). -/
def State.clampsDue (s : State) (c : Nat) : Bool × Bool :=
  let k := s.cluster c
  let few (is : List Nat) := decide ((is.filter (fun i => (k.sensor i).valid)).length < 2)
  (few [0, 1, 2] || few [3, 4],
    if 110000 ≤ s.hottest c then true else if s.hottest c < 100000 then false else k.clampHeat)

/-- CLUSTER_CLAMP on cluster `arg.x`: a clamp is applied or lifted. -/
def execClusterClamp (s : State) : Host.Outcome State Fault Refusal :=
  s.event (fun s => do
    let c := s.arg.x
    let k := s.cluster c
    let d := s.clampsDue c
    await (decide (c < 48) && (decide (k.clampSensor ≠ d.1) || decide (k.clampHeat ≠ d.2)))
    let s := s.setCluster c { k with clampSensor := d.1, clampHeat := d.2 }
    .ok (s.setClock c (s.clockOf c)))

/-! ## Series pairs (R379, R380) -/

/-- The current of a cluster: the sum of its sensors' values, which is the model's choice; R379 does not say how it follows from them. -/
def State.current (s : State) (c : Nat) : Int := s.sensorValue c 0 + s.sensorValue c 1 + s.sensorValue c 2

/-- The measurement of a pair: the imbalance in thousandths. -/
def imbalance (hi lo : Int) : Nat := if hi ≤ 0 then 0 else (1000 * (hi - lo) / hi).toNat

/-- PAIR_MEASUREMENT of pair `arg.x`: every 16 cycles of its first cluster. -/
def execPairMeasurement (s : State) : Host.Outcome State Fault Refusal :=
  s.event (fun s => do
    let i := s.arg.x
    let n := s.cycles (2 * i) / 16
    await (decide (i < 24) && decide (s.clocks.pairs.get 0 i < n))
    let x := s.current (2 * i)
    let y := s.current (2 * i + 1)
    let d := imbalance (max x y) (min x y)
    let mark (me other : Int) := if d < 30 then 0 else if other < me then 1 else 2
    let put (s : State) (c : Nat) (m : Nat) : State :=
      s.setCluster c { s.cluster c with delta := d, mark := m, stretched := decide (m = 1) && decide (100 ≤ d) }
    let s := { s with clocks := { s.clocks with pairs := s.clocks.pairs.set 0 i n } }
    .ok (put (put s (2 * i) (mark x y)) (2 * i + 1) (mark y x)))

/-- A cycle of cluster `c` has ended: ballast has run on the engines that issued nothing (R380). -/
def State.ballastCycle (s : State) (c cycle : Nat) : State :=
  let k := s.cluster c
  if k.mark = 2 ∧ 60 ≤ k.delta then
    let idle := ((List.range 4).filter (fun i => decide ((s.core (4 * c + i)).issuedX ≠ cycle + 1))).length
    let array := if k.served = cycle + 1 then 0 else 1
    s.setCluster c { k with ballast := k.ballast + BitVec.ofNat 64 (idle + array) }
  else s

/-! ## The Inkwell (R383 to R387) -/

/-- E_r of the region of a grant, held on a cluster: its task's share of what the cluster has drawn, E_c × e_task / e_c, in whole
µJ. -/
def State.drawOf (s : State) (id cluster : Nat) : Nat :=
  s.meters.energy.get 0 cluster * s.meters.draws.get 0 id / s.meters.estimates.get 0 cluster

/-- The energy a region is allowed of a span: Min(E_r, Floor(lvl × τ)). -/
def State.allowed (s : State) (id cluster lvl ns : Nat) : Nat := min (s.drawOf id cluster) (lvl * ns / 1000)

/-- The draw outside regions, of the span from `from_` to `to_` (R384). -/
def State.outsideDraw (s : State) (from_ to_ : Nat) : Int :=
  let past := s.ink.past.foldl (fun n p => n + s.allowed p.1 p.2.1 p.2.2.1 p.2.2.2) 0
  let now := s.tasks.foldl (fun n e =>
    match e.2.region with
    | some r => n + s.allowed r.id (clusterOf e.2.core) r.lvl (r.within from_ to_)
    | none => n) 0
  (s.meters.tower : Int) - ((past + now : Nat) : Int)

/-- The four last draws exceed 1.03 × lvl on the mean. -/
def Region.exceeds (r : Region) : Bool :=
  decide (r.draws.length = 4) && decide (412 * r.lvl < 100 * r.draws.foldl (· + ·) 0)

/-- A region at a tick: a microsecond that lay wholly within its grant counts (R386). -/
def Region.tick (r : Region) (from_ to_ draw : Nat) (quiet : Bool) : Region :=
  if r.since ≤ from_ ∧ to_ ≤ r.start + 1000 * r.dur then
    let r := { r with draws := (draw :: r.draws).take 4 }
    { r with raised := r.raised || (r.exceeds && !quiet) }
  else r

/-- A monitor unit that records each microsecond (Table 16.5). -/
def State.measureTick (s : State) (e : Nat × Monitor) : Nat × Monitor :=
  let c := clusterOf (e.1 / 2)
  let v : Option Nat :=
    if e.2.sel = 5 then some (s.cluster c).power.toNat
    else if e.2.sel = 6 then some (s.cluster c).mhz
    else if e.2.sel = 7 then some (s.monTemp c).toNat
    else none
  match v with
  | some x => (e.1, { e.2 with pending := e.2.pending ++ [x] })
  | none => e

/-- INK_TICK: at every multiple of 1,000 ns. -/
def execInkTick (s : State) : Host.Outcome State Fault Refusal :=
  s.event (fun s => do
    let n := s.tsc / 1000
    await (decide (s.clocks.tick < n))
    let from_ := 1000 * s.clocks.tick
    let to_ := 1000 * n
    let k := s.ink
    let bal := min (k.bal + (k.rate : Int)) (k.cap : Int) - s.outsideDraw from_ to_
    let s := { s with
      clocks := { s.clocks with tick := n }
      ink := { k with bal := bal, past := [] }
      tasks := s.tasks.map (fun (e : Nat × Task) => (e.1, { e.2 with
        region := e.2.region.map (fun (r : Region) => r.tick from_ to_ (s.drawOf r.id (clusterOf e.2.core)) e.2.heldDraw.isSome) })) }
    let s := (List.range 48).foldl (fun s c =>
      s.setCluster c { s.cluster c with power := BitVec.ofNat 16 (min 65535 (s.meters.energy.get 0 c)) }) s
    .ok { s with monitors := s.monitors.map s.measureTick }.testParks)

/-- The share of a microsecond in which the region of a task has been in force and ends now (R384). -/
def State.share (s : State) (id : Nat) : List (Nat × Nat × Nat × Nat) :=
  match s.task? id with
  | some t => (t.region.map (fun r => s.regionShare t r)).toList
  | none => []

/-- INK_GRANT: the head of the order is granted when the balance covers its cost. -/
def execInkGrant (s : State) : Host.Outcome State Fault Refusal :=
  s.event (fun s => do
    let r ← need s.ink.order.head?
    await (decide ((r.lvl * r.dur : Nat) ≤ s.ink.bal))
    let region : Region :=
      { lvl := r.lvl, dur := r.dur, start := s.tsc, expired := false, id := s.ink.grants, since := s.tsc, draws := [], raised := false }
    let s := { s with ink := { s.ink with
      bal := s.ink.bal - (r.lvl * r.dur : Nat), order := s.ink.order.drop 1, grants := s.ink.grants + 1
      past := s.ink.past ++ s.share r.task
      granted := if r.auto then s.ink.granted else s.ink.granted ++ [r.task] } }
    .ok (s.onTask r.task (fun t => { t.endGrantWait with region := some region })).testParks)

/-- REGION_EXPIRY of task `arg.x`: the time of its region has ended, and a request of the same level and duration joins (R175). -/
def execRegionExpiry (s : State) : Host.Outcome State Fault Refusal :=
  s.event (fun s => do
    let (id, t) ← s.argTask
    let r ← need t.region
    await (!r.expired && decide (r.start + 1000 * r.dur ≤ s.tsc))
    .ok { s.setTask id { t with region := some { r with expired := true } } with
      ink := s.ink.request { task := id, lvl := r.lvl, dur := r.dur, auto := true } })

/-- OVERDRAW of task `arg.x`: the trap is held for the X stream, or for the A stream once X has ended. -/
def execOverdraw (s : State) : Host.Outcome State Fault Refusal :=
  s.event (fun s => do
    let (id, t) ← s.argTask
    let r ← need t.region
    await r.raised
    let st : Option Stream :=
      if t.sx.phase ≠ .ended then some .x
      else if t.sa.phase ≠ .ended ∨ t.sm.phase ≠ .ended then some .a
      else none
    .ok (s.setTask id { t with region := some { r with raised := false }, heldDraw := if st.isSome then st else t.heldDraw }))

/-! ## The words the service die shows (Table 16.1) -/

/-- The Baseline status word. -/
def State.showBaseline (s : State) : State :=
  let b := s.base
  let g := match b.group with
    | some g => (b.members.length + 1) * 2 ^ 32 + 2 ^ 31 + g
    | none => 0
  s.serviceWrite 0x10A118 8 (b.serial * 2 ^ 56 + b.result * 2 ^ 48 + g + (if b.silent then 2 ^ 30 else 0))

/-- The ceilings word. -/
def State.showCeilings (s : State) : State := s.serviceWrite 0x10A120 8 (s.base.own + s.base.governor * 65536)

/-- A change of the Baseline: the clocks follow, and the words show it. -/
def State.setBase (s : State) (b : Baseline) : State := { s with base := b }.reclock.showBaseline.showCeilings

/-! ## The governor (R388) -/

/-- The first multiple of 50,000 ns at or after a time. -/
def roundUp (t : Nat) : Nat := (t + 49999) / 50000 * 50000

/-- The ceiling the governor gives for the hottest temperature, in thousandths. -/
def governorCeil (theta : Int) : Nat := if theta ≤ 90000 then 1250 else max 400 (1250 - 25 * ((theta - 90000) / 1000).toNat)

/-- The hottest temperature among the clusters. -/
def State.theta (s : State) : Int := (List.range 48).foldl (fun m c => max m (s.hottest c)) (s.hottest 0)

/-- The own ceiling as it should be. -/
def Baseline.target (b : Baseline) : Nat := if b.requested = 0 then b.governor else min b.requested b.governor

/-- The towers a decision is announced to: the members, those of a group being joined, and those that are joining. -/
def Baseline.peers (b : Baseline) : List Nat := ((b.members ++ b.joining).map (·.1) ++ b.arriving.map (·.1)).eraseDups

/-- The node ids of the other members. -/
def Baseline.memberIds (b : Baseline) : List Nat := b.members.map (fun (e : Nat × Member) => e.1)

/-- A change of the own ceiling is decided and announced, unless one is pending (R388, R389). -/
def State.decideCeiling (s : State) : State :=
  let b := s.base
  if b.pending.isSome ∨ b.target = b.own then s
  else
    let at_ := roundUp (s.tsc + 200000)
    { s with base := { b with pending := some (b.target, at_) } }.sendAll b.peers (.announce s.node b.target at_)

/-- GOVERNOR_EVALUATION: every 100 µs. -/
def execGovernorEvaluation (s : State) : Host.Outcome State Fault Refusal :=
  s.event (fun s => do
    await (decide (s.clocks.governor < s.tsc / 100000))
    let s := { s with clocks := { s.clocks with governor := s.tsc / 100000 } }
    .ok ({ s with base := { s.base with governor := governorCeil s.theta } }.showCeilings.decideCeiling))

/-! ## Changes at their time (R388 to R390) -/

/-- CEILING_CHANGE: the changes whose time has come; a decision put off is made afresh. -/
def execCeilingChange (s : State) : Host.Outcome State Fault Refusal :=
  s.event (fun s => do
    await (decide (s.base.due s.tsc ≠ s.base))
    .ok (s.setBase (s.base.due s.tsc)).decideCeiling)

/-! ## Commands (R390) -/

/-- A command that has not been acted on: serial, command, group id; its zero fields are all zero. -/
def Baseline.fresh (b : Baseline) : Option (Nat × Nat × Nat × Bool) :=
  let w := b.command.toNat
  if bits w 32 8 = b.serial ∨ b.join.isSome ∨ b.leave.isSome then none
  else some (bits w 32 8, bits w 16 2, bits w 0 16, decide (bits w 40 24 = 0) && decide (bits w 18 14 = 0))

/-- The command ends with a result. -/
def State.endCommand (s : State) (serial result : Nat) : State :=
  { s with base := { s.base with serial := serial, result := result } }.showBaseline

/-- BASELINE_JOIN: the members of the group are asked; a member of any group gets result 2. -/
def execBaselineJoin (s : State) : Host.Outcome State Fault Refusal :=
  s.event (fun s => do
    let (serial, cmd, g, ok) ← need s.base.fresh
    await (ok && decide (cmd = 1))
    if s.base.group.isSome then .ok (s.endCommand serial 2)
    else
      .ok ({ s with base := { s.base with join := some (serial, g, s.tsc, none), joining := [] } }.sendAll [everyNode]
        (.joinAsk s.node g)))

/-- BASELINE_LEAVE: announced, to take effect at T; a tower of no group gets result 2. -/
def execBaselineLeave (s : State) : Host.Outcome State Fault Refusal :=
  s.event (fun s => do
    let (serial, cmd, _, ok) ← need s.base.fresh
    await (ok && decide (cmd = 2))
    if s.base.group.isNone then .ok (s.endCommand serial 2)
    else
      let at_ := roundUp (s.tsc + 200000)
      .ok ({ s with base := { s.base with leave := some (serial, at_) } }.sendAll s.base.peers (.leaving s.node at_)))

/-- BASELINE_COMMAND_MALFORMED: result 1. -/
def execBaselineCommandMalformed (s : State) : Host.Outcome State Fault Refusal :=
  s.event (fun s => do
    let (serial, cmd, _, ok) ← need s.base.fresh
    await (!ok || decide (cmd = 3))
    .ok (s.endCommand serial 1))

/-- The join is announced with its T_join, and the pending change of the joiner with it. -/
def State.announceJoin (s : State) (b : Baseline) (serial g asked at_ : Nat) : State :=
  { s with base := { b with join := some (serial, g, asked, some at_) } }.sendAll b.peers (.joining s.node b.own b.pending at_)

/-- BASELINE_JOIN_REPLY: message `arg.x` is the members' reply. -/
def execBaselineJoinReply (s : State) : Host.Outcome State Fault Refusal :=
  s.event (fun s => do
    match ← need s.fabIn[s.arg.x]? with
    | .joinReply ms come go =>
      let s := { s with fabIn := s.fabIn.eraseIdx s.arg.x }
      match s.base.join with
      | some (serial, g, asked, none) =>
        let js := ms.foldl (fun (js : SMap Member) m => js.put m.1 { ceil := m.2.1, pending := m.2.2, heard := s.tsc }) []
        let b := { s.base with joining := js, arriving := come.filter (fun e => decide (e.1 ≠ s.node)), leaving := go }
        .ok (s.announceJoin (b.due s.tsc) serial g asked (roundUp (s.tsc + 200000)))
      | _ => .ok s
    | _ => .error .hold)

/-- BASELINE_JOIN_TIMEOUT: no reply within 100 µs forms a group of one. -/
def execBaselineJoinTimeout (s : State) : Host.Outcome State Fault Refusal :=
  s.event (fun s => do
    match s.base.join with
    | some (serial, g, asked, none) => do
      await (decide (asked + 100000 ≤ s.tsc))
      .ok (s.announceJoin s.base serial g asked (roundUp (asked + 300000)))
    | _ => .error .hold)

/-! ## Announcements and heartbeats (R389, R391, R392) -/

/-- What was announced reaches this tower after its time: it applies on receipt, and a record names the sender. -/
def State.lateRecord (s : State) (node at_ : Nat) : State := if at_ < s.tsc then s.post (infoRecord s.tower 10 none (node % 65536) 0) else s

/-- A change of a member of the group, or of one being joined or joining. -/
def Baseline.onMember (b : Baseline) (n : Nat) (f : Member → Member) : Baseline :=
  { b with
    members := b.members.adjust n f, joining := b.joining.adjust n f
    arriving := b.arriving.map (fun e => if e.1 = n then (e.1, f e.2.1, e.2.2) else e) }

/-- The tower takes part in a group, or in one it is joining. -/
def Baseline.partOf (b : Baseline) : Bool := b.group.isSome || b.join.isSome

/-- This tower's reply to a join. -/
def State.joinReplyMessage (s : State) : FabMsg :=
  .joinReply ((s.node, s.base.own, s.base.pending) :: s.base.members.map (fun e => (e.1, e.2.ceil, e.2.pending))) s.base.arriving
    (s.base.leaving ++ (s.base.leave.map (fun l => (s.node, l.2))).toList)

/-- BASELINE_ANNOUNCEMENT: message `arg.x` is an announcement, or asks for the members. -/
def execBaselineAnnouncement (s : State) : Host.Outcome State Fault Refusal :=
  s.event (fun s => do
    let m ← need s.fabIn[s.arg.x]?
    let u := { s with fabIn := s.fabIn.eraseIdx s.arg.x }
    let b := s.base
    match m with
    | .announce n v at_ =>
      if !b.peers.contains n then .ok u
      else .ok ((u.setBase ((b.onMember n (fun m => { m with pending := some (v, at_) })).due s.tsc)).lateRecord n at_)
    | .joining n v p at_ =>
      if !b.partOf then .ok u
      else .ok ((u.setBase ({ b with arriving := b.arriving ++ [(n, ({ ceil := v, pending := p, heard := at_ } : Member), at_)] }.due
        s.tsc)).lateRecord n at_)
    | .leaving n at_ =>
      if !b.peers.contains n then .ok u
      else .ok ((u.setBase ({ b with leaving := b.leaving ++ [(n, at_)] }.due s.tsc)).lateRecord n at_)
    | .joinAsk n g => if b.group = some g then .ok (u.sendAll [n] s.joinReplyMessage) else .ok u
    | _ => .error .hold)

/-- HEARTBEAT_SEND: at every multiple of 50,000 ns. -/
def execHeartbeatSend (s : State) : Host.Outcome State Fault Refusal :=
  s.event (fun s => do
    let n := s.tsc / 50000
    await (s.base.group.isSome && decide (s.clocks.heartbeat < n))
    .ok ({ s with clocks := { s.clocks with heartbeat := n } }.sendAll (s.base.memberIds)
      (.heartbeat s.node (50000 * n) s.base.own s.base.pending)))

/-- A silent drop is in force while a member has not been heard for 175 µs. -/
def Baseline.quiet (b : Baseline) (tsc : Nat) : Bool :=
  b.group.isSome && List.any b.members (fun (e : Nat × Member) => decide (e.2.heard + 175000 < tsc))

/-- HEARTBEAT_RECEIVE: message `arg.x` is a member's heartbeat. -/
def execHeartbeatReceive (s : State) : Host.Outcome State Fault Refusal :=
  s.event (fun s => do
    match ← need s.fabIn[s.arg.x]? with
    | .heartbeat n stamp v p =>
      let u := { s with fabIn := s.fabIn.eraseIdx s.arg.x }
      match SMap.find? n s.base.members with
      | none => .ok u
      | some m =>
        if stamp < m.heard then .ok u
        else
          let b := (s.base.onMember n (fun _ => { ceil := v, pending := p, heard := stamp })).due s.tsc
          let u := u.setBase { b with silent := b.quiet s.tsc }
          match p with
          | some (_, at_) => .ok (u.lateRecord n at_)
          | none => .ok u
    | _ => .error .hold)

/-- SILENT_DROP: it begins, or ends. -/
def execSilentDrop (s : State) : Host.Outcome State Fault Refusal :=
  s.event (fun s => do
    await (decide (s.base.silent ≠ s.base.quiet s.tsc))
    .ok (s.setBase { s.base with silent := s.base.quiet s.tsc }))

/-- MEMBER_EXCLUSION of member `arg.x`, not heard for 2,000 µs. -/
def execMemberExclusion (s : State) : Host.Outcome State Fault Refusal :=
  s.event (fun s => do
    let n := s.arg.x
    let m ← need (SMap.find? n s.base.members)
    await (decide (m.heard + 2000000 ≤ s.tsc))
    let b := { s.base with
      members := s.base.members.del n, leaving := s.base.leaving.filter (fun e => decide (e.1 ≠ n)), excluded := s.base.excluded ++ [n] }
    .ok (s.setBase { b with silent := b.quiet s.tsc }))

end Sys2Proof.Machine
end

