-- ==== Sys2Proof/Machine/Proofing.lean ====
section
/-! DEFINITION. Proofing: the scan pattern of a core, its retry, its end and its abort (R373 to R375, R444). -/

namespace Sys2Proof.Machine

/-- The core's runnable tasks are placed, when it may be placed on. -/
def State.placeCore (s : State) (core : Nat) : State := if s.coreOpen core then s.placeAll core (s.placeable core) else s

/-- The register file of a core is all dead and its TLB empty; no task is resident on it. -/
def State.scrub (s : State) (core : Nat) : State :=
  { s with tlb := s.tlb.filter (fun e => decide (e.unit ≠ core)), walks := (s.walks.map (fun w => { w with units := w.units.filter (fun u => decide (u ≠ core)) })).filter (fun w => !w.units.isEmpty) }

/-- The record of a Proofing's end: 0 pass, 1 pass on the retry, 2 lasting failure, 3 aborted. -/
def proofRecord (tower core result : Nat) : Record := { infoRecord tower 7 none (core + 256 * result) 0 with transient := decide (result = 1) }

/-- The Proofing ends, in one step with the placement of the core's tasks (R444). -/
def State.endProofing (s : State) (core result : Nat) : State :=
  let failed :=
    if result = 2 then (if s.failedCores.contains core then s.failedCores else s.failedCores ++ [core])
    else if result = 3 then s.failedCores
    else s.failedCores.filter (fun c => decide (c ≠ core))
  ({ s with proofing := none, failedCores := failed }.postNow (proofRecord s.tower core result)).placeCore core

/-- PROOFING_PATTERN_START: the last resident task has left the core. -/
def execProofingPatternStart (s : State) : Host.Outcome State Fault Refusal :=
  s.event (fun s => do
    let p ← need s.proofing
    await (decide (p.phase = .pending) && !s.coreBusy p.core)
    .ok s.startPattern)

/-- A runnable task of priority 1 or higher aborts the Proofing of its core (R374). -/
def State.proofWanted (s : State) (p : Proofing) : Bool :=
  List.any s.tasks (fun (e : Nat × Task) =>
    decide (e.2.core = p.core) && decide (e.2.run = .runnable) && decide (1 ≤ e.2.prio) && !p.exempt.contains e.1)

/-- PROOFING_PATTERN_END: 200 µs have passed and nothing aborts the Proofing; `arg.y` = 1 when the signature agrees. -/
def execProofingPatternEnd (s : State) : Host.Outcome State Fault Refusal :=
  s.event (fun s => do
    let p ← need s.proofing
    await (s.serviceFree && decide (p.since + 200000 ≤ s.tsc) && decide (p.phase ≠ .aborting) && !s.proofWanted p)
    match p.phase, decide (s.arg.y = 1) with
    | .pattern, true => .ok ((s.scrub p.core).endProofing p.core 0)
    | .pattern, false => .ok { s with proofing := some { p with phase := .retry, since := s.tsc } }
    | .retry, true => .ok ((s.scrub p.core).endProofing p.core 1)
    | .retry, false => .ok ((s.scrub p.core).endProofing p.core 2)
    | _, _ => .error .hold)

/-- PROOFING_ABORT: a task of priority 1 or higher aborts the Proofing at once; within 5 µs of an abort, by it or by PROOF, the core is
scrubbed and available (R374). With `arg.x` = 1 the step waits until the 5 µs have passed. -/
def execProofingAbort (s : State) : Host.Outcome State Fault Refusal :=
  s.event (fun s => do
    let p ← need s.proofing
    if p.phase = .aborting then do
      await (s.serviceFree && (decide (s.arg.x ≠ 1) || decide (p.since + 5000 ≤ s.tsc)))
      .ok ((if p.begun then s.scrub p.core else s).endProofing p.core 3)
    else do
      await (s.proofWanted p)
      .ok { s with proofing := some { p with phase := .aborting, since := s.tsc } })

end Sys2Proof.Machine
end

