-- ==== Sys2Proof/Machine/Queues.lean ====
section
/-! DEFINITION. The actions of the Rubricator queues (R187, R188, R446). -/

namespace Sys2Proof.Machine

/-- The head of queue `arg.x`, whose waits hold and whose action is the one named. -/
def State.queueHead (s : State) (action : Nat) : Try (Nat × QEntry) := do
  let e ← need (s.queues.get [] s.arg.x).head?
  await (decide (e.action = action) && s.headHolds e)
  .ok (s.arg.x, e)

/-- The head leaves its queue, and the next entry is head. -/
def State.leaveQueue (s : State) (q : Nat) : State :=
  { s with queues := s.queues.set [] q ((s.queues.get [] q).drop 1) }.testQueues

/-- The record of an action that failed its checks. -/
def queueRecord (tower q : Nat) (e : QEntry) (cause : Cause) (serial : Nat) : Record :=
  { infoRecord tower 4 (some cause) (q + 16 * e.action) (dw e.image 3) with serial := serial % 2 ^ 32 }

/-- The action has started, or failed: the entry leaves. `old` is the state before it. -/
def State.startAction (old : State) (q : Nat) (e : QEntry) : Try State → Try State
  | .ok s => .ok (s.leaveQueue q)
  | .error (.trap c _) => .ok ((old.leaveQueue q).post (queueRecord old.tower q e c 0))
  | r => r

/-- QUEUE_LAUNCH_ACTION: the entry is armed as LGO arms it, without the test of armable. -/
def execQueueLaunchAction (s : State) : Host.Outcome State Fault Refusal :=
  s.event (fun s => do
    let (q, e) ← s.queueHead 0
    await (!s.armingsFull && s.serviceFree)
    let r := s.arm (dw e.image 3 % 4096) false (.queue q)
    if r.1 then .ok (r.2.leaveQueue q) else .ok ((r.2.leaveQueue q).post (queueRecord s.tower q e .access r.2.nextArming)))

/-- The copy a COPY entry describes (R151): both images are read physically. -/
def State.queueCopy (s : State) (q : Nat) (e : QEntry) : Try State := do
  let s := { s with cur := .rub }
  let dst ← s.dieRead (rubIdent s.tower) (dw e.image 3) 64
  let src ← s.dieRead (rubIdent s.tower) (dw e.image 4) 64
  let gd := glyphOf (dwords 8 dst)
  let gs := glyphOf (dwords 8 src)
  let h := e.image.getD 6 0
  let wash := decide (bits (dw e.image 0) 24 1 = 1)
  let r ← boxChecks gd gs (e.image.getD 5 0) 0 0
    (if handleOk h && decide (handleNode h = s.node) then .ok h else raise .barrierMisuse) wash false
  .ok (s.issueCopy { s.newCopy .box (dwords 8 dst) (dwords 8 src) 0 0 r.1 0 0 r.2 wash false (r.1.foldl (· * ·) 1) (typeBits gd.ty) with
    issuer := .queue q, pc := 0 })

/-- QUEUE_COPY_ACTION: the copy is issued to a Scribe as CPY issues it. -/
def execQueueCopyAction (s : State) : Host.Outcome State Fault Refusal :=
  s.event (fun s => do
    let (q, e) ← s.queueHead 1
    State.startAction s q e (s.queueCopy q e))

/-- The semaphore operation of a kind of Table 7.7, as `semValue` codes it. -/
def queueSemOp (kind : Nat) : Nat := if kind = 0 then 0 else kind + 1

/-- QUEUE_SEM_ACTION: SADD, SMAX or SXCH. -/
def execQueueSemAction (s : State) : Host.Outcome State Fault Refusal :=
  s.event (fun s => do
    let (q, e) ← s.queueHead 2
    let n := bits (dw e.image 3) 0 12
    State.startAction s q e (do
      s.semAllowed n (rubIdent s.tower)
      .ok ((s.releaseSem (.queue q) n 3).setSem n (semValue (queueSemOp (bits (dw e.image 3) 12 2)) (s.sem n) 0 (e.image.getD 4 0)))))

/-- QUEUE_HIRQ_ACTION: the host interrupt is raised. -/
def execQueueHirqAction (s : State) : Host.Outcome State Fault Refusal :=
  s.event (fun s => do
    let (q, e) ← s.queueHead 3
    .ok (((s.releaseHost (.queue q)).raiseVector (dw e.image 3 % 64)).leaveQueue q))

end Sys2Proof.Machine
end

