-- ==== Sys2Proof/Machine/Sample.lean ====
section
/-! DEFINITION. The monitor units and PC sampling (R191, R394, R395). -/

namespace Sys2Proof.Machine

/-- The bin of a value: the largest from 1 to 15 whose edge is at most the value, or bin 0. -/
def Monitor.bin (m : Monitor) (v : Nat) : Nat :=
  ((List.range 15).map (· + 1)).foldl (fun b i => if m.edge i ≤ v then i else b) 0

/-- One value recorded. -/
def Monitor.record (m : Monitor) (x : Nat) : Monitor :=
  let v := Nat.min x (2 ^ 32 - 1)
  let b := m.bin v
  { m with
    count := m.count + 1, min := BitVec.ofNat 32 (Nat.min m.min.toNat v), max := BitVec.ofNat 32 (Nat.max m.max.toNat v)
    bins := m.bins.set 0 b (BitVec.ofNat 32 (Nat.min ((m.bins.get 0 b).toNat + 1) (2 ^ 32 - 1))) }

/-- MONITOR_RECORD: unit `arg.x` mod 2 of core `arg.x` div 2 records the oldest value measured for it. -/
def execMonitorRecord (s : State) : Host.Outcome State Fault Refusal :=
  s.event (fun s => do
    let core := s.arg.x / 2
    let u := s.arg.x % 2
    let m := s.monitor core u
    let v ← need m.pending.head?
    .ok (s.setMonitor core u ({ m with pending := m.pending.drop 1 }.record v)))

/-- The stream that sample `k` records: the next that has not ended. -/
def Task.sampled (t : Task) (k : Nat) : Option Stream :=
  ([0, 1, 2].map (fun i => streamOf ((k + i) % 3))).find? (fun st => decide ((t.stream st).phase ≠ .ended))

/-- The stream has no word that could issue now. -/
def State.stallsNow (s : State) (id : Nat) (t : Task) (st : Stream) : Bool :=
  !t.mayIssue st || t.region.any (·.expired) ||
    (match st with
      | .a => t.wait.isSome
      | .x => match s.xFetched id t with
        | .ok bs => !t.operandsReady (bytesWord bs)
        | .error _ => true
      | .m => t.leaseWait.isSome)

/-- A sample record (Table 16.6). -/
def State.sampleRecord (s : State) (id : Nat) (t : Task) (st : Stream) : List Byte :=
  let k := s.cluster (clusterOf t.core)
  leBytes 8 s.tsc ++
    leBytes 8 ((t.stream st).pc.toNat + st.code * 2 ^ 50 + (if s.stallsNow id t st then 2 ^ 52 else 0)) ++
    leBytes 8 (t.ident s.tower) ++ leBytes 8 (k.power.toNat + k.mhz * 2 ^ 16 + s.base.ceil * 2 ^ 32)

/-- PC_SAMPLE of task `arg.x`: once per interval; a full buffer, the end of every stream, or a write that cannot be made stops the
sampling. -/
def execPcSample (s : State) : Host.Outcome State Fault Refusal :=
  s.event (fun s => do
    let (id, t) ← s.argTask
    let m ← need t.sampling
    let p := s.cyc t.core
    await (t.isResident && decide (m.nextAt ≤ p))
    if t.run ≠ .running then
      .ok (s.setTask id { t with sampling := some { m with nextAt := m.nextAt + m.interval * ((p - m.nextAt) / m.interval + 1) } })
    else
    match t.sampled m.written with
    | none => .ok (s.setTask id { t with sampling := none })
    | some st =>
      let v := { s with cur := .task id .a }.aEngine
      match s.viewWrite v (m.buf.toNat + 32 * m.written) (s.sampleRecord id t st) with
      | .error (.miss u a va) => .error (.miss u a va)
      | .error .hold => .error .hold
      | .error _ => .ok (s.setTask id { t with sampling := none })
      | .ok u =>
        let n := { m with written := m.written + 1, nextAt := m.nextAt + m.interval }
        .ok (u.setTask id { t with sampling := if n.written = n.capacity then none else some n }))

end Sys2Proof.Machine
end

