-- ==== Sys2Proof/Machine/Service.lean ====
section
/-! DEFINITION. The service die's reading of its control words in the service area, every 10 µs (R382, R396, R416). -/

namespace Sys2Proof.Machine

/-- A word that breaks its ranges is ignored whole; a record says so once for each value. -/
def State.refuseWord (s : State) (off : Nat) (w : Word) : State :=
  if SMap.find? off s.badWords = some w then s
  else { s with badWords := SMap.put off w s.badWords }.post (infoRecord s.tower 10 none off 0)

/-- Read a word: where it keeps its ranges it takes effect. -/
def State.takeWord (s : State) (off : Nat) (ok : Nat → Bool) (f : State → Nat → State) : State :=
  match s.serviceWord off with
  | none => s
  | some w => if ok w.toNat then f { s with badWords := SMap.del off s.badWords } w.toNat else s.refuseWord off w

/-! ## The power block (Table 16.1) -/

/-- Requests that the capacity no longer covers leave the order; those it covers again join the back (R385). -/
def Ink.fit (k : Ink) : Ink :=
  let covered (r : InkReq) := decide (r.lvl * r.dur ≤ k.cap)
  { k with
    order := k.order.filter covered ++ k.outside.filter covered
    outside := k.outside.filter (fun r => !covered r) ++ k.order.filter (fun r => !covered r) }

def inkOk (w : Nat) : Bool :=
  decide (bits w 48 15 = 0) && (decide (bits w 63 1 = 0) || (decide (1 ≤ bits w 16 32) && decide (1 ≤ bits w 0 16)))

def State.takeInk (s : State) (w : Nat) : State :=
  let on := bits w 63 1 = 1
  { s with ink := Ink.fit { s.ink with rate := if on then bits w 0 16 else 1200, cap := if on then bits w 16 32 else 120000 } }

def requestedOk (w : Nat) : Bool := decide (w = 0) || (decide (400 ≤ w) && decide (w ≤ 1250) && decide (w % 25 = 0))

def State.takeRequested (s : State) (w : Nat) : State := { s with base := { s.base with requested := w } }

/-- The command word is always read; a command of 0 with a new serial ends at once (R390). -/
def State.takeCommand (s : State) (w : Nat) : State :=
  let s := { s with base := { s.base with command := BitVec.ofNat 64 w } }
  match s.base.fresh with
  | some (serial, 0, _, true) => s.endCommand serial 0
  | _ => s

/-! ## Folio, Blotter and wash words (Table 17.1) -/

def folioOk (w : Nat) : Bool := decide (bits w 57 6 = 0) && decide (bits w 0 26 = 0)

/-- The header array must lie within this tower's T levels or LPDDR6. -/
def State.takeFolio (s : State) (w : Nat) : State :=
  let b := bits w 26 31 * 2 ^ 26
  { s with folio := { s.folio with
    base := if decide (bits w 63 1 = 1) && s.ownStore b (2 ^ 26) then some b else none } }

def headOk (w : Nat) : Bool := decide (bits w 20 43 = 0)

def blotterOk (w : Nat) : Bool :=
  decide (bits w 13 50 = 0) && (decide (bits w 63 1 = 0) || (decide (1 ≤ bits w 0 13) && decide (bits w 0 13 ≤ 4096)))

def State.takeBlotter (s : State) (w : Nat) : State :=
  { s with folio := { s.folio with enable := decide (bits w 63 1 = 1), rate := max 1 (bits w 0 13) } }

def requestOk (w : Nat) : Bool := decide (bits w 23 38 = 0)

/-- A migration request is taken up when none is under way (R408). -/
def State.takeRequest (s : State) (w : Nat) : State :=
  if decide (bits w 63 1 = 1) && s.folio.request.isNone && s.folio.migrating.isNone then
    { s with folio := { s.folio with request := some (BitVec.ofNat 64 w) } }
  else s

def tablesOk (w : Nat) : Bool := decide (bits w 57 6 = 0) && decide (bits w 0 16 = 0)

/-- The code tables must lie within this tower's T levels or LPDDR6. -/
def State.takeTables (s : State) (w : Nat) : State :=
  let b := bits w 16 41 * 65536
  { s with folio := { s.folio with
    tables := if decide (bits w 63 1 = 1) && s.ownStore b 65536 then some (s.place b).key else none } }

def detectOk (w : Nat) : Bool := decide (bits w 2 62 = 0)

def State.takeDetect (s : State) (w : Nat) : State :=
  { s with folio := { s.folio with detectZero := decide (bits w 0 1 = 1), detectRepeat := decide (bits w 1 1 = 1) } }

/-! ## The fabric word (Table 18.4) -/

def State.fabricOk (s : State) (w : Nat) : Bool :=
  decide (bits w 52 10 = 0) && decide (bits w 16 24 = 0) && (decide (bits w 63 1 = 0) || decide (bits w 0 1 = s.tower))

/-- A changed fabric word: the ports train once it is valid, and a tower marked as time master acts as one. -/
def State.takeFabric (s : State) (w : Nat) : State :=
  if BitVec.ofNat 64 w = s.fabric.word then s
  else
    let f := { s.fabric with word := BitVec.ofNat 64 w, washWanted := BitVec.ofNat 12 (bits w 40 12) }
    if bits w 63 1 = 0 then
      { s with fabric := { f with valid := false, master := false, acting := false, node := 0, up := 0, wash := 0, training := 0,
                                  links := [] } }.showFabric
    else
      let master := decide (bits w 62 1 = 1)
      { s with fabric := { f with
        valid := true, node := BitVec.ofNat 16 (bits w 0 16), master := master
        acting := if f.master then f.acting && master else master
        synced := f.synced || (master && !f.master)
        training := if f.valid then f.training else 0xFFF#12 } }.showFabric

/-! ## The routes (Table 18.4) -/

def routeOk (w : Nat) : Bool := decide (bits w 13 18 = 0) && decide (bits w 4 4 = 0)

/-- A route word comes into force; one whose port exceeds 11 is invalid. -/
def State.takeRoute (s : State) (i w : Nat) : State :=
  let ok := decide (bits w 31 1 = 1) && decide (bits w 0 4 ≤ 11) && (decide (bits w 12 1 = 0) || decide (bits w 8 4 ≤ 11))
  { s with fabric := { s.fabric with
    routes := if ok then s.fabric.routes.put i (BitVec.ofNat 32 w) else s.fabric.routes.del i } }

/-- Read the route word of node `i`. -/
def State.readRoute (s : State) (i : Nat) : State :=
  match s.serviceBytes (0x120000 + 4 * i) 4 with
  | none => s
  | some bs =>
    let off := 0x120000 + 4 * i
    if routeOk (leNat bs) then { s with badWords := SMap.del off s.badWords }.takeRoute i (leNat bs)
    else s.refuseWord off (BitVec.ofNat 64 (leNat bs))

/-- The nodes whose route words may be set: those that memory lists a byte or a stored mode for. -/
def State.routeNodes (s : State) : List Nat :=
  let k := s.keyOf (s.ctl.asbase.toNat + 0x120000)
  let inside (a : Nat) : Bool := decide (k ≤ a) && decide (a < k + 0x40000)
  s.mem.foldl (fun ns c => if inside c.1 then insertNat ((c.1 - k) / 4) ns else ns) [] ++
    s.washed.flatMap (fun e => if inside (512 * e.1) then (List.range 128).map ((512 * e.1 - k) / 4 + ·) else [])

/-- Read every route word that is set, is in force or was out of range. -/
def State.readRoutes (s : State) : State :=
  let ns := s.routeNodes ++ s.fabric.routes.map (·.1) ++
    s.badWords.flatMap (fun e => if 0x120000 ≤ e.1 then [(e.1 - 0x120000) / 4] else [])
  ns.foldl State.readRoute s

/-! ## The read -/

/-- Every word is read in the order of its offset. -/
def State.readWords (s : State) : State :=
  let s := s.takeWord 0x10A100 inkOk State.takeInk
  let s := s.takeWord 0x10A108 requestedOk State.takeRequested
  let s := s.takeWord 0x10A110 (fun _ => true) State.takeCommand
  let s := s.takeWord 0x10A200 folioOk State.takeFolio
  let s := [0, 1, 2, 3, 4].foldl (fun s x => s.takeWord (0x10A208 + 8 * x) headOk (fun s w => s.takeHead x w)) s
  let s := s.takeWord 0x10A230 blotterOk State.takeBlotter
  let s := s.takeWord 0x10A240 requestOk State.takeRequest
  let s := s.takeWord 0x10A250 tablesOk State.takeTables
  let s := s.takeWord 0x10A258 detectOk State.takeDetect
  (s.takeWord 0x10A300 s.fabricOk State.takeFabric).readRoutes

/-- SERVICE_AREA_READ: every 10 µs; a changed requested ceiling is decided on. -/
def execServiceAreaRead (s : State) : Host.Outcome State Fault Refusal :=
  s.event (fun s => do
    await (s.serviceFree && decide (s.clocks.service < s.tsc / 10000))
    .ok { s with clocks := { s.clocks with service := s.tsc / 10000 } }.readWords.decideCeiling)

end Sys2Proof.Machine
end

