-- ==== Sys2Proof/Machine/Streams.lean ====
section
/-! DEFINITION. Stream registers: the binding and its checks (R157, R159, R399), and the fetch of a vector through its operator
chain (R158, R159, R286). -/

namespace Sys2Proof.Machine

/-! ## The descriptor (Table 6.10) -/

/-- A signed field of a descriptor word. -/
def sfield (v lo n : Nat) : Int := signed n (bits v lo n)

/-- Origin coordinate `j`: bits [24j+23:24j] of the 128-bit value. -/
def originOf (desc : List Word) (j : Nat) : Int := sfield (dw desc 0 + dw desc 1 * 2 ^ 64) (24 * j) 24

/-- Loop `j`: its axis and step. -/
def loopAxis (desc : List Word) (j : Nat) : Nat := bits (dw desc (2 + j)) 56 3
def loopStep (desc : List Word) (j : Nat) : Int := sfield (dw desc (2 + j)) 32 24

/-- Operator `h`: code and parameter. -/
def opCode (desc : List Word) (h : Nat) : Nat := bits (dw desc 7) (16 * h) 4
def opParam (desc : List Word) (h : Nat) : Nat := bits (dw desc 7) (16 * h + 4) 12

/-- The operators of the chain, in order. -/
def chainOf (desc : List Word) : List (Nat × Nat) :=
  ((List.range 4).map (fun h => (opCode desc h, opParam desc h))).takeWhile (fun o => o.1 ≠ 0)

/-- The chain holds an operator. -/
def holdsOp (desc : List Word) (code : Nat) : Bool := (chainOf desc).any (fun o => o.1 = code)

/-- The parameter of an operator of the chain. -/
def opOf (desc : List Word) (code : Nat) : Option Nat := ((chainOf desc).find? (fun o => o.1 = code)).map (·.2)

/-- Vectors in all (R157). -/
def vectorsOf (desc : List Word) : Nat := loopCount desc 0 * loopCount desc 1 * loopCount desc 2 * loopCount desc 3

/-- Zero fields and ranges of the descriptor. -/
def descFields (d : List Word) : Bool :=
  decide (bits (dw d 1) 56 8 = 0) &&
  [0, 1, 2, 3].all (fun j => decide (bits (dw d (2 + j)) 59 5 = 0) && decide (loopAxis d j ≤ 4)) &&
  decide (bits (dw d 6) 44 20 = 0) && decide (bits (dw d 6) 37 3 = 0) && decide (bits (dw d 6) 11 1 = 0) &&
  decide (bits (dw d 6) 3 1 = 0) && decide (bits (dw d 6) 8 3 ≤ 4) && decide (bits (dw d 6) 0 3 ≤ 4) &&
  decide (bits (dw d 6) 4 4 ≤ 9)

/-- The place of an operator in the shapes of R159: gather stands first, and alone of unwash and entropy decode. -/
def opRank (code : Nat) : Nat := if code = 5 then 0 else code

/-- A chain of one of the two shapes, with legal parameters; after code 0 every slot is 0. -/
def chainShape (d : List Word) : Bool :=
  let c := chainOf d
  ((List.range 4).drop c.length).all (fun h => decide (bits (dw d 7) (16 * h) 16 = 0)) &&
  c.all (fun o => decide (o.1 ≤ 6) &&
    (if o.1 = 4 then true else if o.1 = 6 then decide (1 ≤ o.2) && decide (o.2 ≤ 5) else decide (o.2 = 0))) &&
  ((c.zip (c.drop 1)).all (fun p => decide (opRank p.1.1 < opRank p.2.1))) &&
  !(holdsOp d 5 && (holdsOp d 1 || holdsOp d 2))

/-- Strides that make a glyph contiguous (R159). -/
def Glyph.contiguous (g : Glyph) : Bool :=
  [1, 2, 3, 4].all (fun j =>
    decide (g.dim j = 1) || decide (8 * g.strides.getD (j - 1) 0 = (((g.dims.take j).foldl (· * ·) 1 * g.storeBits : Nat) : Int)))

/-- The checks of a binding (Tables 6.10 and 6.11): descriptor, data glyph, index glyph number and glyph. -/
def bindOk (d : List Word) (g : Glyph) (gd : Nat) (ix : Glyph) : Bool :=
  let ty := bits (dw d 6) 40 4
  let window := decide (bits (dw d 6) 36 1 = 1)
  let flat := holdsOp d 1 || holdsOp d 2
  descFields d && chainShape d && g.ok &&
  (if holdsOp d 5 then ix.ok && decide (ix.ty = 7) else decide (gd = 0)) &&
  (!holdsOp d 2 || (decide (g.entropy ≠ 0) && decide (g.entropy % 256 = 0))) &&
  (if holdsOp d 3 then decide (g.mx ≠ 0) && decide (ty = 11 ∨ ty = 12 ∨ ty = 13) else decide (ty = g.ty)) &&
  (!holdsOp d 4 || typeFloat ty) &&
  (match opOf d 6 with
    | some k => decide (vectorsOf d % 2 ^ k = 0)
    | none => true) &&
  (!flat || (!window && g.contiguous))

/-! ## SBIND and SDROP (R157) -/

/-- The entropy table of a binding, when its chain decodes (R399). -/
def State.entropyTable (s : State) (d : List Word) (g : Glyph) : Try (List Nat) :=
  if holdsOp d 2 then do
    let bs ← s.viewRead s.aEngine g.entropy 256
    let lens := bs.map (·.toNat)
    require (tableValid lens) .glyphInvalid
    .ok lens
  else .ok []

/-- A binding of a task is no more: the records of its faults concern nothing (R363). -/
def State.endBinding (s : State) (id n : Nat) : State := s.endSources (fun x => decide (x = .binding id n))

/-- The words a SBIND reads: the descriptor, the data glyph and, where the chain gathers, the index glyph; their checks come in the order of
R136 together. -/
def State.bindWords (s : State) (va gs gd : Nat) : Try (List Word × List Word × List Word) :=
  match s.viewRead s.aEngine va 64 with
  | .error e => do
    together [.error e, checked (s.glyphWords gs)]
    .error e
  | .ok bs => do
    let d := dwords 8 bs
    let gathers := holdsOp d 5
    together (checked (s.glyphWords gs) :: (if gathers then [checked (s.glyphWords gd)] else []))
    let data ← s.glyphWords gs
    let index ← if gathers then s.glyphWords gd else .ok []
    .ok (d, data, index)

def execSbind (w : AC) (s : State) : Host.Outcome State Fault Refusal :=
  s.taskWord [w.a] (fun s id t => do
    t.notInHandler
    let va := (s.reg w.a).toNat
    if va % 64 ≠ 0 then .error (.trap .misaligned va)
    else do
      let (d, data, index) ← s.bindWords va w.gs.toNat w.gd.toNat
      require (bindOk d (glyphOf data) w.gd.toNat (glyphOf index)) .glyphInvalid
      let table ← s.entropyTable d (glyphOf data)
      let b : Binding :=
        { glyph := w.gs.toNat, data := data, index := index, desc := d, table := table, pc := s.pc, pos := 0, buf := [], bitPos := 0, elems := [], stopped := false, poison := none }
      .ok (((s.endBinding id w.opt.toNat).setTask id { t with binds := t.binds.put w.opt.toNat b }).ordered
        (fun o => o.clone (.engines id) (.binding id w.opt.toNat))).advance)

def execSdrop (w : AC) (s : State) : Host.Outcome State Fault Refusal :=
  s.taskWord [] (fun s id t => do
    t.notInHandler
    .ok (((s.endBinding id w.opt.toNat).setTask id { t with binds := t.binds.del w.opt.toNat }).ordered
      (fun o => o.forget (fun v => decide (v = Viewer.binding id w.opt.toNat)) (fun _ => false))).advance)

/-! ## One lane (R158, R159) -/

/-- The loop indexes of vector `k`. -/
def loopIndexes (d : List Word) (k : Nat) : List Nat :=
  let n0 := loopCount d 0
  let n1 := loopCount d 1
  let n2 := loopCount d 2
  [k % n0, k / n0 % n1, k / (n0 * n1) % n2, k / (n0 * n1 * n2)]

/-- Add to coordinate `j`. -/
def bump (c : List Int) (j : Nat) (v : Int) : List Int := c.modify j (· + v)

/-- The coordinates of lane `l` of vector `k`. -/
def laneCoords (d : List Word) (k l : Nat) : List Int :=
  let l0 := 2 ^ bits (dw d 6) 4 4
  let c := (List.range 5).map (originOf d)
  let c := bump c (bits (dw d 6) 0 3) ((l % l0 : Nat) : Int)
  let c := bump c (bits (dw d 6) 8 3) (((l / l0 : Nat) : Int) * sfield (dw d 6) 12 24)
  ((loopIndexes d k).zipIdx).foldl (fun c e => bump c (loopAxis d e.2) ((e.1 : Int) * loopStep d e.2)) c

/-- A lane as it leaves an operator: its pattern, its flags, and whether it is a pad. -/
structure Lane where
  val : Nat
  flags : Flags
  padded : Bool
  deriving DecidableEq, Repr

/-- A pad lane of a glyph. -/
def Glyph.padLane (g : Glyph) : Lane := { val := g.padValue, flags := 0, padded := true }

/-- In window mode a coordinate lies outside its dim. -/
def outside (g : Glyph) (c : List Int) : Bool :=
  (c.zipIdx).any (fun e => decide (e.1 < 0) || decide ((g.dim e.2 : Int) ≤ e.1))

/-- The MX scale of an element: 2^0 for a pad. -/
def State.laneScale (s : State) (v : View) (g : Glyph) (c : List Int) (padded : Bool) : Try Nat :=
  if padded then .ok 127
  else do
    let bs ← s.viewRead v (g.scaleAt c) 1
    .ok (leNat bs)

/-- A value times 2^p, rounded into the delivered type; both parts of a complex type. -/
def scaleLane (ty p : Nat) (x : Nat) : Nat × Flags :=
  let q := signed 12 p
  let one (v : Val) : Nat × Flags :=
    roundVal (fmtOf ty) 0 false (match v with
      | .fin e => .fin (e.shift q)
      | w => w)
  if ty = 14 ∨ ty = 15 then
    let n := typeBits ty / 2
    let a := one ((fmtOf ty).value (x % 2 ^ n))
    let b := one ((fmtOf ty).value (x / 2 ^ n))
    (a.1 + b.1 * 2 ^ n, a.2 ||| b.2)
  else one ((fmtOf ty).value x)

/-- The operators after the fetch: MX dequantise with the element's scale, then scale (Table 6.11). -/
def State.laneOps (s : State) (v : View) (b : Binding) (g : Glyph) (c : List Int) (x : Lane) : Try Lane := do
  let x ← if holdsOp b.desc 3 then do
      let e ← s.laneScale v g c x.padded
      let r := roundVal (fmtOf b.type) 0 false (mxValue ((fmtOf g.ty).value x.val) e)
      .ok { x with val := r.1, flags := x.flags ||| r.2 }
    else .ok x
  match opOf b.desc 4 with
  | some p =>
    let r := scaleLane b.type p x.val
    .ok { x with val := r.1, flags := x.flags ||| r.2 }
  | none => .ok x

/-- The element a lane is fetched from, by the pattern or through the index glyph. -/
def State.laneFetch (s : State) (v : View) (b : Binding) (k l : Nat) : Try Lane := do
  let g := glyphOf b.data
  let window := decide (bits (dw b.desc 6) 36 1 = 1)
  let c := laneCoords b.desc k l
  if holdsOp b.desc 5 then
    let ix := glyphOf b.index
    if window && outside ix c then s.laneOps v b g [] g.padLane
    else do
      let f ← s.readElem v ix (ix.offset c) 0
      if g.count ≤ f then s.laneOps v b g [] g.padLane
      else do
        let x ← s.readElem v g (g.flat f) 0
        s.laneOps v b g (intCoords (g.coordsOf f)) { val := x, flags := 0, padded := false }
  else if window && outside g c then s.laneOps v b g [] g.padLane
  else do
    let x ← s.readElem v g (g.offset c) 0
    s.laneOps v b g c { val := x, flags := 0, padded := false }

/-! ## Flat streams (R159, R399) -/

/-- Bit `i` of a stream of bytes from a virtual address. -/
def State.bitAt (s : State) (v : View) (base i : Nat) : Try Nat := do
  let bs ← s.viewRead v (base + i / 8) 1
  .ok (leNat bs / 2 ^ (i % 8) % 2)

/-- Decode `want` bytes from bit `i` on, reading no bit beyond the last: the bytes and the next bit; fewer bytes where a bit sequence
begins no code. -/
def State.decodeFrom (s : State) (v : View) (codes : List (Nat × Nat × Nat)) (base : Nat) :
    Nat → Nat → Nat → Nat → Nat → List Nat → Try (List Nat × Nat)
  | 0, i, _, _, _, acc => .ok (acc.reverse, i)
  | fuel + 1, i, len, code, want, acc =>
    if want = 0 then .ok (acc.reverse, i)
    else do
      let x ← s.bitAt v base i
      match codes.find? (fun c => c.1 = len + 1 && c.2.1 = 2 * code + x) with
      | some c => s.decodeFrom v codes base fuel (i + 1) 0 0 (want - 1) (c.2.2 :: acc)
      | none => if 12 ≤ len + 1 then .ok (acc.reverse, i) else s.decodeFrom v codes base fuel (i + 1) (len + 1) (2 * code + x) want acc

/-- Element `i` of bytes packed least significant bits first. -/
def packedElem (bits_ : Nat) (bs : List Nat) (i : Nat) : Nat :=
  if bits_ < 8 then bs.getD (i * bits_ / 8) 0 / 2 ^ (i * bits_ % 8) % 2 ^ bits_
  else (List.range (bits_ / 8)).foldr (fun j acc => acc * 256 + bs.getD (bits_ / 8 * i + j) 0) 0

/-- Every lane of a list in turn. -/
def State.eachLane (f : Nat → Try Lane) : List Nat → Try (List Lane)
  | [] => .ok []
  | l :: ls => do
    let x ← f l
    let xs ← State.eachLane f ls
    .ok (x :: xs)

/-- The vectors that are transposed together (Table 6.11): 1 where the chain holds no transpose. -/
def Binding.group (b : Binding) : Nat :=
  match opOf b.desc 6 with
  | some p => 2 ^ p
  | none => 1

/-- The first vector of a group of `n` that holds byte `m` of the group's decoded bytes or a later one, elements having `w` bits: after a
transpose it holds the elements of one place in `n` of each. -/
def failingVector (w n m : Nat) : Nat :=
  let e := m % (64 * w) * 8 / w
  if m / (64 * w) = n - 1 ∧ 512 - n ≤ e then e % n else 0

/-- A decoded element as it is delivered: a byte of FP6 storage holds its code in the low 6 bits, and is expanded (R54, R399). -/
def Glyph.decoded (g : Glyph) (x : Nat) : Nat := if g.memfmt = 0 then x else expandFp6 g.memfmt (x % 64)

/-- The next vectors of an entropy chain are decoded: one, or a group that is transposed together; `k` is the vector to be delivered. A
decode error poisons the vector that holds the failing byte and every later one; none where that is `k`. -/
def State.decodeGroup (s : State) (v : View) (b : Binding) (k : Nat) : Try (Option Binding) :=
  if holdsOp b.desc 2 && decide (k % b.group = 0) then do
    let g := glyphOf b.data
    let w := typeBits g.ty
    let want := 64 * w * b.group
    let r ← s.decodeFrom v (canonicalCodes b.table) g.base (12 * want + 1) b.bitPos 0 0 want []
    let u : Binding := { b with
      bitPos := r.2
      elems := (List.range b.group).map (fun j =>
        (List.range 512).map (fun i => g.decoded (packedElem w (r.1.drop (64 * w * j)) i))) }
    let bad := failingVector w b.group r.1.length
    if r.1.length = want then .ok (some u)
    else if bad = 0 then .ok none
    else .ok (some { u with poison := some (k + bad, .glyphInvalid) })
  else .ok (some b)

/-- Vector `k` before a transpose. -/
def State.vectorFetch (s : State) (v : View) (b : Binding) (k : Nat) : Try (List Lane) :=
  let g := glyphOf b.data
  let lanes := List.range 512
  if holdsOp b.desc 2 then
    let xs := b.elems.getD (k % b.group) []
    State.eachLane (fun l =>
      s.laneOps v b g (intCoords (g.coordsOf (512 * k + l))) { val := xs.getD l 0, flags := 0, padded := false }) lanes
  else if holdsOp b.desc 1 then
    State.eachLane (fun l => do
      let x ← s.readElem v g (g.flat (512 * k + l)) 0
      s.laneOps v b g (intCoords (g.coordsOf (512 * k + l))) { val := x, flags := 0, padded := false }) lanes
  else State.eachLane (s.laneFetch v b k) lanes

/-- Several vectors before a transpose. -/
def State.vectorsFetch (s : State) (v : View) (b : Binding) : List Nat → Try (List (List Lane))
  | [] => .ok []
  | k :: ks => do
    let x ← s.vectorFetch v b k
    let xs ← s.vectorsFetch v b ks
    .ok (x :: xs)

/-- A lane that no vector gives. -/
def Lane.zero : Lane := { val := 0, flags := 0, padded := false }

/-- The vector as it is delivered, through the transpose when the chain holds one (Table 6.11), and the binding after its decoding;
none for a decode error. -/
def State.deliverVector (s : State) (v : View) (b : Binding) (k : Nat) : Try (Option (List Lane × Binding)) := do
  match ← s.decodeGroup v b k with
  | none => .ok none
  | some b =>
    let n := b.group
    if n = 1 then
      let xs ← s.vectorFetch v b k
      .ok (some (xs, b))
    else
      let xs ← s.vectorsFetch v b ((List.range n).map (fun r => k / n * n + r))
      .ok (some ((List.range 512).map (fun l => (xs.getD (l % n) []).getD (l / n * n + k % n) Lane.zero), b))

/-- A vector with its flags and its pad flag (R159). -/
def vectorOf (xs : List Lane) : SVec :=
  { vals := xs.map (fun x => BitVec.ofNat 64 x.val), flags := xs.foldl (fun a x => a ||| x.flags) 0
    padded := xs.any (·.padded) }

/-! ## Bank conflicts (R286) -/

/-- The level and the physical bank of a sector of this tower. -/
def State.bankOf (s : State) (pa : Nat) : Option (Nat × Nat) :=
  match s.place pa with
  | .store t x o =>
    if t = s.tower ∧ x ≤ 3 then
      let l := s.level x
      let j := l.bankOf (o - levelBase x)
      some (x, (SMap.find? j l.live).getD j)
    else none
  | _ => none

/-- Cut a list into groups of 16. -/
def groups16 {α : Type} : Nat → List α → List (List α)
  | 0, _ => []
  | n + 1, xs => if xs.isEmpty then [] else xs.take 16 :: groups16 n (xs.drop 16)

/-- The sectors of a group that another sector of the same bank delays, at level `x`. -/
def delayed (x : Nat) (bs : List (Nat × Nat)) : Nat :=
  let here := (bs.filter (fun b => b.1 = x)).map (·.2)
  here.length - (distinct here).length

/-- Count the conflicts of the sectors that a core issues, its A stream's and its stream-register engines' together, 16 to the cycle
(R286): what one cycle cannot take goes into the next. -/
def State.countConflicts (s : State) (core : Nat) (pas : List Nat) : State :=
  let k := s.core core
  let p := s.cyc core
  let before := if k.sectors.1 < p then [] else k.sectors.2
  let qs := before ++ distinct (pas.map (· / 32))
  let gs := groups16 qs.length qs
  let banks (g : List Nat) := g.filterMap (fun q => s.bankOf (32 * q))
  let s := s.setCore core { k with sectors := (max k.sectors.1 p + (gs.length - 1), gs.getLastD []) }
  [0, 1, 2, 3].foldl (fun s x =>
    let n := (gs.map (fun g => delayed x (banks g))).foldl (· + ·) 0 - delayed x (banks before)
    if n = 0 then s
    else { s with conflicts := s.conflicts.set 0 (4 * core + x) (s.conflicts.get 0 (4 * core + x) + BitVec.ofNat 64 n) }) s

/-- The physical address of the MX scale of an element that is dequantised. -/
def State.scaleAddrs (s : State) (v : View) (b : Binding) (c : List Int) : List Nat :=
  if holdsOp b.desc 3 then
    match s.range v .read ((glyphOf b.data).scaleAt c) 1 with
    | .ok ps => ps.map (·.1)
    | .error _ => []
  else []

/-- The physical addresses that a fetch of vector `k` reads: the elements', those of their indexes, or the decoded bytes', and those of the
MX scales; `b` is the binding before the fetch and `b'` the one after it. -/
def State.vectorAddrs (s : State) (v : View) (b b' : Binding) (k : Nat) : List Nat :=
  let g := glyphOf b.data
  let ix := glyphOf b.index
  let window := decide (bits (dw b.desc 6) 36 1 = 1)
  let lanes := List.range 512
  let inside (h : Glyph) := lanes.filter (fun l => !(window && outside h (laneCoords b.desc k l)))
  let scale (f : Nat) := s.scaleAddrs v b (intCoords (g.coordsOf f))
  if holdsOp b.desc 2 then
    (List.range (ceilDiv b'.bitPos 8 - b.bitPos / 8)).flatMap (fun i => s.elemAddrs v g (8 * ((b.bitPos / 8 + i : Nat) : Int))) ++
      lanes.flatMap (fun l => scale (512 * k + l))
  else if holdsOp b.desc 1 then lanes.flatMap (fun l => s.elemAddrs v g (g.flat (512 * k + l)) ++ scale (512 * k + l))
  else if holdsOp b.desc 5 then
    (inside ix).flatMap (fun l =>
      let off := ix.offset (laneCoords b.desc k l)
      s.elemAddrs v ix off ++
        (match s.readElem v ix off 0 with
          | .ok f => if g.count ≤ f then [] else s.elemAddrs v g (g.flat f) ++ scale f
          | .error _ => []))
  else (inside g).flatMap (fun l => s.elemAddrs v g (g.offset (laneCoords b.desc k l)) ++ s.scaleAddrs v b (laneCoords b.desc k l))

/-! ## The fetch (R158) -/

/-- The view of a stream-register engine of a task: it sees what was visible at the SBIND (R322). -/
def State.streamView (s : State) (id : Nat) (t : Task) (n : Nat) : View :=
  { unit := t.core, asid := some t.asid, ident := coreIdent s.tower t.core 0 2, reach := .engine, astream := false,
    who := some (.binding id n), grain := 8 }

/-- The record of a fetch fault (R158, R446). -/
def State.bindRecord (s : State) (id : Nat) (t : Task) (n : Nat) (b : Binding) (k : Nat) (cause : Cause) (va : Nat) : Record :=
  { src := .binding id n, cause := some cause, kind := 2, info := false, nested := false, path := false, transient := false, stream := 0,
    taskId := t.ident s.tower, pc := b.pc.toNat, va := va, ident := (coreIdent s.tower t.core 0 2).toNat, detail := n,
    serial := t.arming % 2 ^ 32, second := k }

/-- Stream register `arg.y` of task `arg.x` fetches its next vector (R158): up to 4 are buffered (R26). -/
def execStreamVectorFetch (s : State) : Host.Outcome State Fault Refusal :=
  s.event (fun s => do
    let id := s.arg.x
    let n := s.arg.y
    let t ← need (s.task? id)
    let b ← need (SMap.find? n t.binds)
    let k := b.pos + b.buf.length
    await (t.isResident && !b.stopped && decide (b.buf.length < 4) && decide (k < b.total) &&
      (match b.poison with | some p => decide (k < p.1) | none => true))
    let v := s.streamView id t n
    match s.deliverVector v b k with
    | .ok (some (xs, b')) =>
      .ok (((s.setTask id { t with binds := t.binds.put n { b' with buf := b.buf ++ [vectorOf xs] } }).countConflicts t.core
        (s.vectorAddrs v b b' k)).measure t.core 3 0)
    | .ok none => .ok (s.setTask id { t with binds := t.binds.put n { b with poison := some (k, .glyphInvalid) } })
    | .error (.trap cause va) =>
      .ok (((if va = 0 then s else s.dropFailed va).setTask id { t with binds := t.binds.put n { b with stopped := true } }).post
        (s.bindRecord id t n b k cause va))
    | .error e => .error e)

end Sys2Proof.Machine
end

