-- ==== Sys2Proof/Machine/Dispatch.lean ====
section
/-! DEFINITION. Which meaning each instruction has: one direct call per constructor. -/

namespace Sys2Proof.Machine

def exec (i : Instr) (s : State) : Host.Outcome State Fault Refusal :=
  match i with
  | .add w => Sys2Proof.Machine.execAdd w s
  | .sub w => Sys2Proof.Machine.execSub w s
  | .addi w => Sys2Proof.Machine.execAddi w s
  | .mul w => Sys2Proof.Machine.execMul w s
  | .mulh w => Sys2Proof.Machine.execMulh w s
  | .mulhn w => Sys2Proof.Machine.execMulhn w s
  | .div w => Sys2Proof.Machine.execDiv w s
  | .divn w => Sys2Proof.Machine.execDivn w s
  | .rem w => Sys2Proof.Machine.execRem w s
  | .remn w => Sys2Proof.Machine.execRemn w s
  | .and w => Sys2Proof.Machine.execAnd w s
  | .or w => Sys2Proof.Machine.execOr w s
  | .xor w => Sys2Proof.Machine.execXor w s
  | .andn w => Sys2Proof.Machine.execAndn w s
  | .shl w => Sys2Proof.Machine.execShl w s
  | .shr w => Sys2Proof.Machine.execShr w s
  | .sra w => Sys2Proof.Machine.execSra w s
  | .rol w => Sys2Proof.Machine.execRol w s
  | .ror w => Sys2Proof.Machine.execRor w s
  | .clz w => Sys2Proof.Machine.execClz w s
  | .ctz w => Sys2Proof.Machine.execCtz w s
  | .popc w => Sys2Proof.Machine.execPopc w s
  | .min w => Sys2Proof.Machine.execMin w s
  | .max w => Sys2Proof.Machine.execMax w s
  | .minn w => Sys2Proof.Machine.execMinn w s
  | .maxn w => Sys2Proof.Machine.execMaxn w s
  | .sel w => Sys2Proof.Machine.execSel w s
  | .slt w => Sys2Proof.Machine.execSlt w s
  | .sltn w => Sys2Proof.Machine.execSltn w s
  | .seq w => Sys2Proof.Machine.execSeq w s
  | .li w => Sys2Proof.Machine.execLi w s
  | .bfx w => Sys2Proof.Machine.execBfx w s
  | .bfi w => Sys2Proof.Machine.execBfi w s
  | .adds w => Sys2Proof.Machine.execAdds w s
  | .b w => Sys2Proof.Machine.execB w s
  | .j w => Sys2Proof.Machine.execJ w s
  | .jal w => Sys2Proof.Machine.execJal w s
  | .jr w => Sys2Proof.Machine.execJr w s
  | .bqp w => Sys2Proof.Machine.execBqp w s
  | .fin w => Sys2Proof.Machine.execFin w s
  | .nop w => Sys2Proof.Machine.execNop w s
  | .ld w => Sys2Proof.Machine.execLd w s
  | .st w => Sys2Proof.Machine.execSt w s
  | .lds w => Sys2Proof.Machine.execLds w s
  | .sts w => Sys2Proof.Machine.execSts w s
  | .ldx w => Sys2Proof.Machine.execLdx w s
  | .stx w => Sys2Proof.Machine.execStx w s
  | .gath w => Sys2Proof.Machine.execGath w s
  | .scat w => Sys2Proof.Machine.execScat w s
  | .pref w => Sys2Proof.Machine.execPref w s
  | .fence w => Sys2Proof.Machine.execFence w s
  | .cpy w => Sys2Proof.Machine.execCpy w s
  | .cpyvIn w => Sys2Proof.Machine.execCpyvIn w s
  | .cpyvOut w => Sys2Proof.Machine.execCpyvOut w s
  | .cpyb w => Sys2Proof.Machine.execCpyb w s
  | .cpyx w => Sys2Proof.Machine.execCpyx w s
  | .sbind w => Sys2Proof.Machine.execSbind w s
  | .sdrop w => Sys2Proof.Machine.execSdrop w s
  | .gdef w => Sys2Proof.Machine.execGdef w s
  | .gset w => Sys2Proof.Machine.execGset w s
  | .gget w => Sys2Proof.Machine.execGget w s
  | .falloc w => Sys2Proof.Machine.execFalloc w s
  | .faddref w => Sys2Proof.Machine.execFaddref w s
  | .fdrop w => Sys2Proof.Machine.execFdrop w s
  | .pseal w => Sys2Proof.Machine.execPseal w s
  | .bxp w => Sys2Proof.Machine.execBxp w s
  | .barv w => Sys2Proof.Machine.execBarv w s
  | .bwt w => Sys2Proof.Machine.execBwt w s
  | .btst w => Sys2Proof.Machine.execBtst w s
  | .bbnd w => Sys2Proof.Machine.execBbnd w s
  | .bubd w => Sys2Proof.Machine.execBubd w s
  | .bfwd w => Sys2Proof.Machine.execBfwd w s
  | .sadd w => Sys2Proof.Machine.execSadd w s
  | .scas w => Sys2Proof.Machine.execScas w s
  | .smax w => Sys2Proof.Machine.execSmax w s
  | .sxch w => Sys2Proof.Machine.execSxch w s
  | .srd w => Sys2Proof.Machine.execSrd w s
  | .swt w => Sys2Proof.Machine.execSwt w s
  | .inkq w => Sys2Proof.Machine.execInkq w s
  | .inkr w => Sys2Proof.Machine.execInkr w s
  | .trap w => Sys2Proof.Machine.execTrap w s
  | .tret w => Sys2Proof.Machine.execTret w s
  | .csrr w => Sys2Proof.Machine.execCsrr w s
  | .csrw w => Sys2Proof.Machine.execCsrw w s
  | .tsc w => Sys2Proof.Machine.execTsc w s
  | .parkBar w => Sys2Proof.Machine.execParkBar w s
  | .parkSem w => Sys2Proof.Machine.execParkSem w s
  | .parkMbx w => Sys2Proof.Machine.execParkMbx w s
  | .parkInk w => Sys2Proof.Machine.execParkInk w s
  | .yield w => Sys2Proof.Machine.execYield w s
  | .lgo w => Sys2Proof.Machine.execLgo w s
  | .lpatch w => Sys2Proof.Machine.execLpatch w s
  | .qentLaunch w => Sys2Proof.Machine.execQentLaunch w s
  | .qentCopy w => Sys2Proof.Machine.execQentCopy w s
  | .qentSem w => Sys2Proof.Machine.execQentSem w s
  | .qentHirq w => Sys2Proof.Machine.execQentHirq w s
  | .mbxr w => Sys2Proof.Machine.execMbxr w s
  | .mbxs w => Sys2Proof.Machine.execMbxs w s
  | .hirq w => Sys2Proof.Machine.execHirq w s
  | .preempt w => Sys2Proof.Machine.execPreempt w s
  | .proofStart w => Sys2Proof.Machine.execProofStart w s
  | .proofAbort w => Sys2Proof.Machine.execProofAbort w s
  | .sampm w => Sys2Proof.Machine.execSampm w s
  | .vadd w => Sys2Proof.Machine.execVadd w s
  | .vsub w => Sys2Proof.Machine.execVsub w s
  | .vmul w => Sys2Proof.Machine.execVmul w s
  | .vmulh w => Sys2Proof.Machine.execVmulh w s
  | .vmad w => Sys2Proof.Machine.execVmad w s
  | .vdot4 w => Sys2Proof.Machine.execVdot4 w s
  | .vdot8 w => Sys2Proof.Machine.execVdot8 w s
  | .vmin w => Sys2Proof.Machine.execVmin w s
  | .vmax w => Sys2Proof.Machine.execVmax w s
  | .vabs w => Sys2Proof.Machine.execVabs w s
  | .vabsd w => Sys2Proof.Machine.execVabsd w s
  | .vneg w => Sys2Proof.Machine.execVneg w s
  | .vavg w => Sys2Proof.Machine.execVavg w s
  | .vshl w => Sys2Proof.Machine.execVshl w s
  | .vshr w => Sys2Proof.Machine.execVshr w s
  | .vsra w => Sys2Proof.Machine.execVsra w s
  | .vrsh w => Sys2Proof.Machine.execVrsh w s
  | .vand w => Sys2Proof.Machine.execVand w s
  | .vor w => Sys2Proof.Machine.execVor w s
  | .vxor w => Sys2Proof.Machine.execVxor w s
  | .vandn w => Sys2Proof.Machine.execVandn w s
  | .vnot w => Sys2Proof.Machine.execVnot w s
  | .vpopc w => Sys2Proof.Machine.execVpopc w s
  | .vclz w => Sys2Proof.Machine.execVclz w s
  | .vsel w => Sys2Proof.Machine.execVsel w s
  | .vcmp w => Sys2Proof.Machine.execVcmp w s
  | .vclamp w => Sys2Proof.Machine.execVclamp w s
  | .vfadd w => Sys2Proof.Machine.execVfadd w s
  | .vfsub w => Sys2Proof.Machine.execVfsub w s
  | .vfmul w => Sys2Proof.Machine.execVfmul w s
  | .vfma w => Sys2Proof.Machine.execVfma w s
  | .vfms w => Sys2Proof.Machine.execVfms w s
  | .vfnma w => Sys2Proof.Machine.execVfnma w s
  | .vfmin w => Sys2Proof.Machine.execVfmin w s
  | .vfmax w => Sys2Proof.Machine.execVfmax w s
  | .vfabs w => Sys2Proof.Machine.execVfabs w s
  | .vfneg w => Sys2Proof.Machine.execVfneg w s
  | .vfcmp w => Sys2Proof.Machine.execVfcmp w s
  | .vfclass w => Sys2Proof.Machine.execVfclass w s
  | .vrcp w => Sys2Proof.Machine.execVrcp w s
  | .vrsq w => Sys2Proof.Machine.execVrsq w s
  | .vsqrt w => Sys2Proof.Machine.execVsqrt w s
  | .vdiv w => Sys2Proof.Machine.execVdiv w s
  | .vexp2 w => Sys2Proof.Machine.execVexp2 w s
  | .vlog2 w => Sys2Proof.Machine.execVlog2 w s
  | .vfscl w => Sys2Proof.Machine.execVfscl w s
  | .vcvt w => Sys2Proof.Machine.execVcvt w s
  | .vcvte w => Sys2Proof.Machine.execVcvte w s
  | .vqmx w => Sys2Proof.Machine.execVqmx w s
  | .vdqmx w => Sys2Proof.Machine.execVdqmx w s
  | .vamax w => Sys2Proof.Machine.execVamax w s
  | .eset w => Sys2Proof.Machine.execEset w s
  | .esetImm w => Sys2Proof.Machine.execEsetImm w s
  | .eget w => Sys2Proof.Machine.execEget w s
  | .vperm w => Sys2Proof.Machine.execVperm w s
  | .vbcst w => Sys2Proof.Machine.execVbcst w s
  | .vzip w => Sys2Proof.Machine.execVzip w s
  | .vunzip w => Sys2Proof.Machine.execVunzip w s
  | .vpack w => Sys2Proof.Machine.execVpack w s
  | .vunpk w => Sys2Proof.Machine.execVunpk w s
  | .vlsh w => Sys2Proof.Machine.execVlsh w s
  | .vmov w => Sys2Proof.Machine.execVmov w s
  | .vmovi w => Sys2Proof.Machine.execVmovi w s
  | .vbf2 w => Sys2Proof.Machine.execVbf2 w s
  | .vbf4 w => Sys2Proof.Machine.execVbf4 w s
  | .vtwg w => Sys2Proof.Machine.execVtwg w s
  | .vcmul w => Sys2Proof.Machine.execVcmul w s
  | .vcmac w => Sys2Proof.Machine.execVcmac w s
  | .vred w => Sys2Proof.Machine.execVred w s
  | .vscan w => Sys2Proof.Machine.execVscan w s
  | .vrsum w => Sys2Proof.Machine.execVrsum w s
  | .kand w => Sys2Proof.Machine.execKand w s
  | .kor w => Sys2Proof.Machine.execKor w s
  | .kxor w => Sys2Proof.Machine.execKxor w s
  | .knot w => Sys2Proof.Machine.execKnot w s
  | .ksetLt w => Sys2Proof.Machine.execKsetLt w s
  | .ksetGe w => Sys2Proof.Machine.execKsetGe w s
  | .ksetMod w => Sys2Proof.Machine.execKsetMod w s
  | .kmov w => Sys2Proof.Machine.execKmov w s
  | .kmovFromv w => Sys2Proof.Machine.execKmovFromv w s
  | .kmovTov w => Sys2Proof.Machine.execKmovTov w s
  | .loop w => Sys2Proof.Machine.execLoop w s
  | .loopr w => Sys2Proof.Machine.execLoopr w s
  | .xb w => Sys2Proof.Machine.execXb w s
  | .xbk w => Sys2Proof.Machine.execXbk w s
  | .xj w => Sys2Proof.Machine.execXj w s
  | .xfin w => Sys2Proof.Machine.execXfin w s
  | .vdead w => Sys2Proof.Machine.execVdead w s
  | .vpush w => Sys2Proof.Machine.execVpush w s
  | .lease w => Sys2Proof.Machine.execLease w s
  | .lfree w => Sys2Proof.Machine.execLfree w s
  | .mma w => Sys2Proof.Machine.execMma w s
  | .mmaz w => Sys2Proof.Machine.execMmaz w s
  | .mmb w => Sys2Proof.Machine.execMmb w s
  | .mmi w => Sys2Proof.Machine.execMmi w s
  | .mclr w => Sys2Proof.Machine.execMclr w s
  | .mld w => Sys2Proof.Machine.execMld w s
  | .mst w => Sys2Proof.Machine.execMst w s
  | .madd w => Sys2Proof.Machine.execMadd w s
  | .mscl w => Sys2Proof.Machine.execMscl w s
  | .mset w => Sys2Proof.Machine.execMset w s
  | .minc w => Sys2Proof.Machine.execMinc w s
  | .mrep w => Sys2Proof.Machine.execMrep w s
  | .mfence w => Sys2Proof.Machine.execMfence w s
  | .mbarv w => Sys2Proof.Machine.execMbarv w s
  | .mfin w => Sys2Proof.Machine.execMfin w s
  | .mnop w => Sys2Proof.Machine.execMnop w s
  | .forwardedArrival => Sys2Proof.Machine.execForwardedArrival s
  | .xLanding => Sys2Proof.Machine.execXLanding s
  | .loadReturn => Sys2Proof.Machine.execLoadReturn s
  | .uncorrectableLoadDelivery => Sys2Proof.Machine.execUncorrectableLoadDelivery s
  | .vpushArrival => Sys2Proof.Machine.execVpushArrival s
  | .xqEntryArrival => Sys2Proof.Machine.execXqEntryArrival s
  | .streamVectorFetch => Sys2Proof.Machine.execStreamVectorFetch s
  | .copyChunkLanding => Sys2Proof.Machine.execCopyChunkLanding s
  | .matrixCommandComplete => Sys2Proof.Machine.execMatrixCommandComplete s
  | .matrixFetchFault => Sys2Proof.Machine.execMatrixFetchFault s
  | .matrixGlyphInvalid => Sys2Proof.Machine.execMatrixGlyphInvalid s
  | .leaseGrant => Sys2Proof.Machine.execLeaseGrant s
  | .headerEntry => Sys2Proof.Machine.execHeaderEntry s
  | .headerWaitRelease => Sys2Proof.Machine.execHeaderWaitRelease s
  | .sectionRetirement => Sys2Proof.Machine.execSectionRetirement s
  | .xIssue => Sys2Proof.Machine.execXIssue s
  | .trapDelivery => Sys2Proof.Machine.execTrapDelivery s
  | .rubricatorTrap => Sys2Proof.Machine.execRubricatorTrap s
  | .pendingWriteReplay => Sys2Proof.Machine.execPendingWriteReplay s
  | .faultRecordPost => Sys2Proof.Machine.execFaultRecordPost s
  | .answerResume => Sys2Proof.Machine.execAnswerResume s
  | .answerSkip => Sys2Proof.Machine.execAnswerSkip s
  | .answerEnd => Sys2Proof.Machine.execAnswerEnd s
  | .answerAbandon => Sys2Proof.Machine.execAnswerAbandon s
  | .watchdogExpiry => Sys2Proof.Machine.execWatchdogExpiry s
  | .taskUnpark => Sys2Proof.Machine.execTaskUnpark s
  | .taskWaitsReached => Sys2Proof.Machine.execTaskWaitsReached s
  | .taskPlacement => Sys2Proof.Machine.execTaskPlacement s
  | .contextLoadComplete => Sys2Proof.Machine.execContextLoadComplete s
  | .armingCompletion => Sys2Proof.Machine.execArmingCompletion s
  | .preemptDrainEnd => Sys2Proof.Machine.execPreemptDrainEnd s
  | .preemptDrainTimeout => Sys2Proof.Machine.execPreemptDrainTimeout s
  | .preemptSaveComplete => Sys2Proof.Machine.execPreemptSaveComplete s
  | .queueLaunchAction => Sys2Proof.Machine.execQueueLaunchAction s
  | .queueCopyAction => Sys2Proof.Machine.execQueueCopyAction s
  | .queueSemAction => Sys2Proof.Machine.execQueueSemAction s
  | .queueHirqAction => Sys2Proof.Machine.execQueueHirqAction s
  | .inkTick => Sys2Proof.Machine.execInkTick s
  | .inkGrant => Sys2Proof.Machine.execInkGrant s
  | .regionExpiry => Sys2Proof.Machine.execRegionExpiry s
  | .overdraw => Sys2Proof.Machine.execOverdraw s
  | .sensorCheck => Sys2Proof.Machine.execSensorCheck s
  | .clusterClamp => Sys2Proof.Machine.execClusterClamp s
  | .pairMeasurement => Sys2Proof.Machine.execPairMeasurement s
  | .droopDetect => Sys2Proof.Machine.execDroopDetect s
  | .governorEvaluation => Sys2Proof.Machine.execGovernorEvaluation s
  | .ceilingChange => Sys2Proof.Machine.execCeilingChange s
  | .baselineJoin => Sys2Proof.Machine.execBaselineJoin s
  | .baselineLeave => Sys2Proof.Machine.execBaselineLeave s
  | .baselineCommandMalformed => Sys2Proof.Machine.execBaselineCommandMalformed s
  | .baselineJoinReply => Sys2Proof.Machine.execBaselineJoinReply s
  | .baselineJoinTimeout => Sys2Proof.Machine.execBaselineJoinTimeout s
  | .baselineAnnouncement => Sys2Proof.Machine.execBaselineAnnouncement s
  | .heartbeatSend => Sys2Proof.Machine.execHeartbeatSend s
  | .heartbeatReceive => Sys2Proof.Machine.execHeartbeatReceive s
  | .silentDrop => Sys2Proof.Machine.execSilentDrop s
  | .memberExclusion => Sys2Proof.Machine.execMemberExclusion s
  | .serviceAreaRead => Sys2Proof.Machine.execServiceAreaRead s
  | .blotterVisit => Sys2Proof.Machine.execBlotterVisit s
  | .conversionSwitch => Sys2Proof.Machine.execConversionSwitch s
  | .blotterAccessRefused => Sys2Proof.Machine.execBlotterAccessRefused s
  | .migrationStart => Sys2Proof.Machine.execMigrationStart s
  | .migrationSwitch => Sys2Proof.Machine.execMigrationSwitch s
  | .pagedWrite => Sys2Proof.Machine.execPagedWrite s
  | .copyOnWrite => Sys2Proof.Machine.execCopyOnWrite s
  | .folioDeferredFree => Sys2Proof.Machine.execFolioDeferredFree s
  | .ctlInval => Sys2Proof.Machine.execCtlInval s
  | .invalidationComplete => Sys2Proof.Machine.execInvalidationComplete s
  | .ctlRuling => Sys2Proof.Machine.execCtlRuling s
  | .reRulingComplete => Sys2Proof.Machine.execReRulingComplete s
  | .ctlMirlen => Sys2Proof.Machine.execCtlMirlen s
  | .bankRetirement => Sys2Proof.Machine.execBankRetirement s
  | .bankSwapSwitch => Sys2Proof.Machine.execBankSwapSwitch s
  | .eccRetry => Sys2Proof.Machine.execEccRetry s
  | .remapVoteFreeze => Sys2Proof.Machine.execRemapVoteFreeze s
  | .towerSeal => Sys2Proof.Machine.execTowerSeal s
  | .proofingPatternStart => Sys2Proof.Machine.execProofingPatternStart s
  | .proofingPatternEnd => Sys2Proof.Machine.execProofingPatternEnd s
  | .proofingAbort => Sys2Proof.Machine.execProofingAbort s
  | .gegilFlitReceive => Sys2Proof.Machine.execGegilFlitReceive s
  | .portRetrain => Sys2Proof.Machine.execPortRetrain s
  | .remoteRequestApply => Sys2Proof.Machine.execRemoteRequestApply s
  | .remoteResponse => Sys2Proof.Machine.execRemoteResponse s
  | .wakeWrite => Sys2Proof.Machine.execWakeWrite s
  | .remoteResend => Sys2Proof.Machine.execRemoteResend s
  | .pathFailure => Sys2Proof.Machine.execPathFailure s
  | .tagFilterExpiry => Sys2Proof.Machine.execTagFilterExpiry s
  | .tscTimingExchange => Sys2Proof.Machine.execTscTimingExchange s
  | .tscSyncLoss => Sys2Proof.Machine.execTscSyncLoss s
  | .collectiveDataPhase => Sys2Proof.Machine.execCollectiveDataPhase s
  | .collectiveCompletion => Sys2Proof.Machine.execCollectiveCompletion s
  | .collectiveStop => Sys2Proof.Machine.execCollectiveStop s
  | .collectiveAbandonMessage => Sys2Proof.Machine.execCollectiveAbandonMessage s
  | .towerReset => Sys2Proof.Machine.execTowerReset s
  | .bootLenWrite => Sys2Proof.Machine.execBootLenWrite s
  | .bootVerifyDone => Sys2Proof.Machine.execBootVerifyDone s
  | .attGo => Sys2Proof.Machine.execAttGo s
  | .attReportDone => Sys2Proof.Machine.execAttReportDone s
  | .hmbCtl => Sys2Proof.Machine.execHmbCtl s
  | .hmbPend => Sys2Proof.Machine.execHmbPend s
  | .hostBarAccess => Sys2Proof.Machine.execHostBarAccess s
  | .hostWashChunkWrite => Sys2Proof.Machine.execHostWashChunkWrite s
  | .msixSend => Sys2Proof.Machine.execMsixSend s
  | .monitorRecord => Sys2Proof.Machine.execMonitorRecord s
  | .pcSample => Sys2Proof.Machine.execPcSample s
  | .registerWrite => Sys2Proof.Machine.execRegisterWrite s
  | .walkCompletion => Sys2Proof.Machine.execWalkCompletion s
  | .linkTrainingComplete => Sys2Proof.Machine.execLinkTrainingComplete s
  | .mailboxBufferWrite => Sys2Proof.Machine.execMailboxBufferWrite s

end Sys2Proof.Machine
end

