-- ==== Sys2Proof/Machine/Fetch.lean ====
section
/-! DEFINITION. Fetching, decoding and running the word of an agent, and running a step that is no word (R76, R80, R86, R119,
R134). -/

namespace Sys2Proof.Machine

/-- The opcode space of an agent. -/
def Agent.space : Agent → Space
  | .rub => .rub
  | .task _ .a => .a
  | .task _ .x => .x
  | .task _ .m => .m

/-- The twelve bytes of the word at the program counter of whoever runs: through translation for a task, physically for the
Rubricator. -/
def State.fetchWord (s : State) : Try (List Byte) :=
  match s.cur with
  | .rub => do
    let a := 4 * s.rub.pc.toNat
    let p ← s.physCheck (rubIdent s.tower) .engine .fetch a 12
    s.readBytes p.key 12
  | .task id st =>
    match s.task? id with
    | some t => s.fetch id t.core t.asid st.code (t.stream st).pc 12
    | none => .error .hold

/-- The trap of a word that does not decode (R86). -/
def defectCause : Defect → Cause
  | .illegalOp => .illegalOp
  | .reservedField => .reservedField

/-- PROOF's two actions share a word: bit 8 of its register tells them apart (R190). -/
def State.resolve (s : State) : Instr → Instr
  | .proofStart w => if (s.reg w.a).getLsbD 8 then .proofAbort w else .proofStart w
  | i => i

/-- The agent may issue: the Rubricator runs and no failed load waits to be delivered; a stream is in the words of a section. -/
def State.mayRun (s : State) : Agent → Bool
  | .rub =>
    s.rub.running && !s.rub.halted && s.rub.meetsBad.isNone &&
      (!s.rub.inHandler || s.rub.loads.all (fun l => l.tag.isNone || decide (s.rub.before ≤ l.id)))
  | .task id st =>
    match s.task? id with
    | some t => t.mayIssue st
    | none => false

/-- The A stream waits for the grant of its task's region: any word but INKR and INKQ does (R175, R387). -/
def State.grantHeld (s : State) : Agent → Bool
  | .task id .a =>
    match s.task? id with
    | some t =>
      (match t.region with
        | some r => r.expired
        | none => false) &&
      (match s.fetchWord with
        | .ok bs =>
          match decode .a (bytesWord bs) with
          | .ok (.inkr _) | .ok (.inkq _) => false
          | _ => true
        | .error (.miss _ _ _) => false
        | .error _ => true)
    | none => false
  | _ => false

/-- A stream that a region's end stalls begins to wait for the grant (R181). -/
def State.stallForGrant (s : State) : Agent → State
  | .rub => s
  | .task id st =>
    s.onTask id (fun t =>
      match t.region with
      | some r =>
        if r.expired && t.live && decide ((t.stream st).phase = .words) && !(t.stream st).stopped && t.wait.isNone then
          { t with wait := some { pc := (t.stream st).pc, stream := st, since := s.cyc t.core, on := .grant } }
        else t
      | none => t)

/-- An engine's cycle is taken, and the issuer's wait count starts again (R341, R342). `p` is the cycle of the issue. -/
def Core.taken (k : Core) (st : Stream) (slot p : Nat) : Core :=
  match st with
  | .a => { k with lastA := slot, nextA := max k.nextA (p + 1) }
  | .x => { k with lastX := slot, nextX := max k.nextX (p + 1), issuedX := p + 1 }
  | .m => { k with lastM := slot, nextM := max k.nextM (p + 1) }

/-- The X stream's wait on an empty queue or stream register is over, and measured (R394). -/
def State.endStall (s : State) (id : Nat) (t : Task) : State :=
  match t.xStall with
  | some c => (s.setTask id { t with xStall := none }).measure t.core 4 (s.cyc t.core - c)
  | none => s

/-- What an issue leaves beside the word's own effect: `s` is the state before it, `u` the state after. -/
def State.issued (s u : State) : State :=
  match s.cur with
  | .rub => { u with rub := { u.rub with nextAt := (s.now * 100 / 625 + 1) * 625 } }
  | .task id st =>
    match s.task? id with
    | none => u
    | some t =>
      let v := u.setCore t.core ((u.core t.core).taken st (t.slot.getD 0) (s.cyc t.core))
      let v := v.onTask id (fun t => t.setStream st { t.stream st with waitCount := 0 })
      if st = .x then
        match v.task? id with
        | some t => v.endStall id t
        | none => v
      else v

/-- A word that did not wait has issued. -/
def State.settle (s : State) : Host.Outcome State Fault Refusal → Host.Outcome State Fault Refusal
  | .next u => .next (if u.stalled then u else s.issued u)
  | r => r

/-! ## Sectors (R286) -/

/-- The physical addresses of the bytes of an access, one for each sector it may touch. -/
def State.accessAddrs (s : State) (k : Access) (va n : Nat) : List Nat :=
  match s.range s.aView k va n with
  | .ok ps => ps.flatMap (fun p => (sectors p.1 p.2).map (32 * ·))
  | .error _ => []

/-- The sectors of glyph `n`'s entry in the glyph table. -/
def State.glyphSectors (s : State) (n : Nat) : List Nat :=
  match s.glyphAddr n with
  | .ok a => s.accessAddrs .read a 64
  | .error _ => []

/-- The elements of a glyph at the indexes an A word reads from `va`. -/
def State.indexedAddrs (s : State) (g : Nat) (va : Nat) : List Nat :=
  match s.indices va, s.glyphWords g with
  | .ok ix, .ok ws =>
    s.accessAddrs .read va 2048 ++ s.glyphSectors g ++
      ix.flatMap (fun f => if (glyphOf ws).count ≤ f then [] else s.elemAddrs s.aEngine (glyphOf ws) ((glyphOf ws).flat f))
  | _, _ => []

/-- The type bits of a glyph. -/
def State.glyphBits (s : State) (n : Nat) : Nat :=
  match s.glyphWords n with
  | .ok ws => typeBits (glyphOf ws).ty
  | .error _ => 0

/-- The sectors a SBIND reads beside its data glyph: the descriptor, the index glyph where the chain gathers, and the entropy table. -/
def State.bindAddrs (s : State) (w : AC) : List Nat :=
  match s.viewRead s.aEngine (s.reg w.a).toNat 64, s.glyphWords w.gs.toNat with
  | .ok bs, .ok ws =>
    let d := dwords 8 bs
    s.accessAddrs .read (s.reg w.a).toNat 64 ++ s.glyphSectors w.gs.toNat ++ (if holdsOp d 5 then s.glyphSectors w.gd.toNat else []) ++
      (if holdsOp d 2 then s.accessAddrs .read (glyphOf ws).entropy 256 else [])
  | _, _ => []

/-- The sectors an A word that has issued accesses. -/
def State.wordAddrs (s : State) : Instr → List Nat
  | .ld w | .lds w => s.accessAddrs .read (s.effective w) (2 ^ w.size.toNat)
  | .st w | .sts w => s.accessAddrs .write (s.effective w) (2 ^ w.size.toNat)
  | .ldx w => s.accessAddrs .read (s.reg w.a).toNat (256 * 2 ^ w.fn.toNat)
  | .stx w => s.accessAddrs .write (s.reg w.a).toNat (2 ^ w.fn.toNat)
  | .gath w => s.indexedAddrs w.gs.toNat (s.reg w.a).toNat
  | .scat w => s.indexedAddrs w.gd.toNat (s.reg w.a).toNat ++ s.accessAddrs .read (s.reg w.b).toNat (64 * s.glyphBits w.gd.toNat)
  | .gdef w => s.accessAddrs .read (s.reg w.a).toNat 64 ++ s.glyphSectors w.gd.toNat
  | .gset w => s.glyphSectors w.gd.toNat
  | .gget w => s.glyphSectors w.gs.toNat
  | .cpy w | .cpyx w => s.glyphSectors w.gd.toNat ++ s.glyphSectors w.gs.toNat
  | .cpyb w | .cpyvOut w => s.glyphSectors w.gd.toNat
  | .cpyvIn w => s.glyphSectors w.gs.toNat
  | .sbind w => s.bindAddrs w
  | .mbxr w => if (s.mailbox w.obj.toNat).device then s.accessAddrs .write (s.reg w.a).toNat (s.mailbox w.obj.toNat).len else []
  | .mbxs w => s.accessAddrs .read (s.reg w.a).toNat (s.reg w.b).toNat
  | _ => []

/-! ## Running a word -/

/-- From `s` to `u` a trap of a task has been delivered. -/
def State.trapped (s u : State) (id : Nat) : Bool :=
  match s.task? id, u.task? id with
  | some t, some v => (v.inHandler && !t.inHandler) || decide (v.run = .onRecord)
  | _, _ => false

/-- The sectors that an issued word of a task has accessed count for the conflicts of its core (R286): `s` is the state before it. -/
def State.conflicted (s : State) (i : Instr) : Host.Outcome State Fault Refusal → Host.Outcome State Fault Refusal
  | .next u =>
    match s.cur with
    | .task id .a =>
      if u.stalled || s.trapped u id then .next u
      else
        match s.task? id, s.wordAddrs i with
        | some t, a :: as_ => .next (u.countConflicts t.core (a :: as_))
        | _, _ => .next u
    | _ => .next u
  | r => r

/-- The writes of an A word are those of its strand (R309, R313): `s` is the state before it. -/
def State.owns (s : State) : Host.Outcome State Fault Refusal → Host.Outcome State Fault Refusal
  | .next u =>
    match s.cur with
    | .rub | .task _ .a => .next (s.owned u s.strand)
    | _ => .next u
  | r => r

/-- Whoever runs has fetched a word: it is decoded and executed, or traps. -/
def State.runBytes (s : State) (bs : List Byte) : Host.Outcome State Fault Refusal :=
  match decode s.cur.space (bytesWord bs) with
  | .ok i => s.owns (s.conflicted i (s.settle (exec (s.resolve i) s)))
  | .error d => s.settle (.next (s.takeTrap (defectCause d) 0))

/-- The machine as a word of an agent finds it. -/
def State.begin (s : State) (ag : Agent) : State := { s with cur := ag, turn := .idle, stalled := false }

/-- Run the next word of an agent. -/
def State.runWord (s : State) (ag : Agent) : Host.Outcome State Fault Refusal :=
  let s := s.begin ag
  if s.mayRun ag && !s.grantHeld ag then
    match s.fetchWord with
    | .ok bs => s.runBytes bs
    | .error e => s.settle (.next (s.finish (.error e)))
  else .next (s.stallForGrant ag).held

/-- Run a step that is no word. -/
def State.runEvent (s : State) (i : Instr) (a : Arg) : Host.Outcome State Fault Refusal :=
  exec i { s with turn := .idle, arg := a, stalled := false }

/-- What a turn does. -/
def State.runTurn (s : State) : Turn → Host.Outcome State Fault Refusal
  | .idle => .next s
  | .word ag => s.runWord ag
  | .event i a => s.runEvent i a

end Sys2Proof.Machine
end

