-- ==== Sys2Proof/Machine/Schedule.lean ====
section
/-! DEFINITION. What the next step is: the choices that come from outside, or in their absence the first step that makes progress;
and the passing of time (R134, R194, R340 to R344, R380, R419). -/

namespace Sys2Proof.Machine

/-! ## Trying a turn -/

/-- A step has changed the machine: `u` is the state after it. A step that waits changes more than memory where it changes anything. -/
def State.progress (s u : State) : Bool :=
  let v := { u with cur := s.cur, turn := s.turn, arg := s.arg, stalled := s.stalled }
  decide (u.turn ≠ .idle) ||
    (if u.stalled then decide ({ v with mem := [], washed := [], codes := [] } ≠ { s with mem := [], washed := [], codes := [] })
     else decide (v ≠ s))

/-- A turn for a step that is no word. -/
def evTurn (i : Instr) (x y z : Nat) : Turn := .event i { x := x, y := y, z := z }

/-- The steps that are no word. -/
def isEvent (i : Instr) : Bool := i.space.isNone

/-! ## The engines (R340 to R342) -/

/-- How the word of a stream would end now: it issues, it traps at issue, it waits and records that, or nothing. -/
inductive Prospect where
  | issues | traps | records | nothing
  deriving DecidableEq, Repr

/-- The prospect of the next word of a stream. -/
def State.prospect (s : State) (id : Nat) (st : Stream) : Prospect :=
  match s.runWord (.task id st) with
  | .next u =>
    if !u.stalled then (if s.trapped u id then .traps else .issues) else if s.progress u then .records else .nothing
  | _ => .nothing

/-- The cycle from which an engine is free. -/
def Core.next (k : Core) : Stream → Nat
  | .a => k.nextA
  | .x => k.nextX
  | .m => k.nextM

/-- The slot of an engine's last issuer. -/
def Core.last (k : Core) : Stream → Nat
  | .a => k.lastA
  | .x => k.lastX
  | .m => k.lastM

/-- The A or M streams of a core whose next word ends in one of these ways. -/
def State.streamsWith (s : State) (core : Nat) (st : Stream) (ps : List Prospect) : List Candidate :=
  s.tasks.filterMap (fun e =>
    if e.2.core = core ∧ e.2.mayIssue st = true ∧ s.prospect e.1 st ∈ ps then some (e.2.candidate e.1 st) else none)

/-- The ready streams of an engine whose issue cycle is free: a word that traps at issue is ready like any other (R341). -/
def State.ready? (s : State) (core : Nat) (st : Stream) : List Candidate :=
  match st with
  | .x => s.xCandidates core
  | _ => if s.cyc core < (s.core core).next st then [] else s.streamsWith core st [.issues, .traps]

/-- What an engine would choose in this cycle (R341). -/
def State.choice (s : State) (core : Nat) (st : Stream) : Option Candidate :=
  chooseStream ((s.core core).last st) (s.cluster (clusterOf core)).mark (s.ready? core st)

/-- The engine would choose a word that ends in this way. -/
def State.chooses (s : State) (core : Nat) (p : Prospect) (st : Stream) : Bool :=
  match s.choice core st with
  | some c => decide (s.prospect c.task st = p)
  | none => false

/-- Some engine of a core would issue a word that does not trap. -/
def State.issuing (s : State) (core : Nat) : Bool := [Stream.a, .x, .m].any (s.chooses core .issues)

/-- The streams whose words the engines of a core would issue to trap a task. -/
def State.wordTraps (s : State) (core id : Nat) : List Nat :=
  [Stream.a, .x, .m].filterMap (fun st =>
    match s.choice core st with
    | some c => if c.task = id ∧ s.prospect id st = .traps then some st.code else none
    | none => none)

/-- Of a task: what lands, what time has run out for, traps that are no words, and headers, whose streams go on without a delay of
their own (R194). -/
def taskDue (id : Nat) : List Turn :=
  [evTurn .xLanding id 0 0, evTurn .pendingWriteReplay id 0 0, evTurn .vpushArrival id 0 0, evTurn .trapDelivery id 0 0,
    evTurn .uncorrectableLoadDelivery id 0 0, evTurn .regionExpiry id 0 0, evTurn .overdraw id 0 0, evTurn .watchdogExpiry id 0 0,
    evTurn .preemptDrainTimeout id 0 0, evTurn .pcSample id 0 0] ++
  [0, 1, 2].flatMap (fun i => [evTurn .headerEntry id i 0, evTurn .headerWaitRelease id i 0])

/-- The stream of the trap that a task has just taken. -/
def State.trapStream (u : State) (id : Nat) : Nat :=
  match u.task? id with
  | some t => t.trapCode
  | none => 0

/-- The streams of the traps that steps which are no words would deliver to a task now. -/
def State.dueTraps (s : State) (id : Nat) : List Nat :=
  (taskDue id).filterMap (fun t =>
    match s.runTurn t with
    | .next u => if s.trapped u id then some (u.trapStream id) else none
    | _ => none)

/-- The words of one cycle that do not trap come first, so that a trap stops none of them (R350); of the traps of a task, the first in
the order A, X, M (R351). -/
def State.trapWaits (s : State) (core : Nat) (st : Stream) : Bool :=
  s.chooses core .traps st &&
    (s.issuing core || ([Stream.a, .x].any (fun v => decide (v.code < st.code) && s.chooses core .traps v)) ||
      (match s.choice core st with
        | some c => (s.dueTraps c.task).any (fun n => decide (n < st.code))
        | none => false))

/-- A step that is no word traps a task too early: words of its core that do not trap are still to issue in this cycle (R350), or a
trap of an earlier stream is to be delivered (R351). -/
def State.trapsEarly (s u : State) : Bool :=
  s.tasks.any (fun e =>
    s.trapped u e.1 &&
      (s.issuing e.2.core || (s.wordTraps e.2.core e.1 ++ s.dueTraps e.1).any (fun n => decide (n < u.trapStream e.1))))

/-- The state with a turn chosen, if that turn makes progress and its traps may come now. -/
def State.tryTurn (s : State) (t : Turn) : Option State :=
  match s.runTurn t with
  | .next u => if s.progress u && !s.trapsEarly u then some { s with turn := t } else none
  | _ => none

/-- An engine of a core chooses (R341); a stream whose word only records its wait runs beside the choice. -/
def State.tryEngine (s : State) (core : Nat) (st : Stream) : Option State :=
  match st with
  | .x => if s.trapWaits core .x then none else s.tryTurn (evTurn .xIssue core 0 0)
  | _ =>
    match if s.cyc core < (s.core core).next st then [] else s.streamsWith core st [.records] with
    | c :: _ => some { s with turn := .word (.task c.task st) }
    | [] =>
      match s.choice core st with
      | some c =>
        if s.trapWaits core st then none
        else some { s.countWaits st c.task (s.ready? core st) with turn := .word (.task c.task st) }
      | none => none

/-- The Rubricator's cycle has come (R134). -/
def State.tryRub (s : State) : Option State :=
  if s.rub.running && decide (s.rub.nextAt ≤ 100 * s.now) then s.tryTurn (.word .rub) else none

/-! ## Steps that no time may pass before -/

/-- The numbers of the tasks, and of the cores that have one. -/
def State.taskIds (s : State) : List Nat := s.tasks.map (fun (e : Nat × Task) => e.1)
def State.busyCores (s : State) : List Nat := (s.tasks.map (fun (e : Nat × Task) => e.2.core)).eraseDups

/-- A stream of a task that a region's end stalls, at its next issue (R175, R181). Where several stall as the region ends, the first of
A, X, M counts as the one that stalled first: the model's choice. -/
def State.grantTurns (s : State) (e : Nat × Task) : List Turn :=
  match e.2.region with
  | some r =>
    if r.expired then
      ([Stream.a, .x, .m].filter (fun st => decide ((s.core e.2.core).next st ≤ s.cyc e.2.core) &&
        (decide (st ≠ .x) || decide (e.2.xNext ≤ s.cyc e.2.core)))).map (fun st => .word (.task e.1 st))
    else []
  | none => []

/-- A walk of a page that the next header or word of a running X stream lies on: no time of its own delays the stream (R194). -/
def State.codeWalk (s : State) (w : Walk) : Bool :=
  s.tasks.any (fun e =>
    let v := e.2.sx
    e.2.live && !v.stopped && decide (v.phase = .header ∨ v.phase = .words) &&
      (w.isFor e.2.asid (4 * v.pc.toNat) || w.isFor e.2.asid (4 * v.pc.toNat + 11)))

/-- The walks up to the last of those. -/
def State.codeWalks (s : State) : List Turn :=
  match ((s.walks.zipIdx).filter (fun p => s.codeWalk p.1)).getLast? with
  | some p => (List.range (p.2 + 1)).map (fun i => evTurn .walkCompletion i 0 0)
  | none => []

/-- Of the service die: what recurs, and what time has run out for. -/
def State.serviceDue (s : State) : List Turn :=
  [evTurn .inkTick 0 0 0, evTurn .sensorCheck 0 0 0, evTurn .governorEvaluation 0 0 0, evTurn .serviceAreaRead 0 0 0,
    evTurn .ceilingChange 0 0 0, evTurn .heartbeatSend 0 0 0, evTurn .silentDrop 0 0 0,
    evTurn .baselineJoinTimeout 0 0 0, evTurn .tscSyncLoss 0 0 0, evTurn .tscTimingExchange 0 1 0, evTurn .blotterVisit 0 0 0, evTurn .proofingAbort 1 0 0] ++
  (List.range 48).map (fun c => evTurn .clusterClamp c 0 0) ++
  (List.range 24).map (fun i => evTurn .pairMeasurement i 0 0) ++
  s.base.memberIds.map (fun n => evTurn .memberExclusion n 0 0) ++
  s.remotes.map (fun (r : Nat × Remote) => evTurn .remoteResend r.1 0 0) ++
  s.remotes.map (fun (r : Nat × Remote) => evTurn .pathFailure r.1 0 0) ++
  (List.range s.kept.length).map (fun i => evTurn .tagFilterExpiry i 0 0)

/-- What follows at once, before any other step: leases that a release lets through (R258), the head of the grant order (R385), the
abort of a Proofing (R374), the vote of the remap tables (R371, R372). -/
def State.atOnce (s : State) : List Turn :=
  (s.leaseOrder.map (fun r => r.1)).eraseDups.map (fun c => evTurn .leaseGrant c 0 0) ++
  [evTurn .inkGrant 0 0 0, evTurn .towerSeal 0 0 0] ++
  (match s.proofing with
    | some p => if p.phase = .aborting then [] else [evTurn .proofingAbort 0 0 0]
    | none => []) ++
  s.levels.flatMap (fun (e : Nat × Level) => if e.2.copies.isEmpty then [] else [0, 1, 2].map (fun k => evTurn .remapVoteFreeze e.1 k 0))

/-- Everything else that no time may pass before. -/
def State.dueTurns (s : State) : List Turn := s.taskIds.flatMap taskDue ++ s.codeWalks ++ s.tasks.flatMap s.grantTurns ++ s.serviceDue

/-! ## Steps that may happen -/

/-- Of a task. -/
def taskMay (e : Nat × Task) : List Turn :=
  let id := e.1
  let streams := [0, 1, 2]
  let loads := List.range e.2.loads.length
  loads.map (fun i => evTurn .loadReturn id 0 i) ++ loads.map (fun i => evTurn .xqEntryArrival id 0 i) ++
  e.2.binds.map (fun (b : Nat × Binding) => evTurn .streamVectorFetch id b.1 0) ++
  streams.map (fun i => evTurn .sectionRetirement id i 0) ++
  e.2.cmds.flatMap (fun c => [evTurn .matrixCommandComplete id c.serial 0, evTurn .matrixFetchFault id c.serial 0,
    evTurn .matrixGlyphInvalid id c.serial 0]) ++
  [evTurn .taskUnpark id 0 0, evTurn .taskWaitsReached id 0 0,
    evTurn .contextLoadComplete id 0 0, evTurn .preemptDrainEnd id 0 0, evTurn .preemptSaveComplete id 0 0]

/-- Of a core that has tasks. -/
def coreMay (core : Nat) : List Turn := [evTurn .taskPlacement core 0 0]

/-- Of the copies, arrivals and armings. -/
def State.copyMay (s : State) : List Turn :=
  s.copies.flatMap (fun (c : Nat × Copy) =>
    ((List.range c.2.chunks).filter (fun i => !c.2.landed.contains i)).map (fun i => evTurn .copyChunkLanding c.1 i 0)) ++
  s.arrivals.map (fun (a : Nat × Arrival) => evTurn .forwardedArrival a.1 0 0) ++
  s.armings.map (fun (a : Nat × Arming) => evTurn .armingCompletion a.1 0 0)

/-- Of the Rubricator and its queues. -/
def State.rubMay (s : State) : List Turn :=
  [evTurn .rubricatorTrap 0 0 0] ++ (List.range s.rub.loads.length).map (fun i => evTurn .loadReturn 0 1 i) ++
  s.queues.flatMap (fun (q : Nat × List QEntry) => [evTurn .queueLaunchAction q.1 0 0, evTurn .queueCopyAction q.1 0 0,
    evTurn .queueSemAction q.1 0 0, evTurn .queueHirqAction q.1 0 0])

/-- Of the records and their answers. -/
def State.recordMay (s : State) : List Turn :=
  (List.range s.records.length).map (fun i => evTurn .faultRecordPost i 0 0) ++
  s.opens.flatMap (fun o => [evTurn .answerResume o.number 0 0, evTurn .answerSkip o.number 0 0, evTurn .answerEnd o.number 0 0,
    evTurn .answerAbandon o.number 0 0])

/-- Of the fabric, the Baseline and the collectives. -/
def State.fabricMay (s : State) : List Turn :=
  (List.range s.fabIn.length).flatMap (fun i => [evTurn .remoteRequestApply i 0 0, evTurn .wakeWrite i 0 0,
    evTurn .remoteResponse i 0 0, evTurn .tscTimingExchange i 0 0, evTurn .baselineJoinReply i 0 0,
    evTurn .baselineAnnouncement i 0 0, evTurn .heartbeatReceive i 0 0, evTurn .collectiveAbandonMessage i 0 0]) ++
  [evTurn .baselineJoin 0 0 0, evTurn .baselineLeave 0 0 0, evTurn .baselineCommandMalformed 0 0 0, evTurn .gegilFlitReceive 0 0 0] ++
  (List.range 12).map (fun p => evTurn .portRetrain p 0 0) ++
  s.channels.flatMap (fun (c : Nat × Channel) => [evTurn .collectiveDataPhase c.1 0 0, evTurn .collectiveCompletion c.1 0 0,
    evTurn .collectiveStop c.1 0 0])

/-- Of the Folio. -/
def State.folioMay (s : State) : List Turn :=
  s.folio.converting.flatMap (fun c => [evTurn .conversionSwitch c.block 0 0, evTurn .blotterAccessRefused c.block 0 0]) ++
  s.folio.migrating.toList.flatMap (fun c => [evTurn .migrationSwitch 0 0 0, evTurn .blotterAccessRefused c.block 0 0]) ++
  [evTurn .migrationStart 0 0 0] ++ s.folio.cows.map (fun c => evTurn .copyOnWrite c.entry 0 0) ++
  s.folio.freeing.map (fun b => evTurn .folioDeferredFree b 0 0)

/-- Of the tower control block, the walkers and the levels. -/
def State.levelMay (s : State) : List Turn :=
  [evTurn .ctlInval 0 0 0, evTurn .ctlRuling 0 0 0, evTurn .ctlMirlen 0 0 0, evTurn .registerWrite 0 0 0,
    evTurn .invalidationComplete 0 0 0] ++
  (List.range s.walks.length).map (fun i => evTurn .walkCompletion i 0 0) ++
  (List.range s.retries.length).map (fun i => evTurn .eccRetry i 0 0) ++
  s.levels.flatMap (fun (e : Nat × Level) => [evTurn .reRulingComplete e.1 0 0, evTurn .bankSwapSwitch e.1 0 0] ++
    (e.2.errors.map (fun (b : Nat × Nat) => b.1) ++ s.laneBanks e.1 ++ e.2.hot.map (fun (b : Nat × Nat) => b.1)).map
      (fun j => evTurn .bankRetirement e.1 j 0))

/-- Of the host, Proofing and the monitors. -/
def State.hostMay (s : State) : List Turn :=
  [evTurn .registerWrite 1 0 0, evTurn .bootLenWrite 0 0 0, evTurn .bootVerifyDone 0 0 0, evTurn .attGo 0 0 0,
    evTurn .attReportDone 0 0 0, evTurn .hmbCtl 0 0 0, evTurn .hmbPend 0 0 0, evTurn .mailboxBufferWrite 0 0 0,
    evTurn .hostBarAccess 0 0 0, evTurn .hostWashChunkWrite 0 0 0, evTurn .proofingPatternStart 0 0 0,
    evTurn .proofingAbort 0 0 0, evTurn .proofingPatternEnd 0 1 0] ++
  (List.range 65).map (fun v => evTurn .msixSend v 0 0) ++
  s.monitors.map (fun (m : Nat × Monitor) => evTurn .monitorRecord m.1 0 0)

/-- Everything that may happen without a choice from outside. -/
def State.mayTurns (s : State) : List Turn :=
  s.tasks.flatMap taskMay ++ s.busyCores.flatMap coreMay ++ s.copyMay ++ s.rubMay ++ s.recordMay ++ s.fabricMay ++ s.folioMay ++
    s.levelMay ++ s.hostMay

/-! ## Time -/

/-- A cycle of a cluster has ended: the lighter cluster of its pair has run ballast, and the heavier one's next cycle may be
stretched (R380). -/
def State.endCycles (old s : State) : State :=
  s.clusters.foldl (fun s (e : Nat × Cluster) =>
    if old.cycles e.1 < s.cycles e.1 then (s.ballastCycle e.1 (old.cycles e.1)).stretchHeavy e.1 else s) s

/-- The X stream of a task could issue but for an empty queue or stream register: its stall begins; its operands have come, or the stream
is stopped or waits for a grant: the stall ends and is measured (R394). -/
def State.markStall (s : State) (e : Nat × Task) : State :=
  let t := e.2
  let p := s.cyc t.core
  if t.mayIssue .x then
    match s.xFetched e.1 t with
    | .ok bs =>
      match t.operandsReady (bytesWord bs), t.xStall with
      | true, some _ => s.endStall e.1 t
      | false, none =>
        if decide ((s.core t.core).nextX ≤ p) && decide (t.xNext ≤ p) then s.setTask e.1 { t with xStall := some p } else s
      | _, _ => s
    | .error _ => s
  else s.endStall e.1 t

/-- `tsc` is steered by rate: 1 ns in each 5 µs, as far as the last exchange asks (R419). -/
def State.slewed (s : State) : State :=
  if s.now % 50000 ≠ 0 ∨ s.fabric.slew = 0 then s
  else
    let d : Int := if 0 < s.fabric.slew then 1 else -1
    { s with tscAdjust := s.tscAdjust + d, fabric := { s.fabric with slew := s.fabric.slew - d } }

/-- A tenth of a nanosecond passes. -/
def State.passTime (s : State) : State :=
  let s := s.tasks.foldl State.markStall s
  (s.endCycles { s with now := s.now + 1 }).slewed

/-! ## The choice -/

/-- The first engine that issues. -/
def State.tryEngines (s : State) : Option State :=
  s.busyCores.findSome? (fun c => [Stream.a, .x, .m].findSome? (s.tryEngine c))

/-- An engine with a ready stream issues (R341), or the Rubricator; else time passes. -/
def State.goOn (s : State) : State :=
  match s.tryEngines with
  | some u => u
  | none => s.tryRub.getD s.passTime

/-- Time passes, unless a step must come first. -/
def State.pass (s : State) : State :=
  match s.dueTurns.findSome? s.tryTurn with
  | some u => u
  | none => s.goOn

/-- Without a choice from outside: what must happen, what may, the engines, the Rubricator; else time passes. -/
def State.default (s : State) : State :=
  match s.dueTurns.findSome? s.tryTurn with
  | some u => u
  | none =>
    match s.mayTurns.findSome? s.tryTurn with
    | some u => u
    | none => s.goOn

/-- A message of the fabric waits for its step; an abandonment comes as a request. -/
def State.receive (s : State) (m : FabMsg) : State :=
  match m with
  | .abandon _ _ => s
  | m => { s with fabIn := s.fabIn ++ [m] }

/-- A step that is no word may come now: it traps no task too early. -/
def State.eventMay (s : State) (i : Instr) (a : Arg) : Bool :=
  isEvent i &&
    match s.runTurn (.event i a) with
    | .next u => !s.trapsEarly u
    | _ => true

/-- A choice from outside is taken. -/
def State.take (s : State) : Pick → State
  | .engine core st => (s.tryEngine core st).getD s
  | .rub => s.tryRub.getD s
  | .event i a => if s.eventMay i a then { s with turn := .event i a } else s
  | .host m => if m.fits then { s with host := { s.host with inbox := s.host.inbox ++ [m] } } else s
  | .fabric m => s.receive m
  | .flit f => { s with flitIn := s.flitIn ++ [f] }
  | .refuse p n => s.refuseFlit p n
  | .meters m => { s with meters := m }.heatBanks
  | .flaw f lasting => { s with retries := s.retries ++ [(f, lasting)] }
  | .lane x n => s.setLevel (laneHome x) ((s.level (laneHome x)).failLane n)
  | .lag v k => s.ordered (fun o => o.lag v k (s.plainBytes (8 * k) 8))
  | .see v a m n => s.ordered (fun o => o.see v a m n)
  | .pass => s.pass

/-- The choice of the next step: what follows at once, then the agenda. A `.pass` stays on it until time has passed. -/
def State.schedule (s : State) : State :=
  match s.atOnce.findSome? s.tryTurn with
  | some u => u
  | none =>
    match s.agenda with
    | [] => s.default
    | p :: ps =>
      let u := { s with agenda := ps }.take p
      if p = .pass ∧ u.turn ≠ .idle then { u with agenda := p :: ps } else u

end Sys2Proof.Machine
end

