-- ==== Sys2Proof/Machine/Step.lean ====
section
/-! DEFINITION. One step of the machine, and a word placed where the next step fetches it. -/

namespace Sys2Proof.Machine

/-- One step: what the turn says runs, or the next turn is chosen. -/
def step (s : State) : Host.Outcome State Fault Refusal :=
  match s.turn with
  | .idle => .next s.schedule
  | .word ag => s.runWord ag
  | .event i a => s.runEvent i a

/-- A task in the words of a section of one stream, to run one word: core 0, slot 0, all 24 granules. -/
def probeTask (st : Stream) : Task :=
  let t := { Task.start [] 0 0 0 0 with slot := some 0, run := .running, win := 24 }
  t.setStream st { t.stream st with phase := .words, pc := 2, len := 2, begun := true }

/-- The page of the probe's words: the first of T1. -/
def probePage (tower : Nat) : Tlb :=
  { unit := 0, asid := 0, global := false, va := 0, size := 65536, pa := tower * 2 ^ 40, r := false, w := false, x := true,
    rights := [], failed := false }

/-- The streams may fetch from T1. -/
def probeRight : AclEntry :=
  { w0 := 0x9000000000000000#64, w1 := 0x3FFF0000#64, w2 := 0xE000000000000000#64, w3 := 0 }

/-- The state with a word of a stream as the next to run, in a task of its own. -/
def State.withStreamWord (s : State) (st : Stream) (bs : List Byte) : State :=
  let u := s.setBytes (s.tower * 2 ^ 40 + 8) bs
  { u with
    tasks := u.tasks.put u.nextTask (probeTask st), nextTask := u.nextTask + 1
    tlb := probePage u.tower :: u.tlb
    acl := u.acl.set AclEntry.empty (2048 * u.tower + 1) probeRight
    turn := .word (.task u.nextTask st) }

/-- The state with a word of the Rubricator as the next to run. -/
def State.withRubWord (s : State) (bs : List Byte) : State :=
  let u := s.setBytes (4 * s.rub.pc.toNat) bs
  { u with rub := { u.rub with running := true, halted := false, meetsBad := none, wait := none }, turn := .word .rub }

/-- The state with an instruction of the opcode table as the next to run. An A word that the Rubricator executes runs there, as
the first firmware word; any other word in a task; a step that is no word is the next turn. -/
def State.withFetchWord (s : State) (nbits w : Nat) : State :=
  let n := if nbits < 104 then w % 2 ^ 96 else w
  let v := BitVec.ofNat 96 n
  let tag := n / 2 ^ 96
  if tag = 0 then
    if rubLacks (opcode v) then s.withStreamWord .a (wordBytes v) else s.withRubWord (wordBytes v)
  else if tag = 1 then s.withStreamWord .x (wordBytes v)
  else if tag = 2 then s.withStreamWord .m (wordBytes v)
  else
    match eventNames[opcode v]? with
    | some i => { s with turn := .event i { x := 0, y := 0, z := 0 } }
    | none => s

end Sys2Proof.Machine
end

