-- ==== Sys2Proof/Laws/Maps.lean ====
section
/-! SUPPORT. Sparse arrays: what is read after a write, and that every operation keeps the canonical form. -/

namespace Sys2Proof

variable {α : Type}

/-! ## What is found -/

@[simp] theorem SMap.find?_nil (k : Nat) : SMap.find? (α := α) k [] = none := rfl

theorem SMap.find?_place_self (k : Nat) (v : α) (m : SMap α) (h : SMap.find? k m = none) :
    SMap.find? k (SMap.place k v m) = some v := by
  induction m with
  | nil => simp [SMap.place, SMap.find?]
  | cons e t ih =>
    obtain ⟨j, u⟩ := e
    simp only [SMap.place]
    split
    · simp [SMap.find?]
    · simp only [SMap.find?] at h ⊢
      split at h
      · cases h
      · rename_i hj; simp [hj, ih h]

theorem SMap.find?_place_ne (k j : Nat) (v : α) (m : SMap α) (h : j ≠ k) :
    SMap.find? j (SMap.place k v m) = SMap.find? j m := by
  induction m with
  | nil => simp [SMap.place, SMap.find?, Ne.symm h]
  | cons e t ih =>
    obtain ⟨i, u⟩ := e
    simp only [SMap.place]
    split
    · simp [SMap.find?, Ne.symm h]
    · simp [SMap.find?, ih]

@[simp] theorem SMap.find?_del_self (k : Nat) (m : SMap α) : SMap.find? k (SMap.del k m) = none := by
  induction m with
  | nil => rfl
  | cons e t ih =>
    obtain ⟨j, u⟩ := e
    simp only [SMap.del]
    split
    · exact ih
    · rename_i hj; simp [SMap.find?, hj, ih]

theorem SMap.find?_del_ne (k j : Nat) (m : SMap α) (h : j ≠ k) : SMap.find? j (SMap.del k m) = SMap.find? j m := by
  induction m with
  | nil => rfl
  | cons e t ih =>
    obtain ⟨i, u⟩ := e
    simp only [SMap.del]
    split
    · rename_i hi; simp [SMap.find?, ih, hi, Ne.symm h]
    · simp [SMap.find?, ih]

/-- What was put is found. -/
@[simp] theorem SMap.find?_put_self (k : Nat) (v : α) (m : SMap α) : SMap.find? k (SMap.put k v m) = some v :=
  find?_place_self k v _ (find?_del_self k m)

/-- What was put elsewhere changes nothing here. -/
theorem SMap.find?_put_ne (k j : Nat) (v : α) (m : SMap α) (h : j ≠ k) : SMap.find? j (SMap.put k v m) = SMap.find? j m := by
  simp [SMap.put, find?_place_ne, find?_del_ne, h]

@[simp] theorem SMap.get_set_self [DecidableEq α] (d : α) (k : Nat) (v : α) (m : SMap α) :
    SMap.get d k (SMap.set d k v m) = v := by
  simp only [SMap.get, SMap.set]
  split
  · rename_i h; simp [h]
  · simp

theorem SMap.get_set_ne [DecidableEq α] (d : α) (k j : Nat) (v : α) (m : SMap α) (h : j ≠ k) :
    SMap.get d j (SMap.set d k v m) = SMap.get d j m := by
  simp only [SMap.get, SMap.set]
  split
  · simp [find?_del_ne, h]
  · simp [find?_put_ne, h]

theorem SMap.find?_adjust (k j : Nat) (f : α → α) (m : SMap α) :
    SMap.find? j (SMap.adjust k f m) = if j = k then (SMap.find? j m).map f else SMap.find? j m := by
  induction m with
  | nil => simp [SMap.adjust]
  | cons e t ih =>
    obtain ⟨i, u⟩ := e
    simp only [SMap.adjust, SMap.find?]
    by_cases hk : i = k <;> by_cases hj : i = j <;> by_cases hjk : j = k <;> simp_all [SMap.find?]

/-- What an adjusted index lists. -/
@[simp] theorem SMap.find?_adjust_self (k : Nat) (f : α → α) (m : SMap α) :
    SMap.find? k (SMap.adjust k f m) = (SMap.find? k m).map f := by
  simp [find?_adjust]

theorem SMap.find?_adjust_ne (k j : Nat) (f : α → α) (m : SMap α) (h : j ≠ k) :
    SMap.find? j (SMap.adjust k f m) = SMap.find? j m := by
  simp [find?_adjust, h]

/-! ## The canonical form -/

/-- Every index of the array is greater than `k`. -/
def SMap.above (k : Nat) (m : SMap α) : Prop := ∀ e ∈ m, k < e.1

theorem SMap.rising_cons (e : Nat × α) (t : SMap α) : SMap.rising (e :: t) = true ↔ above e.1 t ∧ SMap.rising t = true := by
  induction t generalizing e with
  | nil => simp [SMap.rising, above]
  | cons f t ih =>
    obtain ⟨i, u⟩ := e
    obtain ⟨j, v⟩ := f
    simp only [SMap.rising, Bool.and_eq_true, decide_eq_true_eq]
    constructor
    · rintro ⟨h1, h2⟩
      refine ⟨?_, h2⟩
      intro g hg
      rcases List.mem_cons.mp hg with rfl | hg
      · exact h1
      · exact Nat.lt_trans h1 (((ih (j, v)).mp h2).1 g hg)
    · rintro ⟨h1, h2⟩
      exact ⟨h1 (j, v) (List.mem_cons_self ..), h2⟩

theorem SMap.mem_del {k : Nat} {m : SMap α} {e : Nat × α} (h : e ∈ SMap.del k m) : e ∈ m ∧ e.1 ≠ k := by
  induction m with
  | nil => cases h
  | cons f t ih =>
    obtain ⟨j, u⟩ := f
    simp only [SMap.del] at h
    split at h
    · exact ⟨List.mem_cons_of_mem _ (ih h).1, (ih h).2⟩
    · rename_i hj
      rcases List.mem_cons.mp h with rfl | h
      · exact ⟨List.mem_cons_self .., hj⟩
      · exact ⟨List.mem_cons_of_mem _ (ih h).1, (ih h).2⟩

theorem SMap.rising_del (k : Nat) (m : SMap α) (h : SMap.rising m = true) : SMap.rising (SMap.del k m) = true := by
  induction m with
  | nil => rfl
  | cons f t ih =>
    have h' := (rising_cons f t).mp h
    obtain ⟨j, u⟩ := f
    simp only [SMap.del]
    split
    · exact ih h'.2
    · exact (rising_cons _ _).mpr ⟨fun e he => h'.1 e (mem_del he).1, ih h'.2⟩

theorem SMap.mem_place {k : Nat} {v : α} {m : SMap α} {e : Nat × α} (h : e ∈ SMap.place k v m) : e = (k, v) ∨ e ∈ m := by
  induction m with
  | nil => simpa [SMap.place] using h
  | cons f t ih =>
    obtain ⟨j, u⟩ := f
    simp only [SMap.place] at h
    split at h
    · simpa using h
    · rcases List.mem_cons.mp h with rfl | h
      · exact .inr (List.mem_cons_self ..)
      · rcases ih h with rfl | h
        · exact .inl rfl
        · exact .inr (List.mem_cons_of_mem _ h)

theorem SMap.rising_place (k : Nat) (v : α) (m : SMap α) (h : SMap.rising m = true) (hk : ∀ e ∈ m, e.1 ≠ k) :
    SMap.rising (SMap.place k v m) = true := by
  induction m with
  | nil => rfl
  | cons f t ih =>
    have h' := (rising_cons f t).mp h
    have hf := hk f (List.mem_cons_self ..)
    obtain ⟨j, u⟩ := f
    simp only [SMap.place]
    split
    · rename_i hlt
      refine (rising_cons _ _).mpr ⟨?_, h⟩
      intro e he
      rcases List.mem_cons.mp he with rfl | he
      · exact hlt
      · exact Nat.lt_trans hlt (h'.1 e he)
    · rename_i hge
      refine (rising_cons _ _).mpr ⟨?_, ih h'.2 (fun e he => hk e (List.mem_cons_of_mem _ he))⟩
      intro e he
      rcases mem_place he with rfl | he
      · simp only at hf ⊢; omega
      · exact h'.1 e he

theorem SMap.rising_put (k : Nat) (v : α) (m : SMap α) (h : SMap.rising m = true) : SMap.rising (SMap.put k v m) = true :=
  rising_place k v _ (rising_del k m h) (fun _ he => (mem_del he).2)

theorem SMap.rising_filter (p : Nat × α → Bool) (m : SMap α) (h : SMap.rising m = true) : SMap.rising (m.filter p) = true := by
  induction m with
  | nil => rfl
  | cons f t ih =>
    have h' := (rising_cons f t).mp h
    simp only [List.filter_cons]
    split
    · exact (rising_cons _ _).mpr ⟨fun e he => h'.1 e (List.mem_filter.mp he).1, ih h'.2⟩
    · exact ih h'.2

/-- Writing keeps the canonical form. -/
theorem SMap.wf_set [DecidableEq α] (d : α) (k : Nat) (v : α) (m : SMap α) (h : SMap.wf d m = true) :
    SMap.wf d (SMap.set d k v m) = true := by
  simp only [SMap.wf, Bool.and_eq_true, List.all_eq_true, decide_eq_true_eq] at h ⊢
  simp only [SMap.set]
  split
  · exact ⟨rising_del k m h.1, fun e he => h.2 e (mem_del he).1⟩
  · rename_i hv
    refine ⟨rising_put k v m h.1, ?_⟩
    intro e he
    rcases mem_place he with rfl | he
    · exact hv
    · exact h.2 e (mem_del he).1

/-- Dropping entries keeps the canonical form. -/
theorem SMap.wf_filter [DecidableEq α] (d : α) (p : Nat × α → Bool) (m : SMap α) (h : SMap.wf d m = true) :
    SMap.wf d (m.filter p) = true := by
  simp only [SMap.wf, Bool.and_eq_true, List.all_eq_true, decide_eq_true_eq] at h ⊢
  exact ⟨rising_filter p m h.1, fun e he => h.2 e (List.mem_filter.mp he).1⟩

end Sys2Proof
end

