-- ==== Sys2Proof/Laws/State.lean ====
section
/-! SUPPORT. The fields of the state after each of its updates: one lemma per field per update. -/

namespace Sys2Proof.Machine

/-! ## setTask -/

@[simp] theorem State.setTask_now (s : State) (id : Nat) (t : Task) : (s.setTask id t).now = s.now := rfl
@[simp] theorem State.setTask_tscAdjust (s : State) (id : Nat) (t : Task) : (s.setTask id t).tscAdjust = s.tscAdjust := rfl
@[simp] theorem State.setTask_tower (s : State) (id : Nat) (t : Task) : (s.setTask id t).tower = s.tower := rfl
@[simp] theorem State.setTask_mem (s : State) (id : Nat) (t : Task) : (s.setTask id t).mem = s.mem := rfl
@[simp] theorem State.setTask_washed (s : State) (id : Nat) (t : Task) : (s.setTask id t).washed = s.washed := rfl
@[simp] theorem State.setTask_flaws (s : State) (id : Nat) (t : Task) : (s.setTask id t).flaws = s.flaws := rfl
@[simp] theorem State.setTask_retries (s : State) (id : Nat) (t : Task) : (s.setTask id t).retries = s.retries := rfl
@[simp] theorem State.setTask_badTiles (s : State) (id : Nat) (t : Task) : (s.setTask id t).badTiles = s.badTiles := rfl
@[simp] theorem State.setTask_levels (s : State) (id : Nat) (t : Task) : (s.setTask id t).levels = s.levels := rfl
@[simp] theorem State.setTask_frozen (s : State) (id : Nat) (t : Task) : (s.setTask id t).frozen = s.frozen := rfl
@[simp] theorem State.setTask_sealed (s : State) (id : Nat) (t : Task) : (s.setTask id t).sealed = s.sealed := rfl
@[simp] theorem State.setTask_acl (s : State) (id : Nat) (t : Task) : (s.setTask id t).acl = s.acl := rfl
@[simp] theorem State.setTask_ctl (s : State) (id : Nat) (t : Task) : (s.setTask id t).ctl = s.ctl := rfl
@[simp] theorem State.setTask_tlb (s : State) (id : Nat) (t : Task) : (s.setTask id t).tlb = s.tlb := rfl
@[simp] theorem State.setTask_walks (s : State) (id : Nat) (t : Task) : (s.setTask id t).walks = s.walks := rfl
@[simp] theorem State.setTask_nextTask (s : State) (id : Nat) (t : Task) : (s.setTask id t).nextTask = s.nextTask := rfl
@[simp] theorem State.setTask_cores (s : State) (id : Nat) (t : Task) : (s.setTask id t).cores = s.cores := rfl
@[simp] theorem State.setTask_bars (s : State) (id : Nat) (t : Task) : (s.setTask id t).bars = s.bars := rfl
@[simp] theorem State.setTask_sems (s : State) (id : Nat) (t : Task) : (s.setTask id t).sems = s.sems := rfl
@[simp] theorem State.setTask_semRegions (s : State) (id : Nat) (t : Task) : (s.setTask id t).semRegions = s.semRegions := rfl
@[simp] theorem State.setTask_clusters (s : State) (id : Nat) (t : Task) : (s.setTask id t).clusters = s.clusters := rfl
@[simp] theorem State.setTask_tiles (s : State) (id : Nat) (t : Task) : (s.setTask id t).tiles = s.tiles := rfl
@[simp] theorem State.setTask_conflicts (s : State) (id : Nat) (t : Task) : (s.setTask id t).conflicts = s.conflicts := rfl
@[simp] theorem State.setTask_monitors (s : State) (id : Nat) (t : Task) : (s.setTask id t).monitors = s.monitors := rfl
@[simp] theorem State.setTask_copies (s : State) (id : Nat) (t : Task) : (s.setTask id t).copies = s.copies := rfl
@[simp] theorem State.setTask_nextCopy (s : State) (id : Nat) (t : Task) : (s.setTask id t).nextCopy = s.nextCopy := rfl
@[simp] theorem State.setTask_arrivals (s : State) (id : Nat) (t : Task) : (s.setTask id t).arrivals = s.arrivals := rfl
@[simp] theorem State.setTask_nextArrival (s : State) (id : Nat) (t : Task) : (s.setTask id t).nextArrival = s.nextArrival := rfl
@[simp] theorem State.setTask_armings (s : State) (id : Nat) (t : Task) : (s.setTask id t).armings = s.armings := rfl
@[simp] theorem State.setTask_nextArming (s : State) (id : Nat) (t : Task) : (s.setTask id t).nextArming = s.nextArming := rfl
@[simp] theorem State.setTask_leaseOrder (s : State) (id : Nat) (t : Task) : (s.setTask id t).leaseOrder = s.leaseOrder := rfl
@[simp] theorem State.setTask_queues (s : State) (id : Nat) (t : Task) : (s.setTask id t).queues = s.queues := rfl
@[simp] theorem State.setTask_records (s : State) (id : Nat) (t : Task) : (s.setTask id t).records = s.records := rfl
@[simp] theorem State.setTask_opens (s : State) (id : Nat) (t : Task) : (s.setTask id t).opens = s.opens := rfl
@[simp] theorem State.setTask_posted (s : State) (id : Nat) (t : Task) : (s.setTask id t).posted = s.posted := rfl
@[simp] theorem State.setTask_dropped (s : State) (id : Nat) (t : Task) : (s.setTask id t).dropped = s.dropped := rfl
@[simp] theorem State.setTask_proofing (s : State) (id : Nat) (t : Task) : (s.setTask id t).proofing = s.proofing := rfl
@[simp] theorem State.setTask_failedCores (s : State) (id : Nat) (t : Task) : (s.setTask id t).failedCores = s.failedCores := rfl
@[simp] theorem State.setTask_frames (s : State) (id : Nat) (t : Task) : (s.setTask id t).frames = s.frames := rfl
@[simp] theorem State.setTask_saves (s : State) (id : Nat) (t : Task) : (s.setTask id t).saves = s.saves := rfl
@[simp] theorem State.setTask_ink (s : State) (id : Nat) (t : Task) : (s.setTask id t).ink = s.ink := rfl
@[simp] theorem State.setTask_base (s : State) (id : Nat) (t : Task) : (s.setTask id t).base = s.base := rfl
@[simp] theorem State.setTask_clocks (s : State) (id : Nat) (t : Task) : (s.setTask id t).clocks = s.clocks := rfl
@[simp] theorem State.setTask_badWords (s : State) (id : Nat) (t : Task) : (s.setTask id t).badWords = s.badWords := rfl
@[simp] theorem State.setTask_folio (s : State) (id : Nat) (t : Task) : (s.setTask id t).folio = s.folio := rfl
@[simp] theorem State.setTask_fabric (s : State) (id : Nat) (t : Task) : (s.setTask id t).fabric = s.fabric := rfl
@[simp] theorem State.setTask_remotes (s : State) (id : Nat) (t : Task) : (s.setTask id t).remotes = s.remotes := rfl
@[simp] theorem State.setTask_nextTag (s : State) (id : Nat) (t : Task) : (s.setTask id t).nextTag = s.nextTag := rfl
@[simp] theorem State.setTask_kept (s : State) (id : Nat) (t : Task) : (s.setTask id t).kept = s.kept := rfl
@[simp] theorem State.setTask_channels (s : State) (id : Nat) (t : Task) : (s.setTask id t).channels = s.channels := rfl
@[simp] theorem State.setTask_starts (s : State) (id : Nat) (t : Task) : (s.setTask id t).starts = s.starts := rfl
@[simp] theorem State.setTask_shares (s : State) (id : Nat) (t : Task) : (s.setTask id t).shares = s.shares := rfl
@[simp] theorem State.setTask_host (s : State) (id : Nat) (t : Task) : (s.setTask id t).host = s.host := rfl
@[simp] theorem State.setTask_rub (s : State) (id : Nat) (t : Task) : (s.setTask id t).rub = s.rub := rfl
@[simp] theorem State.setTask_meters (s : State) (id : Nat) (t : Task) : (s.setTask id t).meters = s.meters := rfl
@[simp] theorem State.setTask_fabIn (s : State) (id : Nat) (t : Task) : (s.setTask id t).fabIn = s.fabIn := rfl
@[simp] theorem State.setTask_flitIn (s : State) (id : Nat) (t : Task) : (s.setTask id t).flitIn = s.flitIn := rfl
@[simp] theorem State.setTask_fabOut (s : State) (id : Nat) (t : Task) : (s.setTask id t).fabOut = s.fabOut := rfl
@[simp] theorem State.setTask_flitOut (s : State) (id : Nat) (t : Task) : (s.setTask id t).flitOut = s.flitOut := rfl
@[simp] theorem State.setTask_order (s : State) (id : Nat) (t : Task) : (s.setTask id t).order = s.order := rfl
@[simp] theorem State.setTask_codes (s : State) (id : Nat) (t : Task) : (s.setTask id t).codes = s.codes := rfl
@[simp] theorem State.setTask_cur (s : State) (id : Nat) (t : Task) : (s.setTask id t).cur = s.cur := rfl
@[simp] theorem State.setTask_turn (s : State) (id : Nat) (t : Task) : (s.setTask id t).turn = s.turn := rfl
@[simp] theorem State.setTask_arg (s : State) (id : Nat) (t : Task) : (s.setTask id t).arg = s.arg := rfl
@[simp] theorem State.setTask_agenda (s : State) (id : Nat) (t : Task) : (s.setTask id t).agenda = s.agenda := rfl
@[simp] theorem State.setTask_stalled (s : State) (id : Nat) (t : Task) : (s.setTask id t).stalled = s.stalled := rfl
@[simp] theorem State.setTask_fresh (s : State) (id : Nat) (t : Task) : (s.setTask id t).fresh = s.fresh := rfl
@[simp] theorem State.setTask_tasks (s : State) (id : Nat) (t : Task) : (s.setTask id t).tasks = s.tasks.put id t := rfl

/-! ## onTask -/

@[simp] theorem State.onTask_now (s : State) (id : Nat) (f : Task → Task) : (s.onTask id f).now = s.now := rfl
@[simp] theorem State.onTask_tscAdjust (s : State) (id : Nat) (f : Task → Task) : (s.onTask id f).tscAdjust = s.tscAdjust := rfl
@[simp] theorem State.onTask_tower (s : State) (id : Nat) (f : Task → Task) : (s.onTask id f).tower = s.tower := rfl
@[simp] theorem State.onTask_mem (s : State) (id : Nat) (f : Task → Task) : (s.onTask id f).mem = s.mem := rfl
@[simp] theorem State.onTask_washed (s : State) (id : Nat) (f : Task → Task) : (s.onTask id f).washed = s.washed := rfl
@[simp] theorem State.onTask_flaws (s : State) (id : Nat) (f : Task → Task) : (s.onTask id f).flaws = s.flaws := rfl
@[simp] theorem State.onTask_retries (s : State) (id : Nat) (f : Task → Task) : (s.onTask id f).retries = s.retries := rfl
@[simp] theorem State.onTask_badTiles (s : State) (id : Nat) (f : Task → Task) : (s.onTask id f).badTiles = s.badTiles := rfl
@[simp] theorem State.onTask_levels (s : State) (id : Nat) (f : Task → Task) : (s.onTask id f).levels = s.levels := rfl
@[simp] theorem State.onTask_frozen (s : State) (id : Nat) (f : Task → Task) : (s.onTask id f).frozen = s.frozen := rfl
@[simp] theorem State.onTask_sealed (s : State) (id : Nat) (f : Task → Task) : (s.onTask id f).sealed = s.sealed := rfl
@[simp] theorem State.onTask_acl (s : State) (id : Nat) (f : Task → Task) : (s.onTask id f).acl = s.acl := rfl
@[simp] theorem State.onTask_ctl (s : State) (id : Nat) (f : Task → Task) : (s.onTask id f).ctl = s.ctl := rfl
@[simp] theorem State.onTask_tlb (s : State) (id : Nat) (f : Task → Task) : (s.onTask id f).tlb = s.tlb := rfl
@[simp] theorem State.onTask_walks (s : State) (id : Nat) (f : Task → Task) : (s.onTask id f).walks = s.walks := rfl
@[simp] theorem State.onTask_nextTask (s : State) (id : Nat) (f : Task → Task) : (s.onTask id f).nextTask = s.nextTask := rfl
@[simp] theorem State.onTask_cores (s : State) (id : Nat) (f : Task → Task) : (s.onTask id f).cores = s.cores := rfl
@[simp] theorem State.onTask_bars (s : State) (id : Nat) (f : Task → Task) : (s.onTask id f).bars = s.bars := rfl
@[simp] theorem State.onTask_sems (s : State) (id : Nat) (f : Task → Task) : (s.onTask id f).sems = s.sems := rfl
@[simp] theorem State.onTask_semRegions (s : State) (id : Nat) (f : Task → Task) : (s.onTask id f).semRegions = s.semRegions := rfl
@[simp] theorem State.onTask_clusters (s : State) (id : Nat) (f : Task → Task) : (s.onTask id f).clusters = s.clusters := rfl
@[simp] theorem State.onTask_tiles (s : State) (id : Nat) (f : Task → Task) : (s.onTask id f).tiles = s.tiles := rfl
@[simp] theorem State.onTask_conflicts (s : State) (id : Nat) (f : Task → Task) : (s.onTask id f).conflicts = s.conflicts := rfl
@[simp] theorem State.onTask_monitors (s : State) (id : Nat) (f : Task → Task) : (s.onTask id f).monitors = s.monitors := rfl
@[simp] theorem State.onTask_copies (s : State) (id : Nat) (f : Task → Task) : (s.onTask id f).copies = s.copies := rfl
@[simp] theorem State.onTask_nextCopy (s : State) (id : Nat) (f : Task → Task) : (s.onTask id f).nextCopy = s.nextCopy := rfl
@[simp] theorem State.onTask_arrivals (s : State) (id : Nat) (f : Task → Task) : (s.onTask id f).arrivals = s.arrivals := rfl
@[simp] theorem State.onTask_nextArrival (s : State) (id : Nat) (f : Task → Task) : (s.onTask id f).nextArrival = s.nextArrival := rfl
@[simp] theorem State.onTask_armings (s : State) (id : Nat) (f : Task → Task) : (s.onTask id f).armings = s.armings := rfl
@[simp] theorem State.onTask_nextArming (s : State) (id : Nat) (f : Task → Task) : (s.onTask id f).nextArming = s.nextArming := rfl
@[simp] theorem State.onTask_leaseOrder (s : State) (id : Nat) (f : Task → Task) : (s.onTask id f).leaseOrder = s.leaseOrder := rfl
@[simp] theorem State.onTask_queues (s : State) (id : Nat) (f : Task → Task) : (s.onTask id f).queues = s.queues := rfl
@[simp] theorem State.onTask_records (s : State) (id : Nat) (f : Task → Task) : (s.onTask id f).records = s.records := rfl
@[simp] theorem State.onTask_opens (s : State) (id : Nat) (f : Task → Task) : (s.onTask id f).opens = s.opens := rfl
@[simp] theorem State.onTask_posted (s : State) (id : Nat) (f : Task → Task) : (s.onTask id f).posted = s.posted := rfl
@[simp] theorem State.onTask_dropped (s : State) (id : Nat) (f : Task → Task) : (s.onTask id f).dropped = s.dropped := rfl
@[simp] theorem State.onTask_proofing (s : State) (id : Nat) (f : Task → Task) : (s.onTask id f).proofing = s.proofing := rfl
@[simp] theorem State.onTask_failedCores (s : State) (id : Nat) (f : Task → Task) : (s.onTask id f).failedCores = s.failedCores := rfl
@[simp] theorem State.onTask_frames (s : State) (id : Nat) (f : Task → Task) : (s.onTask id f).frames = s.frames := rfl
@[simp] theorem State.onTask_saves (s : State) (id : Nat) (f : Task → Task) : (s.onTask id f).saves = s.saves := rfl
@[simp] theorem State.onTask_ink (s : State) (id : Nat) (f : Task → Task) : (s.onTask id f).ink = s.ink := rfl
@[simp] theorem State.onTask_base (s : State) (id : Nat) (f : Task → Task) : (s.onTask id f).base = s.base := rfl
@[simp] theorem State.onTask_clocks (s : State) (id : Nat) (f : Task → Task) : (s.onTask id f).clocks = s.clocks := rfl
@[simp] theorem State.onTask_badWords (s : State) (id : Nat) (f : Task → Task) : (s.onTask id f).badWords = s.badWords := rfl
@[simp] theorem State.onTask_folio (s : State) (id : Nat) (f : Task → Task) : (s.onTask id f).folio = s.folio := rfl
@[simp] theorem State.onTask_fabric (s : State) (id : Nat) (f : Task → Task) : (s.onTask id f).fabric = s.fabric := rfl
@[simp] theorem State.onTask_remotes (s : State) (id : Nat) (f : Task → Task) : (s.onTask id f).remotes = s.remotes := rfl
@[simp] theorem State.onTask_nextTag (s : State) (id : Nat) (f : Task → Task) : (s.onTask id f).nextTag = s.nextTag := rfl
@[simp] theorem State.onTask_kept (s : State) (id : Nat) (f : Task → Task) : (s.onTask id f).kept = s.kept := rfl
@[simp] theorem State.onTask_channels (s : State) (id : Nat) (f : Task → Task) : (s.onTask id f).channels = s.channels := rfl
@[simp] theorem State.onTask_starts (s : State) (id : Nat) (f : Task → Task) : (s.onTask id f).starts = s.starts := rfl
@[simp] theorem State.onTask_shares (s : State) (id : Nat) (f : Task → Task) : (s.onTask id f).shares = s.shares := rfl
@[simp] theorem State.onTask_host (s : State) (id : Nat) (f : Task → Task) : (s.onTask id f).host = s.host := rfl
@[simp] theorem State.onTask_rub (s : State) (id : Nat) (f : Task → Task) : (s.onTask id f).rub = s.rub := rfl
@[simp] theorem State.onTask_meters (s : State) (id : Nat) (f : Task → Task) : (s.onTask id f).meters = s.meters := rfl
@[simp] theorem State.onTask_fabIn (s : State) (id : Nat) (f : Task → Task) : (s.onTask id f).fabIn = s.fabIn := rfl
@[simp] theorem State.onTask_flitIn (s : State) (id : Nat) (f : Task → Task) : (s.onTask id f).flitIn = s.flitIn := rfl
@[simp] theorem State.onTask_fabOut (s : State) (id : Nat) (f : Task → Task) : (s.onTask id f).fabOut = s.fabOut := rfl
@[simp] theorem State.onTask_flitOut (s : State) (id : Nat) (f : Task → Task) : (s.onTask id f).flitOut = s.flitOut := rfl
@[simp] theorem State.onTask_order (s : State) (id : Nat) (f : Task → Task) : (s.onTask id f).order = s.order := rfl
@[simp] theorem State.onTask_codes (s : State) (id : Nat) (f : Task → Task) : (s.onTask id f).codes = s.codes := rfl
@[simp] theorem State.onTask_cur (s : State) (id : Nat) (f : Task → Task) : (s.onTask id f).cur = s.cur := rfl
@[simp] theorem State.onTask_turn (s : State) (id : Nat) (f : Task → Task) : (s.onTask id f).turn = s.turn := rfl
@[simp] theorem State.onTask_arg (s : State) (id : Nat) (f : Task → Task) : (s.onTask id f).arg = s.arg := rfl
@[simp] theorem State.onTask_agenda (s : State) (id : Nat) (f : Task → Task) : (s.onTask id f).agenda = s.agenda := rfl
@[simp] theorem State.onTask_stalled (s : State) (id : Nat) (f : Task → Task) : (s.onTask id f).stalled = s.stalled := rfl
@[simp] theorem State.onTask_fresh (s : State) (id : Nat) (f : Task → Task) : (s.onTask id f).fresh = s.fresh := rfl
@[simp] theorem State.onTask_tasks (s : State) (id : Nat) (f : Task → Task) : (s.onTask id f).tasks = s.tasks.adjust id f := rfl

/-! ## setCore -/

@[simp] theorem State.setCore_now (s : State) (c : Nat) (v : Core) : (s.setCore c v).now = s.now := rfl
@[simp] theorem State.setCore_tscAdjust (s : State) (c : Nat) (v : Core) : (s.setCore c v).tscAdjust = s.tscAdjust := rfl
@[simp] theorem State.setCore_tower (s : State) (c : Nat) (v : Core) : (s.setCore c v).tower = s.tower := rfl
@[simp] theorem State.setCore_mem (s : State) (c : Nat) (v : Core) : (s.setCore c v).mem = s.mem := rfl
@[simp] theorem State.setCore_washed (s : State) (c : Nat) (v : Core) : (s.setCore c v).washed = s.washed := rfl
@[simp] theorem State.setCore_flaws (s : State) (c : Nat) (v : Core) : (s.setCore c v).flaws = s.flaws := rfl
@[simp] theorem State.setCore_retries (s : State) (c : Nat) (v : Core) : (s.setCore c v).retries = s.retries := rfl
@[simp] theorem State.setCore_badTiles (s : State) (c : Nat) (v : Core) : (s.setCore c v).badTiles = s.badTiles := rfl
@[simp] theorem State.setCore_levels (s : State) (c : Nat) (v : Core) : (s.setCore c v).levels = s.levels := rfl
@[simp] theorem State.setCore_frozen (s : State) (c : Nat) (v : Core) : (s.setCore c v).frozen = s.frozen := rfl
@[simp] theorem State.setCore_sealed (s : State) (c : Nat) (v : Core) : (s.setCore c v).sealed = s.sealed := rfl
@[simp] theorem State.setCore_acl (s : State) (c : Nat) (v : Core) : (s.setCore c v).acl = s.acl := rfl
@[simp] theorem State.setCore_ctl (s : State) (c : Nat) (v : Core) : (s.setCore c v).ctl = s.ctl := rfl
@[simp] theorem State.setCore_tlb (s : State) (c : Nat) (v : Core) : (s.setCore c v).tlb = s.tlb := rfl
@[simp] theorem State.setCore_walks (s : State) (c : Nat) (v : Core) : (s.setCore c v).walks = s.walks := rfl
@[simp] theorem State.setCore_tasks (s : State) (c : Nat) (v : Core) : (s.setCore c v).tasks = s.tasks := rfl
@[simp] theorem State.setCore_nextTask (s : State) (c : Nat) (v : Core) : (s.setCore c v).nextTask = s.nextTask := rfl
@[simp] theorem State.setCore_bars (s : State) (c : Nat) (v : Core) : (s.setCore c v).bars = s.bars := rfl
@[simp] theorem State.setCore_sems (s : State) (c : Nat) (v : Core) : (s.setCore c v).sems = s.sems := rfl
@[simp] theorem State.setCore_semRegions (s : State) (c : Nat) (v : Core) : (s.setCore c v).semRegions = s.semRegions := rfl
@[simp] theorem State.setCore_clusters (s : State) (c : Nat) (v : Core) : (s.setCore c v).clusters = s.clusters := rfl
@[simp] theorem State.setCore_tiles (s : State) (c : Nat) (v : Core) : (s.setCore c v).tiles = s.tiles := rfl
@[simp] theorem State.setCore_conflicts (s : State) (c : Nat) (v : Core) : (s.setCore c v).conflicts = s.conflicts := rfl
@[simp] theorem State.setCore_monitors (s : State) (c : Nat) (v : Core) : (s.setCore c v).monitors = s.monitors := rfl
@[simp] theorem State.setCore_copies (s : State) (c : Nat) (v : Core) : (s.setCore c v).copies = s.copies := rfl
@[simp] theorem State.setCore_nextCopy (s : State) (c : Nat) (v : Core) : (s.setCore c v).nextCopy = s.nextCopy := rfl
@[simp] theorem State.setCore_arrivals (s : State) (c : Nat) (v : Core) : (s.setCore c v).arrivals = s.arrivals := rfl
@[simp] theorem State.setCore_nextArrival (s : State) (c : Nat) (v : Core) : (s.setCore c v).nextArrival = s.nextArrival := rfl
@[simp] theorem State.setCore_armings (s : State) (c : Nat) (v : Core) : (s.setCore c v).armings = s.armings := rfl
@[simp] theorem State.setCore_nextArming (s : State) (c : Nat) (v : Core) : (s.setCore c v).nextArming = s.nextArming := rfl
@[simp] theorem State.setCore_leaseOrder (s : State) (c : Nat) (v : Core) : (s.setCore c v).leaseOrder = s.leaseOrder := rfl
@[simp] theorem State.setCore_queues (s : State) (c : Nat) (v : Core) : (s.setCore c v).queues = s.queues := rfl
@[simp] theorem State.setCore_records (s : State) (c : Nat) (v : Core) : (s.setCore c v).records = s.records := rfl
@[simp] theorem State.setCore_opens (s : State) (c : Nat) (v : Core) : (s.setCore c v).opens = s.opens := rfl
@[simp] theorem State.setCore_posted (s : State) (c : Nat) (v : Core) : (s.setCore c v).posted = s.posted := rfl
@[simp] theorem State.setCore_dropped (s : State) (c : Nat) (v : Core) : (s.setCore c v).dropped = s.dropped := rfl
@[simp] theorem State.setCore_proofing (s : State) (c : Nat) (v : Core) : (s.setCore c v).proofing = s.proofing := rfl
@[simp] theorem State.setCore_failedCores (s : State) (c : Nat) (v : Core) : (s.setCore c v).failedCores = s.failedCores := rfl
@[simp] theorem State.setCore_frames (s : State) (c : Nat) (v : Core) : (s.setCore c v).frames = s.frames := rfl
@[simp] theorem State.setCore_saves (s : State) (c : Nat) (v : Core) : (s.setCore c v).saves = s.saves := rfl
@[simp] theorem State.setCore_ink (s : State) (c : Nat) (v : Core) : (s.setCore c v).ink = s.ink := rfl
@[simp] theorem State.setCore_base (s : State) (c : Nat) (v : Core) : (s.setCore c v).base = s.base := rfl
@[simp] theorem State.setCore_clocks (s : State) (c : Nat) (v : Core) : (s.setCore c v).clocks = s.clocks := rfl
@[simp] theorem State.setCore_badWords (s : State) (c : Nat) (v : Core) : (s.setCore c v).badWords = s.badWords := rfl
@[simp] theorem State.setCore_folio (s : State) (c : Nat) (v : Core) : (s.setCore c v).folio = s.folio := rfl
@[simp] theorem State.setCore_fabric (s : State) (c : Nat) (v : Core) : (s.setCore c v).fabric = s.fabric := rfl
@[simp] theorem State.setCore_remotes (s : State) (c : Nat) (v : Core) : (s.setCore c v).remotes = s.remotes := rfl
@[simp] theorem State.setCore_nextTag (s : State) (c : Nat) (v : Core) : (s.setCore c v).nextTag = s.nextTag := rfl
@[simp] theorem State.setCore_kept (s : State) (c : Nat) (v : Core) : (s.setCore c v).kept = s.kept := rfl
@[simp] theorem State.setCore_channels (s : State) (c : Nat) (v : Core) : (s.setCore c v).channels = s.channels := rfl
@[simp] theorem State.setCore_starts (s : State) (c : Nat) (v : Core) : (s.setCore c v).starts = s.starts := rfl
@[simp] theorem State.setCore_shares (s : State) (c : Nat) (v : Core) : (s.setCore c v).shares = s.shares := rfl
@[simp] theorem State.setCore_host (s : State) (c : Nat) (v : Core) : (s.setCore c v).host = s.host := rfl
@[simp] theorem State.setCore_rub (s : State) (c : Nat) (v : Core) : (s.setCore c v).rub = s.rub := rfl
@[simp] theorem State.setCore_meters (s : State) (c : Nat) (v : Core) : (s.setCore c v).meters = s.meters := rfl
@[simp] theorem State.setCore_fabIn (s : State) (c : Nat) (v : Core) : (s.setCore c v).fabIn = s.fabIn := rfl
@[simp] theorem State.setCore_flitIn (s : State) (c : Nat) (v : Core) : (s.setCore c v).flitIn = s.flitIn := rfl
@[simp] theorem State.setCore_fabOut (s : State) (c : Nat) (v : Core) : (s.setCore c v).fabOut = s.fabOut := rfl
@[simp] theorem State.setCore_flitOut (s : State) (c : Nat) (v : Core) : (s.setCore c v).flitOut = s.flitOut := rfl
@[simp] theorem State.setCore_order (s : State) (c : Nat) (v : Core) : (s.setCore c v).order = s.order := rfl
@[simp] theorem State.setCore_codes (s : State) (c : Nat) (v : Core) : (s.setCore c v).codes = s.codes := rfl
@[simp] theorem State.setCore_cur (s : State) (c : Nat) (v : Core) : (s.setCore c v).cur = s.cur := rfl
@[simp] theorem State.setCore_turn (s : State) (c : Nat) (v : Core) : (s.setCore c v).turn = s.turn := rfl
@[simp] theorem State.setCore_arg (s : State) (c : Nat) (v : Core) : (s.setCore c v).arg = s.arg := rfl
@[simp] theorem State.setCore_agenda (s : State) (c : Nat) (v : Core) : (s.setCore c v).agenda = s.agenda := rfl
@[simp] theorem State.setCore_stalled (s : State) (c : Nat) (v : Core) : (s.setCore c v).stalled = s.stalled := rfl
@[simp] theorem State.setCore_fresh (s : State) (c : Nat) (v : Core) : (s.setCore c v).fresh = s.fresh := rfl
@[simp] theorem State.setCore_cores (s : State) (c : Nat) (v : Core) : (s.setCore c v).cores = s.cores.set Core.reset c v := rfl

/-! ## setCluster -/

@[simp] theorem State.setCluster_now (s : State) (c : Nat) (v : Cluster) : (s.setCluster c v).now = s.now := rfl
@[simp] theorem State.setCluster_tscAdjust (s : State) (c : Nat) (v : Cluster) : (s.setCluster c v).tscAdjust = s.tscAdjust := rfl
@[simp] theorem State.setCluster_tower (s : State) (c : Nat) (v : Cluster) : (s.setCluster c v).tower = s.tower := rfl
@[simp] theorem State.setCluster_mem (s : State) (c : Nat) (v : Cluster) : (s.setCluster c v).mem = s.mem := rfl
@[simp] theorem State.setCluster_washed (s : State) (c : Nat) (v : Cluster) : (s.setCluster c v).washed = s.washed := rfl
@[simp] theorem State.setCluster_flaws (s : State) (c : Nat) (v : Cluster) : (s.setCluster c v).flaws = s.flaws := rfl
@[simp] theorem State.setCluster_retries (s : State) (c : Nat) (v : Cluster) : (s.setCluster c v).retries = s.retries := rfl
@[simp] theorem State.setCluster_badTiles (s : State) (c : Nat) (v : Cluster) : (s.setCluster c v).badTiles = s.badTiles := rfl
@[simp] theorem State.setCluster_levels (s : State) (c : Nat) (v : Cluster) : (s.setCluster c v).levels = s.levels := rfl
@[simp] theorem State.setCluster_frozen (s : State) (c : Nat) (v : Cluster) : (s.setCluster c v).frozen = s.frozen := rfl
@[simp] theorem State.setCluster_sealed (s : State) (c : Nat) (v : Cluster) : (s.setCluster c v).sealed = s.sealed := rfl
@[simp] theorem State.setCluster_acl (s : State) (c : Nat) (v : Cluster) : (s.setCluster c v).acl = s.acl := rfl
@[simp] theorem State.setCluster_ctl (s : State) (c : Nat) (v : Cluster) : (s.setCluster c v).ctl = s.ctl := rfl
@[simp] theorem State.setCluster_tlb (s : State) (c : Nat) (v : Cluster) : (s.setCluster c v).tlb = s.tlb := rfl
@[simp] theorem State.setCluster_walks (s : State) (c : Nat) (v : Cluster) : (s.setCluster c v).walks = s.walks := rfl
@[simp] theorem State.setCluster_tasks (s : State) (c : Nat) (v : Cluster) : (s.setCluster c v).tasks = s.tasks := rfl
@[simp] theorem State.setCluster_nextTask (s : State) (c : Nat) (v : Cluster) : (s.setCluster c v).nextTask = s.nextTask := rfl
@[simp] theorem State.setCluster_cores (s : State) (c : Nat) (v : Cluster) : (s.setCluster c v).cores = s.cores := rfl
@[simp] theorem State.setCluster_bars (s : State) (c : Nat) (v : Cluster) : (s.setCluster c v).bars = s.bars := rfl
@[simp] theorem State.setCluster_sems (s : State) (c : Nat) (v : Cluster) : (s.setCluster c v).sems = s.sems := rfl
@[simp] theorem State.setCluster_semRegions (s : State) (c : Nat) (v : Cluster) : (s.setCluster c v).semRegions = s.semRegions := rfl
@[simp] theorem State.setCluster_tiles (s : State) (c : Nat) (v : Cluster) : (s.setCluster c v).tiles = s.tiles := rfl
@[simp] theorem State.setCluster_conflicts (s : State) (c : Nat) (v : Cluster) : (s.setCluster c v).conflicts = s.conflicts := rfl
@[simp] theorem State.setCluster_monitors (s : State) (c : Nat) (v : Cluster) : (s.setCluster c v).monitors = s.monitors := rfl
@[simp] theorem State.setCluster_copies (s : State) (c : Nat) (v : Cluster) : (s.setCluster c v).copies = s.copies := rfl
@[simp] theorem State.setCluster_nextCopy (s : State) (c : Nat) (v : Cluster) : (s.setCluster c v).nextCopy = s.nextCopy := rfl
@[simp] theorem State.setCluster_arrivals (s : State) (c : Nat) (v : Cluster) : (s.setCluster c v).arrivals = s.arrivals := rfl
@[simp] theorem State.setCluster_nextArrival (s : State) (c : Nat) (v : Cluster) : (s.setCluster c v).nextArrival = s.nextArrival := rfl
@[simp] theorem State.setCluster_armings (s : State) (c : Nat) (v : Cluster) : (s.setCluster c v).armings = s.armings := rfl
@[simp] theorem State.setCluster_nextArming (s : State) (c : Nat) (v : Cluster) : (s.setCluster c v).nextArming = s.nextArming := rfl
@[simp] theorem State.setCluster_leaseOrder (s : State) (c : Nat) (v : Cluster) : (s.setCluster c v).leaseOrder = s.leaseOrder := rfl
@[simp] theorem State.setCluster_queues (s : State) (c : Nat) (v : Cluster) : (s.setCluster c v).queues = s.queues := rfl
@[simp] theorem State.setCluster_records (s : State) (c : Nat) (v : Cluster) : (s.setCluster c v).records = s.records := rfl
@[simp] theorem State.setCluster_opens (s : State) (c : Nat) (v : Cluster) : (s.setCluster c v).opens = s.opens := rfl
@[simp] theorem State.setCluster_posted (s : State) (c : Nat) (v : Cluster) : (s.setCluster c v).posted = s.posted := rfl
@[simp] theorem State.setCluster_dropped (s : State) (c : Nat) (v : Cluster) : (s.setCluster c v).dropped = s.dropped := rfl
@[simp] theorem State.setCluster_proofing (s : State) (c : Nat) (v : Cluster) : (s.setCluster c v).proofing = s.proofing := rfl
@[simp] theorem State.setCluster_failedCores (s : State) (c : Nat) (v : Cluster) : (s.setCluster c v).failedCores = s.failedCores := rfl
@[simp] theorem State.setCluster_frames (s : State) (c : Nat) (v : Cluster) : (s.setCluster c v).frames = s.frames := rfl
@[simp] theorem State.setCluster_saves (s : State) (c : Nat) (v : Cluster) : (s.setCluster c v).saves = s.saves := rfl
@[simp] theorem State.setCluster_ink (s : State) (c : Nat) (v : Cluster) : (s.setCluster c v).ink = s.ink := rfl
@[simp] theorem State.setCluster_base (s : State) (c : Nat) (v : Cluster) : (s.setCluster c v).base = s.base := rfl
@[simp] theorem State.setCluster_clocks (s : State) (c : Nat) (v : Cluster) : (s.setCluster c v).clocks = s.clocks := rfl
@[simp] theorem State.setCluster_badWords (s : State) (c : Nat) (v : Cluster) : (s.setCluster c v).badWords = s.badWords := rfl
@[simp] theorem State.setCluster_folio (s : State) (c : Nat) (v : Cluster) : (s.setCluster c v).folio = s.folio := rfl
@[simp] theorem State.setCluster_fabric (s : State) (c : Nat) (v : Cluster) : (s.setCluster c v).fabric = s.fabric := rfl
@[simp] theorem State.setCluster_remotes (s : State) (c : Nat) (v : Cluster) : (s.setCluster c v).remotes = s.remotes := rfl
@[simp] theorem State.setCluster_nextTag (s : State) (c : Nat) (v : Cluster) : (s.setCluster c v).nextTag = s.nextTag := rfl
@[simp] theorem State.setCluster_kept (s : State) (c : Nat) (v : Cluster) : (s.setCluster c v).kept = s.kept := rfl
@[simp] theorem State.setCluster_channels (s : State) (c : Nat) (v : Cluster) : (s.setCluster c v).channels = s.channels := rfl
@[simp] theorem State.setCluster_starts (s : State) (c : Nat) (v : Cluster) : (s.setCluster c v).starts = s.starts := rfl
@[simp] theorem State.setCluster_shares (s : State) (c : Nat) (v : Cluster) : (s.setCluster c v).shares = s.shares := rfl
@[simp] theorem State.setCluster_host (s : State) (c : Nat) (v : Cluster) : (s.setCluster c v).host = s.host := rfl
@[simp] theorem State.setCluster_rub (s : State) (c : Nat) (v : Cluster) : (s.setCluster c v).rub = s.rub := rfl
@[simp] theorem State.setCluster_meters (s : State) (c : Nat) (v : Cluster) : (s.setCluster c v).meters = s.meters := rfl
@[simp] theorem State.setCluster_fabIn (s : State) (c : Nat) (v : Cluster) : (s.setCluster c v).fabIn = s.fabIn := rfl
@[simp] theorem State.setCluster_flitIn (s : State) (c : Nat) (v : Cluster) : (s.setCluster c v).flitIn = s.flitIn := rfl
@[simp] theorem State.setCluster_fabOut (s : State) (c : Nat) (v : Cluster) : (s.setCluster c v).fabOut = s.fabOut := rfl
@[simp] theorem State.setCluster_flitOut (s : State) (c : Nat) (v : Cluster) : (s.setCluster c v).flitOut = s.flitOut := rfl
@[simp] theorem State.setCluster_order (s : State) (c : Nat) (v : Cluster) : (s.setCluster c v).order = s.order := rfl
@[simp] theorem State.setCluster_codes (s : State) (c : Nat) (v : Cluster) : (s.setCluster c v).codes = s.codes := rfl
@[simp] theorem State.setCluster_cur (s : State) (c : Nat) (v : Cluster) : (s.setCluster c v).cur = s.cur := rfl
@[simp] theorem State.setCluster_turn (s : State) (c : Nat) (v : Cluster) : (s.setCluster c v).turn = s.turn := rfl
@[simp] theorem State.setCluster_arg (s : State) (c : Nat) (v : Cluster) : (s.setCluster c v).arg = s.arg := rfl
@[simp] theorem State.setCluster_agenda (s : State) (c : Nat) (v : Cluster) : (s.setCluster c v).agenda = s.agenda := rfl
@[simp] theorem State.setCluster_stalled (s : State) (c : Nat) (v : Cluster) : (s.setCluster c v).stalled = s.stalled := rfl
@[simp] theorem State.setCluster_fresh (s : State) (c : Nat) (v : Cluster) : (s.setCluster c v).fresh = s.fresh := rfl
@[simp] theorem State.setCluster_clusters (s : State) (c : Nat) (v : Cluster) : (s.setCluster c v).clusters = s.clusters.set Cluster.reset c v := rfl

/-! ## setByte -/

@[simp] theorem State.setByte_now (s : State) (a : Nat) (b : Byte) : (s.setByte a b).now = s.now := rfl
@[simp] theorem State.setByte_tscAdjust (s : State) (a : Nat) (b : Byte) : (s.setByte a b).tscAdjust = s.tscAdjust := rfl
@[simp] theorem State.setByte_tower (s : State) (a : Nat) (b : Byte) : (s.setByte a b).tower = s.tower := rfl
@[simp] theorem State.setByte_washed (s : State) (a : Nat) (b : Byte) : (s.setByte a b).washed = s.washed := rfl
@[simp] theorem State.setByte_flaws (s : State) (a : Nat) (b : Byte) : (s.setByte a b).flaws = s.flaws := rfl
@[simp] theorem State.setByte_retries (s : State) (a : Nat) (b : Byte) : (s.setByte a b).retries = s.retries := rfl
@[simp] theorem State.setByte_badTiles (s : State) (a : Nat) (b : Byte) : (s.setByte a b).badTiles = s.badTiles := rfl
@[simp] theorem State.setByte_levels (s : State) (a : Nat) (b : Byte) : (s.setByte a b).levels = s.levels := rfl
@[simp] theorem State.setByte_frozen (s : State) (a : Nat) (b : Byte) : (s.setByte a b).frozen = s.frozen := rfl
@[simp] theorem State.setByte_sealed (s : State) (a : Nat) (b : Byte) : (s.setByte a b).sealed = s.sealed := rfl
@[simp] theorem State.setByte_acl (s : State) (a : Nat) (b : Byte) : (s.setByte a b).acl = s.acl := rfl
@[simp] theorem State.setByte_ctl (s : State) (a : Nat) (b : Byte) : (s.setByte a b).ctl = s.ctl := rfl
@[simp] theorem State.setByte_tlb (s : State) (a : Nat) (b : Byte) : (s.setByte a b).tlb = s.tlb := rfl
@[simp] theorem State.setByte_walks (s : State) (a : Nat) (b : Byte) : (s.setByte a b).walks = s.walks := rfl
@[simp] theorem State.setByte_tasks (s : State) (a : Nat) (b : Byte) : (s.setByte a b).tasks = s.tasks := rfl
@[simp] theorem State.setByte_nextTask (s : State) (a : Nat) (b : Byte) : (s.setByte a b).nextTask = s.nextTask := rfl
@[simp] theorem State.setByte_cores (s : State) (a : Nat) (b : Byte) : (s.setByte a b).cores = s.cores := rfl
@[simp] theorem State.setByte_bars (s : State) (a : Nat) (b : Byte) : (s.setByte a b).bars = s.bars := rfl
@[simp] theorem State.setByte_sems (s : State) (a : Nat) (b : Byte) : (s.setByte a b).sems = s.sems := rfl
@[simp] theorem State.setByte_semRegions (s : State) (a : Nat) (b : Byte) : (s.setByte a b).semRegions = s.semRegions := rfl
@[simp] theorem State.setByte_clusters (s : State) (a : Nat) (b : Byte) : (s.setByte a b).clusters = s.clusters := rfl
@[simp] theorem State.setByte_tiles (s : State) (a : Nat) (b : Byte) : (s.setByte a b).tiles = s.tiles := rfl
@[simp] theorem State.setByte_conflicts (s : State) (a : Nat) (b : Byte) : (s.setByte a b).conflicts = s.conflicts := rfl
@[simp] theorem State.setByte_monitors (s : State) (a : Nat) (b : Byte) : (s.setByte a b).monitors = s.monitors := rfl
@[simp] theorem State.setByte_copies (s : State) (a : Nat) (b : Byte) : (s.setByte a b).copies = s.copies := rfl
@[simp] theorem State.setByte_nextCopy (s : State) (a : Nat) (b : Byte) : (s.setByte a b).nextCopy = s.nextCopy := rfl
@[simp] theorem State.setByte_arrivals (s : State) (a : Nat) (b : Byte) : (s.setByte a b).arrivals = s.arrivals := rfl
@[simp] theorem State.setByte_nextArrival (s : State) (a : Nat) (b : Byte) : (s.setByte a b).nextArrival = s.nextArrival := rfl
@[simp] theorem State.setByte_armings (s : State) (a : Nat) (b : Byte) : (s.setByte a b).armings = s.armings := rfl
@[simp] theorem State.setByte_nextArming (s : State) (a : Nat) (b : Byte) : (s.setByte a b).nextArming = s.nextArming := rfl
@[simp] theorem State.setByte_leaseOrder (s : State) (a : Nat) (b : Byte) : (s.setByte a b).leaseOrder = s.leaseOrder := rfl
@[simp] theorem State.setByte_queues (s : State) (a : Nat) (b : Byte) : (s.setByte a b).queues = s.queues := rfl
@[simp] theorem State.setByte_records (s : State) (a : Nat) (b : Byte) : (s.setByte a b).records = s.records := rfl
@[simp] theorem State.setByte_opens (s : State) (a : Nat) (b : Byte) : (s.setByte a b).opens = s.opens := rfl
@[simp] theorem State.setByte_posted (s : State) (a : Nat) (b : Byte) : (s.setByte a b).posted = s.posted := rfl
@[simp] theorem State.setByte_dropped (s : State) (a : Nat) (b : Byte) : (s.setByte a b).dropped = s.dropped := rfl
@[simp] theorem State.setByte_proofing (s : State) (a : Nat) (b : Byte) : (s.setByte a b).proofing = s.proofing := rfl
@[simp] theorem State.setByte_failedCores (s : State) (a : Nat) (b : Byte) : (s.setByte a b).failedCores = s.failedCores := rfl
@[simp] theorem State.setByte_frames (s : State) (a : Nat) (b : Byte) : (s.setByte a b).frames = s.frames := rfl
@[simp] theorem State.setByte_saves (s : State) (a : Nat) (b : Byte) : (s.setByte a b).saves = s.saves := rfl
@[simp] theorem State.setByte_ink (s : State) (a : Nat) (b : Byte) : (s.setByte a b).ink = s.ink := rfl
@[simp] theorem State.setByte_base (s : State) (a : Nat) (b : Byte) : (s.setByte a b).base = s.base := rfl
@[simp] theorem State.setByte_clocks (s : State) (a : Nat) (b : Byte) : (s.setByte a b).clocks = s.clocks := rfl
@[simp] theorem State.setByte_badWords (s : State) (a : Nat) (b : Byte) : (s.setByte a b).badWords = s.badWords := rfl
@[simp] theorem State.setByte_folio (s : State) (a : Nat) (b : Byte) : (s.setByte a b).folio = s.folio := rfl
@[simp] theorem State.setByte_fabric (s : State) (a : Nat) (b : Byte) : (s.setByte a b).fabric = s.fabric := rfl
@[simp] theorem State.setByte_remotes (s : State) (a : Nat) (b : Byte) : (s.setByte a b).remotes = s.remotes := rfl
@[simp] theorem State.setByte_nextTag (s : State) (a : Nat) (b : Byte) : (s.setByte a b).nextTag = s.nextTag := rfl
@[simp] theorem State.setByte_kept (s : State) (a : Nat) (b : Byte) : (s.setByte a b).kept = s.kept := rfl
@[simp] theorem State.setByte_channels (s : State) (a : Nat) (b : Byte) : (s.setByte a b).channels = s.channels := rfl
@[simp] theorem State.setByte_starts (s : State) (a : Nat) (b : Byte) : (s.setByte a b).starts = s.starts := rfl
@[simp] theorem State.setByte_shares (s : State) (a : Nat) (b : Byte) : (s.setByte a b).shares = s.shares := rfl
@[simp] theorem State.setByte_host (s : State) (a : Nat) (b : Byte) : (s.setByte a b).host = s.host := rfl
@[simp] theorem State.setByte_rub (s : State) (a : Nat) (b : Byte) : (s.setByte a b).rub = s.rub := rfl
@[simp] theorem State.setByte_meters (s : State) (a : Nat) (b : Byte) : (s.setByte a b).meters = s.meters := rfl
@[simp] theorem State.setByte_fabIn (s : State) (a : Nat) (b : Byte) : (s.setByte a b).fabIn = s.fabIn := rfl
@[simp] theorem State.setByte_flitIn (s : State) (a : Nat) (b : Byte) : (s.setByte a b).flitIn = s.flitIn := rfl
@[simp] theorem State.setByte_fabOut (s : State) (a : Nat) (b : Byte) : (s.setByte a b).fabOut = s.fabOut := rfl
@[simp] theorem State.setByte_flitOut (s : State) (a : Nat) (b : Byte) : (s.setByte a b).flitOut = s.flitOut := rfl
@[simp] theorem State.setByte_order (s : State) (a : Nat) (b : Byte) : (s.setByte a b).order = s.order := rfl
@[simp] theorem State.setByte_codes (s : State) (a : Nat) (b : Byte) : (s.setByte a b).codes = s.codes := rfl
@[simp] theorem State.setByte_cur (s : State) (a : Nat) (b : Byte) : (s.setByte a b).cur = s.cur := rfl
@[simp] theorem State.setByte_turn (s : State) (a : Nat) (b : Byte) : (s.setByte a b).turn = s.turn := rfl
@[simp] theorem State.setByte_arg (s : State) (a : Nat) (b : Byte) : (s.setByte a b).arg = s.arg := rfl
@[simp] theorem State.setByte_agenda (s : State) (a : Nat) (b : Byte) : (s.setByte a b).agenda = s.agenda := rfl
@[simp] theorem State.setByte_stalled (s : State) (a : Nat) (b : Byte) : (s.setByte a b).stalled = s.stalled := rfl
@[simp] theorem State.setByte_fresh (s : State) (a : Nat) (b : Byte) : (s.setByte a b).fresh = s.fresh := rfl
@[simp] theorem State.setByte_mem (s : State) (a : Nat) (b : Byte) : (s.setByte a b).mem = SMap.set (α := Byte) 0 a b s.mem := rfl

/-! ## setBar -/

@[simp] theorem State.setBar_now (s : State) (c n : Nat) (b : Barrier) : (s.setBar c n b).now = s.now := rfl
@[simp] theorem State.setBar_tscAdjust (s : State) (c n : Nat) (b : Barrier) : (s.setBar c n b).tscAdjust = s.tscAdjust := rfl
@[simp] theorem State.setBar_tower (s : State) (c n : Nat) (b : Barrier) : (s.setBar c n b).tower = s.tower := rfl
@[simp] theorem State.setBar_mem (s : State) (c n : Nat) (b : Barrier) : (s.setBar c n b).mem = s.mem := rfl
@[simp] theorem State.setBar_washed (s : State) (c n : Nat) (b : Barrier) : (s.setBar c n b).washed = s.washed := rfl
@[simp] theorem State.setBar_flaws (s : State) (c n : Nat) (b : Barrier) : (s.setBar c n b).flaws = s.flaws := rfl
@[simp] theorem State.setBar_retries (s : State) (c n : Nat) (b : Barrier) : (s.setBar c n b).retries = s.retries := rfl
@[simp] theorem State.setBar_badTiles (s : State) (c n : Nat) (b : Barrier) : (s.setBar c n b).badTiles = s.badTiles := rfl
@[simp] theorem State.setBar_levels (s : State) (c n : Nat) (b : Barrier) : (s.setBar c n b).levels = s.levels := rfl
@[simp] theorem State.setBar_frozen (s : State) (c n : Nat) (b : Barrier) : (s.setBar c n b).frozen = s.frozen := rfl
@[simp] theorem State.setBar_sealed (s : State) (c n : Nat) (b : Barrier) : (s.setBar c n b).sealed = s.sealed := rfl
@[simp] theorem State.setBar_acl (s : State) (c n : Nat) (b : Barrier) : (s.setBar c n b).acl = s.acl := rfl
@[simp] theorem State.setBar_ctl (s : State) (c n : Nat) (b : Barrier) : (s.setBar c n b).ctl = s.ctl := rfl
@[simp] theorem State.setBar_tlb (s : State) (c n : Nat) (b : Barrier) : (s.setBar c n b).tlb = s.tlb := rfl
@[simp] theorem State.setBar_walks (s : State) (c n : Nat) (b : Barrier) : (s.setBar c n b).walks = s.walks := rfl
@[simp] theorem State.setBar_tasks (s : State) (c n : Nat) (b : Barrier) : (s.setBar c n b).tasks = s.tasks := rfl
@[simp] theorem State.setBar_nextTask (s : State) (c n : Nat) (b : Barrier) : (s.setBar c n b).nextTask = s.nextTask := rfl
@[simp] theorem State.setBar_cores (s : State) (c n : Nat) (b : Barrier) : (s.setBar c n b).cores = s.cores := rfl
@[simp] theorem State.setBar_sems (s : State) (c n : Nat) (b : Barrier) : (s.setBar c n b).sems = s.sems := rfl
@[simp] theorem State.setBar_semRegions (s : State) (c n : Nat) (b : Barrier) : (s.setBar c n b).semRegions = s.semRegions := rfl
@[simp] theorem State.setBar_clusters (s : State) (c n : Nat) (b : Barrier) : (s.setBar c n b).clusters = s.clusters := rfl
@[simp] theorem State.setBar_tiles (s : State) (c n : Nat) (b : Barrier) : (s.setBar c n b).tiles = s.tiles := rfl
@[simp] theorem State.setBar_conflicts (s : State) (c n : Nat) (b : Barrier) : (s.setBar c n b).conflicts = s.conflicts := rfl
@[simp] theorem State.setBar_monitors (s : State) (c n : Nat) (b : Barrier) : (s.setBar c n b).monitors = s.monitors := rfl
@[simp] theorem State.setBar_copies (s : State) (c n : Nat) (b : Barrier) : (s.setBar c n b).copies = s.copies := rfl
@[simp] theorem State.setBar_nextCopy (s : State) (c n : Nat) (b : Barrier) : (s.setBar c n b).nextCopy = s.nextCopy := rfl
@[simp] theorem State.setBar_arrivals (s : State) (c n : Nat) (b : Barrier) : (s.setBar c n b).arrivals = s.arrivals := rfl
@[simp] theorem State.setBar_nextArrival (s : State) (c n : Nat) (b : Barrier) : (s.setBar c n b).nextArrival = s.nextArrival := rfl
@[simp] theorem State.setBar_armings (s : State) (c n : Nat) (b : Barrier) : (s.setBar c n b).armings = s.armings := rfl
@[simp] theorem State.setBar_nextArming (s : State) (c n : Nat) (b : Barrier) : (s.setBar c n b).nextArming = s.nextArming := rfl
@[simp] theorem State.setBar_leaseOrder (s : State) (c n : Nat) (b : Barrier) : (s.setBar c n b).leaseOrder = s.leaseOrder := rfl
@[simp] theorem State.setBar_queues (s : State) (c n : Nat) (b : Barrier) : (s.setBar c n b).queues = s.queues := rfl
@[simp] theorem State.setBar_records (s : State) (c n : Nat) (b : Barrier) : (s.setBar c n b).records = s.records := rfl
@[simp] theorem State.setBar_opens (s : State) (c n : Nat) (b : Barrier) : (s.setBar c n b).opens = s.opens := rfl
@[simp] theorem State.setBar_posted (s : State) (c n : Nat) (b : Barrier) : (s.setBar c n b).posted = s.posted := rfl
@[simp] theorem State.setBar_dropped (s : State) (c n : Nat) (b : Barrier) : (s.setBar c n b).dropped = s.dropped := rfl
@[simp] theorem State.setBar_proofing (s : State) (c n : Nat) (b : Barrier) : (s.setBar c n b).proofing = s.proofing := rfl
@[simp] theorem State.setBar_failedCores (s : State) (c n : Nat) (b : Barrier) : (s.setBar c n b).failedCores = s.failedCores := rfl
@[simp] theorem State.setBar_frames (s : State) (c n : Nat) (b : Barrier) : (s.setBar c n b).frames = s.frames := rfl
@[simp] theorem State.setBar_saves (s : State) (c n : Nat) (b : Barrier) : (s.setBar c n b).saves = s.saves := rfl
@[simp] theorem State.setBar_ink (s : State) (c n : Nat) (b : Barrier) : (s.setBar c n b).ink = s.ink := rfl
@[simp] theorem State.setBar_base (s : State) (c n : Nat) (b : Barrier) : (s.setBar c n b).base = s.base := rfl
@[simp] theorem State.setBar_clocks (s : State) (c n : Nat) (b : Barrier) : (s.setBar c n b).clocks = s.clocks := rfl
@[simp] theorem State.setBar_badWords (s : State) (c n : Nat) (b : Barrier) : (s.setBar c n b).badWords = s.badWords := rfl
@[simp] theorem State.setBar_folio (s : State) (c n : Nat) (b : Barrier) : (s.setBar c n b).folio = s.folio := rfl
@[simp] theorem State.setBar_fabric (s : State) (c n : Nat) (b : Barrier) : (s.setBar c n b).fabric = s.fabric := rfl
@[simp] theorem State.setBar_remotes (s : State) (c n : Nat) (b : Barrier) : (s.setBar c n b).remotes = s.remotes := rfl
@[simp] theorem State.setBar_nextTag (s : State) (c n : Nat) (b : Barrier) : (s.setBar c n b).nextTag = s.nextTag := rfl
@[simp] theorem State.setBar_kept (s : State) (c n : Nat) (b : Barrier) : (s.setBar c n b).kept = s.kept := rfl
@[simp] theorem State.setBar_channels (s : State) (c n : Nat) (b : Barrier) : (s.setBar c n b).channels = s.channels := rfl
@[simp] theorem State.setBar_starts (s : State) (c n : Nat) (b : Barrier) : (s.setBar c n b).starts = s.starts := rfl
@[simp] theorem State.setBar_shares (s : State) (c n : Nat) (b : Barrier) : (s.setBar c n b).shares = s.shares := rfl
@[simp] theorem State.setBar_host (s : State) (c n : Nat) (b : Barrier) : (s.setBar c n b).host = s.host := rfl
@[simp] theorem State.setBar_rub (s : State) (c n : Nat) (b : Barrier) : (s.setBar c n b).rub = s.rub := rfl
@[simp] theorem State.setBar_meters (s : State) (c n : Nat) (b : Barrier) : (s.setBar c n b).meters = s.meters := rfl
@[simp] theorem State.setBar_fabIn (s : State) (c n : Nat) (b : Barrier) : (s.setBar c n b).fabIn = s.fabIn := rfl
@[simp] theorem State.setBar_flitIn (s : State) (c n : Nat) (b : Barrier) : (s.setBar c n b).flitIn = s.flitIn := rfl
@[simp] theorem State.setBar_fabOut (s : State) (c n : Nat) (b : Barrier) : (s.setBar c n b).fabOut = s.fabOut := rfl
@[simp] theorem State.setBar_flitOut (s : State) (c n : Nat) (b : Barrier) : (s.setBar c n b).flitOut = s.flitOut := rfl
@[simp] theorem State.setBar_order (s : State) (c n : Nat) (b : Barrier) : (s.setBar c n b).order = s.order := rfl
@[simp] theorem State.setBar_codes (s : State) (c n : Nat) (b : Barrier) : (s.setBar c n b).codes = s.codes := rfl
@[simp] theorem State.setBar_cur (s : State) (c n : Nat) (b : Barrier) : (s.setBar c n b).cur = s.cur := rfl
@[simp] theorem State.setBar_turn (s : State) (c n : Nat) (b : Barrier) : (s.setBar c n b).turn = s.turn := rfl
@[simp] theorem State.setBar_arg (s : State) (c n : Nat) (b : Barrier) : (s.setBar c n b).arg = s.arg := rfl
@[simp] theorem State.setBar_agenda (s : State) (c n : Nat) (b : Barrier) : (s.setBar c n b).agenda = s.agenda := rfl
@[simp] theorem State.setBar_stalled (s : State) (c n : Nat) (b : Barrier) : (s.setBar c n b).stalled = s.stalled := rfl
@[simp] theorem State.setBar_fresh (s : State) (c n : Nat) (b : Barrier) : (s.setBar c n b).fresh = s.fresh := rfl

/-! ## setMonitor -/

@[simp] theorem State.setMonitor_now (s : State) (c u : Nat) (m : Monitor) : (s.setMonitor c u m).now = s.now := rfl
@[simp] theorem State.setMonitor_tscAdjust (s : State) (c u : Nat) (m : Monitor) : (s.setMonitor c u m).tscAdjust = s.tscAdjust := rfl
@[simp] theorem State.setMonitor_tower (s : State) (c u : Nat) (m : Monitor) : (s.setMonitor c u m).tower = s.tower := rfl
@[simp] theorem State.setMonitor_mem (s : State) (c u : Nat) (m : Monitor) : (s.setMonitor c u m).mem = s.mem := rfl
@[simp] theorem State.setMonitor_washed (s : State) (c u : Nat) (m : Monitor) : (s.setMonitor c u m).washed = s.washed := rfl
@[simp] theorem State.setMonitor_flaws (s : State) (c u : Nat) (m : Monitor) : (s.setMonitor c u m).flaws = s.flaws := rfl
@[simp] theorem State.setMonitor_retries (s : State) (c u : Nat) (m : Monitor) : (s.setMonitor c u m).retries = s.retries := rfl
@[simp] theorem State.setMonitor_badTiles (s : State) (c u : Nat) (m : Monitor) : (s.setMonitor c u m).badTiles = s.badTiles := rfl
@[simp] theorem State.setMonitor_levels (s : State) (c u : Nat) (m : Monitor) : (s.setMonitor c u m).levels = s.levels := rfl
@[simp] theorem State.setMonitor_frozen (s : State) (c u : Nat) (m : Monitor) : (s.setMonitor c u m).frozen = s.frozen := rfl
@[simp] theorem State.setMonitor_sealed (s : State) (c u : Nat) (m : Monitor) : (s.setMonitor c u m).sealed = s.sealed := rfl
@[simp] theorem State.setMonitor_acl (s : State) (c u : Nat) (m : Monitor) : (s.setMonitor c u m).acl = s.acl := rfl
@[simp] theorem State.setMonitor_ctl (s : State) (c u : Nat) (m : Monitor) : (s.setMonitor c u m).ctl = s.ctl := rfl
@[simp] theorem State.setMonitor_tlb (s : State) (c u : Nat) (m : Monitor) : (s.setMonitor c u m).tlb = s.tlb := rfl
@[simp] theorem State.setMonitor_walks (s : State) (c u : Nat) (m : Monitor) : (s.setMonitor c u m).walks = s.walks := rfl
@[simp] theorem State.setMonitor_tasks (s : State) (c u : Nat) (m : Monitor) : (s.setMonitor c u m).tasks = s.tasks := rfl
@[simp] theorem State.setMonitor_nextTask (s : State) (c u : Nat) (m : Monitor) : (s.setMonitor c u m).nextTask = s.nextTask := rfl
@[simp] theorem State.setMonitor_cores (s : State) (c u : Nat) (m : Monitor) : (s.setMonitor c u m).cores = s.cores := rfl
@[simp] theorem State.setMonitor_bars (s : State) (c u : Nat) (m : Monitor) : (s.setMonitor c u m).bars = s.bars := rfl
@[simp] theorem State.setMonitor_sems (s : State) (c u : Nat) (m : Monitor) : (s.setMonitor c u m).sems = s.sems := rfl
@[simp] theorem State.setMonitor_semRegions (s : State) (c u : Nat) (m : Monitor) : (s.setMonitor c u m).semRegions = s.semRegions := rfl
@[simp] theorem State.setMonitor_clusters (s : State) (c u : Nat) (m : Monitor) : (s.setMonitor c u m).clusters = s.clusters := rfl
@[simp] theorem State.setMonitor_tiles (s : State) (c u : Nat) (m : Monitor) : (s.setMonitor c u m).tiles = s.tiles := rfl
@[simp] theorem State.setMonitor_conflicts (s : State) (c u : Nat) (m : Monitor) : (s.setMonitor c u m).conflicts = s.conflicts := rfl
@[simp] theorem State.setMonitor_copies (s : State) (c u : Nat) (m : Monitor) : (s.setMonitor c u m).copies = s.copies := rfl
@[simp] theorem State.setMonitor_nextCopy (s : State) (c u : Nat) (m : Monitor) : (s.setMonitor c u m).nextCopy = s.nextCopy := rfl
@[simp] theorem State.setMonitor_arrivals (s : State) (c u : Nat) (m : Monitor) : (s.setMonitor c u m).arrivals = s.arrivals := rfl
@[simp] theorem State.setMonitor_nextArrival (s : State) (c u : Nat) (m : Monitor) : (s.setMonitor c u m).nextArrival = s.nextArrival := rfl
@[simp] theorem State.setMonitor_armings (s : State) (c u : Nat) (m : Monitor) : (s.setMonitor c u m).armings = s.armings := rfl
@[simp] theorem State.setMonitor_nextArming (s : State) (c u : Nat) (m : Monitor) : (s.setMonitor c u m).nextArming = s.nextArming := rfl
@[simp] theorem State.setMonitor_leaseOrder (s : State) (c u : Nat) (m : Monitor) : (s.setMonitor c u m).leaseOrder = s.leaseOrder := rfl
@[simp] theorem State.setMonitor_queues (s : State) (c u : Nat) (m : Monitor) : (s.setMonitor c u m).queues = s.queues := rfl
@[simp] theorem State.setMonitor_records (s : State) (c u : Nat) (m : Monitor) : (s.setMonitor c u m).records = s.records := rfl
@[simp] theorem State.setMonitor_opens (s : State) (c u : Nat) (m : Monitor) : (s.setMonitor c u m).opens = s.opens := rfl
@[simp] theorem State.setMonitor_posted (s : State) (c u : Nat) (m : Monitor) : (s.setMonitor c u m).posted = s.posted := rfl
@[simp] theorem State.setMonitor_dropped (s : State) (c u : Nat) (m : Monitor) : (s.setMonitor c u m).dropped = s.dropped := rfl
@[simp] theorem State.setMonitor_proofing (s : State) (c u : Nat) (m : Monitor) : (s.setMonitor c u m).proofing = s.proofing := rfl
@[simp] theorem State.setMonitor_failedCores (s : State) (c u : Nat) (m : Monitor) : (s.setMonitor c u m).failedCores = s.failedCores := rfl
@[simp] theorem State.setMonitor_frames (s : State) (c u : Nat) (m : Monitor) : (s.setMonitor c u m).frames = s.frames := rfl
@[simp] theorem State.setMonitor_saves (s : State) (c u : Nat) (m : Monitor) : (s.setMonitor c u m).saves = s.saves := rfl
@[simp] theorem State.setMonitor_ink (s : State) (c u : Nat) (m : Monitor) : (s.setMonitor c u m).ink = s.ink := rfl
@[simp] theorem State.setMonitor_base (s : State) (c u : Nat) (m : Monitor) : (s.setMonitor c u m).base = s.base := rfl
@[simp] theorem State.setMonitor_clocks (s : State) (c u : Nat) (m : Monitor) : (s.setMonitor c u m).clocks = s.clocks := rfl
@[simp] theorem State.setMonitor_badWords (s : State) (c u : Nat) (m : Monitor) : (s.setMonitor c u m).badWords = s.badWords := rfl
@[simp] theorem State.setMonitor_folio (s : State) (c u : Nat) (m : Monitor) : (s.setMonitor c u m).folio = s.folio := rfl
@[simp] theorem State.setMonitor_fabric (s : State) (c u : Nat) (m : Monitor) : (s.setMonitor c u m).fabric = s.fabric := rfl
@[simp] theorem State.setMonitor_remotes (s : State) (c u : Nat) (m : Monitor) : (s.setMonitor c u m).remotes = s.remotes := rfl
@[simp] theorem State.setMonitor_nextTag (s : State) (c u : Nat) (m : Monitor) : (s.setMonitor c u m).nextTag = s.nextTag := rfl
@[simp] theorem State.setMonitor_kept (s : State) (c u : Nat) (m : Monitor) : (s.setMonitor c u m).kept = s.kept := rfl
@[simp] theorem State.setMonitor_channels (s : State) (c u : Nat) (m : Monitor) : (s.setMonitor c u m).channels = s.channels := rfl
@[simp] theorem State.setMonitor_starts (s : State) (c u : Nat) (m : Monitor) : (s.setMonitor c u m).starts = s.starts := rfl
@[simp] theorem State.setMonitor_shares (s : State) (c u : Nat) (m : Monitor) : (s.setMonitor c u m).shares = s.shares := rfl
@[simp] theorem State.setMonitor_host (s : State) (c u : Nat) (m : Monitor) : (s.setMonitor c u m).host = s.host := rfl
@[simp] theorem State.setMonitor_rub (s : State) (c u : Nat) (m : Monitor) : (s.setMonitor c u m).rub = s.rub := rfl
@[simp] theorem State.setMonitor_meters (s : State) (c u : Nat) (m : Monitor) : (s.setMonitor c u m).meters = s.meters := rfl
@[simp] theorem State.setMonitor_fabIn (s : State) (c u : Nat) (m : Monitor) : (s.setMonitor c u m).fabIn = s.fabIn := rfl
@[simp] theorem State.setMonitor_flitIn (s : State) (c u : Nat) (m : Monitor) : (s.setMonitor c u m).flitIn = s.flitIn := rfl
@[simp] theorem State.setMonitor_fabOut (s : State) (c u : Nat) (m : Monitor) : (s.setMonitor c u m).fabOut = s.fabOut := rfl
@[simp] theorem State.setMonitor_flitOut (s : State) (c u : Nat) (m : Monitor) : (s.setMonitor c u m).flitOut = s.flitOut := rfl
@[simp] theorem State.setMonitor_order (s : State) (c u : Nat) (m : Monitor) : (s.setMonitor c u m).order = s.order := rfl
@[simp] theorem State.setMonitor_codes (s : State) (c u : Nat) (m : Monitor) : (s.setMonitor c u m).codes = s.codes := rfl
@[simp] theorem State.setMonitor_cur (s : State) (c u : Nat) (m : Monitor) : (s.setMonitor c u m).cur = s.cur := rfl
@[simp] theorem State.setMonitor_turn (s : State) (c u : Nat) (m : Monitor) : (s.setMonitor c u m).turn = s.turn := rfl
@[simp] theorem State.setMonitor_arg (s : State) (c u : Nat) (m : Monitor) : (s.setMonitor c u m).arg = s.arg := rfl
@[simp] theorem State.setMonitor_agenda (s : State) (c u : Nat) (m : Monitor) : (s.setMonitor c u m).agenda = s.agenda := rfl
@[simp] theorem State.setMonitor_stalled (s : State) (c u : Nat) (m : Monitor) : (s.setMonitor c u m).stalled = s.stalled := rfl
@[simp] theorem State.setMonitor_fresh (s : State) (c u : Nat) (m : Monitor) : (s.setMonitor c u m).fresh = s.fresh := rfl
@[simp] theorem State.setMonitor_monitors (s : State) (c u : Nat) (m : Monitor) : (s.setMonitor c u m).monitors = s.monitors.set Monitor.reset (2 * c + u) m := rfl

/-! ## post -/

@[simp] theorem State.post_now (s : State) (r : Record) : (s.post r).now = s.now := rfl
@[simp] theorem State.post_tscAdjust (s : State) (r : Record) : (s.post r).tscAdjust = s.tscAdjust := rfl
@[simp] theorem State.post_tower (s : State) (r : Record) : (s.post r).tower = s.tower := rfl
@[simp] theorem State.post_mem (s : State) (r : Record) : (s.post r).mem = s.mem := rfl
@[simp] theorem State.post_washed (s : State) (r : Record) : (s.post r).washed = s.washed := rfl
@[simp] theorem State.post_flaws (s : State) (r : Record) : (s.post r).flaws = s.flaws := rfl
@[simp] theorem State.post_retries (s : State) (r : Record) : (s.post r).retries = s.retries := rfl
@[simp] theorem State.post_badTiles (s : State) (r : Record) : (s.post r).badTiles = s.badTiles := rfl
@[simp] theorem State.post_levels (s : State) (r : Record) : (s.post r).levels = s.levels := rfl
@[simp] theorem State.post_frozen (s : State) (r : Record) : (s.post r).frozen = s.frozen := rfl
@[simp] theorem State.post_sealed (s : State) (r : Record) : (s.post r).sealed = s.sealed := rfl
@[simp] theorem State.post_acl (s : State) (r : Record) : (s.post r).acl = s.acl := rfl
@[simp] theorem State.post_ctl (s : State) (r : Record) : (s.post r).ctl = s.ctl := rfl
@[simp] theorem State.post_tlb (s : State) (r : Record) : (s.post r).tlb = s.tlb := rfl
@[simp] theorem State.post_walks (s : State) (r : Record) : (s.post r).walks = s.walks := rfl
@[simp] theorem State.post_tasks (s : State) (r : Record) : (s.post r).tasks = s.tasks := rfl
@[simp] theorem State.post_nextTask (s : State) (r : Record) : (s.post r).nextTask = s.nextTask := rfl
@[simp] theorem State.post_cores (s : State) (r : Record) : (s.post r).cores = s.cores := rfl
@[simp] theorem State.post_bars (s : State) (r : Record) : (s.post r).bars = s.bars := rfl
@[simp] theorem State.post_sems (s : State) (r : Record) : (s.post r).sems = s.sems := rfl
@[simp] theorem State.post_semRegions (s : State) (r : Record) : (s.post r).semRegions = s.semRegions := rfl
@[simp] theorem State.post_clusters (s : State) (r : Record) : (s.post r).clusters = s.clusters := rfl
@[simp] theorem State.post_tiles (s : State) (r : Record) : (s.post r).tiles = s.tiles := rfl
@[simp] theorem State.post_conflicts (s : State) (r : Record) : (s.post r).conflicts = s.conflicts := rfl
@[simp] theorem State.post_monitors (s : State) (r : Record) : (s.post r).monitors = s.monitors := rfl
@[simp] theorem State.post_copies (s : State) (r : Record) : (s.post r).copies = s.copies := rfl
@[simp] theorem State.post_nextCopy (s : State) (r : Record) : (s.post r).nextCopy = s.nextCopy := rfl
@[simp] theorem State.post_arrivals (s : State) (r : Record) : (s.post r).arrivals = s.arrivals := rfl
@[simp] theorem State.post_nextArrival (s : State) (r : Record) : (s.post r).nextArrival = s.nextArrival := rfl
@[simp] theorem State.post_armings (s : State) (r : Record) : (s.post r).armings = s.armings := rfl
@[simp] theorem State.post_nextArming (s : State) (r : Record) : (s.post r).nextArming = s.nextArming := rfl
@[simp] theorem State.post_leaseOrder (s : State) (r : Record) : (s.post r).leaseOrder = s.leaseOrder := rfl
@[simp] theorem State.post_queues (s : State) (r : Record) : (s.post r).queues = s.queues := rfl
@[simp] theorem State.post_opens (s : State) (r : Record) : (s.post r).opens = s.opens := rfl
@[simp] theorem State.post_posted (s : State) (r : Record) : (s.post r).posted = s.posted := rfl
@[simp] theorem State.post_dropped (s : State) (r : Record) : (s.post r).dropped = s.dropped := rfl
@[simp] theorem State.post_proofing (s : State) (r : Record) : (s.post r).proofing = s.proofing := rfl
@[simp] theorem State.post_failedCores (s : State) (r : Record) : (s.post r).failedCores = s.failedCores := rfl
@[simp] theorem State.post_frames (s : State) (r : Record) : (s.post r).frames = s.frames := rfl
@[simp] theorem State.post_saves (s : State) (r : Record) : (s.post r).saves = s.saves := rfl
@[simp] theorem State.post_ink (s : State) (r : Record) : (s.post r).ink = s.ink := rfl
@[simp] theorem State.post_base (s : State) (r : Record) : (s.post r).base = s.base := rfl
@[simp] theorem State.post_clocks (s : State) (r : Record) : (s.post r).clocks = s.clocks := rfl
@[simp] theorem State.post_badWords (s : State) (r : Record) : (s.post r).badWords = s.badWords := rfl
@[simp] theorem State.post_folio (s : State) (r : Record) : (s.post r).folio = s.folio := rfl
@[simp] theorem State.post_fabric (s : State) (r : Record) : (s.post r).fabric = s.fabric := rfl
@[simp] theorem State.post_remotes (s : State) (r : Record) : (s.post r).remotes = s.remotes := rfl
@[simp] theorem State.post_nextTag (s : State) (r : Record) : (s.post r).nextTag = s.nextTag := rfl
@[simp] theorem State.post_kept (s : State) (r : Record) : (s.post r).kept = s.kept := rfl
@[simp] theorem State.post_channels (s : State) (r : Record) : (s.post r).channels = s.channels := rfl
@[simp] theorem State.post_starts (s : State) (r : Record) : (s.post r).starts = s.starts := rfl
@[simp] theorem State.post_shares (s : State) (r : Record) : (s.post r).shares = s.shares := rfl
@[simp] theorem State.post_host (s : State) (r : Record) : (s.post r).host = s.host := rfl
@[simp] theorem State.post_rub (s : State) (r : Record) : (s.post r).rub = s.rub := rfl
@[simp] theorem State.post_meters (s : State) (r : Record) : (s.post r).meters = s.meters := rfl
@[simp] theorem State.post_fabIn (s : State) (r : Record) : (s.post r).fabIn = s.fabIn := rfl
@[simp] theorem State.post_flitIn (s : State) (r : Record) : (s.post r).flitIn = s.flitIn := rfl
@[simp] theorem State.post_fabOut (s : State) (r : Record) : (s.post r).fabOut = s.fabOut := rfl
@[simp] theorem State.post_flitOut (s : State) (r : Record) : (s.post r).flitOut = s.flitOut := rfl
@[simp] theorem State.post_order (s : State) (r : Record) : (s.post r).order = s.order := rfl
@[simp] theorem State.post_codes (s : State) (r : Record) : (s.post r).codes = s.codes := rfl
@[simp] theorem State.post_cur (s : State) (r : Record) : (s.post r).cur = s.cur := rfl
@[simp] theorem State.post_turn (s : State) (r : Record) : (s.post r).turn = s.turn := rfl
@[simp] theorem State.post_arg (s : State) (r : Record) : (s.post r).arg = s.arg := rfl
@[simp] theorem State.post_agenda (s : State) (r : Record) : (s.post r).agenda = s.agenda := rfl
@[simp] theorem State.post_stalled (s : State) (r : Record) : (s.post r).stalled = s.stalled := rfl
@[simp] theorem State.post_fresh (s : State) (r : Record) : (s.post r).fresh = s.fresh := rfl
@[simp] theorem State.post_records (s : State) (r : Record) : (s.post r).records = s.records ++ [r] := rfl

/-! ## held -/

@[simp] theorem State.held_now (s : State) : (s.held).now = s.now := rfl
@[simp] theorem State.held_tscAdjust (s : State) : (s.held).tscAdjust = s.tscAdjust := rfl
@[simp] theorem State.held_tower (s : State) : (s.held).tower = s.tower := rfl
@[simp] theorem State.held_mem (s : State) : (s.held).mem = s.mem := rfl
@[simp] theorem State.held_washed (s : State) : (s.held).washed = s.washed := rfl
@[simp] theorem State.held_flaws (s : State) : (s.held).flaws = s.flaws := rfl
@[simp] theorem State.held_retries (s : State) : (s.held).retries = s.retries := rfl
@[simp] theorem State.held_badTiles (s : State) : (s.held).badTiles = s.badTiles := rfl
@[simp] theorem State.held_levels (s : State) : (s.held).levels = s.levels := rfl
@[simp] theorem State.held_frozen (s : State) : (s.held).frozen = s.frozen := rfl
@[simp] theorem State.held_sealed (s : State) : (s.held).sealed = s.sealed := rfl
@[simp] theorem State.held_acl (s : State) : (s.held).acl = s.acl := rfl
@[simp] theorem State.held_ctl (s : State) : (s.held).ctl = s.ctl := rfl
@[simp] theorem State.held_tlb (s : State) : (s.held).tlb = s.tlb := rfl
@[simp] theorem State.held_walks (s : State) : (s.held).walks = s.walks := rfl
@[simp] theorem State.held_tasks (s : State) : (s.held).tasks = s.tasks := rfl
@[simp] theorem State.held_nextTask (s : State) : (s.held).nextTask = s.nextTask := rfl
@[simp] theorem State.held_cores (s : State) : (s.held).cores = s.cores := rfl
@[simp] theorem State.held_bars (s : State) : (s.held).bars = s.bars := rfl
@[simp] theorem State.held_sems (s : State) : (s.held).sems = s.sems := rfl
@[simp] theorem State.held_semRegions (s : State) : (s.held).semRegions = s.semRegions := rfl
@[simp] theorem State.held_clusters (s : State) : (s.held).clusters = s.clusters := rfl
@[simp] theorem State.held_tiles (s : State) : (s.held).tiles = s.tiles := rfl
@[simp] theorem State.held_conflicts (s : State) : (s.held).conflicts = s.conflicts := rfl
@[simp] theorem State.held_monitors (s : State) : (s.held).monitors = s.monitors := rfl
@[simp] theorem State.held_copies (s : State) : (s.held).copies = s.copies := rfl
@[simp] theorem State.held_nextCopy (s : State) : (s.held).nextCopy = s.nextCopy := rfl
@[simp] theorem State.held_arrivals (s : State) : (s.held).arrivals = s.arrivals := rfl
@[simp] theorem State.held_nextArrival (s : State) : (s.held).nextArrival = s.nextArrival := rfl
@[simp] theorem State.held_armings (s : State) : (s.held).armings = s.armings := rfl
@[simp] theorem State.held_nextArming (s : State) : (s.held).nextArming = s.nextArming := rfl
@[simp] theorem State.held_leaseOrder (s : State) : (s.held).leaseOrder = s.leaseOrder := rfl
@[simp] theorem State.held_queues (s : State) : (s.held).queues = s.queues := rfl
@[simp] theorem State.held_records (s : State) : (s.held).records = s.records := rfl
@[simp] theorem State.held_opens (s : State) : (s.held).opens = s.opens := rfl
@[simp] theorem State.held_posted (s : State) : (s.held).posted = s.posted := rfl
@[simp] theorem State.held_dropped (s : State) : (s.held).dropped = s.dropped := rfl
@[simp] theorem State.held_proofing (s : State) : (s.held).proofing = s.proofing := rfl
@[simp] theorem State.held_failedCores (s : State) : (s.held).failedCores = s.failedCores := rfl
@[simp] theorem State.held_frames (s : State) : (s.held).frames = s.frames := rfl
@[simp] theorem State.held_saves (s : State) : (s.held).saves = s.saves := rfl
@[simp] theorem State.held_ink (s : State) : (s.held).ink = s.ink := rfl
@[simp] theorem State.held_base (s : State) : (s.held).base = s.base := rfl
@[simp] theorem State.held_clocks (s : State) : (s.held).clocks = s.clocks := rfl
@[simp] theorem State.held_badWords (s : State) : (s.held).badWords = s.badWords := rfl
@[simp] theorem State.held_folio (s : State) : (s.held).folio = s.folio := rfl
@[simp] theorem State.held_fabric (s : State) : (s.held).fabric = s.fabric := rfl
@[simp] theorem State.held_remotes (s : State) : (s.held).remotes = s.remotes := rfl
@[simp] theorem State.held_nextTag (s : State) : (s.held).nextTag = s.nextTag := rfl
@[simp] theorem State.held_kept (s : State) : (s.held).kept = s.kept := rfl
@[simp] theorem State.held_channels (s : State) : (s.held).channels = s.channels := rfl
@[simp] theorem State.held_starts (s : State) : (s.held).starts = s.starts := rfl
@[simp] theorem State.held_shares (s : State) : (s.held).shares = s.shares := rfl
@[simp] theorem State.held_host (s : State) : (s.held).host = s.host := rfl
@[simp] theorem State.held_rub (s : State) : (s.held).rub = s.rub := rfl
@[simp] theorem State.held_meters (s : State) : (s.held).meters = s.meters := rfl
@[simp] theorem State.held_fabIn (s : State) : (s.held).fabIn = s.fabIn := rfl
@[simp] theorem State.held_flitIn (s : State) : (s.held).flitIn = s.flitIn := rfl
@[simp] theorem State.held_fabOut (s : State) : (s.held).fabOut = s.fabOut := rfl
@[simp] theorem State.held_flitOut (s : State) : (s.held).flitOut = s.flitOut := rfl
@[simp] theorem State.held_order (s : State) : (s.held).order = s.order := rfl
@[simp] theorem State.held_codes (s : State) : (s.held).codes = s.codes := rfl
@[simp] theorem State.held_cur (s : State) : (s.held).cur = s.cur := rfl
@[simp] theorem State.held_turn (s : State) : (s.held).turn = s.turn := rfl
@[simp] theorem State.held_arg (s : State) : (s.held).arg = s.arg := rfl
@[simp] theorem State.held_agenda (s : State) : (s.held).agenda = s.agenda := rfl
@[simp] theorem State.held_fresh (s : State) : (s.held).fresh = s.fresh := rfl
@[simp] theorem State.held_stalled (s : State) : (s.held).stalled = true := rfl

/-! ## setChannel -/

@[simp] theorem State.setChannel_now (s : State) (c : Nat) (v : Channel) : (s.setChannel c v).now = s.now := rfl
@[simp] theorem State.setChannel_tscAdjust (s : State) (c : Nat) (v : Channel) : (s.setChannel c v).tscAdjust = s.tscAdjust := rfl
@[simp] theorem State.setChannel_tower (s : State) (c : Nat) (v : Channel) : (s.setChannel c v).tower = s.tower := rfl
@[simp] theorem State.setChannel_mem (s : State) (c : Nat) (v : Channel) : (s.setChannel c v).mem = s.mem := rfl
@[simp] theorem State.setChannel_washed (s : State) (c : Nat) (v : Channel) : (s.setChannel c v).washed = s.washed := rfl
@[simp] theorem State.setChannel_flaws (s : State) (c : Nat) (v : Channel) : (s.setChannel c v).flaws = s.flaws := rfl
@[simp] theorem State.setChannel_retries (s : State) (c : Nat) (v : Channel) : (s.setChannel c v).retries = s.retries := rfl
@[simp] theorem State.setChannel_badTiles (s : State) (c : Nat) (v : Channel) : (s.setChannel c v).badTiles = s.badTiles := rfl
@[simp] theorem State.setChannel_levels (s : State) (c : Nat) (v : Channel) : (s.setChannel c v).levels = s.levels := rfl
@[simp] theorem State.setChannel_frozen (s : State) (c : Nat) (v : Channel) : (s.setChannel c v).frozen = s.frozen := rfl
@[simp] theorem State.setChannel_sealed (s : State) (c : Nat) (v : Channel) : (s.setChannel c v).sealed = s.sealed := rfl
@[simp] theorem State.setChannel_acl (s : State) (c : Nat) (v : Channel) : (s.setChannel c v).acl = s.acl := rfl
@[simp] theorem State.setChannel_ctl (s : State) (c : Nat) (v : Channel) : (s.setChannel c v).ctl = s.ctl := rfl
@[simp] theorem State.setChannel_tlb (s : State) (c : Nat) (v : Channel) : (s.setChannel c v).tlb = s.tlb := rfl
@[simp] theorem State.setChannel_walks (s : State) (c : Nat) (v : Channel) : (s.setChannel c v).walks = s.walks := rfl
@[simp] theorem State.setChannel_tasks (s : State) (c : Nat) (v : Channel) : (s.setChannel c v).tasks = s.tasks := rfl
@[simp] theorem State.setChannel_nextTask (s : State) (c : Nat) (v : Channel) : (s.setChannel c v).nextTask = s.nextTask := rfl
@[simp] theorem State.setChannel_cores (s : State) (c : Nat) (v : Channel) : (s.setChannel c v).cores = s.cores := rfl
@[simp] theorem State.setChannel_bars (s : State) (c : Nat) (v : Channel) : (s.setChannel c v).bars = s.bars := rfl
@[simp] theorem State.setChannel_sems (s : State) (c : Nat) (v : Channel) : (s.setChannel c v).sems = s.sems := rfl
@[simp] theorem State.setChannel_semRegions (s : State) (c : Nat) (v : Channel) : (s.setChannel c v).semRegions = s.semRegions := rfl
@[simp] theorem State.setChannel_clusters (s : State) (c : Nat) (v : Channel) : (s.setChannel c v).clusters = s.clusters := rfl
@[simp] theorem State.setChannel_tiles (s : State) (c : Nat) (v : Channel) : (s.setChannel c v).tiles = s.tiles := rfl
@[simp] theorem State.setChannel_conflicts (s : State) (c : Nat) (v : Channel) : (s.setChannel c v).conflicts = s.conflicts := rfl
@[simp] theorem State.setChannel_monitors (s : State) (c : Nat) (v : Channel) : (s.setChannel c v).monitors = s.monitors := rfl
@[simp] theorem State.setChannel_copies (s : State) (c : Nat) (v : Channel) : (s.setChannel c v).copies = s.copies := rfl
@[simp] theorem State.setChannel_nextCopy (s : State) (c : Nat) (v : Channel) : (s.setChannel c v).nextCopy = s.nextCopy := rfl
@[simp] theorem State.setChannel_arrivals (s : State) (c : Nat) (v : Channel) : (s.setChannel c v).arrivals = s.arrivals := rfl
@[simp] theorem State.setChannel_nextArrival (s : State) (c : Nat) (v : Channel) : (s.setChannel c v).nextArrival = s.nextArrival := rfl
@[simp] theorem State.setChannel_armings (s : State) (c : Nat) (v : Channel) : (s.setChannel c v).armings = s.armings := rfl
@[simp] theorem State.setChannel_nextArming (s : State) (c : Nat) (v : Channel) : (s.setChannel c v).nextArming = s.nextArming := rfl
@[simp] theorem State.setChannel_leaseOrder (s : State) (c : Nat) (v : Channel) : (s.setChannel c v).leaseOrder = s.leaseOrder := rfl
@[simp] theorem State.setChannel_queues (s : State) (c : Nat) (v : Channel) : (s.setChannel c v).queues = s.queues := rfl
@[simp] theorem State.setChannel_records (s : State) (c : Nat) (v : Channel) : (s.setChannel c v).records = s.records := rfl
@[simp] theorem State.setChannel_opens (s : State) (c : Nat) (v : Channel) : (s.setChannel c v).opens = s.opens := rfl
@[simp] theorem State.setChannel_posted (s : State) (c : Nat) (v : Channel) : (s.setChannel c v).posted = s.posted := rfl
@[simp] theorem State.setChannel_dropped (s : State) (c : Nat) (v : Channel) : (s.setChannel c v).dropped = s.dropped := rfl
@[simp] theorem State.setChannel_proofing (s : State) (c : Nat) (v : Channel) : (s.setChannel c v).proofing = s.proofing := rfl
@[simp] theorem State.setChannel_failedCores (s : State) (c : Nat) (v : Channel) : (s.setChannel c v).failedCores = s.failedCores := rfl
@[simp] theorem State.setChannel_frames (s : State) (c : Nat) (v : Channel) : (s.setChannel c v).frames = s.frames := rfl
@[simp] theorem State.setChannel_saves (s : State) (c : Nat) (v : Channel) : (s.setChannel c v).saves = s.saves := rfl
@[simp] theorem State.setChannel_ink (s : State) (c : Nat) (v : Channel) : (s.setChannel c v).ink = s.ink := rfl
@[simp] theorem State.setChannel_base (s : State) (c : Nat) (v : Channel) : (s.setChannel c v).base = s.base := rfl
@[simp] theorem State.setChannel_clocks (s : State) (c : Nat) (v : Channel) : (s.setChannel c v).clocks = s.clocks := rfl
@[simp] theorem State.setChannel_badWords (s : State) (c : Nat) (v : Channel) : (s.setChannel c v).badWords = s.badWords := rfl
@[simp] theorem State.setChannel_folio (s : State) (c : Nat) (v : Channel) : (s.setChannel c v).folio = s.folio := rfl
@[simp] theorem State.setChannel_fabric (s : State) (c : Nat) (v : Channel) : (s.setChannel c v).fabric = s.fabric := rfl
@[simp] theorem State.setChannel_remotes (s : State) (c : Nat) (v : Channel) : (s.setChannel c v).remotes = s.remotes := rfl
@[simp] theorem State.setChannel_nextTag (s : State) (c : Nat) (v : Channel) : (s.setChannel c v).nextTag = s.nextTag := rfl
@[simp] theorem State.setChannel_kept (s : State) (c : Nat) (v : Channel) : (s.setChannel c v).kept = s.kept := rfl
@[simp] theorem State.setChannel_starts (s : State) (c : Nat) (v : Channel) : (s.setChannel c v).starts = s.starts := rfl
@[simp] theorem State.setChannel_shares (s : State) (c : Nat) (v : Channel) : (s.setChannel c v).shares = s.shares := rfl
@[simp] theorem State.setChannel_host (s : State) (c : Nat) (v : Channel) : (s.setChannel c v).host = s.host := rfl
@[simp] theorem State.setChannel_rub (s : State) (c : Nat) (v : Channel) : (s.setChannel c v).rub = s.rub := rfl
@[simp] theorem State.setChannel_meters (s : State) (c : Nat) (v : Channel) : (s.setChannel c v).meters = s.meters := rfl
@[simp] theorem State.setChannel_fabIn (s : State) (c : Nat) (v : Channel) : (s.setChannel c v).fabIn = s.fabIn := rfl
@[simp] theorem State.setChannel_flitIn (s : State) (c : Nat) (v : Channel) : (s.setChannel c v).flitIn = s.flitIn := rfl
@[simp] theorem State.setChannel_fabOut (s : State) (c : Nat) (v : Channel) : (s.setChannel c v).fabOut = s.fabOut := rfl
@[simp] theorem State.setChannel_flitOut (s : State) (c : Nat) (v : Channel) : (s.setChannel c v).flitOut = s.flitOut := rfl
@[simp] theorem State.setChannel_order (s : State) (c : Nat) (v : Channel) : (s.setChannel c v).order = s.order := rfl
@[simp] theorem State.setChannel_codes (s : State) (c : Nat) (v : Channel) : (s.setChannel c v).codes = s.codes := rfl
@[simp] theorem State.setChannel_cur (s : State) (c : Nat) (v : Channel) : (s.setChannel c v).cur = s.cur := rfl
@[simp] theorem State.setChannel_turn (s : State) (c : Nat) (v : Channel) : (s.setChannel c v).turn = s.turn := rfl
@[simp] theorem State.setChannel_arg (s : State) (c : Nat) (v : Channel) : (s.setChannel c v).arg = s.arg := rfl
@[simp] theorem State.setChannel_agenda (s : State) (c : Nat) (v : Channel) : (s.setChannel c v).agenda = s.agenda := rfl
@[simp] theorem State.setChannel_stalled (s : State) (c : Nat) (v : Channel) : (s.setChannel c v).stalled = s.stalled := rfl
@[simp] theorem State.setChannel_fresh (s : State) (c : Nat) (v : Channel) : (s.setChannel c v).fresh = s.fresh := rfl

/-! ## setLevel -/

@[simp] theorem State.setLevel_now (s : State) (x : Nat) (l : Level) : (s.setLevel x l).now = s.now := rfl
@[simp] theorem State.setLevel_tscAdjust (s : State) (x : Nat) (l : Level) : (s.setLevel x l).tscAdjust = s.tscAdjust := rfl
@[simp] theorem State.setLevel_tower (s : State) (x : Nat) (l : Level) : (s.setLevel x l).tower = s.tower := rfl
@[simp] theorem State.setLevel_mem (s : State) (x : Nat) (l : Level) : (s.setLevel x l).mem = s.mem := rfl
@[simp] theorem State.setLevel_washed (s : State) (x : Nat) (l : Level) : (s.setLevel x l).washed = s.washed := rfl
@[simp] theorem State.setLevel_flaws (s : State) (x : Nat) (l : Level) : (s.setLevel x l).flaws = s.flaws := rfl
@[simp] theorem State.setLevel_retries (s : State) (x : Nat) (l : Level) : (s.setLevel x l).retries = s.retries := rfl
@[simp] theorem State.setLevel_badTiles (s : State) (x : Nat) (l : Level) : (s.setLevel x l).badTiles = s.badTiles := rfl
@[simp] theorem State.setLevel_frozen (s : State) (x : Nat) (l : Level) : (s.setLevel x l).frozen = s.frozen := rfl
@[simp] theorem State.setLevel_sealed (s : State) (x : Nat) (l : Level) : (s.setLevel x l).sealed = s.sealed := rfl
@[simp] theorem State.setLevel_acl (s : State) (x : Nat) (l : Level) : (s.setLevel x l).acl = s.acl := rfl
@[simp] theorem State.setLevel_ctl (s : State) (x : Nat) (l : Level) : (s.setLevel x l).ctl = s.ctl := rfl
@[simp] theorem State.setLevel_tlb (s : State) (x : Nat) (l : Level) : (s.setLevel x l).tlb = s.tlb := rfl
@[simp] theorem State.setLevel_walks (s : State) (x : Nat) (l : Level) : (s.setLevel x l).walks = s.walks := rfl
@[simp] theorem State.setLevel_tasks (s : State) (x : Nat) (l : Level) : (s.setLevel x l).tasks = s.tasks := rfl
@[simp] theorem State.setLevel_nextTask (s : State) (x : Nat) (l : Level) : (s.setLevel x l).nextTask = s.nextTask := rfl
@[simp] theorem State.setLevel_cores (s : State) (x : Nat) (l : Level) : (s.setLevel x l).cores = s.cores := rfl
@[simp] theorem State.setLevel_bars (s : State) (x : Nat) (l : Level) : (s.setLevel x l).bars = s.bars := rfl
@[simp] theorem State.setLevel_sems (s : State) (x : Nat) (l : Level) : (s.setLevel x l).sems = s.sems := rfl
@[simp] theorem State.setLevel_semRegions (s : State) (x : Nat) (l : Level) : (s.setLevel x l).semRegions = s.semRegions := rfl
@[simp] theorem State.setLevel_clusters (s : State) (x : Nat) (l : Level) : (s.setLevel x l).clusters = s.clusters := rfl
@[simp] theorem State.setLevel_tiles (s : State) (x : Nat) (l : Level) : (s.setLevel x l).tiles = s.tiles := rfl
@[simp] theorem State.setLevel_conflicts (s : State) (x : Nat) (l : Level) : (s.setLevel x l).conflicts = s.conflicts := rfl
@[simp] theorem State.setLevel_monitors (s : State) (x : Nat) (l : Level) : (s.setLevel x l).monitors = s.monitors := rfl
@[simp] theorem State.setLevel_copies (s : State) (x : Nat) (l : Level) : (s.setLevel x l).copies = s.copies := rfl
@[simp] theorem State.setLevel_nextCopy (s : State) (x : Nat) (l : Level) : (s.setLevel x l).nextCopy = s.nextCopy := rfl
@[simp] theorem State.setLevel_arrivals (s : State) (x : Nat) (l : Level) : (s.setLevel x l).arrivals = s.arrivals := rfl
@[simp] theorem State.setLevel_nextArrival (s : State) (x : Nat) (l : Level) : (s.setLevel x l).nextArrival = s.nextArrival := rfl
@[simp] theorem State.setLevel_armings (s : State) (x : Nat) (l : Level) : (s.setLevel x l).armings = s.armings := rfl
@[simp] theorem State.setLevel_nextArming (s : State) (x : Nat) (l : Level) : (s.setLevel x l).nextArming = s.nextArming := rfl
@[simp] theorem State.setLevel_leaseOrder (s : State) (x : Nat) (l : Level) : (s.setLevel x l).leaseOrder = s.leaseOrder := rfl
@[simp] theorem State.setLevel_queues (s : State) (x : Nat) (l : Level) : (s.setLevel x l).queues = s.queues := rfl
@[simp] theorem State.setLevel_records (s : State) (x : Nat) (l : Level) : (s.setLevel x l).records = s.records := rfl
@[simp] theorem State.setLevel_opens (s : State) (x : Nat) (l : Level) : (s.setLevel x l).opens = s.opens := rfl
@[simp] theorem State.setLevel_posted (s : State) (x : Nat) (l : Level) : (s.setLevel x l).posted = s.posted := rfl
@[simp] theorem State.setLevel_dropped (s : State) (x : Nat) (l : Level) : (s.setLevel x l).dropped = s.dropped := rfl
@[simp] theorem State.setLevel_proofing (s : State) (x : Nat) (l : Level) : (s.setLevel x l).proofing = s.proofing := rfl
@[simp] theorem State.setLevel_failedCores (s : State) (x : Nat) (l : Level) : (s.setLevel x l).failedCores = s.failedCores := rfl
@[simp] theorem State.setLevel_frames (s : State) (x : Nat) (l : Level) : (s.setLevel x l).frames = s.frames := rfl
@[simp] theorem State.setLevel_saves (s : State) (x : Nat) (l : Level) : (s.setLevel x l).saves = s.saves := rfl
@[simp] theorem State.setLevel_ink (s : State) (x : Nat) (l : Level) : (s.setLevel x l).ink = s.ink := rfl
@[simp] theorem State.setLevel_base (s : State) (x : Nat) (l : Level) : (s.setLevel x l).base = s.base := rfl
@[simp] theorem State.setLevel_clocks (s : State) (x : Nat) (l : Level) : (s.setLevel x l).clocks = s.clocks := rfl
@[simp] theorem State.setLevel_badWords (s : State) (x : Nat) (l : Level) : (s.setLevel x l).badWords = s.badWords := rfl
@[simp] theorem State.setLevel_folio (s : State) (x : Nat) (l : Level) : (s.setLevel x l).folio = s.folio := rfl
@[simp] theorem State.setLevel_fabric (s : State) (x : Nat) (l : Level) : (s.setLevel x l).fabric = s.fabric := rfl
@[simp] theorem State.setLevel_remotes (s : State) (x : Nat) (l : Level) : (s.setLevel x l).remotes = s.remotes := rfl
@[simp] theorem State.setLevel_nextTag (s : State) (x : Nat) (l : Level) : (s.setLevel x l).nextTag = s.nextTag := rfl
@[simp] theorem State.setLevel_kept (s : State) (x : Nat) (l : Level) : (s.setLevel x l).kept = s.kept := rfl
@[simp] theorem State.setLevel_channels (s : State) (x : Nat) (l : Level) : (s.setLevel x l).channels = s.channels := rfl
@[simp] theorem State.setLevel_starts (s : State) (x : Nat) (l : Level) : (s.setLevel x l).starts = s.starts := rfl
@[simp] theorem State.setLevel_shares (s : State) (x : Nat) (l : Level) : (s.setLevel x l).shares = s.shares := rfl
@[simp] theorem State.setLevel_host (s : State) (x : Nat) (l : Level) : (s.setLevel x l).host = s.host := rfl
@[simp] theorem State.setLevel_rub (s : State) (x : Nat) (l : Level) : (s.setLevel x l).rub = s.rub := rfl
@[simp] theorem State.setLevel_meters (s : State) (x : Nat) (l : Level) : (s.setLevel x l).meters = s.meters := rfl
@[simp] theorem State.setLevel_fabIn (s : State) (x : Nat) (l : Level) : (s.setLevel x l).fabIn = s.fabIn := rfl
@[simp] theorem State.setLevel_flitIn (s : State) (x : Nat) (l : Level) : (s.setLevel x l).flitIn = s.flitIn := rfl
@[simp] theorem State.setLevel_fabOut (s : State) (x : Nat) (l : Level) : (s.setLevel x l).fabOut = s.fabOut := rfl
@[simp] theorem State.setLevel_flitOut (s : State) (x : Nat) (l : Level) : (s.setLevel x l).flitOut = s.flitOut := rfl
@[simp] theorem State.setLevel_order (s : State) (x : Nat) (l : Level) : (s.setLevel x l).order = s.order := rfl
@[simp] theorem State.setLevel_codes (s : State) (x : Nat) (l : Level) : (s.setLevel x l).codes = s.codes := rfl
@[simp] theorem State.setLevel_cur (s : State) (x : Nat) (l : Level) : (s.setLevel x l).cur = s.cur := rfl
@[simp] theorem State.setLevel_turn (s : State) (x : Nat) (l : Level) : (s.setLevel x l).turn = s.turn := rfl
@[simp] theorem State.setLevel_arg (s : State) (x : Nat) (l : Level) : (s.setLevel x l).arg = s.arg := rfl
@[simp] theorem State.setLevel_agenda (s : State) (x : Nat) (l : Level) : (s.setLevel x l).agenda = s.agenda := rfl
@[simp] theorem State.setLevel_stalled (s : State) (x : Nat) (l : Level) : (s.setLevel x l).stalled = s.stalled := rfl
@[simp] theorem State.setLevel_fresh (s : State) (x : Nat) (l : Level) : (s.setLevel x l).fresh = s.fresh := rfl

/-! ## setMailbox -/

@[simp] theorem State.setMailbox_now (s : State) (n : Nat) (m : Mailbox) : (s.setMailbox n m).now = s.now := rfl
@[simp] theorem State.setMailbox_tscAdjust (s : State) (n : Nat) (m : Mailbox) : (s.setMailbox n m).tscAdjust = s.tscAdjust := rfl
@[simp] theorem State.setMailbox_tower (s : State) (n : Nat) (m : Mailbox) : (s.setMailbox n m).tower = s.tower := rfl
@[simp] theorem State.setMailbox_mem (s : State) (n : Nat) (m : Mailbox) : (s.setMailbox n m).mem = s.mem := rfl
@[simp] theorem State.setMailbox_washed (s : State) (n : Nat) (m : Mailbox) : (s.setMailbox n m).washed = s.washed := rfl
@[simp] theorem State.setMailbox_flaws (s : State) (n : Nat) (m : Mailbox) : (s.setMailbox n m).flaws = s.flaws := rfl
@[simp] theorem State.setMailbox_retries (s : State) (n : Nat) (m : Mailbox) : (s.setMailbox n m).retries = s.retries := rfl
@[simp] theorem State.setMailbox_badTiles (s : State) (n : Nat) (m : Mailbox) : (s.setMailbox n m).badTiles = s.badTiles := rfl
@[simp] theorem State.setMailbox_levels (s : State) (n : Nat) (m : Mailbox) : (s.setMailbox n m).levels = s.levels := rfl
@[simp] theorem State.setMailbox_frozen (s : State) (n : Nat) (m : Mailbox) : (s.setMailbox n m).frozen = s.frozen := rfl
@[simp] theorem State.setMailbox_sealed (s : State) (n : Nat) (m : Mailbox) : (s.setMailbox n m).sealed = s.sealed := rfl
@[simp] theorem State.setMailbox_acl (s : State) (n : Nat) (m : Mailbox) : (s.setMailbox n m).acl = s.acl := rfl
@[simp] theorem State.setMailbox_ctl (s : State) (n : Nat) (m : Mailbox) : (s.setMailbox n m).ctl = s.ctl := rfl
@[simp] theorem State.setMailbox_tlb (s : State) (n : Nat) (m : Mailbox) : (s.setMailbox n m).tlb = s.tlb := rfl
@[simp] theorem State.setMailbox_walks (s : State) (n : Nat) (m : Mailbox) : (s.setMailbox n m).walks = s.walks := rfl
@[simp] theorem State.setMailbox_tasks (s : State) (n : Nat) (m : Mailbox) : (s.setMailbox n m).tasks = s.tasks := rfl
@[simp] theorem State.setMailbox_nextTask (s : State) (n : Nat) (m : Mailbox) : (s.setMailbox n m).nextTask = s.nextTask := rfl
@[simp] theorem State.setMailbox_cores (s : State) (n : Nat) (m : Mailbox) : (s.setMailbox n m).cores = s.cores := rfl
@[simp] theorem State.setMailbox_bars (s : State) (n : Nat) (m : Mailbox) : (s.setMailbox n m).bars = s.bars := rfl
@[simp] theorem State.setMailbox_sems (s : State) (n : Nat) (m : Mailbox) : (s.setMailbox n m).sems = s.sems := rfl
@[simp] theorem State.setMailbox_semRegions (s : State) (n : Nat) (m : Mailbox) : (s.setMailbox n m).semRegions = s.semRegions := rfl
@[simp] theorem State.setMailbox_clusters (s : State) (n : Nat) (m : Mailbox) : (s.setMailbox n m).clusters = s.clusters := rfl
@[simp] theorem State.setMailbox_tiles (s : State) (n : Nat) (m : Mailbox) : (s.setMailbox n m).tiles = s.tiles := rfl
@[simp] theorem State.setMailbox_conflicts (s : State) (n : Nat) (m : Mailbox) : (s.setMailbox n m).conflicts = s.conflicts := rfl
@[simp] theorem State.setMailbox_monitors (s : State) (n : Nat) (m : Mailbox) : (s.setMailbox n m).monitors = s.monitors := rfl
@[simp] theorem State.setMailbox_copies (s : State) (n : Nat) (m : Mailbox) : (s.setMailbox n m).copies = s.copies := rfl
@[simp] theorem State.setMailbox_nextCopy (s : State) (n : Nat) (m : Mailbox) : (s.setMailbox n m).nextCopy = s.nextCopy := rfl
@[simp] theorem State.setMailbox_arrivals (s : State) (n : Nat) (m : Mailbox) : (s.setMailbox n m).arrivals = s.arrivals := rfl
@[simp] theorem State.setMailbox_nextArrival (s : State) (n : Nat) (m : Mailbox) : (s.setMailbox n m).nextArrival = s.nextArrival := rfl
@[simp] theorem State.setMailbox_armings (s : State) (n : Nat) (m : Mailbox) : (s.setMailbox n m).armings = s.armings := rfl
@[simp] theorem State.setMailbox_nextArming (s : State) (n : Nat) (m : Mailbox) : (s.setMailbox n m).nextArming = s.nextArming := rfl
@[simp] theorem State.setMailbox_leaseOrder (s : State) (n : Nat) (m : Mailbox) : (s.setMailbox n m).leaseOrder = s.leaseOrder := rfl
@[simp] theorem State.setMailbox_queues (s : State) (n : Nat) (m : Mailbox) : (s.setMailbox n m).queues = s.queues := rfl
@[simp] theorem State.setMailbox_records (s : State) (n : Nat) (m : Mailbox) : (s.setMailbox n m).records = s.records := rfl
@[simp] theorem State.setMailbox_opens (s : State) (n : Nat) (m : Mailbox) : (s.setMailbox n m).opens = s.opens := rfl
@[simp] theorem State.setMailbox_posted (s : State) (n : Nat) (m : Mailbox) : (s.setMailbox n m).posted = s.posted := rfl
@[simp] theorem State.setMailbox_dropped (s : State) (n : Nat) (m : Mailbox) : (s.setMailbox n m).dropped = s.dropped := rfl
@[simp] theorem State.setMailbox_proofing (s : State) (n : Nat) (m : Mailbox) : (s.setMailbox n m).proofing = s.proofing := rfl
@[simp] theorem State.setMailbox_failedCores (s : State) (n : Nat) (m : Mailbox) : (s.setMailbox n m).failedCores = s.failedCores := rfl
@[simp] theorem State.setMailbox_frames (s : State) (n : Nat) (m : Mailbox) : (s.setMailbox n m).frames = s.frames := rfl
@[simp] theorem State.setMailbox_saves (s : State) (n : Nat) (m : Mailbox) : (s.setMailbox n m).saves = s.saves := rfl
@[simp] theorem State.setMailbox_ink (s : State) (n : Nat) (m : Mailbox) : (s.setMailbox n m).ink = s.ink := rfl
@[simp] theorem State.setMailbox_base (s : State) (n : Nat) (m : Mailbox) : (s.setMailbox n m).base = s.base := rfl
@[simp] theorem State.setMailbox_clocks (s : State) (n : Nat) (m : Mailbox) : (s.setMailbox n m).clocks = s.clocks := rfl
@[simp] theorem State.setMailbox_badWords (s : State) (n : Nat) (m : Mailbox) : (s.setMailbox n m).badWords = s.badWords := rfl
@[simp] theorem State.setMailbox_folio (s : State) (n : Nat) (m : Mailbox) : (s.setMailbox n m).folio = s.folio := rfl
@[simp] theorem State.setMailbox_fabric (s : State) (n : Nat) (m : Mailbox) : (s.setMailbox n m).fabric = s.fabric := rfl
@[simp] theorem State.setMailbox_remotes (s : State) (n : Nat) (m : Mailbox) : (s.setMailbox n m).remotes = s.remotes := rfl
@[simp] theorem State.setMailbox_nextTag (s : State) (n : Nat) (m : Mailbox) : (s.setMailbox n m).nextTag = s.nextTag := rfl
@[simp] theorem State.setMailbox_kept (s : State) (n : Nat) (m : Mailbox) : (s.setMailbox n m).kept = s.kept := rfl
@[simp] theorem State.setMailbox_channels (s : State) (n : Nat) (m : Mailbox) : (s.setMailbox n m).channels = s.channels := rfl
@[simp] theorem State.setMailbox_starts (s : State) (n : Nat) (m : Mailbox) : (s.setMailbox n m).starts = s.starts := rfl
@[simp] theorem State.setMailbox_shares (s : State) (n : Nat) (m : Mailbox) : (s.setMailbox n m).shares = s.shares := rfl
@[simp] theorem State.setMailbox_rub (s : State) (n : Nat) (m : Mailbox) : (s.setMailbox n m).rub = s.rub := rfl
@[simp] theorem State.setMailbox_meters (s : State) (n : Nat) (m : Mailbox) : (s.setMailbox n m).meters = s.meters := rfl
@[simp] theorem State.setMailbox_fabIn (s : State) (n : Nat) (m : Mailbox) : (s.setMailbox n m).fabIn = s.fabIn := rfl
@[simp] theorem State.setMailbox_flitIn (s : State) (n : Nat) (m : Mailbox) : (s.setMailbox n m).flitIn = s.flitIn := rfl
@[simp] theorem State.setMailbox_fabOut (s : State) (n : Nat) (m : Mailbox) : (s.setMailbox n m).fabOut = s.fabOut := rfl
@[simp] theorem State.setMailbox_flitOut (s : State) (n : Nat) (m : Mailbox) : (s.setMailbox n m).flitOut = s.flitOut := rfl
@[simp] theorem State.setMailbox_order (s : State) (n : Nat) (m : Mailbox) : (s.setMailbox n m).order = s.order := rfl
@[simp] theorem State.setMailbox_codes (s : State) (n : Nat) (m : Mailbox) : (s.setMailbox n m).codes = s.codes := rfl
@[simp] theorem State.setMailbox_cur (s : State) (n : Nat) (m : Mailbox) : (s.setMailbox n m).cur = s.cur := rfl
@[simp] theorem State.setMailbox_turn (s : State) (n : Nat) (m : Mailbox) : (s.setMailbox n m).turn = s.turn := rfl
@[simp] theorem State.setMailbox_arg (s : State) (n : Nat) (m : Mailbox) : (s.setMailbox n m).arg = s.arg := rfl
@[simp] theorem State.setMailbox_agenda (s : State) (n : Nat) (m : Mailbox) : (s.setMailbox n m).agenda = s.agenda := rfl
@[simp] theorem State.setMailbox_stalled (s : State) (n : Nat) (m : Mailbox) : (s.setMailbox n m).stalled = s.stalled := rfl
@[simp] theorem State.setMailbox_fresh (s : State) (n : Nat) (m : Mailbox) : (s.setMailbox n m).fresh = s.fresh := rfl

/-! ## issueCopy -/

@[simp] theorem State.issueCopy_now (s : State) (c : Copy) : (s.issueCopy c).now = s.now := rfl
@[simp] theorem State.issueCopy_tscAdjust (s : State) (c : Copy) : (s.issueCopy c).tscAdjust = s.tscAdjust := rfl
@[simp] theorem State.issueCopy_tower (s : State) (c : Copy) : (s.issueCopy c).tower = s.tower := rfl
@[simp] theorem State.issueCopy_mem (s : State) (c : Copy) : (s.issueCopy c).mem = s.mem := rfl
@[simp] theorem State.issueCopy_washed (s : State) (c : Copy) : (s.issueCopy c).washed = s.washed := rfl
@[simp] theorem State.issueCopy_flaws (s : State) (c : Copy) : (s.issueCopy c).flaws = s.flaws := rfl
@[simp] theorem State.issueCopy_retries (s : State) (c : Copy) : (s.issueCopy c).retries = s.retries := rfl
@[simp] theorem State.issueCopy_badTiles (s : State) (c : Copy) : (s.issueCopy c).badTiles = s.badTiles := rfl
@[simp] theorem State.issueCopy_levels (s : State) (c : Copy) : (s.issueCopy c).levels = s.levels := rfl
@[simp] theorem State.issueCopy_frozen (s : State) (c : Copy) : (s.issueCopy c).frozen = s.frozen := rfl
@[simp] theorem State.issueCopy_sealed (s : State) (c : Copy) : (s.issueCopy c).sealed = s.sealed := rfl
@[simp] theorem State.issueCopy_acl (s : State) (c : Copy) : (s.issueCopy c).acl = s.acl := rfl
@[simp] theorem State.issueCopy_ctl (s : State) (c : Copy) : (s.issueCopy c).ctl = s.ctl := rfl
@[simp] theorem State.issueCopy_tlb (s : State) (c : Copy) : (s.issueCopy c).tlb = s.tlb := rfl
@[simp] theorem State.issueCopy_walks (s : State) (c : Copy) : (s.issueCopy c).walks = s.walks := rfl
@[simp] theorem State.issueCopy_tasks (s : State) (c : Copy) : (s.issueCopy c).tasks = s.tasks := rfl
@[simp] theorem State.issueCopy_nextTask (s : State) (c : Copy) : (s.issueCopy c).nextTask = s.nextTask := rfl
@[simp] theorem State.issueCopy_cores (s : State) (c : Copy) : (s.issueCopy c).cores = s.cores := rfl
@[simp] theorem State.issueCopy_bars (s : State) (c : Copy) : (s.issueCopy c).bars = s.bars := rfl
@[simp] theorem State.issueCopy_sems (s : State) (c : Copy) : (s.issueCopy c).sems = s.sems := rfl
@[simp] theorem State.issueCopy_semRegions (s : State) (c : Copy) : (s.issueCopy c).semRegions = s.semRegions := rfl
@[simp] theorem State.issueCopy_clusters (s : State) (c : Copy) : (s.issueCopy c).clusters = s.clusters := rfl
@[simp] theorem State.issueCopy_tiles (s : State) (c : Copy) : (s.issueCopy c).tiles = s.tiles := rfl
@[simp] theorem State.issueCopy_conflicts (s : State) (c : Copy) : (s.issueCopy c).conflicts = s.conflicts := rfl
@[simp] theorem State.issueCopy_monitors (s : State) (c : Copy) : (s.issueCopy c).monitors = s.monitors := rfl
@[simp] theorem State.issueCopy_arrivals (s : State) (c : Copy) : (s.issueCopy c).arrivals = s.arrivals := rfl
@[simp] theorem State.issueCopy_nextArrival (s : State) (c : Copy) : (s.issueCopy c).nextArrival = s.nextArrival := rfl
@[simp] theorem State.issueCopy_armings (s : State) (c : Copy) : (s.issueCopy c).armings = s.armings := rfl
@[simp] theorem State.issueCopy_nextArming (s : State) (c : Copy) : (s.issueCopy c).nextArming = s.nextArming := rfl
@[simp] theorem State.issueCopy_leaseOrder (s : State) (c : Copy) : (s.issueCopy c).leaseOrder = s.leaseOrder := rfl
@[simp] theorem State.issueCopy_queues (s : State) (c : Copy) : (s.issueCopy c).queues = s.queues := rfl
@[simp] theorem State.issueCopy_records (s : State) (c : Copy) : (s.issueCopy c).records = s.records := rfl
@[simp] theorem State.issueCopy_opens (s : State) (c : Copy) : (s.issueCopy c).opens = s.opens := rfl
@[simp] theorem State.issueCopy_posted (s : State) (c : Copy) : (s.issueCopy c).posted = s.posted := rfl
@[simp] theorem State.issueCopy_dropped (s : State) (c : Copy) : (s.issueCopy c).dropped = s.dropped := rfl
@[simp] theorem State.issueCopy_proofing (s : State) (c : Copy) : (s.issueCopy c).proofing = s.proofing := rfl
@[simp] theorem State.issueCopy_failedCores (s : State) (c : Copy) : (s.issueCopy c).failedCores = s.failedCores := rfl
@[simp] theorem State.issueCopy_frames (s : State) (c : Copy) : (s.issueCopy c).frames = s.frames := rfl
@[simp] theorem State.issueCopy_saves (s : State) (c : Copy) : (s.issueCopy c).saves = s.saves := rfl
@[simp] theorem State.issueCopy_ink (s : State) (c : Copy) : (s.issueCopy c).ink = s.ink := rfl
@[simp] theorem State.issueCopy_base (s : State) (c : Copy) : (s.issueCopy c).base = s.base := rfl
@[simp] theorem State.issueCopy_clocks (s : State) (c : Copy) : (s.issueCopy c).clocks = s.clocks := rfl
@[simp] theorem State.issueCopy_badWords (s : State) (c : Copy) : (s.issueCopy c).badWords = s.badWords := rfl
@[simp] theorem State.issueCopy_folio (s : State) (c : Copy) : (s.issueCopy c).folio = s.folio := rfl
@[simp] theorem State.issueCopy_fabric (s : State) (c : Copy) : (s.issueCopy c).fabric = s.fabric := rfl
@[simp] theorem State.issueCopy_remotes (s : State) (c : Copy) : (s.issueCopy c).remotes = s.remotes := rfl
@[simp] theorem State.issueCopy_nextTag (s : State) (c : Copy) : (s.issueCopy c).nextTag = s.nextTag := rfl
@[simp] theorem State.issueCopy_kept (s : State) (c : Copy) : (s.issueCopy c).kept = s.kept := rfl
@[simp] theorem State.issueCopy_channels (s : State) (c : Copy) : (s.issueCopy c).channels = s.channels := rfl
@[simp] theorem State.issueCopy_starts (s : State) (c : Copy) : (s.issueCopy c).starts = s.starts := rfl
@[simp] theorem State.issueCopy_shares (s : State) (c : Copy) : (s.issueCopy c).shares = s.shares := rfl
@[simp] theorem State.issueCopy_host (s : State) (c : Copy) : (s.issueCopy c).host = s.host := rfl
@[simp] theorem State.issueCopy_rub (s : State) (c : Copy) : (s.issueCopy c).rub = s.rub := rfl
@[simp] theorem State.issueCopy_meters (s : State) (c : Copy) : (s.issueCopy c).meters = s.meters := rfl
@[simp] theorem State.issueCopy_fabIn (s : State) (c : Copy) : (s.issueCopy c).fabIn = s.fabIn := rfl
@[simp] theorem State.issueCopy_flitIn (s : State) (c : Copy) : (s.issueCopy c).flitIn = s.flitIn := rfl
@[simp] theorem State.issueCopy_fabOut (s : State) (c : Copy) : (s.issueCopy c).fabOut = s.fabOut := rfl
@[simp] theorem State.issueCopy_flitOut (s : State) (c : Copy) : (s.issueCopy c).flitOut = s.flitOut := rfl
@[simp] theorem State.issueCopy_codes (s : State) (c : Copy) : (s.issueCopy c).codes = s.codes := rfl
@[simp] theorem State.issueCopy_cur (s : State) (c : Copy) : (s.issueCopy c).cur = s.cur := rfl
@[simp] theorem State.issueCopy_turn (s : State) (c : Copy) : (s.issueCopy c).turn = s.turn := rfl
@[simp] theorem State.issueCopy_arg (s : State) (c : Copy) : (s.issueCopy c).arg = s.arg := rfl
@[simp] theorem State.issueCopy_agenda (s : State) (c : Copy) : (s.issueCopy c).agenda = s.agenda := rfl
@[simp] theorem State.issueCopy_stalled (s : State) (c : Copy) : (s.issueCopy c).stalled = s.stalled := rfl
@[simp] theorem State.issueCopy_fresh (s : State) (c : Copy) : (s.issueCopy c).fresh = s.fresh := rfl

/-! ## raiseVector -/

@[simp] theorem State.raiseVector_now (s : State) (v : Nat) : (s.raiseVector v).now = s.now := rfl
@[simp] theorem State.raiseVector_tscAdjust (s : State) (v : Nat) : (s.raiseVector v).tscAdjust = s.tscAdjust := rfl
@[simp] theorem State.raiseVector_tower (s : State) (v : Nat) : (s.raiseVector v).tower = s.tower := rfl
@[simp] theorem State.raiseVector_mem (s : State) (v : Nat) : (s.raiseVector v).mem = s.mem := rfl
@[simp] theorem State.raiseVector_washed (s : State) (v : Nat) : (s.raiseVector v).washed = s.washed := rfl
@[simp] theorem State.raiseVector_flaws (s : State) (v : Nat) : (s.raiseVector v).flaws = s.flaws := rfl
@[simp] theorem State.raiseVector_retries (s : State) (v : Nat) : (s.raiseVector v).retries = s.retries := rfl
@[simp] theorem State.raiseVector_badTiles (s : State) (v : Nat) : (s.raiseVector v).badTiles = s.badTiles := rfl
@[simp] theorem State.raiseVector_levels (s : State) (v : Nat) : (s.raiseVector v).levels = s.levels := rfl
@[simp] theorem State.raiseVector_frozen (s : State) (v : Nat) : (s.raiseVector v).frozen = s.frozen := rfl
@[simp] theorem State.raiseVector_sealed (s : State) (v : Nat) : (s.raiseVector v).sealed = s.sealed := rfl
@[simp] theorem State.raiseVector_acl (s : State) (v : Nat) : (s.raiseVector v).acl = s.acl := rfl
@[simp] theorem State.raiseVector_ctl (s : State) (v : Nat) : (s.raiseVector v).ctl = s.ctl := rfl
@[simp] theorem State.raiseVector_tlb (s : State) (v : Nat) : (s.raiseVector v).tlb = s.tlb := rfl
@[simp] theorem State.raiseVector_walks (s : State) (v : Nat) : (s.raiseVector v).walks = s.walks := rfl
@[simp] theorem State.raiseVector_tasks (s : State) (v : Nat) : (s.raiseVector v).tasks = s.tasks := rfl
@[simp] theorem State.raiseVector_nextTask (s : State) (v : Nat) : (s.raiseVector v).nextTask = s.nextTask := rfl
@[simp] theorem State.raiseVector_cores (s : State) (v : Nat) : (s.raiseVector v).cores = s.cores := rfl
@[simp] theorem State.raiseVector_bars (s : State) (v : Nat) : (s.raiseVector v).bars = s.bars := rfl
@[simp] theorem State.raiseVector_sems (s : State) (v : Nat) : (s.raiseVector v).sems = s.sems := rfl
@[simp] theorem State.raiseVector_semRegions (s : State) (v : Nat) : (s.raiseVector v).semRegions = s.semRegions := rfl
@[simp] theorem State.raiseVector_clusters (s : State) (v : Nat) : (s.raiseVector v).clusters = s.clusters := rfl
@[simp] theorem State.raiseVector_tiles (s : State) (v : Nat) : (s.raiseVector v).tiles = s.tiles := rfl
@[simp] theorem State.raiseVector_conflicts (s : State) (v : Nat) : (s.raiseVector v).conflicts = s.conflicts := rfl
@[simp] theorem State.raiseVector_monitors (s : State) (v : Nat) : (s.raiseVector v).monitors = s.monitors := rfl
@[simp] theorem State.raiseVector_copies (s : State) (v : Nat) : (s.raiseVector v).copies = s.copies := rfl
@[simp] theorem State.raiseVector_nextCopy (s : State) (v : Nat) : (s.raiseVector v).nextCopy = s.nextCopy := rfl
@[simp] theorem State.raiseVector_arrivals (s : State) (v : Nat) : (s.raiseVector v).arrivals = s.arrivals := rfl
@[simp] theorem State.raiseVector_nextArrival (s : State) (v : Nat) : (s.raiseVector v).nextArrival = s.nextArrival := rfl
@[simp] theorem State.raiseVector_armings (s : State) (v : Nat) : (s.raiseVector v).armings = s.armings := rfl
@[simp] theorem State.raiseVector_nextArming (s : State) (v : Nat) : (s.raiseVector v).nextArming = s.nextArming := rfl
@[simp] theorem State.raiseVector_leaseOrder (s : State) (v : Nat) : (s.raiseVector v).leaseOrder = s.leaseOrder := rfl
@[simp] theorem State.raiseVector_queues (s : State) (v : Nat) : (s.raiseVector v).queues = s.queues := rfl
@[simp] theorem State.raiseVector_records (s : State) (v : Nat) : (s.raiseVector v).records = s.records := rfl
@[simp] theorem State.raiseVector_opens (s : State) (v : Nat) : (s.raiseVector v).opens = s.opens := rfl
@[simp] theorem State.raiseVector_posted (s : State) (v : Nat) : (s.raiseVector v).posted = s.posted := rfl
@[simp] theorem State.raiseVector_dropped (s : State) (v : Nat) : (s.raiseVector v).dropped = s.dropped := rfl
@[simp] theorem State.raiseVector_proofing (s : State) (v : Nat) : (s.raiseVector v).proofing = s.proofing := rfl
@[simp] theorem State.raiseVector_failedCores (s : State) (v : Nat) : (s.raiseVector v).failedCores = s.failedCores := rfl
@[simp] theorem State.raiseVector_frames (s : State) (v : Nat) : (s.raiseVector v).frames = s.frames := rfl
@[simp] theorem State.raiseVector_saves (s : State) (v : Nat) : (s.raiseVector v).saves = s.saves := rfl
@[simp] theorem State.raiseVector_ink (s : State) (v : Nat) : (s.raiseVector v).ink = s.ink := rfl
@[simp] theorem State.raiseVector_base (s : State) (v : Nat) : (s.raiseVector v).base = s.base := rfl
@[simp] theorem State.raiseVector_clocks (s : State) (v : Nat) : (s.raiseVector v).clocks = s.clocks := rfl
@[simp] theorem State.raiseVector_badWords (s : State) (v : Nat) : (s.raiseVector v).badWords = s.badWords := rfl
@[simp] theorem State.raiseVector_folio (s : State) (v : Nat) : (s.raiseVector v).folio = s.folio := rfl
@[simp] theorem State.raiseVector_fabric (s : State) (v : Nat) : (s.raiseVector v).fabric = s.fabric := rfl
@[simp] theorem State.raiseVector_remotes (s : State) (v : Nat) : (s.raiseVector v).remotes = s.remotes := rfl
@[simp] theorem State.raiseVector_nextTag (s : State) (v : Nat) : (s.raiseVector v).nextTag = s.nextTag := rfl
@[simp] theorem State.raiseVector_kept (s : State) (v : Nat) : (s.raiseVector v).kept = s.kept := rfl
@[simp] theorem State.raiseVector_channels (s : State) (v : Nat) : (s.raiseVector v).channels = s.channels := rfl
@[simp] theorem State.raiseVector_starts (s : State) (v : Nat) : (s.raiseVector v).starts = s.starts := rfl
@[simp] theorem State.raiseVector_shares (s : State) (v : Nat) : (s.raiseVector v).shares = s.shares := rfl
@[simp] theorem State.raiseVector_rub (s : State) (v : Nat) : (s.raiseVector v).rub = s.rub := rfl
@[simp] theorem State.raiseVector_meters (s : State) (v : Nat) : (s.raiseVector v).meters = s.meters := rfl
@[simp] theorem State.raiseVector_fabIn (s : State) (v : Nat) : (s.raiseVector v).fabIn = s.fabIn := rfl
@[simp] theorem State.raiseVector_flitIn (s : State) (v : Nat) : (s.raiseVector v).flitIn = s.flitIn := rfl
@[simp] theorem State.raiseVector_fabOut (s : State) (v : Nat) : (s.raiseVector v).fabOut = s.fabOut := rfl
@[simp] theorem State.raiseVector_flitOut (s : State) (v : Nat) : (s.raiseVector v).flitOut = s.flitOut := rfl
@[simp] theorem State.raiseVector_order (s : State) (v : Nat) : (s.raiseVector v).order = s.order := rfl
@[simp] theorem State.raiseVector_codes (s : State) (v : Nat) : (s.raiseVector v).codes = s.codes := rfl
@[simp] theorem State.raiseVector_cur (s : State) (v : Nat) : (s.raiseVector v).cur = s.cur := rfl
@[simp] theorem State.raiseVector_turn (s : State) (v : Nat) : (s.raiseVector v).turn = s.turn := rfl
@[simp] theorem State.raiseVector_arg (s : State) (v : Nat) : (s.raiseVector v).arg = s.arg := rfl
@[simp] theorem State.raiseVector_agenda (s : State) (v : Nat) : (s.raiseVector v).agenda = s.agenda := rfl
@[simp] theorem State.raiseVector_stalled (s : State) (v : Nat) : (s.raiseVector v).stalled = s.stalled := rfl
@[simp] theorem State.raiseVector_fresh (s : State) (v : Nat) : (s.raiseVector v).fresh = s.fresh := rfl

/-! ## begin -/

@[simp] theorem State.begin_now (s : State) (ag : Agent) : (s.begin ag).now = s.now := rfl
@[simp] theorem State.begin_tscAdjust (s : State) (ag : Agent) : (s.begin ag).tscAdjust = s.tscAdjust := rfl
@[simp] theorem State.begin_tower (s : State) (ag : Agent) : (s.begin ag).tower = s.tower := rfl
@[simp] theorem State.begin_mem (s : State) (ag : Agent) : (s.begin ag).mem = s.mem := rfl
@[simp] theorem State.begin_washed (s : State) (ag : Agent) : (s.begin ag).washed = s.washed := rfl
@[simp] theorem State.begin_flaws (s : State) (ag : Agent) : (s.begin ag).flaws = s.flaws := rfl
@[simp] theorem State.begin_retries (s : State) (ag : Agent) : (s.begin ag).retries = s.retries := rfl
@[simp] theorem State.begin_badTiles (s : State) (ag : Agent) : (s.begin ag).badTiles = s.badTiles := rfl
@[simp] theorem State.begin_levels (s : State) (ag : Agent) : (s.begin ag).levels = s.levels := rfl
@[simp] theorem State.begin_frozen (s : State) (ag : Agent) : (s.begin ag).frozen = s.frozen := rfl
@[simp] theorem State.begin_sealed (s : State) (ag : Agent) : (s.begin ag).sealed = s.sealed := rfl
@[simp] theorem State.begin_acl (s : State) (ag : Agent) : (s.begin ag).acl = s.acl := rfl
@[simp] theorem State.begin_ctl (s : State) (ag : Agent) : (s.begin ag).ctl = s.ctl := rfl
@[simp] theorem State.begin_tlb (s : State) (ag : Agent) : (s.begin ag).tlb = s.tlb := rfl
@[simp] theorem State.begin_walks (s : State) (ag : Agent) : (s.begin ag).walks = s.walks := rfl
@[simp] theorem State.begin_tasks (s : State) (ag : Agent) : (s.begin ag).tasks = s.tasks := rfl
@[simp] theorem State.begin_nextTask (s : State) (ag : Agent) : (s.begin ag).nextTask = s.nextTask := rfl
@[simp] theorem State.begin_cores (s : State) (ag : Agent) : (s.begin ag).cores = s.cores := rfl
@[simp] theorem State.begin_bars (s : State) (ag : Agent) : (s.begin ag).bars = s.bars := rfl
@[simp] theorem State.begin_sems (s : State) (ag : Agent) : (s.begin ag).sems = s.sems := rfl
@[simp] theorem State.begin_semRegions (s : State) (ag : Agent) : (s.begin ag).semRegions = s.semRegions := rfl
@[simp] theorem State.begin_clusters (s : State) (ag : Agent) : (s.begin ag).clusters = s.clusters := rfl
@[simp] theorem State.begin_tiles (s : State) (ag : Agent) : (s.begin ag).tiles = s.tiles := rfl
@[simp] theorem State.begin_conflicts (s : State) (ag : Agent) : (s.begin ag).conflicts = s.conflicts := rfl
@[simp] theorem State.begin_monitors (s : State) (ag : Agent) : (s.begin ag).monitors = s.monitors := rfl
@[simp] theorem State.begin_copies (s : State) (ag : Agent) : (s.begin ag).copies = s.copies := rfl
@[simp] theorem State.begin_nextCopy (s : State) (ag : Agent) : (s.begin ag).nextCopy = s.nextCopy := rfl
@[simp] theorem State.begin_arrivals (s : State) (ag : Agent) : (s.begin ag).arrivals = s.arrivals := rfl
@[simp] theorem State.begin_nextArrival (s : State) (ag : Agent) : (s.begin ag).nextArrival = s.nextArrival := rfl
@[simp] theorem State.begin_armings (s : State) (ag : Agent) : (s.begin ag).armings = s.armings := rfl
@[simp] theorem State.begin_nextArming (s : State) (ag : Agent) : (s.begin ag).nextArming = s.nextArming := rfl
@[simp] theorem State.begin_leaseOrder (s : State) (ag : Agent) : (s.begin ag).leaseOrder = s.leaseOrder := rfl
@[simp] theorem State.begin_queues (s : State) (ag : Agent) : (s.begin ag).queues = s.queues := rfl
@[simp] theorem State.begin_records (s : State) (ag : Agent) : (s.begin ag).records = s.records := rfl
@[simp] theorem State.begin_opens (s : State) (ag : Agent) : (s.begin ag).opens = s.opens := rfl
@[simp] theorem State.begin_posted (s : State) (ag : Agent) : (s.begin ag).posted = s.posted := rfl
@[simp] theorem State.begin_dropped (s : State) (ag : Agent) : (s.begin ag).dropped = s.dropped := rfl
@[simp] theorem State.begin_proofing (s : State) (ag : Agent) : (s.begin ag).proofing = s.proofing := rfl
@[simp] theorem State.begin_failedCores (s : State) (ag : Agent) : (s.begin ag).failedCores = s.failedCores := rfl
@[simp] theorem State.begin_frames (s : State) (ag : Agent) : (s.begin ag).frames = s.frames := rfl
@[simp] theorem State.begin_saves (s : State) (ag : Agent) : (s.begin ag).saves = s.saves := rfl
@[simp] theorem State.begin_ink (s : State) (ag : Agent) : (s.begin ag).ink = s.ink := rfl
@[simp] theorem State.begin_base (s : State) (ag : Agent) : (s.begin ag).base = s.base := rfl
@[simp] theorem State.begin_clocks (s : State) (ag : Agent) : (s.begin ag).clocks = s.clocks := rfl
@[simp] theorem State.begin_badWords (s : State) (ag : Agent) : (s.begin ag).badWords = s.badWords := rfl
@[simp] theorem State.begin_folio (s : State) (ag : Agent) : (s.begin ag).folio = s.folio := rfl
@[simp] theorem State.begin_fabric (s : State) (ag : Agent) : (s.begin ag).fabric = s.fabric := rfl
@[simp] theorem State.begin_remotes (s : State) (ag : Agent) : (s.begin ag).remotes = s.remotes := rfl
@[simp] theorem State.begin_nextTag (s : State) (ag : Agent) : (s.begin ag).nextTag = s.nextTag := rfl
@[simp] theorem State.begin_kept (s : State) (ag : Agent) : (s.begin ag).kept = s.kept := rfl
@[simp] theorem State.begin_channels (s : State) (ag : Agent) : (s.begin ag).channels = s.channels := rfl
@[simp] theorem State.begin_starts (s : State) (ag : Agent) : (s.begin ag).starts = s.starts := rfl
@[simp] theorem State.begin_shares (s : State) (ag : Agent) : (s.begin ag).shares = s.shares := rfl
@[simp] theorem State.begin_host (s : State) (ag : Agent) : (s.begin ag).host = s.host := rfl
@[simp] theorem State.begin_rub (s : State) (ag : Agent) : (s.begin ag).rub = s.rub := rfl
@[simp] theorem State.begin_meters (s : State) (ag : Agent) : (s.begin ag).meters = s.meters := rfl
@[simp] theorem State.begin_fabIn (s : State) (ag : Agent) : (s.begin ag).fabIn = s.fabIn := rfl
@[simp] theorem State.begin_flitIn (s : State) (ag : Agent) : (s.begin ag).flitIn = s.flitIn := rfl
@[simp] theorem State.begin_fabOut (s : State) (ag : Agent) : (s.begin ag).fabOut = s.fabOut := rfl
@[simp] theorem State.begin_flitOut (s : State) (ag : Agent) : (s.begin ag).flitOut = s.flitOut := rfl
@[simp] theorem State.begin_order (s : State) (ag : Agent) : (s.begin ag).order = s.order := rfl
@[simp] theorem State.begin_codes (s : State) (ag : Agent) : (s.begin ag).codes = s.codes := rfl
@[simp] theorem State.begin_arg (s : State) (ag : Agent) : (s.begin ag).arg = s.arg := rfl
@[simp] theorem State.begin_agenda (s : State) (ag : Agent) : (s.begin ag).agenda = s.agenda := rfl
@[simp] theorem State.begin_fresh (s : State) (ag : Agent) : (s.begin ag).fresh = s.fresh := rfl
@[simp] theorem State.begin_cur (s : State) (ag : Agent) : (s.begin ag).cur = ag := rfl
@[simp] theorem State.begin_turn (s : State) (ag : Agent) : (s.begin ag).turn = .idle := rfl
@[simp] theorem State.begin_stalled (s : State) (ag : Agent) : (s.begin ag).stalled = false := rfl

/-! ## ordered -/

@[simp] theorem State.ordered_now (s : State) (f : Order → Order) : (s.ordered f).now = s.now := rfl
@[simp] theorem State.ordered_tscAdjust (s : State) (f : Order → Order) : (s.ordered f).tscAdjust = s.tscAdjust := rfl
@[simp] theorem State.ordered_tower (s : State) (f : Order → Order) : (s.ordered f).tower = s.tower := rfl
@[simp] theorem State.ordered_mem (s : State) (f : Order → Order) : (s.ordered f).mem = s.mem := rfl
@[simp] theorem State.ordered_washed (s : State) (f : Order → Order) : (s.ordered f).washed = s.washed := rfl
@[simp] theorem State.ordered_flaws (s : State) (f : Order → Order) : (s.ordered f).flaws = s.flaws := rfl
@[simp] theorem State.ordered_retries (s : State) (f : Order → Order) : (s.ordered f).retries = s.retries := rfl
@[simp] theorem State.ordered_badTiles (s : State) (f : Order → Order) : (s.ordered f).badTiles = s.badTiles := rfl
@[simp] theorem State.ordered_levels (s : State) (f : Order → Order) : (s.ordered f).levels = s.levels := rfl
@[simp] theorem State.ordered_frozen (s : State) (f : Order → Order) : (s.ordered f).frozen = s.frozen := rfl
@[simp] theorem State.ordered_sealed (s : State) (f : Order → Order) : (s.ordered f).sealed = s.sealed := rfl
@[simp] theorem State.ordered_acl (s : State) (f : Order → Order) : (s.ordered f).acl = s.acl := rfl
@[simp] theorem State.ordered_ctl (s : State) (f : Order → Order) : (s.ordered f).ctl = s.ctl := rfl
@[simp] theorem State.ordered_tlb (s : State) (f : Order → Order) : (s.ordered f).tlb = s.tlb := rfl
@[simp] theorem State.ordered_walks (s : State) (f : Order → Order) : (s.ordered f).walks = s.walks := rfl
@[simp] theorem State.ordered_tasks (s : State) (f : Order → Order) : (s.ordered f).tasks = s.tasks := rfl
@[simp] theorem State.ordered_nextTask (s : State) (f : Order → Order) : (s.ordered f).nextTask = s.nextTask := rfl
@[simp] theorem State.ordered_cores (s : State) (f : Order → Order) : (s.ordered f).cores = s.cores := rfl
@[simp] theorem State.ordered_bars (s : State) (f : Order → Order) : (s.ordered f).bars = s.bars := rfl
@[simp] theorem State.ordered_sems (s : State) (f : Order → Order) : (s.ordered f).sems = s.sems := rfl
@[simp] theorem State.ordered_semRegions (s : State) (f : Order → Order) : (s.ordered f).semRegions = s.semRegions := rfl
@[simp] theorem State.ordered_clusters (s : State) (f : Order → Order) : (s.ordered f).clusters = s.clusters := rfl
@[simp] theorem State.ordered_tiles (s : State) (f : Order → Order) : (s.ordered f).tiles = s.tiles := rfl
@[simp] theorem State.ordered_conflicts (s : State) (f : Order → Order) : (s.ordered f).conflicts = s.conflicts := rfl
@[simp] theorem State.ordered_monitors (s : State) (f : Order → Order) : (s.ordered f).monitors = s.monitors := rfl
@[simp] theorem State.ordered_copies (s : State) (f : Order → Order) : (s.ordered f).copies = s.copies := rfl
@[simp] theorem State.ordered_nextCopy (s : State) (f : Order → Order) : (s.ordered f).nextCopy = s.nextCopy := rfl
@[simp] theorem State.ordered_arrivals (s : State) (f : Order → Order) : (s.ordered f).arrivals = s.arrivals := rfl
@[simp] theorem State.ordered_nextArrival (s : State) (f : Order → Order) : (s.ordered f).nextArrival = s.nextArrival := rfl
@[simp] theorem State.ordered_armings (s : State) (f : Order → Order) : (s.ordered f).armings = s.armings := rfl
@[simp] theorem State.ordered_nextArming (s : State) (f : Order → Order) : (s.ordered f).nextArming = s.nextArming := rfl
@[simp] theorem State.ordered_leaseOrder (s : State) (f : Order → Order) : (s.ordered f).leaseOrder = s.leaseOrder := rfl
@[simp] theorem State.ordered_queues (s : State) (f : Order → Order) : (s.ordered f).queues = s.queues := rfl
@[simp] theorem State.ordered_records (s : State) (f : Order → Order) : (s.ordered f).records = s.records := rfl
@[simp] theorem State.ordered_opens (s : State) (f : Order → Order) : (s.ordered f).opens = s.opens := rfl
@[simp] theorem State.ordered_posted (s : State) (f : Order → Order) : (s.ordered f).posted = s.posted := rfl
@[simp] theorem State.ordered_dropped (s : State) (f : Order → Order) : (s.ordered f).dropped = s.dropped := rfl
@[simp] theorem State.ordered_proofing (s : State) (f : Order → Order) : (s.ordered f).proofing = s.proofing := rfl
@[simp] theorem State.ordered_failedCores (s : State) (f : Order → Order) : (s.ordered f).failedCores = s.failedCores := rfl
@[simp] theorem State.ordered_frames (s : State) (f : Order → Order) : (s.ordered f).frames = s.frames := rfl
@[simp] theorem State.ordered_saves (s : State) (f : Order → Order) : (s.ordered f).saves = s.saves := rfl
@[simp] theorem State.ordered_ink (s : State) (f : Order → Order) : (s.ordered f).ink = s.ink := rfl
@[simp] theorem State.ordered_base (s : State) (f : Order → Order) : (s.ordered f).base = s.base := rfl
@[simp] theorem State.ordered_clocks (s : State) (f : Order → Order) : (s.ordered f).clocks = s.clocks := rfl
@[simp] theorem State.ordered_badWords (s : State) (f : Order → Order) : (s.ordered f).badWords = s.badWords := rfl
@[simp] theorem State.ordered_folio (s : State) (f : Order → Order) : (s.ordered f).folio = s.folio := rfl
@[simp] theorem State.ordered_fabric (s : State) (f : Order → Order) : (s.ordered f).fabric = s.fabric := rfl
@[simp] theorem State.ordered_remotes (s : State) (f : Order → Order) : (s.ordered f).remotes = s.remotes := rfl
@[simp] theorem State.ordered_nextTag (s : State) (f : Order → Order) : (s.ordered f).nextTag = s.nextTag := rfl
@[simp] theorem State.ordered_kept (s : State) (f : Order → Order) : (s.ordered f).kept = s.kept := rfl
@[simp] theorem State.ordered_channels (s : State) (f : Order → Order) : (s.ordered f).channels = s.channels := rfl
@[simp] theorem State.ordered_starts (s : State) (f : Order → Order) : (s.ordered f).starts = s.starts := rfl
@[simp] theorem State.ordered_shares (s : State) (f : Order → Order) : (s.ordered f).shares = s.shares := rfl
@[simp] theorem State.ordered_host (s : State) (f : Order → Order) : (s.ordered f).host = s.host := rfl
@[simp] theorem State.ordered_rub (s : State) (f : Order → Order) : (s.ordered f).rub = s.rub := rfl
@[simp] theorem State.ordered_meters (s : State) (f : Order → Order) : (s.ordered f).meters = s.meters := rfl
@[simp] theorem State.ordered_fabIn (s : State) (f : Order → Order) : (s.ordered f).fabIn = s.fabIn := rfl
@[simp] theorem State.ordered_flitIn (s : State) (f : Order → Order) : (s.ordered f).flitIn = s.flitIn := rfl
@[simp] theorem State.ordered_fabOut (s : State) (f : Order → Order) : (s.ordered f).fabOut = s.fabOut := rfl
@[simp] theorem State.ordered_flitOut (s : State) (f : Order → Order) : (s.ordered f).flitOut = s.flitOut := rfl
@[simp] theorem State.ordered_codes (s : State) (f : Order → Order) : (s.ordered f).codes = s.codes := rfl
@[simp] theorem State.ordered_cur (s : State) (f : Order → Order) : (s.ordered f).cur = s.cur := rfl
@[simp] theorem State.ordered_turn (s : State) (f : Order → Order) : (s.ordered f).turn = s.turn := rfl
@[simp] theorem State.ordered_arg (s : State) (f : Order → Order) : (s.ordered f).arg = s.arg := rfl
@[simp] theorem State.ordered_agenda (s : State) (f : Order → Order) : (s.ordered f).agenda = s.agenda := rfl
@[simp] theorem State.ordered_stalled (s : State) (f : Order → Order) : (s.ordered f).stalled = s.stalled := rfl
@[simp] theorem State.ordered_fresh (s : State) (f : Order → Order) : (s.ordered f).fresh = s.fresh := rfl
@[simp] theorem State.ordered_order (s : State) (f : Order → Order) : (s.ordered f).order = f s.order := rfl

/-! ## keepCode -/

@[simp] theorem State.keepCode_now (s : State) (id : Nat) : (s.keepCode id).now = s.now := rfl
@[simp] theorem State.keepCode_tscAdjust (s : State) (id : Nat) : (s.keepCode id).tscAdjust = s.tscAdjust := rfl
@[simp] theorem State.keepCode_tower (s : State) (id : Nat) : (s.keepCode id).tower = s.tower := rfl
@[simp] theorem State.keepCode_mem (s : State) (id : Nat) : (s.keepCode id).mem = s.mem := rfl
@[simp] theorem State.keepCode_washed (s : State) (id : Nat) : (s.keepCode id).washed = s.washed := rfl
@[simp] theorem State.keepCode_flaws (s : State) (id : Nat) : (s.keepCode id).flaws = s.flaws := rfl
@[simp] theorem State.keepCode_retries (s : State) (id : Nat) : (s.keepCode id).retries = s.retries := rfl
@[simp] theorem State.keepCode_badTiles (s : State) (id : Nat) : (s.keepCode id).badTiles = s.badTiles := rfl
@[simp] theorem State.keepCode_levels (s : State) (id : Nat) : (s.keepCode id).levels = s.levels := rfl
@[simp] theorem State.keepCode_frozen (s : State) (id : Nat) : (s.keepCode id).frozen = s.frozen := rfl
@[simp] theorem State.keepCode_sealed (s : State) (id : Nat) : (s.keepCode id).sealed = s.sealed := rfl
@[simp] theorem State.keepCode_acl (s : State) (id : Nat) : (s.keepCode id).acl = s.acl := rfl
@[simp] theorem State.keepCode_ctl (s : State) (id : Nat) : (s.keepCode id).ctl = s.ctl := rfl
@[simp] theorem State.keepCode_tlb (s : State) (id : Nat) : (s.keepCode id).tlb = s.tlb := rfl
@[simp] theorem State.keepCode_walks (s : State) (id : Nat) : (s.keepCode id).walks = s.walks := rfl
@[simp] theorem State.keepCode_tasks (s : State) (id : Nat) : (s.keepCode id).tasks = s.tasks := rfl
@[simp] theorem State.keepCode_nextTask (s : State) (id : Nat) : (s.keepCode id).nextTask = s.nextTask := rfl
@[simp] theorem State.keepCode_cores (s : State) (id : Nat) : (s.keepCode id).cores = s.cores := rfl
@[simp] theorem State.keepCode_bars (s : State) (id : Nat) : (s.keepCode id).bars = s.bars := rfl
@[simp] theorem State.keepCode_sems (s : State) (id : Nat) : (s.keepCode id).sems = s.sems := rfl
@[simp] theorem State.keepCode_semRegions (s : State) (id : Nat) : (s.keepCode id).semRegions = s.semRegions := rfl
@[simp] theorem State.keepCode_clusters (s : State) (id : Nat) : (s.keepCode id).clusters = s.clusters := rfl
@[simp] theorem State.keepCode_tiles (s : State) (id : Nat) : (s.keepCode id).tiles = s.tiles := rfl
@[simp] theorem State.keepCode_conflicts (s : State) (id : Nat) : (s.keepCode id).conflicts = s.conflicts := rfl
@[simp] theorem State.keepCode_monitors (s : State) (id : Nat) : (s.keepCode id).monitors = s.monitors := rfl
@[simp] theorem State.keepCode_copies (s : State) (id : Nat) : (s.keepCode id).copies = s.copies := rfl
@[simp] theorem State.keepCode_nextCopy (s : State) (id : Nat) : (s.keepCode id).nextCopy = s.nextCopy := rfl
@[simp] theorem State.keepCode_arrivals (s : State) (id : Nat) : (s.keepCode id).arrivals = s.arrivals := rfl
@[simp] theorem State.keepCode_nextArrival (s : State) (id : Nat) : (s.keepCode id).nextArrival = s.nextArrival := rfl
@[simp] theorem State.keepCode_armings (s : State) (id : Nat) : (s.keepCode id).armings = s.armings := rfl
@[simp] theorem State.keepCode_nextArming (s : State) (id : Nat) : (s.keepCode id).nextArming = s.nextArming := rfl
@[simp] theorem State.keepCode_leaseOrder (s : State) (id : Nat) : (s.keepCode id).leaseOrder = s.leaseOrder := rfl
@[simp] theorem State.keepCode_queues (s : State) (id : Nat) : (s.keepCode id).queues = s.queues := rfl
@[simp] theorem State.keepCode_records (s : State) (id : Nat) : (s.keepCode id).records = s.records := rfl
@[simp] theorem State.keepCode_opens (s : State) (id : Nat) : (s.keepCode id).opens = s.opens := rfl
@[simp] theorem State.keepCode_posted (s : State) (id : Nat) : (s.keepCode id).posted = s.posted := rfl
@[simp] theorem State.keepCode_dropped (s : State) (id : Nat) : (s.keepCode id).dropped = s.dropped := rfl
@[simp] theorem State.keepCode_proofing (s : State) (id : Nat) : (s.keepCode id).proofing = s.proofing := rfl
@[simp] theorem State.keepCode_failedCores (s : State) (id : Nat) : (s.keepCode id).failedCores = s.failedCores := rfl
@[simp] theorem State.keepCode_frames (s : State) (id : Nat) : (s.keepCode id).frames = s.frames := rfl
@[simp] theorem State.keepCode_saves (s : State) (id : Nat) : (s.keepCode id).saves = s.saves := rfl
@[simp] theorem State.keepCode_ink (s : State) (id : Nat) : (s.keepCode id).ink = s.ink := rfl
@[simp] theorem State.keepCode_base (s : State) (id : Nat) : (s.keepCode id).base = s.base := rfl
@[simp] theorem State.keepCode_clocks (s : State) (id : Nat) : (s.keepCode id).clocks = s.clocks := rfl
@[simp] theorem State.keepCode_badWords (s : State) (id : Nat) : (s.keepCode id).badWords = s.badWords := rfl
@[simp] theorem State.keepCode_folio (s : State) (id : Nat) : (s.keepCode id).folio = s.folio := rfl
@[simp] theorem State.keepCode_fabric (s : State) (id : Nat) : (s.keepCode id).fabric = s.fabric := rfl
@[simp] theorem State.keepCode_remotes (s : State) (id : Nat) : (s.keepCode id).remotes = s.remotes := rfl
@[simp] theorem State.keepCode_nextTag (s : State) (id : Nat) : (s.keepCode id).nextTag = s.nextTag := rfl
@[simp] theorem State.keepCode_kept (s : State) (id : Nat) : (s.keepCode id).kept = s.kept := rfl
@[simp] theorem State.keepCode_channels (s : State) (id : Nat) : (s.keepCode id).channels = s.channels := rfl
@[simp] theorem State.keepCode_starts (s : State) (id : Nat) : (s.keepCode id).starts = s.starts := rfl
@[simp] theorem State.keepCode_shares (s : State) (id : Nat) : (s.keepCode id).shares = s.shares := rfl
@[simp] theorem State.keepCode_host (s : State) (id : Nat) : (s.keepCode id).host = s.host := rfl
@[simp] theorem State.keepCode_rub (s : State) (id : Nat) : (s.keepCode id).rub = s.rub := rfl
@[simp] theorem State.keepCode_meters (s : State) (id : Nat) : (s.keepCode id).meters = s.meters := rfl
@[simp] theorem State.keepCode_fabIn (s : State) (id : Nat) : (s.keepCode id).fabIn = s.fabIn := rfl
@[simp] theorem State.keepCode_flitIn (s : State) (id : Nat) : (s.keepCode id).flitIn = s.flitIn := rfl
@[simp] theorem State.keepCode_fabOut (s : State) (id : Nat) : (s.keepCode id).fabOut = s.fabOut := rfl
@[simp] theorem State.keepCode_flitOut (s : State) (id : Nat) : (s.keepCode id).flitOut = s.flitOut := rfl
@[simp] theorem State.keepCode_order (s : State) (id : Nat) : (s.keepCode id).order = s.order := rfl
@[simp] theorem State.keepCode_cur (s : State) (id : Nat) : (s.keepCode id).cur = s.cur := rfl
@[simp] theorem State.keepCode_turn (s : State) (id : Nat) : (s.keepCode id).turn = s.turn := rfl
@[simp] theorem State.keepCode_arg (s : State) (id : Nat) : (s.keepCode id).arg = s.arg := rfl
@[simp] theorem State.keepCode_agenda (s : State) (id : Nat) : (s.keepCode id).agenda = s.agenda := rfl
@[simp] theorem State.keepCode_stalled (s : State) (id : Nat) : (s.keepCode id).stalled = s.stalled := rfl
@[simp] theorem State.keepCode_fresh (s : State) (id : Nat) : (s.keepCode id).fresh = s.fresh := rfl

/-! ## setWashing -/

@[simp] theorem State.setWashing_now (s : State) (key : Nat) (v : Option (Option (List Byte))) : (s.setWashing key v).now = s.now :=
  rfl
@[simp] theorem State.setWashing_tscAdjust (s : State) (key : Nat) (v : Option (Option (List Byte))) : (s.setWashing key v).tscAdjust = s.tscAdjust :=
  rfl
@[simp] theorem State.setWashing_tower (s : State) (key : Nat) (v : Option (Option (List Byte))) : (s.setWashing key v).tower = s.tower :=
  rfl
@[simp] theorem State.setWashing_mem (s : State) (key : Nat) (v : Option (Option (List Byte))) : (s.setWashing key v).mem = s.mem :=
  rfl
@[simp] theorem State.setWashing_washed (s : State) (key : Nat) (v : Option (Option (List Byte))) : (s.setWashing key v).washed = s.washed :=
  rfl
@[simp] theorem State.setWashing_flaws (s : State) (key : Nat) (v : Option (Option (List Byte))) : (s.setWashing key v).flaws = s.flaws :=
  rfl
@[simp] theorem State.setWashing_retries (s : State) (key : Nat) (v : Option (Option (List Byte))) : (s.setWashing key v).retries = s.retries :=
  rfl
@[simp] theorem State.setWashing_badTiles (s : State) (key : Nat) (v : Option (Option (List Byte))) : (s.setWashing key v).badTiles = s.badTiles :=
  rfl
@[simp] theorem State.setWashing_levels (s : State) (key : Nat) (v : Option (Option (List Byte))) : (s.setWashing key v).levels = s.levels :=
  rfl
@[simp] theorem State.setWashing_frozen (s : State) (key : Nat) (v : Option (Option (List Byte))) : (s.setWashing key v).frozen = s.frozen :=
  rfl
@[simp] theorem State.setWashing_sealed (s : State) (key : Nat) (v : Option (Option (List Byte))) : (s.setWashing key v).sealed = s.sealed :=
  rfl
@[simp] theorem State.setWashing_acl (s : State) (key : Nat) (v : Option (Option (List Byte))) : (s.setWashing key v).acl = s.acl :=
  rfl
@[simp] theorem State.setWashing_ctl (s : State) (key : Nat) (v : Option (Option (List Byte))) : (s.setWashing key v).ctl = s.ctl :=
  rfl
@[simp] theorem State.setWashing_tlb (s : State) (key : Nat) (v : Option (Option (List Byte))) : (s.setWashing key v).tlb = s.tlb :=
  rfl
@[simp] theorem State.setWashing_walks (s : State) (key : Nat) (v : Option (Option (List Byte))) : (s.setWashing key v).walks = s.walks :=
  rfl
@[simp] theorem State.setWashing_tasks (s : State) (key : Nat) (v : Option (Option (List Byte))) : (s.setWashing key v).tasks = s.tasks :=
  rfl
@[simp] theorem State.setWashing_nextTask (s : State) (key : Nat) (v : Option (Option (List Byte))) : (s.setWashing key v).nextTask = s.nextTask :=
  rfl
@[simp] theorem State.setWashing_cores (s : State) (key : Nat) (v : Option (Option (List Byte))) : (s.setWashing key v).cores = s.cores :=
  rfl
@[simp] theorem State.setWashing_bars (s : State) (key : Nat) (v : Option (Option (List Byte))) : (s.setWashing key v).bars = s.bars :=
  rfl
@[simp] theorem State.setWashing_sems (s : State) (key : Nat) (v : Option (Option (List Byte))) : (s.setWashing key v).sems = s.sems :=
  rfl
@[simp] theorem State.setWashing_semRegions (s : State) (key : Nat) (v : Option (Option (List Byte))) : (s.setWashing key v).semRegions = s.semRegions :=
  rfl
@[simp] theorem State.setWashing_clusters (s : State) (key : Nat) (v : Option (Option (List Byte))) : (s.setWashing key v).clusters = s.clusters :=
  rfl
@[simp] theorem State.setWashing_tiles (s : State) (key : Nat) (v : Option (Option (List Byte))) : (s.setWashing key v).tiles = s.tiles :=
  rfl
@[simp] theorem State.setWashing_conflicts (s : State) (key : Nat) (v : Option (Option (List Byte))) : (s.setWashing key v).conflicts = s.conflicts :=
  rfl
@[simp] theorem State.setWashing_monitors (s : State) (key : Nat) (v : Option (Option (List Byte))) : (s.setWashing key v).monitors = s.monitors :=
  rfl
@[simp] theorem State.setWashing_copies (s : State) (key : Nat) (v : Option (Option (List Byte))) : (s.setWashing key v).copies = s.copies :=
  rfl
@[simp] theorem State.setWashing_nextCopy (s : State) (key : Nat) (v : Option (Option (List Byte))) : (s.setWashing key v).nextCopy = s.nextCopy :=
  rfl
@[simp] theorem State.setWashing_arrivals (s : State) (key : Nat) (v : Option (Option (List Byte))) : (s.setWashing key v).arrivals = s.arrivals :=
  rfl
@[simp] theorem State.setWashing_nextArrival (s : State) (key : Nat) (v : Option (Option (List Byte))) : (s.setWashing key v).nextArrival = s.nextArrival :=
  rfl
@[simp] theorem State.setWashing_armings (s : State) (key : Nat) (v : Option (Option (List Byte))) : (s.setWashing key v).armings = s.armings :=
  rfl
@[simp] theorem State.setWashing_nextArming (s : State) (key : Nat) (v : Option (Option (List Byte))) : (s.setWashing key v).nextArming = s.nextArming :=
  rfl
@[simp] theorem State.setWashing_leaseOrder (s : State) (key : Nat) (v : Option (Option (List Byte))) : (s.setWashing key v).leaseOrder = s.leaseOrder :=
  rfl
@[simp] theorem State.setWashing_queues (s : State) (key : Nat) (v : Option (Option (List Byte))) : (s.setWashing key v).queues = s.queues :=
  rfl
@[simp] theorem State.setWashing_records (s : State) (key : Nat) (v : Option (Option (List Byte))) : (s.setWashing key v).records = s.records :=
  rfl
@[simp] theorem State.setWashing_opens (s : State) (key : Nat) (v : Option (Option (List Byte))) : (s.setWashing key v).opens = s.opens :=
  rfl
@[simp] theorem State.setWashing_posted (s : State) (key : Nat) (v : Option (Option (List Byte))) : (s.setWashing key v).posted = s.posted :=
  rfl
@[simp] theorem State.setWashing_dropped (s : State) (key : Nat) (v : Option (Option (List Byte))) : (s.setWashing key v).dropped = s.dropped :=
  rfl
@[simp] theorem State.setWashing_proofing (s : State) (key : Nat) (v : Option (Option (List Byte))) : (s.setWashing key v).proofing = s.proofing :=
  rfl
@[simp] theorem State.setWashing_failedCores (s : State) (key : Nat) (v : Option (Option (List Byte))) : (s.setWashing key v).failedCores = s.failedCores :=
  rfl
@[simp] theorem State.setWashing_frames (s : State) (key : Nat) (v : Option (Option (List Byte))) : (s.setWashing key v).frames = s.frames :=
  rfl
@[simp] theorem State.setWashing_saves (s : State) (key : Nat) (v : Option (Option (List Byte))) : (s.setWashing key v).saves = s.saves :=
  rfl
@[simp] theorem State.setWashing_ink (s : State) (key : Nat) (v : Option (Option (List Byte))) : (s.setWashing key v).ink = s.ink :=
  rfl
@[simp] theorem State.setWashing_base (s : State) (key : Nat) (v : Option (Option (List Byte))) : (s.setWashing key v).base = s.base :=
  rfl
@[simp] theorem State.setWashing_clocks (s : State) (key : Nat) (v : Option (Option (List Byte))) : (s.setWashing key v).clocks = s.clocks :=
  rfl
@[simp] theorem State.setWashing_badWords (s : State) (key : Nat) (v : Option (Option (List Byte))) : (s.setWashing key v).badWords = s.badWords :=
  rfl
@[simp] theorem State.setWashing_folio (s : State) (key : Nat) (v : Option (Option (List Byte))) : (s.setWashing key v).folio = s.folio :=
  rfl
@[simp] theorem State.setWashing_fabric (s : State) (key : Nat) (v : Option (Option (List Byte))) : (s.setWashing key v).fabric = s.fabric :=
  rfl
@[simp] theorem State.setWashing_remotes (s : State) (key : Nat) (v : Option (Option (List Byte))) : (s.setWashing key v).remotes = s.remotes :=
  rfl
@[simp] theorem State.setWashing_nextTag (s : State) (key : Nat) (v : Option (Option (List Byte))) : (s.setWashing key v).nextTag = s.nextTag :=
  rfl
@[simp] theorem State.setWashing_kept (s : State) (key : Nat) (v : Option (Option (List Byte))) : (s.setWashing key v).kept = s.kept :=
  rfl
@[simp] theorem State.setWashing_channels (s : State) (key : Nat) (v : Option (Option (List Byte))) : (s.setWashing key v).channels = s.channels :=
  rfl
@[simp] theorem State.setWashing_starts (s : State) (key : Nat) (v : Option (Option (List Byte))) : (s.setWashing key v).starts = s.starts :=
  rfl
@[simp] theorem State.setWashing_shares (s : State) (key : Nat) (v : Option (Option (List Byte))) : (s.setWashing key v).shares = s.shares :=
  rfl
@[simp] theorem State.setWashing_rub (s : State) (key : Nat) (v : Option (Option (List Byte))) : (s.setWashing key v).rub = s.rub :=
  rfl
@[simp] theorem State.setWashing_meters (s : State) (key : Nat) (v : Option (Option (List Byte))) : (s.setWashing key v).meters = s.meters :=
  rfl
@[simp] theorem State.setWashing_fabIn (s : State) (key : Nat) (v : Option (Option (List Byte))) : (s.setWashing key v).fabIn = s.fabIn :=
  rfl
@[simp] theorem State.setWashing_flitIn (s : State) (key : Nat) (v : Option (Option (List Byte))) : (s.setWashing key v).flitIn = s.flitIn :=
  rfl
@[simp] theorem State.setWashing_fabOut (s : State) (key : Nat) (v : Option (Option (List Byte))) : (s.setWashing key v).fabOut = s.fabOut :=
  rfl
@[simp] theorem State.setWashing_flitOut (s : State) (key : Nat) (v : Option (Option (List Byte))) : (s.setWashing key v).flitOut = s.flitOut :=
  rfl
@[simp] theorem State.setWashing_order (s : State) (key : Nat) (v : Option (Option (List Byte))) : (s.setWashing key v).order = s.order :=
  rfl
@[simp] theorem State.setWashing_codes (s : State) (key : Nat) (v : Option (Option (List Byte))) : (s.setWashing key v).codes = s.codes :=
  rfl
@[simp] theorem State.setWashing_cur (s : State) (key : Nat) (v : Option (Option (List Byte))) : (s.setWashing key v).cur = s.cur :=
  rfl
@[simp] theorem State.setWashing_turn (s : State) (key : Nat) (v : Option (Option (List Byte))) : (s.setWashing key v).turn = s.turn :=
  rfl
@[simp] theorem State.setWashing_arg (s : State) (key : Nat) (v : Option (Option (List Byte))) : (s.setWashing key v).arg = s.arg :=
  rfl
@[simp] theorem State.setWashing_agenda (s : State) (key : Nat) (v : Option (Option (List Byte))) : (s.setWashing key v).agenda = s.agenda :=
  rfl
@[simp] theorem State.setWashing_stalled (s : State) (key : Nat) (v : Option (Option (List Byte))) : (s.setWashing key v).stalled = s.stalled :=
  rfl
@[simp] theorem State.setWashing_fresh (s : State) (key : Nat) (v : Option (Option (List Byte))) : (s.setWashing key v).fresh = s.fresh :=
  rfl

end Sys2Proof.Machine
end

