-- ==== Sys2Proof/Laws/Ops.lean ====
section
/-! SUPPORT. What the shared operations do: registers, the program counter, bytes of memory, what monitor units measure, and a
trap of a task. Each lemma says everything its operation changes. -/

namespace Sys2Proof.Machine

/-! ## Registers (R14) -/

theorem State.reg_zero (s : State) : s.reg 0 = 0 := rfl

/-- A write to a register changes nothing but registers, and which loads still write one. -/
theorem State.setReg_eq (s : State) (n : BitVec 6) (v : Word) :
    s.setReg n v = { s with tasks := (s.setReg n v).tasks, rub := (s.setReg n v).rub } := by
  unfold State.setReg
  split <;> rfl

theorem State.setReg_zero_rub (s : State) (v : Word) (h : s.cur = .rub) : s.setReg 0 v = s := by
  unfold State.setReg
  split
  · rfl
  · simp_all

/-- What a register holds after a write: the value in the register written, unless it is `a0`. -/
theorem State.reg_setReg_task (s : State) (n m : BitVec 6) (v : Word) {id : Nat} {st : Stream} {t : Task}
    (hc : s.cur = .task id st) (ht : s.task? id = some t) :
    (s.setReg n v).reg m = if m = n ∧ n ≠ 0 then v else s.reg m := by
  have hf : SMap.find? id s.tasks = some t := ht
  by_cases hm : m = 0#6
  · subst hm
    by_cases h0 : 0#6 = n
    · subst h0; simp [State.reg]
    · simp [State.reg, h0]
  · by_cases hn : n = 0#6
    · subst hn
      simp [State.reg, hm, State.setReg, hc, State.onTask, State.task?, Task.setReg, SMap.find?_adjust_self, hf]
    · by_cases he : m = n
      · subst he
        simp [State.reg, hm, State.setReg, hc, State.onTask, State.task?, Task.setReg, SMap.find?_adjust_self, hf,
          SMap.get_set_self]
      · have : m.toNat ≠ n.toNat := fun e => he (BitVec.eq_of_toNat_eq e)
        simp [State.reg, hm, hn, he, State.setReg, hc, State.onTask, State.task?, Task.setReg,
          SMap.find?_adjust_self, hf, SMap.get_set_ne _ _ _ _ _ this]

/-- The same on the Rubricator. -/
theorem State.reg_setReg_rub (s : State) (n m : BitVec 6) (v : Word) (hc : s.cur = .rub) :
    (s.setReg n v).reg m = if m = n ∧ n ≠ 0 then v else s.reg m := by
  by_cases hm : m = 0#6
  · subst hm
    by_cases h0 : 0#6 = n
    · subst h0; simp [State.reg]
    · simp [State.reg, h0]
  · by_cases hn : n = 0#6
    · subst hn
      simp [State.reg, hm, State.setReg, hc, Rub.setReg]
    · by_cases he : m = n
      · subst he
        simp [State.reg, hm, State.setReg, hc, Rub.setReg, SMap.get_set_self]
      · have : m.toNat ≠ n.toNat := fun e => he (BitVec.eq_of_toNat_eq e)
        simp [State.reg, hm, hn, he, State.setReg, hc, Rub.setReg, SMap.get_set_ne _ _ _ _ _ this]

/-! ## The program counter (R80) -/

/-- Going on changes nothing but the stream, or the Rubricator's program counter. -/
theorem State.advance_eq (s : State) : s.advance = { s with tasks := s.advance.tasks, rub := s.advance.rub } := by
  unfold State.advance
  split <;> rfl

theorem State.goto_eq (s : State) (p : Parcel) : s.goto p = { s with tasks := (s.goto p).tasks, rub := (s.goto p).rub } := by
  unfold State.goto
  split <;> rfl

theorem State.reg_advance (s : State) (m : BitVec 6) : s.advance.reg m = s.reg m := by
  unfold State.advance
  split
  · rename_i h; simp [State.reg, h]
  · rename_i id st h
    simp only [State.reg, State.onTask, h, State.task?]
    rw [SMap.find?_adjust_self]
    cases hf : SMap.find? id s.tasks with
    | none => rfl
    | some t =>
      dsimp only [Option.map]
      split
      · rfl
      · cases st <;> split <;> rfl

/-! ## Bytes of memory (R9) -/

theorem State.byte_setByte_self (s : State) (a : Nat) (b : Byte) : (s.setByte a b).byte a = b := by
  simp [State.byte, State.setByte, SMap.get_set_self]

theorem State.byte_setByte_ne (s : State) (a c : Nat) (b : Byte) (h : a ≠ c) : (s.setByte a b).byte c = s.byte c := by
  simp [State.byte, State.setByte, SMap.get_set_ne _ _ _ _ _ (Ne.symm h)]

/-- A write of bytes changes memory alone. -/
theorem State.setBytes_eq (s : State) (a : Nat) (bs : List Byte) : s.setBytes a bs = { s with mem := (s.setBytes a bs).mem } := by
  induction bs generalizing s a with
  | nil => rfl
  | cons b t ih =>
    have h := ih (s.setByte a b) (a + 1)
    simp only [State.setBytes]
    rw [h]
    rfl

/-- Outside the bytes written every byte reads as before. -/
theorem State.byte_setBytes_out (s : State) (a c : Nat) (bs : List Byte) (h : ¬(a ≤ c ∧ c < a + bs.length)) :
    (s.setBytes a bs).byte c = s.byte c := by
  induction bs generalizing s a with
  | nil => rfl
  | cons b t ih =>
    simp only [State.setBytes, List.length_cons] at h ⊢
    rw [ih (s.setByte a b) (a + 1) (by omega), State.byte_setByte_ne _ _ _ _ (by omega)]

/-- The bytes written read as written. -/
theorem State.byte_setBytes_in (s : State) (a i : Nat) (bs : List Byte) (h : i < bs.length) :
    (s.setBytes a bs).byte (a + i) = bs.getD i 0 := by
  induction bs generalizing s a i with
  | nil => simp at h
  | cons b t ih =>
    cases i with
    | zero =>
      simp only [State.setBytes, Nat.add_zero]
      rw [State.byte_setBytes_out _ _ _ _ (by omega), State.byte_setByte_self]
      rfl
    | succ i =>
      simp only [State.setBytes]
      have := ih (s.setByte a b) (a + 1) i (by simpa using h)
      rw [show a + (i + 1) = a + 1 + i by omega, this]
      simp

/-! ## What monitor units measure (R394) -/

/-- A measured value changes the monitor units alone. -/
theorem State.measure_eq (s : State) (core sel v : Nat) :
    s.measure core sel v = { s with monitors := (s.measure core sel v).monitors } := by
  unfold State.measure
  split
  · rfl
  · simp only [List.foldl]
    split <;> split <;> rfl

theorem State.measureLoad_eq (s : State) (core : Nat) (l : Load) :
    s.measureLoad core l = { s with monitors := (s.measureLoad core l).monitors } := by
  unfold State.measureLoad
  split
  · exact State.measure_eq _ _ _ _
  · rfl

theorem State.measureReturns_eq (s : State) (t : Task) :
    s.measureReturns t = { s with monitors := (s.measureReturns t).monitors } := by
  unfold State.measureReturns
  generalize t.loads = ls
  suffices h : ∀ (ls : List Load) (u : State), u = { s with monitors := u.monitors } →
      let r := ls.foldl (fun s l =>
        match l.dst with
        | .reg _ => if l.returned || l.tag.isSome then s else s.measureLoad t.core l
        | .xq _ _ => s) u
      r = { s with monitors := r.monitors } by
    exact h ls s rfl
  intro ls
  induction ls with
  | nil => exact fun u hu => hu
  | cons l ls ih =>
    intro u hu
    refine ih _ ?_
    dsimp only
    split
    · split
      · exact hu
      · rw [State.measureLoad_eq, hu]
    · exact hu

/-! ## A trap of a task (R349 to R358) -/

theorem State.cyc_measureReturns (s : State) (t : Task) (core : Nat) : (s.measureReturns t).cyc core = s.cyc core := by
  rw [State.measureReturns_eq]
  rfl

/-- A trap that the task's handler takes. -/
theorem State.trapTask_inside (s : State) (id : Nat) (st : Stream) (t : Task) (c : Cause) (pc : Parcel) (va x : Nat)
    (h : s.task? id = some t) (ht : t.takesInside c = true) :
    s.trapTask id st c pc va x =
      { s with monitors := (s.measureReturns t).monitors
               tasks := s.tasks.put id (t.enterHandler c st pc (s.cyc t.core)) } := by
  simp only [State.trapTask, h, ht, if_true, State.cyc_measureReturns, State.setTask]
  rw [State.measureReturns_eq]

/-- A trap that parks the task on a record. -/
theorem State.trapTask_record (s : State) (id : Nat) (st : Stream) (t : Task) (c : Cause) (pc : Parcel) (va x : Nat)
    (h : s.task? id = some t) (ht : t.takesInside c = false) :
    s.trapTask id st c pc va x =
      { s with monitors := (s.measureReturns t).monitors
               tasks := s.tasks.put id (t.parkOnRecord c st pc (s.cyc t.core))
               records := s.records ++ [s.taskRecord id t st c pc va x] } := by
  simp only [State.trapTask, h, ht, State.cyc_measureReturns, State.setTask, State.post]
  rw [State.measureReturns_eq]
  rfl

/-- A trap of the Rubricator, with a vector and outside its handler. -/
theorem State.trapRub_vector (s : State) (c : Cause) (pc : Parcel) (h : s.rub.tvec ≠ 0 ∧ s.rub.inHandler = false) :
    s.trapRub c pc = { s with
      rub := { s.rub.returnLoads with
        cause := BitVec.ofNat 8 c.code, tpc := pc, wait := none, inHandler := true, before := s.rub.nextLoad, pc := s.rub.tvec } } := by
  have g : s.rub.returnLoads.tvec ≠ 0 ∧ s.rub.returnLoads.inHandler = false := h
  simp only [State.trapRub]
  rw [if_pos g]
  rfl

/-- A trap of the Rubricator that halts it. -/
theorem State.trapRub_halt (s : State) (c : Cause) (pc : Parcel) (h : ¬(s.rub.tvec ≠ 0 ∧ s.rub.inHandler = false)) :
    s.trapRub c pc = { s with
      rub := { s.rub.returnLoads with cause := BitVec.ofNat 8 c.code, tpc := pc, wait := none, halted := true, running := false }
      host := { s.host with bootStat := 6, msiPend := s.host.msiPend ||| (1#65 <<< 64) } } := by
  have g : ¬(s.rub.returnLoads.tvec ≠ 0 ∧ s.rub.returnLoads.inHandler = false) := h
  simp only [State.trapRub]
  rw [if_neg g]

end Sys2Proof.Machine
end

