-- ==== Sys2Proof/Safety.lean ====
section
/-! DEFINITION. What claims call safe: the canonical form of memory, the outcomes that go on, and the turns that a run of the
machine can meet. -/

namespace Sys2Proof

open Sys2Proof.Machine

/-- Memory is in canonical form: addresses strictly rising, no listed byte equal to what an unlisted one reads as. -/
def Memory.wf (m : List Host.Cell) : Bool := SMap.wf (α := Byte) 0 m

namespace Machine

/-- The invariant of the machine's memory. -/
abbrev State.memoryOk (s : State) : Prop := Memory.wf s.mem = true

/-- A turn that a run can meet: a step that is no word is one of the opcode table's. -/
def Turn.proper : Turn → Bool
  | .event i _ => isEvent i
  | _ => true

/-- An outcome that goes on. -/
def goesOn : Host.Outcome State Fault Refusal → Prop
  | .next _ => True
  | _ => False

end Machine

end Sys2Proof
end

