-- ==== Sys2Proof/Laws/Execute.lean ====
section
/-! SUPPORT. What the forms that the meanings are written in answer: a word of each stream, and a step that is no word. Beside it,
that every meaning goes on. -/

namespace Sys2Proof.Machine

/-! ## The forms of a meaning -/

/-- A word of the A stream whose registers are ready. -/
theorem State.aWord_next (s : State) (ns : List (BitVec 6)) (f : State → Try State) (ha : s.acts .a = true)
    (hr : s.ready ns = true) : s.aWord ns f = .next (s.finish (f s)) := by
  simp [State.aWord, ha, hr]

/-- A word of a task's A stream whose registers are ready. -/
theorem State.taskWord_next (s : State) (ns : List (BitVec 6)) (f : State → Nat → Task → Try State) {id : Nat} {t : Task}
    (hc : s.cur = .task id .a) (ht : s.task? id = some t) (hr : s.ready ns = true) :
    s.taskWord ns f = .next (s.finish (f s id t)) := by
  unfold State.taskWord
  rw [State.aWord_next s ns _ (by simp [State.acts, hc, ht]) hr]
  simp [hc, ht]

/-- A word of the M stream. -/
theorem State.mTask_next (s : State) (f : State → Nat → Task → Try State) {id : Nat} {t : Task} (hc : s.cur = .task id .m)
    (ht : s.task? id = some t) : s.mTask f = .next (s.finish (f s id t)) := by
  simp [State.mTask, State.mWord, State.acts, hc, ht]

/-- A word of the X stream of a task, with every effect due in the cycle landed. -/
theorem State.xWord_next (s : State) (f : State → Nat → Task → Nat → Try State) {id : Nat} {t : Task} (hc : s.cur = .task id .x)
    (ht : s.task? id = some t) (hl : t.landingsDue (s.cyc t.core) = false) :
    s.xWord f = .next (s.finish (f s id t.settleRotation (s.cyc t.core))) := by
  simp [State.xWord, State.acts, hc, ht, hl]

/-- Sequencing after a result. -/
theorem Try.ok_bind {α β : Type} (x : α) (f : α → Try β) : (Except.ok x : Try α) >>= f = f x := rfl

/-- Sequencing after a stop. -/
theorem Try.error_bind {α β : Type} (e : Stop) (f : α → Try β) : (Except.error e : Try α) >>= f = .error e := rfl

@[simp] theorem require_true (c : Cause) : require true c = .ok () := rfl
@[simp] theorem require_false (c : Cause) : require false c = .error (.trap c 0) := rfl
@[simp] theorem await_true : await true = .ok () := rfl
@[simp] theorem await_false : await false = .error .hold := rfl
@[simp] theorem need_some {α : Type} (x : α) : need (some x) = .ok x := rfl
@[simp] theorem need_none {α : Type} : need (none : Option α) = .error .hold := rfl

/-! ## Every meaning goes on -/

theorem State.aWord_goesOn (s : State) (ns : List (BitVec 6)) (f : State → Try State) (h : s.acts .a = true) :
    goesOn (s.aWord ns f) := by
  unfold State.aWord
  simp only [h, Bool.not_true, Bool.false_eq_true, if_false]
  split <;> trivial

theorem State.taskWord_goesOn (s : State) (ns : List (BitVec 6)) (f : State → Nat → Task → Try State) (h : s.acts .a = true) :
    goesOn (s.taskWord ns f) := State.aWord_goesOn s ns _ h

theorem State.mTask_goesOn (s : State) (f : State → Nat → Task → Try State) (h : s.acts .m = true) : goesOn (s.mTask f) := by
  unfold State.mTask State.mWord
  simp only [h, Bool.not_true, Bool.false_eq_true, if_false]
  trivial

theorem State.xWord_goesOn (s : State) (f : State → Nat → Task → Nat → Try State) (h : s.acts .x = true) : goesOn (s.xWord f) := by
  unfold State.xWord
  simp only [h, Bool.not_true, Bool.false_eq_true, if_false]
  trivial

theorem State.event_goesOn (s : State) (f : State → Try State) : goesOn (s.event f) := trivial

/-- Every word of the A stream that is issued by whoever runs there goes on. -/
theorem exec_a_goesOn (i : Instr) (s : State) (h : i.space = some .a) (ha : s.acts .a = true) : goesOn (exec i s) := by
  cases i with
  | add w => exact (by unfold execAdd State.alu2; exact State.aWord_goesOn s _ _ ha : goesOn (execAdd w s))
  | sub w => exact (by unfold execSub State.alu2; exact State.aWord_goesOn s _ _ ha : goesOn (execSub w s))
  | addi w => exact (by unfold execAddi; exact State.aWord_goesOn s _ _ ha : goesOn (execAddi w s))
  | mul w => exact (by unfold execMul State.alu2; exact State.aWord_goesOn s _ _ ha : goesOn (execMul w s))
  | mulh w => exact (by unfold execMulh State.alu2; exact State.aWord_goesOn s _ _ ha : goesOn (execMulh w s))
  | mulhn w => exact (by unfold execMulhn State.alu2; exact State.aWord_goesOn s _ _ ha : goesOn (execMulhn w s))
  | div w => exact (by unfold execDiv State.divide; exact State.aWord_goesOn s _ _ ha : goesOn (execDiv w s))
  | divn w => exact (by unfold execDivn State.divide; exact State.aWord_goesOn s _ _ ha : goesOn (execDivn w s))
  | rem w => exact (by unfold execRem State.divide; exact State.aWord_goesOn s _ _ ha : goesOn (execRem w s))
  | remn w => exact (by unfold execRemn State.divide; exact State.aWord_goesOn s _ _ ha : goesOn (execRemn w s))
  | and w => exact (by unfold execAnd State.alu2; exact State.aWord_goesOn s _ _ ha : goesOn (execAnd w s))
  | or w => exact (by unfold execOr State.alu2; exact State.aWord_goesOn s _ _ ha : goesOn (execOr w s))
  | xor w => exact (by unfold execXor State.alu2; exact State.aWord_goesOn s _ _ ha : goesOn (execXor w s))
  | andn w => exact (by unfold execAndn State.alu2; exact State.aWord_goesOn s _ _ ha : goesOn (execAndn w s))
  | shl w => exact (by unfold execShl State.alu2; exact State.aWord_goesOn s _ _ ha : goesOn (execShl w s))
  | shr w => exact (by unfold execShr State.alu2; exact State.aWord_goesOn s _ _ ha : goesOn (execShr w s))
  | sra w => exact (by unfold execSra State.alu2; exact State.aWord_goesOn s _ _ ha : goesOn (execSra w s))
  | rol w => exact (by unfold execRol State.alu2; exact State.aWord_goesOn s _ _ ha : goesOn (execRol w s))
  | ror w => exact (by unfold execRor State.alu2; exact State.aWord_goesOn s _ _ ha : goesOn (execRor w s))
  | clz w => exact (by unfold execClz State.alu1; exact State.aWord_goesOn s _ _ ha : goesOn (execClz w s))
  | ctz w => exact (by unfold execCtz State.alu1; exact State.aWord_goesOn s _ _ ha : goesOn (execCtz w s))
  | popc w => exact (by unfold execPopc State.alu1; exact State.aWord_goesOn s _ _ ha : goesOn (execPopc w s))
  | min w => exact (by unfold execMin State.alu2; exact State.aWord_goesOn s _ _ ha : goesOn (execMin w s))
  | max w => exact (by unfold execMax State.alu2; exact State.aWord_goesOn s _ _ ha : goesOn (execMax w s))
  | minn w => exact (by unfold execMinn State.alu2; exact State.aWord_goesOn s _ _ ha : goesOn (execMinn w s))
  | maxn w => exact (by unfold execMaxn State.alu2; exact State.aWord_goesOn s _ _ ha : goesOn (execMaxn w s))
  | sel w => exact (by unfold execSel; exact State.aWord_goesOn s _ _ ha : goesOn (execSel w s))
  | slt w => exact (by unfold execSlt State.alu2; exact State.aWord_goesOn s _ _ ha : goesOn (execSlt w s))
  | sltn w => exact (by unfold execSltn State.alu2; exact State.aWord_goesOn s _ _ ha : goesOn (execSltn w s))
  | seq w => exact (by unfold execSeq State.alu2; exact State.aWord_goesOn s _ _ ha : goesOn (execSeq w s))
  | li w => exact (by unfold execLi; exact State.aWord_goesOn s _ _ ha : goesOn (execLi w s))
  | bfx w => exact (by unfold execBfx; exact State.aWord_goesOn s _ _ ha : goesOn (execBfx w s))
  | bfi w => exact (by unfold execBfi; exact State.aWord_goesOn s _ _ ha : goesOn (execBfi w s))
  | adds w => exact (by unfold execAdds; exact State.aWord_goesOn s _ _ ha : goesOn (execAdds w s))
  | b w => exact (by unfold execB; exact State.aWord_goesOn s _ _ ha : goesOn (execB w s))
  | j w => exact (by unfold execJ; exact State.aWord_goesOn s _ _ ha : goesOn (execJ w s))
  | jal w => exact (by unfold execJal; exact State.aWord_goesOn s _ _ ha : goesOn (execJal w s))
  | jr w => exact (by unfold execJr; exact State.aWord_goesOn s _ _ ha : goesOn (execJr w s))
  | bqp w => exact (by unfold execBqp; exact State.taskWord_goesOn s _ _ ha : goesOn (execBqp w s))
  | fin w => exact (by unfold execFin; exact State.taskWord_goesOn s _ _ ha : goesOn (execFin w s))
  | nop w => exact (by unfold execNop; exact State.aWord_goesOn s _ _ ha : goesOn (execNop w s))
  | ld w => exact (by unfold execLd; exact State.aWord_goesOn s _ _ ha : goesOn (execLd w s))
  | st w => exact (by unfold execSt; exact State.aWord_goesOn s _ _ ha : goesOn (execSt w s))
  | lds w => exact (by unfold execLds; exact State.aWord_goesOn s _ _ ha : goesOn (execLds w s))
  | sts w => exact (by unfold execSts; exact State.aWord_goesOn s _ _ ha : goesOn (execSts w s))
  | ldx w => exact (by unfold execLdx; exact State.taskWord_goesOn s _ _ ha : goesOn (execLdx w s))
  | stx w => exact (by unfold execStx; exact State.taskWord_goesOn s _ _ ha : goesOn (execStx w s))
  | gath w => exact (by unfold execGath; exact State.taskWord_goesOn s _ _ ha : goesOn (execGath w s))
  | scat w => exact (by unfold execScat; exact State.taskWord_goesOn s _ _ ha : goesOn (execScat w s))
  | pref w => exact (by unfold execPref; exact State.aWord_goesOn s _ _ ha : goesOn (execPref w s))
  | fence w => exact (by unfold execFence; exact State.aWord_goesOn s _ _ ha : goesOn (execFence w s))
  | cpy w => exact (by unfold execCpy; exact State.aWord_goesOn s _ _ ha : goesOn (execCpy w s))
  | cpyvIn w => exact (by unfold execCpyvIn; exact State.taskWord_goesOn s _ _ ha : goesOn (execCpyvIn w s))
  | cpyvOut w => exact (by unfold execCpyvOut; exact State.taskWord_goesOn s _ _ ha : goesOn (execCpyvOut w s))
  | cpyb w => exact (by unfold execCpyb; exact State.taskWord_goesOn s _ _ ha : goesOn (execCpyb w s))
  | cpyx w => exact (by unfold execCpyx; exact State.taskWord_goesOn s _ _ ha : goesOn (execCpyx w s))
  | sbind w => exact (by unfold execSbind; exact State.taskWord_goesOn s _ _ ha : goesOn (execSbind w s))
  | sdrop w => exact (by unfold execSdrop; exact State.taskWord_goesOn s _ _ ha : goesOn (execSdrop w s))
  | gdef w => exact (by unfold execGdef; exact State.taskWord_goesOn s _ _ ha : goesOn (execGdef w s))
  | gset w => exact (by unfold execGset; exact State.taskWord_goesOn s _ _ ha : goesOn (execGset w s))
  | gget w => exact (by unfold execGget; exact State.taskWord_goesOn s _ _ ha : goesOn (execGget w s))
  | falloc w => exact (by unfold execFalloc; exact State.taskWord_goesOn s _ _ ha : goesOn (execFalloc w s))
  | faddref w => exact (by unfold execFaddref; exact State.taskWord_goesOn s _ _ ha : goesOn (execFaddref w s))
  | fdrop w => exact (by unfold execFdrop; exact State.taskWord_goesOn s _ _ ha : goesOn (execFdrop w s))
  | pseal w => exact (by unfold execPseal; exact State.taskWord_goesOn s _ _ ha : goesOn (execPseal w s))
  | bxp w => exact (by unfold execBxp; exact State.aWord_goesOn s _ _ ha : goesOn (execBxp w s))
  | barv w => exact (by unfold execBarv; exact State.aWord_goesOn s _ _ ha : goesOn (execBarv w s))
  | bwt w => exact (by unfold execBwt; exact State.aWord_goesOn s _ _ ha : goesOn (execBwt w s))
  | btst w => exact (by unfold execBtst; exact State.aWord_goesOn s _ _ ha : goesOn (execBtst w s))
  | bbnd w => exact (by unfold execBbnd; exact State.aWord_goesOn s _ _ ha : goesOn (execBbnd w s))
  | bubd w => exact (by unfold execBubd; exact State.aWord_goesOn s _ _ ha : goesOn (execBubd w s))
  | bfwd w => exact (by unfold execBfwd; exact State.aWord_goesOn s _ _ ha : goesOn (execBfwd w s))
  | sadd w => exact (by unfold execSadd; exact State.aWord_goesOn s _ _ ha : goesOn (execSadd w s))
  | scas w => exact (by unfold execScas; exact State.aWord_goesOn s _ _ ha : goesOn (execScas w s))
  | smax w => exact (by unfold execSmax; exact State.aWord_goesOn s _ _ ha : goesOn (execSmax w s))
  | sxch w => exact (by unfold execSxch; exact State.aWord_goesOn s _ _ ha : goesOn (execSxch w s))
  | srd w => exact (by unfold execSrd; exact State.aWord_goesOn s _ _ ha : goesOn (execSrd w s))
  | swt w => exact (by unfold execSwt; exact State.aWord_goesOn s _ _ ha : goesOn (execSwt w s))
  | inkq w => exact (by unfold execInkq; exact State.taskWord_goesOn s _ _ ha : goesOn (execInkq w s))
  | inkr w => exact (by unfold execInkr; exact State.taskWord_goesOn s _ _ ha : goesOn (execInkr w s))
  | trap w => exact (by unfold execTrap; exact State.aWord_goesOn s _ _ ha : goesOn (execTrap w s))
  | tret w => exact (by unfold execTret; exact State.aWord_goesOn s _ _ ha : goesOn (execTret w s))
  | csrr w => exact (by unfold execCsrr; exact State.aWord_goesOn s _ _ ha : goesOn (execCsrr w s))
  | csrw w => exact (by unfold execCsrw; exact State.aWord_goesOn s _ _ ha : goesOn (execCsrw w s))
  | tsc w => exact (by unfold execTsc; exact State.aWord_goesOn s _ _ ha : goesOn (execTsc w s))
  | parkBar w => exact (by unfold execParkBar; exact State.taskWord_goesOn s _ _ ha : goesOn (execParkBar w s))
  | parkSem w => exact (by unfold execParkSem; exact State.taskWord_goesOn s _ _ ha : goesOn (execParkSem w s))
  | parkMbx w => exact (by unfold execParkMbx; exact State.taskWord_goesOn s _ _ ha : goesOn (execParkMbx w s))
  | parkInk w => exact (by unfold execParkInk; exact State.taskWord_goesOn s _ _ ha : goesOn (execParkInk w s))
  | yield w => exact (by unfold execYield; exact State.taskWord_goesOn s _ _ ha : goesOn (execYield w s))
  | lgo w => exact (by unfold execLgo; exact State.aWord_goesOn s _ _ ha : goesOn (execLgo w s))
  | lpatch w => exact (by unfold execLpatch; exact State.aWord_goesOn s _ _ ha : goesOn (execLpatch w s))
  | qentLaunch w => exact (by unfold execQentLaunch State.enqueue; exact State.aWord_goesOn s _ _ ha : goesOn (execQentLaunch w s))
  | qentCopy w => exact (by unfold execQentCopy State.enqueue; exact State.aWord_goesOn s _ _ ha : goesOn (execQentCopy w s))
  | qentSem w => exact (by unfold execQentSem State.enqueue; exact State.aWord_goesOn s _ _ ha : goesOn (execQentSem w s))
  | qentHirq w => exact (by unfold execQentHirq State.enqueue; exact State.aWord_goesOn s _ _ ha : goesOn (execQentHirq w s))
  | mbxr w => exact (by unfold execMbxr; exact State.aWord_goesOn s _ _ ha : goesOn (execMbxr w s))
  | mbxs w => exact (by unfold execMbxs; exact State.aWord_goesOn s _ _ ha : goesOn (execMbxs w s))
  | hirq w => exact (by unfold execHirq; exact State.aWord_goesOn s _ _ ha : goesOn (execHirq w s))
  | preempt w => exact (by unfold execPreempt; exact State.aWord_goesOn s _ _ ha : goesOn (execPreempt w s))
  | proofStart w => exact (by unfold execProofStart State.proof; exact State.aWord_goesOn s _ _ ha : goesOn (execProofStart w s))
  | proofAbort w => exact (by unfold execProofAbort State.proof; exact State.aWord_goesOn s _ _ ha : goesOn (execProofAbort w s))
  | sampm w => exact (by unfold execSampm; exact State.taskWord_goesOn s _ _ ha : goesOn (execSampm w s))
  | _ => cases h

/-- Every word of the X stream that is issued by whoever runs there goes on. -/
theorem exec_x_goesOn (i : Instr) (s : State) (h : i.space = some .x) (ha : s.acts .x = true) : goesOn (exec i s) := by
  cases i with
  | vadd w => exact (by unfold execVadd State.xint2 State.xv2 State.xOp; exact State.xWord_goesOn s _ ha : goesOn (execVadd w s))
  | vsub w => exact (by unfold execVsub State.xint2 State.xv2 State.xOp; exact State.xWord_goesOn s _ ha : goesOn (execVsub w s))
  | vmul w => exact (by unfold execVmul State.xint2 State.xv2 State.xOp; exact State.xWord_goesOn s _ ha : goesOn (execVmul w s))
  | vmulh w => exact (by unfold execVmulh State.xint2 State.xv2 State.xOp; exact State.xWord_goesOn s _ ha : goesOn (execVmulh w s))
  | vmad w => exact (by unfold execVmad State.xint3 State.xv3 State.xOp; exact State.xWord_goesOn s _ ha : goesOn (execVmad w s))
  | vdot4 w => exact (by unfold execVdot4 State.xdot State.xv3 State.xOp; exact State.xWord_goesOn s _ ha : goesOn (execVdot4 w s))
  | vdot8 w => exact (by unfold execVdot8 State.xdot State.xv3 State.xOp; exact State.xWord_goesOn s _ ha : goesOn (execVdot8 w s))
  | vmin w => exact (by unfold execVmin State.xint2 State.xv2 State.xOp; exact State.xWord_goesOn s _ ha : goesOn (execVmin w s))
  | vmax w => exact (by unfold execVmax State.xint2 State.xv2 State.xOp; exact State.xWord_goesOn s _ ha : goesOn (execVmax w s))
  | vabs w => exact (by unfold execVabs State.xint1 State.xv1 State.xOp; exact State.xWord_goesOn s _ ha : goesOn (execVabs w s))
  | vabsd w => exact (by unfold execVabsd State.xv2 State.xOp; exact State.xWord_goesOn s _ ha : goesOn (execVabsd w s))
  | vneg w => exact (by unfold execVneg State.xint1 State.xv1 State.xOp; exact State.xWord_goesOn s _ ha : goesOn (execVneg w s))
  | vavg w => exact (by unfold execVavg State.xint2 State.xv2 State.xOp; exact State.xWord_goesOn s _ ha : goesOn (execVavg w s))
  | vshl w => exact (by unfold execVshl State.xint2 State.xv2 State.xOp; exact State.xWord_goesOn s _ ha : goesOn (execVshl w s))
  | vshr w => exact (by unfold execVshr State.xv2 State.xOp; exact State.xWord_goesOn s _ ha : goesOn (execVshr w s))
  | vsra w => exact (by unfold execVsra State.xv2 State.xOp; exact State.xWord_goesOn s _ ha : goesOn (execVsra w s))
  | vrsh w => exact (by unfold execVrsh State.xv2 State.xOp; exact State.xWord_goesOn s _ ha : goesOn (execVrsh w s))
  | vand w => exact (by unfold execVand State.xpat2 State.xv2 State.xOp; exact State.xWord_goesOn s _ ha : goesOn (execVand w s))
  | vor w => exact (by unfold execVor State.xpat2 State.xv2 State.xOp; exact State.xWord_goesOn s _ ha : goesOn (execVor w s))
  | vxor w => exact (by unfold execVxor State.xpat2 State.xv2 State.xOp; exact State.xWord_goesOn s _ ha : goesOn (execVxor w s))
  | vandn w => exact (by unfold execVandn State.xpat2 State.xv2 State.xOp; exact State.xWord_goesOn s _ ha : goesOn (execVandn w s))
  | vnot w => exact (by unfold execVnot State.xv1 State.xOp; exact State.xWord_goesOn s _ ha : goesOn (execVnot w s))
  | vpopc w => exact (by unfold execVpopc State.xint1 State.xv1 State.xOp; exact State.xWord_goesOn s _ ha : goesOn (execVpopc w s))
  | vclz w => exact (by unfold execVclz State.xint1 State.xv1 State.xOp; exact State.xWord_goesOn s _ ha : goesOn (execVclz w s))
  | vsel w => exact (by unfold execVsel State.xv3 State.xOp; exact State.xWord_goesOn s _ ha : goesOn (execVsel w s))
  | vcmp w => exact (by unfold execVcmp State.xcmp State.xOp; exact State.xWord_goesOn s _ ha : goesOn (execVcmp w s))
  | vclamp w => exact (by unfold execVclamp State.xint3 State.xv3 State.xOp; exact State.xWord_goesOn s _ ha : goesOn (execVclamp w s))
  | vfadd w => exact (by unfold execVfadd State.xfloat2 State.xv2 State.xOp; exact State.xWord_goesOn s _ ha : goesOn (execVfadd w s))
  | vfsub w => exact (by unfold execVfsub State.xfloat2 State.xv2 State.xOp; exact State.xWord_goesOn s _ ha : goesOn (execVfsub w s))
  | vfmul w => exact (by unfold execVfmul State.xfloat2 State.xv2 State.xOp; exact State.xWord_goesOn s _ ha : goesOn (execVfmul w s))
  | vfma w => exact (by unfold execVfma State.xfloat3 State.xv3 State.xOp; exact State.xWord_goesOn s _ ha : goesOn (execVfma w s))
  | vfms w => exact (by unfold execVfms State.xfloat3 State.xv3 State.xOp; exact State.xWord_goesOn s _ ha : goesOn (execVfms w s))
  | vfnma w => exact (by unfold execVfnma State.xfloat3 State.xv3 State.xOp; exact State.xWord_goesOn s _ ha : goesOn (execVfnma w s))
  | vfmin w => exact (by unfold execVfmin State.xv2 State.xOp; exact State.xWord_goesOn s _ ha : goesOn (execVfmin w s))
  | vfmax w => exact (by unfold execVfmax State.xv2 State.xOp; exact State.xWord_goesOn s _ ha : goesOn (execVfmax w s))
  | vfabs w => exact (by unfold execVfabs State.xsign State.xv1 State.xOp; exact State.xWord_goesOn s _ ha : goesOn (execVfabs w s))
  | vfneg w => exact (by unfold execVfneg State.xsign State.xv1 State.xOp; exact State.xWord_goesOn s _ ha : goesOn (execVfneg w s))
  | vfcmp w => exact (by unfold execVfcmp State.xcmp State.xOp; exact State.xWord_goesOn s _ ha : goesOn (execVfcmp w s))
  | vfclass w => exact (by unfold execVfclass State.xOp; exact State.xWord_goesOn s _ ha : goesOn (execVfclass w s))
  | vrcp w => exact (by unfold execVrcp State.xtr1 State.xv1 State.xOp; exact State.xWord_goesOn s _ ha : goesOn (execVrcp w s))
  | vrsq w => exact (by unfold execVrsq State.xtr1 State.xv1 State.xOp; exact State.xWord_goesOn s _ ha : goesOn (execVrsq w s))
  | vsqrt w => exact (by unfold execVsqrt State.xtr1 State.xv1 State.xOp; exact State.xWord_goesOn s _ ha : goesOn (execVsqrt w s))
  | vdiv w => exact (by unfold execVdiv State.xv2 State.xOp; exact State.xWord_goesOn s _ ha : goesOn (execVdiv w s))
  | vexp2 w => exact (by unfold execVexp2 State.xtr1 State.xv1 State.xOp; exact State.xWord_goesOn s _ ha : goesOn (execVexp2 w s))
  | vlog2 w => exact (by unfold execVlog2 State.xtr1 State.xv1 State.xOp; exact State.xWord_goesOn s _ ha : goesOn (execVlog2 w s))
  | vfscl w => exact (by unfold execVfscl State.xv2 State.xOp; exact State.xWord_goesOn s _ ha : goesOn (execVfscl w s))
  | vcvt w => exact (by unfold execVcvt State.xv1 State.xOp; exact State.xWord_goesOn s _ ha : goesOn (execVcvt w s))
  | vcvte w => exact (by unfold execVcvte State.xOp; exact State.xWord_goesOn s _ ha : goesOn (execVcvte w s))
  | vqmx w => exact (by unfold execVqmx State.xOp; exact State.xWord_goesOn s _ ha : goesOn (execVqmx w s))
  | vdqmx w => exact (by unfold execVdqmx State.xOp; exact State.xWord_goesOn s _ ha : goesOn (execVdqmx w s))
  | vamax w => exact (by unfold execVamax State.xOp; exact State.xWord_goesOn s _ ha : goesOn (execVamax w s))
  | eset w => exact (by unfold execEset State.xOp; exact State.xWord_goesOn s _ ha : goesOn (execEset w s))
  | esetImm w => exact (by unfold execEsetImm State.xOp; exact State.xWord_goesOn s _ ha : goesOn (execEsetImm w s))
  | eget w => exact (by unfold execEget State.xOp; exact State.xWord_goesOn s _ ha : goesOn (execEget w s))
  | vperm w => exact (by unfold execVperm State.xOp; exact State.xWord_goesOn s _ ha : goesOn (execVperm w s))
  | vbcst w => exact (by unfold execVbcst State.xOp; exact State.xWord_goesOn s _ ha : goesOn (execVbcst w s))
  | vzip w => exact (by unfold execVzip State.xpair State.xOp; exact State.xWord_goesOn s _ ha : goesOn (execVzip w s))
  | vunzip w => exact (by unfold execVunzip State.xpair State.xOp; exact State.xWord_goesOn s _ ha : goesOn (execVunzip w s))
  | vpack w => exact (by unfold execVpack State.xselect State.xOp; exact State.xWord_goesOn s _ ha : goesOn (execVpack w s))
  | vunpk w => exact (by unfold execVunpk State.xselect State.xOp; exact State.xWord_goesOn s _ ha : goesOn (execVunpk w s))
  | vlsh w => exact (by unfold execVlsh State.xOp; exact State.xWord_goesOn s _ ha : goesOn (execVlsh w s))
  | vmov w => exact (by unfold execVmov State.xOp; exact State.xWord_goesOn s _ ha : goesOn (execVmov w s))
  | vmovi w => exact (by unfold execVmovi State.xOp; exact State.xWord_goesOn s _ ha : goesOn (execVmovi w s))
  | vbf2 w => exact (by unfold execVbf2 State.xOp; exact State.xWord_goesOn s _ ha : goesOn (execVbf2 w s))
  | vbf4 w => exact (by unfold execVbf4 State.xOp; exact State.xWord_goesOn s _ ha : goesOn (execVbf4 w s))
  | vtwg w => exact (by unfold execVtwg State.xOp; exact State.xWord_goesOn s _ ha : goesOn (execVtwg w s))
  | vcmul w => exact (by unfold execVcmul State.xv2 State.xOp; exact State.xWord_goesOn s _ ha : goesOn (execVcmul w s))
  | vcmac w => exact (by unfold execVcmac State.xv3 State.xOp; exact State.xWord_goesOn s _ ha : goesOn (execVcmac w s))
  | vred w => exact (by unfold execVred State.xreduce State.xOp; exact State.xWord_goesOn s _ ha : goesOn (execVred w s))
  | vscan w => exact (by unfold execVscan State.xreduce State.xOp; exact State.xWord_goesOn s _ ha : goesOn (execVscan w s))
  | vrsum w => exact (by unfold execVrsum State.xreduce State.xOp; exact State.xWord_goesOn s _ ha : goesOn (execVrsum w s))
  | kand w => exact (by unfold execKand State.xpred State.xOp; exact State.xWord_goesOn s _ ha : goesOn (execKand w s))
  | kor w => exact (by unfold execKor State.xpred State.xOp; exact State.xWord_goesOn s _ ha : goesOn (execKor w s))
  | kxor w => exact (by unfold execKxor State.xpred State.xOp; exact State.xWord_goesOn s _ ha : goesOn (execKxor w s))
  | knot w => exact (by unfold execKnot State.xpred State.xOp; exact State.xWord_goesOn s _ ha : goesOn (execKnot w s))
  | ksetLt w => exact (by unfold execKsetLt State.xpred State.xOp; exact State.xWord_goesOn s _ ha : goesOn (execKsetLt w s))
  | ksetGe w => exact (by unfold execKsetGe State.xpred State.xOp; exact State.xWord_goesOn s _ ha : goesOn (execKsetGe w s))
  | ksetMod w => exact (by unfold execKsetMod State.xpred State.xOp; exact State.xWord_goesOn s _ ha : goesOn (execKsetMod w s))
  | kmov w => exact (by unfold execKmov State.xpred State.xOp; exact State.xWord_goesOn s _ ha : goesOn (execKmov w s))
  | kmovFromv w => exact (by unfold execKmovFromv State.xOp; exact State.xWord_goesOn s _ ha : goesOn (execKmovFromv w s))
  | kmovTov w => exact (by unfold execKmovTov State.xOp; exact State.xWord_goesOn s _ ha : goesOn (execKmovTov w s))
  | loop w => exact (by unfold execLoop; exact State.xWord_goesOn s _ ha : goesOn (execLoop w s))
  | loopr w => exact (by unfold execLoopr; exact State.xWord_goesOn s _ ha : goesOn (execLoopr w s))
  | xb w => exact (by unfold execXb; exact State.xWord_goesOn s _ ha : goesOn (execXb w s))
  | xbk w => exact (by unfold execXbk; exact State.xWord_goesOn s _ ha : goesOn (execXbk w s))
  | xj w => exact (by unfold execXj; exact State.xWord_goesOn s _ ha : goesOn (execXj w s))
  | xfin w => exact (by unfold execXfin; exact State.xWord_goesOn s _ ha : goesOn (execXfin w s))
  | vdead w => exact (by unfold execVdead; exact State.xWord_goesOn s _ ha : goesOn (execVdead w s))
  | vpush w => exact (by unfold execVpush State.xOp; exact State.xWord_goesOn s _ ha : goesOn (execVpush w s))
  | _ => cases h

/-- Every word of the M stream that is issued by whoever runs there goes on. -/
theorem exec_m_goesOn (i : Instr) (s : State) (h : i.space = some .m) (ha : s.acts .m = true) : goesOn (exec i s) := by
  cases i with
  | lease w => exact (by unfold execLease; exact State.mTask_goesOn s _ ha : goesOn (execLease w s))
  | lfree w => exact (by unfold execLfree; exact State.mTask_goesOn s _ ha : goesOn (execLfree w s))
  | mma w => exact (by unfold execMma State.arrayCommand; exact State.mTask_goesOn s _ ha : goesOn (execMma w s))
  | mmaz w => exact (by unfold execMmaz State.arrayCommand; exact State.mTask_goesOn s _ ha : goesOn (execMmaz w s))
  | mmb w => exact (by unfold execMmb State.arrayCommand; exact State.mTask_goesOn s _ ha : goesOn (execMmb w s))
  | mmi w => exact (by unfold execMmi State.arrayCommand; exact State.mTask_goesOn s _ ha : goesOn (execMmi w s))
  | mclr w => exact (by unfold execMclr State.arrayCommand; exact State.mTask_goesOn s _ ha : goesOn (execMclr w s))
  | mld w => exact (by unfold execMld State.arrayCommand; exact State.mTask_goesOn s _ ha : goesOn (execMld w s))
  | mst w => exact (by unfold execMst State.arrayCommand; exact State.mTask_goesOn s _ ha : goesOn (execMst w s))
  | madd w => exact (by unfold execMadd State.arrayCommand; exact State.mTask_goesOn s _ ha : goesOn (execMadd w s))
  | mscl w => exact (by unfold execMscl State.arrayCommand; exact State.mTask_goesOn s _ ha : goesOn (execMscl w s))
  | mset w => exact (by unfold execMset; exact State.mTask_goesOn s _ ha : goesOn (execMset w s))
  | minc w => exact (by unfold execMinc; exact State.mTask_goesOn s _ ha : goesOn (execMinc w s))
  | mrep w => exact (by unfold execMrep; exact State.mTask_goesOn s _ ha : goesOn (execMrep w s))
  | mfence w => exact (by unfold execMfence; exact State.mTask_goesOn s _ ha : goesOn (execMfence w s))
  | mbarv w => exact (by unfold execMbarv; exact State.mTask_goesOn s _ ha : goesOn (execMbarv w s))
  | mfin w => exact (by unfold execMfin; exact State.mTask_goesOn s _ ha : goesOn (execMfin w s))
  | mnop w => exact (by unfold execMnop; exact State.mTask_goesOn s _ ha : goesOn (execMnop w s))
  | _ => cases h

/-- Every step that is no word goes on. -/
theorem exec_event_goesOn (i : Instr) (s : State) (h : i.space = none) : goesOn (exec i s) := by
  cases i <;> first | (cases h; done) | trivial

/-! ## What a word of a space decodes to -/

/-- An answer of the decoder is an instruction of one opcode space. -/
def SpaceIs (sp : Space) (o : Option Instr) : Prop := ∀ i, o = some i → i.space = some sp

theorem SpaceIs.none (sp : Space) : SpaceIs sp none := by intro i h; cases h

theorem SpaceIs.some {sp : Space} {i : Instr} (h : i.space = Option.some sp) : SpaceIs sp (.some i) := by
  intro j hj; cases hj; exact h

theorem SpaceIs.ite {sp : Space} {p : Prop} [Decidable p] {a b : Option Instr} (ha : SpaceIs sp a) (hb : SpaceIs sp b) :
    SpaceIs sp (if p then a else b) := by
  split
  · exact ha
  · exact hb

theorem rawA_space (v : BitVec 96) : SpaceIs .a (rawA v) := by
  unfold rawA rawA0 rawA1 rawA2 rawA3 rawA4 rawA5 rawA6 rawA7 rawA8
  dsimp only
  repeat' first | exact SpaceIs.none _ | exact SpaceIs.some rfl | refine SpaceIs.ite ?_ ?_

theorem rawX_space (v : BitVec 96) : SpaceIs .x (rawX v) := by
  unfold rawX rawX0 rawX1 rawX2 rawX3 rawX4 rawX5 rawX6 rawX7 rawX8 rawX9
  dsimp only
  repeat' first | exact SpaceIs.none _ | exact SpaceIs.some rfl | refine SpaceIs.ite ?_ ?_

theorem rawM_space (v : BitVec 96) : SpaceIs .m (rawM v) := by
  unfold rawM rawM0 rawM1
  dsimp only
  repeat' first | exact SpaceIs.none _ | exact SpaceIs.some rfl | refine SpaceIs.ite ?_ ?_

/-- The Rubricator executes words of the A stream. -/
def wordSpace : Space → Space
  | .rub => .a
  | sp => sp

/-- What decodes in a space is an instruction of its stream. -/
theorem decode_space {sp : Space} {v : BitVec 96} {i : Instr} (h : decode sp v = .ok i) : i.space = Option.some (wordSpace sp) := by
  have hr : raw sp v = Option.some i := by
    unfold decode at h
    split at h
    · cases h
    · split at h
      · cases h; assumption
      · cases h
  cases sp with
  | a => exact rawA_space v i hr
  | x => exact rawX_space v i hr
  | m => exact rawM_space v i hr
  | rub =>
    change (if rubLacks (opcode v) then Option.none else rawA v) = _ at hr
    split at hr
    · cases hr
    · exact rawA_space v i hr

end Sys2Proof.Machine
end

