-- ==== Sys2Proof/Laws/Keeps.lean ====
section
/-! SUPPORT. What every change of the machine keeps: the canonical form of memory, that the next turn is a proper one, and
which tower this is. The relation, and how it passes through sequences, choices and folds. -/

namespace Sys2Proof.Machine

/-- `u` comes from `s` by changes that keep what every step keeps. -/
structure State.Keeps (s u : State) : Prop where
  mem : s.memoryOk → u.memoryOk
  turn : s.turn.proper = true → u.turn.proper = true
  tower : u.tower = s.tower

theorem State.Keeps.refl (s : State) : s.Keeps s := ⟨id, id, rfl⟩

theorem State.Keeps.trans {s t u : State} (h : s.Keeps t) (g : t.Keeps u) : s.Keeps u :=
  ⟨fun x => g.mem (h.mem x), fun x => g.turn (h.turn x), g.tower.trans h.tower⟩

/-- An update that leaves memory, the turn and the tower alone. -/
theorem State.Keeps.upd {s t u : State} (h : s.Keeps t) (hm : u.mem = t.mem) (ht : u.turn = t.turn)
    (hw : u.tower = t.tower) : s.Keeps u :=
  ⟨fun x => by have := h.mem x; simp only [State.memoryOk, hm] at this ⊢; exact this, fun x => by rw [ht]; exact h.turn x,
    hw.trans h.tower⟩

/-- A record update that leaves memory, the turn and the tower alone, as it stands once unfolded. -/
theorem State.Keeps.fields {s t : State}
    {x0 : Nat} {x1 : Int} {x4 : SMap (BitVec 4)} {x5 : SMap Bool} {x6 : List (Flaw × Bool)} {x7 : List Nat}
    {x8 : SMap Level} {x9 : Bool} {x10 : Bool} {x11 : SMap AclEntry} {x12 : Ctl} {x13 : List Tlb} {x14 : List Walk}
    {x15 : SMap Task} {x16 : Nat} {x17 : SMap Core} {x18 : SMap Barrier} {x19 : SMap Word} {x20 : SMap SemRegions}
    {x21 : SMap Cluster} {x22 : SMap (BitVec 32)} {x23 : SMap Word} {x24 : SMap Monitor} {x25 : SMap Copy}
    {x26 : Nat} {x27 : SMap Arrival} {x28 : Nat} {x29 : SMap Arming} {x30 : Nat} {x31 : List (Nat × Nat × Nat)}
    {x32 : SMap (List QEntry)} {x33 : List Record} {x34 : List Open} {x35 : BitVec 32} {x36 : BitVec 32}
    {x37 : Option Proofing} {x38 : List Nat} {x39 : SMap (Nat × Nat)} {x40 : Nat} {x41 : Ink} {x42 : Baseline}
    {x43 : Clocks} {x44 : SMap Word} {x45 : Folio} {x46 : Fabric} {x47 : SMap Remote} {x48 : Nat} {x49 : List Kept}
    {x50 : SMap Channel} {x51 : List Start} {x52 : List Share} {x53 : HostSide} {x54 : Rub}
    {x55 : Meters} {x56 : List FabMsg} {x57 : List Flit} {x58 : List (Nat × FabMsg)} {x59 : List Flit} {x60 : Order}
    {x61 : SMap Code} {x62 : Agent} {x64 : Arg} {x65 : List Pick} {x66 : Bool} {x67 : Nat} (h : s.Keeps t) :
    s.Keeps (State.mk
      x0 x1 t.tower t.mem x4 x5 x6 x7 x8 x9 x10 x11 x12 x13 x14 x15 x16 x17 x18 x19 x20 x21 x22 x23 x24 x25 x26 x27
      x28 x29 x30 x31 x32 x33 x34 x35 x36 x37 x38 x39 x40 x41 x42 x43 x44 x45 x46 x47 x48 x49 x50 x51 x52 x53 x54 x55
      x56 x57 x58 x59 x60 x61 x62 t.turn x64 x65 x66 x67) :=
  h.upd rfl rfl rfl

/-- What a stop carries. -/
inductive Stop.Keeps (s : State) : Stop → Prop
  | trap (c : Cause) (va : Nat) : Stop.Keeps s (.trap c va)
  | hold : Stop.Keeps s .hold
  | parity (n : Nat) : Stop.Keeps s (.parity n)
  | miss (u a va : Nat) : Stop.Keeps s (.miss u a va)
  | trapWith {c : Cause} {u : State} (h : s.Keeps u) : Stop.Keeps s (.trapWith c u)
  | path {u : State} (h : s.Keeps u) : Stop.Keeps s (.path u)
  | pend {u : State} (h : s.Keeps u) : Stop.Keeps s (.pend u)

/-- What an attempt answers, and what its stop carries. -/
inductive Try.Keeps {α : Type} (s : State) (P : α → Prop) : Try α → Prop
  | ok {x : α} (h : P x) : Try.Keeps s P (.ok x)
  | error {e : Stop} (h : e.Keeps s) : Try.Keeps s P (.error e)

/-- An outcome that keeps. -/
inductive OutKeeps (s : State) : Host.Outcome State Fault Refusal → Prop
  | next {u : State} (h : s.Keeps u) : OutKeeps s (.next u)
  | fault (f : Fault) : OutKeeps s (.fault f)
  | refused (r : Refusal) : OutKeeps s (.refused r)

/-- What an optional answer is. -/
inductive OptKeeps {α : Type} (P : α → Prop) : Option α → Prop
  | some {x : α} (h : P x) : OptKeeps P (.some x)
  | none : OptKeeps P .none

section
variable {α β : Type} {s : State} {P : α → Prop} {Q : β → Prop}

theorem Try.keeps_pure {x : α} (h : P x) : Try.Keeps s P (pure x) := .ok h

theorem Try.keeps_bind {r : Try α} {f : α → Try β} (hr : Try.Keeps s P r) (hf : ∀ x, P x → Try.Keeps s Q (f x)) :
    Try.Keeps s Q (r >>= f) := by
  cases hr with
  | ok h => exact hf _ h
  | error h => exact .error h

theorem Try.keeps_raise (c : Cause) : Try.Keeps s P (raise c) := .error (.trap c 0)

theorem Try.keeps_require (b : Bool) (c : Cause) : Try.Keeps s (fun _ => True) (require b c) := by
  unfold require
  split
  · exact .ok trivial
  · exact Try.keeps_raise c

theorem Try.keeps_await (b : Bool) : Try.Keeps s (fun _ => True) (await b) := by
  unfold await
  split
  · exact .ok trivial
  · exact .error .hold

/-- A fold of attempts, from the right. -/
theorem Try.keeps_foldr {f : β → Try α → Try α} {r : Try α} (l : List β) (h : Try.Keeps s P r)
    (hf : ∀ b r, Try.Keeps s P r → Try.Keeps s P (f b r)) : Try.Keeps s P (l.foldr f r) := by
  induction l with
  | nil => exact h
  | cons b l ih => exact hf b _ ih

/-- The stop that an attempt ends in. -/
theorem Try.stop_of {r : Try α} {e : Stop} (h : Try.Keeps s P r) (he : r = .error e) : e.Keeps s := by
  subst he; cases h; assumption

/-- The answer of an attempt. -/
theorem Try.ok_of {r : Try α} {x : α} (h : Try.Keeps s P r) (he : r = .ok x) : P x := by
  subst he; cases h; assumption

/-- The answer of an optional attempt. -/
theorem OptKeeps.of {o : Option α} {x : α} (h : OptKeeps P o) (ho : o = .some x) : P x := by
  subst ho; cases h; assumption

theorem OptKeeps.findSome? {f : β → Option α} (l : List β) (hf : ∀ b, OptKeeps P (f b)) : OptKeeps P (l.findSome? f) := by
  induction l with
  | nil => exact .none
  | cons b l ih =>
    have hb := hf b
    simp only [List.findSome?_cons]
    cases hfb : f b with
    | none => exact ih
    | some x => exact .some (hb.of hfb)

end

/-- A fold of changes. -/
theorem State.Keeps.foldl {α : Type} {s t : State} {f : State → α → State} (l : List α) (h : s.Keeps t)
    (hf : ∀ u a, s.Keeps u → s.Keeps (f u a)) : s.Keeps (l.foldl f t) := by
  induction l generalizing t with
  | nil => exact h
  | cons a l ih => exact ih (hf t a h)

end Sys2Proof.Machine
end

