-- ==== Sys2Proof/Laws/Keeps1.lean ====
section
/-! SUPPORT. What every operation and meaning of Ops, Memory, Folio, Glyphs, Release, Remote, Flags, Control keeps (`State.Keeps`). -/

namespace Sys2Proof.Machine

/-! ## Ops -/

theorem State.held_keeps {s0 : State} (s : State) (hs : s0.Keeps s) : s0.Keeps (State.held s) := by
  unfold State.held
  with_reducible repeat' first
    | assumption | apply State.Keeps.fields

theorem State.onTask_keeps {s0 : State} (s : State) (id : Nat) (f : Task → Task) (hs : s0.Keeps s) :
    s0.Keeps (State.onTask s id f) := by
  unfold State.onTask
  with_reducible repeat' first
    | assumption | apply State.Keeps.fields

theorem State.markBad_keeps {s0 : State} (s : State) (ns : List (BitVec 6)) (hs : s0.Keeps s) :
    s0.Keeps (State.markBad s ns) := by
  unfold State.markBad
  dsimp only
  with_reducible repeat' first
    | assumption | apply State.onTask_keeps | split | apply State.Keeps.fields

theorem State.trapRub_keeps {s0 : State} (s : State) (c : Cause) (pc : Parcel) (hs : s0.Keeps s) :
    s0.Keeps (State.trapRub s c pc) := by
  unfold State.trapRub
  dsimp only
  with_reducible repeat' first
    | assumption | split | apply State.Keeps.fields

theorem State.setMonitor_keeps {s0 : State} (s : State) (core : Nat) (u : Nat) (m : Monitor) (hs : s0.Keeps s) :
    s0.Keeps (State.setMonitor s core u m) := by
  unfold State.setMonitor
  with_reducible repeat' first
    | assumption | apply State.Keeps.fields

theorem State.measure_keeps {s0 : State} (s : State) (core : Nat) (sel : Nat) (v : Nat) (hs : s0.Keeps s) :
    s0.Keeps (State.measure s core sel v) := by
  unfold State.measure
  dsimp only
  with_reducible repeat' first
    | assumption | apply State.setMonitor_keeps | apply State.Keeps.foldl | split | intro _

theorem State.measureLoad_keeps {s0 : State} (s : State) (core : Nat) (l : Load) (hs : s0.Keeps s) :
    s0.Keeps (State.measureLoad s core l) := by
  unfold State.measureLoad
  with_reducible repeat' first
    | assumption | apply State.measure_keeps | split

theorem State.measureReturns_keeps {s0 : State} (s : State) (t : Task) (hs : s0.Keeps s) :
    s0.Keeps (State.measureReturns s t) := by
  unfold State.measureReturns
  with_reducible repeat' first
    | assumption | apply State.measureLoad_keeps | apply State.Keeps.foldl | split | intro _

theorem State.setTask_keeps {s0 : State} (s : State) (id : Nat) (t : Task) (hs : s0.Keeps s) :
    s0.Keeps (State.setTask s id t) := by
  unfold State.setTask
  with_reducible repeat' first
    | assumption | apply State.Keeps.fields

theorem State.post_keeps {s0 : State} (s : State) (r : Record) (hs : s0.Keeps s) : s0.Keeps (State.post s r) := by
  unfold State.post
  with_reducible repeat' first
    | assumption | apply State.Keeps.fields

theorem State.trapTask_keeps {s0 : State} (s : State) (id : Nat) (st : Stream) (c : Cause) (pc : Parcel) (va : Nat)
    (second : Nat) (hs : s0.Keeps s) : s0.Keeps (State.trapTask s id st c pc va second) := by
  unfold State.trapTask
  dsimp only
  with_reducible repeat' first
    | assumption | apply State.measureReturns_keeps | apply State.setTask_keeps | apply State.post_keeps | split

theorem State.dropFailed_keeps {s0 : State} (s : State) (va : Nat) (hs : s0.Keeps s) : s0.Keeps (State.dropFailed s va) := by
  unfold State.dropFailed
  with_reducible repeat' first
    | assumption | apply State.Keeps.fields

theorem State.takeTrap_keeps {s0 : State} (s : State) (c : Cause) (va : Nat) (hs : s0.Keeps s) :
    s0.Keeps (State.takeTrap s c va) := by
  unfold State.takeTrap
  with_reducible repeat' first
    | assumption | apply State.trapRub_keeps | apply State.trapTask_keeps | apply State.dropFailed_keeps | split

theorem State.newRecords_keeps {s0 : State} (u : State) (s : State) (f : Record → Record) (hs : s0.Keeps u)
    (hs1 : s0.Keeps s) : s0.Keeps (State.newRecords u s f) := by
  unfold State.newRecords
  with_reducible repeat' first
    | assumption | apply State.Keeps.fields

theorem State.pathTrap_keeps {s0 : State} (s : State) (hs : s0.Keeps s) : s0.Keeps (State.pathTrap s) := by
  unfold State.pathTrap
  with_reducible repeat' first
    | assumption | apply State.newRecords_keeps | apply State.takeTrap_keeps

theorem State.parityTrap_keeps {s0 : State} (s : State) (k : Nat) (hs : s0.Keeps s) : s0.Keeps (State.parityTrap s k) := by
  unfold State.parityTrap
  with_reducible repeat' first
    | assumption | apply State.newRecords_keeps | apply State.takeTrap_keeps

theorem State.newWalk_keeps {s0 : State} (s : State) (unit : Nat) (asid : Nat) (va : Nat) (pref : Bool) (hs : s0.Keeps s) :
    s0.Keeps (State.newWalk s unit asid va pref) := by
  unfold State.newWalk
  with_reducible repeat' first
    | assumption | split | apply State.Keeps.fields

theorem State.startWalk_keeps {s0 : State} (s : State) (unit : Nat) (asid : Nat) (va : Nat) (hs : s0.Keeps s) :
    s0.Keeps (State.startWalk s unit asid va) := by
  unfold State.startWalk
  dsimp only
  with_reducible repeat' first
    | assumption | apply State.dropFailed_keeps | apply State.newWalk_keeps | split | apply State.Keeps.fields

theorem State.finish_keeps {s0 : State} (s : State) (y1 : Try State) (hs : s0.Keeps s) (hr : Try.Keeps s0 (s0.Keeps) y1) :
    s0.Keeps (State.finish s y1) := by
  unfold State.finish
  split
  · cases hr; assumption
  · exact State.takeTrap_keeps s _ _ hs
  · cases hr with | error h => cases h; exact State.takeTrap_keeps _ _ _ ‹_›
  · cases hr with | error h => cases h; exact State.pathTrap_keeps _ ‹_›
  · exact State.parityTrap_keeps s _ hs
  · exact State.held_keeps s hs
  · cases hr with | error h => cases h; exact State.held_keeps _ ‹_›
  · exact State.held_keeps _ (State.startWalk_keeps s _ _ _ hs)

theorem State.aWord_keeps {s0 : State} (s : State) (need : List (BitVec 6)) (f : State → Try State) (hs : s0.Keeps s)
    (hf : ∀ a, s0.Keeps a → Try.Keeps s0 (s0.Keeps) (f a)) : OutKeeps s0 (State.aWord s need f) := by
  unfold State.aWord
  with_reducible repeat' first
    | assumption | apply hf | apply State.held_keeps | apply State.markBad_keeps | apply State.finish_keeps
    | apply OutKeeps.next | exact OutKeeps.fault _ | split

theorem State.storeCheck_keeps {s0 : State} (s : State) (tower : Nat) (x : Nat) (off : Nat) (n : Nat) (k : Access)
    (hs : s0.Keeps s) : Try.Keeps s0 (fun _ => True) (State.storeCheck s tower x off n k) := by
  unfold State.storeCheck
  dsimp only
  with_reducible repeat' first
    | apply Try.keeps_require | apply Try.keeps_raise | apply Try.Keeps.error | exact Stop.Keeps.hold | split

theorem State.physCheck_keeps {s0 : State} (s : State) (ident : BitVec 32) (r : Reach) (k : Access) (pa : Nat) (n : Nat)
    (hs : s0.Keeps s) : Try.Keeps s0 (fun _ => True) (State.physCheck s ident r k pa n) := by
  unfold State.physCheck
  dsimp only
  with_reducible repeat' first
    | assumption | exact True.intro | refine Try.stop_of (State.storeCheck_keeps _ _ _ _ _ _ ?_) (by assumption)
    | apply Try.keeps_raise | apply Try.Keeps.ok | apply Try.Keeps.error | split

theorem State.setByte_keeps {s0 : State} (s : State) (a : Nat) (b : Byte) (hs : s0.Keeps s) :
    s0.Keeps (State.setByte s a b) := by
  refine ⟨fun h => ?_, hs.turn, hs.tower⟩
  exact SMap.wf_set (α := Byte) 0 a b s.mem (hs.mem h)

theorem State.setBytes_keeps {s0 : State} (s : State) (a : Nat) (y2 : List Byte) (hs : s0.Keeps s) :
    s0.Keeps (State.setBytes s a y2) := by
  induction y2 generalizing s a with
  | nil =>
    unfold State.setBytes
    with_reducible repeat' first
      | assumption | apply State.setByte_keeps
  | cons z zs ih =>
    unfold State.setBytes
    with_reducible repeat' first
      | assumption | apply ih | apply State.setByte_keeps

theorem State.advance_keeps {s0 : State} (s : State) (hs : s0.Keeps s) : s0.Keeps (State.advance s) := by
  unfold State.advance
  dsimp only
  with_reducible repeat' first
    | assumption | apply State.onTask_keeps | split | apply State.Keeps.fields

theorem State.setReg_keeps {s0 : State} (s : State) (n : BitVec 6) (v : Word) (hs : s0.Keeps s) :
    s0.Keeps (State.setReg s n v) := by
  unfold State.setReg
  with_reducible repeat' first
    | assumption | apply State.onTask_keeps | split | apply State.Keeps.fields

theorem State.mWord_keeps {s0 : State} (s : State) (f : State → Try State) (hs : s0.Keeps s)
    (hf : ∀ a, s0.Keeps a → Try.Keeps s0 (s0.Keeps) (f a)) : OutKeeps s0 (State.mWord s f) := by
  unfold State.mWord
  with_reducible repeat' first
    | assumption | apply hf | apply State.finish_keeps | apply OutKeeps.next | exact OutKeeps.fault _ | split

theorem State.trapNaming_keeps {s0 : State} (s : State) (id : Nat) (st : Stream) (c : Cause) (pc : Parcel) (va : Nat)
    (word : Parcel) (hs : s0.Keeps s) : s0.Keeps (State.trapNaming s id st c pc va word) := by
  unfold State.trapNaming
  with_reducible repeat' first
    | assumption | apply State.newRecords_keeps | apply State.trapTask_keeps

theorem State.setCluster_keeps {s0 : State} (s : State) (c : Nat) (v : Cluster) (hs : s0.Keeps s) :
    s0.Keeps (State.setCluster s c v) := by
  unfold State.setCluster
  with_reducible repeat' first
    | assumption | apply State.Keeps.fields

theorem State.setCore_keeps {s0 : State} (s : State) (c : Nat) (v : Core) (hs : s0.Keeps s) :
    s0.Keeps (State.setCore s c v) := by
  unfold State.setCore
  with_reducible repeat' first
    | assumption | apply State.Keeps.fields

theorem State.goto_keeps {s0 : State} (s : State) (p : Parcel) (hs : s0.Keeps s) : s0.Keeps (State.goto s p) := by
  unfold State.goto
  dsimp only
  with_reducible repeat' first
    | assumption | apply State.onTask_keeps | split | apply State.Keeps.fields

theorem State.dropAsked_keeps {s0 : State} (s : State) (ag : Agent) (h : Bool) (keep : Option Parcel) (hs : s0.Keeps s) :
    s0.Keeps (State.dropAsked s ag h keep) := by
  unfold State.dropAsked
  with_reducible repeat' first
    | assumption | apply State.Keeps.fields

theorem State.trapReturn_keeps {s0 : State} (s : State) (skip : Bool) (hs : s0.Keeps s) :
    OptKeeps (s0.Keeps) (State.trapReturn s skip) := by
  unfold State.trapReturn
  dsimp only
  with_reducible repeat' first
    | assumption | apply State.setTask_keeps | apply State.measureReturns_keeps | apply State.dropAsked_keeps | apply OptKeeps.some
    | exact OptKeeps.none | split | apply State.Keeps.fields

/-! ## Memory -/

theorem State.ordered_keeps {s0 : State} (s : State) (f : Order → Order) (hs : s0.Keeps s) :
    s0.Keeps (State.ordered s f) := by
  unfold State.ordered
  with_reducible repeat' first
    | assumption | apply State.Keeps.fields

theorem collect_all {s0 : State} {α : Type} {rs : List (Try α)} (h : ∀ r ∈ rs, Try.Keeps s0 (fun _ => True) r) :
    Try.Keeps s0 (fun _ => True) (collect rs) := by
  unfold collect
  dsimp only
  split
  · rename_i e he
    obtain ⟨r, hr, hf⟩ := List.mem_filterMap.1 (List.mem_of_find?_eq_some he)
    have g := h r hr
    revert hf
    cases r with
    | error d => intro hf; cases hf; exact .error (Try.stop_of g rfl)
    | ok x => intro hf; cases hf
  · exact .ok trivial

theorem collect_keeps {s0 : State} {α : Type} {β : Type} (l : List β) (f : β → Try α)
    (hf : ∀ a, Try.Keeps s0 (fun _ => True) (f a)) : Try.Keeps s0 (fun _ => True) (collect (l.map f)) := by
  refine collect_all fun r hr => ?_
  obtain ⟨b, -, rfl⟩ := List.mem_map.1 hr
  exact hf b

theorem checked_keeps {s0 : State} {α : Type} (r : Try α) (hr : Try.Keeps s0 (fun _ => True) r) :
    Try.Keeps s0 (fun _ => True) (checked r) := by
  cases hr with
  | ok => exact .ok trivial
  | error h => exact .error h

theorem together_keeps {s0 : State} (a b : Try Unit) (ha : Try.Keeps s0 (fun _ => True) a) (hb : Try.Keeps s0 (fun _ => True) b) :
    Try.Keeps s0 (fun _ => True) (together [a, b]) := by
  refine checked_keeps _ (collect_all fun r hr => ?_)
  simp only [List.mem_cons, List.not_mem_nil, or_false] at hr
  rcases hr with rfl | rfl <;> assumption

theorem State.strongRead_keeps {s0 : State} (s : State) (vs : List Viewer) (me : Standing) (a n : Nat) (hs : s0.Keeps s) :
    s0.Keeps (State.strongRead s vs me a n) := by
  unfold State.strongRead
  try dsimp only
  with_reducible repeat' first
    | assumption | apply State.ordered_keeps | split | intro _ | apply State.Keeps.fields

theorem State.strongWrite_keeps {s0 : State} (old s : State) (me : Standing) (hold : s0.Keeps old) (hs : s0.Keeps s) :
    s0.Keeps (State.strongWrite old s me) := by
  unfold State.strongWrite
  try dsimp only
  with_reducible repeat' first
    | assumption | apply State.ordered_keeps | intro _

theorem State.readBytes_keeps {s0 : State} (s : State) (a : Nat) (n : Nat) (hs : s0.Keeps s) :
    Try.Keeps s0 (fun _ => True) (State.readBytes s a n) := by
  unfold State.readBytes
  try dsimp only
  with_reducible repeat' first
    | assumption | exact True.intro | apply Try.keeps_raise | apply Try.Keeps.ok | apply Try.Keeps.error
    | exact Stop.Keeps.hold | split | intro _ | apply State.Keeps.fields

theorem State.writable_keeps {s0 : State} (s : State) (a : Nat) (n : Nat) (hs : s0.Keeps s) :
    Try.Keeps s0 (fun _ => True) (State.writable s a n) := by
  unfold State.writable
  try dsimp only
  with_reducible repeat' first
    | assumption | exact True.intro | refine Try.keeps_bind (Try.keeps_await _) ?_
    | refine Try.keeps_bind (collect_keeps _ _ ?_) ?_ | refine Try.keeps_bind (State.readBytes_keeps _ _ _ ?_) ?_
    | apply collect_keeps | apply State.readBytes_keeps | refine Try.stop_of (collect_keeps _ _ ?_) (by assumption)
    | refine Try.stop_of (State.readBytes_keeps _ _ _ ?_) (by assumption) | refine Try.keeps_bind (P := fun _ => True) ?_ ?_
    | apply Try.keeps_await | apply Try.Keeps.ok | split | intro _

theorem State.noteWrite_keeps {s0 : State} (s : State) (a : Nat) (n : Nat) (hs : s0.Keeps s) :
    s0.Keeps (State.noteWrite s a n) := by
  unfold State.noteWrite
  with_reducible repeat' first
    | assumption | apply State.ordered_keeps | apply State.Keeps.foldl | split | intro _

theorem State.makeRaw_keeps {s0 : State} (s : State) (c : Nat) (hs : s0.Keeps s) : s0.Keeps (State.makeRaw s c) := by
  unfold State.makeRaw
  dsimp only
  with_reducible repeat' first
    | assumption | apply State.setBytes_keeps | split | apply State.Keeps.fields

theorem State.store_keeps {s0 : State} (s : State) (a : Nat) (bs : List Byte) (hs : s0.Keeps s) :
    s0.Keeps (State.store s a bs) := by
  unfold State.store
  dsimp only
  with_reducible repeat' first
    | assumption | apply State.makeRaw_keeps | apply State.setBytes_keeps | apply State.Keeps.foldl | split

theorem State.clearPoison_keeps {s0 : State} (s : State) (tower : Nat) (x : Nat) (off : Nat) (n : Nat) (hs : s0.Keeps s) :
    s0.Keeps (State.clearPoison s tower x off n) := by
  unfold State.clearPoison
  dsimp only
  with_reducible repeat' first
    | assumption | split | apply State.Keeps.fields

theorem State.fabricWritten_keeps {s0 : State} (s : State) (a n : Nat) (hs : s0.Keeps s) :
    s0.Keeps (State.fabricWritten s a n) := by
  unfold State.fabricWritten
  try dsimp only
  with_reducible repeat' first
    | assumption | split | intro _ | apply State.Keeps.fields

theorem State.put_keeps {s0 : State} (s : State) (a : Nat) (bs : List Byte) (hs : s0.Keeps s) :
    s0.Keeps (State.put s a bs) := by
  unfold State.put
  try dsimp only
  with_reducible repeat' first
    | assumption | apply State.store_keeps | apply State.noteWrite_keeps | apply State.fabricWritten_keeps
    | apply State.clearPoison_keeps | split | intro _ | apply State.Keeps.fields

theorem State.mirrorSector_keeps {s0 : State} (fuel : Nat) (done : List Nat) (s : State) (q : Nat) (hs : s0.Keeps s) :
    s0.Keeps (State.mirrorSector fuel done s q) := by
  induction fuel generalizing done s q with
  | zero => exact hs
  | succ fuel ih =>
    unfold State.mirrorSector
    dsimp only
    apply State.Keeps.foldl
    · exact hs
    · intro _ _ h
      split
      · exact h
      · exact ih _ _ _ (State.Keeps.fields (State.put_keeps _ _ _ h))

theorem State.detectWash_keeps {s0 : State} (s : State) (key : Nat) (hs : s0.Keeps s) :
    s0.Keeps (State.detectWash s key) := by
  unfold State.detectWash
  dsimp only
  with_reducible repeat' first
    | assumption | split | apply State.Keeps.fields

theorem State.mirror_keeps {s0 : State} (s : State) (a : Nat) (n : Nat) (hs : s0.Keeps s) :
    s0.Keeps (State.mirror s a n) := by
  unfold State.mirror
  dsimp only
  with_reducible repeat' first
    | assumption | apply State.mirrorSector_keeps | apply State.detectWash_keeps | apply State.Keeps.foldl | split | intro _

theorem State.writeBytes_keeps {s0 : State} (s : State) (a : Nat) (bs : List Byte) (hs : s0.Keeps s) :
    s0.Keeps (State.writeBytes s a bs) := by
  unfold State.writeBytes
  with_reducible repeat' first
    | assumption | apply State.mirror_keeps | apply State.put_keeps

theorem State.dieWrote_keeps {s0 : State} (old s : State) (ident : BitVec 32) (hold : s0.Keeps old) (hs : s0.Keeps s) :
    s0.Keeps (State.dieWrote old s ident) := by
  unfold State.dieWrote
  try dsimp only
  with_reducible repeat' first
    | assumption | apply State.ordered_keeps | split | intro _ | apply State.Keeps.fields

theorem State.physWrite_keeps {s0 : State} (s : State) (ident : BitVec 32) (r : Reach) (pa : Nat) (bs : List Byte)
    (hs : s0.Keeps s) : Try.Keeps s0 s0.Keeps (State.physWrite s ident r pa bs) := by
  unfold State.physWrite
  try dsimp only
  with_reducible repeat' first
    | assumption | refine Try.keeps_bind (State.physCheck_keeps _ _ _ _ _ _ ?_) ?_
    | refine Try.keeps_bind (State.writable_keeps _ _ _ ?_) ?_ | apply State.physCheck_keeps | apply State.writable_keeps
    | apply State.dieWrote_keeps | apply State.writeBytes_keeps | refine Try.keeps_bind (P := fun _ => True) ?_ ?_
    | apply Try.Keeps.ok | intro _

theorem State.serviceWrite_keeps {s0 : State} (s : State) (off : Nat) (n : Nat) (v : Nat) (hs : s0.Keeps s) :
    s0.Keeps (State.serviceWrite s off n v) := by
  unfold State.serviceWrite
  try dsimp only
  with_reducible repeat' first
    | assumption | (have hx := Try.ok_of (State.physWrite_keeps _ _ _ _ _ (by assumption)) (by assumption); exact hx)
    | split | intro _ | apply State.Keeps.fields

theorem State.seenBytes_keeps {s0 : State} (s : State) (who : Option Viewer) (grain a n : Nat) (hs : s0.Keeps s) :
    Try.Keeps s0 (fun _ => True) (State.seenBytes s who grain a n) := by
  unfold State.seenBytes
  try dsimp only
  with_reducible repeat' first
    | assumption | exact True.intro | refine Try.keeps_bind (State.readBytes_keeps _ _ _ ?_) ?_
    | apply State.readBytes_keeps | refine Try.keeps_bind (P := fun _ => True) ?_ ?_ | apply Try.Keeps.ok | intro _

theorem State.pieceRead_keeps {s0 : State} (s : State) (v : View) (pa : Nat) (n : Nat) (hs : s0.Keeps s) :
    Try.Keeps s0 (fun _ => True) (State.pieceRead s v pa n) := by
  unfold State.pieceRead
  with_reducible repeat' first
    | assumption | refine Try.keeps_bind (State.physCheck_keeps _ _ _ _ _ _ ?_) ?_ | apply State.seenBytes_keeps | intro _

theorem State.physRead_keeps {s0 : State} (s : State) (ident : BitVec 32) (r : Reach) (pa : Nat) (n : Nat) (hs : s0.Keeps s)
    : Try.Keeps s0 (fun _ => True) (State.physRead s ident r pa n) := by
  unfold State.physRead
  with_reducible repeat' first
    | assumption | refine Try.keeps_bind (State.physCheck_keeps _ _ _ _ _ _ ?_) ?_ | apply State.readBytes_keeps | intro _

theorem State.walkSees_keeps {s0 : State} (s : State) (pa : Nat) (hs : s0.Keeps s) :
    Try.Keeps s0 (fun _ => True) (State.walkSees s pa) := by
  unfold State.walkSees
  exact Try.keeps_bind (State.physCheck_keeps _ _ _ _ _ _ hs) fun _ _ =>
    State.seenBytes_keeps _ _ _ _ _ (State.strongRead_keeps _ _ _ _ _ hs)

theorem State.walkRead_keeps {s0 : State} (s : State) (pa : Nat) (hs : s0.Keeps s) :
    Try.Keeps s0 (fun _ => True) (State.walkRead s pa) := by
  unfold State.walkRead
  try dsimp only
  with_reducible repeat' first
    | assumption | exact True.intro | apply State.walkSees_keeps
    | refine Try.stop_of (State.walkSees_keeps _ _ ?_) (by assumption) | apply Try.keeps_raise | apply Try.Keeps.ok
    | apply Try.Keeps.error | exact Stop.Keeps.hold | exact Stop.Keeps.trap _ _ | split | intro _ | apply State.Keeps.fields

theorem State.walkFrom_keeps {s0 : State} (s : State) (va : Nat) (y2 : Nat) (y3 : Nat) (hs : s0.Keeps s) :
    Try.Keeps s0 (fun _ => True) (State.walkFrom s va y2 y3) := by
  induction y2 generalizing y3 with
  | zero =>
    unfold State.walkFrom
    dsimp only
    with_reducible repeat' first
      | assumption | exact True.intro | refine Try.stop_of (State.walkRead_keeps _ _ ?_) (by assumption)
      | apply Try.keeps_raise | apply Try.Keeps.ok | apply Try.Keeps.error | split
  | succ z ih =>
    unfold State.walkFrom
    dsimp only
    with_reducible repeat' first
      | assumption | exact True.intro | apply ih | refine Try.stop_of (State.walkRead_keeps _ _ ?_) (by assumption)
      | apply Try.keeps_raise | apply Try.Keeps.ok | apply Try.Keeps.error | split

theorem State.walk_keeps {s0 : State} (s : State) (unit : Nat) (asid : Nat) (va : Nat) (hs : s0.Keeps s) :
    Try.Keeps s0 (fun _ => True) (State.walk s unit asid va) := by
  unfold State.walk
  dsimp only
  with_reducible repeat' first
    | assumption | exact True.intro | refine Try.stop_of (State.walkRead_keeps _ _ ?_) (by assumption)
    | refine Try.stop_of (State.walkFrom_keeps _ _ _ _ ?_) (by assumption) | apply Try.keeps_raise | apply Try.Keeps.ok
    | apply Try.Keeps.error | split

theorem State.entryOf_keeps {s0 : State} (s : State) (unit : Nat) (asid : Nat) (va : Nat) (hs : s0.Keeps s) :
    Try.Keeps s0 (fun _ => True) (State.entryOf s unit asid va) := by
  unfold State.entryOf
  with_reducible repeat' first
    | assumption | exact True.intro | refine Try.stop_of (State.walk_keeps _ _ _ _ ?_) (by assumption) | apply Try.Keeps.ok
    | apply Try.Keeps.error | exact Stop.Keeps.trap _ _ | exact Stop.Keeps.miss _ _ _ | split

theorem State.entries_keeps {s0 : State} (s : State) (unit : Nat) (asid : Nat) (y3 : Nat) (y4 : Nat) (y5 : Nat)
    (hs : s0.Keeps s) : Try.Keeps s0 (fun _ => True) (State.entries s unit asid y3 y4 y5) := by
  induction y3 generalizing y4 y5 with
  | zero =>
    unfold State.entries
    with_reducible repeat' first
      | assumption | exact True.intro | refine Try.keeps_bind (State.entryOf_keeps _ _ _ _ ?_) ?_
      | refine Try.keeps_bind (P := fun _ => True) ?_ ?_ | apply Try.Keeps.ok | split | intro _
  | succ z ih =>
    unfold State.entries
    with_reducible repeat' first
      | assumption | exact True.intro | apply ih | refine Try.keeps_bind (State.entryOf_keeps _ _ _ _ ?_) ?_
      | refine Try.keeps_bind (P := fun _ => True) ?_ ?_ | apply Try.Keeps.ok | split | intro _

theorem State.pieces_keeps {s0 : State} (s : State) (unit : Nat) (asid : Nat) (k : Access) (astream : Bool) (va : Nat)
    (n : Nat) (hs : s0.Keeps s) : Try.Keeps s0 (fun _ => True) (State.pieces s unit asid k astream va n) := by
  unfold State.pieces
  with_reducible repeat' first
    | assumption | refine Try.keeps_bind (State.entries_keeps _ _ _ _ _ _ ?_) ?_ | apply Try.Keeps.ok | apply Try.Keeps.error
    | exact Stop.Keeps.trap _ _ | split | intro _

theorem State.range_keeps {s0 : State} (s : State) (v : View) (k : Access) (va : Nat) (n : Nat) (hs : s0.Keeps s) :
    Try.Keeps s0 (fun _ => True) (State.range s v k va n) := by
  unfold State.range
  with_reducible repeat' first
    | assumption | exact True.intro | apply State.pieces_keeps | apply Try.Keeps.ok | split

theorem atVa_keeps {s0 : State} {α : Type} (va : Nat) (y2 : Try α) (hr : Try.Keeps s0 (fun _ => True) y2) :
    Try.Keeps s0 (fun _ => True) (atVa va y2) := by
  unfold atVa
  with_reducible repeat' first
    | assumption | apply Try.Keeps.error | exact Stop.Keeps.trap _ _ | split

theorem State.check_keeps {s0 : State} (s : State) (v : View) (k : Access) (va : Nat) (n : Nat) (hs : s0.Keeps s) :
    Try.Keeps s0 (fun _ => True) (State.check s v k va n) := by
  unfold State.check
  with_reducible repeat' first
    | assumption | refine Try.keeps_bind (State.range_keeps _ _ _ _ _ ?_) ?_ | refine Try.keeps_bind (atVa_keeps _ _ ?_) ?_
    | refine Try.keeps_bind (State.physCheck_keeps _ _ _ _ _ _ ?_) ?_ | apply collect_keeps | apply State.writable_keeps
    | apply Try.Keeps.ok | apply Try.keeps_pure | split | intro _

theorem State.writePieces_keeps {s0 : State} (s : State) (y1 : List (Nat × Nat)) (y2 : List Byte) (hs : s0.Keeps s) :
    s0.Keeps (State.writePieces s y1 y2) := by
  induction y1 generalizing s y2 with
  | nil =>
    unfold State.writePieces
    with_reducible repeat' first
      | assumption | apply State.writeBytes_keeps
  | cons z zs ih =>
    unfold State.writePieces
    with_reducible repeat' first
      | assumption | apply ih | apply State.writeBytes_keeps

theorem State.viewRead_keeps {s0 : State} (s : State) (v : View) (va : Nat) (n : Nat) (hs : s0.Keeps s) :
    Try.Keeps s0 (fun _ => True) (State.viewRead s v va n) := by
  unfold State.viewRead
  with_reducible repeat' first
    | assumption | refine Try.keeps_bind (State.range_keeps _ _ _ _ _ ?_) ?_ | refine Try.keeps_bind (atVa_keeps _ _ ?_) ?_
    | apply collect_keeps | apply State.pieceRead_keeps | apply Try.Keeps.ok | intro _

theorem State.codePieces_keeps {s0 : State} (s : State) (core : Nat) (asid : Nat) (p : Parcel) (n : Nat) (hs : s0.Keeps s) :
    Try.Keeps s0 (fun _ => True) (State.codePieces s core asid p n) := by
  unfold State.codePieces
  dsimp only
  with_reducible repeat' first
    | assumption | refine Try.keeps_bind (State.pieces_keeps _ _ _ _ _ _ _ ?_) ?_ | apply Try.Keeps.ok | intro _

theorem State.viewWrite_keeps {s0 : State} (s : State) (v : View) (va : Nat) (bs : List Byte) (hs : s0.Keeps s) :
    Try.Keeps s0 s0.Keeps (State.viewWrite s v va bs) := by
  unfold State.viewWrite
  with_reducible repeat' first
    | assumption | refine Try.keeps_bind (State.check_keeps _ _ _ _ _ ?_) ?_ | apply State.writePieces_keeps
    | apply Try.Keeps.ok | intro _

theorem State.fetch_keeps {s0 : State} (s : State) (id : Nat) (core : Nat) (asid : Nat) (stream : Nat) (p : Parcel)
    (n : Nat) (hs : s0.Keeps s) : Try.Keeps s0 (fun _ => True) (State.fetch s id core asid stream p n) := by
  unfold State.fetch
  have r (a n) : Try.Keeps s0 (fun _ => True) ((s.codeOf id).readBytes a n) := by
    unfold State.readBytes
    repeat' first
      | exact True.intro | apply Try.keeps_raise | apply Try.Keeps.ok | exact .error .hold | split
  refine Try.keeps_bind (State.codePieces_keeps _ _ _ _ _ hs) fun ps _ => ?_
  refine Try.keeps_bind (atVa_keeps _ _ (collect_keeps _ _ fun q => ?_)) fun bs _ => .ok trivial
  exact Try.keeps_bind (State.physCheck_keeps _ _ _ _ _ _ hs) fun _ _ => r _ _

theorem State.keepCode_keeps {s0 : State} (s : State) (id : Nat) (hs : s0.Keeps s) : s0.Keeps (State.keepCode s id) := by
  unfold State.keepCode
  with_reducible repeat' first
    | assumption | apply State.Keeps.fields

theorem State.translate_keeps {s0 : State} (s : State) (unit : Nat) (asid : Nat) (va : Nat) (k : Access) (astream : Bool)
    (hs : s0.Keeps s) : Try.Keeps s0 (fun _ => True) (State.translate s unit asid va k astream) := by
  unfold State.translate
  with_reducible repeat' first
    | assumption | refine Try.keeps_bind (State.entryOf_keeps _ _ _ _ ?_) ?_ | apply Try.Keeps.ok | apply Try.Keeps.error
    | exact Stop.Keeps.trap _ _ | split | intro _

/-! ## Folio -/

theorem State.setHeader_keeps {s0 : State} (s : State) (b : Nat) (i : Nat) (v : Nat) (hs : s0.Keeps s) :
    s0.Keeps (State.setHeader s b i v) := by
  unfold State.setHeader
  try dsimp only
  with_reducible repeat' first
    | assumption | (have hx := Try.ok_of (State.physWrite_keeps _ _ _ _ _ (by assumption)) (by assumption); exact hx)
    | split | intro _ | apply State.Keeps.fields

theorem State.takeHead_keeps {s0 : State} (s : State) (loc : Nat) (w : Nat) (hs : s0.Keeps s) :
    s0.Keeps (State.takeHead s loc w) := by
  unfold State.takeHead
  dsimp only
  with_reducible repeat' first
    | assumption | split | apply State.Keeps.fields

theorem State.setHead_keeps {s0 : State} (s : State) (loc : Nat) (w : Nat) (hs : s0.Keeps s) :
    s0.Keeps (State.setHead s loc w) := by
  unfold State.setHead
  with_reducible repeat' first
    | assumption | apply State.serviceWrite_keeps | apply State.takeHead_keeps

theorem State.setHeaderBits_keeps {s0 : State} (s : State) (b : Nat) (i : Nat) (lo : Nat) (n : Nat) (x : Nat)
    (hs : s0.Keeps s) : s0.Keeps (State.setHeaderBits s b i lo n x) := by
  unfold State.setHeaderBits
  with_reducible repeat' first
    | assumption | apply State.setHeader_keeps

theorem State.returnFree_keeps {s0 : State} (s : State) (b : Nat) (hs : s0.Keeps s) : s0.Keeps (State.returnFree s b) := by
  unfold State.returnFree
  dsimp only
  with_reducible repeat' first
    | assumption | apply State.setHead_keeps | apply State.setHeaderBits_keeps | apply State.setHeader_keeps

theorem State.showConversions_keeps {s0 : State} (s : State) (hs : s0.Keeps s) : s0.Keeps (State.showConversions s) := by
  unfold State.showConversions
  with_reducible repeat' first
    | assumption | apply State.serviceWrite_keeps

theorem State.abortConversion_keeps {s0 : State} (s : State) (b : Nat) (hs : s0.Keeps s) :
    s0.Keeps (State.abortConversion s b) := by
  unfold State.abortConversion
  dsimp only
  with_reducible repeat' first
    | assumption | apply State.setHeader_keeps | apply State.returnFree_keeps | apply State.showConversions_keeps | split
    | apply State.Keeps.fields

theorem State.takeFree_keeps {s0 : State} (s : State) (loc : Nat) (hs : s0.Keeps s) :
    OptKeeps (fun p => s0.Keeps p.2) (State.takeFree s loc) := by
  unfold State.takeFree
  dsimp only
  with_reducible repeat' first
    | assumption | apply State.setHeader_keeps | apply State.setHeaderBits_keeps | apply State.setHead_keeps
    | apply OptKeeps.some | exact OptKeeps.none | split

theorem State.allocBlock_keeps {s0 : State} (s : State) (loc : Nat) (format : Nat) (group : Nat) (hs : s0.Keeps s) :
    OptKeeps (fun p => s0.Keeps p.2) (State.allocBlock s loc format group) := by
  unfold State.allocBlock
  with_reducible repeat' first
    | apply State.setHeaderBits_keeps | apply State.setHeader_keeps
    | (have hx := OptKeeps.of (State.takeFree_keeps _ _ (by assumption)) (by assumption); exact hx) | apply OptKeeps.some
    | exact OptKeeps.none | split

theorem State.headerCheck_keeps {s0 : State} (s : State) (k : Access) (b : Nat) (hs : s0.Keeps s) :
    Try.Keeps s0 (fun _ => True) (State.headerCheck s k b) := by
  unfold State.headerCheck
  try dsimp only
  with_reducible repeat' first
    | assumption | exact True.intro | refine Try.keeps_bind (Try.keeps_await _) ?_
    | refine Try.keeps_bind (State.physRead_keeps _ _ _ _ _ ?_) ?_
    | refine Try.keeps_bind (State.physCheck_keeps _ _ _ _ _ _ ?_) ?_ | apply State.physRead_keeps
    | apply State.physCheck_keeps | refine Try.keeps_bind (P := fun _ => True) ?_ ?_ | apply Try.keeps_await
    | apply Try.Keeps.ok | intro _

theorem State.setBlockState_keeps {s0 : State} (s : State) (b : Nat) (st : Nat) (hs : s0.Keeps s) :
    s0.Keeps (State.setBlockState s b st) := by
  unfold State.setBlockState
  with_reducible repeat' first
    | assumption | apply State.setHeaderBits_keeps

theorem State.openBlock_keeps {s0 : State} (s : State) (b : Nat) (hs : s0.Keeps s) : s0.Keeps (State.openBlock s b) := by
  unfold State.openBlock
  with_reducible repeat' first
    | assumption | apply State.setBlockState_keeps | apply State.abortConversion_keeps | split

theorem State.dropRef_keeps {s0 : State} (s : State) (b : Nat) (hs : s0.Keeps s) : s0.Keeps (State.dropRef s b) := by
  unfold State.dropRef
  dsimp only
  with_reducible repeat' first
    | assumption | apply State.setHeaderBits_keeps | apply State.abortConversion_keeps | split | apply State.Keeps.fields

/-! ## Glyphs -/

theorem State.glyphAddr_keeps {s0 : State} (s : State) (n : Nat) (hs : s0.Keeps s) :
    Try.Keeps s0 (fun _ => True) (State.glyphAddr s n) := by
  unfold State.glyphAddr
  with_reducible repeat' first
    | exact True.intro | apply Try.keeps_raise | apply Try.Keeps.ok | split

theorem State.glyphWords_keeps {s0 : State} (s : State) (n : Nat) (hs : s0.Keeps s) :
    Try.Keeps s0 (fun _ => True) (State.glyphWords s n) := by
  unfold State.glyphWords
  with_reducible repeat' first
    | assumption | refine Try.keeps_bind (State.glyphAddr_keeps _ _ ?_) ?_
    | refine Try.keeps_bind (State.viewRead_keeps _ _ _ _ ?_) ?_ | apply Try.Keeps.ok | intro _

theorem State.listEntry_keeps {s0 : State} (s : State) (v : View) (g : Glyph) (o : Int) (hs : s0.Keeps s) :
    Try.Keeps s0 (fun _ => True) (State.listEntry s v g o) := by
  unfold State.listEntry
  dsimp only
  with_reducible repeat' first
    | assumption | refine Try.keeps_bind (State.range_keeps _ _ _ _ _ ?_) ?_ | apply Try.Keeps.ok | intro _

theorem State.resolveBlock_keeps {s0 : State} (s : State) (v : View) (g : Glyph) (o : Int) (hs : s0.Keeps s) :
    Try.Keeps s0 (fun _ => True) (State.resolveBlock s v g o) := by
  unfold State.resolveBlock
  with_reducible repeat' first
    | assumption | refine Try.keeps_bind (State.listEntry_keeps _ _ _ _ ?_) ?_
    | refine Try.keeps_bind (State.pieceRead_keeps _ _ _ _ ?_) ?_
    | refine Try.keeps_bind (State.headerCheck_keeps _ _ _ ?_) ?_ | refine Try.keeps_bind (Try.keeps_require _ _) ?_
    | apply Try.Keeps.ok | intro _

theorem State.pagedRead_keeps {s0 : State} (s : State) (v : View) (g : Glyph) (o : Int) (hs : s0.Keeps s) :
    Try.Keeps s0 (fun _ => True) (State.pagedRead s v g o) := by
  unfold State.pagedRead
  dsimp only
  with_reducible repeat' first
    | assumption | refine Try.keeps_bind (State.resolveBlock_keeps _ _ _ _ ?_) ?_
    | refine Try.keeps_bind (State.pieceRead_keeps _ _ _ _ ?_) ?_ | refine Try.keeps_bind (Try.keeps_require _ _) ?_
    | apply Try.Keeps.ok | split | intro _

theorem State.readElem_keeps {s0 : State} (s : State) (v : View) (g : Glyph) (off : Int) (disp : Int) (hs : s0.Keeps s) :
    Try.Keeps s0 (fun _ => True) (State.readElem s v g off disp) := by
  unfold State.readElem
  dsimp only
  with_reducible repeat' first
    | assumption | refine Try.keeps_bind (State.viewRead_keeps _ _ _ _ ?_) ?_ | apply State.pagedRead_keeps
    | apply Try.Keeps.ok | split | intro _

theorem State.startCow_keeps {s0 : State} (s : State) (v : View) (e : Nat) (b : Nat) (hs : s0.Keeps s) :
    Try.Keeps s0 s0.Keeps (State.startCow s v e b) := by
  unfold State.startCow
  dsimp only
  with_reducible repeat' first
    | assumption | exact True.intro | refine Try.keeps_bind (State.physCheck_keeps _ _ _ _ _ _ ?_) ?_
    | refine Try.keeps_bind (State.headerCheck_keeps _ _ _ ?_) ?_ | refine Try.keeps_bind (Try.keeps_require _ _) ?_
    | refine Try.keeps_bind (P := fun _ => True) ?_ ?_
    | (have hx := OptKeeps.of (State.allocBlock_keeps _ _ _ _ (by assumption)) (by assumption); exact hx)
    | apply Try.keeps_raise | apply Try.Keeps.ok | split | intro _ | apply State.Keeps.fields

theorem State.pagedPlace_keeps {s0 : State} (s : State) (v : View) (g : Glyph) (o : Int) (hs : s0.Keeps s) :
    Try.Keeps s0 (fun _ => True) (State.pagedPlace s v g o) := by
  unfold State.pagedPlace
  try dsimp only
  with_reducible repeat' first
    | assumption | exact True.intro | refine Try.keeps_bind (Try.keeps_require _ _) ?_
    | refine Try.keeps_bind (Try.keeps_await _) ?_ | refine Try.keeps_bind (State.listEntry_keeps _ _ _ _ ?_) ?_
    | refine Try.keeps_bind (State.resolveBlock_keeps _ _ _ _ ?_) ?_
    | refine Try.keeps_bind (State.headerCheck_keeps _ _ _ ?_) ?_
    | refine Try.keeps_bind (State.startCow_keeps _ _ _ _ ?_) ?_ | apply State.listEntry_keeps
    | apply State.resolveBlock_keeps | apply State.headerCheck_keeps | apply State.startCow_keeps
    | refine Try.stop_of (State.listEntry_keeps _ _ _ _ ?_) (by assumption)
    | refine Try.stop_of (State.resolveBlock_keeps _ _ _ _ ?_) (by assumption)
    | refine Try.stop_of (State.headerCheck_keeps _ _ _ ?_) (by assumption)
    | refine Try.stop_of (State.startCow_keeps _ _ _ _ ?_) (by assumption)
    | (have hx := Try.ok_of (State.startCow_keeps _ _ _ _ (by assumption)) (by assumption); exact hx)
    | refine Try.keeps_bind (P := fun _ => True) ?_ ?_ | apply Try.keeps_require | apply Try.keeps_await
    | apply Try.Keeps.ok | apply Try.Keeps.error | exact Stop.Keeps.hold | apply Stop.Keeps.pend | split | intro _

theorem State.storageReady_keeps {s0 : State} (s : State) (v : View) (pa n : Nat) (hs : s0.Keeps s) :
    Try.Keeps s0 (fun _ => True) (State.storageReady s v pa n) := by
  unfold State.storageReady
  try dsimp only
  with_reducible repeat' first
    | assumption | exact True.intro | refine Try.keeps_bind (State.physCheck_keeps _ _ _ _ _ _ ?_) ?_
    | refine Try.keeps_bind (State.writable_keeps _ _ _ ?_) ?_ | apply State.physCheck_keeps | apply State.writable_keeps
    | refine Try.keeps_bind (P := fun _ => True) ?_ ?_ | apply Try.Keeps.ok | intro _

theorem State.pagedReady_keeps {s0 : State} (s : State) (v : View) (g : Glyph) (o : Int) (hs : s0.Keeps s) :
    Try.Keeps s0 (fun _ => True) (State.pagedReady s v g o) := by
  unfold State.pagedReady
  try dsimp only
  with_reducible repeat' first
    | assumption | exact True.intro | refine Try.keeps_bind (State.pagedPlace_keeps _ _ _ _ ?_) ?_
    | refine Try.keeps_bind (State.storageReady_keeps _ _ _ _ ?_) ?_ | apply State.pagedPlace_keeps
    | apply State.storageReady_keeps | refine Try.keeps_bind (P := fun _ => True) ?_ ?_ | apply Try.Keeps.ok | intro _

theorem State.elemReady_keeps {s0 : State} (s : State) (v : View) (g : Glyph) (off : Int) (disp : Int) (hs : s0.Keeps s) :
    Try.Keeps s0 (fun _ => True) (State.elemReady s v g off disp) := by
  unfold State.elemReady
  with_reducible repeat' first
    | assumption | refine Try.keeps_bind (State.pagedReady_keeps _ _ _ _ ?_) ?_
    | refine Try.keeps_bind (State.check_keeps _ _ _ _ _ ?_) ?_ | apply Try.Keeps.ok | split | intro _

theorem State.elemsReady_keeps {s0 : State} (s : State) (v : View) (g : Glyph) (disp : Int) (os : List Int)
    (hs : s0.Keeps s) : Try.Keeps s0 (fun _ => True) (State.elemsReady s v g disp os) := by
  unfold State.elemsReady
  with_reducible repeat' first
    | assumption | refine Try.keeps_bind (collect_keeps _ _ ?_) ?_ | apply State.elemReady_keeps | apply Try.Keeps.ok
    | intro _

theorem State.endRequest_keeps {s0 : State} (s : State) (result : Nat) (hs : s0.Keeps s) :
    s0.Keeps (State.endRequest s result) := by
  unfold State.endRequest
  with_reducible repeat' first
    | assumption | apply State.serviceWrite_keeps | split

theorem State.refuseMigration_keeps {s0 : State} (s : State) (c : Convert) (cause : Cause) (pa : Nat) (hs : s0.Keeps s) :
    s0.Keeps (State.refuseMigration s c cause pa) := by
  exact State.post_keeps _ _ (State.endRequest_keeps _ _ (State.Keeps.fields (State.returnFree_keeps _ _ (State.setHeader_keeps _ _ _ _ hs))))

theorem State.mirrorBlock_keeps {s0 : State} (s : State) (b : Nat) (pa : Nat) (n : Nat) (hs : s0.Keeps s) :
    s0.Keeps (State.mirrorBlock s b pa n) := by
  unfold State.mirrorBlock
  dsimp only
  split
  · exact hs
  · split
    · exact hs
    · split
      · rename_i h
        exact Try.ok_of (Try.keeps_bind (Try.keeps_require _ _) fun _ _ => State.physWrite_keeps _ _ _ _ _ hs) h
      · exact State.refuseMigration_keeps _ _ _ _ hs
      · exact hs

theorem State.writeElem_keeps {s0 : State} (s : State) (v : View) (g : Glyph) (off : Int) (disp : Int) (x : Nat)
    (hs : s0.Keeps s) : Try.Keeps s0 s0.Keeps (State.writeElem s v g off disp x) := by
  unfold State.writeElem
  dsimp only
  with_reducible repeat' first
    | assumption | refine Try.keeps_bind (State.pagedReady_keeps _ _ _ _ ?_) ?_
    | refine Try.keeps_bind (State.check_keeps _ _ _ _ _ ?_) ?_ | refine Try.keeps_bind (State.readBytes_keeps _ _ _ ?_) ?_
    | apply State.mirrorBlock_keeps | apply State.writeBytes_keeps | apply State.openBlock_keeps
    | apply State.viewWrite_keeps | apply Try.Keeps.ok | split | intro _

theorem State.writeElems_keeps {s0 : State} (s : State) (v : View) (g : Glyph) (disp : Int) (y4 : List (Int × Nat))
    (hs : s0.Keeps s) : Try.Keeps s0 s0.Keeps (State.writeElems s v g disp y4) := by
  induction y4 generalizing s with
  | nil =>
    unfold State.writeElems
    with_reducible repeat' first
      | assumption | refine Try.keeps_bind (State.writeElem_keeps _ _ _ _ _ _ ?_) ?_ | apply Try.Keeps.ok
  | cons z zs ih =>
    unfold State.writeElems
    with_reducible repeat' first
      | assumption | refine Try.keeps_bind (State.writeElem_keeps _ _ _ _ _ _ ?_) ?_ | apply Try.Keeps.ok

theorem State.readElems_keeps {s0 : State} (s : State) (v : View) (g : Glyph) (disp : Int) (os : List Int) (hs : s0.Keeps s)
    : Try.Keeps s0 (fun _ => True) (State.readElems s v g disp os) := by
  unfold State.readElems
  with_reducible repeat' first
    | assumption | apply collect_keeps | apply State.readElem_keeps | intro _

theorem State.useGlyph_keeps {s0 : State} (s : State) (n : Nat) (hs : s0.Keeps s) :
    Try.Keeps s0 (fun _ => True) (State.useGlyph s n) := by
  unfold State.useGlyph
  with_reducible repeat' first
    | assumption | refine Try.keeps_bind (State.glyphWords_keeps _ _ ?_) ?_
    | refine Try.keeps_bind (Try.keeps_require _ _) ?_ | apply Try.Keeps.ok | intro _

/-! ## Release -/

theorem State.gains_keeps {s0 : State} (s : State) (st : Strand) (x : Know) (hs : s0.Keeps s) :
    s0.Keeps (State.gains s st x) := by
  unfold State.gains
  dsimp only
  with_reducible repeat' first
    | assumption | apply State.ordered_keeps

theorem State.acquires_keeps {s0 : State} (s : State) (st : Strand) (rs : List Release) (hs : s0.Keeps s) :
    s0.Keeps (State.acquires s st rs) := by
  unfold State.acquires
  with_reducible repeat' first
    | assumption | apply State.gains_keeps | apply State.Keeps.foldl | intro _

theorem State.acquireSem_keeps {s0 : State} (s : State) (st : Strand) (n : Nat) (scope : Nat) (hs : s0.Keeps s) :
    s0.Keeps (State.acquireSem s st n scope) := by
  unfold State.acquireSem
  with_reducible repeat' first
    | assumption | apply State.acquires_keeps

theorem State.postRelease_keeps {s0 : State} (s : State) (n scope : Nat) (home : Home) (p : Party) (k : Know) (pub : List Nat) (hs : s0.Keeps s) :
    s0.Keeps (State.postRelease s n scope home p k pub) := by
  unfold State.postRelease
  try dsimp only
  with_reducible repeat' first
    | assumption | apply State.ordered_keeps | split | intro _ | apply State.Keeps.fields

theorem State.acquireBar_keeps {s0 : State} (s : State) (st : Strand) (core : Nat) (n : Nat) (f : BitVec 32)
    (hs : s0.Keeps s) : s0.Keeps (State.acquireBar s st core n f) := by
  unfold State.acquireBar
  with_reducible repeat' first
    | assumption | apply State.acquires_keeps

theorem State.owned_keeps {s0 : State} (old : State) (s : State) (st : Strand) (hs : s0.Keeps old) (hs1 : s0.Keeps s) :
    s0.Keeps (State.owned old s st) := by
  unfold State.owned
  with_reducible repeat' first
    | assumption | apply State.ordered_keeps | split

theorem State.releaseRegions_keeps {s0 : State} (s : State) (n scope : Nat) (home : Home) (p : Party) (k : Know) (hs : s0.Keeps s) :
    s0.Keeps (State.releaseRegions s n scope home p k) := by
  unfold State.releaseRegions
  try dsimp only
  with_reducible repeat' first
    | assumption | apply State.postRelease_keeps | intro _ | apply State.Keeps.fields

theorem State.releaseSem_keeps {s0 : State} (s : State) (st : Strand) (n : Nat) (scope : Nat) (hs : s0.Keeps s) :
    s0.Keeps (State.releaseSem s st n scope) := by
  unfold State.releaseSem
  try dsimp only
  with_reducible repeat' first
    | assumption | apply State.releaseRegions_keeps | intro _

theorem State.orderSem_keeps {s0 : State} (s : State) (st : Strand) (n : Nat) (o : SemOrder) (hs : s0.Keeps s) :
    s0.Keeps (State.orderSem s st n o) := by
  unfold State.orderSem
  dsimp only
  with_reducible repeat' first
    | assumption | apply State.acquireSem_keeps | apply State.releaseSem_keeps | split

theorem State.releaseHost_keeps {s0 : State} (s : State) (st : Strand) (hs : s0.Keeps s) :
    s0.Keeps (State.releaseHost s st) := by
  unfold State.releaseHost
  dsimp only
  with_reducible repeat' first
    | assumption | apply State.ordered_keeps

/-! ## Remote -/

theorem State.setLink_keeps {s0 : State} (s : State) (p : Nat) (l : Link) (hs : s0.Keeps s) :
    s0.Keeps (State.setLink s p l) := by
  unfold State.setLink
  dsimp only
  with_reducible repeat' first
    | assumption | apply State.Keeps.fields

theorem State.sendFlit_keeps {s0 : State} (s : State) (p : Nat) (kind : Nat) (payload : List Byte) (hs : s0.Keeps s) :
    s0.Keeps (State.sendFlit s p kind payload) := by
  unfold State.sendFlit
  dsimp only
  with_reducible repeat' first
    | assumption | apply State.setLink_keeps | apply State.Keeps.fields

theorem State.sendVia_keeps {s0 : State} (s : State) (path : Option Nat) (node : Nat) (m : FabMsg) (hs : s0.Keeps s) :
    s0.Keeps (State.sendVia s path node m) := by
  unfold State.sendVia
  try dsimp only
  with_reducible repeat' first
    | assumption | apply State.setLink_keeps | apply State.sendFlit_keeps | apply State.Keeps.foldl | split | intro _
    | apply State.Keeps.fields

theorem State.sendMsg_keeps {s0 : State} (s : State) (node : Nat) (m : FabMsg) (hs : s0.Keeps s) :
    s0.Keeps (State.sendMsg s node m) := by
  unfold State.sendMsg
  try dsimp only
  with_reducible repeat' first
    | assumption | apply State.sendVia_keeps | split | intro _ | apply State.Keeps.fields

theorem State.sendAll_keeps {s0 : State} (s : State) (ns : List Nat) (m : FabMsg) (hs : s0.Keeps s) :
    s0.Keeps (State.sendAll s ns m) := by
  unfold State.sendAll
  with_reducible repeat' first
    | assumption | apply State.sendMsg_keeps | apply State.Keeps.foldl | intro _

theorem State.sendRequest_keeps {s0 : State} (s : State) (node : Nat) (op : RemoteOp) (k : Know) (asker : Asker) (ident : BitVec 32) (pc : Parcel) (hs : s0.Keeps s) :
    s0.Keeps (State.sendRequest s node op k asker ident pc) := by
  unfold State.sendRequest
  try dsimp only
  with_reducible repeat' first
    | assumption | apply State.put_keeps | apply State.sendMsg_keeps | intro _ | apply State.Keeps.fields

theorem State.sendCollective_keeps {s0 : State} (s : State) (ns : List Nat) (c : Nat) (k : Nat) (op : RemoteOp)
    (hs : s0.Keeps s) : s0.Keeps (State.sendCollective s ns c k op) := by
  unfold State.sendCollective
  with_reducible repeat' first
    | assumption | apply State.sendRequest_keeps | apply State.Keeps.foldl | intro _

theorem State.ctlSend_keeps {s0 : State} (s : State) (o : Nat) (n : Nat) (v : Nat) (hs : s0.Keeps s) :
    s0.Keeps (State.ctlSend s o n v) := by
  unfold State.ctlSend
  dsimp only
  with_reducible repeat' first
    | assumption | apply State.Keeps.fields

theorem State.remoteStep_keeps {s0 : State} (s : State) (node : Nat) (op : RemoteOp) (k : Know)
    (done : State → Know → Word → Try State) (hs : s0.Keeps s)
    (hf : ∀ a x b, s0.Keeps a → Try.Keeps s0 (s0.Keeps) (done a x b)) :
    Try.Keeps s0 s0.Keeps (State.remoteStep s node op k done) := by
  unfold State.remoteStep
  dsimp only
  with_reducible repeat' first
    | assumption | apply hf | refine Try.keeps_bind (Try.keeps_await _) ?_ | apply State.sendRequest_keeps
    | apply Try.Keeps.error | exact Stop.Keeps.hold | apply Stop.Keeps.pend | apply Stop.Keeps.path
    | apply Stop.Keeps.trapWith | split | intro _ | apply State.Keeps.fields

/-! ## Flags -/

theorem State.setFlags_keeps {s0 : State} (s : State) (f : Flags) (hs : s0.Keeps s) : s0.Keeps (State.setFlags s f) := by
  unfold State.setFlags
  with_reducible repeat' first
    | assumption | apply State.onTask_keeps | split

/-! ## Control -/

theorem State.jump_keeps {s0 : State} (s : State) (p : Parcel) (hs : s0.Keeps s) :
    Try.Keeps s0 s0.Keeps (State.jump s p) := by
  unfold State.jump
  with_reducible repeat' first
    | assumption | apply State.goto_keeps | apply Try.Keeps.ok | apply Try.Keeps.error | apply Stop.Keeps.trapWith | split

theorem execB_keeps {s0 : State} (w : AB) (s : State) (hs : s0.Keeps s) : OutKeeps s0 (execB w s) := by
  unfold execB
  with_reducible repeat' first
    | assumption | apply State.aWord_keeps | apply State.jump_keeps | apply State.advance_keeps | apply Try.Keeps.ok | split
    | intro _

theorem execJ_keeps {s0 : State} (w : AB) (s : State) (hs : s0.Keeps s) : OutKeeps s0 (execJ w s) := by
  unfold execJ
  with_reducible repeat' first
    | assumption | apply State.aWord_keeps | apply State.jump_keeps | intro _

theorem execJal_keeps {s0 : State} (w : AB) (s : State) (hs : s0.Keeps s) : OutKeeps s0 (execJal w s) := by
  unfold execJal
  with_reducible repeat' first
    | assumption | apply State.aWord_keeps | apply State.jump_keeps | apply State.setReg_keeps | intro _

theorem execJr_keeps {s0 : State} (w : AR) (s : State) (hs : s0.Keeps s) : OutKeeps s0 (execJr w s) := by
  unfold execJr
  with_reducible repeat' first
    | assumption | refine Try.keeps_bind (Try.keeps_require _ _) ?_ | apply State.aWord_keeps | apply State.jump_keeps
    | apply State.setReg_keeps | intro _

theorem State.taskWord_keeps {s0 : State} (s : State) (need : List (BitVec 6)) (f : State → Nat → Task → Try State)
    (hs : s0.Keeps s) (hf : ∀ a b c, s0.Keeps a → Try.Keeps s0 (s0.Keeps) (f a b c)) :
    OutKeeps s0 (State.taskWord s need f) := by
  unfold State.taskWord
  with_reducible repeat' first
    | assumption | apply hf | apply State.aWord_keeps | apply Try.keeps_raise | split | intro _

theorem Task.notInHandler_keeps {s0 : State} (t : Task) : Try.Keeps s0 (fun _ => True) (Task.notInHandler t) := by
  unfold Task.notInHandler
  with_reducible repeat' first
    | apply Try.keeps_require

theorem execBqp_keeps {s0 : State} (w : AB) (s : State) (hs : s0.Keeps s) : OutKeeps s0 (execBqp w s) := by
  unfold execBqp
  dsimp only
  with_reducible repeat' first
    | assumption | refine Try.keeps_bind (Task.notInHandler_keeps _) ?_ | refine Try.keeps_bind (Try.keeps_require _ _) ?_
    | apply State.taskWord_keeps | apply State.advance_keeps | apply State.setTask_keeps | apply Try.Keeps.ok
    | apply Try.Keeps.error | exact Stop.Keeps.hold | split | intro _

theorem execFin_keeps {s0 : State} (y0 : AR) (s : State) (hs : s0.Keeps s) : OutKeeps s0 (execFin y0 s) := by
  unfold execFin
  with_reducible repeat' first
    | assumption | refine Try.keeps_bind (Task.notInHandler_keeps _) ?_ | apply State.taskWord_keeps
    | apply State.setTask_keeps | apply Try.Keeps.ok | intro _

theorem execNop_keeps {s0 : State} (y0 : AR) (s : State) (hs : s0.Keeps s) : OutKeeps s0 (execNop y0 s) := by
  unfold execNop
  with_reducible repeat' first
    | assumption | apply State.aWord_keeps | apply State.advance_keeps | apply Try.Keeps.ok | intro _

end Sys2Proof.Machine
end

