-- ==== Sys2Proof/Laws/Keeps2.lean ====
section
/-! SUPPORT. What every operation and meaning of Access, Sync, Arming, Operands keeps (`State.Keeps`). -/

namespace Sys2Proof.Machine

/-! ## Access -/

theorem State.blockOf_keeps {s0 : State} (s : State) (a : BitVec 6) (hs : s0.Keeps s) :
    Try.Keeps s0 (fun _ => True) (State.blockOf s a) := by
  unfold State.blockOf
  dsimp only
  with_reducible repeat' first
    | assumption | refine Try.keeps_bind (State.headerCheck_keeps _ _ _ ?_) ?_
    | refine Try.keeps_bind (Try.keeps_require _ _) ?_ | apply Try.Keeps.ok | intro _

theorem State.fenced_keeps {s0 : State} (s : State) (hs : s0.Keeps s) : s0.Keeps (State.fenced s) := by
  unfold State.fenced
  with_reducible repeat' first
    | assumption | apply State.ordered_keeps | split

theorem State.freshen_keeps {s0 : State} (s : State) (b : Nat) (hs : s0.Keeps s) : s0.Keeps (State.freshen s b) := by
  unfold State.freshen
  with_reducible repeat' first
    | assumption | apply State.writeBytes_keeps | split

theorem State.indices_keeps {s0 : State} (s : State) (va : Nat) (hs : s0.Keeps s) :
    Try.Keeps s0 (fun _ => True) (State.indices s va) := by
  unfold State.indices
  with_reducible repeat' first
    | assumption | refine Try.keeps_bind (State.viewRead_keeps _ _ _ _ ?_) ?_ | apply Try.Keeps.ok | apply Try.Keeps.error
    | exact Stop.Keeps.trap _ _ | split | intro _

theorem lasting_keeps {s0 : State} {α : Type} (y1 : Try α) (hr : Try.Keeps s0 (fun _ => True) y1) :
    Try.Keeps s0 (fun _ => True) (lasting y1) := by
  unfold lasting
  split
  · exact .ok trivial
  · exact .ok trivial
  · cases hr with | error h => exact .error h

theorem State.gather_keeps {s0 : State} (s : State) (v : View) (g : Glyph) (fs : List Nat) (hs : s0.Keeps s) :
    Try.Keeps s0 (fun _ => True) (State.gather s v g fs) := by
  unfold State.gather
  with_reducible repeat' first
    | assumption | exact True.intro | apply collect_keeps | apply State.readElem_keeps | apply Try.Keeps.ok | split | intro _

theorem State.hazardFree_keeps {s0 : State} (s : State) (p : Copy → Try Bool) (hp : ∀ c, Try.Keeps s0 (fun _ => True) (p c)) :
    Try.Keeps s0 (fun _ => True) (State.hazardFree s p) := by
  unfold State.hazardFree
  dsimp only
  with_reducible repeat' first
    | exact True.intro | refine Try.keeps_bind (collect_keeps _ _ ?_) ?_ | apply hp | apply Try.keeps_require | apply Try.Keeps.ok
    | split | intro _

theorem placed_keeps {s0 : State} {α : Type} (none : α) (r : Try α) (hr : Try.Keeps s0 (fun _ => True) r) :
    Try.Keeps s0 (fun _ => True) (placed none r) := by
  unfold placed
  split
  · exact .ok trivial
  · exact hr

theorem State.landsIn_keeps {s0 : State} (s : State) (c : Copy) (g : Glyph) (f : Nat) (hs : s0.Keeps s) :
    Try.Keeps s0 (fun _ => True) (State.landsIn s c g f) := by
  unfold State.landsIn
  try dsimp only
  with_reducible repeat' first
    | assumption | exact True.intro | refine Try.keeps_bind (placed_keeps _ _ ?_) ?_
    | refine Try.keeps_bind (State.resolveBlock_keeps _ _ _ _ ?_) ?_
    | refine Try.keeps_bind (State.range_keeps _ _ _ _ _ ?_) ?_ | apply placed_keeps | apply State.resolveBlock_keeps
    | apply State.range_keeps | refine Try.stop_of (placed_keeps _ _ ?_) (by assumption)
    | refine Try.stop_of (State.resolveBlock_keeps _ _ _ _ ?_) (by assumption)
    | refine Try.stop_of (State.range_keeps _ _ _ _ _ ?_) (by assumption) | refine Try.keeps_bind (P := fun _ => True) ?_ ?_
    | apply Try.Keeps.ok | split | intro _ | apply State.Keeps.fields

theorem State.landsOn_keeps {s0 : State} (s : State) (c : Copy) (ks : List (Nat × Nat)) (hs : s0.Keeps s) :
    Try.Keeps s0 (fun _ => True) (State.landsOn s c ks) := by
  unfold State.landsOn
  try dsimp only
  with_reducible repeat' first
    | assumption | exact True.intro | refine Try.keeps_bind (collect_keeps _ _ ?_) ?_
    | refine Try.keeps_bind (State.range_keeps _ _ _ _ _ ?_) ?_ | refine Try.keeps_bind (State.landsIn_keeps _ _ _ _ ?_) ?_
    | apply collect_keeps | apply State.range_keeps | apply State.landsIn_keeps
    | refine Try.stop_of (collect_keeps _ _ ?_) (by assumption)
    | refine Try.stop_of (State.range_keeps _ _ _ _ _ ?_) (by assumption)
    | refine Try.stop_of (State.landsIn_keeps _ _ _ _ ?_) (by assumption) | refine Try.keeps_bind (P := fun _ => True) ?_ ?_
    | apply Try.Keeps.ok | split | intro _

theorem State.hazard_keeps {s0 : State} (s : State) (va n : Nat) (hs : s0.Keeps s) :
    Try.Keeps s0 (fun _ => True) (State.hazard s va n) := by
  unfold State.hazard
  try dsimp only
  with_reducible repeat' first
    | assumption | exact True.intro | refine Try.keeps_bind (State.hazardFree_keeps _ _ ?_) ?_
    | refine Try.keeps_bind (State.range_keeps _ _ _ _ _ ?_) ?_ | refine Try.keeps_bind (State.landsOn_keeps _ _ _ ?_) ?_
    | apply State.hazardFree_keeps | apply State.range_keeps | apply State.landsOn_keeps
    | refine Try.stop_of (State.hazardFree_keeps _ _ ?_) (by assumption)
    | refine Try.stop_of (State.range_keeps _ _ _ _ _ ?_) (by assumption)
    | refine Try.stop_of (State.landsOn_keeps _ _ _ ?_) (by assumption) | refine Try.keeps_bind (P := fun _ => True) ?_ ?_
    | apply Try.Keeps.ok | split | intro _

theorem State.gatherHazard_keeps {s0 : State} (s : State) (g : Glyph) (f : Nat) (hs : s0.Keeps s) :
    Try.Keeps s0 (fun _ => True) (State.gatherHazard s g f) := by
  unfold State.gatherHazard
  try dsimp only
  with_reducible repeat' first
    | assumption | exact True.intro | refine Try.keeps_bind (State.resolveBlock_keeps _ _ _ _ ?_) ?_
    | refine Try.keeps_bind (State.hazardFree_keeps _ _ ?_) ?_ | refine Try.keeps_bind (State.landsOn_keeps _ _ _ ?_) ?_
    | refine Try.keeps_bind (State.hazard_keeps _ _ _ ?_) ?_ | apply State.resolveBlock_keeps | apply State.hazardFree_keeps
    | apply State.landsOn_keeps | apply State.hazard_keeps
    | refine Try.stop_of (State.resolveBlock_keeps _ _ _ _ ?_) (by assumption)
    | refine Try.stop_of (State.hazardFree_keeps _ _ ?_) (by assumption)
    | refine Try.stop_of (State.landsOn_keeps _ _ _ ?_) (by assumption)
    | refine Try.stop_of (State.hazard_keeps _ _ _ ?_) (by assumption) | refine Try.keeps_bind (P := fun _ => True) ?_ ?_
    | apply Try.Keeps.ok | split | intro _

theorem State.gathRead_keeps {s0 : State} (s : State) (w : AC) (hs : s0.Keeps s) :
    Try.Keeps s0 (fun _ => True) (State.gathRead s w) := by
  unfold State.gathRead
  try dsimp only
  with_reducible repeat' first
    | assumption | exact True.intro | refine Try.keeps_bind (Try.keeps_require _ _) ?_
    | refine Try.keeps_bind (together_keeps _ _ ?_ ?_) ?_ | refine Try.keeps_bind (checked_keeps _ ?_) ?_
    | refine Try.keeps_bind (State.indices_keeps _ _ ?_) ?_ | refine Try.keeps_bind (State.glyphWords_keeps _ _ ?_) ?_
    | refine Try.keeps_bind (State.useGlyph_keeps _ _ ?_) ?_ | refine Try.keeps_bind (lasting_keeps _ ?_) ?_
    | refine Try.keeps_bind (State.gather_keeps _ _ _ _ ?_) ?_ | refine Try.keeps_bind (State.hazard_keeps _ _ _ ?_) ?_
    | refine Try.keeps_bind (collect_keeps _ _ ?_) ?_ | refine Try.keeps_bind (State.gatherHazard_keeps _ _ _ ?_) ?_
    | apply together_keeps | apply checked_keeps | apply State.indices_keeps | apply State.glyphWords_keeps
    | apply State.useGlyph_keeps | apply lasting_keeps | apply State.gather_keeps | apply State.hazard_keeps
    | apply collect_keeps | apply State.gatherHazard_keeps | refine Try.stop_of (together_keeps _ _ ?_ ?_) (by assumption)
    | refine Try.stop_of (checked_keeps _ ?_) (by assumption)
    | refine Try.stop_of (State.indices_keeps _ _ ?_) (by assumption)
    | refine Try.stop_of (State.glyphWords_keeps _ _ ?_) (by assumption)
    | refine Try.stop_of (State.useGlyph_keeps _ _ ?_) (by assumption)
    | refine Try.stop_of (lasting_keeps _ ?_) (by assumption)
    | refine Try.stop_of (State.gather_keeps _ _ _ _ ?_) (by assumption)
    | refine Try.stop_of (State.hazard_keeps _ _ _ ?_) (by assumption)
    | refine Try.stop_of (collect_keeps _ _ ?_) (by assumption)
    | refine Try.stop_of (State.gatherHazard_keeps _ _ _ ?_) (by assumption)
    | refine Try.keeps_bind (P := fun _ => True) ?_ ?_ | apply Try.keeps_require | apply Try.Keeps.ok
    | apply Try.Keeps.error | exact Stop.Keeps.trap _ _ | split | intro _

theorem State.launch_keeps {s0 : State} (s : State) (dst : LoadDst) (val : Word) (vec : Vec) (bad : Option Instr)
    (badAt : Nat) (hs : s0.Keeps s) : s0.Keeps (State.launch s dst val vec bad badAt) := by
  unfold State.launch
  dsimp only
  with_reducible repeat' first
    | assumption | apply State.onTask_keeps | split | apply State.Keeps.fields

theorem State.launchBad_keeps {s0 : State} (s : State) (i : Instr) (d : BitVec 6) (va : Nat) (hs : s0.Keeps s) :
    s0.Keeps (State.launchBad s i d va) := by
  unfold State.launchBad
  with_reducible repeat' first
    | assumption | apply State.launch_keeps

theorem State.launchReg_keeps {s0 : State} (s : State) (d : BitVec 6) (v : Word) (hs : s0.Keeps s) :
    s0.Keeps (State.launchReg s d v) := by
  unfold State.launchReg
  with_reducible repeat' first
    | assumption | apply State.launch_keeps

theorem State.launchRemote_keeps {s0 : State} (s : State) (w : AM) (i : Instr) (node : Nat) (off : Nat)
    (strong : Option Nat) (hs : s0.Keeps s) : s0.Keeps (State.launchRemote s w i node off strong) := by
  unfold State.launchRemote
  dsimp only
  with_reducible repeat' first
    | assumption | apply State.launchReg_keeps | apply State.onTask_keeps | apply State.sendRequest_keeps | split
    | apply State.Keeps.fields

theorem State.timed_keeps {s0 : State} (s : State) (hs : s0.Keeps s) : s0.Keeps (State.timed s) := by
  unfold State.timed
  with_reducible repeat' first
    | assumption | apply State.onTask_keeps | split

theorem State.strongLoad_keeps {s0 : State} (s : State) (strong : Option Nat) (a n : Nat) (hs : s0.Keeps s) :
    s0.Keeps (State.strongLoad s strong a n) := by
  unfold State.strongLoad
  try dsimp only
  with_reducible repeat' first
    | assumption | apply State.strongRead_keeps | split | intro _ | apply State.Keeps.fields

theorem State.scalarLoad_keeps {s0 : State} (s : State) (w : AM) (strong : Option Nat) (hs : s0.Keeps s) :
    Try.Keeps s0 s0.Keeps (State.scalarLoad s w strong) := by
  unfold State.scalarLoad
  try dsimp only
  with_reducible repeat' first
    | assumption | refine Try.keeps_bind (Try.keeps_await _) ?_ | refine Try.keeps_bind (State.check_keeps _ _ _ _ _ ?_) ?_
    | refine Try.keeps_bind (State.hazard_keeps _ _ _ ?_) ?_ | refine Try.keeps_bind (State.seenBytes_keeps _ _ _ _ _ ?_) ?_
    | apply State.put_keeps | apply State.launchReg_keeps | apply State.timed_keeps | apply State.advance_keeps
    | apply State.check_keeps | apply State.hazard_keeps | apply State.launchBad_keeps | apply State.launchRemote_keeps
    | apply State.strongLoad_keeps | apply State.seenBytes_keeps
    | refine Try.stop_of (State.check_keeps _ _ _ _ _ ?_) (by assumption)
    | refine Try.stop_of (State.hazard_keeps _ _ _ ?_) (by assumption)
    | refine Try.stop_of (State.seenBytes_keeps _ _ _ _ _ ?_) (by assumption) | apply Try.keeps_await | apply Try.Keeps.ok
    | apply Try.Keeps.error | exact Stop.Keeps.trap _ _ | split | intro _ | apply State.Keeps.fields

theorem State.pushXq_keeps {s0 : State} (s : State) (id : Nat) (t : Task) (q width : Nat) (vals : List Nat) (i : Instr) (bad : Bool) (va : Nat) (hs : s0.Keeps s) :
    s0.Keeps (State.pushXq s id t q width vals i bad va) := by
  unfold State.pushXq
  try dsimp only
  with_reducible repeat' first
    | assumption | apply State.setTask_keeps | apply State.launch_keeps | apply State.onTask_keeps | apply State.timed_keeps
    | split | intro _ | apply State.Keeps.fields

theorem execLd_keeps {s0 : State} (w : AM) (s : State) (hs : s0.Keeps s) : OutKeeps s0 (execLd w s) := by
  unfold execLd
  with_reducible repeat' first
    | assumption | apply State.aWord_keeps | apply State.scalarLoad_keeps | intro _

theorem State.scalarStore_keeps {s0 : State} (s : State) (w : AM) (strong : Option Nat) (hs : s0.Keeps s) :
    Try.Keeps s0 s0.Keeps (State.scalarStore s w strong) := by
  unfold State.scalarStore
  dsimp only
  with_reducible repeat' first
    | assumption | refine Try.keeps_bind (State.check_keeps _ _ _ _ _ ?_) ?_ | refine Try.keeps_bind (Try.keeps_await _) ?_
    | apply State.remoteStep_keeps | apply State.advance_keeps | apply State.ctlSend_keeps | apply State.seenStore_keeps
    | apply State.writePieces_keeps | apply Try.Keeps.ok | apply Try.Keeps.error | exact Stop.Keeps.trap _ _ | split
    | intro _

theorem execSt_keeps {s0 : State} (w : AM) (s : State) (hs : s0.Keeps s) : OutKeeps s0 (execSt w s) := by
  unfold execSt
  with_reducible repeat' first
    | assumption | apply State.aWord_keeps | apply State.scalarStore_keeps | intro _

theorem State.performs_keeps {s0 : State} (s : State) (hs : s0.Keeps s) :
    s0.Keeps (State.performs s) := by
  unfold State.performs
  try dsimp only
  with_reducible repeat' first
    | assumption | apply State.ordered_keeps | intro _

theorem execLds_keeps {s0 : State} (w : AM) (s : State) (hs : s0.Keeps s) : OutKeeps s0 (execLds w s) := by
  unfold execLds
  try dsimp only
  with_reducible repeat' first
    | assumption | exact True.intro | refine Try.keeps_bind (Try.keeps_await _) ?_
    | refine Try.keeps_bind (State.scalarLoad_keeps _ _ _ ?_) ?_ | apply State.aWord_keeps | apply State.performs_keeps
    | apply State.scalarLoad_keeps | apply Try.keeps_await | apply Try.Keeps.ok | intro _ | apply OutKeeps.next

theorem execSts_keeps {s0 : State} (w : AM) (s : State) (hs : s0.Keeps s) : OutKeeps s0 (execSts w s) := by
  unfold execSts
  try dsimp only
  with_reducible repeat' first
    | assumption | exact True.intro | refine Try.keeps_bind (Try.keeps_await _) ?_
    | refine Try.keeps_bind (State.scalarStore_keeps _ _ _ ?_) ?_ | apply State.aWord_keeps | apply State.performs_keeps
    | apply State.scalarStore_keeps | apply State.strongWrite_keeps | refine Try.keeps_bind (P := fun _ => True) ?_ ?_
    | apply Try.keeps_await | apply Try.Keeps.ok | intro _ | apply OutKeeps.next

theorem Task.xqRoom_keeps {s0 : State} (t : Task) (q : Nat) : Try.Keeps s0 (fun _ => True) (Task.xqRoom t q) := by
  unfold Task.xqRoom
  with_reducible repeat' first
    | refine Try.keeps_bind (Try.keeps_require _ _) ?_ | apply Try.Keeps.ok | apply Try.Keeps.error | exact Stop.Keeps.hold
    | split | intro _

theorem execLdx_keeps {s0 : State} (w : AC) (s : State) (hs : s0.Keeps s) : OutKeeps s0 (execLdx w s) := by
  unfold execLdx
  try dsimp only
  with_reducible repeat' first
    | assumption | exact True.intro | refine Try.keeps_bind (Task.notInHandler_keeps _) ?_
    | refine Try.keeps_bind (lasting_keeps _ ?_) ?_ | refine Try.keeps_bind (State.viewRead_keeps _ _ _ _ ?_) ?_
    | refine Try.keeps_bind (State.hazard_keeps _ _ _ ?_) ?_ | refine Try.keeps_bind (Task.xqRoom_keeps _ _) ?_
    | apply State.taskWord_keeps | apply Task.notInHandler_keeps | apply lasting_keeps | apply State.viewRead_keeps
    | apply State.hazard_keeps | apply Task.xqRoom_keeps | apply State.pushXq_keeps | apply State.advance_keeps
    | refine Try.stop_of (Task.notInHandler_keeps _) (by assumption)
    | refine Try.stop_of (lasting_keeps _ ?_) (by assumption)
    | refine Try.stop_of (State.viewRead_keeps _ _ _ _ ?_) (by assumption)
    | refine Try.stop_of (State.hazard_keeps _ _ _ ?_) (by assumption)
    | refine Try.stop_of (Task.xqRoom_keeps _ _) (by assumption) | refine Try.keeps_bind (P := fun _ => True) ?_ ?_
    | apply Try.Keeps.ok | apply Try.Keeps.error | exact Stop.Keeps.trap _ _ | split | intro _ | apply OutKeeps.next

theorem execStx_keeps {s0 : State} (w : AC) (s : State) (hs : s0.Keeps s) : OutKeeps s0 (execStx w s) := by
  unfold execStx
  dsimp only
  with_reducible repeat' first
    | assumption | refine Try.keeps_bind (State.check_keeps _ _ _ _ _ ?_) ?_ | apply State.taskWord_keeps
    | apply State.setTask_keeps | apply State.advance_keeps | apply State.writePieces_keeps | apply Try.keeps_raise
    | apply Try.Keeps.ok | apply Try.Keeps.error | exact Stop.Keeps.hold | exact Stop.Keeps.trap _ _ | split | intro _

theorem execGath_keeps {s0 : State} (w : AC) (s : State) (hs : s0.Keeps s) : OutKeeps s0 (execGath w s) := by
  unfold execGath
  try dsimp only
  with_reducible repeat' first
    | assumption | exact True.intro | refine Try.keeps_bind (lasting_keeps _ ?_) ?_
    | refine Try.keeps_bind (State.gathRead_keeps _ _ ?_) ?_ | refine Try.keeps_bind (Task.xqRoom_keeps _ _) ?_
    | apply State.taskWord_keeps | apply lasting_keeps | apply State.gathRead_keeps | apply Task.xqRoom_keeps
    | apply State.pushXq_keeps | apply State.advance_keeps | refine Try.stop_of (lasting_keeps _ ?_) (by assumption)
    | refine Try.stop_of (State.gathRead_keeps _ _ ?_) (by assumption)
    | refine Try.stop_of (Task.xqRoom_keeps _ _) (by assumption) | refine Try.keeps_bind (P := fun _ => True) ?_ ?_
    | apply Try.Keeps.ok | split | intro _ | apply State.Keeps.fields | apply OutKeeps.next

theorem State.scatGlyph_keeps {s0 : State} (s : State) (w : AC) (hs : s0.Keeps s) :
    Try.Keeps s0 (fun _ => True) (State.scatGlyph s w) := by
  unfold State.scatGlyph
  try dsimp only
  with_reducible repeat' first
    | assumption | exact True.intro | refine Try.keeps_bind (State.glyphWords_keeps _ _ ?_) ?_
    | apply State.glyphWords_keeps | refine Try.stop_of (State.glyphWords_keeps _ _ ?_) (by assumption)
    | refine Try.keeps_bind (P := fun _ => True) ?_ ?_ | apply Try.Keeps.ok | apply Try.Keeps.error
    | exact Stop.Keeps.trap _ _ | split | intro _

theorem State.scatStores_keeps {s0 : State} (s : State) (w : AC) (hs : s0.Keeps s) :
    Try.Keeps s0 (fun _ => True) (State.scatStores s w) := by
  unfold State.scatStores
  try dsimp only
  with_reducible repeat' first
    | assumption | exact True.intro | refine Try.keeps_bind (Try.keeps_require _ _) ?_
    | refine Try.keeps_bind (State.scatGlyph_keeps _ _ ?_) ?_ | refine Try.keeps_bind (together_keeps _ _ ?_ ?_) ?_
    | refine Try.keeps_bind (checked_keeps _ ?_) ?_ | refine Try.keeps_bind (State.indices_keeps _ _ ?_) ?_
    | refine Try.keeps_bind (State.viewRead_keeps _ _ _ _ ?_) ?_
    | refine Try.keeps_bind (State.elemsReady_keeps _ _ _ _ _ ?_) ?_ | apply State.scatGlyph_keeps | apply together_keeps
    | apply checked_keeps | apply State.indices_keeps | apply State.viewRead_keeps | apply State.elemsReady_keeps
    | refine Try.stop_of (State.scatGlyph_keeps _ _ ?_) (by assumption)
    | refine Try.stop_of (together_keeps _ _ ?_ ?_) (by assumption)
    | refine Try.stop_of (checked_keeps _ ?_) (by assumption)
    | refine Try.stop_of (State.indices_keeps _ _ ?_) (by assumption)
    | refine Try.stop_of (State.viewRead_keeps _ _ _ _ ?_) (by assumption)
    | refine Try.stop_of (State.elemsReady_keeps _ _ _ _ _ ?_) (by assumption)
    | refine Try.keeps_bind (P := fun _ => True) ?_ ?_ | apply Try.keeps_require | apply Try.Keeps.ok
    | apply Try.Keeps.error | exact Stop.Keeps.trap _ _ | split | intro _ | apply State.Keeps.fields

theorem execScat_keeps {s0 : State} (w : AC) (s : State) (hs : s0.Keeps s) : OutKeeps s0 (execScat w s) := by
  unfold execScat
  try dsimp only
  with_reducible repeat' first
    | assumption | exact True.intro | refine Try.keeps_bind (State.scatStores_keeps _ _ ?_) ?_
    | refine Try.keeps_bind (State.writeElems_keeps _ _ _ _ _ ?_) ?_ | apply State.taskWord_keeps
    | apply State.scatStores_keeps | apply State.writeElems_keeps | apply State.advance_keeps
    | refine Try.keeps_bind (P := fun _ => True) ?_ ?_ | apply Try.Keeps.ok | intro _ | apply OutKeeps.next

theorem execPref_keeps {s0 : State} (w : AM) (s : State) (hs : s0.Keeps s) : OutKeeps s0 (execPref w s) := by
  unfold execPref
  dsimp only
  with_reducible repeat' first
    | assumption | apply State.aWord_keeps | apply State.advance_keeps | apply State.newWalk_keeps | apply Try.Keeps.ok
    | split | intro _

theorem execFence_keeps {s0 : State} (y0 : AR) (s : State) (hs : s0.Keeps s) : OutKeeps s0 (execFence y0 s) := by
  unfold execFence
  with_reducible repeat' first
    | assumption | refine Try.keeps_bind (Try.keeps_await _) ?_ | apply State.aWord_keeps | apply State.advance_keeps
    | apply State.fenced_keeps | apply Try.Keeps.ok | intro _

theorem execGdef_keeps {s0 : State} (w : AC) (s : State) (hs : s0.Keeps s) : OutKeeps s0 (execGdef w s) := by
  unfold execGdef
  try dsimp only
  with_reducible repeat' first
    | assumption | exact True.intro | refine Try.keeps_bind (together_keeps _ _ ?_ ?_) ?_
    | refine Try.keeps_bind (checked_keeps _ ?_) ?_ | refine Try.keeps_bind (State.viewRead_keeps _ _ _ _ ?_) ?_
    | refine Try.keeps_bind (State.check_keeps _ _ _ _ _ ?_) ?_
    | refine Try.keeps_bind (State.viewWrite_keeps _ _ _ _ ?_) ?_ | apply State.taskWord_keeps | apply together_keeps
    | apply checked_keeps | apply State.viewRead_keeps | apply State.check_keeps | apply State.viewWrite_keeps
    | apply State.advance_keeps | refine Try.stop_of (together_keeps _ _ ?_ ?_) (by assumption)
    | refine Try.stop_of (checked_keeps _ ?_) (by assumption)
    | refine Try.stop_of (State.viewRead_keeps _ _ _ _ ?_) (by assumption)
    | refine Try.stop_of (State.check_keeps _ _ _ _ _ ?_) (by assumption)
    | refine Try.stop_of (State.viewWrite_keeps _ _ _ _ ?_) (by assumption)
    | (have hx := Try.ok_of (State.viewWrite_keeps _ _ _ _ (by assumption)) (by assumption); exact hx)
    | refine Try.keeps_bind (P := fun _ => True) ?_ ?_ | apply Try.Keeps.ok | apply Try.Keeps.error
    | exact Stop.Keeps.trap _ _ | split | intro _ | apply OutKeeps.next

theorem execGset_keeps {s0 : State} (w : AC) (s : State) (hs : s0.Keeps s) : OutKeeps s0 (execGset w s) := by
  unfold execGset
  try dsimp only
  with_reducible repeat' first
    | assumption | exact True.intro | refine Try.keeps_bind (together_keeps _ _ ?_ ?_) ?_
    | refine Try.keeps_bind (checked_keeps _ ?_) ?_ | refine Try.keeps_bind (State.viewRead_keeps _ _ _ _ ?_) ?_
    | refine Try.keeps_bind (State.check_keeps _ _ _ _ _ ?_) ?_
    | refine Try.keeps_bind (State.viewWrite_keeps _ _ _ _ ?_) ?_ | apply State.taskWord_keeps | apply together_keeps
    | apply checked_keeps | apply State.viewRead_keeps | apply State.check_keeps | apply State.viewWrite_keeps
    | apply State.advance_keeps | refine Try.keeps_bind (P := fun _ => True) ?_ ?_ | apply Try.Keeps.ok | intro _
    | apply OutKeeps.next

theorem execGget_keeps {s0 : State} (w : AC) (s : State) (hs : s0.Keeps s) : OutKeeps s0 (execGget w s) := by
  unfold execGget
  dsimp only
  with_reducible repeat' first
    | assumption | refine Try.keeps_bind (lasting_keeps _ ?_) ?_ | apply State.taskWord_keeps | apply State.viewRead_keeps
    | apply State.advance_keeps | apply State.launchBad_keeps | apply State.launchReg_keeps | apply Try.Keeps.ok | split
    | intro _

theorem execFalloc_keeps {s0 : State} (w : AC) (s : State) (hs : s0.Keeps s) : OutKeeps s0 (execFalloc w s) := by
  unfold execFalloc
  dsimp only
  with_reducible repeat' first
    | assumption | refine Try.keeps_bind (State.headerCheck_keeps _ _ _ ?_) ?_
    | refine Try.keeps_bind (Try.keeps_require _ _) ?_ | refine Try.keeps_bind (P := fun _ => True) ?_ ?_
    | apply State.taskWord_keeps | apply State.freshen_keeps | apply State.advance_keeps | apply State.setReg_keeps
    | (have hx := OptKeeps.of (State.allocBlock_keeps _ _ _ _ (by assumption)) (by assumption); exact hx)
    | apply Try.keeps_raise | apply Try.Keeps.ok | split | intro _ | apply State.Keeps.fields

theorem execFaddref_keeps {s0 : State} (w : AC) (s : State) (hs : s0.Keeps s) : OutKeeps s0 (execFaddref w s) := by
  unfold execFaddref
  with_reducible repeat' first
    | assumption | refine Try.keeps_bind (State.blockOf_keeps _ _ ?_) ?_ | refine Try.keeps_bind (Try.keeps_require _ _) ?_
    | apply State.taskWord_keeps | apply State.advance_keeps | apply State.setHeaderBits_keeps | apply Try.Keeps.ok | intro _

theorem execFdrop_keeps {s0 : State} (w : AC) (s : State) (hs : s0.Keeps s) : OutKeeps s0 (execFdrop w s) := by
  unfold execFdrop
  with_reducible repeat' first
    | assumption | refine Try.keeps_bind (State.blockOf_keeps _ _ ?_) ?_ | apply State.taskWord_keeps
    | apply State.advance_keeps | apply State.dropRef_keeps | apply Try.Keeps.ok | intro _

theorem execPseal_keeps {s0 : State} (w : AC) (s : State) (hs : s0.Keeps s) : OutKeeps s0 (execPseal w s) := by
  unfold execPseal
  with_reducible repeat' first
    | assumption | refine Try.keeps_bind (State.blockOf_keeps _ _ ?_) ?_ | apply State.taskWord_keeps
    | apply State.advance_keeps | apply State.setBlockState_keeps | apply Try.Keeps.ok | split | intro _

/-! ## Sync -/

theorem State.setChannel_keeps {s0 : State} (s : State) (c : Nat) (v : Channel) (hs : s0.Keeps s) :
    s0.Keeps (State.setChannel s c v) := by
  unfold State.setChannel
  with_reducible repeat' first
    | assumption | apply State.Keeps.fields

theorem State.semAllowed_keeps {s0 : State} (s : State) (n : Nat) (ident : BitVec 32) (hs : s0.Keeps s) :
    Try.Keeps s0 (fun _ => True) (State.semAllowed s n ident) := by
  unfold State.semAllowed
  with_reducible repeat' first
    | apply Try.keeps_require

theorem State.startInstance_keeps {s0 : State} (s : State) (c : Nat) (words : List Word) (hs : s0.Keeps s) :
    s0.Keeps (State.startInstance s c words) := by
  unfold State.startInstance
  dsimp only
  with_reducible repeat' first
    | assumption | apply State.acquireSem_keeps | apply State.setChannel_keeps | apply State.sendCollective_keeps
    | apply State.Keeps.fields

theorem State.testDoorbell_keeps {s0 : State} (s : State) (n : Nat) (v : Word) (c : Nat) (hs : s0.Keeps s) :
    s0.Keeps (State.testDoorbell s n v c) := by
  unfold State.testDoorbell
  try dsimp only
  with_reducible repeat' first
    | assumption | apply State.startInstance_keeps | split | intro _ | apply State.Keeps.fields

theorem State.ringDoorbells_keeps {s0 : State} (s : State) (n : Nat) (v : Word) (hs : s0.Keeps s) :
    s0.Keeps (State.ringDoorbells s n v) := by
  unfold State.ringDoorbells
  try dsimp only
  with_reducible repeat' first
    | assumption | apply State.testDoorbell_keeps | apply State.Keeps.foldl | split | intro _ | apply State.Keeps.fields

theorem State.acquireHead_keeps {s0 : State} (s : State) (q : Nat × List QEntry) (hs : s0.Keeps s) :
    s0.Keeps (State.acquireHead s q) := by
  unfold State.acquireHead
  with_reducible repeat' first
    | assumption | apply State.acquireSem_keeps | apply State.Keeps.foldl | split | intro _

theorem State.testQueues_keeps {s0 : State} (s : State) (hs : s0.Keeps s) : s0.Keeps (State.testQueues s) := by
  unfold State.testQueues
  dsimp only
  with_reducible repeat' first
    | assumption | apply State.acquireHead_keeps | apply State.Keeps.foldl | apply State.Keeps.fields

theorem State.testParks_keeps {s0 : State} (s : State) (hs : s0.Keeps s) : s0.Keeps (State.testParks s) := by
  unfold State.testParks
  with_reducible repeat' first
    | assumption | apply State.Keeps.fields

theorem State.testFirings_keeps {s0 : State} (s : State) (core n : Nat) (old : BitVec 32) (k : Nat) (hs : s0.Keeps s) :
    s0.Keeps (State.testFirings s core n old k) := by
  unfold State.testFirings
  try dsimp only
  with_reducible repeat' first
    | assumption | intro _ | apply State.Keeps.fields

theorem State.acquireMet_keeps {s0 : State} (s : State) (st : Strand) (n : Nat) (z0 : Option Nat) (hs : s0.Keeps s) :
    s0.Keeps (State.acquireMet s st n z0) := by
  unfold State.acquireMet
  try dsimp only
  with_reducible repeat' first
    | assumption | apply State.acquireSem_keeps | split | intro _

theorem State.meetTask_keeps {s0 : State} (n : Nat) (v : Word) (s : State) (e : Nat × Task) (hs : s0.Keeps s) :
    s0.Keeps (State.meetTask n v s e) := by
  unfold State.meetTask
  try dsimp only
  with_reducible repeat' first
    | assumption | apply State.acquireMet_keeps | apply State.onTask_keeps | apply State.setReg_keeps | split | intro _
    | apply State.Keeps.fields

theorem State.meetRub_keeps {s0 : State} (s : State) (n : Nat) (v : Word) (hs : s0.Keeps s) :
    s0.Keeps (State.meetRub s n v) := by
  unfold State.meetRub
  try dsimp only
  with_reducible repeat' first
    | assumption | apply State.acquireMet_keeps | apply State.setReg_keeps | split | intro _ | apply State.Keeps.fields

theorem State.setSem_keeps {s0 : State} (s : State) (n : Nat) (v : Word) (hs : s0.Keeps s) :
    s0.Keeps (State.setSem s n v) := by
  unfold State.setSem
  try dsimp only
  with_reducible repeat' first
    | assumption | apply State.meetTask_keeps | apply State.meetRub_keeps | apply State.testParks_keeps
    | apply State.testQueues_keeps | apply State.ringDoorbells_keeps | apply State.Keeps.foldl | intro _
    | apply State.Keeps.fields

theorem State.setBar_keeps {s0 : State} (s : State) (core : Nat) (n : Nat) (b : Barrier) (hs : s0.Keeps s) :
    s0.Keeps (State.setBar s core n b) := by
  unfold State.setBar
  with_reducible repeat' first
    | assumption | apply State.Keeps.fields

theorem State.forward_keeps {s0 : State} (s : State) (handle : Word) (bytes : Nat) (ns : List Nat) (hs : s0.Keeps s) :
    s0.Keeps (State.forward s handle bytes ns) := by
  unfold State.forward
  try dsimp only
  with_reducible repeat' first
    | assumption | apply State.put_keeps | apply State.ordered_keeps | intro _ | apply State.Keeps.fields

theorem State.forwards_keeps {s0 : State} (s : State) (handle : Word) (bytes : Nat) (ns : List Nat) (z0 : Nat) (hs : s0.Keeps s) :
    s0.Keeps (State.forwards s handle bytes ns z0) := by
  induction z0 generalizing s with
  | zero =>
    unfold State.forwards
    try dsimp only
    with_reducible repeat' first
      | assumption | apply State.forward_keeps
  | succ z ih =>
    unfold State.forwards
    try dsimp only
    with_reducible repeat' first
      | assumption | apply ih | apply State.forward_keeps

theorem State.fireTask_keeps {s0 : State} (core n : Nat) (old : BitVec 32) (k : Nat) (s : State) (e : Nat × Task) (hs : s0.Keeps s) :
    s0.Keeps (State.fireTask core n old k s e) := by
  unfold State.fireTask
  try dsimp only
  with_reducible repeat' first
    | assumption | apply State.fired_keeps | apply State.acquireBar_keeps | apply State.onTask_keeps | split | intro _
    | apply State.Keeps.fields

theorem State.fireRub_keeps {s0 : State} (s : State) (core n : Nat) (old : BitVec 32) (k : Nat) (hs : s0.Keeps s) :
    s0.Keeps (State.fireRub s core n old k) := by
  unfold State.fireRub
  try dsimp only
  with_reducible repeat' first
    | assumption | apply State.fired_keeps | apply State.acquireBar_keeps | split | intro _ | apply State.Keeps.fields

theorem State.fired_keeps {s0 : State} (s : State) (core n : Nat) (old : BitVec 32) (k : Nat) (hs : s0.Keeps s) :
    s0.Keeps (State.fired s core n old k) := by
  unfold State.fired
  try dsimp only
  with_reducible repeat' first
    | assumption | apply State.fireTask_keeps | apply State.fireRub_keeps | apply State.testFirings_keeps
    | apply State.Keeps.foldl | intro _

theorem State.arrive_keeps {s0 : State} (s : State) (core n b : Nat) (forwarded : Bool) (by_ : Bring) (hs : s0.Keeps s) :
    s0.Keeps (State.arrive s core n b forwarded by_) := by
  unfold State.arrive
  try dsimp only
  with_reducible repeat' first
    | assumption | apply State.ordered_keeps | apply State.setBar_keeps | apply State.fired_keeps
    | apply State.forward_keeps | apply State.forwards_keeps | split | intro _ | apply State.Keeps.fields

theorem State.acquirePeer_keeps {s0 : State} (s : State) (o : SemOrder) (k : Know) (hs : s0.Keeps s) :
    s0.Keeps (State.acquirePeer s o k) := by
  unfold State.acquirePeer
  try dsimp only
  with_reducible repeat' first
    | assumption | apply State.gains_keeps | split | intro _ | apply State.Keeps.fields

theorem State.byHandle_keeps {s0 : State} (s : State) (h : Word) (hs : s0.Keeps s) :
    Try.Keeps s0 (fun _ => True) (State.byHandle s h) := by
  unfold State.byHandle
  with_reducible repeat' first
    | exact True.intro | apply Try.keeps_raise | apply Try.Keeps.ok | split

theorem State.barRef_keeps {s0 : State} (s : State) (w : AC) (hs : s0.Keeps s) :
    Try.Keeps s0 (fun _ => True) (State.barRef s w) := by
  unfold State.barRef
  with_reducible repeat' first
    | assumption | exact True.intro | apply State.byHandle_keeps | apply Try.keeps_raise | apply Try.Keeps.ok | split

theorem State.barHere_keeps {s0 : State} (s : State) (w : AC) (hs : s0.Keeps s) :
    Try.Keeps s0 (fun _ => True) (State.barHere s w) := by
  unfold State.barHere
  with_reducible repeat' first
    | assumption | refine Try.keeps_bind (State.barRef_keeps _ _ ?_) ?_ | apply Try.keeps_raise | apply Try.Keeps.ok | split
    | intro _

theorem State.boundObject_keeps {s0 : State} (s : State) (w : AC) (hs : s0.Keeps s) :
    Try.Keeps s0 (fun _ => True) (State.boundObject s w) := by
  unfold State.boundObject
  dsimp only
  with_reducible repeat' first
    | assumption | refine Try.keeps_bind (State.barHere_keeps _ _ ?_) ?_ | refine Try.keeps_bind (Try.keeps_require _ _) ?_
    | apply Try.Keeps.ok | split | intro _

theorem State.emptyReuse_keeps {s0 : State} (s : State) (hs : s0.Keeps s) : s0.Keeps (State.emptyReuse s) := by
  unfold State.emptyReuse
  with_reducible repeat' first
    | assumption | apply State.onTask_keeps | split

theorem State.endWait_keeps {s0 : State} (s : State) (hs : s0.Keeps s) : s0.Keeps (State.endWait s) := by
  unfold State.endWait
  dsimp only
  with_reducible repeat' first
    | assumption | apply State.onTask_keeps | split | apply State.Keeps.fields

theorem State.onRegions_keeps {s0 : State} (s : State) (o : Option (Nat × Nat) × Nat) (f : SMap Bound → SMap Bound)
    (hs : s0.Keeps s) : s0.Keeps (State.onRegions s o f) := by
  unfold State.onRegions
  dsimp only
  with_reducible repeat' first
    | assumption | apply State.setBar_keeps | split | apply State.Keeps.fields

theorem State.waitOn_keeps {s0 : State} (s : State) (on : WaitOn) (hs : s0.Keeps s) : s0.Keeps (State.waitOn s on) := by
  unfold State.waitOn
  dsimp only
  with_reducible repeat' first
    | assumption | apply State.onTask_keeps | split | apply State.Keeps.fields

theorem State.trapWaiters_keeps {s0 : State} (s : State) (core : Nat) (n : Nat) (hs : s0.Keeps s) :
    s0.Keeps (State.trapWaiters s core n) := by
  unfold State.trapWaiters
  try dsimp only
  with_reducible repeat' first
    | assumption | apply State.trapTask_keeps | apply State.trapRub_keeps | apply State.Keeps.foldl | split | intro _
    | apply State.Keeps.fields

theorem execBxp_keeps {s0 : State} (w : AC) (s : State) (hs : s0.Keeps s) : OutKeeps s0 (execBxp w s) := by
  unfold execBxp
  dsimp only
  with_reducible repeat' first
    | assumption | refine Try.keeps_bind (State.barHere_keeps _ _ ?_) ?_ | refine Try.keeps_bind (Try.keeps_require _ _) ?_
    | apply State.aWord_keeps | apply State.advance_keeps | apply State.setBar_keeps | apply State.trapWaiters_keeps
    | apply Try.Keeps.ok | split | intro _

theorem execBarv_keeps {s0 : State} (w : AC) (s : State) (hs : s0.Keeps s) :
    OutKeeps s0 (execBarv w s) := by
  unfold execBarv
  try dsimp only
  with_reducible repeat' first
    | assumption | exact True.intro | refine Try.keeps_bind (Try.keeps_require _ _) ?_
    | refine Try.keeps_bind (State.barRef_keeps _ _ ?_) ?_
    | refine Try.keeps_bind (State.remoteStep_keeps _ _ _ _ _ ?_ ?_) ?_ | apply State.aWord_keeps | apply State.barRef_keeps
    | apply State.arrive_keeps | apply State.testParks_keeps | apply State.advance_keeps | apply State.remoteStep_keeps
    | refine Try.stop_of (State.barRef_keeps _ _ ?_) (by assumption)
    | refine Try.stop_of (State.remoteStep_keeps _ _ _ _ _ ?_ ?_) (by assumption)
    | (have hx := Try.ok_of (State.remoteStep_keeps _ _ _ _ _ (by assumption) (by assumption)) (by assumption); exact hx)
    | refine Try.keeps_bind (P := fun _ => True) ?_ ?_ | apply Try.keeps_require | apply Try.Keeps.ok | split | intro _
    | apply State.Keeps.fields | apply OutKeeps.next

theorem execBwt_keeps {s0 : State} (w : AC) (s : State) (hs : s0.Keeps s) : OutKeeps s0 (execBwt w s) := by
  unfold execBwt
  dsimp only
  with_reducible repeat' first
    | assumption | refine Try.keeps_bind (State.barHere_keeps _ _ ?_) ?_ | refine Try.keeps_bind (Try.keeps_require _ _) ?_
    | apply State.aWord_keeps | apply State.advance_keeps | apply State.emptyReuse_keeps | apply State.endWait_keeps
    | apply State.acquireBar_keeps | apply State.waitOn_keeps | apply Try.Keeps.ok | apply Try.Keeps.error
    | apply Stop.Keeps.pend | split | intro _

theorem execBtst_keeps {s0 : State} (w : AC) (s : State) (hs : s0.Keeps s) : OutKeeps s0 (execBtst w s) := by
  unfold execBtst
  dsimp only
  with_reducible repeat' first
    | assumption | refine Try.keeps_bind (State.barHere_keeps _ _ ?_) ?_ | refine Try.keeps_bind (Try.keeps_require _ _) ?_
    | apply State.aWord_keeps | apply State.setReg_keeps | apply State.advance_keeps | apply State.emptyReuse_keeps
    | apply State.acquireBar_keeps | apply Try.Keeps.ok | split | intro _

theorem execBbnd_keeps {s0 : State} (w : AC) (s : State) (hs : s0.Keeps s) : OutKeeps s0 (execBbnd w s) := by
  unfold execBbnd
  dsimp only
  with_reducible repeat' first
    | assumption | refine Try.keeps_bind (State.boundObject_keeps _ _ ?_) ?_
    | refine Try.keeps_bind (Try.keeps_require _ _) ?_ | apply State.aWord_keeps | apply State.advance_keeps
    | apply State.onRegions_keeps | apply Try.Keeps.ok | split | intro _

theorem execBubd_keeps {s0 : State} (w : AC) (s : State) (hs : s0.Keeps s) : OutKeeps s0 (execBubd w s) := by
  unfold execBubd
  dsimp only
  with_reducible repeat' first
    | assumption | refine Try.keeps_bind (State.boundObject_keeps _ _ ?_) ?_
    | refine Try.keeps_bind (Try.keeps_require _ _) ?_ | apply State.aWord_keeps | apply State.advance_keeps
    | apply State.onRegions_keeps | apply Try.Keeps.ok | split | intro _

theorem execBfwd_keeps {s0 : State} (w : AC) (s : State) (hs : s0.Keeps s) : OutKeeps s0 (execBfwd w s) := by
  unfold execBfwd
  dsimp only
  with_reducible repeat' first
    | assumption | refine Try.keeps_bind (State.barHere_keeps _ _ ?_) ?_ | refine Try.keeps_bind (Try.keeps_require _ _) ?_
    | apply State.aWord_keeps | apply State.advance_keeps | apply State.setBar_keeps | apply Try.Keeps.ok | intro _

theorem State.semNode_keeps {s0 : State} (s : State) (b : Word) (hs : s0.Keeps s) :
    Try.Keeps s0 (fun _ => True) (State.semNode s b) := by
  unfold State.semNode
  dsimp only
  with_reducible repeat' first
    | assumption | refine Try.keeps_bind (Try.keeps_require _ _) ?_ | apply Try.Keeps.ok | split | intro _

theorem State.semStep_keeps {s0 : State} (s : State) (w : AQ) (op : Nat) (hs : s0.Keeps s) :
    Try.Keeps s0 (s0.Keeps) (State.semStep s w op) := by
  unfold State.semStep
  try dsimp only
  with_reducible repeat' first
    | assumption | refine Try.keeps_bind (State.semNode_keeps _ _ ?_) ?_
    | refine Try.keeps_bind (State.semAllowed_keeps _ _ _ ?_) ?_
    | refine Try.keeps_bind (State.remoteStep_keeps _ _ _ _ _ ?_ ?_) ?_ | apply State.semNode_keeps
    | apply State.semAllowed_keeps | apply State.orderSem_keeps | apply State.setSem_keeps | apply State.setReg_keeps
    | apply State.advance_keeps | apply State.remoteStep_keeps | apply State.acquirePeer_keeps
    | refine Try.stop_of (State.semNode_keeps _ _ ?_) (by assumption)
    | refine Try.stop_of (State.semAllowed_keeps _ _ _ ?_) (by assumption)
    | refine Try.stop_of (State.remoteStep_keeps _ _ _ _ _ ?_ ?_) (by assumption)
    | (have hx := Try.ok_of (State.remoteStep_keeps _ _ _ _ _ (by assumption) (by assumption)) (by assumption); exact hx)
    | refine Try.keeps_bind (P := fun _ => True) ?_ ?_ | apply Try.Keeps.ok | split | intro _ | apply State.Keeps.fields

theorem execSadd_keeps {s0 : State} (w : AQ) (s : State) (hs : s0.Keeps s) : OutKeeps s0 (execSadd w s) := by
  unfold execSadd
  with_reducible repeat' first
    | assumption | apply State.aWord_keeps | apply State.semStep_keeps | intro _

theorem execScas_keeps {s0 : State} (w : AQ) (s : State) (hs : s0.Keeps s) : OutKeeps s0 (execScas w s) := by
  unfold execScas
  with_reducible repeat' first
    | assumption | apply State.aWord_keeps | apply State.semStep_keeps | intro _

theorem execSmax_keeps {s0 : State} (w : AQ) (s : State) (hs : s0.Keeps s) : OutKeeps s0 (execSmax w s) := by
  unfold execSmax
  with_reducible repeat' first
    | assumption | apply State.aWord_keeps | apply State.semStep_keeps | intro _

theorem execSxch_keeps {s0 : State} (w : AQ) (s : State) (hs : s0.Keeps s) : OutKeeps s0 (execSxch w s) := by
  unfold execSxch
  with_reducible repeat' first
    | assumption | apply State.aWord_keeps | apply State.semStep_keeps | intro _

theorem execSrd_keeps {s0 : State} (w : AQ) (s : State) (hs : s0.Keeps s) : OutKeeps s0 (execSrd w s) := by
  unfold execSrd
  with_reducible repeat' first
    | assumption | apply State.aWord_keeps | apply State.semStep_keeps | intro _

theorem execSwt_keeps {s0 : State} (w : AQ) (s : State) (hs : s0.Keeps s) : OutKeeps s0 (execSwt w s) := by
  unfold execSwt
  try dsimp only
  with_reducible repeat' first
    | assumption | exact True.intro | refine Try.keeps_bind (State.semAllowed_keeps _ _ _ ?_) ?_ | apply State.aWord_keeps
    | apply State.semAllowed_keeps | apply State.acquireMet_keeps | apply State.endWait_keeps | apply State.setReg_keeps
    | apply State.advance_keeps | apply State.waitOn_keeps
    | refine Try.stop_of (State.semAllowed_keeps _ _ _ ?_) (by assumption) | apply Try.Keeps.ok | apply Try.Keeps.error
    | apply Stop.Keeps.pend | split | intro _ | apply OutKeeps.next

/-! ## Arming -/

theorem State.acquireWaits_keeps {s0 : State} (s : State) (id : Nat) (t : Task) (hs : s0.Keeps s) :
    s0.Keeps (State.acquireWaits s id t) := by
  unfold State.acquireWaits
  with_reducible repeat' first
    | assumption | apply State.acquireBar_keeps | apply State.Keeps.foldl | intro _

theorem State.createTasks_keeps {s0 : State} (s : State) (img : List Word) (entry arming : Nat) (k : Know) (z0 : List Nat) (z1 : Nat) (hs : s0.Keeps s) :
    s0.Keeps (State.createTasks s img entry arming k z0 z1) := by
  induction z0 generalizing s z1 with
  | nil =>
    unfold State.createTasks
    try dsimp only
    with_reducible repeat' first
      | assumption | apply State.ordered_keeps | apply State.acquireWaits_keeps | split | apply State.Keeps.fields
  | cons z zs ih =>
    unfold State.createTasks
    try dsimp only
    with_reducible repeat' first
      | assumption | apply ih | apply State.ordered_keeps | apply State.acquireWaits_keeps | split | apply State.Keeps.fields

theorem State.arm_keeps {s0 : State} (s : State) (entry : Nat) (byTask : Bool) (st : Strand) (hs : s0.Keeps s) :
    s0.Keeps (State.arm s entry byTask st).2 := by
  unfold State.arm
  try dsimp only
  with_reducible repeat' first
    | assumption | apply State.range_keeps | apply State.put_keeps | apply State.createTasks_keeps
    | refine Try.stop_of (State.range_keeps _ _ _ _ _ ?_) (by assumption) | apply Try.Keeps.ok | split | intro _
    | apply State.Keeps.fields

theorem execLgo_keeps {s0 : State} (w : AS) (s : State) (hs : s0.Keeps s) : OutKeeps s0 (execLgo w s) := by
  unfold execLgo
  dsimp only
  with_reducible repeat' first
    | assumption | refine Try.keeps_bind (Try.keeps_await _) ?_ | apply State.aWord_keeps | apply State.arm_keeps
    | apply State.advance_keeps | apply Try.Keeps.ok | apply Try.Keeps.error | apply Stop.Keeps.trapWith | split | intro _

theorem execLpatch_keeps {s0 : State} (w : AS) (s : State) (hs : s0.Keeps s) : OutKeeps s0 (execLpatch w s) := by
  unfold execLpatch
  dsimp only
  with_reducible repeat' first
    | assumption | refine Try.keeps_bind (State.physRead_keeps _ _ _ _ _ ?_) ?_
    | refine Try.keeps_bind (State.physWrite_keeps _ _ _ _ _ ?_) ?_ | refine Try.keeps_bind (Try.keeps_require _ _) ?_
    | apply State.aWord_keeps | apply State.advance_keeps | apply Try.keeps_raise | apply Try.Keeps.ok | split | intro _

/-! ## Operands -/

theorem State.takeEngine_keeps {s0 : State} (s : State) (id : Nat) (t : Task) (interval : Nat) (hs : s0.Keeps s) :
    s0.Keeps (State.takeEngine s id t interval) := by
  unfold State.takeEngine
  dsimp only
  with_reducible repeat' first
    | assumption | apply State.setCore_keeps | apply State.setTask_keeps

theorem State.occupy_keeps {s0 : State} (s : State) (id : Nat) (t : Task) (interval : Nat) (hs : s0.Keeps s) :
    s0.Keeps (State.occupy s id t interval) := by
  unfold State.occupy
  with_reducible repeat' first
    | assumption | apply State.takeEngine_keeps

theorem State.xWord_keeps {s0 : State} (s : State) (f : State → Nat → Task → Nat → Try State) (hs : s0.Keeps s)
    (hf : ∀ a b c d, s0.Keeps a → Try.Keeps s0 (s0.Keeps) (f a b c d)) : OutKeeps s0 (State.xWord s f) := by
  unfold State.xWord
  dsimp only
  with_reducible repeat' first
    | assumption | apply hf | apply State.finish_keeps | apply Try.keeps_raise | apply Try.Keeps.error | apply OutKeeps.next
    | exact OutKeeps.fault _ | exact Stop.Keeps.hold | split

theorem Task.parityOk_keeps {s0 : State} (t : Task) (reuse : Bool) (vs : List (List Nat)) :
    Try.Keeps s0 (fun _ => True) (Task.parityOk t reuse vs) := by
  unfold Task.parityOk
  dsimp only
  with_reducible repeat' first
    | exact True.intro | apply Try.Keeps.ok | apply Try.Keeps.error | exact Stop.Keeps.parity _ | split

theorem Task.resolve_keeps {s0 : State} (t : Task) (never : Bool) (o : Src) (i : Nat) :
    Try.Keeps s0 (fun _ => True) (Task.resolve t never o i) := by
  unfold Task.resolve
  dsimp only
  with_reducible repeat' first
    | assumption | refine Try.keeps_bind (Task.parityOk_keeps _ _ _) ?_ | refine Try.keeps_bind (Try.keeps_require _ _) ?_
    | refine Try.keeps_bind (P := fun _ => True) ?_ ?_ | apply Try.keeps_raise | apply Try.Keeps.ok | apply Try.Keeps.error
    | exact Stop.Keeps.hold | split | intro _

theorem Task.resolveAll_keeps {s0 : State} (t : Task) (never : Bool) (y2 : List Src) (y3 : List Head) :
    Try.Keeps s0 (fun _ => True) (Task.resolveAll t never y2 y3) := by
  induction y2 generalizing y3 with
  | nil =>
    unfold Task.resolveAll
    with_reducible repeat' first
      | assumption | exact True.intro | refine Try.keeps_bind (Task.resolve_keeps _ _ _ _) ?_
      | refine Try.keeps_bind (P := fun _ => True) ?_ ?_ | apply Try.Keeps.ok | split | intro _
  | cons z zs ih =>
    unfold Task.resolveAll
    with_reducible repeat' first
      | assumption | exact True.intro | apply ih | refine Try.keeps_bind (Task.resolve_keeps _ _ _ _) ?_
      | refine Try.keeps_bind (P := fun _ => True) ?_ ?_ | apply Try.Keeps.ok | split | intro _

theorem Task.resolveDst_keeps {s0 : State} (t : Task) (d : Dst) : Try.Keeps s0 (fun _ => True) (Task.resolveDst t d) := by
  unfold Task.resolveDst
  dsimp only
  with_reducible repeat' first
    | assumption | refine Try.keeps_bind (Try.keeps_require _ _) ?_ | apply Try.Keeps.ok | intro _

theorem Task.resolveDsts_keeps {s0 : State} (t : Task) (y1 : List Dst) :
    Try.Keeps s0 (fun _ => True) (Task.resolveDsts t y1) := by
  induction y1 with
  | nil =>
    unfold Task.resolveDsts
    with_reducible repeat' first
      | assumption | exact True.intro | refine Try.keeps_bind (Task.resolveDst_keeps _ _) ?_ | apply Try.Keeps.ok | intro _
  | cons z zs ih =>
    unfold Task.resolveDsts
    with_reducible repeat' first
      | assumption | exact True.intro | refine Try.keeps_bind ih ?_ | refine Try.keeps_bind (Task.resolveDst_keeps _ _) ?_
      | apply Try.Keeps.ok | intro _

theorem State.xOp_keeps {s0 : State} (s : State) (q : XReq) (own : Task → Try Unit) (g : XIn → XRes) (hs : s0.Keeps s)
    (hf : ∀ a, Try.Keeps s0 (fun _ => True) (own a)) : OutKeeps s0 (State.xOp s q own g) := by
  unfold State.xOp
  dsimp only
  with_reducible repeat' first
    | assumption | apply hf | refine Try.keeps_bind (Task.resolveAll_keeps _ _ _ _) ?_
    | refine Try.keeps_bind (Task.resolveDsts_keeps _ _) ?_ | refine Try.keeps_bind (Try.keeps_await _) ?_
    | refine Try.keeps_bind (P := fun _ => True) ?_ ?_ | apply State.xWord_keeps | apply State.occupy_keeps
    | apply Try.Keeps.ok | split | intro _

end Sys2Proof.Machine
end

