-- ==== Sys2Proof/Laws/Keeps3.lean ====
section
/-! SUPPORT. What every operation and meaning of Vector, Convert, Lanes, Reduce, Loops, Copies, Csr keeps (`State.Keeps`). -/

namespace Sys2Proof.Machine

/-! ## Vector -/

theorem noOwn_keeps {s0 : State} (y0 : Task) : Try.Keeps s0 (fun _ => True) (noOwn y0) := by
  unfold noOwn
  with_reducible repeat' first
    | exact True.intro | apply Try.Keeps.ok

theorem State.xv2_keeps {s0 : State} (s : State) (w : XV3) (ta : Nat) (tb : Nat) (td : Nat) (time : Nat × Nat)
    (f : Nat → Int → Int → Int × Flags) (hs : s0.Keeps s) : OutKeeps s0 (State.xv2 s w ta tb td time f) := by
  unfold State.xv2
  with_reducible repeat' first
    | assumption | apply State.xOp_keeps | apply noOwn_keeps

theorem State.xint2_keeps {s0 : State} (s : State) (w : XV3) (time : Nat → Nat × Nat) (f : Int → Int → Int)
    (hs : s0.Keeps s) : OutKeeps s0 (State.xint2 s w time f) := by
  unfold State.xint2
  with_reducible repeat' first
    | assumption | apply State.xv2_keeps

theorem execVadd_keeps {s0 : State} (w : XV3) (s : State) (hs : s0.Keeps s) : OutKeeps s0 (execVadd w s) := by
  unfold execVadd
  with_reducible repeat' first
    | assumption | apply State.xint2_keeps

theorem execVsub_keeps {s0 : State} (w : XV3) (s : State) (hs : s0.Keeps s) : OutKeeps s0 (execVsub w s) := by
  unfold execVsub
  with_reducible repeat' first
    | assumption | apply State.xint2_keeps

theorem execVmul_keeps {s0 : State} (w : XV3) (s : State) (hs : s0.Keeps s) : OutKeeps s0 (execVmul w s) := by
  unfold execVmul
  with_reducible repeat' first
    | assumption | apply State.xint2_keeps

theorem execVmulh_keeps {s0 : State} (w : XV3) (s : State) (hs : s0.Keeps s) : OutKeeps s0 (execVmulh w s) := by
  unfold execVmulh
  with_reducible repeat' first
    | assumption | apply State.xint2_keeps

theorem State.xv3_keeps {s0 : State} (s : State) (w : XV4) (ty : Nat) (time : Nat × Nat) (own : Task → Try Unit)
    (f : Int → Int → Int → Int × Flags) (hs : s0.Keeps s) (hf : ∀ a, Try.Keeps s0 (fun _ => True) (own a)) :
    OutKeeps s0 (State.xv3 s w ty time own f) := by
  unfold State.xv3
  with_reducible repeat' first
    | assumption | apply State.xOp_keeps

theorem State.xint3_keeps {s0 : State} (s : State) (w : XV4) (time : Nat → Nat × Nat) (f : Int → Int → Int → Int)
    (hs : s0.Keeps s) : OutKeeps s0 (State.xint3 s w time f) := by
  unfold State.xint3
  with_reducible repeat' first
    | assumption | apply State.xv3_keeps | apply noOwn_keeps

theorem execVmad_keeps {s0 : State} (w : XV4) (s : State) (hs : s0.Keeps s) : OutKeeps s0 (execVmad w s) := by
  unfold execVmad
  with_reducible repeat' first
    | assumption | apply State.xint3_keeps

theorem dotWidths_keeps {s0 : State} (w : XV4) (y1 : Task) : Try.Keeps s0 (fun _ => True) (dotWidths w y1) := by
  unfold dotWidths
  with_reducible repeat' first
    | apply Try.keeps_require

theorem State.xdot_keeps {s0 : State} (s : State) (w : XV4) (e : Nat) (m : Nat) (hs : s0.Keeps s) :
    OutKeeps s0 (State.xdot s w e m) := by
  unfold State.xdot
  with_reducible repeat' first
    | assumption | apply State.xv3_keeps | apply dotWidths_keeps

theorem execVdot4_keeps {s0 : State} (w : XV4) (s : State) (hs : s0.Keeps s) : OutKeeps s0 (execVdot4 w s) := by
  unfold execVdot4
  with_reducible repeat' first
    | assumption | apply State.xdot_keeps

theorem execVdot8_keeps {s0 : State} (w : XV4) (s : State) (hs : s0.Keeps s) : OutKeeps s0 (execVdot8 w s) := by
  unfold execVdot8
  with_reducible repeat' first
    | assumption | apply State.xdot_keeps

theorem execVmin_keeps {s0 : State} (w : XV3) (s : State) (hs : s0.Keeps s) : OutKeeps s0 (execVmin w s) := by
  unfold execVmin
  with_reducible repeat' first
    | assumption | apply State.xint2_keeps

theorem execVmax_keeps {s0 : State} (w : XV3) (s : State) (hs : s0.Keeps s) : OutKeeps s0 (execVmax w s) := by
  unfold execVmax
  with_reducible repeat' first
    | assumption | apply State.xint2_keeps

theorem State.xv1_keeps {s0 : State} (s : State) (w : XV3) (ta : Nat) (td : Nat) (time : Nat × Nat)
    (f : Nat → Int → Int × Flags) (hs : s0.Keeps s) : OutKeeps s0 (State.xv1 s w ta td time f) := by
  unfold State.xv1
  with_reducible repeat' first
    | assumption | apply State.xOp_keeps | apply noOwn_keeps

theorem State.xint1_keeps {s0 : State} (s : State) (w : XV3) (f : Int → Int) (hs : s0.Keeps s) :
    OutKeeps s0 (State.xint1 s w f) := by
  unfold State.xint1
  with_reducible repeat' first
    | assumption | apply State.xv1_keeps

theorem execVabs_keeps {s0 : State} (w : XV3) (s : State) (hs : s0.Keeps s) : OutKeeps s0 (execVabs w s) := by
  unfold execVabs
  with_reducible repeat' first
    | assumption | apply State.xint1_keeps

theorem execVabsd_keeps {s0 : State} (w : XV3) (s : State) (hs : s0.Keeps s) : OutKeeps s0 (execVabsd w s) := by
  unfold execVabsd
  dsimp only
  with_reducible repeat' first
    | assumption | apply State.xv2_keeps

theorem execVneg_keeps {s0 : State} (w : XV3) (s : State) (hs : s0.Keeps s) : OutKeeps s0 (execVneg w s) := by
  unfold execVneg
  with_reducible repeat' first
    | assumption | apply State.xint1_keeps

theorem execVavg_keeps {s0 : State} (w : XV3) (s : State) (hs : s0.Keeps s) : OutKeeps s0 (execVavg w s) := by
  unfold execVavg
  with_reducible repeat' first
    | assumption | apply State.xint2_keeps

theorem execVshl_keeps {s0 : State} (w : XV3) (s : State) (hs : s0.Keeps s) : OutKeeps s0 (execVshl w s) := by
  unfold execVshl
  with_reducible repeat' first
    | assumption | apply State.xint2_keeps

theorem execVshr_keeps {s0 : State} (w : XV3) (s : State) (hs : s0.Keeps s) : OutKeeps s0 (execVshr w s) := by
  unfold execVshr
  dsimp only
  with_reducible repeat' first
    | assumption | apply State.xv2_keeps

theorem execVsra_keeps {s0 : State} (w : XV3) (s : State) (hs : s0.Keeps s) : OutKeeps s0 (execVsra w s) := by
  unfold execVsra
  dsimp only
  with_reducible repeat' first
    | assumption | apply State.xv2_keeps

theorem execVrsh_keeps {s0 : State} (w : XV3) (s : State) (hs : s0.Keeps s) : OutKeeps s0 (execVrsh w s) := by
  unfold execVrsh
  with_reducible repeat' first
    | assumption | apply State.xv2_keeps

theorem State.xpat2_keeps {s0 : State} (s : State) (w : XV3) (f : Nat → Nat → Nat) (hs : s0.Keeps s) :
    OutKeeps s0 (State.xpat2 s w f) := by
  unfold State.xpat2
  dsimp only
  with_reducible repeat' first
    | assumption | apply State.xv2_keeps

theorem execVand_keeps {s0 : State} (w : XV3) (s : State) (hs : s0.Keeps s) : OutKeeps s0 (execVand w s) := by
  unfold execVand
  with_reducible repeat' first
    | assumption | apply State.xpat2_keeps

theorem execVor_keeps {s0 : State} (w : XV3) (s : State) (hs : s0.Keeps s) : OutKeeps s0 (execVor w s) := by
  unfold execVor
  with_reducible repeat' first
    | assumption | apply State.xpat2_keeps

theorem execVxor_keeps {s0 : State} (w : XV3) (s : State) (hs : s0.Keeps s) : OutKeeps s0 (execVxor w s) := by
  unfold execVxor
  with_reducible repeat' first
    | assumption | apply State.xpat2_keeps

theorem execVandn_keeps {s0 : State} (w : XV3) (s : State) (hs : s0.Keeps s) : OutKeeps s0 (execVandn w s) := by
  unfold execVandn
  with_reducible repeat' first
    | assumption | apply State.xpat2_keeps

theorem execVnot_keeps {s0 : State} (w : XV3) (s : State) (hs : s0.Keeps s) : OutKeeps s0 (execVnot w s) := by
  unfold execVnot
  dsimp only
  with_reducible repeat' first
    | assumption | apply State.xv1_keeps

theorem execVpopc_keeps {s0 : State} (w : XV3) (s : State) (hs : s0.Keeps s) : OutKeeps s0 (execVpopc w s) := by
  unfold execVpopc
  with_reducible repeat' first
    | assumption | apply State.xint1_keeps

theorem execVclz_keeps {s0 : State} (w : XV3) (s : State) (hs : s0.Keeps s) : OutKeeps s0 (execVclz w s) := by
  unfold execVclz
  with_reducible repeat' first
    | assumption | apply State.xint1_keeps

theorem execVsel_keeps {s0 : State} (w : XV4) (s : State) (hs : s0.Keeps s) : OutKeeps s0 (execVsel w s) := by
  unfold execVsel
  dsimp only
  with_reducible repeat' first
    | assumption | apply State.xv3_keeps | apply noOwn_keeps

theorem State.xcmp_keeps {s0 : State} (s : State) (w : XV3) (f : Int → Int → Int × Flags) (hs : s0.Keeps s) :
    OutKeeps s0 (State.xcmp s w f) := by
  unfold State.xcmp
  dsimp only
  with_reducible repeat' first
    | assumption | apply State.xOp_keeps | apply noOwn_keeps

theorem execVcmp_keeps {s0 : State} (w : XV3) (s : State) (hs : s0.Keeps s) : OutKeeps s0 (execVcmp w s) := by
  unfold execVcmp
  with_reducible repeat' first
    | assumption | apply State.xcmp_keeps

theorem execVclamp_keeps {s0 : State} (w : XV4) (s : State) (hs : s0.Keeps s) : OutKeeps s0 (execVclamp w s) := by
  unfold execVclamp
  with_reducible repeat' first
    | assumption | apply State.xint3_keeps

theorem State.xfloat2_keeps {s0 : State} (s : State) (w : XV3) (time : Nat → Nat × Nat) (f : Val → Val → Val × Flags)
    (hs : s0.Keeps s) : OutKeeps s0 (State.xfloat2 s w time f) := by
  unfold State.xfloat2
  with_reducible repeat' first
    | assumption | apply State.xv2_keeps

theorem execVfadd_keeps {s0 : State} (w : XV3) (s : State) (hs : s0.Keeps s) : OutKeeps s0 (execVfadd w s) := by
  unfold execVfadd
  with_reducible repeat' first
    | assumption | apply State.xfloat2_keeps

theorem execVfsub_keeps {s0 : State} (w : XV3) (s : State) (hs : s0.Keeps s) : OutKeeps s0 (execVfsub w s) := by
  unfold execVfsub
  with_reducible repeat' first
    | assumption | apply State.xfloat2_keeps

theorem execVfmul_keeps {s0 : State} (w : XV3) (s : State) (hs : s0.Keeps s) : OutKeeps s0 (execVfmul w s) := by
  unfold execVfmul
  with_reducible repeat' first
    | assumption | apply State.xfloat2_keeps

theorem State.xfloat3_keeps {s0 : State} (s : State) (w : XV4) (f : Val → Val → Val → Val × Flags) (hs : s0.Keeps s) :
    OutKeeps s0 (State.xfloat3 s w f) := by
  unfold State.xfloat3
  dsimp only
  with_reducible repeat' first
    | assumption | apply State.xv3_keeps | apply noOwn_keeps

theorem execVfma_keeps {s0 : State} (w : XV4) (s : State) (hs : s0.Keeps s) : OutKeeps s0 (execVfma w s) := by
  unfold execVfma
  with_reducible repeat' first
    | assumption | apply State.xfloat3_keeps

theorem execVfms_keeps {s0 : State} (w : XV4) (s : State) (hs : s0.Keeps s) : OutKeeps s0 (execVfms w s) := by
  unfold execVfms
  with_reducible repeat' first
    | assumption | apply State.xfloat3_keeps

theorem execVfnma_keeps {s0 : State} (w : XV4) (s : State) (hs : s0.Keeps s) : OutKeeps s0 (execVfnma w s) := by
  unfold execVfnma
  with_reducible repeat' first
    | assumption | apply State.xfloat3_keeps

theorem execVfmin_keeps {s0 : State} (w : XV3) (s : State) (hs : s0.Keeps s) : OutKeeps s0 (execVfmin w s) := by
  unfold execVfmin
  with_reducible repeat' first
    | assumption | apply State.xv2_keeps

theorem execVfmax_keeps {s0 : State} (w : XV3) (s : State) (hs : s0.Keeps s) : OutKeeps s0 (execVfmax w s) := by
  unfold execVfmax
  with_reducible repeat' first
    | assumption | apply State.xv2_keeps

theorem State.xsign_keeps {s0 : State} (s : State) (w : XV3) (f : Bool → Bool) (hs : s0.Keeps s) :
    OutKeeps s0 (State.xsign s w f) := by
  unfold State.xsign
  dsimp only
  with_reducible repeat' first
    | assumption | apply State.xv1_keeps

theorem execVfabs_keeps {s0 : State} (w : XV3) (s : State) (hs : s0.Keeps s) : OutKeeps s0 (execVfabs w s) := by
  unfold execVfabs
  with_reducible repeat' first
    | assumption | apply State.xsign_keeps

theorem execVfneg_keeps {s0 : State} (w : XV3) (s : State) (hs : s0.Keeps s) : OutKeeps s0 (execVfneg w s) := by
  unfold execVfneg
  with_reducible repeat' first
    | assumption | apply State.xsign_keeps

theorem execVfcmp_keeps {s0 : State} (w : XV3) (s : State) (hs : s0.Keeps s) : OutKeeps s0 (execVfcmp w s) := by
  unfold execVfcmp
  dsimp only
  with_reducible repeat' first
    | assumption | apply State.xcmp_keeps

theorem execVfclass_keeps {s0 : State} (w : XV3) (s : State) (hs : s0.Keeps s) : OutKeeps s0 (execVfclass w s) := by
  unfold execVfclass
  dsimp only
  with_reducible repeat' first
    | assumption | apply State.xOp_keeps | apply noOwn_keeps

theorem State.xtr1_keeps {s0 : State} (s : State) (w : XV3) (f : Fmt → Nat → Bool → Val → Nat × Flags) (hs : s0.Keeps s) :
    OutKeeps s0 (State.xtr1 s w f) := by
  unfold State.xtr1
  dsimp only
  with_reducible repeat' first
    | assumption | apply State.xv1_keeps

theorem execVrcp_keeps {s0 : State} (w : XV3) (s : State) (hs : s0.Keeps s) : OutKeeps s0 (execVrcp w s) := by
  unfold execVrcp
  with_reducible repeat' first
    | assumption | apply State.xtr1_keeps

theorem execVrsq_keeps {s0 : State} (w : XV3) (s : State) (hs : s0.Keeps s) : OutKeeps s0 (execVrsq w s) := by
  unfold execVrsq
  with_reducible repeat' first
    | assumption | apply State.xtr1_keeps

theorem execVsqrt_keeps {s0 : State} (w : XV3) (s : State) (hs : s0.Keeps s) : OutKeeps s0 (execVsqrt w s) := by
  unfold execVsqrt
  with_reducible repeat' first
    | assumption | apply State.xtr1_keeps

theorem execVdiv_keeps {s0 : State} (w : XV3) (s : State) (hs : s0.Keeps s) : OutKeeps s0 (execVdiv w s) := by
  unfold execVdiv
  dsimp only
  with_reducible repeat' first
    | assumption | apply State.xv2_keeps

theorem execVexp2_keeps {s0 : State} (w : XV3) (s : State) (hs : s0.Keeps s) : OutKeeps s0 (execVexp2 w s) := by
  unfold execVexp2
  with_reducible repeat' first
    | assumption | apply State.xtr1_keeps

theorem execVlog2_keeps {s0 : State} (w : XV3) (s : State) (hs : s0.Keeps s) : OutKeeps s0 (execVlog2 w s) := by
  unfold execVlog2
  with_reducible repeat' first
    | assumption | apply State.xtr1_keeps

theorem execVfscl_keeps {s0 : State} (w : XV3) (s : State) (hs : s0.Keeps s) : OutKeeps s0 (execVfscl w s) := by
  unfold execVfscl
  dsimp only
  with_reducible repeat' first
    | assumption | apply State.xv2_keeps

/-! ## Convert -/

theorem execVcvt_keeps {s0 : State} (w : XV3) (s : State) (hs : s0.Keeps s) : OutKeeps s0 (execVcvt w s) := by
  unfold execVcvt
  dsimp only
  with_reducible repeat' first
    | assumption | apply State.xv1_keeps

theorem residueOk_keeps {s0 : State} (w : XV4) (y1 : Task) : Try.Keeps s0 (fun _ => True) (residueOk w y1) := by
  unfold residueOk
  with_reducible repeat' first
    | refine Try.keeps_bind (Try.keeps_require _ _) ?_ | apply Try.keeps_require | intro _

theorem execVcvte_keeps {s0 : State} (w : XV4) (s : State) (hs : s0.Keeps s) : OutKeeps s0 (execVcvte w s) := by
  unfold execVcvte
  dsimp only
  with_reducible repeat' first
    | assumption | apply State.xOp_keeps | apply residueOk_keeps

theorem execVqmx_keeps {s0 : State} (w : XV3) (s : State) (hs : s0.Keeps s) : OutKeeps s0 (execVqmx w s) := by
  unfold execVqmx
  dsimp only
  with_reducible repeat' first
    | assumption | apply State.xOp_keeps | apply noOwn_keeps

theorem execVdqmx_keeps {s0 : State} (w : XV3) (s : State) (hs : s0.Keeps s) : OutKeeps s0 (execVdqmx w s) := by
  unfold execVdqmx
  dsimp only
  with_reducible repeat' first
    | assumption | apply State.xOp_keeps | apply noOwn_keeps

theorem execVamax_keeps {s0 : State} (w : XV3) (s : State) (hs : s0.Keeps s) : OutKeeps s0 (execVamax w s) := by
  unfold execVamax
  dsimp only
  with_reducible repeat' first
    | assumption | apply State.xOp_keeps | apply noOwn_keeps

theorem execEset_keeps {s0 : State} (w : XI) (s : State) (hs : s0.Keeps s) : OutKeeps s0 (execEset w s) := by
  unfold execEset
  with_reducible repeat' first
    | assumption | apply State.xOp_keeps | apply noOwn_keeps

theorem execEsetImm_keeps {s0 : State} (w : XI) (s : State) (hs : s0.Keeps s) : OutKeeps s0 (execEsetImm w s) := by
  unfold execEsetImm
  with_reducible repeat' first
    | assumption | apply State.xOp_keeps | apply noOwn_keeps

theorem execEget_keeps {s0 : State} (w : XI) (s : State) (hs : s0.Keeps s) : OutKeeps s0 (execEget w s) := by
  unfold execEget
  dsimp only
  with_reducible repeat' first
    | assumption | apply State.xOp_keeps | apply noOwn_keeps

/-! ## Lanes -/

theorem execVperm_keeps {s0 : State} (w : XV3) (s : State) (hs : s0.Keeps s) : OutKeeps s0 (execVperm w s) := by
  unfold execVperm
  dsimp only
  with_reducible repeat' first
    | assumption | apply State.xOp_keeps | apply noOwn_keeps

theorem execVbcst_keeps {s0 : State} (w : XV3) (s : State) (hs : s0.Keeps s) : OutKeeps s0 (execVbcst w s) := by
  unfold execVbcst
  dsimp only
  with_reducible repeat' first
    | assumption | apply State.xOp_keeps | apply noOwn_keeps

theorem State.xpair_keeps {s0 : State} (s : State) (w : XV3) (f : Lanes → Lanes → Lanes × Lanes) (hs : s0.Keeps s) :
    OutKeeps s0 (State.xpair s w f) := by
  unfold State.xpair
  dsimp only
  with_reducible repeat' first
    | assumption | apply State.xOp_keeps | apply noOwn_keeps

theorem execVzip_keeps {s0 : State} (w : XV3) (s : State) (hs : s0.Keeps s) : OutKeeps s0 (execVzip w s) := by
  unfold execVzip
  with_reducible repeat' first
    | assumption | apply State.xpair_keeps

theorem execVunzip_keeps {s0 : State} (w : XV3) (s : State) (hs : s0.Keeps s) : OutKeeps s0 (execVunzip w s) := by
  unfold execVunzip
  with_reducible repeat' first
    | assumption | apply State.xpair_keeps

theorem State.xselect_keeps {s0 : State} (s : State) (w : XV3) (f : List Bool → Lanes → Lanes → Lanes) (hs : s0.Keeps s) :
    OutKeeps s0 (State.xselect s w f) := by
  unfold State.xselect
  dsimp only
  with_reducible repeat' first
    | assumption | apply State.xOp_keeps | apply noOwn_keeps

theorem execVpack_keeps {s0 : State} (w : XV3) (s : State) (hs : s0.Keeps s) : OutKeeps s0 (execVpack w s) := by
  unfold execVpack
  dsimp only
  with_reducible repeat' first
    | assumption | apply State.xselect_keeps

theorem execVunpk_keeps {s0 : State} (w : XV3) (s : State) (hs : s0.Keeps s) : OutKeeps s0 (execVunpk w s) := by
  unfold execVunpk
  with_reducible repeat' first
    | assumption | apply State.xselect_keeps

theorem execVlsh_keeps {s0 : State} (w : XI) (s : State) (hs : s0.Keeps s) : OutKeeps s0 (execVlsh w s) := by
  unfold execVlsh
  dsimp only
  with_reducible repeat' first
    | assumption | apply State.xOp_keeps | apply noOwn_keeps

theorem execVmov_keeps {s0 : State} (w : XV3) (s : State) (hs : s0.Keeps s) : OutKeeps s0 (execVmov w s) := by
  unfold execVmov
  with_reducible repeat' first
    | assumption | apply State.xOp_keeps | apply noOwn_keeps

theorem execVmovi_keeps {s0 : State} (w : XI) (s : State) (hs : s0.Keeps s) : OutKeeps s0 (execVmovi w s) := by
  unfold execVmovi
  dsimp only
  with_reducible repeat' first
    | assumption | apply State.xOp_keeps | apply noOwn_keeps

theorem execVbf2_keeps {s0 : State} (w : XV4) (s : State) (hs : s0.Keeps s) : OutKeeps s0 (execVbf2 w s) := by
  unfold execVbf2
  dsimp only
  with_reducible repeat' first
    | assumption | apply State.xOp_keeps | apply noOwn_keeps

theorem execVbf4_keeps {s0 : State} (w : XV4) (s : State) (hs : s0.Keeps s) : OutKeeps s0 (execVbf4 w s) := by
  unfold execVbf4
  dsimp only
  with_reducible repeat' first
    | assumption | apply State.xOp_keeps | apply noOwn_keeps

theorem execVtwg_keeps {s0 : State} (w : XI) (s : State) (hs : s0.Keeps s) : OutKeeps s0 (execVtwg w s) := by
  unfold execVtwg
  dsimp only
  with_reducible repeat' first
    | assumption | apply State.xOp_keeps | apply noOwn_keeps

theorem execVcmul_keeps {s0 : State} (w : XV3) (s : State) (hs : s0.Keeps s) : OutKeeps s0 (execVcmul w s) := by
  unfold execVcmul
  dsimp only
  with_reducible repeat' first
    | assumption | apply State.xv2_keeps

theorem execVcmac_keeps {s0 : State} (w : XV4) (s : State) (hs : s0.Keeps s) : OutKeeps s0 (execVcmac w s) := by
  unfold execVcmac
  dsimp only
  with_reducible repeat' first
    | assumption | apply State.xv3_keeps | apply noOwn_keeps

/-! ## Reduce -/

theorem State.xreduce_keeps {s0 : State} (s : State) (w : XV3) (time : Nat × Nat) (f : List Bool → Lanes → Lanes × Flags)
    (hs : s0.Keeps s) : OutKeeps s0 (State.xreduce s w time f) := by
  unfold State.xreduce
  dsimp only
  with_reducible repeat' first
    | assumption | apply State.xOp_keeps | apply noOwn_keeps

theorem execVred_keeps {s0 : State} (w : XV3) (s : State) (hs : s0.Keeps s) : OutKeeps s0 (execVred w s) := by
  unfold execVred
  dsimp only
  with_reducible repeat' first
    | assumption | apply State.xreduce_keeps

theorem execVscan_keeps {s0 : State} (w : XV3) (s : State) (hs : s0.Keeps s) : OutKeeps s0 (execVscan w s) := by
  unfold execVscan
  dsimp only
  with_reducible repeat' first
    | assumption | apply State.xreduce_keeps

theorem execVrsum_keeps {s0 : State} (w : XV3) (s : State) (hs : s0.Keeps s) : OutKeeps s0 (execVrsum w s) := by
  unfold execVrsum
  dsimp only
  with_reducible repeat' first
    | assumption | apply State.xreduce_keeps

theorem State.xpred_keeps {s0 : State} (s : State) (w : XI) (f : Task → Pred) (hs : s0.Keeps s) :
    OutKeeps s0 (State.xpred s w f) := by
  unfold State.xpred
  with_reducible repeat' first
    | assumption | apply State.xOp_keeps | apply noOwn_keeps

theorem execKand_keeps {s0 : State} (w : XI) (s : State) (hs : s0.Keeps s) : OutKeeps s0 (execKand w s) := by
  unfold execKand
  with_reducible repeat' first
    | assumption | apply State.xpred_keeps

theorem execKor_keeps {s0 : State} (w : XI) (s : State) (hs : s0.Keeps s) : OutKeeps s0 (execKor w s) := by
  unfold execKor
  with_reducible repeat' first
    | assumption | apply State.xpred_keeps

theorem execKxor_keeps {s0 : State} (w : XI) (s : State) (hs : s0.Keeps s) : OutKeeps s0 (execKxor w s) := by
  unfold execKxor
  with_reducible repeat' first
    | assumption | apply State.xpred_keeps

theorem execKnot_keeps {s0 : State} (w : XI) (s : State) (hs : s0.Keeps s) : OutKeeps s0 (execKnot w s) := by
  unfold execKnot
  with_reducible repeat' first
    | assumption | apply State.xpred_keeps

theorem execKsetLt_keeps {s0 : State} (w : XI) (s : State) (hs : s0.Keeps s) : OutKeeps s0 (execKsetLt w s) := by
  unfold execKsetLt
  with_reducible repeat' first
    | assumption | apply State.xpred_keeps

theorem execKsetGe_keeps {s0 : State} (w : XI) (s : State) (hs : s0.Keeps s) : OutKeeps s0 (execKsetGe w s) := by
  unfold execKsetGe
  with_reducible repeat' first
    | assumption | apply State.xpred_keeps

theorem execKsetMod_keeps {s0 : State} (w : XI) (s : State) (hs : s0.Keeps s) : OutKeeps s0 (execKsetMod w s) := by
  unfold execKsetMod
  with_reducible repeat' first
    | assumption | apply State.xpred_keeps

theorem execKmov_keeps {s0 : State} (w : XI) (s : State) (hs : s0.Keeps s) : OutKeeps s0 (execKmov w s) := by
  unfold execKmov
  with_reducible repeat' first
    | assumption | apply State.xpred_keeps

theorem execKmovFromv_keeps {s0 : State} (w : XI) (s : State) (hs : s0.Keeps s) : OutKeeps s0 (execKmovFromv w s) := by
  unfold execKmovFromv
  with_reducible repeat' first
    | assumption | apply State.xOp_keeps | apply noOwn_keeps

theorem execKmovTov_keeps {s0 : State} (w : XI) (s : State) (hs : s0.Keeps s) : OutKeeps s0 (execKmovTov w s) := by
  unfold execKmovTov
  dsimp only
  with_reducible repeat' first
    | assumption | apply State.xOp_keeps | apply noOwn_keeps

/-! ## Loops -/

theorem Task.loopChecks_keeps {s0 : State} (t : Task) (w : XC) : Try.Keeps s0 (fun _ => True) (Task.loopChecks t w) := by
  unfold Task.loopChecks
  dsimp only
  with_reducible repeat' first
    | refine Try.keeps_bind (Try.keeps_require _ _) ?_ | apply Try.keeps_require | intro _

theorem Task.loopCount_keeps {s0 : State} (t : Task) (w : XC) (field : Nat) :
    Try.Keeps s0 (fun _ => True) (Task.loopCount t w field) := by
  unfold Task.loopCount
  with_reducible repeat' first
    | exact True.intro | apply Try.keeps_raise | apply Try.Keeps.ok | apply Try.Keeps.error | exact Stop.Keeps.hold | split

theorem execLoop_keeps {s0 : State} (w : XC) (s : State) (hs : s0.Keeps s) : OutKeeps s0 (execLoop w s) := by
  unfold execLoop
  dsimp only
  with_reducible repeat' first
    | assumption | refine Try.keeps_bind (Task.loopChecks_keeps _ _) ?_
    | refine Try.keeps_bind (Task.loopCount_keeps _ _ _) ?_ | refine Try.keeps_bind (Try.keeps_await _) ?_
    | apply State.xWord_keeps | apply State.takeEngine_keeps | apply Try.Keeps.ok | split | intro _

theorem execLoopr_keeps {s0 : State} (w : XC) (s : State) (hs : s0.Keeps s) : OutKeeps s0 (execLoopr w s) := by
  unfold execLoopr
  dsimp only
  with_reducible repeat' first
    | assumption | refine Try.keeps_bind (Task.loopChecks_keeps _ _) ?_
    | refine Try.keeps_bind (Task.loopCount_keeps _ _ _) ?_ | refine Try.keeps_bind (Try.keeps_require _ _) ?_
    | refine Try.keeps_bind (Try.keeps_await _) ?_ | apply State.xWord_keeps | apply State.takeEngine_keeps
    | apply Try.Keeps.ok | split | intro _

theorem Task.xJump_keeps {s0 : State} (t : Task) (p : Parcel) : Try.Keeps s0 (fun _ => True) (Task.xJump t p) := by
  unfold Task.xJump
  dsimp only
  with_reducible repeat' first
    | assumption | exact True.intro | refine Try.keeps_bind (Try.keeps_require _ _) ?_ | apply Try.Keeps.ok | split | intro _

theorem State.xBranch_keeps {s0 : State} (s : State) (id : Nat) (w : XC) (u : Task) (taken : Bool) (hs : s0.Keeps s) :
    Try.Keeps s0 s0.Keeps (State.xBranch s id w u taken) := by
  unfold State.xBranch
  with_reducible repeat' first
    | assumption | refine Try.keeps_bind (Task.xJump_keeps _ _) ?_ | apply State.takeEngine_keeps | apply State.occupy_keeps
    | apply Try.Keeps.ok | split | intro _

theorem execXb_keeps {s0 : State} (w : XC) (s : State) (hs : s0.Keeps s) : OutKeeps s0 (execXb w s) := by
  unfold execXb
  with_reducible repeat' first
    | assumption | apply State.xWord_keeps | apply State.xBranch_keeps | apply Try.keeps_raise | apply Try.Keeps.error
    | exact Stop.Keeps.hold | split | intro _

theorem execXbk_keeps {s0 : State} (w : XC) (s : State) (hs : s0.Keeps s) : OutKeeps s0 (execXbk w s) := by
  unfold execXbk
  dsimp only
  with_reducible repeat' first
    | assumption | apply State.xWord_keeps | apply State.xBranch_keeps | split | intro _

theorem execXj_keeps {s0 : State} (w : XC) (s : State) (hs : s0.Keeps s) : OutKeeps s0 (execXj w s) := by
  unfold execXj
  with_reducible repeat' first
    | assumption | apply State.xWord_keeps | apply State.xBranch_keeps | intro _

theorem execXfin_keeps {s0 : State} (y0 : XC) (s : State) (hs : s0.Keeps s) : OutKeeps s0 (execXfin y0 s) := by
  unfold execXfin
  with_reducible repeat' first
    | assumption | apply State.xWord_keeps | apply State.takeEngine_keeps | apply Try.Keeps.ok | intro _

theorem execVdead_keeps {s0 : State} (w : XI) (s : State) (hs : s0.Keeps s) : OutKeeps s0 (execVdead w s) := by
  unfold execVdead
  dsimp only
  with_reducible repeat' first
    | assumption | refine Try.keeps_bind (Try.keeps_require _ _) ?_ | apply State.xWord_keeps | apply State.occupy_keeps
    | apply Try.Keeps.ok | split | intro _

theorem execVpush_keeps {s0 : State} (w : XI) (s : State) (hs : s0.Keeps s) : OutKeeps s0 (execVpush w s) := by
  unfold execVpush
  dsimp only
  with_reducible repeat' first
    | assumption | apply State.xOp_keeps | apply Try.keeps_require | intro _

/-! ## Copies -/

theorem need_keeps {s0 : State} {α : Type} (y1 : Option α) : Try.Keeps s0 (fun _ => True) (need y1) := by
  unfold need
  with_reducible repeat' first
    | exact True.intro | apply Try.Keeps.ok | apply Try.Keeps.error | exact Stop.Keeps.hold | split

theorem State.edgeByte_keeps {s0 : State} (s : State) (v : View) (whole : Bool) (va : Nat) (hs : s0.Keeps s) :
    Try.Keeps s0 (fun _ => True) (State.edgeByte s v whole va) := by
  unfold State.edgeByte
  try dsimp only
  with_reducible repeat' first
    | assumption | exact True.intro | refine Try.keeps_bind (State.range_keeps _ _ _ _ _ ?_) ?_
    | refine Try.keeps_bind (State.readBytes_keeps _ _ _ ?_) ?_ | apply State.range_keeps | apply State.readBytes_keeps
    | refine Try.stop_of (State.range_keeps _ _ _ _ _ ?_) (by assumption)
    | refine Try.stop_of (State.readBytes_keeps _ _ _ ?_) (by assumption) | refine Try.keeps_bind (P := fun _ => True) ?_ ?_
    | apply Try.Keeps.ok | split | intro _

theorem State.writeRun_keeps {s0 : State} (s : State) (v : View) (r : Nat × Nat × Nat) (hs : s0.Keeps s) :
    Try.Keeps s0 s0.Keeps (State.writeRun s v r) := by
  unfold State.writeRun
  try dsimp only
  with_reducible repeat' first
    | assumption | refine Try.keeps_bind (State.check_keeps _ _ _ _ _ ?_) ?_
    | refine Try.keeps_bind (State.edgeByte_keeps _ _ _ _ ?_) ?_ | apply State.runBytes_keeps | apply State.check_keeps
    | apply State.edgeByte_keeps | apply State.writePieces_keeps | refine Try.keeps_bind (P := fun _ => True) ?_ ?_
    | apply Try.Keeps.ok | intro _

theorem State.writeRuns_keeps {s0 : State} (s : State) (v : View) (y2 : List (Nat × Nat × Nat)) (hs : s0.Keeps s) :
    Try.Keeps s0 s0.Keeps (State.writeRuns s v y2) := by
  induction y2 generalizing s with
  | nil =>
    unfold State.writeRuns
    with_reducible repeat' first
      | assumption | refine Try.keeps_bind (State.writeRun_keeps _ _ _ ?_) ?_ | apply Try.Keeps.ok
  | cons z zs ih =>
    unfold State.writeRuns
    with_reducible repeat' first
      | assumption | refine Try.keeps_bind (State.writeRun_keeps _ _ _ ?_) ?_ | apply Try.Keeps.ok

theorem State.storeWashed_keeps {s0 : State} (s : State) (t : Nat) (x : Nat) (o : Nat) (mode : Nat) (image : List Byte)
    (hs : s0.Keeps s) : s0.Keeps (State.storeWashed s t x o mode image) := by
  unfold State.storeWashed
  try dsimp only
  with_reducible repeat' first
    | assumption | apply State.store_keeps | apply State.writeBytes_keeps | apply State.detectWash_keeps
    | apply State.setBytes_keeps | apply State.put_keeps | apply State.noteWrite_keeps | apply State.fabricWritten_keeps
    | apply State.clearPoison_keeps | apply State.mirror_keeps | split | intro _ | apply State.Keeps.fields

theorem boxChecks_keeps {s0 : State} (dst : Glyph) (src : Glyph) (ext : Word) (dOff : Word) (sOff : Word) (bar : Try Word)
    (wash : Bool) (remote : Bool) (hr : Try.Keeps s0 (fun _ => True) bar) :
    Try.Keeps s0 (fun _ => True) (boxChecks dst src ext dOff sOff bar wash remote) := by
  unfold boxChecks
  with_reducible repeat' first
    | assumption | refine Try.keeps_bind (Try.keeps_require _ _) ?_ | refine Try.keeps_bind (P := fun _ => True) ?_ ?_
    | apply Try.keeps_raise | apply Try.Keeps.ok | split | intro _

theorem State.copyBarrier_keeps {s0 : State} (s : State) (w : AC) (anyNode : Bool) (hs : s0.Keeps s) :
    Try.Keeps s0 (fun _ => True) (State.copyBarrier s w anyNode) := by
  unfold State.copyBarrier
  with_reducible repeat' first
    | assumption | refine Try.keeps_bind (State.barRef_keeps _ _ ?_) ?_ | apply Try.keeps_raise | apply Try.Keeps.ok | split
    | intro _

theorem State.issueCopy_keeps {s0 : State} (s : State) (c : Copy) (hs : s0.Keeps s) : s0.Keeps (State.issueCopy s c) := by
  unfold State.issueCopy
  with_reducible repeat' first
    | assumption | apply State.ordered_keeps | apply State.Keeps.fields

theorem State.boxCopy_keeps {s0 : State} (s : State) (w : AC) (kind : CopyKind) (hs : s0.Keeps s) :
    Try.Keeps s0 s0.Keeps (State.boxCopy s w kind) := by
  unfold State.boxCopy
  try dsimp only
  with_reducible repeat' first
    | assumption | refine Try.keeps_bind (Try.keeps_await _) ?_ | refine Try.keeps_bind (together_keeps _ _ ?_ ?_) ?_
    | refine Try.keeps_bind (checked_keeps _ ?_) ?_ | refine Try.keeps_bind (State.glyphWords_keeps _ _ ?_) ?_
    | refine Try.keeps_bind (boxChecks_keeps _ _ _ _ _ _ _ _ ?_) ?_
    | refine Try.keeps_bind (State.copyBarrier_keeps _ _ _ ?_) ?_ | apply together_keeps | apply checked_keeps
    | apply State.glyphWords_keeps | apply boxChecks_keeps | apply State.copyBarrier_keeps | apply State.issueCopy_keeps
    | apply State.advance_keeps | refine Try.keeps_bind (P := fun _ => True) ?_ ?_ | apply State.Keeps.foldl
    | apply Try.keeps_await | apply Try.Keeps.ok | intro _

theorem State.dropCopy_keeps {s0 : State} (s : State) (id : Nat) (hs : s0.Keeps s) : s0.Keeps (State.dropCopy s id) := by
  unfold State.dropCopy
  with_reducible repeat' first
    | assumption | apply State.ordered_keeps | apply State.Keeps.fields

theorem State.chunkDone_keeps {s0 : State} (s : State) (id : Nat) (k : Nat) (hs : s0.Keeps s) :
    s0.Keeps (State.chunkDone s id k) := by
  unfold State.chunkDone
  try dsimp only
  with_reducible repeat' first
    | assumption | apply State.landed_keeps | apply State.measure_keeps | apply State.issued_keeps
    | apply State.ordered_keeps | apply State.dropCopy_keeps | split | intro _ | apply State.Keeps.fields

theorem State.chunkArrive_keeps {s0 : State} (s : State) (id : Nat) (k : Nat) (c : Copy) (hs : s0.Keeps s) :
    s0.Keeps (State.chunkArrive s id k c) := by
  unfold State.chunkArrive
  try dsimp only
  with_reducible repeat' first
    | assumption | apply State.landed_keeps | apply State.arrive_keeps | apply State.testParks_keeps
    | apply State.chunkDone_keeps | apply State.sendRequest_keeps | split | intro _

theorem State.copySource_keeps {s0 : State} (s : State) (c : Copy) (fs : List Nat) (hs : s0.Keeps s) :
    Try.Keeps s0 (fun _ => True) (State.copySource s c fs) := by
  unfold State.copySource
  with_reducible repeat' first
    | assumption | exact True.intro | apply State.readElems_keeps | apply Try.Keeps.ok | apply Try.Keeps.error
    | exact Stop.Keeps.parity _ | split

theorem State.eventEnd_keeps {s0 : State} (s : State) (y1 : Try State) (hs : s0.Keeps s) (hr : Try.Keeps s0 (s0.Keeps) y1) :
    s0.Keeps (State.eventEnd s y1) := by
  unfold State.eventEnd
  split
  · cases hr; assumption
  · cases hr with | error h => cases h; exact State.held_keeps _ ‹_›
  · exact State.held_keeps _ (State.startWalk_keeps s _ _ _ hs)
  · cases hr with | error h => cases h; assumption
  · cases hr with | error h => cases h; assumption
  · exact State.held_keeps s hs
  · exact State.held_keeps s hs
  · exact State.held_keeps s hs

theorem State.event_keeps {s0 : State} (s : State) (f : State → Try State) (hs : s0.Keeps s)
    (hf : ∀ a, s0.Keeps a → Try.Keeps s0 (s0.Keeps) (f a)) : OutKeeps s0 (State.event s f) := by
  unfold State.event
  with_reducible repeat' first
    | assumption | apply hf | apply State.eventEnd_keeps | apply OutKeeps.next

theorem State.farWashed_keeps {s0 : State} (s : State) (c : Copy) (fs : List Nat) (hs : s0.Keeps s) :
    Try.Keeps s0 (fun _ => True) (State.farWashed s c fs) := by
  unfold State.farWashed
  dsimp only
  with_reducible repeat' first
    | assumption | refine Try.keeps_bind (State.check_keeps _ _ _ _ _ ?_) ?_ | apply Try.Keeps.ok | split | intro _

theorem State.landed_keeps {s0 : State} (old : State) (s : State) (id : Nat) (k : Nat) (hs : s0.Keeps old)
    (hs1 : s0.Keeps s) : s0.Keeps (State.landed old s id k) := by
  unfold State.landed
  with_reducible repeat' first
    | assumption | apply State.ordered_keeps | split

theorem State.landWindow_keeps {s0 : State} (s : State) (c : Copy) (fs : List Nat) (xs : List Nat) (hs : s0.Keeps s) :
    s0.Keeps (State.landWindow s c fs xs) := by
  unfold State.landWindow
  dsimp only
  with_reducible repeat' first
    | assumption | apply State.setTask_keeps | split

theorem State.remoteParts_keeps {s0 : State} (s : State) (c : Copy) (fs : List Nat) (xs : List Nat) (hs : s0.Keeps s) :
    Try.Keeps s0 (fun _ => True) (State.remoteParts s c fs xs) := by
  unfold State.remoteParts
  try dsimp only
  with_reducible repeat' first
    | assumption | exact True.intro | refine Try.keeps_bind (collect_keeps _ _ ?_) ?_
    | refine Try.keeps_bind (State.check_keeps _ _ _ _ _ ?_) ?_ | apply collect_keeps | apply State.check_keeps
    | apply State.runBytes_keeps | refine Try.stop_of (collect_keeps _ _ ?_) (by assumption)
    | refine Try.stop_of (State.check_keeps _ _ _ _ _ ?_) (by assumption) | refine Try.keeps_bind (P := fun _ => True) ?_ ?_
    | apply Try.Keeps.ok | split | intro _ | apply State.Keeps.fields

theorem State.writeRanges_keeps {s0 : State} (s : State) (v : View) (rs : List (Nat × Nat × Nat)) (hs : s0.Keeps s) :
    Try.Keeps s0 (s0.Keeps) (State.writeRanges s v rs) := by
  unfold State.writeRanges
  try dsimp only
  with_reducible repeat' first
    | assumption | refine Try.keeps_bind (collect_keeps _ _ ?_) ?_
    | refine Try.keeps_bind (State.check_keeps _ _ _ _ _ ?_) ?_ | refine Try.keeps_bind (State.writeRuns_keeps _ _ _ ?_) ?_
    | apply collect_keeps | apply State.check_keeps | apply State.runBytes_keeps | apply State.writeRuns_keeps
    | refine Try.keeps_bind (P := fun _ => True) ?_ ?_ | apply Try.Keeps.ok | intro _

theorem State.writeStorage_keeps {s0 : State} (bs : List (Nat × Nat)) (s : State) (r : Nat × Nat × Nat) (hs : s0.Keeps s) :
    s0.Keeps (State.writeStorage bs s r) := by
  unfold State.writeStorage
  try dsimp only
  with_reducible repeat' first
    | assumption | apply State.runBytes_keeps | apply State.writeBytes_keeps | apply State.mirrorBlock_keeps
    | apply State.Keeps.foldl | split | intro _ | apply State.Keeps.fields

theorem State.writePaged_keeps {s0 : State} (s : State) (v : View) (g : Glyph) (disp : Int) (ws : List (Int × Nat)) (hs : s0.Keeps s) :
    Try.Keeps s0 (fun p => s0.Keeps p.1) (State.writePaged s v g disp ws) := by
  unfold State.writePaged
  try dsimp only
  with_reducible repeat' first
    | assumption | refine Try.keeps_bind (collect_keeps _ _ ?_) ?_
    | refine Try.keeps_bind (State.pagedPlace_keeps _ _ _ _ ?_) ?_
    | refine Try.keeps_bind (State.storageReady_keeps _ _ _ _ ?_) ?_ | apply collect_keeps | apply State.pagedPlace_keeps
    | apply State.runBytes_keeps | apply State.storageReady_keeps | apply State.openBlock_keeps
    | apply State.writeStorage_keeps | refine Try.keeps_bind (P := fun _ => True) ?_ ?_ | apply State.Keeps.foldl
    | apply Try.Keeps.ok | intro _

theorem State.detectRuns_keeps {s0 : State} (s : State) (v : View) (rs : List (Nat × Nat × Nat)) (hs : s0.Keeps s) :
    s0.Keeps (State.detectRuns s v rs) := by
  unfold State.detectRuns
  refine .foldl rs hs fun t r ht => ?_
  split
  · refine .foldl _ ht fun u c hu => ?_
    cases u.byteKey v .write (512 * c) with
    | none => exact hu
    | some k => exact State.detectWash_keeps _ _ hu
  · exact ht

theorem State.landNear_keeps {s0 : State} (s : State) (c : Copy) (rs : List (Nat × Nat × Nat)) (hs : s0.Keeps s) :
    Try.Keeps s0 (s0.Keeps) (State.landNear s c rs) := by
  unfold State.landNear
  try dsimp only
  with_reducible repeat' first
    | assumption | refine Try.keeps_bind (State.writeRanges_keeps _ _ _ ?_) ?_ | apply State.writeRanges_keeps
    | apply State.detectRuns_keeps | refine Try.keeps_bind (P := fun _ => True) ?_ ?_ | apply Try.Keeps.ok | intro _

theorem State.landMemory_keeps {s0 : State} (s : State) (c : Copy) (fs : List Nat) (xs : List Nat) (hs : s0.Keeps s) :
    Try.Keeps s0 s0.Keeps (State.landMemory s c fs xs) := by
  unfold State.landMemory
  try dsimp only
  with_reducible repeat' first
    | assumption | refine Try.keeps_bind (State.writePaged_keeps _ _ _ _ _ ?_) ?_
    | refine Try.keeps_bind (State.landNear_keeps _ _ _ ?_) ?_ | apply State.writePaged_keeps | apply State.detectRuns_keeps
    | apply State.landNear_keeps | refine Try.stop_of (State.writePaged_keeps _ _ _ _ _ ?_) (by assumption)
    | (have hx := Try.ok_of (State.writePaged_keeps _ _ _ _ _ (by assumption)) (by assumption); exact hx)
    | refine Try.stop_of (State.landNear_keeps _ _ _ ?_) (by assumption)
    | (have hx := Try.ok_of (State.landNear_keeps _ _ _ (by assumption)) (by assumption); exact hx)
    | refine Try.keeps_bind (P := fun _ => True) ?_ ?_ | apply Try.Keeps.ok | split | intro _ | apply State.Keeps.fields

theorem State.passRemote_keeps {s0 : State} (s : State) (id : Nat) (k : Nat) (c : Copy) (fs : List Nat) (xs : List Nat)
    (hs : s0.Keeps s) : Try.Keeps s0 s0.Keeps (State.passRemote s id k c fs xs) := by
  unfold State.passRemote
  try dsimp only
  with_reducible repeat' first
    | assumption | refine Try.keeps_bind (Try.keeps_await _) ?_
    | refine Try.keeps_bind (State.remoteParts_keeps _ _ _ _ ?_) ?_
    | refine Try.keeps_bind (State.landNear_keeps _ _ _ ?_) ?_ | apply State.remoteParts_keeps | apply State.landNear_keeps
    | apply State.landed_keeps | apply State.chunkArrive_keeps | apply State.sendRequest_keeps
    | refine Try.stop_of (State.remoteParts_keeps _ _ _ _ ?_) (by assumption)
    | refine Try.stop_of (State.landNear_keeps _ _ _ ?_) (by assumption)
    | (have hx := Try.ok_of (State.landNear_keeps _ _ _ (by assumption)) (by assumption); exact hx)
    | refine Try.keeps_bind (P := fun _ => True) ?_ ?_ | apply State.Keeps.foldl | apply Try.keeps_await
    | apply Try.Keeps.ok | split | intro _

theorem State.passChunk_keeps {s0 : State} (s : State) (id : Nat) (k : Nat) (c : Copy) (hs : s0.Keeps s) :
    Try.Keeps s0 s0.Keeps (State.passChunk s id k c) := by
  unfold State.passChunk
  dsimp only
  with_reducible repeat' first
    | assumption | refine Try.keeps_bind (State.copySource_keeps _ _ _ ?_) ?_
    | refine Try.keeps_bind (State.landMemory_keeps _ _ _ _ ?_) ?_ | apply State.chunkArrive_keeps
    | apply State.landWindow_keeps | apply State.passRemote_keeps | apply State.landed_keeps | apply Try.Keeps.ok | split
    | intro _

theorem State.landWashed_keeps {s0 : State} (s : State) (c : Copy) (fs : List Nat) (hs : s0.Keeps s) :
    Try.Keeps s0 (OptKeeps s0.Keeps) (State.landWashed s c fs) := by
  unfold State.landWashed
  dsimp only
  with_reducible repeat' first
    | assumption | refine Try.keeps_bind (State.check_keeps _ _ _ _ _ ?_) ?_ | apply State.storeWashed_keeps
    | apply Try.Keeps.ok | apply OptKeeps.some | exact OptKeeps.none | split | intro _

theorem State.runChunk_keeps {s0 : State} (s : State) (id : Nat) (k : Nat) (c : Copy) (hs : s0.Keeps s) :
    Try.Keeps s0 s0.Keeps (State.runChunk s id k c) := by
  unfold State.runChunk
  refine Try.keeps_bind (Try.keeps_require _ _) (fun _ _ => ?_)
  refine Try.keeps_bind (Try.keeps_await _) (fun _ _ => ?_)
  have tail (w : Option State) (far : Option (Nat × RemoteOp)) : OptKeeps s0.Keeps w → Try.Keeps s0 s0.Keeps
      (match w, far with
        | some t, _ => .ok ((s.landed t id k).chunkArrive id k c)
        | none, some (node, op) => do
          await (s.opClear node c.ident op)
          .ok (s.sendRequest node op Know.none (.copy id k) c.ident c.pc)
        | none, none => s.passChunk id k c) := by
    intro hw
    cases hw with
    | some h => exact .ok (State.chunkArrive_keeps _ _ _ _ (State.landed_keeps _ _ _ _ hs h))
    | none =>
      cases far with
      | some x => exact Try.keeps_bind (Try.keeps_await _) fun _ _ => .ok (State.sendRequest_keeps _ _ _ _ _ _ _ hs)
      | none => exact State.passChunk_keeps s id k c hs
  dsimp only
  have far (w : Option State) (hw : OptKeeps s0.Keeps w) := fun x (_ : True) => tail w x hw
  split
  · refine Try.keeps_bind (State.landWashed_keeps s c _ hs) fun w hw => ?_
    split
    · exact Try.keeps_bind (State.farWashed_keeps s c _ hs) (far w hw)
    · exact Try.keeps_bind (Try.Keeps.ok trivial) (far w hw)
  · refine Try.keeps_bind (P := OptKeeps s0.Keeps) (Try.Keeps.ok .none) fun w hw => ?_
    split
    · exact Try.keeps_bind (State.farWashed_keeps s c _ hs) (far w hw)
    · exact Try.keeps_bind (Try.Keeps.ok trivial) (far w hw)

theorem State.stopCopy_keeps {s0 : State} (s : State) (id : Nat) (k : Nat) (c : Copy) (cause : Cause) (va : Nat)
    (path : Bool) (hs : s0.Keeps s) : s0.Keeps (State.stopCopy s id k c cause va path) := by
  unfold State.stopCopy
  with_reducible repeat' first
    | assumption | apply State.post_keeps | apply State.Keeps.fields

theorem State.landChunk_keeps {s0 : State} (s : State) (id k : Nat) (c : Copy) (hs : s0.Keeps s) :
    Try.Keeps s0 (s0.Keeps) (State.landChunk s id k c) := by
  unfold State.landChunk
  try dsimp only
  with_reducible repeat' first
    | assumption | refine Try.keeps_bind (Try.keeps_await _) ?_ | refine Try.keeps_bind (State.runChunk_keeps _ _ _ _ ?_) ?_
    | refine Try.keeps_bind (State.answer_keeps _ ?_) ?_ | apply State.landed_keeps | apply State.runChunk_keeps
    | apply State.dropFailed_keeps | apply State.stopCopy_keeps | apply State.answer_keeps | apply State.arrive_keeps
    | apply State.chunkDone_keeps | apply State.chunkArrive_keeps
    | refine Try.stop_of (State.runChunk_keeps _ _ _ _ ?_) (by assumption)
    | (have hx := Try.ok_of (State.runChunk_keeps _ _ _ _ (by assumption)) (by assumption); exact hx)
    | refine Try.stop_of (State.answer_keeps _ ?_) (by assumption) | apply Try.keeps_await | apply Try.Keeps.ok
    | apply Try.Keeps.error | exact Stop.Keeps.trap _ _ | apply Stop.Keeps.path | split | intro _ | apply State.Keeps.fields

theorem State.landEarly_keeps {s0 : State} (s : State) (id : Nat) (k : Nat) (j : Nat) (c : Copy) (hs : s0.Keeps s) :
    Try.Keeps s0 s0.Keeps (State.landEarly s id k j c) := by
  unfold State.landEarly
  try dsimp only
  with_reducible repeat' first
    | assumption | refine Try.keeps_bind (Try.keeps_await _) ?_ | refine Try.keeps_bind (need_keeps _) ?_
    | refine Try.keeps_bind (need_keeps _) ?_ | refine Try.keeps_bind (State.copySource_keeps _ _ _ ?_) ?_
    | refine Try.keeps_bind (State.remoteParts_keeps _ _ _ _ ?_) ?_
    | refine Try.keeps_bind (State.landNear_keeps _ _ _ ?_) ?_ | apply State.landed_keeps | apply need_keeps
    | apply State.copySource_keeps | apply State.remoteParts_keeps | apply State.landNear_keeps
    | refine Try.keeps_bind (P := fun _ => True) ?_ ?_ | apply Try.keeps_await | apply Try.Keeps.ok | intro _
    | apply State.Keeps.fields

theorem execCpy_keeps {s0 : State} (w : AC) (s : State) (hs : s0.Keeps s) : OutKeeps s0 (execCpy w s) := by
  unfold execCpy
  with_reducible repeat' first
    | assumption | apply State.aWord_keeps | apply State.boxCopy_keeps | intro _

theorem State.windowCopy_keeps {s0 : State} (s : State) (t : Task) (w : AC) (kind : CopyKind) (glyph : BitVec 10)
    (hs : s0.Keeps s) : Try.Keeps s0 s0.Keeps (State.windowCopy s t w kind glyph) := by
  unfold State.windowCopy
  dsimp only
  with_reducible repeat' first
    | assumption | refine Try.keeps_bind (State.useGlyph_keeps _ _ ?_) ?_
    | refine Try.keeps_bind (State.copyBarrier_keeps _ _ _ ?_) ?_ | refine Try.keeps_bind (Try.keeps_require _ _) ?_
    | refine Try.keeps_bind (Try.keeps_await _) ?_ | apply State.advance_keeps | apply State.issueCopy_keeps
    | apply Try.Keeps.ok | split | intro _

theorem execCpyvIn_keeps {s0 : State} (w : AC) (s : State) (hs : s0.Keeps s) : OutKeeps s0 (execCpyvIn w s) := by
  unfold execCpyvIn
  with_reducible repeat' first
    | assumption | apply State.taskWord_keeps | apply State.windowCopy_keeps | intro _

theorem execCpyvOut_keeps {s0 : State} (w : AC) (s : State) (hs : s0.Keeps s) : OutKeeps s0 (execCpyvOut w s) := by
  unfold execCpyvOut
  with_reducible repeat' first
    | assumption | apply State.taskWord_keeps | apply State.windowCopy_keeps | intro _

theorem execCpyb_keeps {s0 : State} (w : AC) (s : State) (hs : s0.Keeps s) : OutKeeps s0 (execCpyb w s) := by
  unfold execCpyb
  dsimp only
  with_reducible repeat' first
    | assumption | refine Try.keeps_bind (State.useGlyph_keeps _ _ ?_) ?_
    | refine Try.keeps_bind (State.copyBarrier_keeps _ _ _ ?_) ?_ | refine Try.keeps_bind (Try.keeps_require _ _) ?_
    | refine Try.keeps_bind (Try.keeps_await _) ?_ | apply State.taskWord_keeps | apply State.advance_keeps
    | apply State.issueCopy_keeps | apply Try.keeps_raise | apply Try.Keeps.ok | split | intro _

theorem execCpyx_keeps {s0 : State} (w : AC) (s : State) (hs : s0.Keeps s) : OutKeeps s0 (execCpyx w s) := by
  unfold execCpyx
  with_reducible repeat' first
    | assumption | apply State.taskWord_keeps | apply State.boxCopy_keeps | intro _

theorem execCopyChunkLanding_keeps {s0 : State} (s : State) (hs : s0.Keeps s) : OutKeeps s0 (execCopyChunkLanding s) := by
  unfold execCopyChunkLanding
  with_reducible repeat' first
    | assumption | refine Try.keeps_bind (need_keeps _) ?_ | apply State.event_keeps | apply State.landChunk_keeps
    | apply State.landEarly_keeps | split | intro _

theorem execPagedWrite_keeps {s0 : State} (s : State) (hs : s0.Keeps s) : OutKeeps s0 (execPagedWrite s) := by
  unfold execPagedWrite
  with_reducible repeat' first
    | assumption | refine Try.keeps_bind (need_keeps _) ?_ | refine Try.keeps_bind (Try.keeps_await _) ?_
    | apply State.event_keeps | apply State.landChunk_keeps | intro _

/-! ## Csr -/

theorem State.monWrite_keeps {s0 : State} (s : State) (core : Nat) (u : Nat) (o : Nat) (v : Word) (hs : s0.Keeps s) :
    Try.Keeps s0 s0.Keeps (State.monWrite s core u o v) := by
  unfold State.monWrite
  dsimp only
  with_reducible repeat' first
    | assumption | refine Try.keeps_bind (Try.keeps_require _ _) ?_ | apply State.setMonitor_keeps | apply Try.keeps_raise
    | apply Try.Keeps.ok | split | intro _

theorem State.csrWrite_keeps {s0 : State} (s : State) (n : Nat) (v : Word) (hs : s0.Keeps s) :
    Try.Keeps s0 s0.Keeps (State.csrWrite s n v) := by
  unfold State.csrWrite
  with_reducible repeat' first
    | assumption | split | refine Try.keeps_bind (Try.keeps_require _ _) ?_ | apply State.monWrite_keeps
    | apply State.setTask_keeps | apply Try.keeps_raise | apply Try.Keeps.ok | intro _ | apply State.Keeps.fields

end Sys2Proof.Machine
end

