-- ==== Sys2Proof/Laws/Keeps4.lean ====
section
/-! SUPPORT. What every operation and meaning of System, Matrix, Sections keeps (`State.Keeps`). -/

namespace Sys2Proof.Machine

/-! ## System -/

theorem State.endRegion_keeps {s0 : State} (s : State) (id : Nat) (hs : s0.Keeps s) : s0.Keeps (State.endRegion s id) := by
  unfold State.endRegion
  dsimp only
  with_reducible repeat' first
    | assumption | apply State.testParks_keeps | apply State.setTask_keeps | split | apply State.Keeps.fields

theorem State.startPattern_keeps {s0 : State} (s : State) (hs : s0.Keeps s) : s0.Keeps (State.startPattern s) := by
  unfold State.startPattern
  with_reducible repeat' first
    | assumption | split | apply State.Keeps.fields

theorem State.supervisor_keeps {s0 : State} (s : State) (hs : s0.Keeps s) :
    Try.Keeps s0 (fun _ => True) (State.supervisor s) := by
  unfold State.supervisor
  with_reducible repeat' first
    | apply Try.keeps_require

theorem State.enqueue_keeps {s0 : State} (s : State) (w : AS) (action : Nat) (hs : s0.Keeps s) :
    OutKeeps s0 (State.enqueue s w action) := by
  unfold State.enqueue
  dsimp only
  with_reducible repeat' first
    | assumption | refine Try.keeps_bind (State.supervisor_keeps _ ?_) ?_
    | refine Try.keeps_bind (State.viewRead_keeps _ _ _ _ ?_) ?_ | refine Try.keeps_bind (Try.keeps_require _ _) ?_
    | refine Try.keeps_bind (Try.keeps_await _) ?_ | apply State.aWord_keeps | apply State.advance_keeps
    | apply State.testQueues_keeps | apply State.ordered_keeps | apply Try.Keeps.ok | apply Try.Keeps.error
    | exact Stop.Keeps.trap _ _ | split | intro _ | apply State.Keeps.fields

theorem State.mbxrRead_keeps {s0 : State} (s : State) (w : AS) (hs : s0.Keeps s) :
    Try.Keeps s0 (fun p => s0.Keeps p.1) (State.mbxrRead s w) := by
  unfold State.mbxrRead
  dsimp only
  with_reducible repeat' first
    | assumption | refine Try.keeps_bind (State.viewWrite_keeps _ _ _ _ ?_) ?_ | apply Try.Keeps.ok | apply Try.Keeps.error
    | exact Stop.Keeps.trap _ _ | split | intro _

theorem State.park_keeps {s0 : State} (s : State) (id : Nat) (t : Task) (c : ParkCond) (hs : s0.Keeps s) :
    Try.Keeps s0 s0.Keeps (State.park s id t c) := by
  unfold State.park
  with_reducible repeat' first
    | assumption | apply State.advance_keeps | apply State.onTask_keeps | apply State.waitOn_keeps | apply Try.Keeps.ok
    | split

theorem State.proofStart_keeps {s0 : State} (s : State) (core : Nat) (hs : s0.Keeps s) :
    s0.Keeps (State.proofStart s core).2 := by
  unfold State.proofStart
  dsimp only
  with_reducible repeat' first
    | assumption | split | apply State.Keeps.fields

theorem State.proofAbort_keeps {s0 : State} (s : State) (core : Nat) (hs : s0.Keeps s) :
    s0.Keeps (State.proofAbort s core).2 := by
  unfold State.proofAbort
  with_reducible repeat' first
    | assumption | split | apply State.Keeps.fields

theorem State.proof_keeps {s0 : State} (s : State) (w : AS) (hs : s0.Keeps s) : OutKeeps s0 (State.proof s w) := by
  unfold State.proof
  try dsimp only
  with_reducible repeat' first
    | assumption | exact True.intro | refine Try.keeps_bind (Try.keeps_require _ _) ?_
    | refine Try.keeps_bind (Try.keeps_await _) ?_ | refine Try.keeps_bind (State.supervisor_keeps _ ?_) ?_
    | apply State.aWord_keeps | apply State.supervisor_keeps | apply State.proofStart_keeps | apply State.proofAbort_keeps
    | apply State.setReg_keeps | apply State.advance_keeps
    | refine Try.stop_of (State.supervisor_keeps _ ?_) (by assumption) | apply Try.keeps_require | apply Try.keeps_await
    | apply Try.Keeps.ok | split | intro _ | apply OutKeeps.next

theorem State.raiseVector_keeps {s0 : State} (s : State) (v : Nat) (hs : s0.Keeps s) : s0.Keeps (State.raiseVector s v) := by
  unfold State.raiseVector
  dsimp only
  with_reducible repeat' first
    | assumption | apply State.Keeps.fields

theorem execInkq_keeps {s0 : State} (w : AS) (s : State) (hs : s0.Keeps s) : OutKeeps s0 (execInkq w s) := by
  unfold execInkq
  dsimp only
  with_reducible repeat' first
    | assumption | refine Try.keeps_bind (Task.notInHandler_keeps _) ?_ | refine Try.keeps_bind (Try.keeps_require _ _) ?_
    | apply State.taskWord_keeps | apply State.advance_keeps | apply State.endWait_keeps | apply State.waitOn_keeps
    | apply State.endRegion_keeps | apply Try.Keeps.ok | apply Try.Keeps.error | apply Stop.Keeps.pend | split | intro _
    | apply State.Keeps.fields

theorem execInkr_keeps {s0 : State} (y0 : AS) (s : State) (hs : s0.Keeps s) : OutKeeps s0 (execInkr y0 s) := by
  unfold execInkr
  with_reducible repeat' first
    | assumption | apply State.taskWord_keeps | apply State.advance_keeps | apply State.endRegion_keeps | apply Try.Keeps.ok
    | intro _

theorem execTrap_keeps {s0 : State} (y0 : AS) (s : State) (hs : s0.Keeps s) : OutKeeps s0 (execTrap y0 s) := by
  unfold execTrap
  with_reducible repeat' first
    | assumption | apply State.aWord_keeps | apply Try.keeps_raise | intro _

theorem execTret_keeps {s0 : State} (w : AS) (s : State) (hs : s0.Keeps s) : OutKeeps s0 (execTret w s) := by
  unfold execTret
  with_reducible repeat' first
    | assumption | apply State.aWord_keeps
    | (have hx := OptKeeps.of (State.trapReturn_keeps _ _ (by assumption)) (by assumption); exact hx) | apply Try.keeps_raise
    | apply Try.Keeps.ok | split | intro _

theorem execCsrr_keeps {s0 : State} (w : AS) (s : State) (hs : s0.Keeps s) : OutKeeps s0 (execCsrr w s) := by
  unfold execCsrr
  with_reducible repeat' first
    | assumption | apply State.aWord_keeps | apply State.advance_keeps | apply State.setReg_keeps | apply Try.keeps_raise
    | apply Try.Keeps.ok | split | intro _

theorem execCsrw_keeps {s0 : State} (w : AS) (s : State) (hs : s0.Keeps s) : OutKeeps s0 (execCsrw w s) := by
  unfold execCsrw
  with_reducible repeat' first
    | assumption | refine Try.keeps_bind (State.csrWrite_keeps _ _ _ ?_) ?_ | apply State.aWord_keeps
    | apply State.advance_keeps | apply Try.Keeps.ok | intro _

theorem execTsc_keeps {s0 : State} (w : AS) (s : State) (hs : s0.Keeps s) : OutKeeps s0 (execTsc w s) := by
  unfold execTsc
  with_reducible repeat' first
    | assumption | apply State.aWord_keeps | apply State.advance_keeps | apply State.setReg_keeps | apply Try.Keeps.ok
    | intro _

theorem execParkBar_keeps {s0 : State} (w : AS) (s : State) (hs : s0.Keeps s) : OutKeeps s0 (execParkBar w s) := by
  unfold execParkBar
  with_reducible repeat' first
    | assumption | refine Try.keeps_bind (Task.notInHandler_keeps _) ?_ | refine Try.keeps_bind (Try.keeps_require _ _) ?_
    | apply State.taskWord_keeps | apply State.park_keeps | intro _

theorem execParkSem_keeps {s0 : State} (w : AS) (s : State) (hs : s0.Keeps s) : OutKeeps s0 (execParkSem w s) := by
  unfold execParkSem
  with_reducible repeat' first
    | assumption | refine Try.keeps_bind (Task.notInHandler_keeps _) ?_ | refine Try.keeps_bind (Try.keeps_require _ _) ?_
    | apply State.taskWord_keeps | apply State.park_keeps | intro _

theorem execParkMbx_keeps {s0 : State} (w : AS) (s : State) (hs : s0.Keeps s) : OutKeeps s0 (execParkMbx w s) := by
  unfold execParkMbx
  with_reducible repeat' first
    | assumption | refine Try.keeps_bind (Task.notInHandler_keeps _) ?_ | refine Try.keeps_bind (Try.keeps_require _ _) ?_
    | apply State.taskWord_keeps | apply State.park_keeps | intro _

theorem execParkInk_keeps {s0 : State} (w : AS) (s : State) (hs : s0.Keeps s) : OutKeeps s0 (execParkInk w s) := by
  unfold execParkInk
  with_reducible repeat' first
    | assumption | refine Try.keeps_bind (Task.notInHandler_keeps _) ?_ | apply State.taskWord_keeps | apply State.park_keeps
    | intro _

theorem execYield_keeps {s0 : State} (y0 : AS) (s : State) (hs : s0.Keeps s) : OutKeeps s0 (execYield y0 s) := by
  unfold execYield
  dsimp only
  with_reducible repeat' first
    | assumption | refine Try.keeps_bind (Task.notInHandler_keeps _) ?_ | apply State.taskWord_keeps
    | apply State.advance_keeps | apply State.onTask_keeps | apply Try.Keeps.ok | split | intro _

theorem execQentLaunch_keeps {s0 : State} (w : AS) (s : State) (hs : s0.Keeps s) : OutKeeps s0 (execQentLaunch w s) := by
  unfold execQentLaunch
  with_reducible repeat' first
    | assumption | apply State.enqueue_keeps

theorem execQentCopy_keeps {s0 : State} (w : AS) (s : State) (hs : s0.Keeps s) : OutKeeps s0 (execQentCopy w s) := by
  unfold execQentCopy
  with_reducible repeat' first
    | assumption | apply State.enqueue_keeps

theorem execQentSem_keeps {s0 : State} (w : AS) (s : State) (hs : s0.Keeps s) : OutKeeps s0 (execQentSem w s) := by
  unfold execQentSem
  with_reducible repeat' first
    | assumption | apply State.enqueue_keeps

theorem execQentHirq_keeps {s0 : State} (w : AS) (s : State) (hs : s0.Keeps s) : OutKeeps s0 (execQentHirq w s) := by
  unfold execQentHirq
  with_reducible repeat' first
    | assumption | apply State.enqueue_keeps

theorem execMbxr_keeps {s0 : State} (w : AS) (s : State) (hs : s0.Keeps s) : OutKeeps s0 (execMbxr w s) := by
  refine State.aWord_keeps _ _ _ hs fun s hs => ?_
  have h : Try.Keeps s0 (OptKeeps fun p : State × Word => s0.Keeps p.1) (lasting (s.mbxrRead w)) := by
    unfold lasting
    split
    · exact .ok (.some (Try.ok_of (P := fun p : State × Word => s0.Keeps p.1) (State.mbxrRead_keeps s w hs) ‹_›))
    · exact .ok .none
    · exact .error (Try.stop_of (State.mbxrRead_keeps s w hs) ‹_›)
  refine Try.keeps_bind h fun o ho => ?_
  cases ho with
  | some h => exact .ok (State.advance_keeps _ (State.launchReg_keeps _ _ _ h))
  | none => exact .ok (State.advance_keeps _ (State.launchBad_keeps _ _ _ _ hs))

theorem State.setMailbox_keeps {s0 : State} (s : State) (n : Nat) (m : Mailbox) (hs : s0.Keeps s) :
    s0.Keeps (State.setMailbox s n m) := by
  unfold State.setMailbox
  dsimp only
  with_reducible repeat' first
    | assumption | apply State.Keeps.fields

theorem execMbxs_keeps {s0 : State} (w : AS) (s : State) (hs : s0.Keeps s) : OutKeeps s0 (execMbxs w s) := by
  unfold execMbxs
  dsimp only
  with_reducible repeat' first
    | assumption | refine Try.keeps_bind (State.viewRead_keeps _ _ _ _ ?_) ?_
    | refine Try.keeps_bind (Try.keeps_require _ _) ?_ | apply State.aWord_keeps | apply State.setMailbox_keeps
    | apply State.advance_keeps | apply State.raiseVector_keeps | apply State.releaseHost_keeps | apply Try.Keeps.ok
    | apply Try.Keeps.error | exact Stop.Keeps.trap _ _ | split | intro _ | apply State.Keeps.fields

theorem execHirq_keeps {s0 : State} (w : AS) (s : State) (hs : s0.Keeps s) : OutKeeps s0 (execHirq w s) := by
  unfold execHirq
  with_reducible repeat' first
    | assumption | apply State.aWord_keeps | apply State.advance_keeps | apply State.raiseVector_keeps
    | apply State.releaseHost_keeps | apply Try.Keeps.ok | intro _

theorem execPreempt_keeps {s0 : State} (w : AS) (s : State) (hs : s0.Keeps s) : OutKeeps s0 (execPreempt w s) := by
  unfold execPreempt
  dsimp only
  with_reducible repeat' first
    | assumption | refine Try.keeps_bind (State.supervisor_keeps _ ?_) ?_ | refine Try.keeps_bind (Try.keeps_require _ _) ?_
    | apply State.aWord_keeps | apply State.advance_keeps | apply State.setReg_keeps | apply State.setTask_keeps
    | apply Try.Keeps.ok | split | intro _

theorem execProofStart_keeps {s0 : State} (w : AS) (s : State) (hs : s0.Keeps s) : OutKeeps s0 (execProofStart w s) := by
  unfold execProofStart
  with_reducible repeat' first
    | assumption | apply State.proof_keeps

theorem execProofAbort_keeps {s0 : State} (w : AS) (s : State) (hs : s0.Keeps s) : OutKeeps s0 (execProofAbort w s) := by
  unfold execProofAbort
  with_reducible repeat' first
    | assumption | apply State.proof_keeps

theorem execSampm_keeps {s0 : State} (w : AS) (s : State) (hs : s0.Keeps s) : OutKeeps s0 (execSampm w s) := by
  unfold execSampm
  dsimp only
  with_reducible repeat' first
    | assumption | refine Try.keeps_bind (Try.keeps_require _ _) ?_ | apply State.taskWord_keeps | apply State.advance_keeps
    | apply State.setTask_keeps | apply Try.Keeps.ok | apply Try.Keeps.error | exact Stop.Keeps.trap _ _ | split | intro _

/-! ## Matrix -/

theorem State.mTask_keeps {s0 : State} (s : State) (f : State → Nat → Task → Try State) (hs : s0.Keeps s)
    (hf : ∀ a b c, s0.Keeps a → Try.Keeps s0 (s0.Keeps) (f a b c)) : OutKeeps s0 (State.mTask s f) := by
  unfold State.mTask
  with_reducible repeat' first
    | assumption | apply hf | apply State.mWord_keeps | apply Try.keeps_raise | split | intro _

theorem State.arrayCommand_keeps {s0 : State} (s : State) (w : MC) (mk : MC → Instr) (hs : s0.Keeps s) :
    OutKeeps s0 (State.arrayCommand s w mk) := by
  unfold State.arrayCommand
  dsimp only
  with_reducible repeat' first
    | assumption | refine Try.keeps_bind (Try.keeps_require _ _) ?_ | refine Try.keeps_bind (Try.keeps_await _) ?_
    | apply State.mTask_keeps | apply State.ordered_keeps | apply State.setTask_keeps | apply Try.Keeps.ok | intro _

theorem State.arrayTrap_keeps {s0 : State} (s : State) (id : Nat) (t : Task) (c : Cmd) (cause : Cause) (va : Nat)
    (hs : s0.Keeps s) : s0.Keeps (State.arrayTrap s id t c cause va) := by
  unfold State.arrayTrap
  with_reducible repeat' first
    | assumption | apply State.trapNaming_keeps | apply State.onTask_keeps

theorem State.matrixGlyph_keeps {s0 : State} (s : State) (v : View) (t : Task) (n : BitVec 10) (hs : s0.Keeps s) :
    Try.Keeps s0 (fun _ => True) (State.matrixGlyph s v t n) := by
  unfold State.matrixGlyph
  with_reducible repeat' first
    | assumption | refine Try.keeps_bind (State.viewRead_keeps _ _ _ _ ?_) ?_ | apply Try.Keeps.ok | intro _

theorem State.commandGlyphs_keeps {s0 : State} (s : State) (v : View) (t : Task) (c : Cmd) (hs : s0.Keeps s) :
    Try.Keeps s0 (fun _ => True) (State.commandGlyphs s v t c) := by
  unfold State.commandGlyphs
  with_reducible repeat' first
    | assumption | exact True.intro | refine Try.keeps_bind (State.matrixGlyph_keeps _ _ _ _ ?_) ?_
    | refine Try.keeps_bind (Try.keeps_require _ _) ?_ | apply Try.Keeps.ok | split | intro _

theorem State.matrixElem_keeps {s0 : State} (s : State) (v : View) (g : Glyph) (x : Int) (y : Int) (hs : s0.Keeps s) :
    Try.Keeps s0 (fun _ => True) (State.matrixElem s v g x y) := by
  unfold State.matrixElem
  dsimp only
  with_reducible repeat' first
    | assumption | exact True.intro | refine Try.keeps_bind (State.readElem_keeps _ _ _ _ _ ?_) ?_
    | refine Try.keeps_bind (State.viewRead_keeps _ _ _ _ ?_) ?_ | apply Try.Keeps.ok | split | intro _

theorem State.matrixElems_keeps {s0 : State} (s : State) (v : View) (g : Glyph) (y3 : List (Int × Int)) (hs : s0.Keeps s) :
    Try.Keeps s0 (fun _ => True) (State.matrixElems s v g y3) := by
  induction y3 with
  | nil =>
    unfold State.matrixElems
    with_reducible repeat' first
      | assumption | exact True.intro | refine Try.keeps_bind (State.matrixElem_keeps _ _ _ _ _ ?_) ?_ | apply Try.Keeps.ok
      | intro _
  | cons z zs ih =>
    unfold State.matrixElems
    with_reducible repeat' first
      | assumption | exact True.intro | refine Try.keeps_bind ih ?_
      | refine Try.keeps_bind (State.matrixElem_keeps _ _ _ _ _ ?_) ?_ | apply Try.Keeps.ok | intro _

theorem State.mulChunk.rows_keeps {s0 : State} (s : State) (v : View) (g : Glyph) (f : Nat → List (Int × Int))
    (y4 : List Nat) (hs : s0.Keeps s) : Try.Keeps s0 (fun _ => True) (State.mulChunk.rows s v g f y4) := by
  induction y4 with
  | nil =>
    unfold State.mulChunk.rows
    with_reducible repeat' first
      | assumption | exact True.intro | refine Try.keeps_bind (State.matrixElems_keeps _ _ _ _ ?_) ?_ | apply Try.Keeps.ok
      | intro _
  | cons z zs ih =>
    unfold State.mulChunk.rows
    with_reducible repeat' first
      | assumption | exact True.intro | refine Try.keeps_bind ih ?_
      | refine Try.keeps_bind (State.matrixElems_keeps _ _ _ _ ?_) ?_ | apply Try.Keeps.ok | intro _

theorem State.setTile_keeps {s0 : State} (s : State) (cluster : Nat) (tile : Nat) (f : Nat → Nat → BitVec 32)
    (hs : s0.Keeps s) : s0.Keeps (State.setTile s cluster tile f) := by
  unfold State.setTile
  dsimp only
  with_reducible repeat' first
    | assumption | apply State.Keeps.fields

theorem State.mulChunk_keeps {s0 : State} (s : State) (v : View) (cluster : Nat) (c : Cmd) (w : MC) (ga : Glyph)
    (gb : Glyph) (j : Nat) (hs : s0.Keeps s) :
    Try.Keeps s0 (fun p => s0.Keeps p.1) (State.mulChunk s v cluster c w ga gb j) := by
  unfold State.mulChunk
  dsimp only
  with_reducible repeat' first
    | assumption | split | refine Try.keeps_bind (State.mulChunk.rows_keeps _ _ _ _ _ ?_) ?_ | apply State.setTile_keeps
    | apply Try.Keeps.ok | intro _

theorem State.setRow_keeps {s0 : State} (s : State) (cluster : Nat) (tile : Nat) (m : Nat) (f : Nat → BitVec 32)
    (hs : s0.Keeps s) : s0.Keeps (State.setRow s cluster tile m f) := by
  unfold State.setRow
  dsimp only
  with_reducible repeat' first
    | assumption | apply State.Keeps.fields

theorem State.mldRow_keeps {s0 : State} (s : State) (v : View) (cluster : Nat) (c : Cmd) (w : MC) (g : Glyph) (m : Nat)
    (hs : s0.Keeps s) : Try.Keeps s0 (fun p => s0.Keeps p.1) (State.mldRow s v cluster c w g m) := by
  unfold State.mldRow
  dsimp only
  with_reducible repeat' first
    | assumption | refine Try.keeps_bind (State.matrixElems_keeps _ _ _ _ ?_) ?_ | apply State.setRow_keeps
    | apply Try.Keeps.ok | intro _

theorem State.writeTogether_keeps {s0 : State} (s : State) (v : View) (g : Glyph) (disp : Int) (ws : List (Int × Nat)) (hs : s0.Keeps s) :
    Try.Keeps s0 (s0.Keeps) (State.writeTogether s v g disp ws) := by
  unfold State.writeTogether
  try dsimp only
  with_reducible repeat' first
    | assumption | refine Try.keeps_bind (State.writePaged_keeps _ _ _ _ _ ?_) ?_
    | refine Try.keeps_bind (State.writeRanges_keeps _ _ _ ?_) ?_ | apply State.writePaged_keeps
    | apply State.writeRanges_keeps | refine Try.stop_of (State.writePaged_keeps _ _ _ _ _ ?_) (by assumption)
    | (have hx := Try.ok_of (State.writePaged_keeps _ _ _ _ _ (by assumption)) (by assumption); exact hx)
    | refine Try.stop_of (State.writeRanges_keeps _ _ _ ?_) (by assumption)
    | (have hx := Try.ok_of (State.writeRanges_keeps _ _ _ (by assumption)) (by assumption); exact hx)
    | refine Try.keeps_bind (P := fun _ => True) ?_ ?_ | apply Try.Keeps.ok | split | intro _

theorem State.putElems_keeps {s0 : State} (s : State) (v : View) (g : Glyph) (es : List ((Int × Int) × Nat))
    (hs : s0.Keeps s) : Try.Keeps s0 s0.Keeps (State.putElems s v g es) := by
  unfold State.putElems
  try dsimp only
  with_reducible repeat' first
    | assumption | refine Try.keeps_bind (State.writeTogether_keeps _ _ _ _ _ ?_) ?_ | apply State.writeTogether_keeps
    | apply Try.Keeps.ok | intro _

theorem State.mstRow_keeps {s0 : State} (s : State) (v : View) (cluster : Nat) (c : Cmd) (w : MC) (g : Glyph) (m : Nat)
    (hs : s0.Keeps s) : Try.Keeps s0 (fun p => s0.Keeps p.1) (State.mstRow s v cluster c w g m) := by
  unfold State.mstRow
  dsimp only
  with_reducible repeat' first
    | assumption | refine Try.keeps_bind (State.putElems_keeps _ _ _ _ ?_) ?_ | apply Try.Keeps.ok | intro _

theorem State.mstBlock_keeps {s0 : State} (s : State) (v : View) (g : Glyph) (rnd : Nat)
    (es : List ((Int × Int) × BitVec 32)) (hs : s0.Keeps s) :
    Try.Keeps s0 (fun p => s0.Keeps p.1) (State.mstBlock s v g rnd es) := by
  unfold State.mstBlock
  dsimp only
  with_reducible repeat' first
    | assumption | refine Try.keeps_bind (State.check_keeps _ _ _ _ _ ?_) ?_
    | refine Try.keeps_bind (State.putElems_keeps _ _ _ _ ?_) ?_
    | refine Try.keeps_bind (State.viewWrite_keeps _ _ _ _ ?_) ?_ | apply Try.Keeps.ok | split | intro _

theorem State.mstBlocks_keeps {s0 : State} (s : State) (v : View) (g : Glyph) (rnd : Nat)
    (y4 : List (List ((Int × Int) × BitVec 32))) (y5 : Flags) (hs : s0.Keeps s) :
    Try.Keeps s0 (fun p => s0.Keeps p.1) (State.mstBlocks s v g rnd y4 y5) := by
  induction y4 generalizing s y5 with
  | nil =>
    unfold State.mstBlocks
    with_reducible repeat' first
      | assumption | refine Try.keeps_bind (State.mstBlock_keeps _ _ _ _ _ ?_) ?_ | apply Try.Keeps.ok | intro _
  | cons z zs ih =>
    unfold State.mstBlocks
    with_reducible repeat' first
      | assumption | apply ih | refine Try.keeps_bind (State.mstBlock_keeps _ _ _ _ _ ?_) ?_ | apply Try.Keeps.ok | intro _

theorem State.mstGroup_keeps {s0 : State} (s : State) (v : View) (cluster : Nat) (c : Cmd) (w : MC) (g : Glyph) (r : Nat)
    (hs : s0.Keeps s) : Try.Keeps s0 (fun p => s0.Keeps p.1) (State.mstGroup s v cluster c w g r) := by
  unfold State.mstGroup
  dsimp only
  with_reducible repeat' first
    | assumption | apply State.mstBlocks_keeps

theorem State.soundUnit_keeps {s0 : State} (s : State) (v : View) (t : Task) (c : Cmd) (gs : List Glyph) (r : Nat)
    (hs : s0.Keeps s) : Try.Keeps s0 (fun p => s0.Keeps p.1) (State.soundUnit s v t c gs r) := by
  unfold State.soundUnit
  try dsimp only
  with_reducible repeat' first
    | assumption | apply State.mulChunk_keeps | apply State.mldRow_keeps | apply State.mstRow_keeps
    | apply State.mstGroup_keeps | apply State.setRow_keeps
    | refine Try.stop_of (State.mulChunk_keeps _ _ _ _ _ _ _ _ ?_) (by assumption)
    | (have hx := Try.ok_of (State.mulChunk_keeps _ _ _ _ _ _ _ _ (by assumption)) (by assumption); exact hx)
    | refine Try.stop_of (State.mldRow_keeps _ _ _ _ _ _ _ ?_) (by assumption)
    | (have hx := Try.ok_of (State.mldRow_keeps _ _ _ _ _ _ _ (by assumption)) (by assumption); exact hx)
    | refine Try.stop_of (State.mstRow_keeps _ _ _ _ _ _ _ ?_) (by assumption)
    | (have hx := Try.ok_of (State.mstRow_keeps _ _ _ _ _ _ _ (by assumption)) (by assumption); exact hx)
    | refine Try.stop_of (State.mstGroup_keeps _ _ _ _ _ _ _ ?_) (by assumption)
    | (have hx := Try.ok_of (State.mstGroup_keeps _ _ _ _ _ _ _ (by assumption)) (by assumption); exact hx)
    | apply Try.Keeps.ok | split | intro _ | apply State.Keeps.fields

theorem State.commandUnit_keeps {s0 : State} (s : State) (v : View) (t : Task) (c : Cmd) (gs : List Glyph) (r : Nat)
    (hs : s0.Keeps s) : Try.Keeps s0 (fun p => s0.Keeps p.1) (State.commandUnit s v t c gs r) := by
  unfold State.commandUnit
  with_reducible repeat' first
    | assumption | split | apply State.soundUnit_keeps | apply Try.Keeps.error | exact Stop.Keeps.parity _

theorem State.commandWrites_keeps {s0 : State} (old : State) (s : State) (id : Nat) (c : Cmd) (hs : s0.Keeps old)
    (hs1 : s0.Keeps s) : s0.Keeps (State.commandWrites old s id c) := by
  unfold State.commandWrites
  with_reducible repeat' first
    | assumption | apply State.ordered_keeps | split

theorem State.dropLease_keeps {s0 : State} (s : State) (id : Nat) (hs : s0.Keeps s) : s0.Keeps (State.dropLease s id) := by
  unfold State.dropLease
  with_reducible repeat' first
    | assumption | apply State.Keeps.fields

theorem State.restoreTiles_keeps {s0 : State} (s : State) (cluster : Nat) (mask : BitVec 8) (saved : SMap (BitVec 32))
    (hs : s0.Keeps s) : s0.Keeps (State.restoreTiles s cluster mask saved) := by
  unfold State.restoreTiles
  with_reducible repeat' first
    | assumption | apply State.setTile_keeps | apply State.Keeps.foldl | split | intro _

theorem State.grantLease_keeps {s0 : State} (s : State) (id : Nat) (t : Task) (mask : BitVec 8) (hs : s0.Keeps s) :
    s0.Keeps (State.grantLease s id t mask) := by
  unfold State.grantLease
  dsimp only
  with_reducible repeat' first
    | assumption | apply State.setTask_keeps | apply State.dropLease_keeps | apply State.restoreTiles_keeps | split

theorem State.mbarvArrive_keeps {s0 : State} (s : State) (id : Nat) (t : Task) (c : Cmd) (w : MS) (hs : s0.Keeps s) :
    Try.Keeps s0 s0.Keeps (State.mbarvArrive s id t c w) := by
  unfold State.mbarvArrive
  dsimp only
  with_reducible repeat' first
    | assumption | apply State.arrive_keeps | apply Try.keeps_raise | apply Try.Keeps.ok | split

theorem execLease_keeps {s0 : State} (w : MS) (s : State) (hs : s0.Keeps s) : OutKeeps s0 (execLease w s) := by
  unfold execLease
  dsimp only
  with_reducible repeat' first
    | assumption | refine Try.keeps_bind (Try.keeps_require _ _) ?_ | apply State.mTask_keeps | apply State.setTask_keeps
    | apply Try.Keeps.ok | apply Try.Keeps.error | exact Stop.Keeps.hold | apply Stop.Keeps.pend | split | intro _
    | apply State.Keeps.fields

theorem execLfree_keeps {s0 : State} (y0 : MS) (s : State) (hs : s0.Keeps s) : OutKeeps s0 (execLfree y0 s) := by
  unfold execLfree
  with_reducible repeat' first
    | assumption | refine Try.keeps_bind (Try.keeps_await _) ?_ | apply State.mTask_keeps | apply State.setTask_keeps
    | apply Try.Keeps.ok | intro _

theorem execMma_keeps {s0 : State} (w : MC) (s : State) (hs : s0.Keeps s) : OutKeeps s0 (execMma w s) := by
  unfold execMma
  with_reducible repeat' first
    | assumption | apply State.arrayCommand_keeps

theorem execMmaz_keeps {s0 : State} (w : MC) (s : State) (hs : s0.Keeps s) : OutKeeps s0 (execMmaz w s) := by
  unfold execMmaz
  with_reducible repeat' first
    | assumption | apply State.arrayCommand_keeps

theorem execMmb_keeps {s0 : State} (w : MC) (s : State) (hs : s0.Keeps s) : OutKeeps s0 (execMmb w s) := by
  unfold execMmb
  with_reducible repeat' first
    | assumption | apply State.arrayCommand_keeps

theorem execMmi_keeps {s0 : State} (w : MC) (s : State) (hs : s0.Keeps s) : OutKeeps s0 (execMmi w s) := by
  unfold execMmi
  with_reducible repeat' first
    | assumption | apply State.arrayCommand_keeps

theorem execMclr_keeps {s0 : State} (w : MC) (s : State) (hs : s0.Keeps s) : OutKeeps s0 (execMclr w s) := by
  unfold execMclr
  with_reducible repeat' first
    | assumption | apply State.arrayCommand_keeps

theorem execMld_keeps {s0 : State} (w : MC) (s : State) (hs : s0.Keeps s) : OutKeeps s0 (execMld w s) := by
  unfold execMld
  with_reducible repeat' first
    | assumption | apply State.arrayCommand_keeps

theorem execMst_keeps {s0 : State} (w : MC) (s : State) (hs : s0.Keeps s) : OutKeeps s0 (execMst w s) := by
  unfold execMst
  with_reducible repeat' first
    | assumption | apply State.arrayCommand_keeps

theorem execMadd_keeps {s0 : State} (w : MC) (s : State) (hs : s0.Keeps s) : OutKeeps s0 (execMadd w s) := by
  unfold execMadd
  with_reducible repeat' first
    | assumption | apply State.arrayCommand_keeps

theorem execMscl_keeps {s0 : State} (w : MC) (s : State) (hs : s0.Keeps s) : OutKeeps s0 (execMscl w s) := by
  unfold execMscl
  with_reducible repeat' first
    | assumption | apply State.arrayCommand_keeps

theorem execMset_keeps {s0 : State} (w : MS) (s : State) (hs : s0.Keeps s) : OutKeeps s0 (execMset w s) := by
  unfold execMset
  with_reducible repeat' first
    | assumption | apply State.mTask_keeps | apply State.setTask_keeps | apply Try.Keeps.ok | intro _

theorem execMinc_keeps {s0 : State} (w : MS) (s : State) (hs : s0.Keeps s) : OutKeeps s0 (execMinc w s) := by
  unfold execMinc
  with_reducible repeat' first
    | assumption | apply State.mTask_keeps | apply State.setTask_keeps | apply Try.Keeps.ok | intro _

theorem execMrep_keeps {s0 : State} (w : MS) (s : State) (hs : s0.Keeps s) : OutKeeps s0 (execMrep w s) := by
  unfold execMrep
  dsimp only
  with_reducible repeat' first
    | assumption | refine Try.keeps_bind (State.fetch_keeps _ _ _ _ _ _ _ ?_) ?_
    | refine Try.keeps_bind (Try.keeps_require _ _) ?_ | apply State.mTask_keeps | apply State.setTask_keeps
    | apply Try.keeps_raise | apply Try.Keeps.ok | split | intro _

theorem execMfence_keeps {s0 : State} (w : MS) (s : State) (hs : s0.Keeps s) : OutKeeps s0 (execMfence w s) := by
  unfold execMfence
  try dsimp only
  with_reducible repeat' first
    | assumption | exact True.intro | refine Try.keeps_bind (Try.keeps_await _) ?_
    | refine Try.keeps_bind (State.range_keeps _ _ _ _ _ ?_) ?_ | apply State.mTask_keeps | apply State.setTask_keeps
    | apply State.advance_keeps | apply State.ordered_keeps | apply State.range_keeps | apply Try.keeps_await
    | apply Try.Keeps.ok | intro _ | apply State.Keeps.fields | apply OutKeeps.next

theorem execMbarv_keeps {s0 : State} (w : MS) (s : State) (hs : s0.Keeps s) : OutKeeps s0 (execMbarv w s) := by
  unfold execMbarv
  dsimp only
  with_reducible repeat' first
    | assumption | refine Try.keeps_bind (Try.keeps_await _) ?_ | apply State.mTask_keeps | apply State.setTask_keeps
    | apply Try.Keeps.ok | intro _

theorem execMfin_keeps {s0 : State} (y0 : MS) (s : State) (hs : s0.Keeps s) : OutKeeps s0 (execMfin y0 s) := by
  unfold execMfin
  with_reducible repeat' first
    | assumption | apply State.mTask_keeps | apply State.setTask_keeps | apply Try.Keeps.ok | intro _

theorem execMnop_keeps {s0 : State} (y0 : MS) (s : State) (hs : s0.Keeps s) : OutKeeps s0 (execMnop y0 s) := by
  unfold execMnop
  with_reducible repeat' first
    | assumption | apply State.mTask_keeps | apply State.setTask_keeps | apply Try.Keeps.ok | intro _

theorem State.theCommand_keeps {s0 : State} (s : State) (hs : s0.Keeps s) :
    Try.Keeps s0 (fun _ => True) (State.theCommand s) := by
  unfold State.theCommand
  with_reducible repeat' first
    | assumption | refine Try.keeps_bind (need_keeps _) ?_ | refine Try.keeps_bind (Try.keeps_await _) ?_
    | apply Try.Keeps.ok | intro _

theorem Progress.run_keeps {s0 : State} (v : View) (t : Task) (c : Cmd) (gs : List Glyph) (n : Nat) (p : Progress)
    (hp : s0.Keeps p.s) (he : p.stop = none) :
    s0.Keeps (Progress.run v t c gs n p).s ∧ ∀ e ∈ (Progress.run v t c gs n p).stop, e.Keeps s0 := by
  induction n generalizing p with
  | zero => exact ⟨hp, by simp [Progress.run, he]⟩
  | succ n ih =>
    unfold Progress.run
    have h := State.commandUnit_keeps p.s v t c gs p.row hp
    split
    · have h := Try.ok_of h ‹_›
      exact ih _ h rfl
    · have h := Try.stop_of h ‹_›
      cases h with
      | pend h => exact ⟨h, by simpa using Stop.Keeps.hold⟩
    · have h := Try.stop_of h ‹_›
      exact ⟨hp, by simpa using h⟩

theorem State.runCommand_keeps {s0 : State} (s : State) (id : Nat) (t : Task) (c : Cmd) (hs : s0.Keeps s) :
    s0.Keeps (s.runCommand id t c).s := by
  unfold State.runCommand
  dsimp only
  split
  · split
    · exact Try.ok_of (State.mbarvArrive_keeps s id t c _ hs) ‹_›
    · exact hs
  · split
    · exact (Progress.run_keeps _ t c _ _ _ hs rfl).1
    · exact hs

theorem State.served_keeps {s0 : State} (s : State) (core : Nat) (c : Cmd) (p : Progress) (hs : s0.Keeps s) :
    s0.Keeps (State.served s core c p) := by
  unfold State.served
  try dsimp only
  with_reducible repeat' first
    | assumption | apply State.setCluster_keeps | split | intro _ | apply State.Keeps.fields

theorem execMatrixCommandComplete_keeps {s0 : State} (s : State) (hs : s0.Keeps s) :
    OutKeeps s0 (execMatrixCommandComplete s) := by
  unfold execMatrixCommandComplete
  try dsimp only
  with_reducible repeat' first
    | assumption | exact True.intro | refine Try.keeps_bind (State.theCommand_keeps _ ?_) ?_ | apply State.event_keeps
    | apply State.theCommand_keeps | apply State.runCommand_keeps | apply State.commandWrites_keeps
    | apply State.served_keeps | apply State.onTask_keeps | apply State.ordered_keeps | apply State.startWalk_keeps
    | refine Try.stop_of (State.theCommand_keeps _ ?_) (by assumption) | refine Try.keeps_bind (P := fun _ => True) ?_ ?_
    | apply Try.Keeps.ok | apply Try.Keeps.error | exact Stop.Keeps.hold | exact Stop.Keeps.miss _ _ _
    | apply Stop.Keeps.pend | split | intro _ | apply State.Keeps.fields | apply OutKeeps.next

theorem State.stopCommand_keeps {s0 : State} (s : State) (id : Nat) (t : Task) (c : Cmd) (row : Nat) (cause : Cause)
    (va : Nat) (hs : s0.Keeps s) : s0.Keeps (State.stopCommand s id t c row cause va) := by
  unfold State.stopCommand
  with_reducible repeat' first
    | assumption | apply State.post_keeps | apply State.onTask_keeps

theorem execMatrixFetchFault_keeps {s0 : State} (s : State) (hs : s0.Keeps s) : OutKeeps s0 (execMatrixFetchFault s) := by
  unfold execMatrixFetchFault
  try dsimp only
  with_reducible repeat' first
    | assumption | exact True.intro | refine Try.keeps_bind (Try.keeps_await _) ?_
    | refine Try.keeps_bind (State.theCommand_keeps _ ?_) ?_ | apply State.event_keeps | apply State.theCommand_keeps
    | apply State.runCommand_keeps | apply State.commandWrites_keeps | apply State.served_keeps
    | apply State.dropFailed_keeps | apply State.onTask_keeps | apply Progress.run_keeps | apply State.arrayTrap_keeps
    | apply State.stopCommand_keeps | refine Try.stop_of (State.theCommand_keeps _ ?_) (by assumption)
    | refine Try.keeps_bind (P := fun _ => True) ?_ ?_ | apply Try.keeps_await | apply Try.Keeps.ok | apply Try.Keeps.error
    | exact Stop.Keeps.hold | exact Stop.Keeps.trap _ _ | split | intro _ | apply State.Keeps.fields | apply OutKeeps.next

theorem execMatrixGlyphInvalid_keeps {s0 : State} (s : State) (hs : s0.Keeps s) :
    OutKeeps s0 (execMatrixGlyphInvalid s) := by
  unfold execMatrixGlyphInvalid
  dsimp only
  with_reducible repeat' first
    | assumption | refine Try.keeps_bind (State.theCommand_keeps _ ?_) ?_ | refine Try.keeps_bind (Try.keeps_await _) ?_
    | apply State.event_keeps | apply State.arrayTrap_keeps | apply Try.Keeps.ok | intro _

theorem execLeaseGrant_keeps {s0 : State} (s : State) (hs : s0.Keeps s) : OutKeeps s0 (execLeaseGrant s) := by
  unfold execLeaseGrant
  with_reducible repeat' first
    | assumption | refine Try.keeps_bind (need_keeps _) ?_ | apply State.event_keeps | apply State.grantLease_keeps
    | apply Try.Keeps.ok | intro _

/-! ## Sections -/

theorem State.argTask_keeps {s0 : State} (s : State) (hs : s0.Keeps s) : Try.Keeps s0 (fun _ => True) (State.argTask s) := by
  unfold State.argTask
  with_reducible repeat' first
    | assumption | refine Try.keeps_bind (need_keeps _) ?_ | apply Try.Keeps.ok | intro _

theorem State.countWaits_keeps {s0 : State} (s : State) (st : Stream) (chosen : Nat) (cs : List Candidate) (hs : s0.Keeps s)
    : s0.Keeps (State.countWaits s st chosen cs) := by
  unfold State.countWaits
  dsimp only
  with_reducible repeat' first
    | assumption | apply State.onTask_keeps | apply State.Keeps.foldl | split | intro _

theorem State.dropTask_keeps {s0 : State} (s : State) (id : Nat) (hs : s0.Keeps s) : s0.Keeps (State.dropTask s id) := by
  unfold State.dropTask
  dsimp only
  with_reducible repeat' first
    | assumption | apply State.dropLease_keeps | apply State.Keeps.fields

theorem State.leaveArming_keeps {s0 : State} (s : State) (id : Nat) (t : Task) (faulted : Bool) (hs : s0.Keeps s) :
    s0.Keeps (State.leaveArming s id t faulted) := by
  unfold State.leaveArming
  with_reducible repeat' first
    | assumption | apply State.Keeps.fields

theorem State.xFetched_keeps {s0 : State} (s : State) (id : Nat) (t : Task) (hs : s0.Keeps s) :
    Try.Keeps s0 (fun _ => True) (State.xFetched s id t) := by
  unfold State.xFetched
  with_reducible repeat' first
    | assumption | apply State.fetch_keeps

theorem State.nextDue_keeps {s0 : State} (s : State) (t : Task) (pick : Effect → Bool) (hs : s0.Keeps s) :
    Try.Keeps s0 (fun _ => True) (State.nextDue s t pick) := by
  unfold State.nextDue
  with_reducible repeat' first
    | assumption | refine Try.keeps_bind (need_keeps _) ?_ | refine Try.keeps_bind (Try.keeps_await _) ?_
    | apply Try.Keeps.ok | intro _

theorem State.retireTask_keeps {s0 : State} (s : State) (id : Nat) (hs : s0.Keeps s) : s0.Keeps (State.retireTask s id) := by
  unfold State.retireTask
  dsimp only
  with_reducible repeat' first
    | assumption | apply State.endRegion_keeps | apply State.startPattern_keeps | apply State.ordered_keeps
    | apply State.dropTask_keeps | apply State.leaveArming_keeps | apply State.setTask_keeps | split

theorem execXLanding_keeps {s0 : State} (s : State) (hs : s0.Keeps s) : OutKeeps s0 (execXLanding s) := by
  unfold execXLanding
  dsimp only
  with_reducible repeat' first
    | assumption | refine Try.keeps_bind (State.argTask_keeps _ ?_) ?_
    | refine Try.keeps_bind (State.nextDue_keeps _ _ _ ?_) ?_ | apply State.event_keeps | apply State.setTask_keeps
    | apply Try.Keeps.ok | intro _

theorem returnLoad_keeps {s0 : State} (i : Nat) (regs : SMap Word) (ls : List Load) :
    Try.Keeps s0 (fun _ => True) (returnLoad i regs ls) := by
  unfold returnLoad
  with_reducible repeat' first
    | assumption | refine Try.keeps_bind (need_keeps _) ?_ | refine Try.keeps_bind (Try.keeps_await _) ?_
    | apply Try.Keeps.ok | apply Try.Keeps.error | exact Stop.Keeps.hold | split | intro _

theorem execLoadReturn_keeps {s0 : State} (s : State) (hs : s0.Keeps s) : OutKeeps s0 (execLoadReturn s) := by
  unfold execLoadReturn
  dsimp only
  with_reducible repeat' first
    | assumption | refine Try.keeps_bind (returnLoad_keeps _ _ _) ?_ | refine Try.keeps_bind (State.argTask_keeps _ ?_) ?_
    | apply State.event_keeps | apply State.measureLoad_keeps | apply State.setTask_keeps | apply Try.Keeps.ok | split
    | intro _ | apply State.Keeps.fields

theorem execUncorrectableLoadDelivery_keeps {s0 : State} (s : State) (hs : s0.Keeps s) :
    OutKeeps s0 (execUncorrectableLoadDelivery s) := by
  unfold execUncorrectableLoadDelivery
  dsimp only
  with_reducible repeat' first
    | assumption | refine Try.keeps_bind (State.argTask_keeps _ ?_) ?_ | refine Try.keeps_bind (need_keeps _) ?_
    | refine Try.keeps_bind (Try.keeps_await _) ?_ | apply State.event_keeps | apply State.newRecords_keeps
    | apply State.trapTask_keeps | apply State.setTask_keeps | apply Try.Keeps.ok | intro _

theorem execVpushArrival_keeps {s0 : State} (s : State) (hs : s0.Keeps s) : OutKeeps s0 (execVpushArrival s) := by
  unfold execVpushArrival
  dsimp only
  with_reducible repeat' first
    | assumption | refine Try.keeps_bind (State.argTask_keeps _ ?_) ?_
    | refine Try.keeps_bind (State.nextDue_keeps _ _ _ ?_) ?_ | apply State.event_keeps | apply State.setTask_keeps
    | apply Try.Keeps.ok | intro _

theorem State.freshLoad_keeps {s0 : State} (s : State) (id : Nat) (l : Load) (hs : s0.Keeps s) :
    Try.Keeps s0 (fun _ => True) (State.freshLoad s id l) := by
  unfold State.freshLoad
  try dsimp only
  with_reducible repeat' first
    | assumption | exact True.intro | apply State.onTask_keeps | apply State.viewRead_keeps
    | refine Try.stop_of (State.viewRead_keeps _ _ _ _ ?_) (by assumption) | apply Try.Keeps.ok | apply Try.Keeps.error
    | exact Stop.Keeps.trap _ _ | split | intro _ | apply State.Keeps.fields

theorem execXqEntryArrival_keeps {s0 : State} (s : State) (hs : s0.Keeps s) : OutKeeps s0 (execXqEntryArrival s) := by
  unfold execXqEntryArrival
  try dsimp only
  with_reducible repeat' first
    | assumption | exact True.intro | refine Try.keeps_bind (Try.keeps_await _) ?_ | refine Try.keeps_bind (need_keeps _) ?_
    | refine Try.keeps_bind (State.argTask_keeps _ ?_) ?_ | refine Try.keeps_bind (need_keeps _) ?_
    | refine Try.keeps_bind (State.freshLoad_keeps _ _ _ ?_) ?_ | apply State.event_keeps | apply State.argTask_keeps
    | apply need_keeps | apply State.freshLoad_keeps | apply State.measureLoad_keeps | apply State.setTask_keeps
    | refine Try.stop_of (State.argTask_keeps _ ?_) (by assumption) | refine Try.stop_of (need_keeps _) (by assumption)
    | refine Try.stop_of (State.freshLoad_keeps _ _ _ ?_) (by assumption) | refine Try.keeps_bind (P := fun _ => True) ?_ ?_
    | apply Try.keeps_await | apply Try.Keeps.ok | apply Try.Keeps.error | exact Stop.Keeps.hold | split | intro _
    | apply State.Keeps.fields | apply OutKeeps.next

theorem State.startSection_keeps {s0 : State} (s : State) (id : Nat) (t : Task) (st : Stream) (hs : s0.Keeps s) :
    s0.Keeps (State.startSection s id t st) := by
  unfold State.startSection
  dsimp only
  with_reducible repeat' first
    | assumption | apply State.ordered_keeps | apply State.setTask_keeps

theorem State.trapNever_keeps {s0 : State} (s : State) (id : Nat) (hs : s0.Keeps s) : s0.Keeps (State.trapNever s id) := by
  unfold State.trapNever
  with_reducible repeat' first
    | assumption | apply State.trapTask_keeps | split

theorem execHeaderEntry_keeps {s0 : State} (s : State) (hs : s0.Keeps s) : OutKeeps s0 (execHeaderEntry s) := by
  unfold execHeaderEntry
  dsimp only
  with_reducible repeat' first
    | assumption | refine Try.keeps_bind (State.argTask_keeps _ ?_) ?_ | refine Try.keeps_bind (Try.keeps_await _) ?_
    | apply State.event_keeps | apply State.trapTask_keeps | apply State.dropFailed_keeps | apply State.setTask_keeps
    | apply State.startSection_keeps | apply State.trapNever_keeps
    | refine Try.stop_of (State.fetch_keeps _ _ _ _ _ _ _ ?_) (by assumption) | apply Try.Keeps.ok | apply Try.Keeps.error
    | split | intro _

theorem execHeaderWaitRelease_keeps {s0 : State} (s : State) (hs : s0.Keeps s) : OutKeeps s0 (execHeaderWaitRelease s) := by
  unfold execHeaderWaitRelease
  dsimp only
  with_reducible repeat' first
    | assumption | refine Try.keeps_bind (State.argTask_keeps _ ?_) ?_ | refine Try.keeps_bind (Try.keeps_await _) ?_
    | apply State.event_keeps | apply State.startSection_keeps | apply State.trapTask_keeps | apply Try.Keeps.ok | split
    | intro _

theorem execSectionRetirement_keeps {s0 : State} (s : State) (hs : s0.Keeps s) : OutKeeps s0 (execSectionRetirement s) := by
  unfold execSectionRetirement
  try dsimp only
  with_reducible repeat' first
    | assumption | exact True.intro | refine Try.keeps_bind (Try.keeps_await _) ?_ | refine Try.keeps_bind (need_keeps _) ?_
    | refine Try.keeps_bind (State.argTask_keeps _ ?_) ?_ | refine Try.keeps_bind (need_keeps _) ?_
    | apply State.event_keeps | apply State.argTask_keeps | apply need_keeps | apply Progress.run_keeps
    | apply State.setTask_keeps | apply State.retireTask_keeps | apply State.dropLease_keeps | apply State.trapNever_keeps
    | refine Try.stop_of (State.argTask_keeps _ ?_) (by assumption) | refine Try.stop_of (need_keeps _) (by assumption)
    | refine Try.keeps_bind (P := fun _ => True) ?_ ?_ | apply Try.keeps_await | apply Try.Keeps.ok | split | intro _
    | apply State.Keeps.fields | apply OutKeeps.next

theorem execXIssue_keeps {s0 : State} (s : State) (hs : s0.Keeps s) : OutKeeps s0 (execXIssue s) := by
  refine State.event_keeps _ _ hs fun s hs => ?_
  dsimp only
  split
  · rename_i c _
    have h := State.countWaits_keeps s .x c.task (s.xCandidates s.arg.x) hs
    exact .ok ⟨h.mem, fun _ => rfl, h.tower⟩
  · exact Try.keeps_bind (need_keeps _) fun _ _ => .error (.pend (State.startWalk_keeps _ _ _ _ hs))

theorem execPendingWriteReplay_keeps {s0 : State} (s : State) (hs : s0.Keeps s) :
    OutKeeps s0 (execPendingWriteReplay s) := by
  unfold execPendingWriteReplay
  dsimp only
  with_reducible repeat' first
    | assumption | refine Try.keeps_bind (State.argTask_keeps _ ?_) ?_
    | refine Try.keeps_bind (State.nextDue_keeps _ _ _ ?_) ?_ | apply State.event_keeps | apply State.setTask_keeps
    | apply Try.Keeps.ok | intro _

end Sys2Proof.Machine
end

