-- ==== Sys2Proof/Laws/Keeps5.lean ====
section
/-! SUPPORT. What every operation and meaning of Fabric, Collect, Records, Tasks, Block keeps (`State.Keeps`). -/

namespace Sys2Proof.Machine

/-! ## Fabric -/

theorem State.stopArrival_keeps {s0 : State} (s : State) (id : Nat) (a : Arrival) (ident : BitVec 32) (cause : Cause)
    (path : Bool) (hs : s0.Keeps s) : s0.Keeps (State.stopArrival s id a ident cause path) := by
  unfold State.stopArrival
  with_reducible repeat' first
    | assumption | apply State.post_keeps | apply State.Keeps.fields

theorem State.chunkWrite_keeps {s0 : State} (s : State) (ident : BitVec 32) (es : List (Nat × Nat × Nat)) (hs : s0.Keeps s)
    : Try.Keeps s0 s0.Keeps (State.chunkWrite s ident es) := by
  unfold State.chunkWrite
  dsimp only
  with_reducible repeat' first
    | assumption | refine Try.keeps_bind (collect_keeps _ _ ?_) ?_
    | refine Try.keeps_bind (State.writeRuns_keeps _ _ _ ?_) ?_ | apply State.check_keeps | apply State.detectWash_keeps
    | apply Try.Keeps.ok | split | intro _

theorem State.washedWrite_keeps {s0 : State} (s : State) (ident : BitVec 32) (off : Nat) (mode : Nat) (image : List Byte)
    (hs : s0.Keeps s) : Try.Keeps s0 s0.Keeps (State.washedWrite s ident off mode image) := by
  unfold State.washedWrite
  with_reducible repeat' first
    | assumption | refine Try.keeps_bind (State.physCheck_keeps _ _ _ _ _ _ ?_) ?_ | apply State.storeWashed_keeps
    | apply State.writeBytes_keeps | apply Try.keeps_raise | apply Try.Keeps.ok | split | intro _

theorem State.keepShare_keeps {s0 : State} (s : State) (m : Share) (hs : s0.Keeps s) :
    s0.Keeps (State.keepShare s m) := by
  unfold State.keepShare
  try dsimp only
  with_reducible repeat' first
    | assumption | intro _ | apply State.Keeps.fields

theorem State.peerWrote_keeps {s0 : State} (old s : State) (node : Nat) (hold : s0.Keeps old) (hs : s0.Keeps s) :
    s0.Keeps (State.peerWrote old s node) := by
  unfold State.peerWrote
  try dsimp only
  with_reducible repeat' first
    | assumption | apply State.ordered_keeps | intro _

theorem State.peerSem_keeps {s0 : State} (s : State) (node n : Nat) (k : Know) (o : SemOrder) (hs : s0.Keeps s) :
    s0.Keeps (State.peerSem s node n k o).2 := by
  unfold State.peerSem
  try dsimp only
  with_reducible repeat' first
    | assumption | apply State.releaseRegions_keeps | apply State.Keeps.foldl | apply Try.Keeps.ok | split | intro _

theorem State.keepStart_keeps {s0 : State} (s : State) (m : Start) (hs : s0.Keeps s) :
    s0.Keeps (State.keepStart s m) := by
  unfold State.keepStart
  try dsimp only
  with_reducible repeat' first
    | assumption | intro _ | apply State.Keeps.fields

theorem State.peerLoad_keeps {s0 : State} (s : State) (node : Nat) (k : Know) (off n : Nat) (strong : Option Nat) (hs : s0.Keeps s) :
    Try.Keeps s0 (fun p => s0.Keeps p.2) (State.peerLoad s node k off n strong) := by
  unfold State.peerLoad
  try dsimp only
  with_reducible repeat' first
    | assumption | refine Try.keeps_bind (State.pieceRead_keeps _ _ _ _ ?_) ?_ | apply State.strongRead_keeps
    | apply State.ordered_keeps | apply State.pieceRead_keeps
    | refine Try.stop_of (State.pieceRead_keeps _ _ _ _ ?_) (by assumption)
    | refine Try.keeps_bind (P := fun _ => True) ?_ ?_ | apply Try.Keeps.ok | split | intro _ | apply State.Keeps.fields

theorem State.applyRemote_keeps {s0 : State} (s : State) (node : Nat) (ident : BitVec 32) (k : Know) (z0 : RemoteOp) (hs : s0.Keeps s) :
    Try.Keeps s0 (fun p => s0.Keeps p.2.2) (State.applyRemote s node ident k z0) := by
  cases z0 with
  | load off n strong => exact Try.keeps_bind (State.peerLoad_keeps _ _ _ _ _ _ hs) fun _ h => .ok h
  | store off n v strong =>
    refine Try.keeps_bind (State.physWrite_keeps _ _ _ _ _ hs) fun u hu => .ok ?_
    cases strong with
    | none => exact State.peerWrote_keeps _ _ _ hs hu
    | some x => exact State.strongWrite_keeps _ _ _ hs (State.peerWrote_keeps _ _ _ hs hu)
  | chunk es => exact Try.keeps_bind (State.chunkWrite_keeps _ _ _ hs) fun u hu => .ok hu
  | washed off mode image => exact Try.keeps_bind (State.washedWrite_keeps _ _ _ _ _ hs) fun u hu => .ok hu
  | arrive handle bytes wake forwarded chunk =>
    unfold State.applyRemote
    dsimp only
    with_reducible repeat' first
      | assumption | apply State.ordered_keeps | apply State.stopArrival_keeps | apply State.arrive_keeps
      | apply State.testParks_keeps | apply Try.Keeps.ok | split | apply State.Keeps.fields
  | wake handle => exact .ok (State.testParks_keeps _ hs)
  | sem op n cmp x ord =>
    refine Try.keeps_bind (State.semAllowed_keeps _ _ _ hs) fun _ _ => .ok ?_
    have h := State.peerSem_keeps s node n k ord hs
    dsimp only
    split
    · exact h
    · exact State.setSem_keeps _ _ _ h
  | start m => exact .ok (State.keepStart_keeps _ _ hs)
  | data m => exact .ok (State.keepShare_keeps _ _ hs)
  | abandon c k => exact .ok (State.Keeps.fields hs)

theorem State.answerRemote_keeps {s0 : State} (s : State) (node : Nat) (ident : BitVec 32) (k : Know) (op : RemoteOp) (hs : s0.Keeps s) :
    Try.Keeps s0 (fun p => s0.Keeps p.2.2) (State.answerRemote s node ident k op) := by
  unfold State.answerRemote
  split
  · exact .ok hs
  · exact State.applyRemote_keeps _ _ _ _ _ hs

theorem State.deliverLoad_keeps {s0 : State} (s : State) (ag : Agent) (tag : Nat) (answer : Answer) (path : Bool)
    (hs : s0.Keeps s) : s0.Keeps (State.deliverLoad s ag tag answer path) := by
  unfold State.deliverLoad
  dsimp only
  with_reducible repeat' first
    | assumption | apply State.onTask_keeps | split | apply State.Keeps.fields

theorem State.stopCollective_keeps {s0 : State} (s : State) (c : Nat) (i : Instance) (cause : Cause) (second : Nat)
    (path : Bool) (hs : s0.Keeps s) : s0.Keeps (State.stopCollective s c i cause second path) := by
  unfold State.stopCollective
  with_reducible repeat' first
    | assumption | apply State.post_keeps | apply State.setChannel_keeps

theorem State.collectiveFailed_keeps {s0 : State} (s : State) (c : Nat) (k : Nat) (node : Nat) (cause : Cause) (path : Bool)
    (hs : s0.Keeps s) : s0.Keeps (State.collectiveFailed s c k node cause path) := by
  unfold State.collectiveFailed
  try dsimp only
  with_reducible repeat' first
    | assumption | apply State.post_keeps | apply State.stopCollective_keeps | split | intro _ | apply State.Keeps.fields

theorem State.answered_keeps {s0 : State} (s : State) (tag : Nat) (r : Remote) (answer : Answer) (k : Know) (path : Bool) (hs : s0.Keeps s) :
    s0.Keeps (State.answered s tag r answer k path) := by
  unfold State.answered
  try dsimp only
  with_reducible repeat' first
    | assumption | apply State.stopArrival_keeps | apply State.deliverLoad_keeps | apply State.collectiveFailed_keeps
    | apply State.put_keeps | split | intro _ | apply State.Keeps.fields

theorem State.showFabric_keeps {s0 : State} (s : State) (hs : s0.Keeps s) : s0.Keeps (State.showFabric s) := by
  unfold State.showFabric
  with_reducible repeat' first
    | assumption | apply State.serviceWrite_keeps

theorem State.sendAgain_keeps {s0 : State} (s : State) (tag : Nat) (r : Remote) (hs : s0.Keeps s) :
    s0.Keeps (State.sendAgain s tag r) := by
  unfold State.sendAgain
  try dsimp only
  with_reducible repeat' first
    | assumption | apply State.put_keeps | apply State.sendVia_keeps | intro _ | apply State.Keeps.fields

theorem State.reroute_keeps {s0 : State} (s : State) (tag : Nat) (r : Remote) (hs : s0.Keeps s) :
    s0.Keeps (State.reroute s tag r) := by
  unfold State.reroute
  try dsimp only
  with_reducible repeat' first
    | assumption | apply State.sendAgain_keeps | apply State.put_keeps | split | intro _ | apply State.Keeps.fields

theorem State.portDown_keeps {s0 : State} (s : State) (p : Nat) (hs : s0.Keeps s) : s0.Keeps (State.portDown s p) := by
  unfold State.portDown
  try dsimp only
  with_reducible repeat' first
    | assumption | apply State.post_keeps | apply State.showFabric_keeps | apply State.reroute_keeps
    | apply State.Keeps.foldl | split | intro _ | apply State.Keeps.fields

theorem State.refuseFlit_keeps {s0 : State} (s : State) (p : Nat) (seq : BitVec 16) (hs : s0.Keeps s) :
    s0.Keeps (State.refuseFlit s p seq) := by
  unfold State.refuseFlit
  try dsimp only
  with_reducible repeat' first
    | assumption | apply State.held_keeps | apply State.portDown_keeps | apply State.setLink_keeps | split | intro _
    | apply State.Keeps.fields

theorem State.respond_keeps {s0 : State} (s : State) (node tag : Nat) (answer : Answer) (k : Know) (keep : Bool) (hs : s0.Keeps s) :
    s0.Keeps (State.respond s node tag answer k keep) := by
  unfold State.respond
  try dsimp only
  with_reducible repeat' first
    | assumption | apply State.sendMsg_keeps | split | intro _ | apply State.Keeps.fields

theorem execForwardedArrival_keeps {s0 : State} (s : State) (hs : s0.Keeps s) : OutKeeps s0 (execForwardedArrival s) := by
  unfold execForwardedArrival
  dsimp only
  with_reducible repeat' first
    | assumption | refine Try.keeps_bind (need_keeps _) ?_ | refine Try.keeps_bind (Try.keeps_await _) ?_
    | apply State.event_keeps | apply State.sendRequest_keeps | apply State.stopArrival_keeps | apply State.arrive_keeps
    | apply State.testParks_keeps | apply Try.Keeps.ok | split | intro _ | apply State.Keeps.fields

theorem execGegilFlitReceive_keeps {s0 : State} (s : State) (hs : s0.Keeps s) : OutKeeps s0 (execGegilFlitReceive s) := by
  unfold execGegilFlitReceive
  try dsimp only
  with_reducible repeat' first
    | assumption | exact True.intro | refine Try.keeps_bind (need_keeps _) ?_ | refine Try.keeps_bind (need_keeps _) ?_
    | apply State.event_keeps | apply need_keeps | apply State.portDown_keeps | apply State.setLink_keeps
    | apply State.held_keeps | refine Try.stop_of (need_keeps _) (by assumption)
    | refine Try.keeps_bind (P := fun _ => True) ?_ ?_ | apply Try.Keeps.ok | split | intro _ | apply State.Keeps.fields
    | apply OutKeeps.next

theorem execPortRetrain_keeps {s0 : State} (s : State) (hs : s0.Keeps s) : OutKeeps s0 (execPortRetrain s) := by
  unfold execPortRetrain
  dsimp only
  with_reducible repeat' first
    | assumption | refine Try.keeps_bind (Try.keeps_await _) ?_ | apply State.event_keeps | apply Try.Keeps.ok | intro _
    | apply State.Keeps.fields

theorem State.serveRequest_keeps {s0 : State} (s : State) (node tag : Nat) (ident : BitVec 32) (op : RemoteOp) (k : Know) (stamp : Nat) (again : Bool) (hs : s0.Keeps s) :
    Try.Keeps s0 (s0.Keeps) (State.serveRequest s node tag ident op k stamp again) := by
  unfold State.serveRequest
  split
  · exact .ok (State.respond_keeps _ _ _ _ _ _ hs)
  · split
    · exact .ok (State.sendMsg_keeps _ _ _ hs)
    · exact Try.keeps_bind (State.answerRemote_keeps _ _ _ _ _ hs) fun _ h => .ok (State.respond_keeps _ _ _ _ _ _ h)

theorem State.takeMessage_keeps {s0 : State} (s : State) (i : Nat) (hs : s0.Keeps s) : s0.Keeps (State.takeMessage s i) := by
  unfold State.takeMessage
  with_reducible repeat' first
    | assumption | apply State.Keeps.fields

theorem State.chunkAhead_keeps {s0 : State} (s : State) (i j node tag : Nat) (ident : BitVec 32) (es : List (Nat × Nat × Nat)) (k : Know) (stamp : Nat) (again : Bool) (hs : s0.Keeps s) :
    Try.Keeps s0 (s0.Keeps) (State.chunkAhead s i j node tag ident es k stamp again) := by
  unfold State.chunkAhead
  try dsimp only
  with_reducible repeat' first
    | assumption | refine Try.keeps_bind (Try.keeps_await _) ?_ | refine Try.keeps_bind (need_keeps _) ?_
    | refine Try.keeps_bind (need_keeps _) ?_ | refine Try.keeps_bind (State.chunkWrite_keeps _ _ _ ?_) ?_
    | apply need_keeps | apply State.chunkWrite_keeps | refine Try.stop_of (need_keeps _) (by assumption)
    | refine Try.stop_of (State.chunkWrite_keeps _ _ _ ?_) (by assumption)
    | (have hx := Try.ok_of (State.chunkWrite_keeps _ _ _ (by assumption)) (by assumption); exact hx)
    | refine Try.keeps_bind (P := fun _ => True) ?_ ?_ | apply Try.keeps_await | apply Try.Keeps.ok | apply Try.Keeps.error
    | exact Stop.Keeps.hold | split | intro _ | apply State.Keeps.fields

theorem execRemoteRequestApply_keeps {s0 : State} (s : State) (hs : s0.Keeps s) :
    OutKeeps s0 (execRemoteRequestApply s) := by
  unfold execRemoteRequestApply
  try dsimp only
  with_reducible repeat' first
    | assumption | exact True.intro | refine Try.keeps_bind (Try.keeps_await _) ?_ | refine Try.keeps_bind (need_keeps _) ?_
    | refine Try.keeps_bind (need_keeps _) ?_ | refine Try.keeps_bind (State.chunkAhead_keeps _ _ _ _ _ _ _ _ _ _ ?_) ?_
    | refine Try.keeps_bind (State.serveRequest_keeps _ _ _ _ _ _ _ _ ?_) ?_ | apply State.event_keeps | apply need_keeps
    | apply State.chunkAhead_keeps | apply State.takeMessage_keeps | apply State.serveRequest_keeps
    | refine Try.stop_of (need_keeps _) (by assumption)
    | refine Try.stop_of (State.chunkAhead_keeps _ _ _ _ _ _ _ _ _ _ ?_) (by assumption)
    | (have hx := Try.ok_of (State.chunkAhead_keeps _ _ _ _ _ _ _ _ _ _ (by assumption)) (by assumption); exact hx)
    | refine Try.stop_of (State.serveRequest_keeps _ _ _ _ _ _ _ _ ?_) (by assumption)
    | (have hx := Try.ok_of (State.serveRequest_keeps _ _ _ _ _ _ _ _ (by assumption)) (by assumption); exact hx)
    | refine Try.keeps_bind (P := fun _ => True) ?_ ?_ | apply Try.keeps_await | apply Try.Keeps.ok | apply Try.Keeps.error
    | exact Stop.Keeps.hold | split | intro _ | apply State.Keeps.fields | apply OutKeeps.next

theorem execRemoteResponse_keeps {s0 : State} (s : State) (hs : s0.Keeps s) : OutKeeps s0 (execRemoteResponse s) := by
  unfold execRemoteResponse
  dsimp only
  with_reducible repeat' first
    | assumption | refine Try.keeps_bind (need_keeps _) ?_ | apply State.event_keeps | apply State.takeMessage_keeps
    | apply State.answered_keeps | apply Try.Keeps.ok | apply Try.Keeps.error | exact Stop.Keeps.hold | split | intro _

theorem execWakeWrite_keeps {s0 : State} (s : State) (hs : s0.Keeps s) :
    OutKeeps s0 (execWakeWrite s) := by
  unfold execWakeWrite
  try dsimp only
  with_reducible repeat' first
    | assumption | exact True.intro | refine Try.keeps_bind (Try.keeps_await _) ?_ | refine Try.keeps_bind (need_keeps _) ?_
    | refine Try.keeps_bind (need_keeps _) ?_ | refine Try.keeps_bind (State.serveRequest_keeps _ _ _ _ _ _ _ _ ?_) ?_
    | apply State.event_keeps | apply need_keeps | apply State.takeMessage_keeps | apply State.serveRequest_keeps
    | refine Try.stop_of (need_keeps _) (by assumption)
    | refine Try.stop_of (State.serveRequest_keeps _ _ _ _ _ _ _ _ ?_) (by assumption)
    | (have hx := Try.ok_of (State.serveRequest_keeps _ _ _ _ _ _ _ _ (by assumption)) (by assumption); exact hx)
    | refine Try.keeps_bind (P := fun _ => True) ?_ ?_ | apply Try.keeps_await | apply Try.Keeps.ok | apply Try.Keeps.error
    | exact Stop.Keeps.hold | split | intro _ | apply State.Keeps.fields | apply OutKeeps.next

theorem execRemoteResend_keeps {s0 : State} (s : State) (hs : s0.Keeps s) : OutKeeps s0 (execRemoteResend s) := by
  unfold execRemoteResend
  dsimp only
  with_reducible repeat' first
    | assumption | refine Try.keeps_bind (need_keeps _) ?_ | refine Try.keeps_bind (Try.keeps_await _) ?_
    | apply State.event_keeps | apply State.sendAgain_keeps | apply Try.Keeps.ok | intro _

theorem execPathFailure_keeps {s0 : State} (s : State) (hs : s0.Keeps s) : OutKeeps s0 (execPathFailure s) := by
  unfold execPathFailure
  dsimp only
  with_reducible repeat' first
    | assumption | refine Try.keeps_bind (need_keeps _) ?_ | refine Try.keeps_bind (Try.keeps_await _) ?_
    | apply State.event_keeps | apply State.answered_keeps | apply Try.Keeps.ok | intro _

theorem execTagFilterExpiry_keeps {s0 : State} (s : State) (hs : s0.Keeps s) : OutKeeps s0 (execTagFilterExpiry s) := by
  unfold execTagFilterExpiry
  with_reducible repeat' first
    | assumption | refine Try.keeps_bind (need_keeps _) ?_ | refine Try.keeps_bind (Try.keeps_await _) ?_
    | apply State.event_keeps | apply Try.Keeps.ok | intro _ | apply State.Keeps.fields

theorem State.steer_keeps {s0 : State} (s : State) (ahead : Int) (hs : s0.Keeps s) : s0.Keeps (State.steer s ahead) := by
  unfold State.steer
  dsimp only
  with_reducible repeat' first
    | assumption | split | apply State.Keeps.fields

theorem State.sendTiming_keeps {s0 : State} (s : State) (p : Nat) (hs : s0.Keeps s) : s0.Keeps (State.sendTiming s p) := by
  unfold State.sendTiming
  dsimp only
  with_reducible repeat' first
    | assumption | apply State.sendFlit_keeps | apply State.setLink_keeps | split

theorem execTscTimingExchange_keeps {s0 : State} (s : State) (hs : s0.Keeps s) : OutKeeps s0 (execTscTimingExchange s) := by
  unfold execTscTimingExchange
  try dsimp only
  with_reducible repeat' first
    | assumption | exact True.intro | refine Try.keeps_bind (Try.keeps_await _) ?_ | refine Try.keeps_bind (need_keeps _) ?_
    | refine Try.keeps_bind (State.range_keeps _ _ _ _ _ ?_) ?_ | refine Try.keeps_bind (need_keeps _) ?_
    | apply State.event_keeps | apply State.range_keeps | apply State.sendTiming_keeps | apply need_keeps
    | apply State.takeMessage_keeps | apply State.timed_keeps | apply State.post_keeps | apply State.showFabric_keeps
    | apply State.steer_keeps | refine Try.stop_of (State.range_keeps _ _ _ _ _ ?_) (by assumption)
    | refine Try.stop_of (need_keeps _) (by assumption) | refine Try.keeps_bind (P := fun _ => True) ?_ ?_
    | apply State.Keeps.foldl | apply Try.keeps_await | apply Try.Keeps.ok | apply Try.Keeps.error | exact Stop.Keeps.hold
    | split | intro _ | apply State.Keeps.fields | apply OutKeeps.next

theorem execTscSyncLoss_keeps {s0 : State} (s : State) (hs : s0.Keeps s) : OutKeeps s0 (execTscSyncLoss s) := by
  unfold execTscSyncLoss
  dsimp only
  with_reducible repeat' first
    | assumption | refine Try.keeps_bind (Try.keeps_await _) ?_ | apply State.event_keeps | apply State.showFabric_keeps
    | apply Try.Keeps.ok | intro _ | apply State.Keeps.fields

theorem execLinkTrainingComplete_keeps {s0 : State} (s : State) (hs : s0.Keeps s) :
    OutKeeps s0 (execLinkTrainingComplete s) := by
  unfold execLinkTrainingComplete
  dsimp only
  with_reducible repeat' first
    | assumption | refine Try.keeps_bind (Try.keeps_await _) ?_ | apply State.event_keeps | apply State.showFabric_keeps
    | apply Try.Keeps.ok | split | intro _ | apply State.Keeps.fields

/-! ## Collect -/

theorem State.stepDone_keeps {s0 : State} (s : State) (i : Instance) (ns : List Nat) (hs : s0.Keeps s) :
    s0.Keeps (State.stepDone s i ns) := by
  unfold State.stepDone
  dsimp only
  with_reducible repeat' first
    | assumption | apply State.setSem_keeps | apply State.postRelease_keeps | apply State.post_keeps | split

theorem State.notifyCore_keeps {s0 : State} (s : State) (core : Nat) (n : Nat) (ns : List Nat) (hs : s0.Keeps s) :
    s0.Keeps (State.notifyCore s core n ns) := by
  unfold State.notifyCore
  dsimp only
  with_reducible repeat' first
    | assumption | apply State.stopArrival_keeps | apply State.arrive_keeps | split | apply State.Keeps.fields

theorem State.notify_keeps {s0 : State} (s : State) (i : Instance) (ns : List Nat) (hs : s0.Keeps s) :
    s0.Keeps (State.notify s i ns) := by
  unfold State.notify
  with_reducible repeat' first
    | assumption | apply State.notifyCore_keeps | apply State.Keeps.foldl | split | intro _

theorem State.endInstance_keeps {s0 : State} (s : State) (c : Nat) (i : Instance) (result : Nat) (ns : List Nat)
    (hs : s0.Keeps s) : s0.Keeps (State.endInstance s c i result ns) := by
  unfold State.endInstance
  dsimp only
  with_reducible repeat' first
    | assumption | apply State.setChannel_keeps | apply State.stepDone_keeps | apply State.notify_keeps
    | apply State.serviceWrite_keeps | apply State.testDoorbell_keeps | split | apply State.Keeps.fields

theorem State.abandonCollective_keeps {s0 : State} (s : State) (c : Nat) (hs : s0.Keeps s) :
    s0.Keeps (State.abandonCollective s c) := by
  unfold State.abandonCollective
  with_reducible repeat' first
    | assumption | apply State.endInstance_keeps | apply State.sendCollective_keeps | split

theorem State.goingOn_keeps {s0 : State} (s : State) (hs : s0.Keeps s) : Try.Keeps s0 (fun _ => True) (State.goingOn s) := by
  unfold State.goingOn
  with_reducible repeat' first
    | assumption | refine Try.keeps_bind (need_keeps _) ?_ | refine Try.keeps_bind (Try.keeps_await _) ?_
    | apply Try.Keeps.ok | intro _

theorem State.ownShare_keeps {s0 : State} (s : State) (i : Instance) (hs : s0.Keeps s) :
    Try.Keeps s0 (fun _ => True) (State.ownShare s i) := by
  unfold State.ownShare
  with_reducible repeat' first
    | assumption | exact True.intro | refine Try.keeps_bind (State.viewRead_keeps _ _ _ _ ?_) ?_ | apply Try.Keeps.ok | split
    | intro _

theorem State.resumeCollective_keeps {s0 : State} (s : State) (c : Nat) (hs : s0.Keeps s) :
    s0.Keeps (State.resumeCollective s c) := by
  unfold State.resumeCollective
  with_reducible repeat' first
    | assumption | apply State.endInstance_keeps | apply State.startInstance_keeps | split | apply State.Keeps.fields

theorem execCollectiveDataPhase_keeps {s0 : State} (s : State) (hs : s0.Keeps s) :
    OutKeeps s0 (execCollectiveDataPhase s) := by
  unfold execCollectiveDataPhase
  try dsimp only
  with_reducible repeat' first
    | assumption | exact True.intro | refine Try.keeps_bind (Try.keeps_await _) ?_
    | refine Try.keeps_bind (State.goingOn_keeps _ ?_) ?_ | refine Try.keeps_bind (State.ownShare_keeps _ _ ?_) ?_
    | apply State.event_keeps | apply State.goingOn_keeps | apply State.ownShare_keeps | apply State.setChannel_keeps
    | apply State.keepShare_keeps | apply State.sendCollective_keeps | refine Try.keeps_bind (P := fun _ => True) ?_ ?_
    | apply Try.keeps_await | apply Try.Keeps.ok | intro _ | apply State.Keeps.fields | apply OutKeeps.next

theorem State.writeOutcome_keeps {s0 : State} (s : State) (c : Nat) (i : Instance) (hs : s0.Keeps s) :
    Try.Keeps s0 s0.Keeps (State.writeOutcome s c i) := by
  unfold State.writeOutcome
  dsimp only
  with_reducible repeat' first
    | assumption | refine Try.keeps_bind (State.semAllowed_keeps _ _ _ ?_) ?_ | apply State.viewWrite_keeps
    | apply Try.Keeps.ok | split | intro _

theorem execCollectiveCompletion_keeps {s0 : State} (s : State) (hs : s0.Keeps s) :
    OutKeeps s0 (execCollectiveCompletion s) := by
  unfold execCollectiveCompletion
  dsimp only
  with_reducible repeat' first
    | assumption | refine Try.keeps_bind (State.goingOn_keeps _ ?_) ?_
    | refine Try.keeps_bind (State.writeOutcome_keeps _ _ _ ?_) ?_ | refine Try.keeps_bind (Try.keeps_await _) ?_
    | apply State.event_keeps | apply State.post_keeps | apply State.endInstance_keeps | apply Try.Keeps.ok | split | intro _

theorem execCollectiveStop_keeps {s0 : State} (s : State) (hs : s0.Keeps s) : OutKeeps s0 (execCollectiveStop s) := by
  unfold execCollectiveStop
  dsimp only
  with_reducible repeat' first
    | assumption | refine Try.keeps_bind (State.goingOn_keeps _ ?_) ?_ | refine Try.keeps_bind (need_keeps _) ?_
    | refine Try.keeps_bind (Try.keeps_await _) ?_ | apply State.event_keeps | apply State.stopCollective_keeps
    | apply Try.Keeps.ok | intro _

theorem execCollectiveAbandonMessage_keeps {s0 : State} (s : State) (hs : s0.Keeps s) :
    OutKeeps s0 (execCollectiveAbandonMessage s) := by
  unfold execCollectiveAbandonMessage
  dsimp only
  with_reducible repeat' first
    | assumption | refine Try.keeps_bind (need_keeps _) ?_ | refine Try.keeps_bind (Try.keeps_await _) ?_
    | apply State.event_keeps | apply State.takeMessage_keeps | apply State.setChannel_keeps | apply State.endInstance_keeps
    | apply Try.Keeps.ok | apply Try.Keeps.error | exact Stop.Keeps.hold | split | intro _

/-! ## Records -/

theorem State.answer_keeps {s0 : State} (s : State) (hs : s0.Keeps s) : Try.Keeps s0 (fun _ => True) (State.answer s) := by
  unfold State.answer
  with_reducible repeat' first
    | assumption | refine Try.keeps_bind (need_keeps _) ?_ | refine Try.keeps_bind (Try.keeps_await _) ?_
    | apply Try.Keeps.ok | intro _

theorem State.closeRecord_keeps {s0 : State} (s : State) (o : Open) (hs : s0.Keeps s) :
    s0.Keeps (State.closeRecord s o) := by
  unfold State.closeRecord
  with_reducible repeat' first
    | assumption | apply State.Keeps.fields

theorem State.endSources_keeps {s0 : State} (s : State) (p : Source → Bool) (hs : s0.Keeps s) :
    s0.Keeps (State.endSources s p) := by
  unfold State.endSources
  try dsimp only
  with_reducible repeat' first
    | assumption | split | intro _ | apply State.Keeps.fields

theorem State.endFaulted_keeps {s0 : State} (s : State) (id : Nat) (hs : s0.Keeps s) : s0.Keeps (State.endFaulted s id) := by
  unfold State.endFaulted
  try dsimp only
  with_reducible repeat' first
    | assumption | apply State.endRegion_keeps | apply State.setTask_keeps | apply State.leaveArming_keeps
    | apply State.dropTask_keeps | apply State.endSources_keeps | apply State.ordered_keeps | apply State.startPattern_keeps
    | split | intro _ | apply State.Keeps.fields

theorem State.loadAgain_keeps {s0 : State} (s : State) (id : Nat) (l : Load) (hs : s0.Keeps s) :
    Try.Keeps s0 (fun p => s0.Keeps p.1) (State.loadAgain s id l) := by
  unfold State.loadAgain
  split
  · exact .error .hold
  · dsimp only
    have hu := State.onTask_keeps ({ s with cur := .task id .a }) id (fun t => { t with regs := ‹SMap Word›, loads := [] })
      (State.Keeps.fields hs)
    split
    · exact Try.keeps_bind (State.scalarLoad_keeps _ _ _ hu) fun _ hv => Try.keeps_bind (need_keeps _) fun _ _ =>
        .ok (State.Keeps.fields hv)
    · exact Try.keeps_bind (State.scalarLoad_keeps _ _ _ (State.performs_keeps _ hu)) fun _ hv =>
        Try.keeps_bind (need_keeps _) fun _ _ => .ok (State.Keeps.fields hv)
    · exact Try.keeps_bind (need_keeps _) fun _ _ => Try.keeps_bind (State.viewRead_keeps _ _ _ _ hu) fun _ _ => .ok hs
    · exact Try.keeps_bind (State.viewRead_keeps _ _ _ _ hu) fun _ _ => .ok hs
    · refine Try.keeps_bind (State.gathRead_keeps _ _ hu) fun _ _ => ?_
      split
      · exact .ok hs
      · exact Try.keeps_raise _
    · exact Try.keeps_bind (State.mbxrRead_keeps _ _ hu) fun _ hr => .ok (State.Keeps.fields hr)
    · exact .error .hold

theorem State.onRecordTask_keeps {s0 : State} (s : State) (id : Nat) (hs : s0.Keeps s) :
    Try.Keeps s0 (fun _ => True) (State.onRecordTask s id) := by
  unfold State.onRecordTask
  with_reducible repeat' first
    | assumption | refine Try.keeps_bind (need_keeps _) ?_ | refine Try.keeps_bind (Try.keeps_await _) ?_
    | apply Try.Keeps.ok | intro _

theorem State.servicePut_keeps {s0 : State} (s : State) (off : Nat) (y2 : List Byte) (hs : s0.Keeps s) :
    s0.Keeps (State.servicePut s off y2) := by
  induction y2 generalizing s off with
  | nil =>
    unfold State.servicePut
    with_reducible repeat' first
      | assumption | apply State.serviceWrite_keeps
  | cons z zs ih =>
    unfold State.servicePut
    with_reducible repeat' first
      | assumption | apply ih | apply State.serviceWrite_keeps

theorem State.postRecord_keeps {s0 : State} (s : State) (r : Record) (sem : Nat) (hs : s0.Keeps s) :
    s0.Keeps (State.postRecord s r sem) := by
  unfold State.postRecord
  dsimp only
  with_reducible repeat' first
    | assumption | apply State.servicePut_keeps | apply State.serviceWrite_keeps | apply State.setSem_keeps
    | apply State.postRelease_keeps | split | apply State.Keeps.fields

theorem State.refuseAnswer_keeps {s0 : State} (s : State) (o : Open) (hs : s0.Keeps s) :
    s0.Keeps (State.refuseAnswer s o) := by
  unfold State.refuseAnswer
  with_reducible repeat' first
    | assumption | apply State.serviceWrite_keeps

theorem State.skipTask_keeps {s0 : State} (s : State) (id : Nat) (hs : s0.Keeps s) :
    s0.Keeps (State.skipTask s id) := by
  unfold State.skipTask
  try dsimp only
  with_reducible repeat' first
    | assumption | apply State.dropAsked_keeps | apply State.setTask_keeps | split | intro _ | apply State.Keeps.fields

theorem State.resumeLoad_keeps {s0 : State} (s : State) (id n : Nat) (skip : Bool) (hs : s0.Keeps s) :
    Try.Keeps s0 (s0.Keeps) (State.resumeLoad s id n skip) := by
  unfold State.resumeLoad
  try dsimp only
  with_reducible repeat' first
    | assumption | apply State.setTask_keeps | apply State.loadAgain_keeps | apply State.onTask_keeps
    | refine Try.stop_of (State.loadAgain_keeps _ _ _ ?_) (by assumption)
    | (have hx := Try.ok_of (State.loadAgain_keeps _ _ _ (by assumption)) (by assumption); exact hx) | apply Try.Keeps.ok
    | apply Try.Keeps.error | exact Stop.Keeps.trap _ _ | split | intro _ | apply State.Keeps.fields

theorem State.resumeTask_keeps {s0 : State} (s : State) (id : Nat) (hs : s0.Keeps s) : s0.Keeps (State.resumeTask s id) := by
  unfold State.resumeTask
  try dsimp only
  with_reducible repeat' first
    | assumption | apply State.setTask_keeps | apply Progress.run_keeps | split | intro _ | apply State.Keeps.fields

theorem execTrapDelivery_keeps {s0 : State} (s : State) (hs : s0.Keeps s) : OutKeeps s0 (execTrapDelivery s) := by
  unfold execTrapDelivery
  dsimp only
  with_reducible repeat' first
    | assumption | refine Try.keeps_bind (State.argTask_keeps _ ?_) ?_ | refine Try.keeps_bind (Try.keeps_await _) ?_
    | apply State.event_keeps | apply State.trapTask_keeps | apply State.setTask_keeps | apply State.trapNaming_keeps
    | apply Try.Keeps.ok | split | intro _

theorem execRubricatorTrap_keeps {s0 : State} (s : State) (hs : s0.Keeps s) : OutKeeps s0 (execRubricatorTrap s) := by
  unfold execRubricatorTrap
  dsimp only
  with_reducible repeat' first
    | assumption | refine Try.keeps_bind (need_keeps _) ?_ | refine Try.keeps_bind (Try.keeps_await _) ?_
    | apply State.event_keeps | apply State.trapRub_keeps | apply Try.Keeps.ok | intro _ | apply State.Keeps.fields

theorem State.dropInfo_keeps {s0 : State} (s : State) (hs : s0.Keeps s) : s0.Keeps (State.dropInfo s) := by
  unfold State.dropInfo
  with_reducible repeat' first
    | assumption | apply State.serviceWrite_keeps | apply State.Keeps.fields

theorem execFaultRecordPost.dropped_keeps {s0 : State} (u : State) (r : Record) (hs : s0.Keeps u) :
    Try.Keeps s0 s0.Keeps (execFaultRecordPost.dropped u r) := by
  unfold execFaultRecordPost.dropped
  try dsimp only
  with_reducible repeat' first
    | assumption | refine Try.keeps_bind (Try.keeps_await _) ?_ | apply State.dropInfo_keeps | apply Try.keeps_await
    | apply Try.Keeps.ok | intro _

theorem State.postNow_keeps {s0 : State} (s : State) (r : Record) (hs : s0.Keeps s) :
    s0.Keeps (State.postNow s r) := by
  unfold State.postNow
  try dsimp only
  with_reducible repeat' first
    | assumption | apply State.postRecord_keeps | apply State.dropInfo_keeps | split | intro _ | apply State.Keeps.fields

theorem execFaultRecordPost_keeps {s0 : State} (s : State) (hs : s0.Keeps s) : OutKeeps s0 (execFaultRecordPost s) := by
  unfold execFaultRecordPost
  try dsimp only
  with_reducible repeat' first
    | assumption | exact True.intro | refine Try.keeps_bind (Try.keeps_await _) ?_ | refine Try.keeps_bind (need_keeps _) ?_
    | refine Try.keeps_bind (need_keeps _) ?_ | refine Try.keeps_bind (execFaultRecordPost.dropped_keeps _ _ ?_) ?_
    | apply State.event_keeps | apply need_keeps | apply State.postRecord_keeps | apply execFaultRecordPost.dropped_keeps
    | apply State.dropInfo_keeps | refine Try.stop_of (need_keeps _) (by assumption)
    | refine Try.stop_of (execFaultRecordPost.dropped_keeps _ _ ?_) (by assumption)
    | (have hx := Try.ok_of (execFaultRecordPost.dropped_keeps _ _ (by assumption)) (by assumption); exact hx)
    | refine Try.keeps_bind (P := fun _ => True) ?_ ?_ | apply Try.keeps_await | apply Try.Keeps.ok | split | intro _
    | apply State.Keeps.fields | apply OutKeeps.next

theorem execAnswerResume_keeps {s0 : State} (s : State) (hs : s0.Keeps s) : OutKeeps s0 (execAnswerResume s) := by
  unfold execAnswerResume
  try dsimp only
  with_reducible repeat' first
    | assumption | exact True.intro | refine Try.keeps_bind (Try.keeps_await _) ?_
    | refine Try.keeps_bind (State.answer_keeps _ ?_) ?_ | refine Try.keeps_bind (State.onRecordTask_keeps _ _ ?_) ?_
    | refine Try.keeps_bind (State.resumeLoad_keeps _ _ _ _ ?_) ?_ | apply State.event_keeps | apply State.answer_keeps
    | apply State.closeRecord_keeps | apply State.onRecordTask_keeps | apply State.resumeTask_keeps
    | apply State.resumeLoad_keeps | apply State.onTask_keeps | apply State.resumeCollective_keeps
    | apply State.refuseAnswer_keeps | refine Try.stop_of (State.answer_keeps _ ?_) (by assumption)
    | refine Try.stop_of (State.onRecordTask_keeps _ _ ?_) (by assumption)
    | refine Try.stop_of (State.resumeLoad_keeps _ _ _ _ ?_) (by assumption)
    | (have hx := Try.ok_of (State.resumeLoad_keeps _ _ _ _ (by assumption)) (by assumption); exact hx)
    | refine Try.keeps_bind (P := fun _ => True) ?_ ?_ | apply Try.keeps_await | apply Try.Keeps.ok | split | intro _
    | apply State.Keeps.fields | apply OutKeeps.next

theorem execAnswerSkip_keeps {s0 : State} (s : State) (hs : s0.Keeps s) : OutKeeps s0 (execAnswerSkip s) := by
  unfold execAnswerSkip
  try dsimp only
  with_reducible repeat' first
    | assumption | exact True.intro | refine Try.keeps_bind (Try.keeps_await _) ?_
    | refine Try.keeps_bind (State.answer_keeps _ ?_) ?_ | refine Try.keeps_bind (State.onRecordTask_keeps _ _ ?_) ?_
    | refine Try.keeps_bind (State.resumeLoad_keeps _ _ _ _ ?_) ?_ | apply State.event_keeps | apply State.answer_keeps
    | apply State.onRecordTask_keeps | apply State.closeRecord_keeps | apply State.skipTask_keeps
    | apply State.resumeTask_keeps | apply State.resumeLoad_keeps | apply State.refuseAnswer_keeps
    | refine Try.stop_of (State.answer_keeps _ ?_) (by assumption)
    | refine Try.stop_of (State.onRecordTask_keeps _ _ ?_) (by assumption)
    | refine Try.stop_of (State.resumeLoad_keeps _ _ _ _ ?_) (by assumption)
    | (have hx := Try.ok_of (State.resumeLoad_keeps _ _ _ _ (by assumption)) (by assumption); exact hx)
    | refine Try.keeps_bind (P := fun _ => True) ?_ ?_ | apply Try.keeps_await | apply Try.Keeps.ok | split | intro _
    | apply State.Keeps.fields | apply OutKeeps.next

theorem execAnswerEnd_keeps {s0 : State} (s : State) (hs : s0.Keeps s) : OutKeeps s0 (execAnswerEnd s) := by
  unfold execAnswerEnd
  dsimp only
  with_reducible repeat' first
    | assumption | refine Try.keeps_bind (State.answer_keeps _ ?_) ?_
    | refine Try.keeps_bind (State.onRecordTask_keeps _ _ ?_) ?_ | refine Try.keeps_bind (Try.keeps_await _) ?_
    | apply State.event_keeps | apply State.endFaulted_keeps | apply State.closeRecord_keeps | apply State.refuseAnswer_keeps
    | apply Try.Keeps.ok | split | intro _

theorem execAnswerAbandon_keeps {s0 : State} (s : State) (hs : s0.Keeps s) : OutKeeps s0 (execAnswerAbandon s) := by
  unfold execAnswerAbandon
  dsimp only
  with_reducible repeat' first
    | assumption | refine Try.keeps_bind (State.answer_keeps _ ?_) ?_ | refine Try.keeps_bind (Try.keeps_await _) ?_
    | apply State.event_keeps | apply State.closeRecord_keeps | apply State.dropCopy_keeps | apply State.refuseAnswer_keeps
    | apply State.onTask_keeps | apply State.abandonCollective_keeps | apply Try.Keeps.ok | split | intro _
    | apply State.Keeps.fields

theorem execWatchdogExpiry_keeps {s0 : State} (s : State) (hs : s0.Keeps s) : OutKeeps s0 (execWatchdogExpiry s) := by
  unfold execWatchdogExpiry
  dsimp only
  with_reducible repeat' first
    | assumption | refine Try.keeps_bind (State.argTask_keeps _ ?_) ?_ | refine Try.keeps_bind (need_keeps _) ?_
    | refine Try.keeps_bind (Try.keeps_await _) ?_ | apply State.event_keeps | apply State.trapTask_keeps
    | apply Try.Keeps.ok | split | intro _ | apply State.Keeps.fields

theorem execTaskUnpark_keeps {s0 : State} (s : State) (hs : s0.Keeps s) : OutKeeps s0 (execTaskUnpark s) := by
  unfold execTaskUnpark
  try dsimp only
  with_reducible repeat' first
    | assumption | exact True.intro | refine Try.keeps_bind (Try.keeps_await _) ?_
    | refine Try.keeps_bind (State.argTask_keeps _ ?_) ?_ | apply State.event_keeps | apply State.argTask_keeps
    | apply Progress.run_keeps | apply State.setTask_keeps | apply State.advance_keeps
    | refine Try.stop_of (State.argTask_keeps _ ?_) (by assumption) | refine Try.keeps_bind (P := fun _ => True) ?_ ?_
    | apply Try.keeps_await | apply Try.Keeps.ok | apply Try.Keeps.error | exact Stop.Keeps.hold | split | intro _
    | apply State.Keeps.fields | apply OutKeeps.next

/-! ## Tasks -/

theorem State.measureGathers_keeps {s0 : State} (s : State) (t : Task) (hs : s0.Keeps s) :
    s0.Keeps (State.measureGathers s t) := by
  unfold State.measureGathers
  try dsimp only
  with_reducible repeat' first
    | assumption | apply State.measureLoad_keeps | apply State.Keeps.foldl | split | intro _ | apply State.Keeps.fields

theorem State.squash_keeps {s0 : State} (s : State) (id : Nat) (t : Task) (frame : Nat) (hs : s0.Keeps s) :
    s0.Keeps (State.squash s id t frame) := by
  unfold State.squash
  try dsimp only
  with_reducible repeat' first
    | assumption | apply State.measureReturns_keeps | apply State.measureGathers_keeps | apply State.setTask_keeps
    | apply State.dropLease_keeps | apply State.put_keeps
    | (have hx := Try.ok_of (State.park_keeps _ _ _ _ (by assumption)) (by assumption); exact hx) | split | intro _
    | apply State.Keeps.fields

theorem State.drainTask_keeps {s0 : State} (s : State) (due : Task → Pre → Bool) (hs : s0.Keeps s) :
    Try.Keeps s0 s0.Keeps (State.drainTask s due) := by
  unfold State.drainTask
  dsimp only
  with_reducible repeat' first
    | assumption | refine Try.keeps_bind (State.argTask_keeps _ ?_) ?_ | refine Try.keeps_bind (need_keeps _) ?_
    | refine Try.keeps_bind (Try.keeps_await _) ?_ | apply State.squash_keeps | apply Try.Keeps.ok | intro _

theorem State.placeAll_keeps {s0 : State} (s : State) (core : Nat) (y2 : List (Nat × Task)) (hs : s0.Keeps s) :
    s0.Keeps (State.placeAll s core y2) := by
  induction y2 generalizing s with
  | nil => exact hs
  | cons z zs ih =>
    unfold State.placeAll
    have h (x) : s0.Keeps (s.setTask z.1 x) := State.setTask_keeps _ _ _ hs
    dsimp only
    split
    · exact ih _ (h _)
    · split
      · exact h _
      · exact ih _ (h _)

theorem State.exemptSaved_keeps {s0 : State} (s : State) (id : Nat) (core : Nat) (hs : s0.Keeps s) :
    s0.Keeps (State.exemptSaved s id core) := by
  unfold State.exemptSaved
  with_reducible repeat' first
    | assumption | split | apply State.Keeps.fields

theorem State.freeFrameAt_keeps {s0 : State} (s : State) (y1 : Option Nat) (hs : s0.Keeps s) :
    s0.Keeps (State.freeFrameAt s y1) := by
  unfold State.freeFrameAt
  with_reducible repeat' first
    | assumption | split | apply State.Keeps.fields

theorem State.loadContext_keeps {s0 : State} (s : State) (id : Nat) (t : Task) (hs : s0.Keeps s) :
    s0.Keeps (State.loadContext s id t) := by
  unfold State.loadContext
  try dsimp only
  with_reducible repeat' first
    | assumption | apply Progress.run_keeps | apply State.setTask_keeps | apply State.freeFrameAt_keeps
    | apply State.keepCode_keeps | split | intro _ | apply State.Keeps.fields

theorem State.refuseContext_keeps {s0 : State} (s : State) (id : Nat) (t : Task) (hs : s0.Keeps s) :
    s0.Keeps (State.refuseContext s id t) := by
  unfold State.refuseContext
  dsimp only
  with_reducible repeat' first
    | assumption | apply State.post_keeps | apply State.endFaulted_keeps

theorem State.releaseArming_keeps {s0 : State} (s : State) (n : Nat) (sem : Nat) (hs : s0.Keeps s) :
    s0.Keeps (State.releaseArming s n sem) := by
  unfold State.releaseArming
  dsimp only
  with_reducible repeat' first
    | assumption | apply State.postRelease_keeps

theorem execTaskWaitsReached_keeps {s0 : State} (s : State) (hs : s0.Keeps s) : OutKeeps s0 (execTaskWaitsReached s) := by
  unfold execTaskWaitsReached
  dsimp only
  with_reducible repeat' first
    | assumption | refine Try.keeps_bind (State.argTask_keeps _ ?_) ?_ | refine Try.keeps_bind (Try.keeps_await _) ?_
    | apply State.event_keeps | apply State.acquireWaits_keeps | apply State.setTask_keeps | apply Try.Keeps.ok | intro _

theorem execTaskPlacement_keeps {s0 : State} (s : State) (hs : s0.Keeps s) : OutKeeps s0 (execTaskPlacement s) := by
  unfold execTaskPlacement
  dsimp only
  with_reducible repeat' first
    | assumption | refine Try.keeps_bind (Try.keeps_await _) ?_ | apply State.event_keeps | apply State.placeAll_keeps
    | apply Try.Keeps.ok | intro _

theorem execContextLoadComplete_keeps {s0 : State} (s : State) (hs : s0.Keeps s) :
    OutKeeps s0 (execContextLoadComplete s) := by
  unfold execContextLoadComplete
  dsimp only
  with_reducible repeat' first
    | assumption | refine Try.keeps_bind (State.argTask_keeps _ ?_) ?_ | refine Try.keeps_bind (Try.keeps_await _) ?_
    | apply State.event_keeps | apply State.loadContext_keeps | apply State.refuseContext_keeps | apply State.keepCode_keeps
    | apply State.setTask_keeps | apply Try.Keeps.ok | split | intro _

theorem execArmingCompletion_keeps {s0 : State} (s : State) (hs : s0.Keeps s) : OutKeeps s0 (execArmingCompletion s) := by
  unfold execArmingCompletion
  dsimp only
  with_reducible repeat' first
    | assumption | refine Try.keeps_bind (need_keeps _) ?_ | refine Try.keeps_bind (Try.keeps_await _) ?_
    | apply State.event_keeps | apply State.setSem_keeps | apply State.releaseArming_keeps | apply Try.Keeps.ok | split
    | intro _ | apply State.Keeps.fields

theorem execPreemptDrainEnd_keeps {s0 : State} (s : State) (hs : s0.Keeps s) : OutKeeps s0 (execPreemptDrainEnd s) := by
  unfold execPreemptDrainEnd
  with_reducible repeat' first
    | assumption | apply State.event_keeps | apply State.drainTask_keeps | intro _

theorem execPreemptDrainTimeout_keeps {s0 : State} (s : State) (hs : s0.Keeps s) :
    OutKeeps s0 (execPreemptDrainTimeout s) := by
  unfold execPreemptDrainTimeout
  with_reducible repeat' first
    | assumption | apply State.event_keeps | apply State.drainTask_keeps | intro _

theorem State.writeFrame_keeps {s0 : State} (s : State) (a : Nat) (hs : s0.Keeps s) : s0.Keeps (State.writeFrame s a) := by
  unfold State.writeFrame
  split
  · exact hs
  · split
    · rename_i u h
      exact Try.ok_of (State.physWrite_keeps _ _ _ _ _ hs) h
    · exact hs

theorem execPreemptSaveComplete_keeps {s0 : State} (s : State) (hs : s0.Keeps s) :
    OutKeeps s0 (execPreemptSaveComplete s) := by
  unfold execPreemptSaveComplete
  try dsimp only
  with_reducible repeat' first
    | assumption | exact True.intro | refine Try.keeps_bind (Try.keeps_await _) ?_ | refine Try.keeps_bind (need_keeps _) ?_
    | refine Try.keeps_bind (State.argTask_keeps _ ?_) ?_ | refine Try.keeps_bind (need_keeps _) ?_
    | apply State.event_keeps | apply State.argTask_keeps | apply need_keeps | apply State.put_keeps
    | apply State.writeFrame_keeps | apply State.setTask_keeps | apply State.exemptSaved_keeps | apply State.post_keeps
    | apply State.startPattern_keeps | refine Try.keeps_bind (P := fun _ => True) ?_ ?_ | apply Try.keeps_await
    | apply Try.Keeps.ok | intro _ | apply State.Keeps.fields | apply OutKeeps.next

/-! ## Block -/

theorem State.ctlHead_keeps {s0 : State} (s : State) (hs : s0.Keeps s) :
    Try.Keeps s0 (fun p => s0.Keeps p.2.2) (State.ctlHead s) := by
  unfold State.ctlHead
  dsimp only
  with_reducible repeat' first
    | assumption | refine Try.keeps_bind (need_keeps _) ?_ | apply Try.Keeps.ok | intro _ | apply State.Keeps.fields

theorem State.setMirror_keeps {s0 : State} (s : State) (n : Nat) (m : Mirror) (hs : s0.Keeps s) :
    s0.Keeps (State.setMirror s n m) := by
  unfold State.setMirror
  dsimp only
  with_reducible repeat' first
    | assumption | apply State.Keeps.fields

theorem State.ctlWrite_keeps {s0 : State} (s : State) (o : Nat) (v : Word) (hs : s0.Keeps s) :
    s0.Keeps (State.ctlWrite s o v) := by
  unfold State.ctlWrite
  dsimp only
  with_reducible repeat' first
    | assumption | apply State.setMirror_keeps | split | apply State.Keeps.fields

theorem State.fillTlb_keeps {s0 : State} (s : State) (e : Tlb) (hs : s0.Keeps s) : s0.Keeps (State.fillTlb s e) := by
  unfold State.fillTlb
  dsimp only
  with_reducible repeat' first
    | assumption | apply State.Keeps.fields

theorem State.fillAll_keeps {s0 : State} (s : State) (w : Walk) (e : Tlb) (hs : s0.Keeps s) :
    s0.Keeps (State.fillAll s w e) := by
  unfold State.fillAll
  with_reducible repeat' first
    | assumption | apply State.fillTlb_keeps | apply State.Keeps.foldl | intro _

theorem State.hostRegister_keeps {s0 : State} (s : State) (hs : s0.Keeps s) :
    Try.Keeps s0 s0.Keeps (State.hostRegister s) := by
  unfold State.hostRegister
  dsimp only
  with_reducible repeat' first
    | assumption | refine Try.keeps_bind (need_keeps _) ?_ | apply Try.Keeps.ok | apply Try.Keeps.error
    | exact Stop.Keeps.hold | split | intro _ | apply State.Keeps.fields

theorem State.setLevel_keeps {s0 : State} (s : State) (x : Nat) (l : Level) (hs : s0.Keeps s) :
    s0.Keeps (State.setLevel s x l) := by
  unfold State.setLevel
  with_reducible repeat' first
    | assumption | apply State.Keeps.fields

theorem State.reRule_keeps {s0 : State} (s : State) (x : Nat) (hs : s0.Keeps s) : s0.Keeps (State.reRule s x) := by
  exact ⟨fun h => SMap.wf_filter (α := Byte) 0 _ s.mem (hs.mem h), hs.turn, hs.tower⟩

theorem State.transient_keeps {s0 : State} (s : State) (kind : Nat) (detail : Nat) (second : Nat) (hs : s0.Keeps s) :
    s0.Keeps (State.transient s kind detail second) := by
  unfold State.transient
  dsimp only
  with_reducible repeat' first
    | assumption | apply State.post_keeps

theorem State.remapError_keeps {s0 : State} (s : State) (x : Nat) (copy : Nat) (j : Nat) (value : Option Nat)
    (lasting : Bool) (hs : s0.Keeps s) : s0.Keeps (State.remapError s x copy j value lasting) := by
  unfold State.remapError
  dsimp only
  with_reducible repeat' first
    | assumption | apply State.transient_keeps | apply State.setLevel_keeps | split

theorem execCtlInval_keeps {s0 : State} (s : State) (hs : s0.Keeps s) : OutKeeps s0 (execCtlInval s) := by
  unfold execCtlInval
  dsimp only
  with_reducible repeat' first
    | assumption | refine Try.keeps_bind (State.ctlHead_keeps _ ?_) ?_ | refine Try.keeps_bind (Try.keeps_await _) ?_
    | apply State.event_keeps | apply Try.Keeps.ok | split | intro _ | apply State.Keeps.fields

theorem execInvalidationComplete_keeps {s0 : State} (s : State) (hs : s0.Keeps s) :
    OutKeeps s0 (execInvalidationComplete s) := by
  unfold execInvalidationComplete
  dsimp only
  with_reducible repeat' first
    | assumption | refine Try.keeps_bind (Try.keeps_await _) ?_ | apply State.event_keeps | apply Try.Keeps.ok | intro _
    | apply State.Keeps.fields

theorem execCtlRuling_keeps {s0 : State} (s : State) (hs : s0.Keeps s) : OutKeeps s0 (execCtlRuling s) := by
  unfold execCtlRuling
  dsimp only
  with_reducible repeat' first
    | assumption | refine Try.keeps_bind (State.ctlHead_keeps _ ?_) ?_ | refine Try.keeps_bind (Try.keeps_await _) ?_
    | apply State.event_keeps | apply State.reRule_keeps | apply Try.Keeps.ok | split | intro _

theorem State.releaseWrites_keeps {s0 : State} (s : State) (hs : s0.Keeps s) :
    s0.Keeps (State.releaseWrites s) := by
  unfold State.releaseWrites
  try dsimp only
  with_reducible repeat' first
    | assumption | (have hx := Try.ok_of (State.physWrite_keeps _ _ _ _ _ (by assumption)) (by assumption); exact hx)
    | apply State.Keeps.foldl | split | intro _ | apply State.Keeps.fields

theorem State.releaseBells_keeps {s0 : State} (s : State) (hs : s0.Keeps s) :
    s0.Keeps (State.releaseBells s) := by
  unfold State.releaseBells
  try dsimp only
  with_reducible repeat' first
    | assumption | apply State.ringDoorbells_keeps | apply State.Keeps.foldl | intro _ | apply State.Keeps.fields

theorem execReRulingComplete_keeps {s0 : State} (s : State) (hs : s0.Keeps s) : OutKeeps s0 (execReRulingComplete s) := by
  unfold execReRulingComplete
  try dsimp only
  with_reducible repeat' first
    | assumption | exact True.intro | refine Try.keeps_bind (Try.keeps_await _) ?_ | apply State.event_keeps
    | apply State.setLevel_keeps | apply State.releaseWrites_keeps | apply State.releaseBells_keeps | apply Try.keeps_await
    | apply Try.Keeps.ok | intro _ | apply State.Keeps.fields | apply OutKeeps.next

theorem execCtlMirlen_keeps {s0 : State} (s : State) (hs : s0.Keeps s) : OutKeeps s0 (execCtlMirlen s) := by
  unfold execCtlMirlen
  dsimp only
  with_reducible repeat' first
    | assumption | refine Try.keeps_bind (State.ctlHead_keeps _ ?_) ?_ | refine Try.keeps_bind (Try.keeps_await _) ?_
    | apply State.event_keeps | apply State.setMirror_keeps | apply Try.Keeps.ok | intro _

theorem execBankRetirement_keeps {s0 : State} (s : State) (hs : s0.Keeps s) : OutKeeps s0 (execBankRetirement s) := by
  unfold execBankRetirement
  dsimp only
  with_reducible repeat' first
    | assumption | refine Try.keeps_bind (Try.keeps_await _) ?_ | apply State.event_keeps | apply State.setLevel_keeps
    | apply Try.Keeps.ok | split | intro _

theorem execBankSwapSwitch_keeps {s0 : State} (s : State) (hs : s0.Keeps s) : OutKeeps s0 (execBankSwapSwitch s) := by
  unfold execBankSwapSwitch
  dsimp only
  with_reducible repeat' first
    | assumption | refine Try.keeps_bind (need_keeps _) ?_ | refine Try.keeps_bind (Try.keeps_await _) ?_
    | apply State.event_keeps | apply State.setLevel_keeps | apply Try.Keeps.ok | intro _ | apply State.Keeps.fields

theorem State.sectorError_keeps {s0 : State} (s : State) (q : Nat) (lasting : Bool) (hs : s0.Keeps s) :
    s0.Keeps (State.sectorError s q lasting) := by
  unfold State.sectorError
  dsimp only
  with_reducible repeat' first
    | assumption | apply State.transient_keeps | apply State.setLevel_keeps | split | apply State.Keeps.fields

theorem execEccRetry_keeps {s0 : State} (s : State) (hs : s0.Keeps s) : OutKeeps s0 (execEccRetry s) := by
  unfold execEccRetry
  dsimp only
  with_reducible repeat' first
    | assumption | refine Try.keeps_bind (need_keeps _) ?_ | apply State.event_keeps | apply State.sectorError_keeps
    | apply State.remapError_keeps | apply State.onTask_keeps | apply State.transient_keeps | apply Try.Keeps.ok | split
    | intro _ | apply State.Keeps.fields

theorem execRemapVoteFreeze_keeps {s0 : State} (s : State) (hs : s0.Keeps s) : OutKeeps s0 (execRemapVoteFreeze s) := by
  unfold execRemapVoteFreeze
  dsimp only
  with_reducible repeat' first
    | assumption | refine Try.keeps_bind (Try.keeps_await _) ?_ | apply State.event_keeps | apply State.setLevel_keeps
    | apply State.post_keeps | apply Try.Keeps.ok | intro _ | apply State.Keeps.fields

theorem State.sealTask_keeps {s0 : State} (s : State) (e : Nat × Task) (hs : s0.Keeps s) :
    s0.Keeps (State.sealTask s e) := by
  unfold State.sealTask
  dsimp only
  with_reducible repeat' first
    | assumption | apply State.trapTask_keeps | apply State.post_keeps | apply State.setTask_keeps | split

theorem execTowerSeal_keeps {s0 : State} (s : State) (hs : s0.Keeps s) : OutKeeps s0 (execTowerSeal s) := by
  unfold execTowerSeal
  dsimp only
  with_reducible repeat' first
    | assumption | refine Try.keeps_bind (Try.keeps_await _) ?_ | apply State.event_keeps | apply State.sealTask_keeps
    | apply State.Keeps.foldl | apply Try.Keeps.ok | intro _ | apply State.Keeps.fields

theorem execRegisterWrite_keeps {s0 : State} (s : State) (hs : s0.Keeps s) : OutKeeps s0 (execRegisterWrite s) := by
  unfold execRegisterWrite
  dsimp only
  with_reducible repeat' first
    | assumption | refine Try.keeps_bind (State.ctlHead_keeps _ ?_) ?_ | refine Try.keeps_bind (Try.keeps_await _) ?_
    | apply State.event_keeps | apply State.hostRegister_keeps | apply State.ctlWrite_keeps | apply Try.Keeps.ok | split
    | intro _

theorem execWalkCompletion_keeps {s0 : State} (s : State) (hs : s0.Keeps s) : OutKeeps s0 (execWalkCompletion s) := by
  unfold execWalkCompletion
  dsimp only
  with_reducible repeat' first
    | assumption | refine Try.keeps_bind (need_keeps _) ?_ | refine Try.keeps_bind (Try.keeps_await _) ?_
    | apply State.event_keeps | apply State.fillAll_keeps | apply State.fillTlb_keeps
    | refine Try.stop_of (State.walk_keeps _ _ _ _ ?_) (by assumption) | apply State.Keeps.foldl | apply Try.Keeps.ok
    | apply Try.Keeps.error | split | intro _ | apply State.Keeps.fields

end Sys2Proof.Machine
end

