-- ==== Sys2Proof/Laws/Keeps6.lean ====
section
/-! SUPPORT. What every operation and meaning of Blotter, HostBar, Integer, Power, Proofing, Queues, Sample keeps (`State.Keeps`). -/

namespace Sys2Proof.Machine

/-! ## Blotter -/

theorem State.dieRead_keeps {s0 : State} (s : State) (ident : BitVec 32) (pa n : Nat) (hs : s0.Keeps s) :
    Try.Keeps s0 (fun _ => True) (State.dieRead s ident pa n) := by
  unfold State.dieRead
  try dsimp only
  with_reducible repeat' first
    | assumption | exact True.intro | refine Try.keeps_bind (State.physCheck_keeps _ _ _ _ _ _ ?_) ?_
    | refine Try.keeps_bind (State.seenBytes_keeps _ _ _ _ _ ?_) ?_ | apply State.physCheck_keeps
    | apply State.seenBytes_keeps | refine Try.keeps_bind (P := fun _ => True) ?_ ?_ | apply Try.Keeps.ok | intro _

theorem State.blotterRead_keeps {s0 : State} (s : State) (b : Nat) (hs : s0.Keeps s) :
    Try.Keeps s0 (fun _ => True) (State.blotterRead s b) := by
  unfold State.blotterRead
  try dsimp only
  with_reducible repeat' first
    | assumption | exact True.intro | refine Try.keeps_bind (Try.keeps_require _ _) ?_
    | refine Try.keeps_bind (State.dieRead_keeps _ _ _ _ ?_) ?_ | apply State.dieRead_keeps | apply Try.keeps_require
    | apply Try.Keeps.ok | intro _

theorem State.blotterWrite_keeps {s0 : State} (s : State) (b : Nat) (bs : List Byte) (hs : s0.Keeps s) :
    Try.Keeps s0 s0.Keeps (State.blotterWrite s b bs) := by
  unfold State.blotterWrite
  with_reducible repeat' first
    | assumption | refine Try.keeps_bind (Try.keeps_require _ _) ?_ | apply State.physWrite_keeps | intro _

theorem State.convertInto_keeps {s0 : State} (s : State) (c : Convert) (hs : s0.Keeps s) :
    Try.Keeps s0 s0.Keeps (State.convertInto s c) := by
  unfold State.convertInto
  with_reducible repeat' first
    | assumption | refine Try.keeps_bind (State.blotterRead_keeps _ _ ?_) ?_ | apply State.blotterWrite_keeps | intro _

theorem State.renewBlock_keeps {s0 : State} (s : State) (b : Nat) (hs : s0.Keeps s) : s0.Keeps (State.renewBlock s b) := by
  unfold State.renewBlock
  dsimp only
  with_reducible repeat' first
    | assumption | apply State.ordered_keeps

theorem State.copyBlock_keeps {s0 : State} (s : State) (c : Cow) (hs : s0.Keeps s) :
    Try.Keeps s0 s0.Keeps (State.copyBlock s c) := by
  unfold State.copyBlock
  try dsimp only
  with_reducible repeat' first
    | assumption | refine Try.keeps_bind (State.dieRead_keeps _ _ _ _ ?_) ?_
    | refine Try.keeps_bind (State.physWrite_keeps _ _ _ _ _ ?_) ?_ | apply State.dieRead_keeps
    | apply State.physWrite_keeps | apply State.renewBlock_keeps | refine Try.keeps_bind (P := fun _ => True) ?_ ?_
    | apply Try.Keeps.ok | intro _

theorem State.migrateInto_keeps {s0 : State} (s : State) (c : Convert) (hs : s0.Keeps s) :
    Try.Keeps s0 s0.Keeps (State.migrateInto s c) := by
  unfold State.migrateInto
  with_reducible repeat' first
    | assumption | refine Try.keeps_bind (State.blotterRead_keeps _ _ ?_) ?_ | apply State.blotterWrite_keeps | intro _

theorem State.nextHeader_keeps {s0 : State} (s : State) (hs : s0.Keeps s) : s0.Keeps (State.nextHeader s) := by
  unfold State.nextHeader
  dsimp only
  with_reducible repeat' first
    | assumption | apply State.serviceWrite_keeps | split | apply State.Keeps.fields

theorem State.retireScratch_keeps {s0 : State} (s : State) (b : Nat) (hs : s0.Keeps s) :
    s0.Keeps (State.retireScratch s b) := by
  unfold State.retireScratch
  dsimp only
  with_reducible repeat' first
    | assumption | apply State.Keeps.fields

theorem State.setBusy_keeps {s0 : State} (s : State) (b : Nat) (scratch : Nat) (hs : s0.Keeps s) :
    s0.Keeps (State.setBusy s b scratch) := by
  unfold State.setBusy
  with_reducible repeat' first
    | assumption | apply State.setHeader_keeps

theorem State.startConversion_keeps {s0 : State} (s : State) (b : Nat) (hs : s0.Keeps s) :
    s0.Keeps (State.startConversion s b) := by
  unfold State.startConversion
  dsimp only
  with_reducible repeat' first
    | assumption | apply State.showConversions_keeps | apply State.setBusy_keeps | apply State.setHeaderBits_keeps
    | (have hx := OptKeeps.of (State.takeFree_keeps _ _ (by assumption)) (by assumption); exact hx) | split
    | apply State.Keeps.fields

theorem State.visit_keeps {s0 : State} (s : State) (b : Nat) (hs : s0.Keeps s) : s0.Keeps (State.visit s b) := by
  unfold State.visit
  dsimp only
  with_reducible repeat' first
    | assumption | apply State.setHeaderBits_keeps | apply State.startConversion_keeps | split

theorem execBlotterVisit_keeps {s0 : State} (s : State) (hs : s0.Keeps s) : OutKeeps s0 (execBlotterVisit s) := by
  unfold execBlotterVisit
  dsimp only
  with_reducible repeat' first
    | assumption | refine Try.keeps_bind (Try.keeps_await _) ?_ | apply State.event_keeps | apply State.nextHeader_keeps
    | apply State.visit_keeps | refine Try.stop_of (State.headerCheck_keeps _ _ _ ?_) (by assumption) | apply Try.Keeps.ok
    | apply Try.Keeps.error | split | intro _ | apply State.Keeps.fields

theorem State.swapHeaders_keeps {s0 : State} (s : State) (a : Nat) (b : Nat) (i : Nat) (lo : Nat) (n : Nat)
    (hs : s0.Keeps s) : s0.Keeps (State.swapHeaders s a b i lo n) := by
  unfold State.swapHeaders
  dsimp only
  with_reducible repeat' first
    | assumption | apply State.setHeaderBits_keeps

theorem execConversionSwitch_keeps {s0 : State} (s : State) (hs : s0.Keeps s) : OutKeeps s0 (execConversionSwitch s) := by
  unfold execConversionSwitch
  dsimp only
  with_reducible repeat' first
    | assumption | refine Try.keeps_bind (need_keeps _) ?_ | refine Try.keeps_bind (State.convertInto_keeps _ _ ?_) ?_
    | refine Try.keeps_bind (Try.keeps_await _) ?_ | apply State.event_keeps | apply State.setHeader_keeps
    | apply State.setHeaderBits_keeps | apply State.swapHeaders_keeps | apply State.renewBlock_keeps
    | apply State.showConversions_keeps | apply State.retireScratch_keeps | apply Try.Keeps.ok | intro _
    | apply State.Keeps.fields

theorem execBlotterAccessRefused_keeps {s0 : State} (s : State) (hs : s0.Keeps s) :
    OutKeeps s0 (execBlotterAccessRefused s) := by
  unfold execBlotterAccessRefused
  try dsimp only
  with_reducible repeat' first
    | assumption | exact True.intro | refine Try.keeps_bind (Try.keeps_await _) ?_ | refine Try.keeps_bind (need_keeps _) ?_
    | refine Try.keeps_bind (need_keeps _) ?_ | apply State.event_keeps | apply need_keeps
    | apply State.abortConversion_keeps | apply State.setBlockState_keeps | apply State.post_keeps
    | apply State.refuseMigration_keeps | refine Try.stop_of (need_keeps _) (by assumption)
    | refine Try.keeps_bind (P := fun _ => True) ?_ ?_ | apply Try.keeps_await | apply Try.Keeps.ok | split | intro _
    | apply State.Keeps.fields | apply OutKeeps.next

theorem execMigrationStart_keeps {s0 : State} (s : State) (hs : s0.Keeps s) : OutKeeps s0 (execMigrationStart s) := by
  refine State.event_keeps _ _ hs fun s hs => Try.keeps_bind (need_keeps _) fun w _ => ?_
  refine Try.keeps_bind (Try.keeps_await _) fun _ _ => ?_
  have h : s0.Keeps { s with folio := { s.folio with request := none } } := hs.upd rfl rfl rfl
  dsimp only
  split
  · exact .ok (State.endRequest_keeps _ _ h)
  · split
    · exact .ok (State.endRequest_keeps _ _ h)
    · split
      · exact .ok (State.endRequest_keeps _ _ h)
      · have g := (State.takeFree_keeps _ _ h).of ‹_›
        exact .ok ((State.setBusy_keeps _ _ _ g).upd rfl rfl rfl)

theorem execMigrationSwitch_keeps {s0 : State} (s : State) (hs : s0.Keeps s) : OutKeeps s0 (execMigrationSwitch s) := by
  unfold execMigrationSwitch
  dsimp only
  with_reducible repeat' first
    | assumption | refine Try.keeps_bind (need_keeps _) ?_ | refine Try.keeps_bind (State.migrateInto_keeps _ _ ?_) ?_
    | refine Try.keeps_bind (Try.keeps_await _) ?_ | apply State.event_keeps | apply State.setHeader_keeps
    | apply State.swapHeaders_keeps | apply State.renewBlock_keeps | apply State.endRequest_keeps
    | apply State.retireScratch_keeps | apply Try.Keeps.ok | intro _ | apply State.Keeps.fields

theorem State.switchEntry_keeps {s0 : State} (s : State) (c : Cow) (hs : s0.Keeps s) :
    Try.Keeps s0 (s0.Keeps) (State.switchEntry s c) := by
  unfold State.switchEntry
  try dsimp only
  with_reducible repeat' first
    | assumption | refine Try.keeps_bind (State.physRead_keeps _ _ _ _ _ ?_) ?_
    | refine Try.keeps_bind (State.physWrite_keeps _ _ _ _ _ ?_) ?_ | apply State.physRead_keeps
    | apply State.physWrite_keeps | apply State.ordered_keeps | apply State.dropRef_keeps
    | refine Try.stop_of (State.physRead_keeps _ _ _ _ _ ?_) (by assumption)
    | refine Try.stop_of (State.physWrite_keeps _ _ _ _ _ ?_) (by assumption)
    | (have hx := Try.ok_of (State.physWrite_keeps _ _ _ _ _ (by assumption)) (by assumption); exact hx)
    | refine Try.keeps_bind (P := fun _ => True) ?_ ?_ | apply Try.Keeps.ok | split | intro _

theorem execCopyOnWrite_keeps {s0 : State} (s : State) (hs : s0.Keeps s) :
    OutKeeps s0 (execCopyOnWrite s) := by
  unfold execCopyOnWrite
  try dsimp only
  with_reducible repeat' first
    | assumption | exact True.intro | refine Try.keeps_bind (Try.keeps_await _) ?_ | refine Try.keeps_bind (need_keeps _) ?_
    | refine Try.keeps_bind (need_keeps _) ?_ | refine Try.keeps_bind (State.copyBlock_keeps _ _ ?_) ?_
    | refine Try.keeps_bind (State.switchEntry_keeps _ _ ?_) ?_ | apply State.event_keeps | apply need_keeps
    | apply State.copyBlock_keeps | apply State.switchEntry_keeps | apply State.dropRef_keeps
    | refine Try.stop_of (need_keeps _) (by assumption) | refine Try.stop_of (State.copyBlock_keeps _ _ ?_) (by assumption)
    | (have hx := Try.ok_of (State.copyBlock_keeps _ _ (by assumption)) (by assumption); exact hx)
    | refine Try.stop_of (State.switchEntry_keeps _ _ ?_) (by assumption)
    | (have hx := Try.ok_of (State.switchEntry_keeps _ _ (by assumption)) (by assumption); exact hx)
    | refine Try.keeps_bind (P := fun _ => True) ?_ ?_ | apply Try.keeps_await | apply Try.Keeps.ok | apply Try.Keeps.error
    | exact Stop.Keeps.hold | split | intro _ | apply State.Keeps.fields | apply OutKeeps.next

theorem execFolioDeferredFree_keeps {s0 : State} (s : State) (hs : s0.Keeps s) : OutKeeps s0 (execFolioDeferredFree s) := by
  unfold execFolioDeferredFree
  dsimp only
  with_reducible repeat' first
    | assumption | refine Try.keeps_bind (Try.keeps_await _) ?_ | apply State.event_keeps | apply State.returnFree_keeps
    | apply Try.Keeps.ok | split | intro _ | apply State.Keeps.fields

/-! ## HostBar -/

theorem State.bar2_keeps {s0 : State} (s : State) (off : Nat) (n : Nat) (k : Access) (hs : s0.Keeps s) :
    Try.Keeps s0 (fun _ => True) (State.bar2 s off n k) := by
  unfold State.bar2
  dsimp only
  with_reducible repeat' first
    | assumption | refine Try.keeps_bind (State.storeCheck_keeps _ _ _ _ _ _ ?_) ?_
    | refine Try.keeps_bind (State.physCheck_keeps _ _ _ _ _ _ ?_) ?_ | apply Try.keeps_raise | apply Try.Keeps.ok | split
    | intro _

theorem State.bar2Read_keeps {s0 : State} (s : State) (off : Nat) (n : Nat) (hs : s0.Keeps s) :
    Try.Keeps s0 (fun _ => True) (State.bar2Read s off n) := by
  unfold State.bar2Read
  with_reducible repeat' first
    | assumption | refine Try.keeps_bind (State.bar2_keeps _ _ _ _ ?_) ?_ | apply State.seenBytes_keeps | intro _

theorem State.hostSees_keeps {s0 : State} (old : State) (s : State) (hs : s0.Keeps old) (hs1 : s0.Keeps s) :
    s0.Keeps (State.hostSees old s) := by
  unfold State.hostSees
  with_reducible repeat' first
    | assumption | apply State.ordered_keeps | split

theorem State.bar2Write_keeps {s0 : State} (s : State) (off : Nat) (bs : List Byte) (hs : s0.Keeps s) :
    Try.Keeps s0 s0.Keeps (State.bar2Write s off bs) := by
  unfold State.bar2Write
  with_reducible repeat' first
    | assumption | refine Try.keeps_bind (State.bar2_keeps _ _ _ _ ?_) ?_
    | refine Try.keeps_bind (State.writable_keeps _ _ _ ?_) ?_ | apply State.hostSees_keeps | apply State.writeBytes_keeps
    | apply Try.Keeps.ok | split | intro _

theorem State.hostGive_keeps {s0 : State} (s : State) (o : HostOut) (hs : s0.Keeps s) : s0.Keeps (State.hostGive s o) := by
  unfold State.hostGive
  dsimp only
  with_reducible repeat' first
    | assumption | apply State.Keeps.fields

theorem State.hostData_keeps {s0 : State} (s : State) (bs : List Byte) (hs : s0.Keeps s) :
    s0.Keeps (State.hostData s bs) := by
  unfold State.hostData
  with_reducible repeat' first
    | assumption | apply State.hostGive_keeps

theorem State.hostHead_keeps {s0 : State} (s : State) (hs : s0.Keeps s) :
    Try.Keeps s0 (fun p => s0.Keeps p.2) (State.hostHead s) := by
  unfold State.hostHead
  dsimp only
  with_reducible repeat' first
    | assumption | refine Try.keeps_bind (need_keeps _) ?_ | apply Try.Keeps.ok | intro _ | apply State.Keeps.fields

theorem State.hostRefused_keeps {s0 : State} (s : State) (off : Nat) (hs : s0.Keeps s) :
    s0.Keeps (State.hostRefused s off) := by
  unfold State.hostRefused
  dsimp only
  with_reducible repeat' first
    | assumption | apply State.post_keeps

theorem execTowerReset_keeps {s0 : State} (s : State) (hs : s0.Keeps s) : OutKeeps s0 (execTowerReset s) := by
  refine State.event_keeps _ _ hs fun s hs => ?_
  exact .ok ⟨hs.mem, fun _ => rfl, hs.tower⟩

theorem execBootLenWrite_keeps {s0 : State} (s : State) (hs : s0.Keeps s) : OutKeeps s0 (execBootLenWrite s) := by
  unfold execBootLenWrite
  dsimp only
  with_reducible repeat' first
    | assumption | refine Try.keeps_bind (State.hostHead_keeps _ ?_) ?_ | apply State.event_keeps | apply Try.Keeps.ok
    | apply Try.Keeps.error | exact Stop.Keeps.hold | split | intro _ | apply State.Keeps.fields

theorem execBootVerifyDone_keeps {s0 : State} (s : State) (hs : s0.Keeps s) : OutKeeps s0 (execBootVerifyDone s) := by
  unfold execBootVerifyDone
  dsimp only
  with_reducible repeat' first
    | assumption | refine Try.keeps_bind (Try.keeps_await _) ?_ | apply State.event_keeps | apply Try.Keeps.ok | split
    | intro _ | apply State.Keeps.fields

theorem execAttGo_keeps {s0 : State} (s : State) (hs : s0.Keeps s) : OutKeeps s0 (execAttGo s) := by
  unfold execAttGo
  dsimp only
  with_reducible repeat' first
    | assumption | refine Try.keeps_bind (State.hostHead_keeps _ ?_) ?_ | apply State.event_keeps | apply Try.Keeps.ok
    | apply Try.Keeps.error | exact Stop.Keeps.hold | split | intro _ | apply State.Keeps.fields

theorem execAttReportDone_keeps {s0 : State} (s : State) (hs : s0.Keeps s) : OutKeeps s0 (execAttReportDone s) := by
  unfold execAttReportDone
  dsimp only
  with_reducible repeat' first
    | assumption | refine Try.keeps_bind (Try.keeps_await _) ?_ | apply State.event_keeps | apply Try.Keeps.ok | intro _
    | apply State.Keeps.fields

theorem execHmbCtl_keeps {s0 : State} (s : State) (hs : s0.Keeps s) : OutKeeps s0 (execHmbCtl s) := by
  unfold execHmbCtl
  dsimp only
  with_reducible repeat' first
    | assumption | refine Try.keeps_bind (State.hostHead_keeps _ ?_) ?_ | apply State.event_keeps
    | apply State.setMailbox_keeps | apply State.testParks_keeps | apply Try.Keeps.ok | apply Try.Keeps.error
    | exact Stop.Keeps.hold | split | intro _ | apply State.Keeps.fields

theorem execHmbPend_keeps {s0 : State} (s : State) (hs : s0.Keeps s) : OutKeeps s0 (execHmbPend s) := by
  unfold execHmbPend
  dsimp only
  with_reducible repeat' first
    | assumption | refine Try.keeps_bind (State.hostHead_keeps _ ?_) ?_ | apply State.event_keeps | apply Try.Keeps.ok
    | apply Try.Keeps.error | exact Stop.Keeps.hold | split | intro _ | apply State.Keeps.fields

theorem execHostBarAccess_keeps {s0 : State} (s : State) (hs : s0.Keeps s) : OutKeeps s0 (execHostBarAccess s) := by
  unfold execHostBarAccess
  dsimp only
  with_reducible repeat' first
    | assumption | refine Try.keeps_bind (State.hostHead_keeps _ ?_) ?_ | apply State.event_keeps
    | apply State.hostData_keeps | apply State.hostRefused_keeps
    | refine Try.stop_of (State.bar2Read_keeps _ _ _ ?_) (by assumption)
    | refine Try.stop_of (State.bar2Write_keeps _ _ _ ?_) (by assumption)
    | (have hx := Try.ok_of (State.bar2Write_keeps _ _ _ (by assumption)) (by assumption); exact hx)
    | refine Try.stop_of (State.bar2_keeps _ _ _ _ ?_) (by assumption) | apply Try.Keeps.ok | apply Try.Keeps.error
    | exact Stop.Keeps.hold | split | intro _

theorem State.setWashing_keeps {s0 : State} (s : State) (key : Nat) (v : Option (Option (List Byte))) (hs : s0.Keeps s) :
    s0.Keeps (State.setWashing s key v) := by
  unfold State.setWashing
  dsimp only
  with_reducible repeat' first
    | assumption | split | apply State.Keeps.fields

theorem State.washFail_keeps {s0 : State} (s : State) (key : Nat) (hs : s0.Keeps s) : s0.Keeps (State.washFail s key) := by
  unfold State.washFail
  with_reducible repeat' first
    | assumption | apply State.hostRefused_keeps | apply State.setWashing_keeps | split

theorem State.washAgain_keeps {s0 : State} (s : State) (key : Nat) (pos : Nat) (hs : s0.Keeps s) :
    s0.Keeps (State.washAgain s key pos) := by
  unfold State.washAgain
  with_reducible repeat' first
    | assumption | apply State.setWashing_keeps | apply State.washFail_keeps | split

theorem State.washPlace_keeps {s0 : State} (s : State) (mode chunk : Nat) (hs : s0.Keeps s) :
    Try.Keeps s0 (fun _ => True) (State.washPlace s mode chunk) := by
  unfold State.washPlace
  try dsimp only
  with_reducible repeat' first
    | assumption | exact True.intro | refine Try.keeps_bind (Try.keeps_require _ _) ?_
    | refine Try.keeps_bind (State.storeCheck_keeps _ _ _ _ _ _ ?_) ?_ | apply State.store_keeps
    | apply State.storeCheck_keeps | refine Try.stop_of (State.storeCheck_keeps _ _ _ _ _ _ ?_) (by assumption)
    | apply Try.keeps_raise | apply Try.keeps_require | apply Try.Keeps.ok | split | intro _ | apply State.Keeps.fields

theorem State.washWrite_keeps {s0 : State} (s : State) (mode off : Nat) (bs : List Byte) (hs : s0.Keeps s) :
    Try.Keeps s0 (s0.Keeps) (State.washWrite s mode off bs) := by
  unfold State.washWrite
  try dsimp only
  with_reducible repeat' first
    | assumption | apply State.washAgain_keeps | apply State.washPlace_keeps | apply State.setWashing_keeps
    | apply State.hostRefused_keeps | apply State.washFail_keeps | apply State.hostSees_keeps
    | apply State.storeWashed_keeps | refine Try.stop_of (State.washPlace_keeps _ _ _ ?_) (by assumption)
    | apply Try.Keeps.ok | apply Try.Keeps.error | exact Stop.Keeps.hold | split | intro _ | apply State.Keeps.fields

theorem State.washWrites_keeps {s0 : State} (mode : Nat) (z0 : List (Nat × List Byte)) (z1 : State) (hz1 : s0.Keeps z1) :
    Try.Keeps s0 (s0.Keeps) (State.washWrites mode z0 z1) := by
  induction z0 generalizing z1 with
  | nil => exact .ok hz1
  | cons z zs ih => exact Try.keeps_bind (State.washWrite_keeps _ _ _ _ hz1) fun u hu => ih u hu

theorem execHostWashChunkWrite_keeps {s0 : State} (s : State) (hs : s0.Keeps s) :
    OutKeeps s0 (execHostWashChunkWrite s) := by
  unfold execHostWashChunkWrite
  try dsimp only
  with_reducible repeat' first
    | assumption | exact True.intro | refine Try.keeps_bind (State.hostHead_keeps _ ?_) ?_
    | refine Try.keeps_bind (State.washWrites_keeps _ _ _ ?_) ?_ | apply State.event_keeps | apply State.hostHead_keeps
    | apply State.washWrites_keeps | refine Try.stop_of (State.hostHead_keeps _ ?_) (by assumption)
    | (have hx := Try.ok_of (State.hostHead_keeps _ (by assumption)) (by assumption); exact hx)
    | refine Try.stop_of (State.washWrites_keeps _ _ _ ?_) (by assumption)
    | (have hx := Try.ok_of (State.washWrites_keeps _ _ _ (by assumption)) (by assumption); exact hx)
    | refine Try.keeps_bind (P := fun _ => True) ?_ ?_ | apply Try.Keeps.ok | apply Try.Keeps.error | exact Stop.Keeps.hold
    | split | intro _ | apply State.Keeps.fields | apply OutKeeps.next

theorem execMsixSend_keeps {s0 : State} (s : State) (hs : s0.Keeps s) : OutKeeps s0 (execMsixSend s) := by
  unfold execMsixSend
  dsimp only
  with_reducible repeat' first
    | assumption | refine Try.keeps_bind (Try.keeps_await _) ?_ | apply State.event_keeps | apply State.hostGive_keeps
    | apply Try.Keeps.ok | intro _ | apply State.Keeps.fields

theorem execMailboxBufferWrite_keeps {s0 : State} (s : State) (hs : s0.Keeps s) :
    OutKeeps s0 (execMailboxBufferWrite s) := by
  unfold execMailboxBufferWrite
  dsimp only
  with_reducible repeat' first
    | assumption | refine Try.keeps_bind (State.hostHead_keeps _ ?_) ?_ | apply State.event_keeps
    | apply State.setMailbox_keeps | apply Try.Keeps.ok | apply Try.Keeps.error | exact Stop.Keeps.hold | split | intro _

/-! ## Integer -/

theorem State.alu1_keeps {s0 : State} (s : State) (w : AR) (f : Word → Word) (hs : s0.Keeps s) :
    OutKeeps s0 (State.alu1 s w f) := by
  unfold State.alu1
  with_reducible repeat' first
    | assumption | apply State.aWord_keeps | apply State.advance_keeps | apply State.setReg_keeps | apply Try.Keeps.ok
    | intro _

theorem State.alu2_keeps {s0 : State} (s : State) (w : AR) (f : Word → Word → Word) (hs : s0.Keeps s) :
    OutKeeps s0 (State.alu2 s w f) := by
  unfold State.alu2
  with_reducible repeat' first
    | assumption | apply State.aWord_keeps | apply State.advance_keeps | apply State.setReg_keeps | apply Try.Keeps.ok
    | intro _

theorem State.divide_keeps {s0 : State} (s : State) (w : AR) (f : Word → Word → Word) (hs : s0.Keeps s) :
    OutKeeps s0 (State.divide s w f) := by
  unfold State.divide
  with_reducible repeat' first
    | assumption | refine Try.keeps_bind (Try.keeps_require _ _) ?_ | apply State.aWord_keeps | apply State.advance_keeps
    | apply State.setReg_keeps | apply Try.Keeps.ok | intro _

theorem execAdd_keeps {s0 : State} (w : AR) (s : State) (hs : s0.Keeps s) : OutKeeps s0 (execAdd w s) := by
  unfold execAdd
  with_reducible repeat' first
    | assumption | apply State.alu2_keeps

theorem execSub_keeps {s0 : State} (w : AR) (s : State) (hs : s0.Keeps s) : OutKeeps s0 (execSub w s) := by
  unfold execSub
  with_reducible repeat' first
    | assumption | apply State.alu2_keeps

theorem execAddi_keeps {s0 : State} (w : AI) (s : State) (hs : s0.Keeps s) : OutKeeps s0 (execAddi w s) := by
  unfold execAddi
  with_reducible repeat' first
    | assumption | apply State.aWord_keeps | apply State.advance_keeps | apply State.setReg_keeps | apply Try.Keeps.ok
    | intro _

theorem execMul_keeps {s0 : State} (w : AR) (s : State) (hs : s0.Keeps s) : OutKeeps s0 (execMul w s) := by
  unfold execMul
  with_reducible repeat' first
    | assumption | apply State.alu2_keeps

theorem execMulh_keeps {s0 : State} (w : AR) (s : State) (hs : s0.Keeps s) : OutKeeps s0 (execMulh w s) := by
  unfold execMulh
  with_reducible repeat' first
    | assumption | apply State.alu2_keeps

theorem execMulhn_keeps {s0 : State} (w : AR) (s : State) (hs : s0.Keeps s) : OutKeeps s0 (execMulhn w s) := by
  unfold execMulhn
  with_reducible repeat' first
    | assumption | apply State.alu2_keeps

theorem execDiv_keeps {s0 : State} (w : AR) (s : State) (hs : s0.Keeps s) : OutKeeps s0 (execDiv w s) := by
  unfold execDiv
  with_reducible repeat' first
    | assumption | apply State.divide_keeps

theorem execDivn_keeps {s0 : State} (w : AR) (s : State) (hs : s0.Keeps s) : OutKeeps s0 (execDivn w s) := by
  unfold execDivn
  with_reducible repeat' first
    | assumption | apply State.divide_keeps

theorem execRem_keeps {s0 : State} (w : AR) (s : State) (hs : s0.Keeps s) : OutKeeps s0 (execRem w s) := by
  unfold execRem
  with_reducible repeat' first
    | assumption | apply State.divide_keeps

theorem execRemn_keeps {s0 : State} (w : AR) (s : State) (hs : s0.Keeps s) : OutKeeps s0 (execRemn w s) := by
  unfold execRemn
  with_reducible repeat' first
    | assumption | apply State.divide_keeps

theorem execAnd_keeps {s0 : State} (w : AR) (s : State) (hs : s0.Keeps s) : OutKeeps s0 (execAnd w s) := by
  unfold execAnd
  with_reducible repeat' first
    | assumption | apply State.alu2_keeps

theorem execOr_keeps {s0 : State} (w : AR) (s : State) (hs : s0.Keeps s) : OutKeeps s0 (execOr w s) := by
  unfold execOr
  with_reducible repeat' first
    | assumption | apply State.alu2_keeps

theorem execXor_keeps {s0 : State} (w : AR) (s : State) (hs : s0.Keeps s) : OutKeeps s0 (execXor w s) := by
  unfold execXor
  with_reducible repeat' first
    | assumption | apply State.alu2_keeps

theorem execAndn_keeps {s0 : State} (w : AR) (s : State) (hs : s0.Keeps s) : OutKeeps s0 (execAndn w s) := by
  unfold execAndn
  with_reducible repeat' first
    | assumption | apply State.alu2_keeps

theorem execShl_keeps {s0 : State} (w : AR) (s : State) (hs : s0.Keeps s) : OutKeeps s0 (execShl w s) := by
  unfold execShl
  with_reducible repeat' first
    | assumption | apply State.alu2_keeps

theorem execShr_keeps {s0 : State} (w : AR) (s : State) (hs : s0.Keeps s) : OutKeeps s0 (execShr w s) := by
  unfold execShr
  with_reducible repeat' first
    | assumption | apply State.alu2_keeps

theorem execSra_keeps {s0 : State} (w : AR) (s : State) (hs : s0.Keeps s) : OutKeeps s0 (execSra w s) := by
  unfold execSra
  with_reducible repeat' first
    | assumption | apply State.alu2_keeps

theorem execRol_keeps {s0 : State} (w : AR) (s : State) (hs : s0.Keeps s) : OutKeeps s0 (execRol w s) := by
  unfold execRol
  with_reducible repeat' first
    | assumption | apply State.alu2_keeps

theorem execRor_keeps {s0 : State} (w : AR) (s : State) (hs : s0.Keeps s) : OutKeeps s0 (execRor w s) := by
  unfold execRor
  with_reducible repeat' first
    | assumption | apply State.alu2_keeps

theorem execClz_keeps {s0 : State} (w : AR) (s : State) (hs : s0.Keeps s) : OutKeeps s0 (execClz w s) := by
  unfold execClz
  with_reducible repeat' first
    | assumption | apply State.alu1_keeps

theorem execCtz_keeps {s0 : State} (w : AR) (s : State) (hs : s0.Keeps s) : OutKeeps s0 (execCtz w s) := by
  unfold execCtz
  with_reducible repeat' first
    | assumption | apply State.alu1_keeps

theorem execPopc_keeps {s0 : State} (w : AR) (s : State) (hs : s0.Keeps s) : OutKeeps s0 (execPopc w s) := by
  unfold execPopc
  with_reducible repeat' first
    | assumption | apply State.alu1_keeps

theorem execMin_keeps {s0 : State} (w : AR) (s : State) (hs : s0.Keeps s) : OutKeeps s0 (execMin w s) := by
  unfold execMin
  with_reducible repeat' first
    | assumption | apply State.alu2_keeps

theorem execMax_keeps {s0 : State} (w : AR) (s : State) (hs : s0.Keeps s) : OutKeeps s0 (execMax w s) := by
  unfold execMax
  with_reducible repeat' first
    | assumption | apply State.alu2_keeps

theorem execMinn_keeps {s0 : State} (w : AR) (s : State) (hs : s0.Keeps s) : OutKeeps s0 (execMinn w s) := by
  unfold execMinn
  with_reducible repeat' first
    | assumption | apply State.alu2_keeps

theorem execMaxn_keeps {s0 : State} (w : AR) (s : State) (hs : s0.Keeps s) : OutKeeps s0 (execMaxn w s) := by
  unfold execMaxn
  with_reducible repeat' first
    | assumption | apply State.alu2_keeps

theorem execSel_keeps {s0 : State} (w : AR) (s : State) (hs : s0.Keeps s) : OutKeeps s0 (execSel w s) := by
  unfold execSel
  with_reducible repeat' first
    | assumption | apply State.aWord_keeps | apply State.advance_keeps | apply State.setReg_keeps | apply Try.Keeps.ok
    | split | intro _

theorem execSlt_keeps {s0 : State} (w : AR) (s : State) (hs : s0.Keeps s) : OutKeeps s0 (execSlt w s) := by
  unfold execSlt
  with_reducible repeat' first
    | assumption | apply State.alu2_keeps

theorem execSltn_keeps {s0 : State} (w : AR) (s : State) (hs : s0.Keeps s) : OutKeeps s0 (execSltn w s) := by
  unfold execSltn
  with_reducible repeat' first
    | assumption | apply State.alu2_keeps

theorem execSeq_keeps {s0 : State} (w : AR) (s : State) (hs : s0.Keeps s) : OutKeeps s0 (execSeq w s) := by
  unfold execSeq
  with_reducible repeat' first
    | assumption | apply State.alu2_keeps

theorem execLi_keeps {s0 : State} (w : AI) (s : State) (hs : s0.Keeps s) : OutKeeps s0 (execLi w s) := by
  unfold execLi
  with_reducible repeat' first
    | assumption | apply State.aWord_keeps | apply State.advance_keeps | apply State.setReg_keeps | apply Try.Keeps.ok
    | intro _

theorem execBfx_keeps {s0 : State} (w : AI) (s : State) (hs : s0.Keeps s) : OutKeeps s0 (execBfx w s) := by
  unfold execBfx
  with_reducible repeat' first
    | assumption | apply State.aWord_keeps | apply State.advance_keeps | apply State.setReg_keeps | apply Try.Keeps.ok
    | intro _

theorem execBfi_keeps {s0 : State} (w : AI) (s : State) (hs : s0.Keeps s) : OutKeeps s0 (execBfi w s) := by
  unfold execBfi
  with_reducible repeat' first
    | assumption | apply State.aWord_keeps | apply State.advance_keeps | apply State.setReg_keeps | apply Try.Keeps.ok
    | intro _

theorem execAdds_keeps {s0 : State} (w : AR) (s : State) (hs : s0.Keeps s) : OutKeeps s0 (execAdds w s) := by
  unfold execAdds
  dsimp only
  with_reducible repeat' first
    | assumption | apply State.aWord_keeps | apply State.advance_keeps | apply State.setFlags_keeps
    | apply State.setReg_keeps | apply Try.Keeps.ok | intro _

/-! ## Power -/

theorem State.announceJoin_keeps {s0 : State} (s : State) (b : Baseline) (serial : Nat) (g : Nat) (asked : Nat) (at_ : Nat)
    (hs : s0.Keeps s) : s0.Keeps (State.announceJoin s b serial g asked at_) := by
  unfold State.announceJoin
  with_reducible repeat' first
    | assumption | apply State.sendAll_keeps | apply State.Keeps.fields

theorem State.ballastCycle_keeps {s0 : State} (s : State) (c : Nat) (cycle : Nat) (hs : s0.Keeps s) :
    s0.Keeps (State.ballastCycle s c cycle) := by
  unfold State.ballastCycle
  dsimp only
  with_reducible repeat' first
    | assumption | apply State.setCluster_keeps | split

theorem State.checkSensor_keeps {s0 : State} (s : State) (c : Nat) (i : Nat) (own : Bool) (third : Bool) (apart : Bool)
    (hs : s0.Keeps s) : s0.Keeps (State.checkSensor s c i own third apart) := by
  unfold State.checkSensor
  dsimp only
  with_reducible repeat' first
    | assumption | apply State.setCluster_keeps | apply State.post_keeps | split

theorem State.checkCluster_keeps {s0 : State} (old : State) (s : State) (c : Nat) (hs : s0.Keeps old) (hs1 : s0.Keeps s) :
    s0.Keeps (State.checkCluster old s c) := by
  unfold State.checkCluster
  dsimp only
  with_reducible repeat' first
    | assumption | apply State.setCluster_keeps | apply State.checkSensor_keeps | apply State.Keeps.foldl | intro _

theorem State.decideCeiling_keeps {s0 : State} (s : State) (hs : s0.Keeps s) : s0.Keeps (State.decideCeiling s) := by
  unfold State.decideCeiling
  dsimp only
  with_reducible repeat' first
    | assumption | apply State.sendAll_keeps | split | apply State.Keeps.fields

theorem State.showBaseline_keeps {s0 : State} (s : State) (hs : s0.Keeps s) : s0.Keeps (State.showBaseline s) := by
  unfold State.showBaseline
  dsimp only
  with_reducible repeat' first
    | assumption | apply State.serviceWrite_keeps

theorem State.endCommand_keeps {s0 : State} (s : State) (serial : Nat) (result : Nat) (hs : s0.Keeps s) :
    s0.Keeps (State.endCommand s serial result) := by
  unfold State.endCommand
  dsimp only
  with_reducible repeat' first
    | assumption | apply State.showBaseline_keeps | apply State.Keeps.fields

theorem State.stretchCycle_keeps {s0 : State} (s : State) (c : Nat) (y : Nat) (hs : s0.Keeps s) :
    s0.Keeps (State.stretchCycle s c y) := by
  unfold State.stretchCycle
  dsimp only
  with_reducible repeat' first
    | assumption | apply State.setCluster_keeps

theorem State.stretchHeavy_keeps {s0 : State} (s : State) (c : Nat) (hs : s0.Keeps s) :
    s0.Keeps (State.stretchHeavy s c) := by
  unfold State.stretchHeavy
  with_reducible repeat' first
    | assumption | apply State.stretchCycle_keeps | split

theorem State.heatBanks_keeps {s0 : State} (s : State) (hs : s0.Keeps s) : s0.Keeps (State.heatBanks s) := by
  unfold State.heatBanks
  dsimp only
  with_reducible repeat' first
    | assumption | split | apply State.Keeps.fields

theorem State.lateRecord_keeps {s0 : State} (s : State) (node : Nat) (at_ : Nat) (hs : s0.Keeps s) :
    s0.Keeps (State.lateRecord s node at_) := by
  unfold State.lateRecord
  with_reducible repeat' first
    | assumption | apply State.post_keeps | split

theorem State.setClock_keeps {s0 : State} (s : State) (c : Nat) (f : Nat) (hs : s0.Keeps s) :
    s0.Keeps (State.setClock s c f) := by
  unfold State.setClock
  dsimp only
  with_reducible repeat' first
    | assumption | apply State.setCluster_keeps | split

theorem State.reclock_keeps {s0 : State} (s : State) (hs : s0.Keeps s) : s0.Keeps (State.reclock s) := by
  unfold State.reclock
  with_reducible repeat' first
    | assumption | apply State.setClock_keeps | apply State.Keeps.foldl | intro _

theorem execInkTick_keeps {s0 : State} (s : State) (hs : s0.Keeps s) : OutKeeps s0 (execInkTick s) := by
  unfold execInkTick
  dsimp only
  with_reducible repeat' first
    | assumption | refine Try.keeps_bind (Try.keeps_await _) ?_ | apply State.event_keeps | apply State.setCluster_keeps
    | apply State.testParks_keeps | apply State.Keeps.foldl | apply Try.Keeps.ok | intro _ | apply State.Keeps.fields

theorem execInkGrant_keeps {s0 : State} (s : State) (hs : s0.Keeps s) : OutKeeps s0 (execInkGrant s) := by
  unfold execInkGrant
  dsimp only
  with_reducible repeat' first
    | assumption | refine Try.keeps_bind (need_keeps _) ?_ | refine Try.keeps_bind (Try.keeps_await _) ?_
    | apply State.event_keeps | apply State.testParks_keeps | apply State.onTask_keeps | apply Try.Keeps.ok | split | intro _
    | apply State.Keeps.fields

theorem execRegionExpiry_keeps {s0 : State} (s : State) (hs : s0.Keeps s) : OutKeeps s0 (execRegionExpiry s) := by
  unfold execRegionExpiry
  dsimp only
  with_reducible repeat' first
    | assumption | refine Try.keeps_bind (State.argTask_keeps _ ?_) ?_ | refine Try.keeps_bind (need_keeps _) ?_
    | refine Try.keeps_bind (Try.keeps_await _) ?_ | apply State.event_keeps | apply State.setTask_keeps | apply Try.Keeps.ok
    | intro _ | apply State.Keeps.fields

theorem execOverdraw_keeps {s0 : State} (s : State) (hs : s0.Keeps s) : OutKeeps s0 (execOverdraw s) := by
  unfold execOverdraw
  dsimp only
  with_reducible repeat' first
    | assumption | refine Try.keeps_bind (State.argTask_keeps _ ?_) ?_ | refine Try.keeps_bind (need_keeps _) ?_
    | refine Try.keeps_bind (Try.keeps_await _) ?_ | apply State.event_keeps | apply State.setTask_keeps | apply Try.Keeps.ok
    | split | intro _

theorem execSensorCheck_keeps {s0 : State} (s : State) (hs : s0.Keeps s) : OutKeeps s0 (execSensorCheck s) := by
  unfold execSensorCheck
  dsimp only
  with_reducible repeat' first
    | assumption | refine Try.keeps_bind (Try.keeps_await _) ?_ | apply State.event_keeps | apply State.heatBanks_keeps
    | apply State.checkCluster_keeps | apply State.Keeps.foldl | apply Try.Keeps.ok | intro _ | apply State.Keeps.fields

theorem execClusterClamp_keeps {s0 : State} (s : State) (hs : s0.Keeps s) : OutKeeps s0 (execClusterClamp s) := by
  unfold execClusterClamp
  dsimp only
  with_reducible repeat' first
    | assumption | refine Try.keeps_bind (Try.keeps_await _) ?_ | apply State.event_keeps | apply State.setCluster_keeps
    | apply State.setClock_keeps | apply Try.Keeps.ok | intro _

theorem execPairMeasurement_keeps {s0 : State} (s : State) (hs : s0.Keeps s) : OutKeeps s0 (execPairMeasurement s) := by
  unfold execPairMeasurement
  dsimp only
  with_reducible repeat' first
    | assumption | refine Try.keeps_bind (Try.keeps_await _) ?_ | apply State.event_keeps | apply State.setCluster_keeps
    | apply Try.Keeps.ok | split | intro _ | apply State.Keeps.fields

theorem execDroopDetect_keeps {s0 : State} (s : State) (hs : s0.Keeps s) : OutKeeps s0 (execDroopDetect s) := by
  unfold execDroopDetect
  dsimp only
  with_reducible repeat' first
    | assumption | refine Try.keeps_bind (Try.keeps_await _) ?_ | apply State.event_keeps | apply State.stretchCycle_keeps
    | apply Try.Keeps.ok | intro _

theorem State.showCeilings_keeps {s0 : State} (s : State) (hs : s0.Keeps s) : s0.Keeps (State.showCeilings s) := by
  unfold State.showCeilings
  with_reducible repeat' first
    | assumption | apply State.serviceWrite_keeps

theorem execGovernorEvaluation_keeps {s0 : State} (s : State) (hs : s0.Keeps s) :
    OutKeeps s0 (execGovernorEvaluation s) := by
  unfold execGovernorEvaluation
  dsimp only
  with_reducible repeat' first
    | assumption | refine Try.keeps_bind (Try.keeps_await _) ?_ | apply State.event_keeps | apply State.decideCeiling_keeps
    | apply State.showCeilings_keeps | apply Try.Keeps.ok | intro _ | apply State.Keeps.fields

theorem State.setBase_keeps {s0 : State} (s : State) (b : Baseline) (hs : s0.Keeps s) : s0.Keeps (State.setBase s b) := by
  unfold State.setBase
  with_reducible repeat' first
    | assumption | apply State.showCeilings_keeps | apply State.showBaseline_keeps | apply State.reclock_keeps
    | apply State.Keeps.fields

theorem execCeilingChange_keeps {s0 : State} (s : State) (hs : s0.Keeps s) : OutKeeps s0 (execCeilingChange s) := by
  unfold execCeilingChange
  with_reducible repeat' first
    | assumption | refine Try.keeps_bind (Try.keeps_await _) ?_ | apply State.event_keeps | apply State.decideCeiling_keeps
    | apply State.setBase_keeps | apply Try.Keeps.ok | intro _

theorem execBaselineJoin_keeps {s0 : State} (s : State) (hs : s0.Keeps s) : OutKeeps s0 (execBaselineJoin s) := by
  unfold execBaselineJoin
  dsimp only
  with_reducible repeat' first
    | assumption | refine Try.keeps_bind (need_keeps _) ?_ | refine Try.keeps_bind (Try.keeps_await _) ?_
    | apply State.event_keeps | apply State.endCommand_keeps | apply State.sendAll_keeps | apply Try.Keeps.ok | split
    | intro _ | apply State.Keeps.fields

theorem execBaselineLeave_keeps {s0 : State} (s : State) (hs : s0.Keeps s) : OutKeeps s0 (execBaselineLeave s) := by
  unfold execBaselineLeave
  dsimp only
  with_reducible repeat' first
    | assumption | refine Try.keeps_bind (need_keeps _) ?_ | refine Try.keeps_bind (Try.keeps_await _) ?_
    | apply State.event_keeps | apply State.endCommand_keeps | apply State.sendAll_keeps | apply Try.Keeps.ok | split
    | intro _ | apply State.Keeps.fields

theorem execBaselineCommandMalformed_keeps {s0 : State} (s : State) (hs : s0.Keeps s) :
    OutKeeps s0 (execBaselineCommandMalformed s) := by
  unfold execBaselineCommandMalformed
  dsimp only
  with_reducible repeat' first
    | assumption | refine Try.keeps_bind (need_keeps _) ?_ | refine Try.keeps_bind (Try.keeps_await _) ?_
    | apply State.event_keeps | apply State.endCommand_keeps | apply Try.Keeps.ok | intro _

theorem execBaselineJoinReply_keeps {s0 : State} (s : State) (hs : s0.Keeps s) : OutKeeps s0 (execBaselineJoinReply s) := by
  unfold execBaselineJoinReply
  dsimp only
  with_reducible repeat' first
    | assumption | refine Try.keeps_bind (need_keeps _) ?_ | apply State.event_keeps | apply State.announceJoin_keeps
    | apply Try.Keeps.ok | apply Try.Keeps.error | exact Stop.Keeps.hold | split | intro _ | apply State.Keeps.fields

theorem execBaselineJoinTimeout_keeps {s0 : State} (s : State) (hs : s0.Keeps s) :
    OutKeeps s0 (execBaselineJoinTimeout s) := by
  unfold execBaselineJoinTimeout
  with_reducible repeat' first
    | assumption | refine Try.keeps_bind (Try.keeps_await _) ?_ | apply State.event_keeps | apply State.announceJoin_keeps
    | apply Try.Keeps.ok | apply Try.Keeps.error | exact Stop.Keeps.hold | split | intro _

theorem execBaselineAnnouncement_keeps {s0 : State} (s : State) (hs : s0.Keeps s) :
    OutKeeps s0 (execBaselineAnnouncement s) := by
  unfold execBaselineAnnouncement
  dsimp only
  with_reducible repeat' first
    | assumption | refine Try.keeps_bind (need_keeps _) ?_ | apply State.event_keeps | apply State.lateRecord_keeps
    | apply State.setBase_keeps | apply State.sendAll_keeps | apply Try.Keeps.ok | apply Try.Keeps.error
    | exact Stop.Keeps.hold | split | intro _ | apply State.Keeps.fields

theorem execHeartbeatSend_keeps {s0 : State} (s : State) (hs : s0.Keeps s) : OutKeeps s0 (execHeartbeatSend s) := by
  unfold execHeartbeatSend
  dsimp only
  with_reducible repeat' first
    | assumption | refine Try.keeps_bind (Try.keeps_await _) ?_ | apply State.event_keeps | apply State.sendAll_keeps
    | apply Try.Keeps.ok | intro _ | apply State.Keeps.fields

theorem execHeartbeatReceive_keeps {s0 : State} (s : State) (hs : s0.Keeps s) : OutKeeps s0 (execHeartbeatReceive s) := by
  unfold execHeartbeatReceive
  dsimp only
  with_reducible repeat' first
    | assumption | refine Try.keeps_bind (need_keeps _) ?_ | apply State.event_keeps | apply State.setBase_keeps
    | apply State.lateRecord_keeps | apply Try.Keeps.ok | apply Try.Keeps.error | exact Stop.Keeps.hold | split | intro _
    | apply State.Keeps.fields

theorem execSilentDrop_keeps {s0 : State} (s : State) (hs : s0.Keeps s) : OutKeeps s0 (execSilentDrop s) := by
  unfold execSilentDrop
  dsimp only
  with_reducible repeat' first
    | assumption | refine Try.keeps_bind (Try.keeps_await _) ?_ | apply State.event_keeps | apply State.setBase_keeps
    | apply Try.Keeps.ok | intro _

theorem execMemberExclusion_keeps {s0 : State} (s : State) (hs : s0.Keeps s) : OutKeeps s0 (execMemberExclusion s) := by
  unfold execMemberExclusion
  dsimp only
  with_reducible repeat' first
    | assumption | refine Try.keeps_bind (need_keeps _) ?_ | refine Try.keeps_bind (Try.keeps_await _) ?_
    | apply State.event_keeps | apply State.setBase_keeps | apply Try.Keeps.ok | intro _

/-! ## Proofing -/

theorem State.placeCore_keeps {s0 : State} (s : State) (core : Nat) (hs : s0.Keeps s) :
    s0.Keeps (State.placeCore s core) := by
  unfold State.placeCore
  with_reducible repeat' first
    | assumption | apply State.placeAll_keeps | split

theorem State.endProofing_keeps {s0 : State} (s : State) (core : Nat) (result : Nat) (hs : s0.Keeps s) :
    s0.Keeps (State.endProofing s core result) := by
  unfold State.endProofing
  try dsimp only
  with_reducible repeat' first
    | assumption | apply State.postNow_keeps | apply State.placeCore_keeps | split | intro _ | apply State.Keeps.fields

theorem execProofingPatternStart_keeps {s0 : State} (s : State) (hs : s0.Keeps s) :
    OutKeeps s0 (execProofingPatternStart s) := by
  unfold execProofingPatternStart
  with_reducible repeat' first
    | assumption | refine Try.keeps_bind (need_keeps _) ?_ | refine Try.keeps_bind (Try.keeps_await _) ?_
    | apply State.event_keeps | apply State.startPattern_keeps | apply Try.Keeps.ok | intro _

theorem State.scrub_keeps {s0 : State} (s : State) (core : Nat) (hs : s0.Keeps s) : s0.Keeps (State.scrub s core) := by
  unfold State.scrub
  with_reducible repeat' first
    | assumption | apply State.Keeps.fields

theorem execProofingPatternEnd_keeps {s0 : State} (s : State) (hs : s0.Keeps s) :
    OutKeeps s0 (execProofingPatternEnd s) := by
  unfold execProofingPatternEnd
  with_reducible repeat' first
    | assumption | refine Try.keeps_bind (need_keeps _) ?_ | refine Try.keeps_bind (Try.keeps_await _) ?_
    | apply State.event_keeps | apply State.endProofing_keeps | apply State.scrub_keeps | apply Try.Keeps.ok
    | apply Try.Keeps.error | exact Stop.Keeps.hold | split | intro _ | apply State.Keeps.fields

theorem execProofingAbort_keeps {s0 : State} (s : State) (hs : s0.Keeps s) : OutKeeps s0 (execProofingAbort s) := by
  unfold execProofingAbort
  try dsimp only
  with_reducible repeat' first
    | assumption | exact True.intro | refine Try.keeps_bind (Try.keeps_await _) ?_ | refine Try.keeps_bind (need_keeps _) ?_
    | refine Try.keeps_bind (need_keeps _) ?_ | apply State.event_keeps | apply need_keeps | apply State.scrub_keeps
    | apply State.endProofing_keeps | refine Try.stop_of (need_keeps _) (by assumption)
    | refine Try.keeps_bind (P := fun _ => True) ?_ ?_ | apply Try.keeps_await | apply Try.Keeps.ok | split | intro _
    | apply State.Keeps.fields | apply OutKeeps.next

/-! ## Queues -/

theorem State.leaveQueue_keeps {s0 : State} (s : State) (q : Nat) (hs : s0.Keeps s) : s0.Keeps (State.leaveQueue s q) := by
  unfold State.leaveQueue
  with_reducible repeat' first
    | assumption | apply State.testQueues_keeps | apply State.Keeps.fields

theorem State.queueCopy_keeps {s0 : State} (s : State) (q : Nat) (e : QEntry) (hs : s0.Keeps s) :
    Try.Keeps s0 s0.Keeps (State.queueCopy s q e) := by
  unfold State.queueCopy
  try dsimp only
  with_reducible repeat' first
    | assumption | refine Try.keeps_bind (State.dieRead_keeps _ _ _ _ ?_) ?_
    | refine Try.keeps_bind (boxChecks_keeps _ _ _ _ _ _ _ _ ?_) ?_ | apply State.dieRead_keeps | apply boxChecks_keeps
    | apply State.issueCopy_keeps | refine Try.stop_of (State.dieRead_keeps _ _ _ _ ?_) (by assumption)
    | refine Try.stop_of (boxChecks_keeps _ _ _ _ _ _ _ _ ?_) (by assumption)
    | refine Try.keeps_bind (P := fun _ => True) ?_ ?_ | apply State.Keeps.foldl | apply Try.keeps_raise
    | apply Try.Keeps.ok | split | intro _ | apply State.Keeps.fields

theorem State.queueHead_keeps {s0 : State} (s : State) (action : Nat) (hs : s0.Keeps s) :
    Try.Keeps s0 (fun _ => True) (State.queueHead s action) := by
  unfold State.queueHead
  with_reducible repeat' first
    | assumption | refine Try.keeps_bind (need_keeps _) ?_ | refine Try.keeps_bind (Try.keeps_await _) ?_
    | apply Try.Keeps.ok | intro _

theorem execQueueLaunchAction_keeps {s0 : State} (s : State) (hs : s0.Keeps s) : OutKeeps s0 (execQueueLaunchAction s) := by
  unfold execQueueLaunchAction
  dsimp only
  with_reducible repeat' first
    | assumption | refine Try.keeps_bind (State.queueHead_keeps _ _ ?_) ?_ | refine Try.keeps_bind (Try.keeps_await _) ?_
    | apply State.event_keeps | apply State.arm_keeps | apply State.leaveQueue_keeps | apply State.post_keeps
    | apply Try.Keeps.ok | split | intro _

theorem State.startAction_keeps {s0 : State} (old : State) (q : Nat) (e : QEntry) (y3 : Try State) (hs : s0.Keeps old)
    (hr : Try.Keeps s0 (s0.Keeps) y3) : Try.Keeps s0 s0.Keeps (State.startAction old q e y3) := by
  unfold State.startAction
  split
  · cases hr with | ok h => exact .ok (State.leaveQueue_keeps _ _ h)
  · exact .ok (State.post_keeps _ _ (State.leaveQueue_keeps _ _ hs))
  · exact hr

theorem execQueueCopyAction_keeps {s0 : State} (s : State) (hs : s0.Keeps s) : OutKeeps s0 (execQueueCopyAction s) := by
  unfold execQueueCopyAction
  dsimp only
  with_reducible repeat' first
    | assumption | refine Try.keeps_bind (State.queueHead_keeps _ _ ?_) ?_ | apply State.event_keeps
    | apply State.startAction_keeps | apply State.queueCopy_keeps | intro _

theorem execQueueSemAction_keeps {s0 : State} (s : State) (hs : s0.Keeps s) : OutKeeps s0 (execQueueSemAction s) := by
  unfold execQueueSemAction
  dsimp only
  with_reducible repeat' first
    | assumption | refine Try.keeps_bind (State.queueHead_keeps _ _ ?_) ?_
    | refine Try.keeps_bind (State.semAllowed_keeps _ _ _ ?_) ?_ | apply State.event_keeps | apply State.startAction_keeps
    | apply State.setSem_keeps | apply State.releaseSem_keeps | apply Try.Keeps.ok | intro _

theorem execQueueHirqAction_keeps {s0 : State} (s : State) (hs : s0.Keeps s) : OutKeeps s0 (execQueueHirqAction s) := by
  unfold execQueueHirqAction
  dsimp only
  with_reducible repeat' first
    | assumption | refine Try.keeps_bind (State.queueHead_keeps _ _ ?_) ?_ | apply State.event_keeps
    | apply State.leaveQueue_keeps | apply State.raiseVector_keeps | apply State.releaseHost_keeps | apply Try.Keeps.ok
    | intro _

/-! ## Sample -/

theorem execMonitorRecord_keeps {s0 : State} (s : State) (hs : s0.Keeps s) : OutKeeps s0 (execMonitorRecord s) := by
  unfold execMonitorRecord
  dsimp only
  with_reducible repeat' first
    | assumption | refine Try.keeps_bind (need_keeps _) ?_ | apply State.event_keeps | apply State.setMonitor_keeps
    | apply Try.Keeps.ok | intro _

theorem execPcSample_keeps {s0 : State} (s : State) (hs : s0.Keeps s) : OutKeeps s0 (execPcSample s) := by
  unfold execPcSample
  dsimp only
  with_reducible repeat' first
    | assumption | refine Try.keeps_bind (State.argTask_keeps _ ?_) ?_ | refine Try.keeps_bind (need_keeps _) ?_
    | refine Try.keeps_bind (Try.keeps_await _) ?_ | apply State.event_keeps | apply State.setTask_keeps
    | refine Try.stop_of (State.viewWrite_keeps _ _ _ _ ?_) (by assumption)
    | (have hx := Try.ok_of (State.viewWrite_keeps _ _ _ _ (by assumption)) (by assumption); exact hx) | apply Try.Keeps.ok
    | apply Try.Keeps.error | split | intro _

end Sys2Proof.Machine
end

