-- ==== Sys2Proof/Laws/Keeps7.lean ====
section
/-! SUPPORT. What every operation and meaning of Service, Streams, Dispatch, Fetch, Schedule keeps (`State.Keeps`). -/

namespace Sys2Proof.Machine

/-! ## Service -/

theorem State.takeRoute_keeps {s0 : State} (s : State) (i : Nat) (w : Nat) (hs : s0.Keeps s) :
    s0.Keeps (State.takeRoute s i w) := by
  unfold State.takeRoute
  dsimp only
  with_reducible repeat' first
    | assumption | split | apply State.Keeps.fields

theorem State.refuseWord_keeps {s0 : State} (s : State) (off : Nat) (w : Word) (hs : s0.Keeps s) :
    s0.Keeps (State.refuseWord s off w) := by
  unfold State.refuseWord
  with_reducible repeat' first
    | assumption | apply State.post_keeps | split | apply State.Keeps.fields

theorem State.readRoute_keeps {s0 : State} (s : State) (i : Nat) (hs : s0.Keeps s) : s0.Keeps (State.readRoute s i) := by
  unfold State.readRoute
  dsimp only
  with_reducible repeat' first
    | assumption | apply State.takeRoute_keeps | apply State.refuseWord_keeps | split | apply State.Keeps.fields

theorem State.readRoutes_keeps {s0 : State} (s : State) (hs : s0.Keeps s) : s0.Keeps (State.readRoutes s) := by
  unfold State.readRoutes
  dsimp only
  with_reducible repeat' first
    | assumption | apply State.readRoute_keeps | apply State.Keeps.foldl

theorem State.takeWord_keeps {s0 : State} (s : State) (off : Nat) (ok : Nat → Bool) (f : State → Nat → State)
    (hs : s0.Keeps s) (hf : ∀ a b, s0.Keeps a → s0.Keeps (f a b)) : s0.Keeps (State.takeWord s off ok f) := by
  unfold State.takeWord
  with_reducible repeat' first
    | assumption | apply hf | apply State.refuseWord_keeps | split | apply State.Keeps.fields

theorem State.takeInk_keeps {s0 : State} (s : State) (w : Nat) (hs : s0.Keeps s) : s0.Keeps (State.takeInk s w) := by
  unfold State.takeInk
  dsimp only
  with_reducible repeat' first
    | assumption | split | apply State.Keeps.fields

theorem State.takeRequested_keeps {s0 : State} (s : State) (w : Nat) (hs : s0.Keeps s) :
    s0.Keeps (State.takeRequested s w) := by
  unfold State.takeRequested
  dsimp only
  with_reducible repeat' first
    | assumption | apply State.Keeps.fields

theorem State.takeCommand_keeps {s0 : State} (s : State) (w : Nat) (hs : s0.Keeps s) : s0.Keeps (State.takeCommand s w) := by
  unfold State.takeCommand
  dsimp only
  with_reducible repeat' first
    | assumption | apply State.endCommand_keeps | split | apply State.Keeps.fields

theorem State.takeFolio_keeps {s0 : State} (s : State) (w : Nat) (hs : s0.Keeps s) : s0.Keeps (State.takeFolio s w) := by
  unfold State.takeFolio
  dsimp only
  with_reducible repeat' first
    | assumption | split | apply State.Keeps.fields

theorem State.takeBlotter_keeps {s0 : State} (s : State) (w : Nat) (hs : s0.Keeps s) : s0.Keeps (State.takeBlotter s w) := by
  unfold State.takeBlotter
  dsimp only
  with_reducible repeat' first
    | assumption | apply State.Keeps.fields

theorem State.takeRequest_keeps {s0 : State} (s : State) (w : Nat) (hs : s0.Keeps s) : s0.Keeps (State.takeRequest s w) := by
  unfold State.takeRequest
  dsimp only
  with_reducible repeat' first
    | assumption | split | apply State.Keeps.fields

theorem State.takeTables_keeps {s0 : State} (s : State) (w : Nat) (hs : s0.Keeps s) : s0.Keeps (State.takeTables s w) := by
  unfold State.takeTables
  dsimp only
  with_reducible repeat' first
    | assumption | split | apply State.Keeps.fields

theorem State.takeDetect_keeps {s0 : State} (s : State) (w : Nat) (hs : s0.Keeps s) : s0.Keeps (State.takeDetect s w) := by
  unfold State.takeDetect
  dsimp only
  with_reducible repeat' first
    | assumption | apply State.Keeps.fields

theorem State.takeFabric_keeps {s0 : State} (s : State) (w : Nat) (hs : s0.Keeps s) : s0.Keeps (State.takeFabric s w) := by
  unfold State.takeFabric
  dsimp only
  with_reducible repeat' first
    | assumption | apply State.showFabric_keeps | split | apply State.Keeps.fields

theorem State.readWords_keeps {s0 : State} (s : State) (hs : s0.Keeps s) : s0.Keeps (State.readWords s) := by
  unfold State.readWords
  dsimp only
  with_reducible repeat' first
    | assumption | apply State.takeWord_keeps | apply State.takeInk_keeps | apply State.takeRequested_keeps
    | apply State.takeCommand_keeps | apply State.takeFolio_keeps | apply State.takeHead_keeps
    | apply State.takeBlotter_keeps | apply State.takeRequest_keeps | apply State.takeTables_keeps
    | apply State.takeDetect_keeps | apply State.readRoutes_keeps | apply State.takeFabric_keeps | apply State.Keeps.foldl
    | intro _

theorem execServiceAreaRead_keeps {s0 : State} (s : State) (hs : s0.Keeps s) : OutKeeps s0 (execServiceAreaRead s) := by
  unfold execServiceAreaRead
  dsimp only
  with_reducible repeat' first
    | assumption | refine Try.keeps_bind (Try.keeps_await _) ?_ | apply State.event_keeps | apply State.decideCeiling_keeps
    | apply State.readWords_keeps | apply Try.Keeps.ok | intro _ | apply State.Keeps.fields

/-! ## Streams -/

theorem State.bitAt_keeps {s0 : State} (s : State) (v : View) (base : Nat) (i : Nat) (hs : s0.Keeps s) :
    Try.Keeps s0 (fun _ => True) (State.bitAt s v base i) := by
  unfold State.bitAt
  with_reducible repeat' first
    | assumption | refine Try.keeps_bind (State.viewRead_keeps _ _ _ _ ?_) ?_ | apply Try.Keeps.ok | intro _

theorem State.countConflicts_keeps {s0 : State} (s : State) (core : Nat) (pas : List Nat) (hs : s0.Keeps s) :
    s0.Keeps (State.countConflicts s core pas) := by
  unfold State.countConflicts
  dsimp only
  with_reducible repeat' first
    | assumption | apply State.setCore_keeps | apply State.Keeps.foldl | split | intro _ | apply State.Keeps.fields

theorem State.decodeFrom_keeps {s0 : State} (s : State) (v : View) (codes : List (Nat × Nat × Nat)) (base : Nat) (y4 : Nat)
    (y5 : Nat) (y6 : Nat) (y7 : Nat) (y8 : Nat) (y9 : List Nat) (hs : s0.Keeps s) :
    Try.Keeps s0 (fun _ => True) (State.decodeFrom s v codes base y4 y5 y6 y7 y8 y9) := by
  induction y4 generalizing y5 y6 y7 y8 y9 with
  | zero =>
    unfold State.decodeFrom
    with_reducible repeat' first
      | assumption | exact True.intro | refine Try.keeps_bind (State.bitAt_keeps _ _ _ _ ?_) ?_ | apply Try.Keeps.ok | split
      | intro _
  | succ z ih =>
    unfold State.decodeFrom
    with_reducible repeat' first
      | assumption | exact True.intro | apply ih | refine Try.keeps_bind (State.bitAt_keeps _ _ _ _ ?_) ?_
      | apply Try.Keeps.ok | split | intro _

theorem State.decodeGroup_keeps {s0 : State} (s : State) (v : View) (b : Binding) (k : Nat) (hs : s0.Keeps s) :
    Try.Keeps s0 (fun _ => True) (State.decodeGroup s v b k) := by
  unfold State.decodeGroup
  dsimp only
  with_reducible repeat' first
    | assumption | exact True.intro | refine Try.keeps_bind (State.decodeFrom_keeps _ _ _ _ _ _ _ _ _ _ ?_) ?_
    | apply Try.Keeps.ok | split | intro _

theorem State.eachLane_keeps {s0 : State} (f : Nat → Try Lane) (y1 : List Nat)
    (hf : ∀ a, Try.Keeps s0 (fun _ => True) (f a)) : Try.Keeps s0 (fun _ => True) (State.eachLane f y1) := by
  induction y1 with
  | nil =>
    unfold State.eachLane
    with_reducible repeat' first
      | assumption | exact True.intro | apply hf | refine Try.keeps_bind (P := fun _ => True) ?_ ?_ | apply Try.Keeps.ok
      | intro _
  | cons z zs ih =>
    unfold State.eachLane
    with_reducible repeat' first
      | assumption | exact True.intro | refine Try.keeps_bind ih ?_ | apply hf
      | refine Try.keeps_bind (P := fun _ => True) ?_ ?_ | apply Try.Keeps.ok | intro _

theorem State.laneScale_keeps {s0 : State} (s : State) (v : View) (g : Glyph) (c : List Int) (padded : Bool)
    (hs : s0.Keeps s) : Try.Keeps s0 (fun _ => True) (State.laneScale s v g c padded) := by
  unfold State.laneScale
  with_reducible repeat' first
    | assumption | exact True.intro | refine Try.keeps_bind (State.viewRead_keeps _ _ _ _ ?_) ?_ | apply Try.Keeps.ok | split
    | intro _

theorem State.laneOps_keeps {s0 : State} (s : State) (v : View) (b : Binding) (g : Glyph) (c : List Int) (x : Lane)
    (hs : s0.Keeps s) : Try.Keeps s0 (fun _ => True) (State.laneOps s v b g c x) := by
  unfold State.laneOps
  dsimp only
  with_reducible repeat' first
    | assumption | exact True.intro | refine Try.keeps_bind (State.laneScale_keeps _ _ _ _ _ ?_) ?_
    | refine Try.keeps_bind (P := fun _ => True) ?_ ?_ | apply Try.Keeps.ok | split | intro _

theorem State.laneFetch_keeps {s0 : State} (s : State) (v : View) (b : Binding) (k : Nat) (l : Nat) (hs : s0.Keeps s) :
    Try.Keeps s0 (fun _ => True) (State.laneFetch s v b k l) := by
  unfold State.laneFetch
  dsimp only
  with_reducible repeat' first
    | assumption | refine Try.keeps_bind (State.readElem_keeps _ _ _ _ _ ?_) ?_ | apply State.laneOps_keeps | split | intro _

theorem State.vectorFetch_keeps {s0 : State} (s : State) (v : View) (b : Binding) (k : Nat) (hs : s0.Keeps s) :
    Try.Keeps s0 (fun _ => True) (State.vectorFetch s v b k) := by
  unfold State.vectorFetch
  dsimp only
  with_reducible repeat' first
    | assumption | split | refine Try.keeps_bind (State.readElem_keeps _ _ _ _ _ ?_) ?_ | apply State.eachLane_keeps
    | apply State.laneOps_keeps | apply State.laneFetch_keeps | intro _

theorem State.vectorsFetch_keeps {s0 : State} (s : State) (v : View) (b : Binding) (y3 : List Nat) (hs : s0.Keeps s) :
    Try.Keeps s0 (fun _ => True) (State.vectorsFetch s v b y3) := by
  induction y3 with
  | nil =>
    unfold State.vectorsFetch
    with_reducible repeat' first
      | assumption | exact True.intro | refine Try.keeps_bind (State.vectorFetch_keeps _ _ _ _ ?_) ?_ | apply Try.Keeps.ok
      | intro _
  | cons z zs ih =>
    unfold State.vectorsFetch
    with_reducible repeat' first
      | assumption | exact True.intro | refine Try.keeps_bind ih ?_
      | refine Try.keeps_bind (State.vectorFetch_keeps _ _ _ _ ?_) ?_ | apply Try.Keeps.ok | intro _

theorem State.deliverVector_keeps {s0 : State} (s : State) (v : View) (b : Binding) (k : Nat) (hs : s0.Keeps s) :
    Try.Keeps s0 (fun _ => True) (State.deliverVector s v b k) := by
  unfold State.deliverVector
  dsimp only
  with_reducible repeat' first
    | assumption | refine Try.keeps_bind (State.decodeGroup_keeps _ _ _ _ ?_) ?_
    | refine Try.keeps_bind (State.vectorFetch_keeps _ _ _ _ ?_) ?_
    | refine Try.keeps_bind (State.vectorsFetch_keeps _ _ _ _ ?_) ?_ | apply Try.Keeps.ok | split | intro _

theorem State.entropyTable_keeps {s0 : State} (s : State) (d : List Word) (g : Glyph) (hs : s0.Keeps s) :
    Try.Keeps s0 (fun _ => True) (State.entropyTable s d g) := by
  unfold State.entropyTable
  dsimp only
  with_reducible repeat' first
    | assumption | exact True.intro | refine Try.keeps_bind (State.viewRead_keeps _ _ _ _ ?_) ?_
    | refine Try.keeps_bind (Try.keeps_require _ _) ?_ | apply Try.Keeps.ok | split | intro _

theorem State.endBinding_keeps {s0 : State} (s : State) (id n : Nat) (hs : s0.Keeps s) :
    s0.Keeps (State.endBinding s id n) := by
  unfold State.endBinding
  try dsimp only
  with_reducible repeat' first
    | assumption | apply State.endSources_keeps | intro _

theorem State.bindWords_keeps {s0 : State} (s : State) (va gs gd : Nat) (hs : s0.Keeps s) :
    Try.Keeps s0 (fun _ => True) (State.bindWords s va gs gd) := by
  unfold State.bindWords
  have each (n : Nat) : Try.Keeps s0 (fun _ => True) (checked (s.glyphWords n)) :=
    checked_keeps _ (State.glyphWords_keeps _ _ hs)
  have one : Try.Keeps s0 (fun _ => True) (collect [checked (s.glyphWords gs)]) :=
    collect_all fun r hr => List.mem_singleton.1 hr ▸ each gs
  have two : Try.Keeps s0 (fun _ => True) (collect [checked (s.glyphWords gs), checked (s.glyphWords gd)]) :=
    collect_all fun r hr => by
      rcases List.mem_cons.1 hr with rfl | hr
      · exact each gs
      · exact List.mem_singleton.1 hr ▸ each gd
  try dsimp only
  with_reducible repeat' first
    | assumption | exact True.intro | refine Try.keeps_bind (State.viewRead_keeps _ _ _ _ ?_) ?_
    | refine Try.keeps_bind (together_keeps _ _ ?_ ?_) ?_ | refine Try.keeps_bind (checked_keeps _ ?_) ?_
    | refine Try.keeps_bind (State.glyphWords_keeps _ _ ?_) ?_ | apply State.viewRead_keeps | apply together_keeps
    | apply checked_keeps | apply State.glyphWords_keeps
    | refine Try.stop_of (State.viewRead_keeps _ _ _ _ ?_) (by assumption)
    | refine Try.stop_of (together_keeps _ _ ?_ ?_) (by assumption)
    | refine Try.stop_of (checked_keeps _ ?_) (by assumption)
    | refine Try.stop_of (State.glyphWords_keeps _ _ ?_) (by assumption) | refine Try.keeps_bind (P := fun _ => True) ?_ ?_
    | apply Try.Keeps.ok | apply Try.Keeps.error | split | intro _ | apply State.Keeps.fields

theorem execSbind_keeps {s0 : State} (w : AC) (s : State) (hs : s0.Keeps s) : OutKeeps s0 (execSbind w s) := by
  unfold execSbind
  try dsimp only
  with_reducible repeat' first
    | assumption | exact True.intro | refine Try.keeps_bind (Try.keeps_require _ _) ?_
    | refine Try.keeps_bind (Task.notInHandler_keeps _) ?_ | refine Try.keeps_bind (State.bindWords_keeps _ _ _ _ ?_) ?_
    | refine Try.keeps_bind (State.entropyTable_keeps _ _ _ ?_) ?_ | apply State.taskWord_keeps
    | apply Task.notInHandler_keeps | apply State.bindWords_keeps | apply State.entropyTable_keeps
    | apply State.endBinding_keeps | apply State.setTask_keeps | apply State.put_keeps | apply State.ordered_keeps
    | apply State.advance_keeps | refine Try.stop_of (Task.notInHandler_keeps _) (by assumption)
    | refine Try.stop_of (State.bindWords_keeps _ _ _ _ ?_) (by assumption)
    | refine Try.stop_of (State.entropyTable_keeps _ _ _ ?_) (by assumption)
    | refine Try.keeps_bind (P := fun _ => True) ?_ ?_ | apply Try.keeps_require | apply Try.Keeps.ok
    | apply Try.Keeps.error | exact Stop.Keeps.trap _ _ | split | intro _ | apply State.Keeps.fields | apply OutKeeps.next

theorem execSdrop_keeps {s0 : State} (w : AC) (s : State) (hs : s0.Keeps s) : OutKeeps s0 (execSdrop w s) := by
  unfold execSdrop
  try dsimp only
  with_reducible repeat' first
    | assumption | exact True.intro | refine Try.keeps_bind (Task.notInHandler_keeps _) ?_ | apply State.taskWord_keeps
    | apply Task.notInHandler_keeps | apply State.endBinding_keeps | apply State.setTask_keeps | apply State.ordered_keeps
    | apply State.advance_keeps | apply Try.Keeps.ok | intro _ | apply State.Keeps.fields | apply OutKeeps.next

theorem execStreamVectorFetch_keeps {s0 : State} (s : State) (hs : s0.Keeps s) : OutKeeps s0 (execStreamVectorFetch s) := by
  unfold execStreamVectorFetch
  dsimp only
  with_reducible repeat' first
    | assumption | refine Try.keeps_bind (need_keeps _) ?_ | refine Try.keeps_bind (Try.keeps_await _) ?_
    | apply State.event_keeps | apply State.measure_keeps | apply State.countConflicts_keeps | apply State.setTask_keeps
    | apply State.post_keeps | apply State.dropFailed_keeps
    | refine Try.stop_of (State.deliverVector_keeps _ _ _ _ ?_) (by assumption) | apply Try.Keeps.ok | apply Try.Keeps.error
    | split | intro _

/-! ## Dispatch -/

theorem exec_keeps {s0 : State} (i : Instr) (s : State) (hs : s0.Keeps s) : OutKeeps s0 (exec i s) := by
  unfold exec
  with_reducible repeat' first
    | assumption | apply execAdd_keeps | apply execSub_keeps | apply execAddi_keeps | apply execMul_keeps
    | apply execMulh_keeps | apply execMulhn_keeps | apply execDiv_keeps | apply execDivn_keeps | apply execRem_keeps
    | apply execRemn_keeps | apply execAnd_keeps | apply execOr_keeps | apply execXor_keeps | apply execAndn_keeps
    | apply execShl_keeps | apply execShr_keeps | apply execSra_keeps | apply execRol_keeps | apply execRor_keeps
    | apply execClz_keeps | apply execCtz_keeps | apply execPopc_keeps | apply execMin_keeps | apply execMax_keeps
    | apply execMinn_keeps | apply execMaxn_keeps | apply execSel_keeps | apply execSlt_keeps | apply execSltn_keeps
    | apply execSeq_keeps | apply execLi_keeps | apply execBfx_keeps | apply execBfi_keeps | apply execAdds_keeps
    | apply execB_keeps | apply execJ_keeps | apply execJal_keeps | apply execJr_keeps | apply execBqp_keeps
    | apply execFin_keeps | apply execNop_keeps | apply execLd_keeps | apply execSt_keeps | apply execLds_keeps
    | apply execSts_keeps | apply execLdx_keeps | apply execStx_keeps | apply execGath_keeps | apply execScat_keeps
    | apply execPref_keeps | apply execFence_keeps | apply execCpy_keeps | apply execCpyvIn_keeps | apply execCpyvOut_keeps
    | apply execCpyb_keeps | apply execCpyx_keeps | apply execSbind_keeps | apply execSdrop_keeps | apply execGdef_keeps
    | apply execGset_keeps | apply execGget_keeps | apply execFalloc_keeps | apply execFaddref_keeps | apply execFdrop_keeps
    | apply execPseal_keeps | apply execBxp_keeps | apply execBarv_keeps | apply execBwt_keeps | apply execBtst_keeps
    | apply execBbnd_keeps | apply execBubd_keeps | apply execBfwd_keeps | apply execSadd_keeps | apply execScas_keeps
    | apply execSmax_keeps | apply execSxch_keeps | apply execSrd_keeps | apply execSwt_keeps | apply execInkq_keeps
    | apply execInkr_keeps | apply execTrap_keeps | apply execTret_keeps | apply execCsrr_keeps | apply execCsrw_keeps
    | apply execTsc_keeps | apply execParkBar_keeps | apply execParkSem_keeps | apply execParkMbx_keeps
    | apply execParkInk_keeps | apply execYield_keeps | apply execLgo_keeps | apply execLpatch_keeps
    | apply execQentLaunch_keeps | apply execQentCopy_keeps | apply execQentSem_keeps | apply execQentHirq_keeps
    | apply execMbxr_keeps | apply execMbxs_keeps | apply execHirq_keeps | apply execPreempt_keeps
    | apply execProofStart_keeps | apply execProofAbort_keeps | apply execSampm_keeps | apply execVadd_keeps
    | apply execVsub_keeps | apply execVmul_keeps | apply execVmulh_keeps | apply execVmad_keeps | apply execVdot4_keeps
    | apply execVdot8_keeps | apply execVmin_keeps | apply execVmax_keeps | apply execVabs_keeps | apply execVabsd_keeps
    | apply execVneg_keeps | apply execVavg_keeps | apply execVshl_keeps | apply execVshr_keeps | apply execVsra_keeps
    | apply execVrsh_keeps | apply execVand_keeps | apply execVor_keeps | apply execVxor_keeps | apply execVandn_keeps
    | apply execVnot_keeps | apply execVpopc_keeps | apply execVclz_keeps | apply execVsel_keeps | apply execVcmp_keeps
    | apply execVclamp_keeps | apply execVfadd_keeps | apply execVfsub_keeps | apply execVfmul_keeps | apply execVfma_keeps
    | apply execVfms_keeps | apply execVfnma_keeps | apply execVfmin_keeps | apply execVfmax_keeps | apply execVfabs_keeps
    | apply execVfneg_keeps | apply execVfcmp_keeps | apply execVfclass_keeps | apply execVrcp_keeps | apply execVrsq_keeps
    | apply execVsqrt_keeps | apply execVdiv_keeps | apply execVexp2_keeps | apply execVlog2_keeps | apply execVfscl_keeps
    | apply execVcvt_keeps | apply execVcvte_keeps | apply execVqmx_keeps | apply execVdqmx_keeps | apply execVamax_keeps
    | apply execEset_keeps | apply execEsetImm_keeps | apply execEget_keeps | apply execVperm_keeps | apply execVbcst_keeps
    | apply execVzip_keeps | apply execVunzip_keeps | apply execVpack_keeps | apply execVunpk_keeps | apply execVlsh_keeps
    | apply execVmov_keeps | apply execVmovi_keeps | apply execVbf2_keeps | apply execVbf4_keeps | apply execVtwg_keeps
    | apply execVcmul_keeps | apply execVcmac_keeps | apply execVred_keeps | apply execVscan_keeps | apply execVrsum_keeps
    | apply execKand_keeps | apply execKor_keeps | apply execKxor_keeps | apply execKnot_keeps | apply execKsetLt_keeps
    | apply execKsetGe_keeps | apply execKsetMod_keeps | apply execKmov_keeps | apply execKmovFromv_keeps
    | apply execKmovTov_keeps | apply execLoop_keeps | apply execLoopr_keeps | apply execXb_keeps | apply execXbk_keeps
    | apply execXj_keeps | apply execXfin_keeps | apply execVdead_keeps | apply execVpush_keeps | apply execLease_keeps
    | apply execLfree_keeps | apply execMma_keeps | apply execMmaz_keeps | apply execMmb_keeps | apply execMmi_keeps
    | apply execMclr_keeps | apply execMld_keeps | apply execMst_keeps | apply execMadd_keeps | apply execMscl_keeps
    | apply execMset_keeps | apply execMinc_keeps | apply execMrep_keeps | apply execMfence_keeps | apply execMbarv_keeps
    | apply execMfin_keeps | apply execMnop_keeps | apply execForwardedArrival_keeps | apply execXLanding_keeps
    | apply execLoadReturn_keeps | apply execUncorrectableLoadDelivery_keeps | apply execVpushArrival_keeps
    | apply execXqEntryArrival_keeps | apply execStreamVectorFetch_keeps | apply execCopyChunkLanding_keeps
    | apply execMatrixCommandComplete_keeps | apply execMatrixFetchFault_keeps | apply execMatrixGlyphInvalid_keeps
    | apply execLeaseGrant_keeps | apply execHeaderEntry_keeps | apply execHeaderWaitRelease_keeps
    | apply execSectionRetirement_keeps | apply execXIssue_keeps | apply execTrapDelivery_keeps
    | apply execRubricatorTrap_keeps | apply execPendingWriteReplay_keeps | apply execFaultRecordPost_keeps
    | apply execAnswerResume_keeps | apply execAnswerSkip_keeps | apply execAnswerEnd_keeps | apply execAnswerAbandon_keeps
    | apply execWatchdogExpiry_keeps | apply execTaskUnpark_keeps | apply execTaskWaitsReached_keeps
    | apply execTaskPlacement_keeps | apply execContextLoadComplete_keeps | apply execArmingCompletion_keeps
    | apply execPreemptDrainEnd_keeps | apply execPreemptDrainTimeout_keeps | apply execPreemptSaveComplete_keeps
    | apply execQueueLaunchAction_keeps | apply execQueueCopyAction_keeps | apply execQueueSemAction_keeps
    | apply execQueueHirqAction_keeps | apply execInkTick_keeps | apply execInkGrant_keeps | apply execRegionExpiry_keeps
    | apply execOverdraw_keeps | apply execSensorCheck_keeps | apply execClusterClamp_keeps | apply execPairMeasurement_keeps
    | apply execDroopDetect_keeps | apply execGovernorEvaluation_keeps | apply execCeilingChange_keeps
    | apply execBaselineJoin_keeps | apply execBaselineLeave_keeps | apply execBaselineCommandMalformed_keeps
    | apply execBaselineJoinReply_keeps | apply execBaselineJoinTimeout_keeps | apply execBaselineAnnouncement_keeps
    | apply execHeartbeatSend_keeps | apply execHeartbeatReceive_keeps | apply execSilentDrop_keeps
    | apply execMemberExclusion_keeps | apply execServiceAreaRead_keeps | apply execBlotterVisit_keeps
    | apply execConversionSwitch_keeps | apply execBlotterAccessRefused_keeps | apply execMigrationStart_keeps
    | apply execMigrationSwitch_keeps | apply execPagedWrite_keeps | apply execCopyOnWrite_keeps
    | apply execFolioDeferredFree_keeps | apply execCtlInval_keeps | apply execInvalidationComplete_keeps
    | apply execCtlRuling_keeps | apply execReRulingComplete_keeps | apply execCtlMirlen_keeps
    | apply execBankRetirement_keeps | apply execBankSwapSwitch_keeps | apply execEccRetry_keeps
    | apply execRemapVoteFreeze_keeps | apply execTowerSeal_keeps | apply execProofingPatternStart_keeps
    | apply execProofingPatternEnd_keeps | apply execProofingAbort_keeps | apply execGegilFlitReceive_keeps
    | apply execPortRetrain_keeps | apply execRemoteRequestApply_keeps | apply execRemoteResponse_keeps
    | apply execWakeWrite_keeps | apply execRemoteResend_keeps | apply execPathFailure_keeps
    | apply execTagFilterExpiry_keeps | apply execTscTimingExchange_keeps | apply execTscSyncLoss_keeps
    | apply execCollectiveDataPhase_keeps | apply execCollectiveCompletion_keeps | apply execCollectiveStop_keeps
    | apply execCollectiveAbandonMessage_keeps | apply execTowerReset_keeps | apply execBootLenWrite_keeps
    | apply execBootVerifyDone_keeps | apply execAttGo_keeps | apply execAttReportDone_keeps | apply execHmbCtl_keeps
    | apply execHmbPend_keeps | apply execHostBarAccess_keeps | apply execHostWashChunkWrite_keeps | apply execMsixSend_keeps
    | apply execMonitorRecord_keeps | apply execPcSample_keeps | apply execRegisterWrite_keeps
    | apply execWalkCompletion_keeps | apply execLinkTrainingComplete_keeps | apply execMailboxBufferWrite_keeps | split

/-! ## Fetch -/

theorem State.begin_keeps {s0 : State} (s : State) (ag : Agent) (hs : s0.Keeps s) : s0.Keeps (State.begin s ag) := by
  exact ⟨hs.mem, fun _ => rfl, hs.tower⟩

theorem State.conflicted_keeps {s0 : State} (s : State) (i : Instr) (o : Host.Outcome State Fault Refusal)
    (ho : OutKeeps s0 o) : OutKeeps s0 (s.conflicted i o) := by
  cases ho with
  | next h =>
    unfold State.conflicted
    dsimp only
    repeat' first
      | exact .next h | exact .next (State.countConflicts_keeps _ _ _ h) | split
  | fault f => exact .fault f
  | refused r => exact .refused r

theorem State.endStall_keeps {s0 : State} (s : State) (id : Nat) (t : Task) (hs : s0.Keeps s) :
    s0.Keeps (State.endStall s id t) := by
  unfold State.endStall
  with_reducible repeat' first
    | assumption | apply State.measure_keeps | apply State.setTask_keeps | split

theorem State.fetchWord_keeps {s0 : State} (s : State) (hs : s0.Keeps s) :
    Try.Keeps s0 (fun _ => True) (State.fetchWord s) := by
  unfold State.fetchWord
  dsimp only
  with_reducible repeat' first
    | assumption | refine Try.keeps_bind (State.physCheck_keeps _ _ _ _ _ _ ?_) ?_ | apply State.readBytes_keeps
    | apply State.fetch_keeps | apply Try.Keeps.error | exact Stop.Keeps.hold | split | intro _

theorem State.issued_keeps {s0 : State} (s : State) (u : State) (hs : s0.Keeps s) (hs1 : s0.Keeps u) :
    s0.Keeps (State.issued s u) := by
  unfold State.issued
  dsimp only
  with_reducible repeat' first
    | assumption | apply State.setCore_keeps | apply State.onTask_keeps | apply State.endStall_keeps | split
    | apply State.Keeps.fields

theorem State.owns_keeps {s0 : State} (s : State) (o : Host.Outcome State Fault Refusal) (hs : s0.Keeps s)
    (ho : OutKeeps s0 o) : OutKeeps s0 (s.owns o) := by
  cases ho with
  | next h =>
    unfold State.owns
    dsimp only
    repeat' first
      | exact .next h | exact .next (State.owned_keeps _ _ _ hs h) | split
  | fault f => exact .fault f
  | refused r => exact .refused r

theorem State.settle_keeps {s0 : State} (s : State) (o : Host.Outcome State Fault Refusal) (hs : s0.Keeps s)
    (ho : OutKeeps s0 o) : OutKeeps s0 (s.settle o) := by
  cases ho with
  | next h =>
    unfold State.settle
    refine .next ?_
    split
    · exact h
    · exact State.issued_keeps s _ hs h
  | fault f => exact .fault f
  | refused r => exact .refused r

theorem State.runBytes_keeps {s0 : State} (s : State) (bs : List Byte) (hs : s0.Keeps s) : OutKeeps s0 (s.runBytes bs) := by
  unfold State.runBytes
  split
  · exact State.owns_keeps _ _ hs (State.conflicted_keeps _ _ _ (State.settle_keeps s _ hs (exec_keeps _ s hs)))
  · exact State.settle_keeps s _ hs (.next (State.takeTrap_keeps s _ _ hs))

theorem State.runEvent_keeps {s0 : State} (s : State) (i : Instr) (a : Arg) (hs : s0.Keeps s) :
    OutKeeps s0 (s.runEvent i a) :=
  exec_keeps i _ ⟨hs.mem, fun _ => rfl, hs.tower⟩

theorem State.stallForGrant_keeps {s0 : State} (s : State) (y1 : Agent) (hs : s0.Keeps s) :
    s0.Keeps (State.stallForGrant s y1) := by
  unfold State.stallForGrant
  with_reducible repeat' first
    | assumption | apply State.onTask_keeps | split

theorem State.runWord_keeps {s0 : State} (s : State) (ag : Agent) (hs : s0.Keeps s) : OutKeeps s0 (s.runWord ag) := by
  unfold State.runWord
  have hb := State.begin_keeps s ag hs
  dsimp only
  split
  · have hf := State.fetchWord_keeps (s0 := s0) (s.begin ag) hb
    split
    · exact State.runBytes_keeps _ _ hb
    · rename_i e he
      exact State.settle_keeps _ _ hb (.next (State.finish_keeps _ _ hb (.error (Try.stop_of hf he))))
  · exact .next (State.held_keeps _ (State.stallForGrant_keeps _ _ hb))

theorem State.runTurn_keeps {s0 : State} (s : State) (t : Turn) (hs : s0.Keeps s) : OutKeeps s0 (s.runTurn t) := by
  cases t with
  | idle => exact .next hs
  | word ag => exact State.runWord_keeps s ag hs
  | event i a => exact State.runEvent_keeps s i a hs

/-! ## Schedule -/

theorem State.endCycles_keeps {s0 : State} (old : State) (s : State) (hs : s0.Keeps old) (hs1 : s0.Keeps s) :
    s0.Keeps (State.endCycles old s) := by
  unfold State.endCycles
  with_reducible repeat' first
    | assumption | apply State.stretchHeavy_keeps | apply State.ballastCycle_keeps | apply State.Keeps.foldl | split
    | intro _

theorem State.markStall_keeps {s0 : State} (s : State) (e : Nat × Task) (hs : s0.Keeps s) :
    s0.Keeps (State.markStall s e) := by
  unfold State.markStall
  dsimp only
  with_reducible repeat' first
    | assumption | apply State.endStall_keeps | apply State.setTask_keeps | split

theorem State.slewed_keeps {s0 : State} (s : State) (hs : s0.Keeps s) : s0.Keeps (State.slewed s) := by
  unfold State.slewed
  dsimp only
  with_reducible repeat' first
    | assumption | split | apply State.Keeps.fields

theorem State.passTime_keeps {s0 : State} (s : State) (hs : s0.Keeps s) : s0.Keeps (State.passTime s) := by
  unfold State.passTime
  dsimp only
  with_reducible repeat' first
    | assumption | apply State.markStall_keeps | apply State.slewed_keeps | apply State.endCycles_keeps
    | apply State.Keeps.foldl | apply State.Keeps.fields

theorem State.receive_keeps {s0 : State} (s : State) (m : FabMsg) (hs : s0.Keeps s) : s0.Keeps (State.receive s m) := by
  unfold State.receive
  with_reducible repeat' first
    | assumption | split | apply State.Keeps.fields

end Sys2Proof.Machine
end

