-- ==== Sys2Proof/Laws/Codec.lean ====
section
/-! SUPPORT. What the field layouts of the word formats say: a word built from an opcode and fields has that opcode and those
fields. -/

namespace Sys2Proof.Laws

open Sys2Proof

/-- Bits that lie in the lower operand. -/
theorem cat_lo {a b n : Nat} (x : BitVec a) (y : BitVec b) (lo len : Nat) (h : lo + len ≤ b) (hn : b ≤ n) :
   (cat n x y).extractLsb' lo len = y.extractLsb' lo len := by
  apply BitVec.eq_of_toNat_eq
  simp only [cat, BitVec.extractLsb'_toNat, BitVec.toNat_ofNat, Nat.shiftRight_eq_div_pow]
  obtain ⟨c, rfl⟩ := Nat.exists_eq_add_of_le h
  obtain ⟨d, rfl⟩ := Nat.exists_eq_add_of_le hn
  rw [← Nat.mod_mul_right_div_self, ← Nat.mod_mul_right_div_self (y.toNat)]
  congr 1
  rw [← Nat.pow_add, Nat.mod_mod_of_dvd _ (Nat.pow_dvd_pow 2 (by omega))]
  rw [Nat.add_mod, Nat.mod_eq_zero_of_dvd (Nat.dvd_mul_left_of_dvd (Nat.pow_dvd_pow 2 (by omega)) _), Nat.zero_add, Nat.mod_mod]

/-- Bits that lie in the upper operand. -/
theorem cat_hi {a b n : Nat} (x : BitVec a) (y : BitVec b) (lo len : Nat) (h : b ≤ lo) (hn : a + b = n) :
   (cat n x y).extractLsb' lo len = x.extractLsb' (lo - b) len := by
  apply BitVec.eq_of_toNat_eq
  simp only [cat, BitVec.extractLsb'_toNat, BitVec.toNat_ofNat, Nat.shiftRight_eq_div_pow]
  subst hn
  obtain ⟨c, rfl⟩ := Nat.exists_eq_add_of_le h
  have hx := x.isLt; have hy := y.isLt
  have hlt : x.toNat * 2 ^ b + y.toNat < 2 ^ (a + b) := by
    rw [Nat.pow_add]
    have : (x.toNat + 1) * 2 ^ b ≤ 2 ^ a * 2 ^ b := Nat.mul_le_mul_right _ hx
    rw [Nat.add_mul] at this
    omega
  rw [Nat.mod_eq_of_lt hlt, Nat.pow_add, ← Nat.div_div_eq_div_mul, Nat.mul_comm x.toNat, Nat.mul_add_div (Nat.two_pow_pos b),
    Nat.div_eq_of_lt hy]
  simp

theorem getAR_putAR (op : BitVec 8) (f : AR) : getAR (putAR op f) = f := by
  cases f; simp (discharger := decide) only [getAR, putAR, cat_hi, cat_lo, Nat.reduceSub, BitVec.extractLsb'_eq_self]

theorem putAR_hi (op : BitVec 8) (f : AR) : (putAR op f).extractLsb' 92 4 = op.extractLsb' 4 4 := by
  simp (discharger := decide) only [putAR, cat_hi, Nat.reduceSub]

theorem putAR_lo (op : BitVec 8) (f : AR) : (putAR op f).extractLsb' 88 4 = op.extractLsb' 0 4 := by
  simp (discharger := decide) only [putAR, cat_hi, Nat.reduceSub]

theorem getAI_putAI (op : BitVec 8) (f : AI) : getAI (putAI op f) = f := by
  cases f; simp (discharger := decide) only [getAI, putAI, cat_hi, cat_lo, Nat.reduceSub, BitVec.extractLsb'_eq_self]

theorem putAI_hi (op : BitVec 8) (f : AI) : (putAI op f).extractLsb' 92 4 = op.extractLsb' 4 4 := by
  simp (discharger := decide) only [putAI, cat_hi, Nat.reduceSub]

theorem putAI_lo (op : BitVec 8) (f : AI) : (putAI op f).extractLsb' 88 4 = op.extractLsb' 0 4 := by
  simp (discharger := decide) only [putAI, cat_hi, Nat.reduceSub]

theorem getAM_putAM (op : BitVec 8) (f : AM) : getAM (putAM op f) = f := by
  cases f; simp (discharger := decide) only [getAM, putAM, cat_hi, cat_lo, Nat.reduceSub, BitVec.extractLsb'_eq_self]

theorem putAM_hi (op : BitVec 8) (f : AM) : (putAM op f).extractLsb' 92 4 = op.extractLsb' 4 4 := by
  simp (discharger := decide) only [putAM, cat_hi, Nat.reduceSub]

theorem putAM_lo (op : BitVec 8) (f : AM) : (putAM op f).extractLsb' 88 4 = op.extractLsb' 0 4 := by
  simp (discharger := decide) only [putAM, cat_hi, Nat.reduceSub]

theorem getAB_putAB (op : BitVec 8) (f : AB) : getAB (putAB op f) = f := by
  cases f; simp (discharger := decide) only [getAB, putAB, cat_hi, cat_lo, Nat.reduceSub, BitVec.extractLsb'_eq_self]

theorem putAB_hi (op : BitVec 8) (f : AB) : (putAB op f).extractLsb' 92 4 = op.extractLsb' 4 4 := by
  simp (discharger := decide) only [putAB, cat_hi, Nat.reduceSub]

theorem putAB_lo (op : BitVec 8) (f : AB) : (putAB op f).extractLsb' 88 4 = op.extractLsb' 0 4 := by
  simp (discharger := decide) only [putAB, cat_hi, Nat.reduceSub]

theorem getAC_putAC (op : BitVec 8) (f : AC) : getAC (putAC op f) = f := by
  cases f; simp (discharger := decide) only [getAC, putAC, cat_hi, cat_lo, Nat.reduceSub, BitVec.extractLsb'_eq_self]

theorem putAC_hi (op : BitVec 8) (f : AC) : (putAC op f).extractLsb' 92 4 = op.extractLsb' 4 4 := by
  simp (discharger := decide) only [putAC, cat_hi, Nat.reduceSub]

theorem putAC_lo (op : BitVec 8) (f : AC) : (putAC op f).extractLsb' 88 4 = op.extractLsb' 0 4 := by
  simp (discharger := decide) only [putAC, cat_hi, Nat.reduceSub]

theorem getAQ_putAQ (op : BitVec 8) (f : AQ) : getAQ (putAQ op f) = f := by
  cases f; simp (discharger := decide) only [getAQ, putAQ, cat_hi, cat_lo, Nat.reduceSub, BitVec.extractLsb'_eq_self]

theorem putAQ_hi (op : BitVec 8) (f : AQ) : (putAQ op f).extractLsb' 92 4 = op.extractLsb' 4 4 := by
  simp (discharger := decide) only [putAQ, cat_hi, Nat.reduceSub]

theorem putAQ_lo (op : BitVec 8) (f : AQ) : (putAQ op f).extractLsb' 88 4 = op.extractLsb' 0 4 := by
  simp (discharger := decide) only [putAQ, cat_hi, Nat.reduceSub]

theorem getAS_putAS (op : BitVec 8) (f : AS) : getAS (putAS op f) = f := by
  cases f; simp (discharger := decide) only [getAS, putAS, cat_hi, cat_lo, Nat.reduceSub, BitVec.extractLsb'_eq_self]

theorem putAS_hi (op : BitVec 8) (f : AS) : (putAS op f).extractLsb' 92 4 = op.extractLsb' 4 4 := by
  simp (discharger := decide) only [putAS, cat_hi, Nat.reduceSub]

theorem putAS_lo (op : BitVec 8) (f : AS) : (putAS op f).extractLsb' 88 4 = op.extractLsb' 0 4 := by
  simp (discharger := decide) only [putAS, cat_hi, Nat.reduceSub]

theorem getXV3_putXV3 (op : BitVec 8) (f : XV3) : getXV3 (putXV3 op f) = f := by
  cases f; simp (discharger := decide) only [getXV3, putXV3, cat_hi, cat_lo, Nat.reduceSub, BitVec.extractLsb'_eq_self]

theorem putXV3_hi (op : BitVec 8) (f : XV3) : (putXV3 op f).extractLsb' 92 4 = op.extractLsb' 4 4 := by
  simp (discharger := decide) only [putXV3, cat_hi, Nat.reduceSub]

theorem putXV3_lo (op : BitVec 8) (f : XV3) : (putXV3 op f).extractLsb' 88 4 = op.extractLsb' 0 4 := by
  simp (discharger := decide) only [putXV3, cat_hi, Nat.reduceSub]

theorem getXV4_putXV4 (op : BitVec 8) (f : XV4) : getXV4 (putXV4 op f) = f := by
  cases f; simp (discharger := decide) only [getXV4, putXV4, cat_hi, cat_lo, Nat.reduceSub, BitVec.extractLsb'_eq_self]

theorem putXV4_hi (op : BitVec 8) (f : XV4) : (putXV4 op f).extractLsb' 92 4 = op.extractLsb' 4 4 := by
  simp (discharger := decide) only [putXV4, cat_hi, Nat.reduceSub]

theorem putXV4_lo (op : BitVec 8) (f : XV4) : (putXV4 op f).extractLsb' 88 4 = op.extractLsb' 0 4 := by
  simp (discharger := decide) only [putXV4, cat_hi, Nat.reduceSub]

theorem getXI_putXI (op : BitVec 8) (f : XI) : getXI (putXI op f) = f := by
  cases f; simp (discharger := decide) only [getXI, putXI, cat_hi, cat_lo, Nat.reduceSub, BitVec.extractLsb'_eq_self]

theorem putXI_hi (op : BitVec 8) (f : XI) : (putXI op f).extractLsb' 92 4 = op.extractLsb' 4 4 := by
  simp (discharger := decide) only [putXI, cat_hi, Nat.reduceSub]

theorem putXI_lo (op : BitVec 8) (f : XI) : (putXI op f).extractLsb' 88 4 = op.extractLsb' 0 4 := by
  simp (discharger := decide) only [putXI, cat_hi, Nat.reduceSub]

theorem getXC_putXC (op : BitVec 8) (f : XC) : getXC (putXC op f) = f := by
  cases f; simp (discharger := decide) only [getXC, putXC, cat_hi, cat_lo, Nat.reduceSub, BitVec.extractLsb'_eq_self]

theorem putXC_hi (op : BitVec 8) (f : XC) : (putXC op f).extractLsb' 92 4 = op.extractLsb' 4 4 := by
  simp (discharger := decide) only [putXC, cat_hi, Nat.reduceSub]

theorem putXC_lo (op : BitVec 8) (f : XC) : (putXC op f).extractLsb' 88 4 = op.extractLsb' 0 4 := by
  simp (discharger := decide) only [putXC, cat_hi, Nat.reduceSub]

theorem getMC_putMC (op : BitVec 8) (f : MC) : getMC (putMC op f) = f := by
  cases f; simp (discharger := decide) only [getMC, putMC, cat_hi, cat_lo, Nat.reduceSub, BitVec.extractLsb'_eq_self]

theorem putMC_hi (op : BitVec 8) (f : MC) : (putMC op f).extractLsb' 92 4 = op.extractLsb' 4 4 := by
  simp (discharger := decide) only [putMC, cat_hi, Nat.reduceSub]

theorem putMC_lo (op : BitVec 8) (f : MC) : (putMC op f).extractLsb' 88 4 = op.extractLsb' 0 4 := by
  simp (discharger := decide) only [putMC, cat_hi, Nat.reduceSub]

theorem getMS_putMS (op : BitVec 8) (f : MS) : getMS (putMS op f) = f := by
  cases f; simp (discharger := decide) only [getMS, putMS, cat_hi, cat_lo, Nat.reduceSub, BitVec.extractLsb'_eq_self]

theorem putMS_hi (op : BitVec 8) (f : MS) : (putMS op f).extractLsb' 92 4 = op.extractLsb' 4 4 := by
  simp (discharger := decide) only [putMS, cat_hi, Nat.reduceSub]

theorem putMS_lo (op : BitVec 8) (f : MS) : (putMS op f).extractLsb' 88 4 = op.extractLsb' 0 4 := by
  simp (discharger := decide) only [putMS, cat_hi, Nat.reduceSub]

/-- A word that encodes what it stands for, and passes the checks, decodes to it. -/
theorem decode_of_raw {sp : Space} {i : Instr} (h : raw sp (encode i) = some i) (hw : i.wf = true) :
    decode sp (encode i) = .ok i := by
  simp [decode, h, hw]

end Sys2Proof.Laws
end

