-- ==== Sys2Proof/Laws/PerInstr.lean ====
section
/-! SUPPORT. One lemma per constructor of Instr: its word decodes to it. -/

namespace Sys2Proof.Laws.Codec

open Sys2Proof

/-- The word of a well-formed instruction decodes to it in its opcode space. -/
def Statement (i : Instr) : Prop :=
  ∀ sp, i.space = some sp → i.wf = true → decode sp (encode i) = .ok i.asWord

theorem add (w : AR) : Statement (.add w) := by
  intro sp h hw; cases h
  refine decode_of_raw ?_ hw
  change rawA (putAR 0x01 w) = _
  simp only [rawA, putAR_hi, putAR_lo]
  exact congrArg (fun x => some (Instr.add x)) (getAR_putAR _ w)

theorem sub (w : AR) : Statement (.sub w) := by
  intro sp h hw; cases h
  refine decode_of_raw ?_ hw
  change rawA (putAR 0x02 w) = _
  simp only [rawA, putAR_hi, putAR_lo]
  exact congrArg (fun x => some (Instr.sub x)) (getAR_putAR _ w)

theorem addi (w : AI) : Statement (.addi w) := by
  intro sp h hw; cases h
  refine decode_of_raw ?_ hw
  change rawA (putAI 0x03 w) = _
  simp only [rawA, putAI_hi, putAI_lo]
  exact congrArg (fun x => some (Instr.addi x)) (getAI_putAI _ w)

theorem mul (w : AR) : Statement (.mul w) := by
  intro sp h hw; cases h
  refine decode_of_raw ?_ hw
  change rawA (putAR 0x04 w) = _
  simp only [rawA, putAR_hi, putAR_lo]
  exact congrArg (fun x => some (Instr.mul x)) (getAR_putAR _ w)

theorem mulh (w : AR) : Statement (.mulh w) := by
  intro sp h hw; cases h
  refine decode_of_raw ?_ hw
  change rawA (putAR 0x05 w) = _
  simp only [rawA, putAR_hi, putAR_lo]
  exact congrArg (fun x => some (Instr.mulh x)) (getAR_putAR _ w)

theorem mulhn (w : AR) : Statement (.mulhn w) := by
  intro sp h hw; cases h
  refine decode_of_raw ?_ hw
  change rawA (putAR 0x06 w) = _
  simp only [rawA, putAR_hi, putAR_lo]
  exact congrArg (fun x => some (Instr.mulhn x)) (getAR_putAR _ w)

theorem div (w : AR) : Statement (.div w) := by
  intro sp h hw; cases h
  refine decode_of_raw ?_ hw
  change rawA (putAR 0x07 w) = _
  simp only [rawA, putAR_hi, putAR_lo]
  exact congrArg (fun x => some (Instr.div x)) (getAR_putAR _ w)

theorem divn (w : AR) : Statement (.divn w) := by
  intro sp h hw; cases h
  refine decode_of_raw ?_ hw
  change rawA (putAR 0x08 w) = _
  simp only [rawA, putAR_hi, putAR_lo]
  exact congrArg (fun x => some (Instr.divn x)) (getAR_putAR _ w)

theorem rem (w : AR) : Statement (.rem w) := by
  intro sp h hw; cases h
  refine decode_of_raw ?_ hw
  change rawA (putAR 0x09 w) = _
  simp only [rawA, putAR_hi, putAR_lo]
  exact congrArg (fun x => some (Instr.rem x)) (getAR_putAR _ w)

theorem remn (w : AR) : Statement (.remn w) := by
  intro sp h hw; cases h
  refine decode_of_raw ?_ hw
  change rawA (putAR 0x0A w) = _
  simp only [rawA, putAR_hi, putAR_lo]
  exact congrArg (fun x => some (Instr.remn x)) (getAR_putAR _ w)

theorem and (w : AR) : Statement (.and w) := by
  intro sp h hw; cases h
  refine decode_of_raw ?_ hw
  change rawA (putAR 0x0B w) = _
  simp only [rawA, putAR_hi, putAR_lo]
  exact congrArg (fun x => some (Instr.and x)) (getAR_putAR _ w)

theorem or (w : AR) : Statement (.or w) := by
  intro sp h hw; cases h
  refine decode_of_raw ?_ hw
  change rawA (putAR 0x0C w) = _
  simp only [rawA, putAR_hi, putAR_lo]
  exact congrArg (fun x => some (Instr.or x)) (getAR_putAR _ w)

theorem xor (w : AR) : Statement (.xor w) := by
  intro sp h hw; cases h
  refine decode_of_raw ?_ hw
  change rawA (putAR 0x0D w) = _
  simp only [rawA, putAR_hi, putAR_lo]
  exact congrArg (fun x => some (Instr.xor x)) (getAR_putAR _ w)

theorem andn (w : AR) : Statement (.andn w) := by
  intro sp h hw; cases h
  refine decode_of_raw ?_ hw
  change rawA (putAR 0x0E w) = _
  simp only [rawA, putAR_hi, putAR_lo]
  exact congrArg (fun x => some (Instr.andn x)) (getAR_putAR _ w)

theorem shl (w : AR) : Statement (.shl w) := by
  intro sp h hw; cases h
  refine decode_of_raw ?_ hw
  change rawA (putAR 0x0F w) = _
  simp only [rawA, putAR_hi, putAR_lo]
  exact congrArg (fun x => some (Instr.shl x)) (getAR_putAR _ w)

theorem shr (w : AR) : Statement (.shr w) := by
  intro sp h hw; cases h
  refine decode_of_raw ?_ hw
  change rawA (putAR 0x10 w) = _
  simp only [rawA, putAR_hi, putAR_lo]
  exact congrArg (fun x => some (Instr.shr x)) (getAR_putAR _ w)

theorem sra (w : AR) : Statement (.sra w) := by
  intro sp h hw; cases h
  refine decode_of_raw ?_ hw
  change rawA (putAR 0x11 w) = _
  simp only [rawA, putAR_hi, putAR_lo]
  exact congrArg (fun x => some (Instr.sra x)) (getAR_putAR _ w)

theorem rol (w : AR) : Statement (.rol w) := by
  intro sp h hw; cases h
  refine decode_of_raw ?_ hw
  change rawA (putAR 0x12 w) = _
  simp only [rawA, putAR_hi, putAR_lo]
  exact congrArg (fun x => some (Instr.rol x)) (getAR_putAR _ w)

theorem ror (w : AR) : Statement (.ror w) := by
  intro sp h hw; cases h
  refine decode_of_raw ?_ hw
  change rawA (putAR 0x13 w) = _
  simp only [rawA, putAR_hi, putAR_lo]
  exact congrArg (fun x => some (Instr.ror x)) (getAR_putAR _ w)

theorem clz (w : AR) : Statement (.clz w) := by
  intro sp h hw; cases h
  refine decode_of_raw ?_ hw
  change rawA (putAR 0x14 w) = _
  simp only [rawA, putAR_hi, putAR_lo]
  exact congrArg (fun x => some (Instr.clz x)) (getAR_putAR _ w)

theorem ctz (w : AR) : Statement (.ctz w) := by
  intro sp h hw; cases h
  refine decode_of_raw ?_ hw
  change rawA (putAR 0x15 w) = _
  simp only [rawA, putAR_hi, putAR_lo]
  exact congrArg (fun x => some (Instr.ctz x)) (getAR_putAR _ w)

theorem popc (w : AR) : Statement (.popc w) := by
  intro sp h hw; cases h
  refine decode_of_raw ?_ hw
  change rawA (putAR 0x16 w) = _
  simp only [rawA, putAR_hi, putAR_lo]
  exact congrArg (fun x => some (Instr.popc x)) (getAR_putAR _ w)

theorem min (w : AR) : Statement (.min w) := by
  intro sp h hw; cases h
  refine decode_of_raw ?_ hw
  change rawA (putAR 0x17 w) = _
  simp only [rawA, putAR_hi, putAR_lo]
  exact congrArg (fun x => some (Instr.min x)) (getAR_putAR _ w)

theorem max (w : AR) : Statement (.max w) := by
  intro sp h hw; cases h
  refine decode_of_raw ?_ hw
  change rawA (putAR 0x18 w) = _
  simp only [rawA, putAR_hi, putAR_lo]
  exact congrArg (fun x => some (Instr.max x)) (getAR_putAR _ w)

theorem minn (w : AR) : Statement (.minn w) := by
  intro sp h hw; cases h
  refine decode_of_raw ?_ hw
  change rawA (putAR 0x19 w) = _
  simp only [rawA, putAR_hi, putAR_lo]
  exact congrArg (fun x => some (Instr.minn x)) (getAR_putAR _ w)

theorem maxn (w : AR) : Statement (.maxn w) := by
  intro sp h hw; cases h
  refine decode_of_raw ?_ hw
  change rawA (putAR 0x1A w) = _
  simp only [rawA, putAR_hi, putAR_lo]
  exact congrArg (fun x => some (Instr.maxn x)) (getAR_putAR _ w)

theorem sel (w : AR) : Statement (.sel w) := by
  intro sp h hw; cases h
  refine decode_of_raw ?_ hw
  change rawA (putAR 0x1B w) = _
  simp only [rawA, putAR_hi, putAR_lo]
  exact congrArg (fun x => some (Instr.sel x)) (getAR_putAR _ w)

theorem slt (w : AR) : Statement (.slt w) := by
  intro sp h hw; cases h
  refine decode_of_raw ?_ hw
  change rawA (putAR 0x1C w) = _
  simp only [rawA, putAR_hi, putAR_lo]
  exact congrArg (fun x => some (Instr.slt x)) (getAR_putAR _ w)

theorem sltn (w : AR) : Statement (.sltn w) := by
  intro sp h hw; cases h
  refine decode_of_raw ?_ hw
  change rawA (putAR 0x1D w) = _
  simp only [rawA, putAR_hi, putAR_lo]
  exact congrArg (fun x => some (Instr.sltn x)) (getAR_putAR _ w)

theorem seq (w : AR) : Statement (.seq w) := by
  intro sp h hw; cases h
  refine decode_of_raw ?_ hw
  change rawA (putAR 0x1E w) = _
  simp only [rawA, putAR_hi, putAR_lo]
  exact congrArg (fun x => some (Instr.seq x)) (getAR_putAR _ w)

theorem li (w : AI) : Statement (.li w) := by
  intro sp h hw; cases h
  refine decode_of_raw ?_ hw
  change rawA (putAI 0x1F w) = _
  simp only [rawA, putAI_hi, putAI_lo]
  exact congrArg (fun x => some (Instr.li x)) (getAI_putAI _ w)

theorem bfx (w : AI) : Statement (.bfx w) := by
  intro sp h hw; cases h
  refine decode_of_raw ?_ hw
  change rawA (putAI 0x20 w) = _
  simp only [rawA, putAI_hi, putAI_lo]
  exact congrArg (fun x => some (Instr.bfx x)) (getAI_putAI _ w)

theorem bfi (w : AI) : Statement (.bfi w) := by
  intro sp h hw; cases h
  refine decode_of_raw ?_ hw
  change rawA (putAI 0x21 w) = _
  simp only [rawA, putAI_hi, putAI_lo]
  exact congrArg (fun x => some (Instr.bfi x)) (getAI_putAI _ w)

theorem adds (w : AR) : Statement (.adds w) := by
  intro sp h hw; cases h
  refine decode_of_raw ?_ hw
  change rawA (putAR 0x22 w) = _
  simp only [rawA, putAR_hi, putAR_lo]
  exact congrArg (fun x => some (Instr.adds x)) (getAR_putAR _ w)

theorem b (w : AB) : Statement (.b w) := by
  intro sp h hw; cases h
  refine decode_of_raw ?_ hw
  change rawA (putAB 0x30 w) = _
  simp only [rawA, putAB_hi, putAB_lo]
  exact congrArg (fun x => some (Instr.b x)) (getAB_putAB _ w)

theorem j (w : AB) : Statement (.j w) := by
  intro sp h hw; cases h
  refine decode_of_raw ?_ hw
  change rawA (putAB 0x31 w) = _
  simp only [rawA, putAB_hi, putAB_lo]
  exact congrArg (fun x => some (Instr.j x)) (getAB_putAB _ w)

theorem jal (w : AB) : Statement (.jal w) := by
  intro sp h hw; cases h
  refine decode_of_raw ?_ hw
  change rawA (putAB 0x32 w) = _
  simp only [rawA, putAB_hi, putAB_lo]
  exact congrArg (fun x => some (Instr.jal x)) (getAB_putAB _ w)

theorem jr (w : AR) : Statement (.jr w) := by
  intro sp h hw; cases h
  refine decode_of_raw ?_ hw
  change rawA (putAR 0x33 w) = _
  simp only [rawA, putAR_hi, putAR_lo]
  exact congrArg (fun x => some (Instr.jr x)) (getAR_putAR _ w)

theorem bqp (w : AB) : Statement (.bqp w) := by
  intro sp h hw; cases h
  refine decode_of_raw ?_ hw
  change rawA (putAB 0x34 w) = _
  simp only [rawA, putAB_hi, putAB_lo]
  exact congrArg (fun x => some (Instr.bqp x)) (getAB_putAB _ w)

theorem fin (w : AR) : Statement (.fin w) := by
  intro sp h hw; cases h
  refine decode_of_raw ?_ hw
  change rawA (putAR 0x35 w) = _
  simp only [rawA, putAR_hi, putAR_lo]
  exact congrArg (fun x => some (Instr.fin x)) (getAR_putAR _ w)

theorem nop (w : AR) : Statement (.nop w) := by
  intro sp h hw; cases h
  refine decode_of_raw ?_ hw
  change rawA (putAR 0x36 w) = _
  simp only [rawA, putAR_hi, putAR_lo]
  exact congrArg (fun x => some (Instr.nop x)) (getAR_putAR _ w)

theorem ld (w : AM) : Statement (.ld w) := by
  intro sp h hw; cases h
  refine decode_of_raw ?_ hw
  change rawA (putAM 0x40 w) = _
  simp only [rawA, putAM_hi, putAM_lo]
  exact congrArg (fun x => some (Instr.ld x)) (getAM_putAM _ w)

theorem st (w : AM) : Statement (.st w) := by
  intro sp h hw; cases h
  refine decode_of_raw ?_ hw
  change rawA (putAM 0x41 w) = _
  simp only [rawA, putAM_hi, putAM_lo]
  exact congrArg (fun x => some (Instr.st x)) (getAM_putAM _ w)

theorem lds (w : AM) : Statement (.lds w) := by
  intro sp h hw; cases h
  refine decode_of_raw ?_ hw
  change rawA (putAM 0x42 w) = _
  simp only [rawA, putAM_hi, putAM_lo]
  exact congrArg (fun x => some (Instr.lds x)) (getAM_putAM _ w)

theorem sts (w : AM) : Statement (.sts w) := by
  intro sp h hw; cases h
  refine decode_of_raw ?_ hw
  change rawA (putAM 0x43 w) = _
  simp only [rawA, putAM_hi, putAM_lo]
  exact congrArg (fun x => some (Instr.sts x)) (getAM_putAM _ w)

theorem ldx (w : AC) : Statement (.ldx w) := by
  intro sp h hw; cases h
  refine decode_of_raw ?_ hw
  change rawA (putAC 0x44 w) = _
  simp only [rawA, putAC_hi, putAC_lo]
  exact congrArg (fun x => some (Instr.ldx x)) (getAC_putAC _ w)

theorem stx (w : AC) : Statement (.stx w) := by
  intro sp h hw; cases h
  refine decode_of_raw ?_ hw
  change rawA (putAC 0x45 w) = _
  simp only [rawA, putAC_hi, putAC_lo]
  exact congrArg (fun x => some (Instr.stx x)) (getAC_putAC _ w)

theorem gath (w : AC) : Statement (.gath w) := by
  intro sp h hw; cases h
  refine decode_of_raw ?_ hw
  change rawA (putAC 0x46 w) = _
  simp only [rawA, putAC_hi, putAC_lo]
  exact congrArg (fun x => some (Instr.gath x)) (getAC_putAC _ w)

theorem scat (w : AC) : Statement (.scat w) := by
  intro sp h hw; cases h
  refine decode_of_raw ?_ hw
  change rawA (putAC 0x47 w) = _
  simp only [rawA, putAC_hi, putAC_lo]
  exact congrArg (fun x => some (Instr.scat x)) (getAC_putAC _ w)

theorem pref (w : AM) : Statement (.pref w) := by
  intro sp h hw; cases h
  refine decode_of_raw ?_ hw
  change rawA (putAM 0x48 w) = _
  simp only [rawA, putAM_hi, putAM_lo]
  exact congrArg (fun x => some (Instr.pref x)) (getAM_putAM _ w)

theorem fence (w : AR) : Statement (.fence w) := by
  intro sp h hw; cases h
  refine decode_of_raw ?_ hw
  change rawA (putAR 0x49 w) = _
  simp only [rawA, putAR_hi, putAR_lo]
  exact congrArg (fun x => some (Instr.fence x)) (getAR_putAR _ w)

theorem cpy (w : AC) : Statement (.cpy w) := by
  intro sp h hw; cases h
  refine decode_of_raw ?_ hw
  change rawA (putAC 0x50 w) = _
  simp only [rawA, putAC_hi, putAC_lo]
  exact congrArg (fun x => some (Instr.cpy x)) (getAC_putAC _ w)

theorem cpyvIn (w : AC) : Statement (.cpyvIn w) := by
  intro sp h hw; cases h
  have hf : (decide (w.fn = 0) && decide (w.gd = 0) && decide (w.scope = 0) && decide (w.acq = 0) && decide (w.rel = 0) && decide (w.wash = 0) && decide (w.opt = 0) && barOk w) = true := hw
  simp only [Bool.and_eq_true, decide_eq_true_eq] at hf
  refine decode_of_raw ?_ hw
  change rawA (putAC 0x51 w) = _
  simp (decide := true) only [rawA, putAC_hi, putAC_lo, rawA5, getAC_putAC, if_true, if_false]
  simp [hf]

theorem cpyvOut (w : AC) : Statement (.cpyvOut w) := by
  intro sp h hw; cases h
  have hf : (decide (w.fn = 0) && decide (w.gs = 0) && decide (w.scope = 0) && decide (w.acq = 0) && decide (w.rel = 0) && decide (w.wash = 0) && barOk w && decide (w.opt = 1)) = true := hw
  simp only [Bool.and_eq_true, decide_eq_true_eq] at hf
  refine decode_of_raw ?_ hw
  change rawA (putAC 0x51 w) = _
  simp (decide := true) only [rawA, putAC_hi, putAC_lo, rawA5, getAC_putAC, if_true, if_false]
  simp [hf]

theorem cpyb (w : AC) : Statement (.cpyb w) := by
  intro sp h hw; cases h
  refine decode_of_raw ?_ hw
  change rawA (putAC 0x52 w) = _
  simp only [rawA, putAC_hi, putAC_lo]
  exact congrArg (fun x => some (Instr.cpyb x)) (getAC_putAC _ w)

theorem cpyx (w : AC) : Statement (.cpyx w) := by
  intro sp h hw; cases h
  refine decode_of_raw ?_ hw
  change rawA (putAC 0x53 w) = _
  simp only [rawA, putAC_hi, putAC_lo]
  exact congrArg (fun x => some (Instr.cpyx x)) (getAC_putAC _ w)

theorem sbind (w : AC) : Statement (.sbind w) := by
  intro sp h hw; cases h
  refine decode_of_raw ?_ hw
  change rawA (putAC 0x54 w) = _
  simp only [rawA, putAC_hi, putAC_lo]
  exact congrArg (fun x => some (Instr.sbind x)) (getAC_putAC _ w)

theorem sdrop (w : AC) : Statement (.sdrop w) := by
  intro sp h hw; cases h
  refine decode_of_raw ?_ hw
  change rawA (putAC 0x55 w) = _
  simp only [rawA, putAC_hi, putAC_lo]
  exact congrArg (fun x => some (Instr.sdrop x)) (getAC_putAC _ w)

theorem gdef (w : AC) : Statement (.gdef w) := by
  intro sp h hw; cases h
  refine decode_of_raw ?_ hw
  change rawA (putAC 0x56 w) = _
  simp only [rawA, putAC_hi, putAC_lo]
  exact congrArg (fun x => some (Instr.gdef x)) (getAC_putAC _ w)

theorem gset (w : AC) : Statement (.gset w) := by
  intro sp h hw; cases h
  refine decode_of_raw ?_ hw
  change rawA (putAC 0x57 w) = _
  simp only [rawA, putAC_hi, putAC_lo]
  exact congrArg (fun x => some (Instr.gset x)) (getAC_putAC _ w)

theorem gget (w : AC) : Statement (.gget w) := by
  intro sp h hw; cases h
  refine decode_of_raw ?_ hw
  change rawA (putAC 0x58 w) = _
  simp only [rawA, putAC_hi, putAC_lo]
  exact congrArg (fun x => some (Instr.gget x)) (getAC_putAC _ w)

theorem falloc (w : AC) : Statement (.falloc w) := by
  intro sp h hw; cases h
  refine decode_of_raw ?_ hw
  change rawA (putAC 0x59 w) = _
  simp only [rawA, putAC_hi, putAC_lo]
  exact congrArg (fun x => some (Instr.falloc x)) (getAC_putAC _ w)

theorem faddref (w : AC) : Statement (.faddref w) := by
  intro sp h hw; cases h
  refine decode_of_raw ?_ hw
  change rawA (putAC 0x5A w) = _
  simp only [rawA, putAC_hi, putAC_lo]
  exact congrArg (fun x => some (Instr.faddref x)) (getAC_putAC _ w)

theorem fdrop (w : AC) : Statement (.fdrop w) := by
  intro sp h hw; cases h
  refine decode_of_raw ?_ hw
  change rawA (putAC 0x5B w) = _
  simp only [rawA, putAC_hi, putAC_lo]
  exact congrArg (fun x => some (Instr.fdrop x)) (getAC_putAC _ w)

theorem pseal (w : AC) : Statement (.pseal w) := by
  intro sp h hw; cases h
  refine decode_of_raw ?_ hw
  change rawA (putAC 0x5C w) = _
  simp only [rawA, putAC_hi, putAC_lo]
  exact congrArg (fun x => some (Instr.pseal x)) (getAC_putAC _ w)

theorem bxp (w : AC) : Statement (.bxp w) := by
  intro sp h hw; cases h
  refine decode_of_raw ?_ hw
  change rawA (putAC 0x60 w) = _
  simp only [rawA, putAC_hi, putAC_lo]
  exact congrArg (fun x => some (Instr.bxp x)) (getAC_putAC _ w)

theorem barv (w : AC) : Statement (.barv w) := by
  intro sp h hw; cases h
  refine decode_of_raw ?_ hw
  change rawA (putAC 0x61 w) = _
  simp only [rawA, putAC_hi, putAC_lo]
  exact congrArg (fun x => some (Instr.barv x)) (getAC_putAC _ w)

theorem bwt (w : AC) : Statement (.bwt w) := by
  intro sp h hw; cases h
  refine decode_of_raw ?_ hw
  change rawA (putAC 0x62 w) = _
  simp only [rawA, putAC_hi, putAC_lo]
  exact congrArg (fun x => some (Instr.bwt x)) (getAC_putAC _ w)

theorem btst (w : AC) : Statement (.btst w) := by
  intro sp h hw; cases h
  refine decode_of_raw ?_ hw
  change rawA (putAC 0x63 w) = _
  simp only [rawA, putAC_hi, putAC_lo]
  exact congrArg (fun x => some (Instr.btst x)) (getAC_putAC _ w)

theorem bbnd (w : AC) : Statement (.bbnd w) := by
  intro sp h hw; cases h
  refine decode_of_raw ?_ hw
  change rawA (putAC 0x64 w) = _
  simp only [rawA, putAC_hi, putAC_lo]
  exact congrArg (fun x => some (Instr.bbnd x)) (getAC_putAC _ w)

theorem bubd (w : AC) : Statement (.bubd w) := by
  intro sp h hw; cases h
  refine decode_of_raw ?_ hw
  change rawA (putAC 0x65 w) = _
  simp only [rawA, putAC_hi, putAC_lo]
  exact congrArg (fun x => some (Instr.bubd x)) (getAC_putAC _ w)

theorem bfwd (w : AC) : Statement (.bfwd w) := by
  intro sp h hw; cases h
  refine decode_of_raw ?_ hw
  change rawA (putAC 0x66 w) = _
  simp only [rawA, putAC_hi, putAC_lo]
  exact congrArg (fun x => some (Instr.bfwd x)) (getAC_putAC _ w)

theorem sadd (w : AQ) : Statement (.sadd w) := by
  intro sp h hw; cases h
  refine decode_of_raw ?_ hw
  change rawA (putAQ 0x67 w) = _
  simp only [rawA, putAQ_hi, putAQ_lo]
  exact congrArg (fun x => some (Instr.sadd x)) (getAQ_putAQ _ w)

theorem scas (w : AQ) : Statement (.scas w) := by
  intro sp h hw; cases h
  refine decode_of_raw ?_ hw
  change rawA (putAQ 0x68 w) = _
  simp only [rawA, putAQ_hi, putAQ_lo]
  exact congrArg (fun x => some (Instr.scas x)) (getAQ_putAQ _ w)

theorem smax (w : AQ) : Statement (.smax w) := by
  intro sp h hw; cases h
  refine decode_of_raw ?_ hw
  change rawA (putAQ 0x69 w) = _
  simp only [rawA, putAQ_hi, putAQ_lo]
  exact congrArg (fun x => some (Instr.smax x)) (getAQ_putAQ _ w)

theorem sxch (w : AQ) : Statement (.sxch w) := by
  intro sp h hw; cases h
  refine decode_of_raw ?_ hw
  change rawA (putAQ 0x6A w) = _
  simp only [rawA, putAQ_hi, putAQ_lo]
  exact congrArg (fun x => some (Instr.sxch x)) (getAQ_putAQ _ w)

theorem srd (w : AQ) : Statement (.srd w) := by
  intro sp h hw; cases h
  refine decode_of_raw ?_ hw
  change rawA (putAQ 0x6B w) = _
  simp only [rawA, putAQ_hi, putAQ_lo]
  exact congrArg (fun x => some (Instr.srd x)) (getAQ_putAQ _ w)

theorem swt (w : AQ) : Statement (.swt w) := by
  intro sp h hw; cases h
  refine decode_of_raw ?_ hw
  change rawA (putAQ 0x6C w) = _
  simp only [rawA, putAQ_hi, putAQ_lo]
  exact congrArg (fun x => some (Instr.swt x)) (getAQ_putAQ _ w)

theorem inkq (w : AS) : Statement (.inkq w) := by
  intro sp h hw; cases h
  refine decode_of_raw ?_ hw
  change rawA (putAS 0x70 w) = _
  simp only [rawA, putAS_hi, putAS_lo]
  exact congrArg (fun x => some (Instr.inkq x)) (getAS_putAS _ w)

theorem inkr (w : AS) : Statement (.inkr w) := by
  intro sp h hw; cases h
  refine decode_of_raw ?_ hw
  change rawA (putAS 0x71 w) = _
  simp only [rawA, putAS_hi, putAS_lo]
  exact congrArg (fun x => some (Instr.inkr x)) (getAS_putAS _ w)

theorem trap (w : AS) : Statement (.trap w) := by
  intro sp h hw; cases h
  refine decode_of_raw ?_ hw
  change rawA (putAS 0x72 w) = _
  simp only [rawA, putAS_hi, putAS_lo]
  exact congrArg (fun x => some (Instr.trap x)) (getAS_putAS _ w)

theorem tret (w : AS) : Statement (.tret w) := by
  intro sp h hw; cases h
  refine decode_of_raw ?_ hw
  change rawA (putAS 0x73 w) = _
  simp only [rawA, putAS_hi, putAS_lo]
  exact congrArg (fun x => some (Instr.tret x)) (getAS_putAS _ w)

theorem csrr (w : AS) : Statement (.csrr w) := by
  intro sp h hw; cases h
  refine decode_of_raw ?_ hw
  change rawA (putAS 0x74 w) = _
  simp only [rawA, putAS_hi, putAS_lo]
  exact congrArg (fun x => some (Instr.csrr x)) (getAS_putAS _ w)

theorem csrw (w : AS) : Statement (.csrw w) := by
  intro sp h hw; cases h
  refine decode_of_raw ?_ hw
  change rawA (putAS 0x75 w) = _
  simp only [rawA, putAS_hi, putAS_lo]
  exact congrArg (fun x => some (Instr.csrw x)) (getAS_putAS _ w)

theorem tsc (w : AS) : Statement (.tsc w) := by
  intro sp h hw; cases h
  refine decode_of_raw ?_ hw
  change rawA (putAS 0x76 w) = _
  simp only [rawA, putAS_hi, putAS_lo]
  exact congrArg (fun x => some (Instr.tsc x)) (getAS_putAS _ w)

theorem parkBar (w : AS) : Statement (.parkBar w) := by
  intro sp h hw; cases h
  have hf : (decide (w.fn = 0) && decide (w.d = 0) && decide (w.obj = 0) && decide (w.imm = 0)) = true := hw
  simp only [Bool.and_eq_true, decide_eq_true_eq] at hf
  refine decode_of_raw ?_ hw
  change rawA (putAS 0x77 w) = _
  simp (decide := true) only [rawA, putAS_hi, putAS_lo, rawA7, getAS_putAS, if_true, if_false]
  simp [hf]

theorem parkSem (w : AS) : Statement (.parkSem w) := by
  intro sp h hw; cases h
  have hf : (decide (w.fn = 0) && decide (w.d = 0) && decide (w.obj = 0) && decide (w.imm = 1)) = true := hw
  simp only [Bool.and_eq_true, decide_eq_true_eq] at hf
  refine decode_of_raw ?_ hw
  change rawA (putAS 0x77 w) = _
  simp (decide := true) only [rawA, putAS_hi, putAS_lo, rawA7, getAS_putAS, if_true, if_false]
  simp [hf]

theorem parkMbx (w : AS) : Statement (.parkMbx w) := by
  intro sp h hw; cases h
  have hf : (decide (w.fn = 0) && decide (w.d = 0) && decide (w.b = 0) && decide (w.obj = 0) && decide (w.imm = 2)) = true := hw
  simp only [Bool.and_eq_true, decide_eq_true_eq] at hf
  refine decode_of_raw ?_ hw
  change rawA (putAS 0x77 w) = _
  simp (decide := true) only [rawA, putAS_hi, putAS_lo, rawA7, getAS_putAS, if_true, if_false]
  simp [hf]

theorem parkInk (w : AS) : Statement (.parkInk w) := by
  intro sp h hw; cases h
  have hf : (decide (w.fn = 0) && decide (w.d = 0) && decide (w.b = 0) && decide (w.obj = 0) && decide (w.imm = 3)) = true := hw
  simp only [Bool.and_eq_true, decide_eq_true_eq] at hf
  refine decode_of_raw ?_ hw
  change rawA (putAS 0x77 w) = _
  simp (decide := true) only [rawA, putAS_hi, putAS_lo, rawA7, getAS_putAS, if_true, if_false]
  simp [hf]

theorem yield (w : AS) : Statement (.yield w) := by
  intro sp h hw; cases h
  refine decode_of_raw ?_ hw
  change rawA (putAS 0x78 w) = _
  simp only [rawA, putAS_hi, putAS_lo]
  exact congrArg (fun x => some (Instr.yield x)) (getAS_putAS _ w)

theorem lgo (w : AS) : Statement (.lgo w) := by
  intro sp h hw; cases h
  refine decode_of_raw ?_ hw
  change rawA (putAS 0x79 w) = _
  simp only [rawA, putAS_hi, putAS_lo]
  exact congrArg (fun x => some (Instr.lgo x)) (getAS_putAS _ w)

theorem lpatch (w : AS) : Statement (.lpatch w) := by
  intro sp h hw; cases h
  refine decode_of_raw ?_ hw
  change rawA (putAS 0x7A w) = _
  simp only [rawA, putAS_hi, putAS_lo]
  exact congrArg (fun x => some (Instr.lpatch x)) (getAS_putAS _ w)

theorem qentLaunch (w : AS) : Statement (.qentLaunch w) := by
  intro sp h hw; cases h
  have hf : (decide (w.d = 0) && decide (w.b = 0) && decide (w.imm = 0) && decide (w.fn = 0) && decide (w.obj.toNat < 16)) = true := hw
  simp only [Bool.and_eq_true, decide_eq_true_eq] at hf
  refine decode_of_raw ?_ hw
  change rawA (putAS 0x7B w) = _
  simp (decide := true) only [rawA, putAS_hi, putAS_lo, rawA7, getAS_putAS, if_true, if_false]
  simp [hf]

theorem qentCopy (w : AS) : Statement (.qentCopy w) := by
  intro sp h hw; cases h
  have hf : (decide (w.d = 0) && decide (w.b = 0) && decide (w.imm = 0) && decide (w.fn = 1) && decide (w.obj.toNat < 16)) = true := hw
  simp only [Bool.and_eq_true, decide_eq_true_eq] at hf
  refine decode_of_raw ?_ hw
  change rawA (putAS 0x7B w) = _
  simp (decide := true) only [rawA, putAS_hi, putAS_lo, rawA7, getAS_putAS, if_true, if_false]
  simp [hf]

theorem qentSem (w : AS) : Statement (.qentSem w) := by
  intro sp h hw; cases h
  have hf : (decide (w.d = 0) && decide (w.b = 0) && decide (w.imm = 0) && decide (w.fn = 2) && decide (w.obj.toNat < 16)) = true := hw
  simp only [Bool.and_eq_true, decide_eq_true_eq] at hf
  refine decode_of_raw ?_ hw
  change rawA (putAS 0x7B w) = _
  simp (decide := true) only [rawA, putAS_hi, putAS_lo, rawA7, getAS_putAS, if_true, if_false]
  simp [hf]

theorem qentHirq (w : AS) : Statement (.qentHirq w) := by
  intro sp h hw; cases h
  have hf : (decide (w.d = 0) && decide (w.b = 0) && decide (w.imm = 0) && decide (w.fn = 3) && decide (w.obj.toNat < 16)) = true := hw
  simp only [Bool.and_eq_true, decide_eq_true_eq] at hf
  refine decode_of_raw ?_ hw
  change rawA (putAS 0x7B w) = _
  simp (decide := true) only [rawA, putAS_hi, putAS_lo, rawA7, getAS_putAS, if_true, if_false]
  simp [hf]

theorem mbxr (w : AS) : Statement (.mbxr w) := by
  intro sp h hw; cases h
  refine decode_of_raw ?_ hw
  change rawA (putAS 0x7C w) = _
  simp only [rawA, putAS_hi, putAS_lo]
  exact congrArg (fun x => some (Instr.mbxr x)) (getAS_putAS _ w)

theorem mbxs (w : AS) : Statement (.mbxs w) := by
  intro sp h hw; cases h
  refine decode_of_raw ?_ hw
  change rawA (putAS 0x7D w) = _
  simp only [rawA, putAS_hi, putAS_lo]
  exact congrArg (fun x => some (Instr.mbxs x)) (getAS_putAS _ w)

theorem hirq (w : AS) : Statement (.hirq w) := by
  intro sp h hw; cases h
  refine decode_of_raw ?_ hw
  change rawA (putAS 0x7E w) = _
  simp only [rawA, putAS_hi, putAS_lo]
  exact congrArg (fun x => some (Instr.hirq x)) (getAS_putAS _ w)

theorem preempt (w : AS) : Statement (.preempt w) := by
  intro sp h hw; cases h
  refine decode_of_raw ?_ hw
  change rawA (putAS 0x7F w) = _
  simp only [rawA, putAS_hi, putAS_lo]
  exact congrArg (fun x => some (Instr.preempt x)) (getAS_putAS _ w)

theorem proofStart (w : AS) : Statement (.proofStart w) := by
  intro sp h hw; cases h
  refine decode_of_raw ?_ hw
  change rawA (putAS 0x80 w) = _
  simp only [rawA, putAS_hi, putAS_lo]
  exact congrArg (fun x => some (Instr.proofStart x)) (getAS_putAS _ w)

theorem proofAbort (w : AS) : Statement (.proofAbort w) := by
  intro sp h hw; cases h
  exact proofStart w .a rfl hw

theorem sampm (w : AS) : Statement (.sampm w) := by
  intro sp h hw; cases h
  refine decode_of_raw ?_ hw
  change rawA (putAS 0x81 w) = _
  simp only [rawA, putAS_hi, putAS_lo]
  exact congrArg (fun x => some (Instr.sampm x)) (getAS_putAS _ w)

theorem vadd (w : XV3) : Statement (.vadd w) := by
  intro sp h hw; cases h
  refine decode_of_raw ?_ hw
  change rawX (putXV3 0x01 w) = _
  simp only [rawX, putXV3_hi, putXV3_lo]
  exact congrArg (fun x => some (Instr.vadd x)) (getXV3_putXV3 _ w)

theorem vsub (w : XV3) : Statement (.vsub w) := by
  intro sp h hw; cases h
  refine decode_of_raw ?_ hw
  change rawX (putXV3 0x02 w) = _
  simp only [rawX, putXV3_hi, putXV3_lo]
  exact congrArg (fun x => some (Instr.vsub x)) (getXV3_putXV3 _ w)

theorem vmul (w : XV3) : Statement (.vmul w) := by
  intro sp h hw; cases h
  refine decode_of_raw ?_ hw
  change rawX (putXV3 0x03 w) = _
  simp only [rawX, putXV3_hi, putXV3_lo]
  exact congrArg (fun x => some (Instr.vmul x)) (getXV3_putXV3 _ w)

theorem vmulh (w : XV3) : Statement (.vmulh w) := by
  intro sp h hw; cases h
  refine decode_of_raw ?_ hw
  change rawX (putXV3 0x04 w) = _
  simp only [rawX, putXV3_hi, putXV3_lo]
  exact congrArg (fun x => some (Instr.vmulh x)) (getXV3_putXV3 _ w)

theorem vmad (w : XV4) : Statement (.vmad w) := by
  intro sp h hw; cases h
  refine decode_of_raw ?_ hw
  change rawX (putXV4 0x05 w) = _
  simp only [rawX, putXV4_hi, putXV4_lo]
  exact congrArg (fun x => some (Instr.vmad x)) (getXV4_putXV4 _ w)

theorem vdot4 (w : XV4) : Statement (.vdot4 w) := by
  intro sp h hw; cases h
  refine decode_of_raw ?_ hw
  change rawX (putXV4 0x06 w) = _
  simp only [rawX, putXV4_hi, putXV4_lo]
  exact congrArg (fun x => some (Instr.vdot4 x)) (getXV4_putXV4 _ w)

theorem vdot8 (w : XV4) : Statement (.vdot8 w) := by
  intro sp h hw; cases h
  refine decode_of_raw ?_ hw
  change rawX (putXV4 0x07 w) = _
  simp only [rawX, putXV4_hi, putXV4_lo]
  exact congrArg (fun x => some (Instr.vdot8 x)) (getXV4_putXV4 _ w)

theorem vmin (w : XV3) : Statement (.vmin w) := by
  intro sp h hw; cases h
  refine decode_of_raw ?_ hw
  change rawX (putXV3 0x08 w) = _
  simp only [rawX, putXV3_hi, putXV3_lo]
  exact congrArg (fun x => some (Instr.vmin x)) (getXV3_putXV3 _ w)

theorem vmax (w : XV3) : Statement (.vmax w) := by
  intro sp h hw; cases h
  refine decode_of_raw ?_ hw
  change rawX (putXV3 0x09 w) = _
  simp only [rawX, putXV3_hi, putXV3_lo]
  exact congrArg (fun x => some (Instr.vmax x)) (getXV3_putXV3 _ w)

theorem vabs (w : XV3) : Statement (.vabs w) := by
  intro sp h hw; cases h
  refine decode_of_raw ?_ hw
  change rawX (putXV3 0x0A w) = _
  simp only [rawX, putXV3_hi, putXV3_lo]
  exact congrArg (fun x => some (Instr.vabs x)) (getXV3_putXV3 _ w)

theorem vabsd (w : XV3) : Statement (.vabsd w) := by
  intro sp h hw; cases h
  refine decode_of_raw ?_ hw
  change rawX (putXV3 0x0B w) = _
  simp only [rawX, putXV3_hi, putXV3_lo]
  exact congrArg (fun x => some (Instr.vabsd x)) (getXV3_putXV3 _ w)

theorem vneg (w : XV3) : Statement (.vneg w) := by
  intro sp h hw; cases h
  refine decode_of_raw ?_ hw
  change rawX (putXV3 0x0C w) = _
  simp only [rawX, putXV3_hi, putXV3_lo]
  exact congrArg (fun x => some (Instr.vneg x)) (getXV3_putXV3 _ w)

theorem vavg (w : XV3) : Statement (.vavg w) := by
  intro sp h hw; cases h
  refine decode_of_raw ?_ hw
  change rawX (putXV3 0x0D w) = _
  simp only [rawX, putXV3_hi, putXV3_lo]
  exact congrArg (fun x => some (Instr.vavg x)) (getXV3_putXV3 _ w)

theorem vshl (w : XV3) : Statement (.vshl w) := by
  intro sp h hw; cases h
  refine decode_of_raw ?_ hw
  change rawX (putXV3 0x0E w) = _
  simp only [rawX, putXV3_hi, putXV3_lo]
  exact congrArg (fun x => some (Instr.vshl x)) (getXV3_putXV3 _ w)

theorem vshr (w : XV3) : Statement (.vshr w) := by
  intro sp h hw; cases h
  refine decode_of_raw ?_ hw
  change rawX (putXV3 0x0F w) = _
  simp only [rawX, putXV3_hi, putXV3_lo]
  exact congrArg (fun x => some (Instr.vshr x)) (getXV3_putXV3 _ w)

theorem vsra (w : XV3) : Statement (.vsra w) := by
  intro sp h hw; cases h
  refine decode_of_raw ?_ hw
  change rawX (putXV3 0x10 w) = _
  simp only [rawX, putXV3_hi, putXV3_lo]
  exact congrArg (fun x => some (Instr.vsra x)) (getXV3_putXV3 _ w)

theorem vrsh (w : XV3) : Statement (.vrsh w) := by
  intro sp h hw; cases h
  refine decode_of_raw ?_ hw
  change rawX (putXV3 0x11 w) = _
  simp only [rawX, putXV3_hi, putXV3_lo]
  exact congrArg (fun x => some (Instr.vrsh x)) (getXV3_putXV3 _ w)

theorem vand (w : XV3) : Statement (.vand w) := by
  intro sp h hw; cases h
  refine decode_of_raw ?_ hw
  change rawX (putXV3 0x12 w) = _
  simp only [rawX, putXV3_hi, putXV3_lo]
  exact congrArg (fun x => some (Instr.vand x)) (getXV3_putXV3 _ w)

theorem vor (w : XV3) : Statement (.vor w) := by
  intro sp h hw; cases h
  refine decode_of_raw ?_ hw
  change rawX (putXV3 0x13 w) = _
  simp only [rawX, putXV3_hi, putXV3_lo]
  exact congrArg (fun x => some (Instr.vor x)) (getXV3_putXV3 _ w)

theorem vxor (w : XV3) : Statement (.vxor w) := by
  intro sp h hw; cases h
  refine decode_of_raw ?_ hw
  change rawX (putXV3 0x14 w) = _
  simp only [rawX, putXV3_hi, putXV3_lo]
  exact congrArg (fun x => some (Instr.vxor x)) (getXV3_putXV3 _ w)

theorem vandn (w : XV3) : Statement (.vandn w) := by
  intro sp h hw; cases h
  refine decode_of_raw ?_ hw
  change rawX (putXV3 0x15 w) = _
  simp only [rawX, putXV3_hi, putXV3_lo]
  exact congrArg (fun x => some (Instr.vandn x)) (getXV3_putXV3 _ w)

theorem vnot (w : XV3) : Statement (.vnot w) := by
  intro sp h hw; cases h
  refine decode_of_raw ?_ hw
  change rawX (putXV3 0x16 w) = _
  simp only [rawX, putXV3_hi, putXV3_lo]
  exact congrArg (fun x => some (Instr.vnot x)) (getXV3_putXV3 _ w)

theorem vpopc (w : XV3) : Statement (.vpopc w) := by
  intro sp h hw; cases h
  refine decode_of_raw ?_ hw
  change rawX (putXV3 0x17 w) = _
  simp only [rawX, putXV3_hi, putXV3_lo]
  exact congrArg (fun x => some (Instr.vpopc x)) (getXV3_putXV3 _ w)

theorem vclz (w : XV3) : Statement (.vclz w) := by
  intro sp h hw; cases h
  refine decode_of_raw ?_ hw
  change rawX (putXV3 0x18 w) = _
  simp only [rawX, putXV3_hi, putXV3_lo]
  exact congrArg (fun x => some (Instr.vclz x)) (getXV3_putXV3 _ w)

theorem vsel (w : XV4) : Statement (.vsel w) := by
  intro sp h hw; cases h
  refine decode_of_raw ?_ hw
  change rawX (putXV4 0x19 w) = _
  simp only [rawX, putXV4_hi, putXV4_lo]
  exact congrArg (fun x => some (Instr.vsel x)) (getXV4_putXV4 _ w)

theorem vcmp (w : XV3) : Statement (.vcmp w) := by
  intro sp h hw; cases h
  refine decode_of_raw ?_ hw
  change rawX (putXV3 0x1A w) = _
  simp only [rawX, putXV3_hi, putXV3_lo]
  exact congrArg (fun x => some (Instr.vcmp x)) (getXV3_putXV3 _ w)

theorem vclamp (w : XV4) : Statement (.vclamp w) := by
  intro sp h hw; cases h
  refine decode_of_raw ?_ hw
  change rawX (putXV4 0x1B w) = _
  simp only [rawX, putXV4_hi, putXV4_lo]
  exact congrArg (fun x => some (Instr.vclamp x)) (getXV4_putXV4 _ w)

theorem vfadd (w : XV3) : Statement (.vfadd w) := by
  intro sp h hw; cases h
  refine decode_of_raw ?_ hw
  change rawX (putXV3 0x20 w) = _
  simp only [rawX, putXV3_hi, putXV3_lo]
  exact congrArg (fun x => some (Instr.vfadd x)) (getXV3_putXV3 _ w)

theorem vfsub (w : XV3) : Statement (.vfsub w) := by
  intro sp h hw; cases h
  refine decode_of_raw ?_ hw
  change rawX (putXV3 0x21 w) = _
  simp only [rawX, putXV3_hi, putXV3_lo]
  exact congrArg (fun x => some (Instr.vfsub x)) (getXV3_putXV3 _ w)

theorem vfmul (w : XV3) : Statement (.vfmul w) := by
  intro sp h hw; cases h
  refine decode_of_raw ?_ hw
  change rawX (putXV3 0x22 w) = _
  simp only [rawX, putXV3_hi, putXV3_lo]
  exact congrArg (fun x => some (Instr.vfmul x)) (getXV3_putXV3 _ w)

theorem vfma (w : XV4) : Statement (.vfma w) := by
  intro sp h hw; cases h
  refine decode_of_raw ?_ hw
  change rawX (putXV4 0x23 w) = _
  simp only [rawX, putXV4_hi, putXV4_lo]
  exact congrArg (fun x => some (Instr.vfma x)) (getXV4_putXV4 _ w)

theorem vfms (w : XV4) : Statement (.vfms w) := by
  intro sp h hw; cases h
  refine decode_of_raw ?_ hw
  change rawX (putXV4 0x24 w) = _
  simp only [rawX, putXV4_hi, putXV4_lo]
  exact congrArg (fun x => some (Instr.vfms x)) (getXV4_putXV4 _ w)

theorem vfnma (w : XV4) : Statement (.vfnma w) := by
  intro sp h hw; cases h
  refine decode_of_raw ?_ hw
  change rawX (putXV4 0x25 w) = _
  simp only [rawX, putXV4_hi, putXV4_lo]
  exact congrArg (fun x => some (Instr.vfnma x)) (getXV4_putXV4 _ w)

theorem vfmin (w : XV3) : Statement (.vfmin w) := by
  intro sp h hw; cases h
  refine decode_of_raw ?_ hw
  change rawX (putXV3 0x26 w) = _
  simp only [rawX, putXV3_hi, putXV3_lo]
  exact congrArg (fun x => some (Instr.vfmin x)) (getXV3_putXV3 _ w)

theorem vfmax (w : XV3) : Statement (.vfmax w) := by
  intro sp h hw; cases h
  refine decode_of_raw ?_ hw
  change rawX (putXV3 0x27 w) = _
  simp only [rawX, putXV3_hi, putXV3_lo]
  exact congrArg (fun x => some (Instr.vfmax x)) (getXV3_putXV3 _ w)

theorem vfabs (w : XV3) : Statement (.vfabs w) := by
  intro sp h hw; cases h
  refine decode_of_raw ?_ hw
  change rawX (putXV3 0x28 w) = _
  simp only [rawX, putXV3_hi, putXV3_lo]
  exact congrArg (fun x => some (Instr.vfabs x)) (getXV3_putXV3 _ w)

theorem vfneg (w : XV3) : Statement (.vfneg w) := by
  intro sp h hw; cases h
  refine decode_of_raw ?_ hw
  change rawX (putXV3 0x29 w) = _
  simp only [rawX, putXV3_hi, putXV3_lo]
  exact congrArg (fun x => some (Instr.vfneg x)) (getXV3_putXV3 _ w)

theorem vfcmp (w : XV3) : Statement (.vfcmp w) := by
  intro sp h hw; cases h
  refine decode_of_raw ?_ hw
  change rawX (putXV3 0x2A w) = _
  simp only [rawX, putXV3_hi, putXV3_lo]
  exact congrArg (fun x => some (Instr.vfcmp x)) (getXV3_putXV3 _ w)

theorem vfclass (w : XV3) : Statement (.vfclass w) := by
  intro sp h hw; cases h
  refine decode_of_raw ?_ hw
  change rawX (putXV3 0x2B w) = _
  simp only [rawX, putXV3_hi, putXV3_lo]
  exact congrArg (fun x => some (Instr.vfclass x)) (getXV3_putXV3 _ w)

theorem vrcp (w : XV3) : Statement (.vrcp w) := by
  intro sp h hw; cases h
  refine decode_of_raw ?_ hw
  change rawX (putXV3 0x2C w) = _
  simp only [rawX, putXV3_hi, putXV3_lo]
  exact congrArg (fun x => some (Instr.vrcp x)) (getXV3_putXV3 _ w)

theorem vrsq (w : XV3) : Statement (.vrsq w) := by
  intro sp h hw; cases h
  refine decode_of_raw ?_ hw
  change rawX (putXV3 0x2D w) = _
  simp only [rawX, putXV3_hi, putXV3_lo]
  exact congrArg (fun x => some (Instr.vrsq x)) (getXV3_putXV3 _ w)

theorem vsqrt (w : XV3) : Statement (.vsqrt w) := by
  intro sp h hw; cases h
  refine decode_of_raw ?_ hw
  change rawX (putXV3 0x2E w) = _
  simp only [rawX, putXV3_hi, putXV3_lo]
  exact congrArg (fun x => some (Instr.vsqrt x)) (getXV3_putXV3 _ w)

theorem vdiv (w : XV3) : Statement (.vdiv w) := by
  intro sp h hw; cases h
  refine decode_of_raw ?_ hw
  change rawX (putXV3 0x2F w) = _
  simp only [rawX, putXV3_hi, putXV3_lo]
  exact congrArg (fun x => some (Instr.vdiv x)) (getXV3_putXV3 _ w)

theorem vexp2 (w : XV3) : Statement (.vexp2 w) := by
  intro sp h hw; cases h
  refine decode_of_raw ?_ hw
  change rawX (putXV3 0x30 w) = _
  simp only [rawX, putXV3_hi, putXV3_lo]
  exact congrArg (fun x => some (Instr.vexp2 x)) (getXV3_putXV3 _ w)

theorem vlog2 (w : XV3) : Statement (.vlog2 w) := by
  intro sp h hw; cases h
  refine decode_of_raw ?_ hw
  change rawX (putXV3 0x31 w) = _
  simp only [rawX, putXV3_hi, putXV3_lo]
  exact congrArg (fun x => some (Instr.vlog2 x)) (getXV3_putXV3 _ w)

theorem vfscl (w : XV3) : Statement (.vfscl w) := by
  intro sp h hw; cases h
  refine decode_of_raw ?_ hw
  change rawX (putXV3 0x32 w) = _
  simp only [rawX, putXV3_hi, putXV3_lo]
  exact congrArg (fun x => some (Instr.vfscl x)) (getXV3_putXV3 _ w)

theorem vcvt (w : XV3) : Statement (.vcvt w) := by
  intro sp h hw; cases h
  refine decode_of_raw ?_ hw
  change rawX (putXV3 0x40 w) = _
  simp only [rawX, putXV3_hi, putXV3_lo]
  exact congrArg (fun x => some (Instr.vcvt x)) (getXV3_putXV3 _ w)

theorem vcvte (w : XV4) : Statement (.vcvte w) := by
  intro sp h hw; cases h
  refine decode_of_raw ?_ hw
  change rawX (putXV4 0x41 w) = _
  simp only [rawX, putXV4_hi, putXV4_lo]
  exact congrArg (fun x => some (Instr.vcvte x)) (getXV4_putXV4 _ w)

theorem vqmx (w : XV3) : Statement (.vqmx w) := by
  intro sp h hw; cases h
  refine decode_of_raw ?_ hw
  change rawX (putXV3 0x42 w) = _
  simp only [rawX, putXV3_hi, putXV3_lo]
  exact congrArg (fun x => some (Instr.vqmx x)) (getXV3_putXV3 _ w)

theorem vdqmx (w : XV3) : Statement (.vdqmx w) := by
  intro sp h hw; cases h
  refine decode_of_raw ?_ hw
  change rawX (putXV3 0x43 w) = _
  simp only [rawX, putXV3_hi, putXV3_lo]
  exact congrArg (fun x => some (Instr.vdqmx x)) (getXV3_putXV3 _ w)

theorem vamax (w : XV3) : Statement (.vamax w) := by
  intro sp h hw; cases h
  refine decode_of_raw ?_ hw
  change rawX (putXV3 0x44 w) = _
  simp only [rawX, putXV3_hi, putXV3_lo]
  exact congrArg (fun x => some (Instr.vamax x)) (getXV3_putXV3 _ w)

theorem eset (w : XI) : Statement (.eset w) := by
  intro sp h hw; cases h
  have hf : (decide (w.imm = 0) && decide (w.rnd = 0) && decide (w.sat = 0) && decide (w.fn = 0) && decide (w.ty = 3) && scaleNo w.d && decide ((w.a.extractLsb' 0 4).toNat ≤ 1)) = true := hw
  simp only [Bool.and_eq_true, decide_eq_true_eq] at hf
  refine decode_of_raw ?_ hw
  change rawX (putXI 0x45 w) = _
  simp (decide := true) only [rawX, putXI_hi, putXI_lo, rawX4, getXI_putXI, if_true, if_false]
  simp [hf]

theorem esetImm (w : XI) : Statement (.esetImm w) := by
  intro sp h hw; cases h
  have hf : (decide (w.a = 0) && decide (w.rnd = 0) && decide (w.sat = 0) && decide (w.fn = 0) && decide (w.ty = 3) && scaleNo w.d && decide (w.imm.extractLsb' 0 8 = 1) && decide (w.imm.extractLsb' 16 16 = 0)) = true := hw
  simp only [Bool.and_eq_true, decide_eq_true_eq] at hf
  refine decode_of_raw ?_ hw
  change rawX (putXI 0x45 w) = _
  simp (decide := true) only [rawX, putXI_hi, putXI_lo, rawX4, getXI_putXI, if_true, if_false]
  have h0 : w.imm.getLsbD 0 = true := by
    have h1 := congrArg (fun x : BitVec 8 => x.getLsbD 0) hf.1.2
    simpa using h1
  simp only [h0]
  rfl

theorem eget (w : XI) : Statement (.eget w) := by
  intro sp h hw; cases h
  refine decode_of_raw ?_ hw
  change rawX (putXI 0x46 w) = _
  simp only [rawX, putXI_hi, putXI_lo]
  exact congrArg (fun x => some (Instr.eget x)) (getXI_putXI _ w)

theorem vperm (w : XV3) : Statement (.vperm w) := by
  intro sp h hw; cases h
  refine decode_of_raw ?_ hw
  change rawX (putXV3 0x60 w) = _
  simp only [rawX, putXV3_hi, putXV3_lo]
  exact congrArg (fun x => some (Instr.vperm x)) (getXV3_putXV3 _ w)

theorem vbcst (w : XV3) : Statement (.vbcst w) := by
  intro sp h hw; cases h
  refine decode_of_raw ?_ hw
  change rawX (putXV3 0x61 w) = _
  simp only [rawX, putXV3_hi, putXV3_lo]
  exact congrArg (fun x => some (Instr.vbcst x)) (getXV3_putXV3 _ w)

theorem vzip (w : XV3) : Statement (.vzip w) := by
  intro sp h hw; cases h
  refine decode_of_raw ?_ hw
  change rawX (putXV3 0x62 w) = _
  simp only [rawX, putXV3_hi, putXV3_lo]
  exact congrArg (fun x => some (Instr.vzip x)) (getXV3_putXV3 _ w)

theorem vunzip (w : XV3) : Statement (.vunzip w) := by
  intro sp h hw; cases h
  refine decode_of_raw ?_ hw
  change rawX (putXV3 0x63 w) = _
  simp only [rawX, putXV3_hi, putXV3_lo]
  exact congrArg (fun x => some (Instr.vunzip x)) (getXV3_putXV3 _ w)

theorem vpack (w : XV3) : Statement (.vpack w) := by
  intro sp h hw; cases h
  refine decode_of_raw ?_ hw
  change rawX (putXV3 0x64 w) = _
  simp only [rawX, putXV3_hi, putXV3_lo]
  exact congrArg (fun x => some (Instr.vpack x)) (getXV3_putXV3 _ w)

theorem vunpk (w : XV3) : Statement (.vunpk w) := by
  intro sp h hw; cases h
  refine decode_of_raw ?_ hw
  change rawX (putXV3 0x65 w) = _
  simp only [rawX, putXV3_hi, putXV3_lo]
  exact congrArg (fun x => some (Instr.vunpk x)) (getXV3_putXV3 _ w)

theorem vlsh (w : XI) : Statement (.vlsh w) := by
  intro sp h hw; cases h
  refine decode_of_raw ?_ hw
  change rawX (putXI 0x66 w) = _
  simp only [rawX, putXI_hi, putXI_lo]
  exact congrArg (fun x => some (Instr.vlsh x)) (getXI_putXI _ w)

theorem vmov (w : XV3) : Statement (.vmov w) := by
  intro sp h hw; cases h
  refine decode_of_raw ?_ hw
  change rawX (putXV3 0x67 w) = _
  simp only [rawX, putXV3_hi, putXV3_lo]
  exact congrArg (fun x => some (Instr.vmov x)) (getXV3_putXV3 _ w)

theorem vmovi (w : XI) : Statement (.vmovi w) := by
  intro sp h hw; cases h
  refine decode_of_raw ?_ hw
  change rawX (putXI 0x68 w) = _
  simp only [rawX, putXI_hi, putXI_lo]
  exact congrArg (fun x => some (Instr.vmovi x)) (getXI_putXI _ w)

theorem vbf2 (w : XV4) : Statement (.vbf2 w) := by
  intro sp h hw; cases h
  refine decode_of_raw ?_ hw
  change rawX (putXV4 0x70 w) = _
  simp only [rawX, putXV4_hi, putXV4_lo]
  exact congrArg (fun x => some (Instr.vbf2 x)) (getXV4_putXV4 _ w)

theorem vbf4 (w : XV4) : Statement (.vbf4 w) := by
  intro sp h hw; cases h
  refine decode_of_raw ?_ hw
  change rawX (putXV4 0x71 w) = _
  simp only [rawX, putXV4_hi, putXV4_lo]
  exact congrArg (fun x => some (Instr.vbf4 x)) (getXV4_putXV4 _ w)

theorem vtwg (w : XI) : Statement (.vtwg w) := by
  intro sp h hw; cases h
  refine decode_of_raw ?_ hw
  change rawX (putXI 0x72 w) = _
  simp only [rawX, putXI_hi, putXI_lo]
  exact congrArg (fun x => some (Instr.vtwg x)) (getXI_putXI _ w)

theorem vcmul (w : XV3) : Statement (.vcmul w) := by
  intro sp h hw; cases h
  refine decode_of_raw ?_ hw
  change rawX (putXV3 0x73 w) = _
  simp only [rawX, putXV3_hi, putXV3_lo]
  exact congrArg (fun x => some (Instr.vcmul x)) (getXV3_putXV3 _ w)

theorem vcmac (w : XV4) : Statement (.vcmac w) := by
  intro sp h hw; cases h
  refine decode_of_raw ?_ hw
  change rawX (putXV4 0x74 w) = _
  simp only [rawX, putXV4_hi, putXV4_lo]
  exact congrArg (fun x => some (Instr.vcmac x)) (getXV4_putXV4 _ w)

theorem vred (w : XV3) : Statement (.vred w) := by
  intro sp h hw; cases h
  refine decode_of_raw ?_ hw
  change rawX (putXV3 0x50 w) = _
  simp only [rawX, putXV3_hi, putXV3_lo]
  exact congrArg (fun x => some (Instr.vred x)) (getXV3_putXV3 _ w)

theorem vscan (w : XV3) : Statement (.vscan w) := by
  intro sp h hw; cases h
  refine decode_of_raw ?_ hw
  change rawX (putXV3 0x51 w) = _
  simp only [rawX, putXV3_hi, putXV3_lo]
  exact congrArg (fun x => some (Instr.vscan x)) (getXV3_putXV3 _ w)

theorem vrsum (w : XV3) : Statement (.vrsum w) := by
  intro sp h hw; cases h
  refine decode_of_raw ?_ hw
  change rawX (putXV3 0x52 w) = _
  simp only [rawX, putXV3_hi, putXV3_lo]
  exact congrArg (fun x => some (Instr.vrsum x)) (getXV3_putXV3 _ w)

theorem kand (w : XI) : Statement (.kand w) := by
  intro sp h hw; cases h
  refine decode_of_raw ?_ hw
  change rawX (putXI 0x78 w) = _
  simp only [rawX, putXI_hi, putXI_lo]
  exact congrArg (fun x => some (Instr.kand x)) (getXI_putXI _ w)

theorem kor (w : XI) : Statement (.kor w) := by
  intro sp h hw; cases h
  refine decode_of_raw ?_ hw
  change rawX (putXI 0x79 w) = _
  simp only [rawX, putXI_hi, putXI_lo]
  exact congrArg (fun x => some (Instr.kor x)) (getXI_putXI _ w)

theorem kxor (w : XI) : Statement (.kxor w) := by
  intro sp h hw; cases h
  refine decode_of_raw ?_ hw
  change rawX (putXI 0x7A w) = _
  simp only [rawX, putXI_hi, putXI_lo]
  exact congrArg (fun x => some (Instr.kxor x)) (getXI_putXI _ w)

theorem knot (w : XI) : Statement (.knot w) := by
  intro sp h hw; cases h
  refine decode_of_raw ?_ hw
  change rawX (putXI 0x7B w) = _
  simp only [rawX, putXI_hi, putXI_lo]
  exact congrArg (fun x => some (Instr.knot x)) (getXI_putXI _ w)

theorem ksetLt (w : XI) : Statement (.ksetLt w) := by
  intro sp h hw; cases h
  have hf : (decide (w.a = 0) && decide (w.ty = 0) && decide (w.rnd = 0) && decide (w.sat = 0) && decide (w.fn = 0) && predOk w.d && decide (w.imm.toNat ≤ 512)) = true := hw
  simp only [Bool.and_eq_true, decide_eq_true_eq] at hf
  refine decode_of_raw ?_ hw
  change rawX (putXI 0x7C w) = _
  simp (decide := true) only [rawX, putXI_hi, putXI_lo, rawX7, getXI_putXI, if_true, if_false]
  simp [hf]

theorem ksetGe (w : XI) : Statement (.ksetGe w) := by
  intro sp h hw; cases h
  have hf : (decide (w.a = 0) && decide (w.ty = 0) && decide (w.rnd = 0) && decide (w.sat = 0) && predOk w.d && decide (w.imm.toNat ≤ 512) && decide (w.fn = 1)) = true := hw
  simp only [Bool.and_eq_true, decide_eq_true_eq] at hf
  refine decode_of_raw ?_ hw
  change rawX (putXI 0x7C w) = _
  simp (decide := true) only [rawX, putXI_hi, putXI_lo, rawX7, getXI_putXI, if_true, if_false]
  simp [hf]

theorem ksetMod (w : XI) : Statement (.ksetMod w) := by
  intro sp h hw; cases h
  have hf : (decide (w.a = 0) && decide (w.ty = 0) && decide (w.rnd = 0) && decide (w.sat = 0) && predOk w.d && decide (w.fn = 2) && ksetModOk w.imm) = true := hw
  simp only [Bool.and_eq_true, decide_eq_true_eq] at hf
  refine decode_of_raw ?_ hw
  change rawX (putXI 0x7C w) = _
  simp (decide := true) only [rawX, putXI_hi, putXI_lo, rawX7, getXI_putXI, if_true, if_false]
  simp [hf]

theorem kmov (w : XI) : Statement (.kmov w) := by
  intro sp h hw; cases h
  have hf : (decide (w.imm = 0) && decide (w.ty = 0) && decide (w.rnd = 0) && decide (w.sat = 0) && decide (w.fn = 0) && predOk w.d && predOk w.a) = true := hw
  simp only [Bool.and_eq_true, decide_eq_true_eq] at hf
  refine decode_of_raw ?_ hw
  change rawX (putXI 0x7D w) = _
  simp (decide := true) only [rawX, putXI_hi, putXI_lo, rawX7, getXI_putXI, if_true, if_false]
  simp [hf]

theorem kmovFromv (w : XI) : Statement (.kmovFromv w) := by
  intro sp h hw; cases h
  have hf : (decide (w.imm = 0) && decide (w.rnd = 0) && decide (w.sat = 0) && predOk w.d && intTy w.ty && decide (w.fn = 1)) = true := hw
  simp only [Bool.and_eq_true, decide_eq_true_eq] at hf
  refine decode_of_raw ?_ hw
  change rawX (putXI 0x7D w) = _
  simp (decide := true) only [rawX, putXI_hi, putXI_lo, rawX7, getXI_putXI, if_true, if_false]
  simp [hf]

theorem kmovTov (w : XI) : Statement (.kmovTov w) := by
  intro sp h hw; cases h
  have hf : (decide (w.imm = 0) && decide (w.rnd = 0) && decide (w.sat = 0) && predOk w.a && intTy w.ty && decide (w.fn = 2)) = true := hw
  simp only [Bool.and_eq_true, decide_eq_true_eq] at hf
  refine decode_of_raw ?_ hw
  change rawX (putXI 0x7D w) = _
  simp (decide := true) only [rawX, putXI_hi, putXI_lo, rawX7, getXI_putXI, if_true, if_false]
  simp [hf]

theorem loop (w : XC) : Statement (.loop w) := by
  intro sp h hw; cases h
  refine decode_of_raw ?_ hw
  change rawX (putXC 0x80 w) = _
  simp only [rawX, putXC_hi, putXC_lo]
  exact congrArg (fun x => some (Instr.loop x)) (getXC_putXC _ w)

theorem loopr (w : XC) : Statement (.loopr w) := by
  intro sp h hw; cases h
  refine decode_of_raw ?_ hw
  change rawX (putXC 0x81 w) = _
  simp only [rawX, putXC_hi, putXC_lo]
  exact congrArg (fun x => some (Instr.loopr x)) (getXC_putXC _ w)

theorem xb (w : XC) : Statement (.xb w) := by
  intro sp h hw; cases h
  refine decode_of_raw ?_ hw
  change rawX (putXC 0x82 w) = _
  simp only [rawX, putXC_hi, putXC_lo]
  exact congrArg (fun x => some (Instr.xb x)) (getXC_putXC _ w)

theorem xbk (w : XC) : Statement (.xbk w) := by
  intro sp h hw; cases h
  refine decode_of_raw ?_ hw
  change rawX (putXC 0x83 w) = _
  simp only [rawX, putXC_hi, putXC_lo]
  exact congrArg (fun x => some (Instr.xbk x)) (getXC_putXC _ w)

theorem xj (w : XC) : Statement (.xj w) := by
  intro sp h hw; cases h
  refine decode_of_raw ?_ hw
  change rawX (putXC 0x84 w) = _
  simp only [rawX, putXC_hi, putXC_lo]
  exact congrArg (fun x => some (Instr.xj x)) (getXC_putXC _ w)

theorem xfin (w : XC) : Statement (.xfin w) := by
  intro sp h hw; cases h
  refine decode_of_raw ?_ hw
  change rawX (putXC 0x85 w) = _
  simp only [rawX, putXC_hi, putXC_lo]
  exact congrArg (fun x => some (Instr.xfin x)) (getXC_putXC _ w)

theorem vdead (w : XI) : Statement (.vdead w) := by
  intro sp h hw; cases h
  refine decode_of_raw ?_ hw
  change rawX (putXI 0x90 w) = _
  simp only [rawX, putXI_hi, putXI_lo]
  exact congrArg (fun x => some (Instr.vdead x)) (getXI_putXI _ w)

theorem vpush (w : XI) : Statement (.vpush w) := by
  intro sp h hw; cases h
  refine decode_of_raw ?_ hw
  change rawX (putXI 0x91 w) = _
  simp only [rawX, putXI_hi, putXI_lo]
  exact congrArg (fun x => some (Instr.vpush x)) (getXI_putXI _ w)

theorem lease (w : MS) : Statement (.lease w) := by
  intro sp h hw; cases h
  refine decode_of_raw ?_ hw
  change rawM (putMS 0x01 w) = _
  simp only [rawM, putMS_hi, putMS_lo]
  exact congrArg (fun x => some (Instr.lease x)) (getMS_putMS _ w)

theorem lfree (w : MS) : Statement (.lfree w) := by
  intro sp h hw; cases h
  refine decode_of_raw ?_ hw
  change rawM (putMS 0x02 w) = _
  simp only [rawM, putMS_hi, putMS_lo]
  exact congrArg (fun x => some (Instr.lfree x)) (getMS_putMS _ w)

theorem mma (w : MC) : Statement (.mma w) := by
  intro sp h hw; cases h
  refine decode_of_raw ?_ hw
  change rawM (putMC 0x03 w) = _
  simp only [rawM, putMC_hi, putMC_lo]
  exact congrArg (fun x => some (Instr.mma x)) (getMC_putMC _ w)

theorem mmaz (w : MC) : Statement (.mmaz w) := by
  intro sp h hw; cases h
  refine decode_of_raw ?_ hw
  change rawM (putMC 0x04 w) = _
  simp only [rawM, putMC_hi, putMC_lo]
  exact congrArg (fun x => some (Instr.mmaz x)) (getMC_putMC _ w)

theorem mmb (w : MC) : Statement (.mmb w) := by
  intro sp h hw; cases h
  refine decode_of_raw ?_ hw
  change rawM (putMC 0x05 w) = _
  simp only [rawM, putMC_hi, putMC_lo]
  exact congrArg (fun x => some (Instr.mmb x)) (getMC_putMC _ w)

theorem mmi (w : MC) : Statement (.mmi w) := by
  intro sp h hw; cases h
  refine decode_of_raw ?_ hw
  change rawM (putMC 0x06 w) = _
  simp only [rawM, putMC_hi, putMC_lo]
  exact congrArg (fun x => some (Instr.mmi x)) (getMC_putMC _ w)

theorem mclr (w : MC) : Statement (.mclr w) := by
  intro sp h hw; cases h
  refine decode_of_raw ?_ hw
  change rawM (putMC 0x07 w) = _
  simp only [rawM, putMC_hi, putMC_lo]
  exact congrArg (fun x => some (Instr.mclr x)) (getMC_putMC _ w)

theorem mld (w : MC) : Statement (.mld w) := by
  intro sp h hw; cases h
  refine decode_of_raw ?_ hw
  change rawM (putMC 0x08 w) = _
  simp only [rawM, putMC_hi, putMC_lo]
  exact congrArg (fun x => some (Instr.mld x)) (getMC_putMC _ w)

theorem mst (w : MC) : Statement (.mst w) := by
  intro sp h hw; cases h
  refine decode_of_raw ?_ hw
  change rawM (putMC 0x09 w) = _
  simp only [rawM, putMC_hi, putMC_lo]
  exact congrArg (fun x => some (Instr.mst x)) (getMC_putMC _ w)

theorem madd (w : MC) : Statement (.madd w) := by
  intro sp h hw; cases h
  refine decode_of_raw ?_ hw
  change rawM (putMC 0x0A w) = _
  simp only [rawM, putMC_hi, putMC_lo]
  exact congrArg (fun x => some (Instr.madd x)) (getMC_putMC _ w)

theorem mscl (w : MC) : Statement (.mscl w) := by
  intro sp h hw; cases h
  refine decode_of_raw ?_ hw
  change rawM (putMC 0x0B w) = _
  simp only [rawM, putMC_hi, putMC_lo]
  exact congrArg (fun x => some (Instr.mscl x)) (getMC_putMC _ w)

theorem mset (w : MS) : Statement (.mset w) := by
  intro sp h hw; cases h
  refine decode_of_raw ?_ hw
  change rawM (putMS 0x0C w) = _
  simp only [rawM, putMS_hi, putMS_lo]
  exact congrArg (fun x => some (Instr.mset x)) (getMS_putMS _ w)

theorem minc (w : MS) : Statement (.minc w) := by
  intro sp h hw; cases h
  refine decode_of_raw ?_ hw
  change rawM (putMS 0x0D w) = _
  simp only [rawM, putMS_hi, putMS_lo]
  exact congrArg (fun x => some (Instr.minc x)) (getMS_putMS _ w)

theorem mrep (w : MS) : Statement (.mrep w) := by
  intro sp h hw; cases h
  refine decode_of_raw ?_ hw
  change rawM (putMS 0x0E w) = _
  simp only [rawM, putMS_hi, putMS_lo]
  exact congrArg (fun x => some (Instr.mrep x)) (getMS_putMS _ w)

theorem mfence (w : MS) : Statement (.mfence w) := by
  intro sp h hw; cases h
  refine decode_of_raw ?_ hw
  change rawM (putMS 0x0F w) = _
  simp only [rawM, putMS_hi, putMS_lo]
  exact congrArg (fun x => some (Instr.mfence x)) (getMS_putMS _ w)

theorem mbarv (w : MS) : Statement (.mbarv w) := by
  intro sp h hw; cases h
  refine decode_of_raw ?_ hw
  change rawM (putMS 0x10 w) = _
  simp only [rawM, putMS_hi, putMS_lo]
  exact congrArg (fun x => some (Instr.mbarv x)) (getMS_putMS _ w)

theorem mfin (w : MS) : Statement (.mfin w) := by
  intro sp h hw; cases h
  refine decode_of_raw ?_ hw
  change rawM (putMS 0x11 w) = _
  simp only [rawM, putMS_hi, putMS_lo]
  exact congrArg (fun x => some (Instr.mfin x)) (getMS_putMS _ w)

theorem mnop (w : MS) : Statement (.mnop w) := by
  intro sp h hw; cases h
  refine decode_of_raw ?_ hw
  change rawM (putMS 0x12 w) = _
  simp only [rawM, putMS_hi, putMS_lo]
  exact congrArg (fun x => some (Instr.mnop x)) (getMS_putMS _ w)

theorem forwardedArrival : Statement .forwardedArrival := by
  intro sp h; cases h

theorem xLanding : Statement .xLanding := by
  intro sp h; cases h

theorem loadReturn : Statement .loadReturn := by
  intro sp h; cases h

theorem uncorrectableLoadDelivery : Statement .uncorrectableLoadDelivery := by
  intro sp h; cases h

theorem vpushArrival : Statement .vpushArrival := by
  intro sp h; cases h

theorem xqEntryArrival : Statement .xqEntryArrival := by
  intro sp h; cases h

theorem streamVectorFetch : Statement .streamVectorFetch := by
  intro sp h; cases h

theorem copyChunkLanding : Statement .copyChunkLanding := by
  intro sp h; cases h

theorem matrixCommandComplete : Statement .matrixCommandComplete := by
  intro sp h; cases h

theorem matrixFetchFault : Statement .matrixFetchFault := by
  intro sp h; cases h

theorem matrixGlyphInvalid : Statement .matrixGlyphInvalid := by
  intro sp h; cases h

theorem leaseGrant : Statement .leaseGrant := by
  intro sp h; cases h

theorem headerEntry : Statement .headerEntry := by
  intro sp h; cases h

theorem headerWaitRelease : Statement .headerWaitRelease := by
  intro sp h; cases h

theorem sectionRetirement : Statement .sectionRetirement := by
  intro sp h; cases h

theorem xIssue : Statement .xIssue := by
  intro sp h; cases h

theorem trapDelivery : Statement .trapDelivery := by
  intro sp h; cases h

theorem rubricatorTrap : Statement .rubricatorTrap := by
  intro sp h; cases h

theorem pendingWriteReplay : Statement .pendingWriteReplay := by
  intro sp h; cases h

theorem faultRecordPost : Statement .faultRecordPost := by
  intro sp h; cases h

theorem answerResume : Statement .answerResume := by
  intro sp h; cases h

theorem answerSkip : Statement .answerSkip := by
  intro sp h; cases h

theorem answerEnd : Statement .answerEnd := by
  intro sp h; cases h

theorem answerAbandon : Statement .answerAbandon := by
  intro sp h; cases h

theorem watchdogExpiry : Statement .watchdogExpiry := by
  intro sp h; cases h

theorem taskUnpark : Statement .taskUnpark := by
  intro sp h; cases h

theorem taskWaitsReached : Statement .taskWaitsReached := by
  intro sp h; cases h

theorem taskPlacement : Statement .taskPlacement := by
  intro sp h; cases h

theorem contextLoadComplete : Statement .contextLoadComplete := by
  intro sp h; cases h

theorem armingCompletion : Statement .armingCompletion := by
  intro sp h; cases h

theorem preemptDrainEnd : Statement .preemptDrainEnd := by
  intro sp h; cases h

theorem preemptDrainTimeout : Statement .preemptDrainTimeout := by
  intro sp h; cases h

theorem preemptSaveComplete : Statement .preemptSaveComplete := by
  intro sp h; cases h

theorem queueLaunchAction : Statement .queueLaunchAction := by
  intro sp h; cases h

theorem queueCopyAction : Statement .queueCopyAction := by
  intro sp h; cases h

theorem queueSemAction : Statement .queueSemAction := by
  intro sp h; cases h

theorem queueHirqAction : Statement .queueHirqAction := by
  intro sp h; cases h

theorem inkTick : Statement .inkTick := by
  intro sp h; cases h

theorem inkGrant : Statement .inkGrant := by
  intro sp h; cases h

theorem regionExpiry : Statement .regionExpiry := by
  intro sp h; cases h

theorem overdraw : Statement .overdraw := by
  intro sp h; cases h

theorem sensorCheck : Statement .sensorCheck := by
  intro sp h; cases h

theorem clusterClamp : Statement .clusterClamp := by
  intro sp h; cases h

theorem pairMeasurement : Statement .pairMeasurement := by
  intro sp h; cases h

theorem droopDetect : Statement .droopDetect := by
  intro sp h; cases h

theorem governorEvaluation : Statement .governorEvaluation := by
  intro sp h; cases h

theorem ceilingChange : Statement .ceilingChange := by
  intro sp h; cases h

theorem baselineJoin : Statement .baselineJoin := by
  intro sp h; cases h

theorem baselineLeave : Statement .baselineLeave := by
  intro sp h; cases h

theorem baselineCommandMalformed : Statement .baselineCommandMalformed := by
  intro sp h; cases h

theorem baselineJoinReply : Statement .baselineJoinReply := by
  intro sp h; cases h

theorem baselineJoinTimeout : Statement .baselineJoinTimeout := by
  intro sp h; cases h

theorem baselineAnnouncement : Statement .baselineAnnouncement := by
  intro sp h; cases h

theorem heartbeatSend : Statement .heartbeatSend := by
  intro sp h; cases h

theorem heartbeatReceive : Statement .heartbeatReceive := by
  intro sp h; cases h

theorem silentDrop : Statement .silentDrop := by
  intro sp h; cases h

theorem memberExclusion : Statement .memberExclusion := by
  intro sp h; cases h

theorem serviceAreaRead : Statement .serviceAreaRead := by
  intro sp h; cases h

theorem blotterVisit : Statement .blotterVisit := by
  intro sp h; cases h

theorem conversionSwitch : Statement .conversionSwitch := by
  intro sp h; cases h

theorem blotterAccessRefused : Statement .blotterAccessRefused := by
  intro sp h; cases h

theorem migrationStart : Statement .migrationStart := by
  intro sp h; cases h

theorem migrationSwitch : Statement .migrationSwitch := by
  intro sp h; cases h

theorem pagedWrite : Statement .pagedWrite := by
  intro sp h; cases h

theorem copyOnWrite : Statement .copyOnWrite := by
  intro sp h; cases h

theorem folioDeferredFree : Statement .folioDeferredFree := by
  intro sp h; cases h

theorem ctlInval : Statement .ctlInval := by
  intro sp h; cases h

theorem invalidationComplete : Statement .invalidationComplete := by
  intro sp h; cases h

theorem ctlRuling : Statement .ctlRuling := by
  intro sp h; cases h

theorem reRulingComplete : Statement .reRulingComplete := by
  intro sp h; cases h

theorem ctlMirlen : Statement .ctlMirlen := by
  intro sp h; cases h

theorem bankRetirement : Statement .bankRetirement := by
  intro sp h; cases h

theorem bankSwapSwitch : Statement .bankSwapSwitch := by
  intro sp h; cases h

theorem eccRetry : Statement .eccRetry := by
  intro sp h; cases h

theorem remapVoteFreeze : Statement .remapVoteFreeze := by
  intro sp h; cases h

theorem towerSeal : Statement .towerSeal := by
  intro sp h; cases h

theorem proofingPatternStart : Statement .proofingPatternStart := by
  intro sp h; cases h

theorem proofingPatternEnd : Statement .proofingPatternEnd := by
  intro sp h; cases h

theorem proofingAbort : Statement .proofingAbort := by
  intro sp h; cases h

theorem gegilFlitReceive : Statement .gegilFlitReceive := by
  intro sp h; cases h

theorem portRetrain : Statement .portRetrain := by
  intro sp h; cases h

theorem remoteRequestApply : Statement .remoteRequestApply := by
  intro sp h; cases h

theorem remoteResponse : Statement .remoteResponse := by
  intro sp h; cases h

theorem wakeWrite : Statement .wakeWrite := by
  intro sp h; cases h

theorem remoteResend : Statement .remoteResend := by
  intro sp h; cases h

theorem pathFailure : Statement .pathFailure := by
  intro sp h; cases h

theorem tagFilterExpiry : Statement .tagFilterExpiry := by
  intro sp h; cases h

theorem tscTimingExchange : Statement .tscTimingExchange := by
  intro sp h; cases h

theorem tscSyncLoss : Statement .tscSyncLoss := by
  intro sp h; cases h

theorem collectiveDataPhase : Statement .collectiveDataPhase := by
  intro sp h; cases h

theorem collectiveCompletion : Statement .collectiveCompletion := by
  intro sp h; cases h

theorem collectiveStop : Statement .collectiveStop := by
  intro sp h; cases h

theorem collectiveAbandonMessage : Statement .collectiveAbandonMessage := by
  intro sp h; cases h

theorem towerReset : Statement .towerReset := by
  intro sp h; cases h

theorem bootLenWrite : Statement .bootLenWrite := by
  intro sp h; cases h

theorem bootVerifyDone : Statement .bootVerifyDone := by
  intro sp h; cases h

theorem attGo : Statement .attGo := by
  intro sp h; cases h

theorem attReportDone : Statement .attReportDone := by
  intro sp h; cases h

theorem hmbCtl : Statement .hmbCtl := by
  intro sp h; cases h

theorem hmbPend : Statement .hmbPend := by
  intro sp h; cases h

theorem hostBarAccess : Statement .hostBarAccess := by
  intro sp h; cases h

theorem hostWashChunkWrite : Statement .hostWashChunkWrite := by
  intro sp h; cases h

theorem msixSend : Statement .msixSend := by
  intro sp h; cases h

theorem monitorRecord : Statement .monitorRecord := by
  intro sp h; cases h

theorem pcSample : Statement .pcSample := by
  intro sp h; cases h

theorem registerWrite : Statement .registerWrite := by
  intro sp h; cases h

theorem walkCompletion : Statement .walkCompletion := by
  intro sp h; cases h

theorem linkTrainingComplete : Statement .linkTrainingComplete := by
  intro sp h; cases h

theorem mailboxBufferWrite : Statement .mailboxBufferWrite := by
  intro sp h; cases h

end Sys2Proof.Laws.Codec
end

