-- ==== Sys2Proof/Laws/Schedule.lean ====
section
/-! SUPPORT. The choice of the next step keeps what every step keeps: each turn it may choose is a proper one. -/

namespace Sys2Proof.Machine

theorem evTurn_proper {i : Instr} (x y z : Nat) (h : isEvent i = true) : (evTurn i x y z).proper = true := h

theorem State.runTurn_next {s u : State} {t : Turn} (h : s.runTurn t = .next u) : s.Keeps u := by
  have k := State.runTurn_keeps s t (.refl s)
  rw [h] at k; cases k; assumption

theorem State.tryTurn_keeps {s u : State} {t : Turn} (h : s.tryTurn t = some u) (ht : t.proper = true) : s.Keeps u := by
  unfold State.tryTurn at h
  split at h
  · split at h
    · cases h; exact ⟨id, fun _ => ht, rfl⟩
    · cases h
  · cases h

/-- The turns of a list are proper. -/
def Proper (ts : List Turn) : Prop := ∀ t ∈ ts, t.proper = true

theorem Proper.append {a b : List Turn} (ha : Proper a) (hb : Proper b) : Proper (a ++ b) := by
  intro t h; rcases List.mem_append.mp h with h | h
  · exact ha t h
  · exact hb t h

theorem Proper.map {α : Type} {f : α → Turn} (l : List α) (h : ∀ x, (f x).proper = true) : Proper (l.map f) := by
  intro t ht; obtain ⟨x, -, rfl⟩ := List.mem_map.mp ht; exact h x

theorem Proper.flatMap {α : Type} {f : α → List Turn} (l : List α) (h : ∀ x, Proper (f x)) : Proper (l.flatMap f) := by
  intro t ht; obtain ⟨x, -, hx⟩ := List.mem_flatMap.mp ht; exact h x t hx

theorem Proper.nil : Proper [] := by intro t h; cases h

theorem Proper.cons {t : Turn} {ts : List Turn} (h : t.proper = true) (hs : Proper ts) : Proper (t :: ts) := by
  intro u hu; rcases List.mem_cons.mp hu with rfl | hu
  · exact h
  · exact hs u hu

theorem State.grantTurns_proper (s : State) (e : Nat × Task) : Proper (s.grantTurns e) := by
  unfold State.grantTurns
  repeat' first | exact .nil | rfl | apply Proper.map | split | intro _

theorem State.codeWalks_proper (s : State) : Proper s.codeWalks := by
  unfold State.codeWalks
  repeat' first | exact .nil | rfl | apply Proper.map | split | intro _

theorem taskDue_proper (id : Nat) : Proper (taskDue id) := by
  unfold taskDue
  repeat' first
    | exact .nil | rfl | apply Proper.append | apply Proper.flatMap | apply Proper.cons | intro _

theorem State.atOnce_proper (s : State) : Proper s.atOnce := by
  unfold State.atOnce
  repeat' first
    | exact .nil | rfl | apply Proper.append | apply Proper.map | apply Proper.flatMap | apply Proper.cons | split | intro _

theorem State.dueTurns_proper (s : State) : Proper s.dueTurns := by
  unfold State.dueTurns State.serviceDue
  repeat' first
    | exact .nil | rfl | exact State.grantTurns_proper _ _ | exact State.codeWalks_proper _ | exact taskDue_proper _ | apply Proper.append | apply Proper.map
    | apply Proper.flatMap | apply Proper.cons | intro _

theorem State.mayTurns_proper (s : State) : Proper s.mayTurns := by
  unfold State.mayTurns taskMay coreMay State.copyMay State.rubMay State.recordMay State.fabricMay State.folioMay
    State.levelMay State.hostMay
  repeat' first
    | exact .nil | rfl | apply Proper.append | apply Proper.map | apply Proper.flatMap | apply Proper.cons | intro _

theorem State.tryTurns_keeps {s u : State} {ts : List Turn} (h : ts.findSome? s.tryTurn = some u) (ht : Proper ts) :
    s.Keeps u := by
  obtain ⟨t, hm, hu⟩ := List.exists_of_findSome?_eq_some h
  exact State.tryTurn_keeps hu (ht t hm)

theorem State.tryEngine_keeps {s u : State} {core : Nat} {st : Stream} (h : s.tryEngine core st = some u) : s.Keeps u := by
  have hw : ∀ (v : State) ag, s.Keeps v → s.Keeps { v with turn := .word ag } := fun v ag hv => ⟨hv.mem, fun _ => rfl, hv.tower⟩
  unfold State.tryEngine at h
  split at h
  · split at h
    · cases h
    · exact State.tryTurn_keeps h rfl
  · split at h
    · cases h; exact hw s _ (.refl s)
    · split at h
      · split at h
        · cases h
        · cases h; exact hw _ _ (State.countWaits_keeps s _ _ _ (.refl s))
      · cases h

theorem State.tryRub_keeps {s u : State} (h : s.tryRub = some u) : s.Keeps u := by
  unfold State.tryRub at h
  split at h
  · exact State.tryTurn_keeps h rfl
  · cases h

theorem State.tryEngines_keeps {s u : State} (h : s.tryEngines = some u) : s.Keeps u := by
  obtain ⟨c, -, hu⟩ := List.exists_of_findSome?_eq_some h
  obtain ⟨st, -, hv⟩ := List.exists_of_findSome?_eq_some hu
  exact State.tryEngine_keeps hv

theorem State.goOn_keeps (s : State) : s.Keeps s.goOn := by
  unfold State.goOn; split
  · rename_i h; exact State.tryEngines_keeps h
  · cases h : s.tryRub with
    | none => exact State.passTime_keeps s (.refl s)
    | some u => exact State.tryRub_keeps h

theorem State.pass_keeps (s : State) : s.Keeps s.pass := by
  unfold State.pass; split
  · rename_i h; exact State.tryTurns_keeps h s.dueTurns_proper
  · exact s.goOn_keeps

theorem State.default_keeps (s : State) : s.Keeps s.default := by
  unfold State.default; split
  · rename_i h; exact State.tryTurns_keeps h s.dueTurns_proper
  · split
    · rename_i h; exact State.tryTurns_keeps h s.mayTurns_proper
    · exact s.goOn_keeps

theorem State.take_keeps (s : State) (p : Pick) : s.Keeps (s.take p) := by
  cases p with
  | engine c st =>
    change s.Keeps ((s.tryEngine c st).getD s)
    cases h : s.tryEngine c st with
    | none => exact .refl s
    | some u => exact State.tryEngine_keeps h
  | rub =>
    change s.Keeps (s.tryRub.getD s)
    cases h : s.tryRub with
    | none => exact .refl s
    | some u => exact State.tryRub_keeps h
  | event i a =>
    change s.Keeps (if s.eventMay i a then { s with turn := .event i a } else s)
    split
    · rename_i h
      exact ⟨id, fun _ => by simp only [State.eventMay, Bool.and_eq_true] at h; exact h.1, rfl⟩
    · exact .refl s
  | host m =>
    change s.Keeps (if m.fits then { s with host := { s.host with inbox := s.host.inbox ++ [m] } } else s)
    split
    · exact (State.Keeps.refl s).upd rfl rfl rfl
    · exact .refl s
  | fabric m => exact State.receive_keeps s m (.refl s)
  | flit f => exact (State.Keeps.refl s).upd rfl rfl rfl
  | refuse p n => exact State.refuseFlit_keeps s p n (.refl s)
  | meters m => exact State.heatBanks_keeps _ ((State.Keeps.refl s).upd rfl rfl rfl)
  | flaw f l => exact (State.Keeps.refl s).upd rfl rfl rfl
  | lane x j => exact State.setLevel_keeps s (laneHome x) _ (.refl s)
  | lag v k => exact (State.Keeps.refl s).upd rfl rfl rfl
  | see v a m n => exact (State.Keeps.refl s).upd rfl rfl rfl
  | pass => exact State.pass_keeps s

/-- The choice of the next step keeps what every step keeps. -/
theorem State.schedule_keeps (s : State) : s.Keeps s.schedule := by
  unfold State.schedule
  split
  · rename_i h; exact State.tryTurns_keeps h s.atOnce_proper
  · split
    · exact State.default_keeps s
    · rename_i p ps _
      have h : s.Keeps ({ s with agenda := ps }.take p) :=
        State.Keeps.trans (t := { s with agenda := ps }) ((State.Keeps.refl s).upd rfl rfl rfl) (State.take_keeps _ p)
      dsimp only
      split
      · exact h.upd rfl rfl rfl
      · exact h

end Sys2Proof.Machine
end

