-- ==== Sys2Proof/Certificates/Slice0/Obligations.lean ====
section
/-! DEFINITION. The statements: what the instructions and the machine do, for every state and every operand. What a statement
needs names of its own for stands under Claims, before it. -/

open Sys2Proof Sys2Proof.Machine

namespace Sys2Proof.Claims

/-- The machine executes a word of the A stream, of a task or of the Rubricator, and no register it reads is still being
produced (R121). -/
structure Reads (s : State) (ns : List (BitVec 6)) : Prop where
  acts : s.acts .a = true
  ready : s.ready ns = true

/-- The A stream of a task executes, and no register the word reads is still being produced. -/
structure OnTask (s : State) (id : Nat) (t : Task) (ns : List (BitVec 6)) : Prop where
  cur : s.cur = .task id .a
  there : s.task? id = some t
  ready : s.ready ns = true

/-- The word completes: it writes `v` to the A register `d` and goes on to the next word. -/
def Puts (i : Instr) (s : State) (d : BitVec 6) (v : Word) : Prop := exec i s = .next (s.setReg d v).advance

/-- The word takes its trap, with the address `va` for its record. -/
def Traps (i : Instr) (s : State) (c : Cause) (va : Nat) : Prop := exec i s = .next (s.takeTrap c va)

/-- The word waits: it is issued again later. -/
def Waits (i : Instr) (s : State) : Prop := exec i s = .next s.held

end Sys2Proof.Claims

/-- R122, R123 (Tables 5.2 and 5.3): the result of every integer word of two registers, for all operands; the word completes. -/
def Obligations.TwoRegisterResults : Prop :=
  ∀ (w : AR) (s : State), Claims.Reads s [w.a, w.b] →
    let a := s.reg w.a
    let b := s.reg w.b
    Claims.Puts (.add w) s w.d (a + b) ∧
    Claims.Puts (.sub w) s w.d (a - b) ∧
    Claims.Puts (.mul w) s w.d (a * b) ∧
    Claims.Puts (.mulh w) s w.d (BitVec.ofInt 64 (a.toInt * b.toInt / 2 ^ 64)) ∧
    Claims.Puts (.mulhn w) s w.d (BitVec.ofNat 64 (a.toNat * b.toNat / 2 ^ 64)) ∧
    Claims.Puts (.and w) s w.d (a &&& b) ∧
    Claims.Puts (.or w) s w.d (a ||| b) ∧
    Claims.Puts (.xor w) s w.d (a ^^^ b) ∧
    Claims.Puts (.andn w) s w.d (a &&& ~~~b) ∧
    Claims.Puts (.shl w) s w.d (BitVec.ofNat 64 (a.toNat * 2 ^ b.toNat)) ∧
    Claims.Puts (.shr w) s w.d (BitVec.ofNat 64 (a.toNat / 2 ^ b.toNat)) ∧
    Claims.Puts (.sra w) s w.d (BitVec.ofInt 64 (a.toInt / 2 ^ min b.toNat 63)) ∧
    Claims.Puts (.rol w) s w.d (a.rotateLeft (b.toNat % 64)) ∧
    Claims.Puts (.ror w) s w.d (a.rotateRight (b.toNat % 64)) ∧
    Claims.Puts (.min w) s w.d (if a.toInt < b.toInt then a else b) ∧
    Claims.Puts (.max w) s w.d (if a.toInt < b.toInt then b else a) ∧
    Claims.Puts (.minn w) s w.d (if a.toNat < b.toNat then a else b) ∧
    Claims.Puts (.maxn w) s w.d (if a.toNat < b.toNat then b else a) ∧
    Claims.Puts (.slt w) s w.d (if a.toInt < b.toInt then 1 else 0) ∧
    Claims.Puts (.sltn w) s w.d (if a.toNat < b.toNat then 1 else 0) ∧
    Claims.Puts (.seq w) s w.d (if a = b then 1 else 0)

/-- R122, R125, R126: the words of one register, of an immediate, of three registers, and ADDS. -/
def Obligations.OneRegisterResults : Prop :=
  ∀ (r : AR) (w : AI) (s : State),
    (Claims.Reads s [r.a] →
      Claims.Puts (.clz r) s r.d (BitVec.ofNat 64 (clz64 (s.reg r.a))) ∧
      Claims.Puts (.ctz r) s r.d (BitVec.ofNat 64 (ctz64 (s.reg r.a))) ∧
      Claims.Puts (.popc r) s r.d (BitVec.ofNat 64 (popc64 (s.reg r.a)))) ∧
    (Claims.Reads s [r.a, r.b, r.c] →
      Claims.Puts (.sel r) s r.d (if s.reg r.c = 0 then s.reg r.b else s.reg r.a)) ∧
    (Claims.Reads s [] → Claims.Puts (.li w) s w.d w.imm) ∧
    (Claims.Reads s [w.a] →
      Claims.Puts (.addi w) s w.d (s.reg w.a + w.imm) ∧ Claims.Puts (.bfx w) s w.d (bfx w.imm (s.reg w.a))) ∧
    (Claims.Reads s [w.a, w.d] → Claims.Puts (.bfi w) s w.d (bfi w.imm (s.reg w.d) (s.reg w.a))) ∧
    (Claims.Reads s [r.a, r.b] →
      let v := (s.reg r.a).toInt + (s.reg r.b).toInt
      exec (.adds r) s = .next
        (((s.setReg r.d (BitVec.ofInt 64 (max (-2 ^ 63) (min (2 ^ 63 - 1) v)))).setFlags
          (if v < -2 ^ 63 ∨ 2 ^ 63 - 1 < v then 32 else 0)).advance))

namespace Sys2Proof.Claims

/-- Table 5.3: what the counting words count, by the bits of the operand. -/
def CountsByBits : Prop :=
  ∀ a : Word,
    (clz64 a ≤ 64 ∧ (∀ i < clz64 a, a.getLsbD (63 - i) = false) ∧ (clz64 a < 64 → a.getLsbD (63 - clz64 a) = true)) ∧
    (ctz64 a ≤ 64 ∧ (∀ i < ctz64 a, a.getLsbD i = false) ∧ (ctz64 a < 64 → a.getLsbD (ctz64 a) = true)) ∧
    popc64 a = ((List.range 64).filter (fun i => a.getLsbD i)).length

/-- R126: BFX answers bit `i` of its field in bit `i`, extended by zero or by the field's highest bit; BFI replaces the
field and no other bit. -/
def BitFields : Prop :=
  ∀ (imm old a : Word) (i : Nat), imm.toNat % 128 + imm.toNat / 256 % 64 ≤ 64 → 1 ≤ imm.toNat % 128 → i < 64 →
    let width := imm.toNat % 128
    let pos := imm.toNat / 256 % 64
    ((bfx imm a).getLsbD i =
      if i < width then a.getLsbD (pos + i) else imm.getLsbD 16 && a.getLsbD (pos + width - 1)) ∧
    ((bfi imm old a).getLsbD i = if pos ≤ i ∧ i < pos + width then a.getLsbD (i - pos) else old.getLsbD i)

end Sys2Proof.Claims

/-- Table 5.3 and R126: what the counting words count, and what BFX and BFI answer, bit by bit. -/
def Obligations.CountsAndBitFields : Prop := Claims.CountsByBits ∧ Claims.BitFields

/-- R124: the divisions. A zero divisor traps with DIVIDE_ZERO, whatever `d` is; else the quotient is rounded towards zero and
the remainder takes the sign of the dividend. -/
def Obligations.Divisions : Prop :=
  ∀ (w : AR) (s : State), Claims.Reads s [w.a, w.b] →
    let a := s.reg w.a
    let b := s.reg w.b
    (b = 0 →
      Claims.Traps (.div w) s .divideZero 0 ∧ Claims.Traps (.divn w) s .divideZero 0 ∧
      Claims.Traps (.rem w) s .divideZero 0 ∧ Claims.Traps (.remn w) s .divideZero 0) ∧
    (b ≠ 0 →
      let q : Int := Int.sign (a.toInt * b.toInt) * ((a.toInt.natAbs / b.toInt.natAbs : Nat) : Int)
      Claims.Puts (.div w) s w.d (BitVec.ofInt 64 q) ∧
      Claims.Puts (.rem w) s w.d (BitVec.ofInt 64 (a.toInt - q * b.toInt)) ∧
      Claims.Puts (.divn w) s w.d (BitVec.ofNat 64 (a.toNat / b.toNat)) ∧
      Claims.Puts (.remn w) s w.d (BitVec.ofNat 64 (a.toNat - a.toNat / b.toNat * b.toNat)))

namespace Sys2Proof.Claims

/-- R127 to R129, R80: the jumps and branches. A branch not taken goes on; a taken one goes to its target, and a target inside
the span that begins no word traps with SECTION_FORMAT at the branch, the link written. -/
def Branches : Prop :=
  ∀ (w : AB) (r : AR) (s : State),
    let p := s.pc + w.off.signExtend 50
    let link : Word := (s.pc + 3).setWidth 64
    (Claims.Reads s [] →
      (s.gotoOk p = true → exec (.j w) s = .next (s.goto p)) ∧
      (s.gotoOk p = false → Claims.Traps (.j w) s .sectionFormat 0) ∧
      ((s.setReg w.a link).gotoOk p = true → exec (.jal w) s = .next ((s.setReg w.a link).goto p)) ∧
      ((s.setReg w.a link).gotoOk p = false → exec (.jal w) s = .next ((s.setReg w.a link).takeTrap .sectionFormat 0))) ∧
    (Claims.Reads s [w.a, w.b] →
      (condHolds w.cc (s.reg w.a) (s.reg w.b) = false → exec (.b w) s = .next s.advance) ∧
      (condHolds w.cc (s.reg w.a) (s.reg w.b) = true → s.gotoOk p = true → exec (.b w) s = .next (s.goto p)) ∧
      (condHolds w.cc (s.reg w.a) (s.reg w.b) = true → s.gotoOk p = false → Claims.Traps (.b w) s .sectionFormat 0)) ∧
    (Claims.Reads s [r.a] →
      let u := s.setReg r.d link
      let to_ := (s.reg r.a).setWidth 50
      (2 ^ 50 ≤ (s.reg r.a).toNat → Claims.Traps (.jr r) s .misaligned 0) ∧
      ((s.reg r.a).toNat < 2 ^ 50 → u.gotoOk to_ = true → exec (.jr r) s = .next (u.goto to_)) ∧
      ((s.reg r.a).toNat < 2 ^ 50 → u.gotoOk to_ = false → exec (.jr r) s = .next (u.takeTrap .sectionFormat 0)))

/-- Table 3.5: the conditions of B and BQP. -/
def Conditions : Prop :=
  ∀ a b : Word,
    (condHolds 0 a b = true ↔ a = b) ∧ (condHolds 1 a b = true ↔ a ≠ b) ∧
    (condHolds 2 a b = true ↔ a.toInt < b.toInt) ∧ (condHolds 3 a b = true ↔ b.toInt ≤ a.toInt) ∧
    (condHolds 4 a b = true ↔ a.toNat < b.toNat) ∧ (condHolds 5 a b = true ↔ b.toNat ≤ a.toNat)

end Sys2Proof.Claims

/-- R127 to R129, R80 and Table 3.5: the jumps and branches, and the conditions of B and BQP. -/
def Obligations.BranchesAndConditions : Prop := Claims.Branches ∧ Claims.Conditions

/-- R131, R132, R133, R182, R178, R186: BQP pushes its outcome, waits on a full queue, and traps when X can never pop; FIN ends the
stream; NOP, YIELD, TSC and HIRQ. That BQP traps in a task without an X stream is the model's reading of R131 (log entry 33). -/
def Obligations.ControlWords : Prop :=
  ∀ (w : AB) (r : AR) (q : AS) (s : State) (id : Nat) (t : Task),
    (Claims.OnTask s id t [w.a, w.b] → t.handler = none →
      (t.sx.present = true → t.bq.length < 64 →
        exec (.bqp w) s =
          .next (s.setTask id { t with bq := t.bq ++ [condHolds w.cc (s.reg w.a) (s.reg w.b)] }).advance) ∧
      (t.sx.present = true → 64 ≤ t.bq.length → t.sx.phase ≠ .ended → Claims.Waits (.bqp w) s) ∧
      (t.sx.present = true → 64 ≤ t.bq.length → t.sx.phase = .ended → Claims.Traps (.bqp w) s .queueProtocol 0) ∧
      (t.sx.present = false → Claims.Traps (.bqp w) s .queueProtocol 0)) ∧
    (Claims.OnTask s id t [] →
      (t.handler = none → exec (.fin r) s = .next (s.setTask id { t with sa := t.sa.finish })) ∧
      (t.handler = none → t.yields = false → exec (.yield q) s = .next s.advance) ∧
      (t.handler = none → t.yields = true →
        exec (.yield q) s = .next (s.advance.onTask id (fun t => { t with sa := { t.sa with stopped := true } }))) ∧
      (t.handler ≠ none → Claims.Traps (.fin r) s .access 0 ∧ Claims.Traps (.yield q) s .access 0)) ∧
    (Claims.Reads s [] →
      exec (.nop r) s = .next s.advance ∧
      Claims.Puts (.tsc q) s q.d (BitVec.ofNat 64 s.tsc) ∧
      exec (.hirq q) s = .next ((s.releaseHost s.strand).raiseVector q.obj.toNat).advance)

namespace Sys2Proof.Claims

/-- R119, R131, R132: a word that names task state traps with ILLEGAL_OP on the Rubricator. -/
def RubricatorLacks : Prop :=
  ∀ v : BitVec 96, rubLacks (opcode v) = true → decode .rub v = .error .illegalOp

/-- What a load gives for the number its bytes make, extended as the word asks. -/
def extended (w : AM) (x : Nat) : Word :=
  if w.sx = 1 then BitVec.ofInt 64 (signed (8 * 2 ^ w.size.toNat) x) else BitVec.ofNat 64 x

/-- What a load gives for stored bytes. -/
def loaded (w : AM) (bs : List Byte) : Word := extended w (leNat bs)

/-- A load word `i` of fields `w`: LD reads in the state as it is; LDS first counts the strong writes of its party as performed. -/
def LoadForm (w : AM) (s : State) (i : Instr) (u : State) (strong : Option Nat) : Prop :=
  i = .ld w ∧ u = s ∧ strong = none ∨ i = .lds w ∧ s.near = true ∧ u = s.performs ∧ strong = some w.scope.toNat

/-- The same of a store word: `u` the state it stores in, `f` what is done with the state after it. -/
def StoreForm (w : AM) (s : State) (i : Instr) (u : State) (strong : Option Nat) (f : State → State) : Prop :=
  i = .st w ∧ u = s ∧ strong = none ∧ f = id ∨
  i = .sts w ∧ s.near = true ∧ u = s.performs ∧ strong = some w.scope.toNat ∧
    f = fun v => s.strongWrite v (s.standing s.strand w.scope.toNat)

/-- R170, R283: no load or store reaches the semaphore file or the host window: it traps with ACCESS. -/
def SpecialWindows : Prop :=
  ∀ (w : AM) (s : State) (pa tw o : Nat),
    let n := 2 ^ w.size.toNat
    let ea := (s.reg w.base + s.reg w.index <<< w.shift.toNat + w.off.signExtend 64).toNat
    ea % n = 0 → s.place pa = .semFile tw o ∨ s.place pa = .host o →
    (Reads s [w.base, w.index] → ∀ i u strong, LoadForm w s i u strong → u.range u.aView .read ea n = .ok [(pa, n)] →
      Traps i s .access ea) ∧
    (Reads s [w.base, w.index, w.d] → ∀ i u strong f, StoreForm w s i u strong f → u.range u.aView .write ea n = .ok [(pa, n)] →
      Traps i s .access ea)

/-- The bytes from `k` on, `n` of them, hold address `a`. -/
def within (a k n : Nat) : Prop := k ≤ a ∧ a < k + n

end Sys2Proof.Claims

/-- R88, R136, R138, R139, R315: LD and LDS. An aligned, permitted, hazard-free load of memory is put in flight with the extended
value of the bytes that its task sees; a misaligned one traps with MISALIGNED; a lasting error leaves the load in flight, to be
delivered later (R370). A load of the Rubricator from the control block reads the register there, once every earlier store to the
block has been taken (R303). LDS first sees the strong writes of its bytes that it comes after, and waits for a strong load that
another tower has still to answer. What of R315 is read as performed is log entry 159's. That the record of a misaligned access names
its effective address is the model's reading too (37). -/
def Obligations.LoadWords : Prop :=
  ∀ (w : AM) (s : State) (ps : List (Nat × Nat)) (tw x o : Nat) (bs : List Byte), Claims.Reads s [w.base, w.index] →
    let n := 2 ^ w.size.toNat
    let ea := (s.reg w.base + s.reg w.index <<< w.shift.toNat + w.off.signExtend 64).toNat
    (s.near = false → Claims.Waits (.lds w) s) ∧
    ∀ i u strong, Claims.LoadForm w s i u strong →
      (ea % n ≠ 0 → Claims.Traps i s .misaligned ea) ∧
      (ea % n = 0 → u.check u.aView .read ea n = .ok ps → u.hazard ea n = .ok () →
        u.place (ps.headD (0, 0)).1 = .store tw x o →
        let k := tw * 2 ^ 40 + o
        let v := u.strongLoad strong k n
        v.seenBytes u.aView.who 8 k n = .ok bs →
        exec i s = .next (v.launchReg w.d (Claims.loaded w bs)).timed.advance) ∧
      (ea % n = 0 → u.check u.aView .read ea n = .error (.trap .uncorrectable ea) → u.hazard ea n = .ok () →
        exec i s = .next (u.launchBad i w.d ea).timed.advance) ∧
      (ea % n = 0 → u.check u.aView .read ea n = .ok ps → u.hazard ea n = .error (.trap .hazard 0) →
        Claims.Traps i s .hazard 0) ∧
      (ea % n = 0 → u.check u.aView .read ea n = .ok ps → u.hazard ea n = .ok () → u.place (ps.headD (0, 0)).1 = .ctl tw o →
        (s.ctl.incoming = [] → exec i s = .next (u.launchReg w.d
          (Claims.extended w (bits (u.ctlRead (ctlOffset o / 8 * 8)) (8 * (o % 8)) (8 * n)))).timed.advance) ∧
        (s.ctl.incoming ≠ [] → Claims.Waits i s))

/-- R88, R136, R139, R315: ST and STS. An aligned, permitted store to memory writes the low bytes of the register; a misaligned one
traps with MISALIGNED. What STS writes is strong at its scope. A store of the Rubricator to the control block of its tower sets out
for it and takes effect later (R303); a store or a load of the semaphore file or the host window traps with ACCESS (R283). What of
R315 is read as performed, and that the record of a misaligned access names its effective address, are the model's readings (log
entries 159 and 37). -/
def Obligations.StoreWords : Prop :=
  (∀ (w : AM) (s : State) (ps : List (Nat × Nat)) (tw x o : Nat), Claims.Reads s [w.base, w.index, w.d] →
    let n := 2 ^ w.size.toNat
    let ea := (s.reg w.base + s.reg w.index <<< w.shift.toNat + w.off.signExtend 64).toNat
    let v := (s.reg w.d).toNat % 2 ^ (8 * n)
    (s.near = false → Claims.Waits (.sts w) s) ∧
    ∀ i u strong f, Claims.StoreForm w s i u strong f →
      (ea % n ≠ 0 → Claims.Traps i s .misaligned ea) ∧
      (ea % n = 0 → u.check u.aView .write ea n = .ok ps → u.place (ps.headD (0, 0)).1 = .store tw x o →
        exec i s = .next (f (u.writePieces ps (leBytes n v)).advance)) ∧
      (ea % n = 0 → u.check u.aView .write ea n = .ok ps → u.place (ps.headD (0, 0)).1 = .ctl tw o →
        (s.ctl.incoming = [] → exec i s = .next (f (u.ctlSend (ctlOffset o) n v).advance)) ∧
        (s.ctl.incoming ≠ [] → Claims.Waits i s))) ∧
  Claims.SpecialWindows

/-- R139, R305: where a store of memory goes, and what it leaves. The `n` bytes at the stored address read as the value's bytes;
every other byte of a chunk that is raw, or that the store does not touch, reads as before and keeps its chunk's mode; registers
of every task and of the Rubricator, semaphores and barriers are unchanged. -/
def Obligations.StoreFrame : Prop :=
  ∀ (w : AM) (i : Instr) (s t : State) (ps : List (Nat × Nat)) (tw x o : Nat), i = .st w ∨ i = .sts w ∧ s.near = true →
    Claims.Reads s [w.base, w.index, w.d] →
    let n := 2 ^ w.size.toNat
    let ea := (s.reg w.base + s.reg w.index <<< w.shift.toNat + w.off.signExtend 64).toNat
    ea % n = 0 → s.check s.aView .write ea n = .ok ps → s.place (ps.headD (0, 0)).1 = .store tw x o →
    s.ctl.mirrors = [] → exec i s = .next t →
    let k := tw * 2 ^ 40 + o
    (∀ j < n, t.byte (k + j) = (leBytes n ((s.reg w.d).toNat % 2 ^ (8 * n))).getD j 0) ∧
    (∀ a, ¬Claims.within a k n → (s.washed.find? (a / 512) = none ∨ a / 512 ∉ chunksOf k n) →
      t.byte a = s.byte a ∧ t.washed.find? (a / 512) = s.washed.find? (a / 512)) ∧
    (∀ r, t.reg r = s.reg r) ∧ t.sems = s.sems ∧ t.bars = s.bars ∧ t.copies = s.copies ∧
    (∀ id, (t.task? id).map (fun u => (u.regs, u.slices, u.preds, u.scales, u.csr)) =
      (s.task? id).map (fun u => (u.regs, u.slices, u.preds, u.scales, u.csr)))

namespace Sys2Proof.Claims

/-- R138, R173, R324, R417, R418: LD and LDS of another tower send their request and go on, the load in flight until the response; ST
and STS wait for their response, the request sent once, and the answer completes them. That a store holds its stream until the
answer, and that an access waits while an unanswered request of the same stream touches the same bytes, is the model's choice (log
entry 50). -/
def RemoteAccesses : Prop :=
  ∀ (w : AM) (s : State) (ps : List (Nat × Nat)) (node o tag : Nat) (r : Remote) (v : Word),
    let n := 2 ^ w.size.toNat
    let ea := (s.reg w.base + s.reg w.index <<< w.shift.toNat + w.off.signExtend 64).toNat
    let x := BitVec.ofNat 64 ((s.reg w.d).toNat % 2 ^ (8 * n))
    ea % n = 0 → s.place (ps.headD (0, 0)).1 = .remote node o →
    (Claims.Reads s [w.base, w.index] → ∀ i u strong, LoadForm w s i u strong →
      u.check u.aView .read ea n = .ok ps → u.hazard ea n = .ok () →
      (s.opClear node s.ownIdent (.load o n strong) = true →
        exec i s = .next (u.launchRemote w i node o strong).timed.advance) ∧
      (s.opClear node s.ownIdent (.load o n strong) = false → Claims.Waits i s)) ∧
    (Claims.Reads s [w.base, w.index, w.d] → ∀ i u strong f, StoreForm w s i u strong f →
      u.check u.aView .write ea n = .ok ps →
      (s.asked = none → s.opClear node s.ownIdent (.store o n x strong) = true →
        exec i s = .next (u.sendRequest node (.store o n x strong) Know.none (.word s.cur s.handling) s.ownIdent s.pc).held) ∧
      (s.asked = none → s.opClear node s.ownIdent (.store o n x strong) = false → Claims.Waits i s) ∧
      (s.asked = some (tag, r) → r.answer = none → Claims.Waits i s) ∧
      (s.asked = some (tag, r) → r.answer = some (.ok v) →
        exec i s = .next (f { u with remotes := u.remotes.del tag }.advance)))

/-- R138, R417: what the load of another tower leaves: one request with the next tag, and in the task one load in flight that waits
for that tag and carries no value of its own. -/
def RemoteLoadInFlight : Prop :=
  ∀ (w : AM) (i : Instr) (s : State) (id node o : Nat) (st : Stream) (t : Task) (strong : Option Nat),
    s.cur = .task id st → s.task? id = some t →
    let u := s.launchRemote w i node o strong
    (u.remotes.find? s.nextTag).map (fun r => (r.node, r.op, r.asker, r.answer)) =
      some (node, .load o (2 ^ w.size.toNat) strong, .load s.cur, none) ∧
    ∃ t' l, u.task? id = some t' ∧ t'.loads.getLast? = some l ∧ l.tag = some s.nextTag ∧ l.dst = .reg w.d.toNat ∧
      l.returned = false ∧ l.bad = false ∧ t'.regs = t.regs ∧ t'.sa = t.sa

/-- R145: PREF completes for every operand whose registers are ready: it starts a translation where the page is missing and no walk
for it is under way, and it neither waits nor traps. -/
def PrefetchCompletes : Prop :=
  ∀ (w : AM) (s : State), Claims.Reads s [w.base, w.index] →
    let ea := (s.reg w.base + s.reg w.index <<< w.shift.toNat + w.off.signExtend 64).toNat
    (s.cur = .rub → exec (.pref w) s = .next s.advance) ∧
    (∀ id t, s.cur = .task id .a → s.task? id = some t →
      exec (.pref w) s = .next
        (if ea < 2 ^ 52 ∧ s.tlbFind t.core t.asid ea = none ∧ s.walks.any (fun k => k.isFor t.asid ea) = false then
          (s.newWalk t.core t.asid ea true).advance
        else s.advance))

/-- R146, R119, R309: FENCE completes once every load has returned, every copy of the issuer has landed every chunk and every store
of the Rubricator to the control block has been taken; until then it waits. -/
def FenceCompletes : Prop :=
  ∀ (r : AR) (s : State), Claims.Reads s [] →
    let landed (k : Issuer) := ∀ e ∈ s.copies, e.2.issuer = k → e.2.chunks ≤ e.2.landed.length
    (∀ id, s.cur = .task id .a → (∀ l ∈ s.loads, l.returned = true) → landed (.task id) →
      exec (.fence r) s = .next s.fenced.advance) ∧
    (s.cur = .rub → (∀ l ∈ s.loads, l.returned = true) → s.ctl.incoming = [] → landed .rub →
      exec (.fence r) s = .next s.fenced.advance) ∧
    ((∃ l ∈ s.loads, l.returned = false) → Claims.Waits (.fence r) s) ∧
    (s.cur = .rub → s.ctl.incoming ≠ [] → Claims.Waits (.fence r) s) ∧
    (∀ id, s.cur = .task id .a → ¬landed (.task id) → Claims.Waits (.fence r) s) ∧
    (s.cur = .rub → ¬landed .rub → Claims.Waits (.fence r) s)

end Sys2Proof.Claims

/-- R138, R173, R324, R417, R145, R146: loads and stores of another tower; PREF and FENCE complete. That a store to another tower
holds its stream until the response, and that an access waits while an unanswered request of the same stream touches the same bytes,
is the model's choice (log entry 50). -/
def Obligations.RemoteAndOrderedAccesses : Prop :=
  Claims.RemoteAccesses ∧ Claims.RemoteLoadInFlight ∧ Claims.PrefetchCompletes ∧ Claims.FenceCompletes

/-- R140 to R144: the vector and indexed accesses. A push takes a place in its queue and is in flight; STX pops the head of its queue
and stores its low bytes; a full queue and an empty one wait. That STX traps on an empty queue when no VPUSH to that queue is in
flight, whatever is in flight to the others, is the model's reading of R142 (log entry 41). That address and hazard are checked
before room in the queue is so too (38). -/
def Obligations.VectorAccesses : Prop :=
  ∀ (w : AC) (s : State) (id : Nat) (t : Task),
    (Claims.OnTask s id t [w.a] →
      let va := (s.reg w.a).toNat
      (∀ bs, let width := 4 * 2 ^ w.fn.toNat
        let q := w.opt.toNat % 8
        t.handler = none → va % max 1 (width / 8) = 0 → s.viewRead (s.aEngine.grained width) va (64 * width) = .ok bs →
        s.hazard va (64 * width) = .ok () → t.sx.present = true →
        ((t.xq.get [] q).length < 8 →
          exec (.ldx w) s = .next (s.pushXq id t q width (elemsOf width 512 bs) (.ldx w) false va).advance) ∧
        (8 ≤ (t.xq.get [] q).length → t.sx.phase ≠ .ended → Claims.Waits (.ldx w) s)) ∧
      (∀ width xs, s.gathRead w = .ok (width, some xs) → t.sx.present = true → (t.xq.get [] (w.opt.toNat % 8)).length < 8 →
        exec (.gath w) s = .next (s.pushXq id t (w.opt.toNat % 8) width xs (.gath w) false va).advance) ∧
      (∀ ps v vs, let n := 2 ^ w.fn.toNat
        let q := w.opt.toNat % 4
        va % n = 0 → s.check s.aEngine .write va n = .ok ps →
        (t.aq.get [] q = v :: vs →
          exec (.stx w) s = .next ((s.setTask id (t.popAq q (s.cyc t.core))).writePieces ps
            (leBytes n (v.toNat % 2 ^ (8 * n)))).advance) ∧
        (t.aq.get [] q = [] → t.aqOver q = false → Claims.Waits (.stx w) s) ∧
        (t.aq.get [] q = [] → t.aqOver q = true → Claims.Traps (.stx w) s .queueProtocol 0))) ∧
    (Claims.OnTask s id t [w.a, w.b] →
      ∀ ix gw bs u, let g := glyphOf gw
        let n := typeBits g.ty
        let vb := (s.reg w.b).toNat
        let ws := scatters g ix (elemsOf n 512 bs)
        s.indices (s.reg w.a).toNat = .ok ix → s.useGlyph w.gd.toNat = .ok gw → g.mx = 0 → g.memfmt = 0 →
        vb % max 1 (n / 8) = 0 → s.viewRead (s.aEngine.grained n) vb (64 * n) = .ok bs →
        s.elemsReady s.aEngine g 0 (ws.map (fun p => p.1)) = .ok () → s.writeElems s.aEngine g 0 ws = .ok u →
        exec (.scat w) s = .next u.advance)

/-- R149: GDEF copies 64 bytes into a slot of the glyph table, GSET replaces one field of a slot, GGET answers one, strides and the
pad sign-extended. -/
def Obligations.GlyphWords : Prop :=
  ∀ (w : AC) (s u : State) (id : Nat) (t : Task) (bs : List Byte),
    (Claims.OnTask s id t [w.a] →
      let a := (s.reg w.a).toNat
      let f := glyphField w.fn.toNat
      let slot := t.glyphs + 64 * w.gd.toNat
      (a % 64 ≠ 0 → Claims.Traps (.gdef w) s .misaligned a) ∧
      (a % 64 = 0 → s.viewRead s.aEngine a 64 = .ok bs → bs.length = 64 → s.viewWrite s.aEngine slot bs = .ok u →
        exec (.gdef w) s = .next u.advance) ∧
      (s.viewRead s.aEngine (slot + 8 * f.1) 8 = .ok bs →
        s.viewWrite s.aEngine (slot + 8 * f.1) (leBytes 8 (setBits (leNat bs) f.2.1 f.2.2 a)) = .ok u →
        exec (.gset w) s = .next u.advance)) ∧
    (Claims.OnTask s id t [] →
      let f := glyphField w.fn.toNat
      s.viewRead s.aEngine (t.glyphs + 64 * w.gs.toNat + 8 * f.1) 8 = .ok bs →
      let x := leNat bs / 2 ^ f.2.1 % 2 ^ f.2.2
      exec (.gget w) s = .next
        (s.launchReg w.d
          (if 0x0C ≤ w.fn.toNat ∧ w.fn.toNat ≤ 0x10 then BitVec.ofInt 64 (signed f.2.2 x) else BitVec.ofNat 64 x)).advance)

/-- R161, R162, R403: the Folio instructions. FALLOC's block number goes to `d`, its 64 KiB being free values; a location with no
free block traps with FOLIO_EXHAUSTED; a bad descriptor with RESERVED_FIELD. That a new block's bytes are a free value of the number
of the allocation is the model's choice (log entry 18). -/
def Obligations.FolioWords : Prop :=
  ∀ (w : AC) (s : State) (id : Nat) (t : Task), Claims.OnTask s id t [w.a] →
    let v := (s.reg w.a).toNat
    let fields := v / 16 % 8 ≤ 4 ∧ v % 16 ≤ 4 ∧ v % 16 ≠ 2 ∧ v / 128 % 2 = 0 ∧ v / 65536 % 2 ^ 48 = 0
    let named := v < 2 ^ 20 ∧ s.folio.base ≠ none
    let inUse := named ∧ s.headerCheck .write v = .ok () ∧ s.blockFree v = false
    let headReady := ∀ h, s.freeHead (v / 16 % 8) = some h → s.headerCheck .write h = .ok ()
    (¬fields → Claims.Traps (.falloc w) s .reservedField 0) ∧
    (fields → s.folio.base = none → Claims.Traps (.falloc w) s .access 0) ∧
    (fields → s.folio.base ≠ none → headReady → s.allocBlock (v / 16 % 8) (v % 16) (v / 256 % 256) = none →
      Claims.Traps (.falloc w) s .folioExhausted 0) ∧
    (∀ b u, fields → s.folio.base ≠ none → headReady →
      s.allocBlock (v / 16 % 8) (v % 16) (v / 256 % 256) = some (b, u) →
      let x := if u.storageOk (u.blockData b) then
          u.writeBytes (u.place (u.blockData b)).key ((List.range 65536).map (Config.freshBlockByte u.folio.allocs))
        else u
      exec (.falloc w) s = .next
        ({ x with folio := { x.folio with allocs := x.folio.allocs + 1 } }.setReg w.d (BitVec.ofNat 64 b)).advance) ∧
    (¬named ∨ s.headerCheck .write v = .ok () ∧ s.blockFree v = true →
      Claims.Traps (.faddref w) s .access 0 ∧ Claims.Traps (.fdrop w) s .access 0 ∧ Claims.Traps (.pseal w) s .access 0) ∧
    (inUse →
      (s.blockRefs v = 2 ^ 24 - 1 → Claims.Traps (.faddref w) s .access 0) ∧
      (s.blockRefs v ≠ 2 ^ 24 - 1 →
        exec (.faddref w) s = .next (s.setHeaderBits v 0 0 24 (s.blockRefs v + 1)).advance) ∧
      exec (.fdrop w) s = .next (s.dropRef v).advance ∧
      (s.blockState v = 0 → exec (.pseal w) s = .next (s.setBlockState v 1).advance) ∧
      (s.blockState v ≠ 0 → exec (.pseal w) s = .next s.advance))

/-- R151, R152, R154: a copy passes its checks, finds room for one more copy of its core, and is handed to an engine; with none it
waits. CPY and CPYX copy a box, CPYB fills one with the pad, CPYV moves vectors between a glyph and the register window. -/
def Obligations.CopyWords : Prop :=
  ∀ (w : AC) (s : State) (id : Nat) (t : Task) (dst src : List Word) (es : List Nat) (h : Word),
    let gd := glyphOf dst
    let wash := decide (w.wash = 1)
    let box (k : CopyKind) := s.newCopy k dst src (s.reg w.d) (s.reg w.a) es 0 0 h wash (w.opt.getLsbD 0)
      (es.foldl (· * ·) 1) (typeBits gd.ty)
    (Claims.Reads s ([w.d, w.a, w.ext] ++ handleReg w) → s.glyphWords w.gd.toNat = .ok dst → s.glyphWords w.gs.toNat = .ok src →
      boxChecks gd (glyphOf src) (s.reg w.ext) (s.reg w.d) (s.reg w.a) (s.copyBarrier w false) wash false = .ok (es, h) →
      (s.copyRoom = true → exec (.cpy w) s = .next (s.issueCopy (box .box)).advance) ∧
      (s.copyRoom = false → Claims.Waits (.cpy w) s)) ∧
    (Claims.OnTask s id t [w.d, w.a, w.ext, w.b] → s.glyphWords w.gd.toNat = .ok dst → s.glyphWords w.gs.toNat = .ok src →
      boxChecks gd (glyphOf src) (s.reg w.ext) (s.reg w.d) (s.reg w.a) (s.copyBarrier w true) wash true = .ok (es, h) →
      s.copyRoom = true → exec (.cpyx w) s = .next (s.issueCopy (box .remote)).advance) ∧
    (Claims.OnTask s id t ([w.d, w.ext] ++ handleReg w) → s.useGlyph w.gd.toNat = .ok dst →
      boxExtents (s.reg w.ext).toNat [gd] = some es → (s.reg w.ext).toNat / 2 ^ 60 = 0 → s.copyBarrier w false = .ok h →
      gd.memfmt = 0 → s.copyRoom = true →
      exec (.cpyb w) s = .next
        (s.issueCopy (s.newCopy .fill dst [] (s.reg w.d) 0 es 0 0 h false false (es.foldl (· * ·) 1) (typeBits gd.ty))).advance) ∧
    (Claims.OnTask s id t ([w.d, w.a, w.ext] ++ handleReg w) →
      let v := (s.reg w.d).toNat
      let code := v / 65536 % 16
      let width := if code = 8 then 16 else code + 1
      let n := (s.reg w.ext).toNat
      v / 2 ^ 13 % 8 = 0 → v / 2 ^ 20 % 2 ^ 44 = 0 → code ≤ 8 → 1 ≤ n → n ≤ 65536 → v % 2 ^ 13 + width * n ≤ t.winSize →
      typeBits gd.ty = 4 * width → 512 * n ≤ gd.count → s.copyBarrier w false = .ok h → s.copyRoom = true →
      (s.useGlyph w.gs.toNat = .ok dst → exec (.cpyvIn w) s = .next
        (s.issueCopy (s.newCopy .vecIn [] dst 0 (s.reg w.a) [n] (v % 2 ^ 13) width h false false (512 * n) (4 * width))).advance) ∧
      (s.useGlyph w.gd.toNat = .ok dst → gd.memfmt = 0 → exec (.cpyvOut w) s = .next
        (s.issueCopy (s.newCopy .vecOut dst [] (s.reg w.a) 0 [n] (v % 2 ^ 13) width h false false (512 * n) (4 * width))).advance))

/-- R157, R363: SBIND reads the descriptor and its glyphs and binds the stream register; SDROP ends the binding. Both end what was bound
before: a record of it answers nothing any more. -/
def Obligations.BindingWords : Prop :=
  ∀ (w : AC) (s : State) (id : Nat) (t : Task) (bs : List Byte) (data index : List Word) (table : List Nat),
    (Claims.OnTask s id t [] → t.handler = none →
      exec (.sdrop w) s = .next (((s.endBinding id w.opt.toNat).setTask id { t with binds := t.binds.del w.opt.toNat }).ordered
        (fun o => o.forget (fun v => decide (v = Viewer.binding id w.opt.toNat)) (fun _ => false))).advance) ∧
    (Claims.OnTask s id t [w.a] → t.handler = none →
      let va := (s.reg w.a).toNat
      let d := dwords 8 bs
      (va % 64 ≠ 0 → Claims.Traps (.sbind w) s .misaligned va) ∧
      (va % 64 = 0 → s.viewRead s.aEngine va 64 = .ok bs → s.glyphWords w.gs.toNat = .ok data →
        (if holdsOp d 5 then s.glyphWords w.gd.toNat = .ok index else index = []) →
        (Machine.bindOk d (glyphOf data) w.gd.toNat (glyphOf index) = false → Claims.Traps (.sbind w) s .glyphInvalid 0) ∧
        (Machine.bindOk d (glyphOf data) w.gd.toNat (glyphOf index) = true → s.entropyTable d (glyphOf data) = .ok table →
          let b : Binding :=
            { glyph := w.gs.toNat, data := data, index := index, desc := d, table := table, pc := s.pc, pos := 0, buf := []
              bitPos := 0, elems := [], stopped := false, poison := none }
          exec (.sbind w) s = .next (((s.endBinding id w.opt.toNat).setTask id { t with binds := t.binds.put w.opt.toNat b }).ordered
            (fun o => o.clone (.engines id) (.binding id w.opt.toNat))).advance)))

namespace Sys2Proof.Claims

/-- R163, R39: the barrier a word names. With `hnd` 0 it is barrier `bar` of the task's own core, which the Rubricator does not
have; with `hnd` 1 the handle's, whose zero fields, core number and tower bit are checked. -/
def BarrierOperand : Prop :=
  ∀ (w : AC) (s : State),
    (w.hnd = 0 → s.cur = .rub → s.barRef w = .error (.trap .barrierMisuse 0)) ∧
    (∀ id st t, w.hnd = 0 → s.cur = .task id st → s.task? id = some t → s.barRef w = .ok (.here t.core w.bar.toNat)) ∧
    (w.hnd = 1 →
      let h := (s.reg w.b).toNat
      let fine := h / 2 ^ 48 = 0 ∧ h / 2 ^ 25 % 2 ^ 7 = 0 ∧ h / 2 ^ 11 % 2 ^ 5 = 0 ∧ h / 2 ^ 16 % 256 < 192 ∧
        h / 2 ^ 24 % 2 = h / 2 ^ 32 % 2
      (¬fine → s.barRef w = .error (.trap .barrierMisuse 0)) ∧
      (fine → h / 2 ^ 32 % 65536 = s.node → s.barRef w = .ok (.here (h / 65536 % 256) (h % 2048))) ∧
      (fine → h / 2 ^ 32 % 65536 ≠ s.node → s.barRef w = .ok (.there (h / 2 ^ 32 % 65536) (s.reg w.b))))

/-- R165 to R169: BXP, BARV, BWT, BTST and BFWD on a barrier of this tower; a disabled barrier traps all but BXP and BFWD. -/
def BarrierSteps : Prop :=
  ∀ (w : AC) (s : State) (c n : Nat), Claims.Reads s (w.a :: handleReg w) → s.barRef w = .ok (.here c n) →
    let x := s.bar c n
    let v := s.reg w.a
    let opened := (s.setBar c n { x with count := 0, target := v.toNat, scope := w.scope.toNat }).advance
    (2 ^ 40 ≤ v.toNat → Claims.Traps (.bxp w) s .barrierMisuse 0 ∧ Claims.Traps (.barv w) s .barrierMisuse 0) ∧
    (v.toNat < 2 ^ 40 → v ≠ 0 → exec (.bxp w) s = .next opened) ∧
    (v = 0 → exec (.bxp w) s = .next (opened.trapWaiters c n)) ∧
    (x.target = 0 →
      Claims.Traps (.barv w) s .barrierMisuse 0 ∧ Claims.Traps (.bwt w) s .barrierMisuse 0 ∧
      Claims.Traps (.btst w) s .barrierMisuse 0) ∧
    (x.target ≠ 0 → v.toNat < 2 ^ 40 → w.opt.getLsbD 0 = false →
      exec (.barv w) s = .next (s.arrive c n v.toNat false (s.bring s.strand)).advance) ∧
    (x.target ≠ 0 → v.toNat < 2 ^ 40 → w.opt.getLsbD 0 = true →
      exec (.barv w) s = .next (s.arrive c n v.toNat false (s.bring s.strand)).testParks.advance) ∧
    (x.target ≠ 0 → (x.firing - v.setWidth 32).toNat < 2 ^ 31 →
      exec (.bwt w) s = .next (s.acquireBar s.strand c n (v.setWidth 32)).endWait.emptyReuse.advance ∧
      (w.acq = 0 → Claims.Puts (.btst w) s w.d 1) ∧
      (w.acq = 1 → exec (.btst w) s = .next
        ((s.setReg w.d 1).acquireBar s.strand c n (v.setWidth 32)).emptyReuse.advance)) ∧
    (x.target ≠ 0 → 2 ^ 31 ≤ (x.firing - v.setWidth 32).toNat →
      exec (.bwt w) s = .next (s.waitOn (.bar c n (v.setWidth 32))).held ∧ Claims.Puts (.btst w) s w.d 0) ∧
    ((v = 0 ∨ handleOk v = true) → exec (.bfwd w) s = .next (s.setBar c n { x with forward := v }).advance) ∧
    (v ≠ 0 → handleOk v = false → Claims.Traps (.bfwd w) s .barrierMisuse 0)

end Sys2Proof.Claims

/-- R168: BBND binds a region of an object to a slot, or empties the slot with length 0; BUBD empties one slot or all. That a length
of 0 with a bad base traps is the model's reading (log entry 49). -/
def Obligations.RegionWords : Prop :=
  ∀ (w : AC) (s : State) (o : Option (Nat × Nat) × Nat), s.boundObject w = .ok o →
    let base := (s.reg w.a).toNat
    let len := (s.reg w.ext).toNat
    let slot := w.opt.toNat % 4
    (Claims.Reads s (w.a :: w.ext :: objectReg w) →
      (¬(base < 2 ^ 52 ∧ len < 2 ^ 40 ∧ base + len ≤ 2 ^ 52) → Claims.Traps (.bbnd w) s .barrierMisuse 0) ∧
      (base < 2 ^ 52 → len < 2 ^ 40 → base + len ≤ 2 ^ 52 →
        exec (.bbnd w) s = .next
          (s.onRegions o (fun m => if len = 0 then m.del slot else m.put slot { asid := s.ownSpace, base := base, len := len })).advance)) ∧
    (Claims.Reads s (objectReg w) →
      (w.opt.getLsbD 3 = false → exec (.bubd w) s = .next (s.onRegions o (fun m => m.del slot)).advance) ∧
      (w.opt.getLsbD 3 = true → slot = 0 → exec (.bubd w) s = .next (s.onRegions o (fun _ => [])).advance))

namespace Sys2Proof.Claims

/-- R38: an arrival of `b` bytes at an enabled barrier adds them to its count; each whole target reached is one firing, and what
is left over stays in the count. Every other barrier, and every semaphore, is unchanged. -/
def ArrivalCounts : Prop :=
  ∀ (s : State) (c n b : Nat) (forwarded : Bool) (y : Bring), (s.bar c n).target ≠ 0 →
    let x := s.bar c n
    let u := s.arrive c n b forwarded y
    u.bar c n = { x with
      count := (x.count + b) % x.target, firing := x.firing + BitVec.ofNat 32 ((x.count + b) / x.target) } ∧
    (∀ d m, 2048 * d + m ≠ 2048 * c + n → u.bar d m = s.bar d m) ∧
    u.sems = s.sems ∧ u.mem = s.mem

/-- R308: Table 13.1, for the parties of this tower: which lie in the domain of a scope at a core, and at the service die. A TASK scope
holds the parties `own` of the release. -/
def ScopeDomains : Prop :=
  ∀ (s : State) (own : List Party) (c id : Nat) (t : Task) (p : Party) (h : Home), s.task? id = some t →
    (s.inDomain 0 h own p = true ↔ p ∈ own) ∧
    s.inDomain 4 h own p = true ∧
    (s.inDomain 1 (.core c) own (.task id) = true ↔ t.core = c) ∧
    (s.inDomain 2 (.core c) own (.task id) = true ↔ clusterOf t.core = clusterOf c) ∧
    s.inDomain 3 (.core c) own (.task id) = true ∧
    (∀ k, k = 1 ∨ k = 2 → s.inDomain k (.core c) own .rub = false ∧ s.inDomain k (.core c) own .service = false ∧
      (s.inDomain k .die own p = true ↔ p ∈ own)) ∧
    (∀ h', h' = .core c ∨ h' = .die → s.inDomain 3 h' own .rub = true ∧ s.inDomain 3 h' own .service = true) ∧
    s.inDomain 3 .die own (.task id) = true

/-- R311, R313, R314: an acquire of a barrier shows the acquirer every byte written that a firing it reaches has published, where the
scope of that firing holds the acquirer: wherever it lags, it has seen of that byte the published write and all before it. With no such
firing it changes nothing. -/
def AcquireShows : Prop :=
  ∀ (s : State) (st : Strand) (c n : Nat) (f : BitVec 32),
    let met := fun (e : Nat × BitVec 32 × Release) =>
      e.1 = 2048 * c + n ∧ (f - e.2.1).toNat < 2 ^ 31 ∧ s.inDomain e.2.2.scope e.2.2.home e.2.2.parties st.party = true
    (∀ e ∈ s.order.firings, met e → ∀ g ∈ (s.acquireBar st c n f).order.lags, g.who ∈ st.viewers →
      ∀ p i, (p, i) ∈ g.pos.zipIdx → ∀ j w, g.later[j]? = some w → w.wrote i = true → 8 * w.id + i ∈ e.2.2.know.seen → j < p) ∧
    ((∀ e ∈ s.order.firings, ¬met e) → s.acquireBar st c n f = s)

end Sys2Proof.Claims

/-- R163 to R169, R38, R39, R308, R311: the barrier a word names, what the barrier words do with it, what an arrival counts, the
domain of a scope, and what an acquire shows. The model's readings among them: whom BXP to 0 traps (log entry 48), who lies in a TASK
scope and in the scopes at the service die (155), and which firing a release belongs to (157). -/
def Obligations.BarrierWords : Prop :=
  Claims.BarrierOperand ∧ Claims.BarrierSteps ∧ Claims.ArrivalCounts ∧ Claims.ScopeDomains ∧ Claims.AcquireShows

namespace Sys2Proof.Claims

/-- R170 to R172, R311: the semaphore steps of this tower, each answering the old value, and acquiring and releasing as its bits say; a
node field out of range, or a refused right, traps with ACCESS. -/
def SemaphoreSteps : Prop :=
  ∀ (w : AQ) (s : State),
    let n := w.sem.toNat
    let b := (s.reg w.b).toNat
    let own := b < 2 ^ 17 ∧ (b = 0 ∨ b % 65536 = s.node)
    let right := s.admits s.tower 5 (0xF100000000 + 8 * n) s.ownIdent .sem
    let old := s.sem n
    let a := s.reg w.a
    let x := s.orderSem s.strand n (semOrder w)
    let puts (i : Instr) (v : Word) : Prop := exec i s = .next ((x.setSem n v).setReg w.d old).advance
    let refused := 2 ^ 17 ≤ b ∨ own ∧ right = false
    (Claims.Reads s [w.a, w.b] →
      (refused → Claims.Traps (.sadd w) s .access 0 ∧ Claims.Traps (.smax w) s .access 0 ∧ Claims.Traps (.sxch w) s .access 0) ∧
      (own → right = true →
        puts (.sadd w) (old + a) ∧ puts (.smax w) (if old.toNat < a.toNat then a else old) ∧ puts (.sxch w) a)) ∧
    (Claims.Reads s [w.d, w.a, w.b] →
      (refused → Claims.Traps (.scas w) s .access 0) ∧
      (own → right = true → puts (.scas w) (if old = s.reg w.d then a else old))) ∧
    (Claims.Reads s [w.b] →
      (refused → Claims.Traps (.srd w) s .access 0) ∧ (own → right = true → exec (.srd w) s = .next (x.setReg w.d old).advance))

/-- R172, R181: SWT answers the semaphore's value once that reaches its threshold, acquiring when `acq` asks it; below it, it waits, and
the step that reaches the threshold answers it. -/
def SemaphoreWait : Prop :=
  ∀ (w : AQ) (s : State), Claims.Reads s [w.a] →
    let n := w.sem.toNat
    let right := s.admits s.tower 5 (0xF100000000 + 8 * n) s.ownIdent .sem
    (right = false → Claims.Traps (.swt w) s .access 0) ∧
    (right = true → (s.reg w.a).toNat ≤ (s.sem n).toNat →
      exec (.swt w) s = .next
        ((if w.acq = 1 then s.acquireSem s.strand n w.scope.toNat else s).endWait.setReg w.d (s.sem n)).advance) ∧
    (right = true → (s.sem n).toNat < (s.reg w.a).toNat →
      exec (.swt w) s = .next
        (s.waitOn (.sem n (s.reg w.a) w.d (if w.acq = 1 then some w.scope.toNat else none))).held)

/-- R172: a step on semaphore `n` that leaves `v` there answers a task whose SWT waits for no more: its register takes `v`, and it goes on
to the next word. A task that waits for more, or for another semaphore, waits on. -/
def SemaphoreWaitAnswered : Prop :=
  ∀ (s : State) (n m id : Nat) (v a : Word) (t : Task) (mark : WaitMark) (d : BitVec 6) (acq : Option Nat),
    s.task? id = some t → t.wait = some mark → mark.on = .sem m a d acq →
    (m = n → a.toNat ≤ v.toNat → ∃ t', (s.meetTask n v (id, t)).task? id = some t' ∧ t'.wait = none ∧ t'.sa.pc = t.sa.pc + 3 ∧
      (d ≠ 0 → t'.regs.get 0 d.toNat = v) ∧ ∀ k, k ≠ d.toNat → t'.regs.get 0 k = t.regs.get 0 k) ∧
    (m ≠ n ∨ v.toNat < a.toNat → s.meetTask n v (id, t) = s)

/-- R173, R417: a semaphore step or an arrival at another tower is sent once, waits for its response, and completes with its value. With
the request goes what the word releases, and with the response comes what it acquires (R311, R312). That the word is held until its
response comes is the model's choice (log entry 50). -/
def RemoteSteps : Prop :=
  ∀ (w : AQ) (c : AC) (s : State) (node tag : Nat) (r : Remote) (v h : Word),
    let u := { s with remotes := s.remotes.del tag }
    let x (op : Nat) : RemoteOp := .sem op w.sem.toNat (s.reg w.d) (s.reg w.a) (semOrder w)
    let releases := if w.rel = 1 then s.order.know s.strand.knower else Know.none
    let sent (op : RemoteOp) (k : Know) := (s.sendRequest node op k (.word s.cur s.handling) s.ownIdent s.pc).held
    (Claims.Reads s [w.d, w.a, w.b] → (s.reg w.b).toNat < 2 ^ 17 → s.reg w.b ≠ 0 → (s.reg w.b).toNat % 65536 = node →
      node ≠ s.node →
      (s.asked = none → s.opClear node s.ownIdent (x 0) = true → exec (.sadd w) s = .next (sent (x 0) releases)) ∧
      (s.asked = none → s.opClear node s.ownIdent (x 1) = true → exec (.scas w) s = .next (sent (x 1) releases)) ∧
      (s.asked = some (tag, r) → r.answer = some (.ok v) →
        exec (.sadd w) s = .next ((u.acquirePeer (semOrder w) r.learnt).setReg w.d v).advance ∧
        exec (.scas w) s = .next ((u.acquirePeer (semOrder w) r.learnt).setReg w.d v).advance)) ∧
    (Claims.Reads s (c.a :: handleReg c) → s.barRef c = .ok (.there node h) → (s.reg c.a).toNat < 2 ^ 40 →
      let y : RemoteOp := .arrive h (s.reg c.a).toNat (c.opt.getLsbD 0) false false
      (s.asked = none → s.opClear node s.ownIdent y = true → exec (.barv c) s = .next (sent y (s.bring s.strand).know)) ∧
      (s.asked = some (tag, r) → r.answer = some (.ok v) → exec (.barv c) s = .next u.advance))

end Sys2Proof.Claims

/-- R170 to R173, R181, R417: the semaphore words here and at another tower, and an arrival there. That a word for another tower is
held until its response comes is the model's choice (log entry 50). -/
def Obligations.SemaphoreWords : Prop := Claims.SemaphoreSteps ∧ Claims.SemaphoreWait ∧ Claims.SemaphoreWaitAnswered ∧ Claims.RemoteSteps

namespace Sys2Proof.Claims

/-- R349, R355, R356: a cause that an in-task handler takes, in a task that has a handler and is not inside one. The trap CSRs
take the cause, the stream and the word, the A stream goes to `trap.vec` and runs on, a parked task no longer parked, X and M stop, and
no record is posted. -/
def TrapInsideTask : Prop :=
  ∀ (s : State) (id : Nat) (st : Stream) (t : Task) (c : Cause) (pc : Parcel) (va x : Nat), s.task? id = some t →
    (c = .overdraw ∨ c = .hazard ∨ c = .deadRead ∨ c = .fpException ∨ c = .trap) → t.csr.trapVec ≠ 0 → t.handler = none →
    ∃ u, (s.trapTask id st c pc va x).task? id = some u ∧
      u.csr.trapCause = BitVec.ofNat 8 c.code ∧ u.csr.trapPc = pc ∧ u.csr.trapStream = BitVec.ofNat 2 st.code ∧
      u.csr.fpFlags = t.csr.fpFlags ∧ u.csr.trapVec = t.csr.trapVec ∧
      u.sa.pc = t.csr.trapVec ∧ u.sa.stopped = false ∧ u.sa.sec = t.sa.sec ∧ u.sx.stopped = true ∧ u.sm.stopped = true ∧
      u.handler = some { saved := { t.sa with stopped := false }, before := t.nextSerial } ∧ u.run = t.run.awake t.saved ∧
      (s.trapTask id st c pc va x).records = s.records

/-- R350, R355, R358, R361: every other trap of a task parks it on a fault record: its three streams stop, a record with the cause
is queued, and the trap CSRs take the cause unless a handler was running. -/
def TrapOnRecord : Prop :=
  ∀ (s : State) (id : Nat) (st : Stream) (t : Task) (c : Cause) (pc : Parcel) (va x : Nat), s.task? id = some t →
    (¬(c = .overdraw ∨ c = .hazard ∨ c = .deadRead ∨ c = .fpException ∨ c = .trap) ∨ t.csr.trapVec = 0 ∨ t.handler ≠ none) →
    ∃ u r, (s.trapTask id st c pc va x).task? id = some u ∧ (s.trapTask id st c pc va x).records = s.records ++ [r] ∧
      u.run = .onRecord ∧ u.sa.stopped = true ∧ u.sx.stopped = true ∧ u.sm.stopped = true ∧ u.sa.pc = t.sa.pc ∧
      (t.handler = none →
        u.csr.trapCause = BitVec.ofNat 8 c.code ∧ u.csr.trapPc = pc ∧ u.csr.trapStream = BitVec.ofNat 2 st.code) ∧
      (t.handler ≠ none → u.csr = t.csr ∧ u.handler = t.handler) ∧
      r.src = .task id ∧ r.cause = some c ∧ r.stream = st.code ∧ r.pc = pc.toNat ∧ r.va = va ∧ r.nested = t.handler.isSome ∧
      r.taskId = t.ident s.tower ∧ r.info = false

/-- R359: a trap of a Rubricator word goes to `rub.tvec`, with `rub.cause` and `rub.tpc` set; with no vector, or inside a handler,
the Rubricator halts, `boot.stat` is 6 and vector 64 is raised. -/
def TrapOnRubricator : Prop :=
  ∀ (s : State) (c : Cause) (pc : Parcel),
    let u := s.trapRub c pc
    u.rub.cause = BitVec.ofNat 8 c.code ∧ u.rub.tpc = pc ∧ u.tasks = s.tasks ∧ u.mem = s.mem ∧ u.sems = s.sems ∧
    (s.rub.tvec ≠ 0 → s.rub.inHandler = false →
      u.rub.pc = s.rub.tvec ∧ u.rub.inHandler = true ∧ u.rub.running = s.rub.running ∧ u.rub.halted = s.rub.halted) ∧
    (s.rub.tvec = 0 ∨ s.rub.inHandler = true →
      u.rub.halted = true ∧ u.rub.running = false ∧ u.host.bootStat = 6 ∧ u.host.msiPend.getLsbD 64 = true)

end Sys2Proof.Claims

/-- R348 to R361: where a trap goes: to the handler of its task, to a fault record, or to the Rubricator's vector. -/
def Obligations.TrapsTaken : Prop := Claims.TrapInsideTask ∧ Claims.TrapOnRecord ∧ Claims.TrapOnRubricator

namespace Sys2Proof.Claims

/-- R177, R357, R359: TRAP takes its trap. TRET leaves a handler, the trapping word running again or, with the SKIP bit, passed
over; outside a handler it traps with ACCESS. What was asked of another tower by a word of the handler, or by the word passed over, is
asked no more. -/
def TrapAndReturn : Prop :=
  ∀ (w : AS) (s : State), Claims.Reads s [] →
    Claims.Traps (.trap w) s .trap 0 ∧
    (s.trapReturn (w.imm.getLsbD 0) = none → Claims.Traps (.tret w) s .access 0) ∧
    (s.cur = .rub → s.rub.inHandler = true →
      let u := (s.dropAsked .rub true none).dropAsked .rub false (if w.imm.getLsbD 0 then none else some s.rub.tpc)
      exec (.tret w) s = .next { u with
        rub := { s.rub with inHandler := false, pc := if w.imm.getLsbD 0 then s.rub.tpc + 3 else s.rub.tpc } }) ∧
    (∀ id t h, s.cur = .task id .a → s.task? id = some t → t.handler = some h →
      let u := s.dropAsked (.task id .a) true none
      let v := if w.imm.getLsbD 0 = true ∧ t.csr.trapStream = 0 then u.dropAsked (.task id .a) false none else u
      exec (.tret w) s = .next
        ((v.measureReturns t).setTask id (t.leaveHandler h (w.imm.getLsbD 0) (s.cyc t.core))))

/-- R357: what TRET restores: the A stream's saved section state, all three streams running, and what was captured landing after
its remaining cycles. -/
def TrapReturnRestores : Prop :=
  ∀ (t : Task) (h : Handler) (now : Nat),
    let u := t.leaveHandler h false now
    u.handler = none ∧ u.sa = { h.saved with stopped := false } ∧ u.sx.stopped = false ∧ u.sm.stopped = false ∧ u.sx.pc = t.sx.pc ∧
    u.sm.pc = t.sm.pc ∧ u.csr = t.csr ∧ u.slices = t.slices ∧ u.preds = t.preds ∧
    (∀ e ∈ t.effects, e.captured = true →
      { e with captured := false, due := max now t.xNext + e.due, replay := true } ∈ u.effects)

end Sys2Proof.Claims

/-- R177, R357, R359: TRAP, TRET, and what TRET restores. That the answer to what is given up so goes to nobody is the model's choice
(log entry 50). -/
def Obligations.TrapReturn : Prop := Claims.TrapAndReturn ∧ Claims.TrapReturnRestores

namespace Sys2Proof.Claims

/-- Tables 1.7 and 16.4, but for the monitor units: what each CSR holds, as a task of this tower reads it. -/
def csrValues (s : State) (t : Task) : List (Nat × Word) :=
  let k := s.cluster (clusterOf t.core)
  [(0x000, BitVec.ofNat 64 s.tsc), (0x001, BitVec.ofNat 64 (s.cyc t.core)), (0x002, BitVec.ofNat 64 (t.ident s.tower)),
   (0x003, BitVec.ofNat 64 t.win), (0x010, t.csr.fpFlags.setWidth 64), (0x011, t.csr.fpTrap.setWidth 64),
   (0x012, t.csr.deadmode.setWidth 64), (0x013, t.csr.hazard.setWidth 64), (0x014, t.csr.strPad.setWidth 64),
   (0x020, t.csr.rotBase.setWidth 64), (0x021, t.csr.rotSize.setWidth 64), (0x022, t.csr.rotOff.setWidth 64),
   (0x030, t.csr.trapVec.setWidth 64), (0x031, t.csr.trapCause.setWidth 64), (0x032, t.csr.trapPc.setWidth 64),
   (0x033, t.csr.trapStream.setWidth 64), (0x040, t.csr.wdLimit.setWidth 64)] ++
  [(0x120, BitVec.ofNat 64 k.mhz), (0x200, s.conflicts.get 0 (4 * t.core)), (0x201, s.conflicts.get 0 (4 * t.core + 1)),
   (0x202, s.conflicts.get 0 (4 * t.core + 2)), (0x203, s.conflicts.get 0 (4 * t.core + 3)), (0x208, k.ballast), (0x209, k.stretch),
   (0x20A, BitVec.ofNat 64 (min (k.delta / 10) 255 * 256 + k.mark)), (0x20B, k.power.setWidth 64),
   (0x20C, BitVec.ofNat 64 k.monSens), (0x20D, BitVec.ofNat 64 (wrap 16 (s.hottest (clusterOf t.core) / 1000)))]

/-- Table 1.7: the CSRs of tower reach, which the Rubricator reads too. -/
def csrTowerValues (s : State) : List (Nat × Word) :=
  [(0x000, BitVec.ofNat 64 s.tsc), (0x100, BitVec.ofInt 64 s.ink.bal), (0x110, BitVec.ofNat 64 s.base.ceil),
   (0x111, BitVec.ofNat 64 s.base.next.1), (0x112, BitVec.ofNat 64 s.base.next.2), (0x800, s.rub.blotAge.setWidth 64),
   (0x801, s.rub.preDrain.setWidth 64), (0x802, s.rub.gtab), (0x803, s.rub.tvec.setWidth 64), (0x804, s.rub.cause.setWidth 64),
   (0x805, s.rub.tpc.setWidth 64)]

/-- Table 16.4: what the registers of a monitor unit hold, by offset. -/
def monitorValues (m : Monitor) : List (Nat × Word) :=
  [(0, m.sel.setWidth 64), (1, m.edges.get 0 0), (2, m.edges.get 0 1), (3, m.edges.get 0 2), (4, m.edges.get 0 3),
   (5, m.min.setWidth 64), (6, m.max.setWidth 64), (7, m.count)] ++
  (List.range 16).map (fun b => (16 + b, (m.bins.get 0 b).setWidth 64))

/-- R41, R42, R393, R448: what CSRR answers for every number: the CSR's value, zero-extended, and none for an unassigned number. A task
reads every assigned CSR, its core's and its cluster's; the Rubricator those of tower reach and of the supervisor alone. -/
def CsrReads : Prop :=
  (∀ (s : State) (id : Nat) (st : Stream) (t : Task), s.cur = .task id st → s.task? id = some t →
    (∀ e ∈ csrValues s t ++ csrTowerValues s, s.csrRead e.1 = some e.2) ∧
    (∀ u < 2, ∀ e ∈ monitorValues (s.monitor t.core u), s.csrRead (0x240 + 0x20 * u + e.1) = some e.2) ∧
    (∀ n, (∀ e ∈ csrValues s t ++ csrTowerValues s, e.1 ≠ n) →
      (∀ u < 2, ∀ e ∈ monitorValues (s.monitor t.core u), 0x240 + 0x20 * u + e.1 ≠ n) → s.csrRead n = none)) ∧
  (∀ s : State, s.cur = .rub →
    (∀ e ∈ csrTowerValues s, s.csrRead e.1 = some e.2) ∧
    (∀ n, (∀ e ∈ csrTowerValues s, e.1 ≠ n) → s.csrRead n = none))

/-- R41, R393, R394: a task's write to a register of a monitor unit: the selector, which clears what the unit has recorded, and the edges;
the rest is read-only. -/
def MonitorWrites : Prop :=
  ∀ (w : AS) (s : State) (id u o : Nat) (t : Task), OnTask s id t [w.a] → w.obj.toNat = 0x240 + 0x20 * u + o → u < 2 →
    o ≤ 7 ∨ 16 ≤ o ∧ o < 32 →
    let v := s.reg w.a
    let m := s.monitor t.core u
    (o = 0 → v.toNat % 256 < 8 → exec (.csrw w) s = .next (s.setMonitor t.core u
      { m with sel := v.setWidth 8, min := 0xFFFFFFFF#32, max := 0, count := 0, bins := [], pending := [] }).advance) ∧
    (o = 0 → 8 ≤ v.toNat % 256 → Traps (.csrw w) s .reservedField 0) ∧
    (1 ≤ o → o ≤ 4 → exec (.csrw w) s = .next (s.setMonitor t.core u { m with edges := m.edges.set 0 (o - 1) v }).advance) ∧
    (5 ≤ o → Traps (.csrw w) s .access 0)

/-- R178, R41, R448: CSRR answers a CSR that whoever runs can read and traps with RESERVED_FIELD on any other number; CSRW on an
unassigned number traps with RESERVED_FIELD; in a task it writes a task CSR and refuses a read-only or supervisor one; on the Rubricator
it writes a supervisor CSR and refuses a read-only one. -/
def CsrReadsAndWrites : Prop :=
  ∀ (w : AS) (s : State),
    let n := w.obj.toNat
    (Claims.Reads s [] →
      (∀ v, s.csrRead n = some v → Claims.Puts (.csrr w) s w.d v) ∧
      (s.csrRead n = none → Claims.Traps (.csrr w) s .reservedField 0)) ∧
    (Claims.Reads s [w.a] →
      (s.csrRead n = none → Claims.Traps (.csrw w) s .reservedField 0) ∧
      (∀ r, s.cur = .rub → s.csrRead n ≠ none → s.rub.csrWrite n (s.reg w.a) = some r →
        exec (.csrw w) s = .next { s with rub := r }.advance) ∧
      (s.cur = .rub → s.csrRead n ≠ none → s.rub.csrWrite n (s.reg w.a) = none → Claims.Traps (.csrw w) s .access 0)) ∧
    (∀ id t, Claims.OnTask s id t [w.a] → s.csrRead n ≠ none → ¬(0x240 ≤ n ∧ n < 0x280) →
      (∀ k, t.csr.write n (s.reg w.a) = some k → exec (.csrw w) s = .next (s.setTask id { t with csr := k }).advance) ∧
      (t.csr.write n (s.reg w.a) = none → Claims.Traps (.csrw w) s .access 0))

/-- R41 and Table 1.7: which task CSRs a task writes, and how many bits of each; no other. -/
def TaskCsrWrites : Prop :=
  ∀ (k : TaskCsr) (n : Nat) (v : Word),
    k.write 0x010 v = some { k with fpFlags := v.setWidth 6 } ∧ k.write 0x011 v = some { k with fpTrap := v.setWidth 5 } ∧
    k.write 0x012 v = some { k with deadmode := v.setWidth 1 } ∧ k.write 0x013 v = some { k with hazard := v.setWidth 1 } ∧
    k.write 0x014 v = some { k with strPad := v.setWidth 16 } ∧ k.write 0x020 v = some { k with rotBase := v.setWidth 13 } ∧
    k.write 0x021 v = some { k with rotSize := v.setWidth 13 } ∧ k.write 0x022 v = some { k with rotOff := v.setWidth 13 } ∧
    k.write 0x030 v = some { k with trapVec := v.setWidth 50 } ∧ k.write 0x040 v = some { k with wdLimit := v.setWidth 32 } ∧
    (n ∉ [0x010, 0x011, 0x012, 0x013, 0x014, 0x020, 0x021, 0x022, 0x030, 0x040] → k.write n v = none)

end Sys2Proof.Claims

/-- R178, R41, R42, R393, R394, R448: CSRR and CSRW: what every CSR answers, and what is written. That `mon.temp` is rounded down is
the model's reading (log entry 97). -/
def Obligations.CsrWords : Prop :=
  Claims.CsrReadsAndWrites ∧ Claims.CsrReads ∧ Claims.TaskCsrWrites ∧ Claims.MonitorWrites

namespace Sys2Proof.Claims

/-- R174 to R176, R385: INKQ makes its request once and waits; with its grant it completes. INKR ends the region. -/
def InkWords : Prop :=
  ∀ (w : AS) (s : State) (id : Nat) (t : Task),
    (Claims.OnTask s id t [w.a, w.b] → t.handler = none →
      let lvl := (s.reg w.a).toNat
      let dur := (s.reg w.b).toNat
      let legal := 1 ≤ lvl ∧ lvl ≤ 4095 ∧ 1 ≤ dur ∧ dur ≤ 65535
      (¬legal → Claims.Traps (.inkq w) s .reservedField 0) ∧
      (legal → s.ink.granted.contains id = true →
        exec (.inkq w) s = .next
          { s with ink := { s.ink with granted := s.ink.granted.filter (fun x => decide (x ≠ id)) } }.endWait.advance) ∧
      (legal → s.ink.granted.contains id = false → s.ink.asked id = true →
        exec (.inkq w) s = .next (s.waitOn .ink).held) ∧
      (legal → s.ink.granted.contains id = false → s.ink.asked id = false →
        let u := s.endRegion id
        exec (.inkq w) s = .next
          ({ u with ink := u.ink.request { task := id, lvl := lvl, dur := dur, auto := false } }.waitOn .ink).held)) ∧
    (Claims.OnTask s id t [] → exec (.inkr w) s = .next (s.endRegion id).advance)

/-- R180, R181: PARK does nothing when its condition holds; else the task is parked at the word and its wait is counted. A number
out of range traps with RESERVED_FIELD. -/
def ParkWords : Prop :=
  ∀ (w : AS) (s : State) (id : Nat) (t : Task),
    let a := s.reg w.a
    let b := s.reg w.b
    let parks (i : Instr) (c : ParkCond) : Prop :=
      (s.parkHolds t c = true → exec i s = .next s.advance) ∧
      (s.parkHolds t c = false →
        exec i s = .next ((s.waitOn .park).onTask id (fun t => { t with run := .parked c, unpark := false })))
    (Claims.OnTask s id t [w.a, w.b] → t.handler = none →
      (a.toNat < 2048 → parks (.parkBar w) (.bar a.toNat (b.setWidth 32))) ∧
      (2048 ≤ a.toNat → Claims.Traps (.parkBar w) s .reservedField 0) ∧
      (a.toNat < 4096 → parks (.parkSem w) (.sem a.toNat b)) ∧
      (4096 ≤ a.toNat → Claims.Traps (.parkSem w) s .reservedField 0)) ∧
    (Claims.OnTask s id t [w.a] → t.handler = none →
      (a.toNat < 64 → parks (.parkMbx w) (.mbx a.toNat)) ∧
      (64 ≤ a.toNat → Claims.Traps (.parkMbx w) s .reservedField 0) ∧
      parks (.parkInk w) (.ink a)) ∧
    (Claims.OnTask s id t [w.a, w.b] → t.handler ≠ none →
      Claims.Traps (.parkBar w) s .access 0 ∧ Claims.Traps (.parkSem w) s .access 0)

end Sys2Proof.Claims

/-- R174 to R176, R180, R181, R385: INKQ, INKR and PARK. -/
def Obligations.InkAndParkWords : Prop := Claims.InkWords ∧ Claims.ParkWords

namespace Sys2Proof.Claims

/-- R183, R184: LGO arms its launch entry, creating its tasks, or traps with ACCESS, the attempt counted; it waits while the tower
holds as many armings as it can, and while a re-ruling holds the level of the service area (R290). LPATCH replaces one field of an entry's image. -/
def LaunchWords : Prop :=
  ∀ (w : AS) (s u : State),
    (Claims.Reads s [] →
      (s.armingsFull = true ∨ s.serviceFree = false → Claims.Waits (.lgo w) s) ∧
      (s.armingsFull = false → s.serviceFree = true → s.arm w.obj.toNat s.byTask s.strand = (true, u) →
        exec (.lgo w) s = .next u.advance) ∧
      (s.armingsFull = false → s.serviceFree = true → s.arm w.obj.toNat s.byTask s.strand = (false, u) →
        exec (.lgo w) s = .next (u.takeTrap .access 0) ∧ u.nextArming = s.nextArming + 1 ∧ u.tasks = s.tasks)) ∧
    (∀ b m old, Claims.Reads s [w.a] → s.serviceBase = some b →
      let fn := w.fn.toNat
      let v := (s.reg w.a).toNat
      let at_ := b + 0x8000 + 256 * w.obj.toNat
      let f := patchField fn
      s.physRead (rubIdent s.tower) .engine (at_ + 40) 8 = .ok m →
      (s.byTask = true → leNat m / 2 ^ fn % 2 = 0 → Claims.Traps (.lpatch w) s .access 0) ∧
      ((s.byTask = false ∨ leNat m / 2 ^ fn % 2 = 1) →
        (patchOk fn v = false → Claims.Traps (.lpatch w) s .reservedField 0) ∧
        (patchOk fn v = true → s.physRead (rubIdent s.tower) .engine (at_ + 8 * f.1) 8 = .ok old →
          s.physWrite (rubIdent s.tower) .engine (at_ + 8 * f.1) (leBytes 8 (setBits (leNat old) f.2.1 f.2.2 v)) = .ok u →
          exec (.lpatch w) s = .next u.advance)))

/-- R120, R187, R188: QENT puts one entry at the end of its queue; a full queue makes it wait; in a task it traps with ACCESS. -/
def QueueWords : Prop :=
  ∀ (w : AS) (s : State) (bs : List Byte), Claims.Reads s [w.a] →
    let a := (s.reg w.a).toNat
    let q := s.queues.get [] w.obj.toNat
    let im := dwords 8 bs
    let enqueues (i : Instr) (act : Nat) : Prop :=
      (s.byTask = true → Claims.Traps i s .access 0) ∧
      (s.byTask = false → a % 64 ≠ 0 → Claims.Traps i s .misaligned a) ∧
      (s.byTask = false → a % 64 = 0 → s.viewRead s.aEngine a 64 = .ok bs →
        (imageOk act im = false → Claims.Traps i s .reservedField 0) ∧
        (imageOk act im = true → 256 ≤ q.length → Claims.Waits i s) ∧
        (imageOk act im = true → q.length < 256 →
          exec i s = .next ({ s with queues := s.queues.set [] w.obj.toNat (q ++ [QEntry.mk act im false]) }.ordered
            (fun o => o.append w.obj.toNat)).testQueues.advance))
    enqueues (.qentLaunch w) 0 ∧ enqueues (.qentCopy w) 1 ∧ enqueues (.qentSem w) 2 ∧ enqueues (.qentHirq w) 3

end Sys2Proof.Claims

/-- R183, R184, R187, R188, R120: LGO, LPATCH and QENT. That an attempt of LGO that fails is counted among the armings is the model's
reading of R183 (log entry 54). -/
def Obligations.LaunchAndQueueWords : Prop := Claims.LaunchWords ∧ Claims.QueueWords

namespace Sys2Proof.Claims

/-- R185, R412: MBXR stores the mailbox's bytes and answers its length, or all ones when the host owns it; MBXS checks in the order
of R185, fills the mailbox, hands it to the host, and raises vector 64. -/
def MailboxWords : Prop :=
  ∀ (w : AS) (s u : State) (bs : List Byte),
    let a := (s.reg w.a).toNat
    let m := s.mailbox w.obj.toNat
    (Claims.Reads s [w.a] →
      (a % 8 ≠ 0 → Claims.Traps (.mbxr w) s .misaligned a) ∧
      (a % 8 = 0 → m.device = false → exec (.mbxr w) s = .next (s.launchReg w.d (BitVec.allOnes 64)).advance) ∧
      (a % 8 = 0 → m.device = true → s.viewWrite s.aEngine a (m.bytes 0 m.len) = .ok u →
        exec (.mbxr w) s = .next (u.launchReg w.d (BitVec.ofNat 64 m.len)).advance)) ∧
    (Claims.Reads s [w.a, w.b] →
      let n := (s.reg w.b).toNat
      (a % 8 ≠ 0 → Claims.Traps (.mbxs w) s .misaligned a) ∧
      (a % 8 = 0 → 4096 < n → Claims.Traps (.mbxs w) s .reservedField 0) ∧
      (a % 8 = 0 → n ≤ 4096 → s.viewRead s.aEngine a n = .ok bs →
        (m.device = false → Claims.Traps (.mbxs w) s .queueProtocol 0) ∧
        (m.device = true →
          let v := s.setMailbox w.obj.toNat { m.write 0 bs with len := n, device := false }
          let x := { v with host := { v.host with pend := v.host.pend ||| (1#64 <<< w.obj.toNat) } }
          exec (.mbxs w) s = .next ((x.releaseHost s.strand).raiseVector 64).advance)))

/-- R189 to R191, R120: PREEMPT starts a drain and answers 0, or 1 where no task holds the slot, or 2 where one is under way; PROOF
answers the status of its action, and waits while a re-ruling holds the level of the service area (R290); SAMPM starts or stops the
sampling of its task. PREEMPT and PROOF trap with ACCESS in a task. -/
def SupervisorWords : Prop :=
  ∀ (w : AS) (s : State),
    let v := (s.reg w.a).toNat
    (Claims.Reads s [w.a] →
      (s.byTask = true →
        Claims.Traps (.preempt w) s .access 0 ∧ Claims.Traps (.proofStart w) s .access 0 ∧ Claims.Traps (.proofAbort w) s .access 0) ∧
      (s.byTask = false → v / 8 % 64 = 0 → v / 2 ^ 17 = 0 →
        (s.taskIn (v / 512 % 256) (v % 8) = none → Claims.Puts (.preempt w) s w.d 1) ∧
        (∀ id t, s.taskIn (v / 512 % 256) (v % 8) = some (id, t) → t.pre ≠ none → Claims.Puts (.preempt w) s w.d 2) ∧
        (∀ id t, s.taskIn (v / 512 % 256) (v % 8) = some (id, t) → t.pre = none →
          exec (.preempt w) s = .next
            ((s.setTask id { t with pre := some { phase := .drain, since := s.tsc } }).setReg w.d 0).advance)) ∧
      (s.byTask = false → 512 ≤ v → Claims.Traps (.proofStart w) s .reservedField 0) ∧
      (s.byTask = false → v < 512 → s.serviceFree = false → Claims.Waits (.proofStart w) s ∧ Claims.Waits (.proofAbort w) s) ∧
      (s.byTask = false → v < 256 → s.serviceFree = true →
        exec (.proofStart w) s = .next ((s.proofStart v).2.setReg w.d (BitVec.ofNat 64 (s.proofStart v).1)).advance) ∧
      (s.byTask = false → 256 ≤ v → v < 512 → s.serviceFree = true →
        exec (.proofAbort w) s = .next
          ((s.proofAbort (v - 256)).2.setReg w.d (BitVec.ofNat 64 (s.proofAbort (v - 256)).1)).advance)) ∧
    (∀ id t, Claims.OnTask s id t [w.a, w.b] →
      let x := (s.reg w.b).toNat
      let interval := x % 2 ^ 32
      let capacity := x / 2 ^ 32 % 65536
      let legal := (interval = 0 ∨ 64 ≤ interval) ∧ 1 ≤ capacity ∧ x / 2 ^ 48 = 0
      (v % 64 ≠ 0 → Claims.Traps (.sampm w) s .misaligned v) ∧
      (v % 64 = 0 → ¬legal → Claims.Traps (.sampm w) s .reservedField 0) ∧
      (v % 64 = 0 → legal → interval = 0 → exec (.sampm w) s = .next (s.setTask id { t with sampling := none }).advance) ∧
      (v % 64 = 0 → legal → interval ≠ 0 →
        exec (.sampm w) s = .next (s.setTask id { t with
          sampling := some (Sampling.mk (s.reg w.a) interval capacity 0 (s.cyc t.core + interval)) }).advance))

end Sys2Proof.Claims

/-- R185, R189 to R191, R120, R412: MBXR, MBXS, PREEMPT, PROOF and SAMPM. That SAMPM checks its capacity also where the interval is 0
is the model's reading of R191 (log entry 56). -/
def Obligations.MailboxAndSupervisorWords : Prop := Claims.MailboxWords ∧ Claims.SupervisorWords

namespace Sys2Proof.Claims

/-- A task's X stream executes, and every effect due in this cycle has landed (R21). -/
structure OnX (s : State) (id : Nat) (t : Task) : Prop where
  cur : s.cur = .task id .x
  there : s.task? id = some t
  landed : t.landingsDue (s.cyc t.core) = false

/-- The width that fixes a word's interval: its first destination's, else its first source's. -/
def widthUsed (q : XReq) : Nat :=
  match q.dsts, q.srcs with
  | d :: _, _ => widthOf d.f
  | [], o :: _ => widthOf o.f
  | [], [] => 1

/-- R25, R28, R47, R48, R193, R196: what a word of the X stream does whose operands are `q`, whose own checks are `own` and
whose results are `g`. It waits while a head it names is on its way. The first check that fails, of the
sources in order, the destinations and then its own, ends it. When every check passes it occupies the engine for
its interval, one cycle more where an operand crosses (R18); with the predicate that names no lane that is all. Else it
reads its sources, and its results, with the marks of its dead bits, land later: after its latency, one cycle more for
a crossing and one for a modifier. -/
def XDoes (i : Instr) (q : XReq) (own : State → Task → Try Unit) (g : XIn → XRes) : Prop :=
  ∀ (s : State) (id : Nat) (t0 : Task), OnX s id t0 →
    let t := t0.settleRotation
    let p := s.cyc t0.core
    (q.k ≠ 8 → t.headsWait (q.srcs.map (·.f)) = true → Waits i s) ∧
    (∀ e, (q.k ≠ 8 → t.headsWait (q.srcs.map (·.f)) = false) →
      t.resolveAll (decide (q.k = 8)) q.srcs [] = .error e ∨
        (∃ rs, t.resolveAll (decide (q.k = 8)) q.srcs [] = .ok rs ∧
          (t.resolveDsts q.dsts = .error e ∨ (∃ ds, t.resolveDsts q.dsts = .ok ds ∧ own s t = .error e))) →
      exec i s = .next (s.finish (.error e))) ∧
    (∀ rs ds, (q.k ≠ 8 → t.headsWait (q.srcs.map (·.f)) = false) → t.resolveAll (decide (q.k = 8)) q.srcs [] = .ok rs →
      t.resolveDsts q.dsts = .ok ds → own s t = .ok () →
      let busy := q.interval (widthUsed q) + crossCycles rs ds
      let due := p + (q.latency + crossCycles rs ds + if q.md = 0 then 0 else 1)
      (q.k = 8 → exec i s = .next (s.occupy id t busy)) ∧
      (q.k ≠ 8 → ∀ vals after, t.readAll (q.srcs.zip rs) = (vals, after) →
        let mask := t.activeMask q.k
        let moved := match vals with
          | (v :: vs) :: rest => (applyMod q.md v :: vs) :: rest
          | vs => vs
        let r := g (XIn.mk t mask (maskBits mask) moved ds)
        let marks := match deadSlices (q.srcs.zip rs) with
          | [] => []
          | ss => [t.effect (.dead ss) mask (p + 1) 0]
        exec i s = .next (s.occupy id
          { after with effects := after.effects ++ marks ++ t.effectsOf due r.flags r.outs } busy)))

/-- A word of one source and one vector result: lane by lane `f`, of the destination's width and the source's lane. -/
def XLane1 (i : XV3 → Instr) (w : XV3) (ta td : Nat) (time : Nat × Nat) (f : Nat → Int → Int × Flags) : Prop :=
  XDoes (i w) (XReq.mk w.k [srcA3 w ta] [Dst.mk w.d td 1] w.md (fun _ => time.1) time.2) (fun _ _ => .ok ())
    (fun x => vecRes td (decide (w.sat = 1)) (x.dst 0) x.mask x.act (mapAct (f (x.dst 0).length) x.act (x.src 0)))

/-- VFCLASS: a class mask into each lane of an unsigned 16-bit destination, and no flag, of its placement neither. -/
def XClass (w : XV3) : Prop :=
  let ty := w.ty.toNat
  XDoes (.vfclass w) (XReq.mk w.k [srcA3 w ty] [Dst.mk w.d 5 1] w.md (fun _ => (timeInt ty).1) (timeInt ty).2)
    (fun _ _ => .ok ()) (fun x => XRes.mk (vecRes 5 (decide (w.sat = 1)) (x.dst 0) x.mask x.act
      (mapAct (fun v => ((classMask (fmtOf ty) v.toNat : Nat), 0)) x.act (x.src 0))).outs 0)

/-- A word of two sources and one vector result. -/
def XLane2 (i : XV3 → Instr) (w : XV3) (ta tb td : Nat) (time : Nat × Nat) (f : Nat → Int → Int → Int × Flags) : Prop :=
  XDoes (i w) (XReq.mk w.k [srcA3 w ta, srcB3 w tb] [Dst.mk w.d td 1] w.md (fun _ => time.1) time.2) (fun _ _ => .ok ())
    (fun x => vecRes td (decide (w.sat = 1)) (x.dst 0) x.mask x.act
      (mapAct2 (f (x.dst 0).length) x.act (x.src 0) (x.src 1)))

/-- A word of three sources and one vector result. -/
def XLane3 (i : XV4 → Instr) (w : XV4) (time : Nat × Nat) (own : State → Task → Try Unit) (f : Int → Int → Int → Int × Flags) :
    Prop :=
  let ty := w.ty.toNat
  XDoes (i w) (XReq.mk w.k [srcA4 w ty, srcB4 w ty, srcC4 w ty] [Dst.mk w.d ty 1] 0 (fun _ => time.1) time.2) own
    (fun x => vecRes ty (decide (w.sat = 1)) (x.dst 0) x.mask x.act
      (mapAct3 f x.act (x.src 0) (x.src 1) (x.src 2)))

/-- A comparison of two sources: the bits of a predicate. -/
def XTest (i : XV3 → Instr) (w : XV3) (f : Int → Int → Int × Flags) : Prop :=
  let ty := w.ty.toNat
  XDoes (i w)
    (XReq.mk w.k [srcA3 w ty, srcB3 w ty] [] w.md (fun _ => (timeInt ty).1) (timeInt ty).2) (fun _ _ => .ok ())
    (fun x =>
      let r := mapAct2 f x.act (x.src 0) (x.src 1)
      XRes.mk [(.pred (w.d.toNat % 8) (bitsMask (r.1.map (fun v => decide (v ≠ 0)))), x.mask)] r.2)

/-- A word of no sources and one vector result. -/
def XMake (i : XI → Instr) (w : XI) (sat : Bool) (latency : Nat) (f : XIn → Lanes × Flags) : Prop :=
  XDoes (i w) (XReq.mk w.k [] [Dst.mk w.d w.ty.toNat 1] 0 widthTime latency) (fun _ _ => .ok ())
    (fun x => vecRes w.ty.toNat sat (x.dst 0) x.mask x.act (f x))

/-- A word of one source and one vector result, of the whole source. -/
def XWhole1 (i : XV3 → Instr) (w : XV3) (ta td : Nat) (sat : Bool) (interval : Nat → Nat) (latency : Nat)
    (f : XIn → Lanes × Flags) : Prop :=
  XDoes (i w) (XReq.mk w.k [srcA3 w ta] [Dst.mk w.d td 1] w.md interval latency) (fun _ _ => .ok ())
    (fun x => vecRes td sat (x.dst 0) x.mask x.act (f x))

/-- A word of two sources and one vector result, of the whole sources. -/
def XWhole2 (i : XV3 → Instr) (w : XV3) (tb : Nat) (interval : Nat → Nat) (latency : Nat) (f : XIn → XRes) : Prop :=
  XDoes (i w) (XReq.mk w.k [srcA3 w w.ty.toNat, srcB3 w tb] [Dst.mk w.d w.ty.toNat 1] w.md interval latency)
    (fun _ _ => .ok ()) f

/-- A predicate word. -/
def XPred (i : XI → Instr) (w : XI) (f : Task → Pred) : Prop :=
  XDoes (i w) (XReq.mk w.k [] [] 0 (fun _ => 1) 2) (fun _ _ => .ok ())
    (fun x => XRes.mk [(.pred (w.d.toNat % 8) (f x.t), x.mask)] 0)

end Sys2Proof.Claims

/-- R197 to R202 (Table 8.3): the integer words of the X stream, for every operand form, predicate and type. -/
def Obligations.XIntegerWords : Prop :=
  ∀ (w : XV3) (v : XV4),
    let ty := w.ty.toNat
    let n := typeBits ty
    let sat := decide (w.sat = 1)
    let place (x : Int) := intResult x ty sat
    let wrap (x : Nat) := intResult (x : Int) ty false
    let pat (x : Int) := intPat n x
    let at1 (i : XV3 → Instr) (f : Int → Int × Flags) := Claims.XLane1 i w ty ty (timeInt ty) (fun _ => f)
    let at2 (i : XV3 → Instr) (f : Int → Int → Int × Flags) := Claims.XLane2 i w ty ty ty (timeInt ty) (fun _ => f)
    let bits2 (i : XV3 → Instr) (f : Nat → Nat → Nat) := at2 i (fun x y => wrap (f (pat x) (pat y)))
    let tv := v.ty.toNat
    let placeV (x : Int) := intResult x tv (decide (v.sat = 1))
    at2 .vadd (fun x y => place (x + y)) ∧
    at2 .vsub (fun x y => place (x - y)) ∧
    Claims.XLane2 .vmul w ty ty ty (timeMul ty) (fun _ x y => place (x * y)) ∧
    Claims.XLane2 .vmulh w ty ty ty (timeMul ty) (fun _ x y => place (x * y / 2 ^ n)) ∧
    Claims.XLane3 .vmad v (timeMul tv) (fun _ _ => .ok ()) (fun x y z => placeV (x * y + z)) ∧
    Claims.XLane3 .vdot4 v (2, 6) (fun _ => dotWidths v)
      (fun x y z => placeV (dotSum 4 8 (v.sgn.getLsbD 1) (v.sgn.getLsbD 0) x y z)) ∧
    Claims.XLane3 .vdot8 v (2, 6) (fun _ => dotWidths v)
      (fun x y z => placeV (dotSum 8 4 (v.sgn.getLsbD 1) (v.sgn.getLsbD 0) x y z)) ∧
    at2 .vmin (fun x y => place (min x y)) ∧
    at2 .vmax (fun x y => place (max x y)) ∧
    at1 .vabs (fun x => place (x.natAbs : Int)) ∧
    Claims.XLane2 .vabsd w ty ty (ty / 2 * 2 + 1) (timeInt ty)
      (fun _ x y => intResult ((x - y).natAbs : Int) (ty / 2 * 2 + 1) sat) ∧
    at1 .vneg (fun x => place (-x)) ∧
    at2 .vavg (fun x y => place (roundRatio (x + y) 1 w.rnd.toNat)) ∧
    at2 .vshl (fun x y => place (x * 2 ^ shiftCount n y)) ∧
    at2 .vshr (fun x y => wrap (pat x / 2 ^ shiftCount n y)) ∧
    at2 .vsra (fun x y => intResult (patInt n true (pat x) / 2 ^ shiftCount n y) ty false) ∧
    Claims.XLane2 .vrsh w ty ty ty (timeInt ty)
      (fun wd x y => satInt (roundRatio x (min 64 (max y 0).toNat) w.rnd.toNat) (min (4 * wd) n) (typeSigned ty)) ∧
    bits2 .vand (fun x y => x &&& y) ∧
    bits2 .vor (fun x y => x ||| y) ∧
    bits2 .vxor (fun x y => x ^^^ y) ∧
    bits2 .vandn (fun x y => x &&& (2 ^ n - 1 - y)) ∧
    at1 .vnot (fun x => wrap (2 ^ n - 1 - pat x)) ∧
    at1 .vpopc (fun x => place (((List.range n).foldl (fun acc i => acc + pat x / 2 ^ i % 2) 0 : Nat) : Int)) ∧
    at1 .vclz (fun x => place ((leadingZeros n (pat x) : Nat) : Int)) ∧
    Claims.XLane3 .vsel v (timeInt tv) (fun _ _ => .ok ()) (fun x y z =>
      let r := if z ≠ 0 then x else y
      if typeFloat tv then (r, 0) else intResult r tv false) ∧
    Claims.XTest .vcmp w (fun x y => (if intCompare w.fn.toNat x y then 1 else 0, 0)) ∧
    Claims.XLane3 .vclamp v (timeInt tv) (fun _ _ => .ok ()) (fun x y z => placeV (min (max x y) z))

/-- R203 to R210 (Tables 8.5 to 8.7): the floating-point words of the X stream. -/
def Obligations.XFloatWords : Prop :=
  ∀ (w : XV3) (v : XV4),
    let ty := w.ty.toNat
    let f := fmtOf ty
    let mode := w.rnd.toNat
    let sel := satsel ty (decide (w.sat = 1))
    let at2 (i : XV3 → Instr) (g : Val → Val → Val × Flags) :=
      Claims.XLane2 i w ty ty ty (timeFloat ty) (fun _ x y => floatBy2 ty w.rnd w.sat g x y)
    let sign (i : XV3 → Instr) (g : Bool → Bool) :=
      Claims.XLane1 i w ty ty (timeInt ty) (fun _ x =>
        if 14 ≤ ty then (ofParts ty (signOp ty g (parts ty x).1) (signOp ty g (parts ty x).2), 0)
        else (signOp ty g x.toNat, 0))
    let tr (i : XV3 → Instr) (g : Fmt → Nat → Bool → Val → Nat × Flags) :=
      Claims.XLane1 i w ty ty (8, 24) (fun _ x =>
        let a := valOf ty x
        match a with
        | .nan sg => ((f.nanCode : Int), flagIf sg flagNV)
        | _ =>
          let r := g f mode sel a
          ((r.1 : Int), r.2))
    let tv := v.ty.toNat
    let fused (i : XV4 → Instr) (np na : Bool) :=
      Claims.XLane3 i v (timeFloat tv) (fun _ _ => .ok ()) (fun x y z =>
        toType tv v.rnd v.sat (fusedVal v.rnd.toNat np na (valOf tv x) (valOf tv y) (valOf tv z)))
    at2 .vfadd (addVal mode) ∧
    at2 .vfsub (fun x y => addVal mode x y.negate) ∧
    at2 .vfmul mulVal ∧
    fused .vfma false false ∧ fused .vfms false true ∧ fused .vfnma true false ∧
    Claims.XLane2 .vfmin w ty ty ty (timeInt ty) (fun _ => minMax ty false) ∧
    Claims.XLane2 .vfmax w ty ty ty (timeInt ty) (fun _ => minMax ty true) ∧
    sign .vfabs (fun _ => false) ∧ sign .vfneg (fun b => !b) ∧
    Claims.XTest .vfcmp w (fun x y =>
      let r := floatCompare w.fn.toNat (valOf ty x) (valOf ty y)
      (if r.1 then 1 else 0, r.2)) ∧
    Claims.XClass w ∧
    tr .vrcp recipVal ∧ tr .vrsq rsqrtVal ∧ tr .vsqrt sqrtVal ∧ tr .vexp2 exp2Val ∧ tr .vlog2 log2Val ∧
    Claims.XLane2 .vdiv w ty ty ty (8, 24) (fun _ x y =>
      let r := divVal f mode sel (valOf ty x) (valOf ty y)
      ((r.1 : Int), r.2)) ∧
    Claims.XLane2 .vfscl w ty 6 ty (timeFloat ty) (fun _ x y => toType ty w.rnd w.sat (scaleVal y (valOf ty x), 0))

/-- R218 to R228, R230 to R233: conversion, quantisation, scale registers, lane movement and complex arithmetic. -/
def Obligations.XConversionAndLaneWords : Prop :=
  ∀ (w : XV3) (v : XV4) (u : XI),
    let ty := w.ty.toNat
    let tf := w.fn.toNat % 16
    let sat := decide (w.sat = 1)
    let tv := v.ty.toNat
    let tc := residueType v.fn
    let tu := u.ty.toNat
    let b := blockSize w.fn
    let lane (x : XIn) := mapAct (moveVal ty w.sat) x.act
    let plain (x : XIn) := mapAct (moveVal ty 0) x.act
    let pair (i : XV3 → Instr) (f : Lanes → Lanes → Lanes × Lanes) :=
      Claims.XDoes (i w) (XReq.mk w.k [srcA3 w ty, srcB3 w ty] [Dst.mk w.d ty 2] w.md (fun n => 2 * widthTime n) 5)
        (fun _ _ => .ok ()) (fun x =>
          (vecRes ty false (x.dst 0 0) x.mask x.act (plain x (f (x.src 0) (x.src 1)).1)).join
            (vecRes ty false (x.dst 0 1) x.mask x.act (plain x (f (x.src 0) (x.src 1)).2)))
    let selects (i : XV3 → Instr) (f : List Bool → Lanes → Lanes → Lanes) :=
      Claims.XWhole2 i w ty (fun _ => 4) 6 (fun x =>
        let all := List.replicate 512 true
        vecRes ty false (x.dst 0) (BitVec.allOnes 512) all (mapAct (moveVal ty 0) all (f x.act (x.src 0) (x.src 1))))
    Claims.XLane1 .vcvt w tf ty (if typeBits ty ≤ 16 then 2 else 4, 8) (fun _ x => convert tf ty w.rnd w.sat x) ∧
    Claims.XDoes (.vcvte v)
      (XReq.mk v.k [srcA4 v 13, srcC4 v tc] [Dst.mk v.d tv 1, Dst.mk v.c tc 1] 0
        (fun _ => if typeBits tv ≤ 16 ∧ typeBits tc ≤ 16 then 2 else 4) 8)
      (fun _ => residueOk v) (fun x =>
        let each := mapAct2 (fun a c =>
          let r := errorFeedback (valOf 13 a) (valOf tc c) tv tc
          ((r.1 : Int) + (r.2.1 : Int) * 2 ^ 64, r.2.2)) x.act (x.src 0) (x.src 1)
        let d := each.1.map (fun y =>
          let p : Nat := y.toNat % 2 ^ 64
          if typeFloat tv then (p : Int) else patInt (typeBits tv) (typeSigned tv) p)
        let c := each.1.map (fun y => ((y.toNat / 2 ^ 64 : Nat) : Int))
        (vecRes tv false (x.dst 0) x.mask x.act (d, each.2)).join (vecRes tc false (x.dst 1) x.mask x.act (c, 0))) ∧
    Claims.XDoes (.vqmx w) (XReq.mk w.k [srcA3 w tf] [Dst.mk w.d ty 1] w.md (fun _ => 4) 12) (fun _ _ => .ok ()) (fun x =>
      let r := ((blocks b (512 / b) x.act).zip (blocks b (512 / b) (x.src 0))).map
        (fun p => quantBlock tf ty w.rnd.toNat p.1 p.2)
      let sc := scaleVals (b / 32) (r.map (·.2.1))
      (vecRes ty false (x.dst 0) x.mask x.act ((r.map (·.1)).flatten, r.foldl (fun a q => a ||| q.2.2) 0)).join
        (XRes.mk [(.scale (w.b.toNat % 64) sc.1 sc.2, 0)] 0)) ∧
    Claims.XWhole1 .vdqmx w tf ty sat (fun _ => if typeBits ty = 16 then 2 else 4) 8 (fun x =>
      let sc : Lanes := (List.range 512).map (fun l => (x.t.scaleValue (w.b.toNat % 64) (l / 32) : Nat))
      mapAct2 (fun c e => toType ty w.rnd w.sat (mxValue (valOf tf c) e.toNat, snanFlag [valOf tf c]))
        x.act (x.src 0) sc) ∧
    Claims.XWhole1 .vamax w ty ty false (fun _ => 4) 8 (fun x =>
      let r := ((blocks b (512 / b) x.act).zip (blocks b (512 / b) (x.src 0))).map
        (fun p => blockMax ty (activeVals p.1 p.2))
      ((r.map (fun q => List.replicate b ((q.1 : Nat) : Int))).flatten, r.foldl (fun a q => a ||| q.2) 0)) ∧
    Claims.XDoes (.eset u) (XReq.mk u.k [srcAI u 3] [] 0 (fun _ => 1) 5) (fun _ _ => .ok ()) (fun x =>
      XRes.mk [(.scale (u.d.toNat % 64) (scaleMask x.mask)
        (scaleOf ((List.range 16).map (fun j => ((x.src 0).getD (32 * j) 0).toNat))), 0)] 0) ∧
    Claims.XDoes (.esetImm u) (XReq.mk u.k [] [] 0 (fun _ => 1) 5) (fun _ _ => .ok ()) (fun x =>
      XRes.mk [(.scale (u.d.toNat % 64) (scaleMask x.mask) (scaleOf (List.replicate 16 (bits u.imm.toNat 8 8))), 0)] 0) ∧
    Claims.XMake .eget u (decide (u.sat = 1)) 5
      (fun x => ((List.range 512).map (fun l => (x.t.scaleValue (u.a.toNat % 64) (l / 32) : Nat)), 0)) ∧
    Claims.XWhole1 .vmov w ty ty sat widthTime 5 (fun x => lane x (x.src 0)) ∧
    Claims.XMake .vmovi u false 5 (fun _ =>
      let p := u.imm.toNat % 2 ^ typeBits tu
      (List.replicate 512 (if typeFloat tu then (p : Int) else patInt (typeBits tu) (typeSigned tu) p), 0)) ∧
    Claims.XWhole2 .vperm w 5 (fun _ => 4) 6 (fun x => vecRes ty sat (x.dst 0) x.mask x.act
      (mapAct (fun j => moveVal ty w.sat (laneAt (x.src 0) j)) x.act (x.src 1))) ∧
    Claims.XWhole2 .vbcst w 5 widthTime 5 (fun x => vecRes ty sat (x.dst 0) x.mask x.act
      (lane x (List.replicate 512 (laneAt (x.src 0) ((x.src 1).getD 0 0))))) ∧
    Claims.XDoes (.vlsh u) (XReq.mk u.k [srcAI u tu] [Dst.mk u.d tu 1] 0 widthTime 5) (fun _ _ => .ok ()) (fun x =>
      vecRes tu false (x.dst 0) x.mask x.act (mapAct (moveVal tu 0) x.act
        ((List.range 512).map (fun (l : Nat) => laneAt (x.src 0) ((l : Int) - signed 32 u.imm.toNat))))) ∧
    pair .vzip (fun x y => (interleave (x.take 256) (y.take 256), interleave (x.drop 256) (y.drop 256))) ∧
    pair .vunzip (fun x y => (evens (x ++ y), evens ((x ++ y).drop 1))) ∧
    selects .vpack (fun act x y => activeVals act x ++ y.drop (activeVals act x).length) ∧
    selects .vunpk expandLanes ∧
    Claims.XLane2 .vcmul w ty ty ty (if ty = 14 then 4 else 8, 9) (fun _ x y =>
      cpxRound ty w.rnd w.sat (mulRe false (cpxOf ty x) (cpxOf ty y)) (mulIm false (cpxOf ty x) (cpxOf ty y))) ∧
    Claims.XLane3 .vcmac v (if tv = 14 then 4 else 8, 9) (fun _ _ => .ok ()) (fun x y z =>
      cpxRound tv v.rnd v.sat (mulRe false (cpxOf tv x) (cpxOf tv y) ++ [single false (cpxOf tv z).re])
        (mulIm false (cpxOf tv x) (cpxOf tv y) ++ [single false (cpxOf tv z).im])) ∧
    Claims.XDoes (.vbf2 v)
      (XReq.mk v.k [srcA4 v tv, srcB4 v tv, srcC4 v tv] [Dst.mk v.d tv 2] 0 (fun _ => 8) 12) (fun _ _ => .ok ()) (fun x =>
        let half (neg : Bool) (a y c : Int) : Int × Flags :=
          cpxRound tv v.rnd v.sat (single false (cpxOf tv a).re :: mulRe neg (cpxOf tv c) (cpxOf tv y))
            (single false (cpxOf tv a).im :: mulIm neg (cpxOf tv c) (cpxOf tv y))
        (vecRes tv false (x.dst 0 0) x.mask x.act (mapAct3 (half false) x.act (x.src 0) (x.src 1) (x.src 2))).join
          (vecRes tv false (x.dst 0 1) x.mask x.act (mapAct3 (half true) x.act (x.src 0) (x.src 1) (x.src 2)))) ∧
    Claims.XDoes (.vbf4 v)
      (XReq.mk v.k [{ srcA4 v tv with group := 4 }, { srcB4 v tv with group := 3 }] [Dst.mk v.d tv 4] 0
        (fun _ => if tv = 14 then 8 else 16) 12)
      (fun _ _ => .ok ()) (fun x =>
        let out (k : Nat) : XRes := vecRes tv false (x.dst 0 k) x.mask x.act
          (butterflyLanes (butterfly4 tv v.rnd v.sat (decide (v.c.toNat / 16 = 8129)) k) x.act
            (transposeLanes (x.srcs.getD 0 [])) (transposeLanes (x.srcs.getD 1 [])))
        (((out 0).join (out 1)).join (out 2)).join (out 3)) ∧
    Claims.XDoes (.vtwg u) (XReq.mk u.k [srcAI u 7] [Dst.mk u.d tu 1] 0 (fun _ => 8) 20) (fun _ _ => .ok ()) (fun x =>
      vecRes tu false (x.dst 0) x.mask x.act (mapAct (fun a =>
        let n := bits u.imm.toNat 0 5
        let r := twiddle (fmtOf tu) u.rnd.toNat n (a.toNat % 2 ^ n) (u.imm.getLsbD 5)
        (ofParts tu r.1.1 r.2.1, r.1.2 ||| r.2.2)) x.act (x.src 0)))

/-- R235 to R241, R253, R254: reductions, scans, predicate words, VDEAD and VPUSH. That KMOV.FROMV with a constant source takes its
interval and its latency as R234 gives them for a source of the type's width is the model's choice (log entry 142). -/
def Obligations.XReductionAndPredicateWords : Prop :=
  ∀ (w : XV3) (u : XI),
    let ty := w.ty.toNat
    let op := w.fn.toNat
    let sat := decide (w.sat = 1)
    let tu := u.ty.toNat
    let all := List.replicate 512 true
    let ka (t : Task) := let p := t.pred (u.a.toNat % 8)
      if u.imm.getLsbD 4 then ~~~p else p
    let kb (t : Task) := let p := t.pred (bits u.imm.toNat 0 3)
      if u.imm.getLsbD 3 then ~~~p else p
    let n := bits u.imm.toNat 0 10
    let reduces (i : XV3 → Instr) (time : Nat × Nat) (f : List Bool → Lanes → Lanes × Flags) :=
      Claims.XDoes (i w) (XReq.mk w.k [srcA3 w ty] [Dst.mk w.d ty 1] w.md (fun _ => time.1) time.2) (fun _ _ => .ok ())
        (fun x => vecRes ty sat (x.dst 0) (BitVec.allOnes 512) all (f x.act (x.src 0)))
    reduces .vred (4, 14) (fun act x =>
      let r := treeReduce (combine ty op w.rnd sat) 9 (presentLanes act x)
      let v := reduceVal ty op sat (r.1.getD (identityVal ty op))
      (List.replicate 512 v.1, r.2 ||| v.2)) ∧
    reduces .vscan (4, 14) (fun act x =>
      let r := scanLevels (combine ty op w.rnd sat) 9 0 (presentLanes act x)
      let v := mapAct (reduceVal ty op sat) all (r.1.map (fun c => c.getD (identityVal ty op)))
      (v.1, r.2 ||| v.2)) ∧
    reduces .vrsum (8, 30) (fun act x =>
      let r := wideSum ((activeVals act x).map (valOf ty)) (fmtOf ty) w.rnd.toNat
      (List.replicate 512 ((r.1 : Nat) : Int), r.2)) ∧
    Claims.XPred .kand u (fun t => ka t &&& kb t) ∧
    Claims.XPred .kor u (fun t => ka t ||| kb t) ∧
    Claims.XPred .kxor u (fun t => ka t ^^^ kb t) ∧
    Claims.XPred .knot u (fun t => ~~~(t.pred (u.a.toNat % 8))) ∧
    Claims.XPred .kmov u (fun t => t.pred (u.a.toNat % 8)) ∧
    Claims.XPred .ksetLt u (fun _ => bitsMask ((List.range 512).map (fun l => decide (l < n)))) ∧
    Claims.XPred .ksetGe u (fun _ => bitsMask ((List.range 512).map (fun l => decide (n ≤ l)))) ∧
    Claims.XPred .ksetMod u
      (fun _ => bitsMask ((List.range 512).map (fun l => decide (l % 2 ^ bits u.imm.toNat 10 4 < n)))) ∧
    Claims.XDoes (.kmovFromv u) (XReq.mk u.k [srcAI u tu] [] 0 widthTime 3) (fun _ _ => .ok ())
      (fun x => XRes.mk [(.pred (u.d.toNat % 8) (bitsMask ((x.src 0).map (fun v => decide (v ≠ 0)))), x.mask)] 0) ∧
    Claims.XMake .kmovTov u (decide (u.sat = 1)) 3 (fun x =>
      let one : Int := if typeSigned tu then -1 else intMax (typeBits tu) false
      ((maskBits (x.t.pred (u.a.toNat % 8))).map (fun b => if b then one else 0), 0)) ∧
    Claims.XDoes (.vpush u) (XReq.mk u.k [srcAI u tu] [] 0 (fun _ => 1) 5)
      (fun s t =>
        if u.k = 8 ∨ t.aqCount (bits u.imm.toNat 9 2) (s.cyc t.core) < 8 then .ok () else .error (.trap .queueProtocol 0))
      (fun x => XRes.mk [(.aq (bits u.imm.toNat 9 2) (word ((x.src 0).getD (bits u.imm.toNat 0 9) 0)), 0)] 0) ∧
    (∀ (s : State) (id : Nat) (t0 : Task), Claims.OnX s id t0 →
      let t := t0.settleRotation
      let start := bits u.imm.toNat 0 13
      let count := bits u.imm.toNat 13 13
      let ss := t.named start count
      let inside : Prop := start + count ≤ t.winSize ∧ ∀ x ∈ ss, x < t.winSize
      (inside → u.k = 8 → exec (.vdead u) s = .next (s.occupy id t 1)) ∧
      (inside → u.k ≠ 8 → exec (.vdead u) s = .next (s.occupy id
        { t with effects := t.effects ++ [t.effect (.dead ss) (BitVec.allOnes 512) (s.cyc t0.core + 1) 0] } 1)) ∧
      (¬inside → Claims.Traps (.vdead u) s .sliceRange 0))

namespace Sys2Proof.Claims

/-- R243: the count a loop word takes, from its field, the head of a queue of A values, or a loop counter. -/
def Counted (t : Task) (w : XC) (field n : Nat) : Prop :=
  (w.csrc = 0 ∧ n = field) ∨
  (w.csrc = 1 ∧ ∃ v wd, t.headAt (Head.mk true w.q.toNat false) 0 = .here v wd ∧ n = (v.vals.headD 0).toNat % 2 ^ 32) ∨
  (w.csrc ≠ 0 ∧ w.csrc ≠ 1 ∧ n = (t.lc.get 0 (field % 4)).toNat)

/-- R243: the word may open its level: its counter is the next one, and its last word lies in the span. -/
def MayOpen (t : Task) (w : XC) : Prop :=
  w.lc.toNat = t.loops.length ∧ 3 ≤ w.off.toInt ∧ w.off.toInt % 3 = 0 ∧
    (t.sx.offset t.sx.pc : Int) + w.off.toInt < 2 + 3 * t.sx.len

/-- R80, R245: what a branch of the X stream does, from the task `u`: not taken, it goes on after one cycle; taken, it holds
the engine for three, goes to its target, and closes the levels whose bodies do not hold the target. -/
def XGoes (i : Instr) (s : State) (id : Nat) (u : Task) (p : Parcel) (taken : Prop) : Prop :=
  (¬taken → exec i s = .next (s.occupy id u 1)) ∧
  (taken → u.sx.inSpan p = true → u.sx.wordStart p = true → exec i s = .next (s.takeEngine id
    { u with sx := { u.sx with pc := p }, loops := keepHolding u.sx p (dropEnding u.sx.pc u.loops) } 3)) ∧
  (taken → u.sx.inSpan p = true → u.sx.wordStart p = false → Traps i s .sectionFormat 0) ∧
  (taken → u.sx.inSpan p = false →
    exec i s = .next (s.takeEngine id { u with sx := u.sx.leave p, loops := [] } 3))

/-- The words of the X stream whose results land: every one but loops, branches and XFIN. -/
def isVectorWord : Instr → Bool
  | .vadd _ | .vsub _ | .vmul _ | .vmulh _ | .vmad _ | .vdot4 _ | .vdot8 _ | .vmin _ | .vmax _ | .vabs _ | .vabsd _
  | .vneg _ | .vavg _ | .vshl _ | .vshr _ | .vsra _ | .vrsh _ | .vand _ | .vor _ | .vxor _ | .vandn _ | .vnot _
  | .vpopc _ | .vclz _ | .vsel _ | .vcmp _ | .vclamp _ | .vfadd _ | .vfsub _ | .vfmul _ | .vfma _ | .vfms _
  | .vfnma _ | .vfmin _ | .vfmax _ | .vfabs _ | .vfneg _ | .vfcmp _ | .vfclass _ | .vrcp _ | .vrsq _ | .vsqrt _
  | .vdiv _ | .vexp2 _ | .vlog2 _ | .vfscl _ | .vcvt _ | .vcvte _ | .vqmx _ | .vdqmx _ | .vamax _ | .eset _
  | .esetImm _ | .eget _ | .vperm _ | .vbcst _ | .vzip _ | .vunzip _ | .vpack _ | .vunpk _ | .vlsh _ | .vmov _
  | .vmovi _ | .vbf2 _ | .vbf4 _ | .vtwg _ | .vcmul _ | .vcmac _ | .vred _ | .vscan _ | .vrsum _ | .kand _ | .kor _
  | .kxor _ | .knot _ | .ksetLt _ | .ksetGe _ | .ksetMod _ | .kmov _ | .kmovFromv _ | .kmovTov _ | .vdead _
  | .vpush _ => true
  | _ => false

/-- Nibble `l` of a slice: lane `l`. -/
def nibble (v : Slice) (l : Nat) : Nat := v.toNat / 2 ^ (4 * l) % 16

end Sys2Proof.Claims

/-- R243 to R247, R251, R252, R117: the loops, branches and the end of the X stream. That a LOOP or LOOPR which is itself the last
word of an open level only opens its own, no iteration of the outer level ending there, is the model's choice (log entry 141). So are
that a LOOPR of count 0 leaves its loop counter (35), and that a nested LOOPR is judged before its form (169). -/
def Obligations.XLoopsAndBranches : Prop :=
  ∀ (w : XC) (s : State) (id : Nat) (t0 : Task), Claims.OnX s id t0 →
    let t := t0.settleRotation
    let first := t.sx.pc + 3
    let last := t.sx.pc + w.off.signExtend 50
    let jump (i : Instr) (u : Task) (taken : Prop) := Claims.XGoes i s id u last taken
    let popped := if w.csrc = 1 then t.popHead (Head.mk true w.q.toNat false) else t
    (∀ n, Claims.MayOpen t w → Claims.Counted t w w.count.toNat n →
      (n = 0 → exec (.loop w) s = .next (s.takeEngine id ({ popped with lc := popped.lc.set 0 w.lc.toNat 0 }.skipBody w) 1)) ∧
      (n ≠ 0 → exec (.loop w) s = .next (s.takeEngine id { popped with
        lc := popped.lc.set 0 w.lc.toNat (BitVec.ofNat 32 n)
        loops := Loop.mk first last false 0 0 0 :: popped.loops
        sx := { popped.sx with pc := first } } 1))) ∧
    (∀ n, Claims.MayOpen t w → t.rotating = false → Claims.Counted t w (bits w.count.toNat 0 22) n → n < 2 ^ 22 →
      t.csr.rotBase.toNat + t.csr.rotSize.toNat ≤ t.winSize →
      (t.csr.rotSize = 0 ∨ bits w.count.toNat 24 8 < t.csr.rotSize.toNat) →
      (n = 0 → exec (.loopr w) s = .next (s.takeEngine id (popped.skipBody w) 1)) ∧
      (n ≠ 0 →
        let stages := bits w.count.toNat 22 2 + 1
        let v : Task := { popped with
          lc := popped.lc.set 0 w.lc.toNat (BitVec.ofNat 32 (n + stages - 1))
          loops := Loop.mk first last true stages n (bits w.count.toNat 24 8) :: popped.loops
          sx := { popped.sx with pc := first } }
        exec (.loopr w) s = .next (s.takeEngine id
          ((((v.setPred 4 (BitVec.allOnes 512)).setPred 5 0).setPred 6 0).setPred 7 0) 1))) ∧
    (t.rotating = true → w.csrc ≠ 1 → Claims.Traps (.loopr w) s .queueProtocol 0) ∧
    (w.lc.toNat ≠ t.loops.length → w.csrc ≠ 1 → Claims.Traps (.loop w) s .queueProtocol 0) ∧
    (t.bq = [] → t.aOver = false → Claims.Waits (.xb w) s) ∧
    (t.bq = [] → t.aOver = true → Claims.Traps (.xb w) s .queueProtocol 0) ∧
    (∀ b rest, t.bq = b :: rest → jump (.xb w) { t with bq := rest } (if w.fn = 1 then b = false else b = true)) ∧
    jump (.xbk w) t
      (if w.fn = 0 then t.activeMask w.k ≠ 0 else if w.fn = 1 then t.activeMask w.k = BitVec.allOnes 512
        else t.activeMask w.k = 0) ∧
    jump (.xj w) t True ∧
    exec (.xfin w) s = .next (s.takeEngine id { t with sx := t.sx.finish, loops := [] } 1)

namespace Sys2Proof.Claims

/-- R21, R23, R48: how a vector result lands. A lane in the mask takes its new nibble; any other keeps its own where the slice
was alive, and holds zero where it was dead; the slices named are alive after, and no other slice changes. -/
def VectorLanding : Prop :=
  ∀ (t : Task) (mask : Pred) (ss : List Nat) (vals : List Slice), ss.Nodup → ss.length = vals.length →
    let u := t.applyDest mask (.slices ss vals)
    (∀ (j : Nat) (hj : j < ss.length) (hv : j < vals.length),
      u.alive ss[j] = true ∧ ∀ l < 512, Claims.nibble (u.slice ss[j]) l =
        if mask.getLsbD l then Claims.nibble vals[j] l
        else if t.alive ss[j] then Claims.nibble (t.slice ss[j]) l else 0) ∧
    (∀ x, x ∉ ss → u.slice x = t.slice x ∧ u.alive x = t.alive x)

/-- R17, R25: lane patterns cut into slices read back as they were, as many bits as the slices hold; and the lane functions
work lane by lane, inactive lanes giving zero. -/
def LanesAndSlices : Prop :=
  (∀ (vs : List Nat) (w l : Nat), vs.length = 512 → l < 512 →
    (unpackSlices ((List.range w).map (packSlice vs))).getD l 0 = vs.getD l 0 % 16 ^ w) ∧
  (∀ (f : Int → Int → Int × Flags) (act : List Bool) (a b : Lanes) (l : Nat),
    act.length = 512 → a.length = 512 → b.length = 512 → l < 512 →
    (mapAct2 f act a b).1.getD l 0 = if act.getD l false then (f (a.getD l 0) (b.getD l 0)).1 else 0) ∧
  (∀ (f : Int → Int → Int × Flags) (act : List Bool) (a b : Lanes) (i : Nat),
    act.length = 512 → a.length = 512 → b.length = 512 → i < 6 →
    ((mapAct2 f act a b).2.getLsbD i = true ↔
      ∃ l < 512, act.getD l false = true ∧ (f (a.getD l 0) (b.getD l 0)).2.getLsbD i = true))

end Sys2Proof.Claims

/-- R17, R21, R23, R25, R48: how a vector result lands in slices, and how lanes lie in them. -/
def Obligations.LandingAndLanes : Prop := Claims.VectorLanding ∧ Claims.LanesAndSlices

/-- R196, R21: a word of the X stream that traps nowhere writes no memory, no A register, no slice, no scale register and no
other task; without a rotation due it writes no predicate either: its results land later. -/
def Obligations.VectorWordFrame : Prop :=
  ∀ (i : Instr) (s s' : State) (id : Nat) (t t' : Task), Claims.isVectorWord i = true → s.cur = .task id .x →
    s.task? id = some t → exec i s = .next s' → s'.task? id = some t' → s'.records = s.records → t'.handler = t.handler →
    s'.mem = s.mem ∧ s'.rub = s.rub ∧ (∀ j, j ≠ id → s'.task? j = s.task? j) ∧
    t'.regs = t.regs ∧ t'.slices = t.slices ∧ t'.scales = t.scales ∧
    (t.rotPending = false → t'.preds = t.preds)

namespace Sys2Proof.Claims

/-- A task's M stream executes. -/
structure OnM (s : State) (id : Nat) (t : Task) : Prop where
  cur : s.cur = .task id .m
  there : s.task? id = some t

/-- The word completes, leaving the task as `t'`. -/
def MPuts (i : Instr) (s : State) (id : Nat) (t' : Task) : Prop := exec i s = .next (s.setTask id t')

/-- R261, R268, R277: an array command `i` of the word `w` enters the command list with the coordinates it captures, and
completes there; it waits for room; without a lease of its tiles it traps with LEASE_VIOLATION. The first form is a word
by itself, the second the repetition of one by MREP, which steps a coordinate and the tile.
The command sees memory as the array then does, and what the earlier commands of its matrix streams have written (R262, R322). -/
def Queues (mk : MC → Instr) (w : MC) : Prop :=
  ∀ (s : State) (id : Nat) (t : Task), OnM s id t →
    let tiles := commandTiles (mk { w with acc := w.acc + t.tileStep })
    let held : Prop := t.lease ≠ 0 ∧ ∀ x ∈ tiles, t.lease.getLsbD x = true
    let entry : Cmd := {
      word := mk { w with acc := w.acc + t.tileStep }, ca := t.coord w.ca, cb := t.coord w.cb, ct := t.coord w.ct,
      pc := t.sm.pc, sec := t.sm.sec, row := 0, started := false, faulted := false, flags := 0, serial := t.nextSerial }
    let u : Task := { t with cmds := t.cmds ++ [entry], nextSerial := t.nextSerial + 1 }
    let puts (t' : Task) : Prop :=
      exec (mk w) s = .next ((s.setTask id t').ordered (fun o => o.issueCommand id t.nextSerial entry.matrices))
    (held → t.cmds.length < 32 → t.mrep = none → puts { u with sm := t.sm.advance }) ∧
    (∀ r, held → t.cmds.length < 32 → t.mrep = some r →
      let moved := u.coords.set 0 r.creg.toNat (t.coord r.creg + r.imm.extractLsb' 0 32)
      (r.left ≤ 1 → puts { u with coords := moved, mrep := none, sm := t.sm.advance }) ∧
      (1 < r.left → puts { u with coords := moved, mrep := some { r with left := r.left - 1 } })) ∧
    (held → 32 ≤ t.cmds.length → Waits (mk w) s) ∧
    (¬held → Traps (mk w) s .leaseViolation 0)

/-- R261, R268, R277: the nine array commands enter the command list. -/
def ArrayCommands : Prop :=
  ∀ w : MC,
    Claims.Queues .mma w ∧ Claims.Queues .mmaz w ∧ Claims.Queues .mmb w ∧ Claims.Queues .mmi w ∧ Claims.Queues .mclr w ∧
    Claims.Queues .mld w ∧ Claims.Queues .mst w ∧ Claims.Queues .madd w ∧ Claims.Queues .mscl w

/-- R256, R257, R268, R276 to R279: the other words of the M stream. -/
def MatrixStreamWords : Prop :=
  ∀ (w : MS) (s : State) (id : Nat) (t : Task), Claims.OnM s id t →
    let mask := w.imm.extractLsb' 0 8
    let cluster := clusterOf t.core
    let next := t.sm.advance
    let delta := w.imm.extractLsb' 0 32
    let count := bits w.imm.toNat 32 16
    (t.leaseWait = none → t.lease ≠ 0 → Claims.Traps (.lease w) s .leaseViolation 0) ∧
    (t.leaseWait = none → t.lease = 0 → s.leaseFree cluster t.prio mask (s.leaseRequests cluster) = true →
      Claims.MPuts (.lease w) s id { t with lease := mask, sm := next }) ∧
    (t.leaseWait = none → t.lease = 0 → s.leaseFree cluster t.prio mask (s.leaseRequests cluster) = false →
      exec (.lease w) s = .next
        ({ s.setTask id { t with leaseWait := some mask } with leaseOrder := s.leaseOrder ++ [(cluster, id, s.tsc)] }).held) ∧
    (t.leaseWait ≠ none → t.lease ≠ 0 → Claims.MPuts (.lease w) s id { t with leaseWait := none, sm := next }) ∧
    (t.leaseWait ≠ none → t.lease = 0 → Claims.Waits (.lease w) s) ∧
    (t.lease = 0 ∨ t.cmds = [] → Claims.MPuts (.lfree w) s id { t with lease := 0, sm := next }) ∧
    (t.lease ≠ 0 → t.cmds ≠ [] → Claims.Waits (.lfree w) s) ∧
    Claims.MPuts (.mset w) s id { t with coords := t.coords.set 0 w.creg.toNat delta, sm := next } ∧
    Claims.MPuts (.minc w) s id { t with coords := t.coords.set 0 w.creg.toNat (t.coord w.creg + delta), sm := next } ∧
    ((∀ c ∈ t.cmds, c.streams &&& mask = 0) → exec (.mfence w) s = .next ((s.setTask id { t with sm := next }).ordered
      (fun o => o.show [.array id] (o.ofMatrices id ((List.range 8).filter (fun m => mask.getLsbD m)))))) ∧
    ((∃ c ∈ t.cmds, c.streams &&& mask ≠ 0) → Claims.Waits (.mfence w) s) ∧
    (t.cmds.length < 32 → Claims.MPuts (.mbarv w) s id
      { t with cmds := t.cmds ++ [t.newCmd (.mbarv w) 0 0 0], nextSerial := t.nextSerial + 1, sm := next }) ∧
    (32 ≤ t.cmds.length → Claims.Waits (.mbarv w) s) ∧
    Claims.MPuts (.mfin w) s id { t with sm := t.sm.finish } ∧
    Claims.MPuts (.mnop w) s id { t with sm := next } ∧
    (t.sm.pc + 3 = t.sm.spanEnd → Claims.Traps (.mrep w) s .sectionFormat 0) ∧
    (∀ bs i, t.sm.pc + 3 ≠ t.sm.spanEnd → s.fetch id t.core t.asid 2 (t.sm.pc + 3) 12 = .ok bs →
      (opcode (bytesWord bs) < 3 ∨ 0x0B < opcode (bytesWord bs) → Claims.Traps (.mrep w) s .reservedField 0) ∧
      (3 ≤ opcode (bytesWord bs) → opcode (bytesWord bs) ≤ 0x0B → decode .m (bytesWord bs) = .ok i →
        (count = 0 → Claims.MPuts (.mrep w) s id { t with sm := next.advance }) ∧
        (count ≠ 0 → t.lease = 0xFF → Claims.MPuts (.mrep w) s id
          { t with sm := next, mrep := some (Mrep.mk count w.creg w.imm) })))

end Sys2Proof.Claims

/-- R256, R257, R261, R268, R276 to R279: the words of the M stream. That MREP with count 0 still asks for an array command after it
is the model's reading of R277 (log entry 70). -/
def Obligations.MatrixWords : Prop := Claims.ArrayCommands ∧ Claims.MatrixStreamWords

namespace Sys2Proof.Claims

/-- A unit of a command on sound tiles completes: the tile word at (m, n) of the command's tile is then `f m n` where `p m` holds; no other
tile word of any cluster changes; and of the flags only NV and OF are raised (R73). -/
def TileGets (s : State) (v : View) (t : Task) (c : Cmd) (w : MC) (gs : List Glyph) (r : Nat) (p : Nat → Prop)
    (f : Nat → Nat → BitVec 32) : Prop :=
  let k := clusterOf t.core
  s.tiles.wf 0 = true → s.badTiles = [] →
  ∃ s' fl, s.commandUnit v t c gs r = .ok (s', fl) ∧ fl &&& 0b111010#6 = 0 ∧
    (∀ m n, m < 256 → n < 512 → p m → s'.tile k w.acc.toNat m n = f m n) ∧
    (∀ k' tile m n, tile < 8 → m < 256 → n < 512 → (k', tile) ≠ (k, w.acc.toNat) ∨ ¬p m →
      s'.tile k' tile m n = s.tile k' tile m n) ∧
    s'.mem = s.mem ∧ s'.tasks = s.tasks

/-- The FP32 sum of two FP32 patterns, rounded to nearest even, unsaturated. -/
def sum32 (x y : BitVec 32) : BitVec 32 :=
  BitVec.ofNat 32 (roundVal fF32 0 false (addVal 0 (fF32.value x.toNat) (fF32.value y.toNat)).1).1

/-- R255, R265, R273: MCLR, MADD and MSCL, row by row. -/
def RowResults : Prop :=
  ∀ (s : State) (v : View) (t : Task) (c : Cmd) (w : MC) (r : Nat), r < 256 →
    let tile (n m : Nat) := s.tile (clusterOf t.core) n m
    (c.word = .mclr w → TileGets s v t c w [] r (fun m => m = r) (fun _ _ => 0)) ∧
    (c.word = .madd w → TileGets s v t c w [] r (fun m => m = r) (fun m n =>
      let x := tile w.acc.toNat m n
      let y := tile (w.cfn.toNat % 8) m n
      if w.cfn.getLsbD 3 then x + y else sum32 x y)) ∧
    (c.word = .mscl w → TileGets s v t c w [] r (fun m => m = r) (fun m n =>
      BitVec.ofNat 32 (roundVal fF32 w.mrnd.toNat (decide (w.msat = 1))
        (mulVal (fF32.value (tile w.acc.toNat m n).toNat) (fF32.value c.ct.toNat)).1).1))

/-- R71 to R73, R269, R271, R272: MMA, MMAZ, MMB and MMI, chunk `j` of K, of 64 values or of 128 where both types have four bits. `ea` and
`eb` are the elements of the two glyphs, each with its scale. A floating-point chunk sum is exact, rounded once to FP32, and then added;
an integer one wraps at 32 bits. The first chunk of MMAZ, and of MMI with cfn bit 0, starts from zero. -/
def MultiplyResults : Prop :=
  ∀ (s : State) (v : View) (t : Task) (c : Cmd) (w : MC) (ga gb : Glyph) (j : Nat) (ea eb : Nat → Nat → Nat × Nat),
    let size := if typeBits ga.ty = 4 ∧ typeBits gb.ty = 4 then 128 else 64
    let ks := (List.range (min size (w.kk.toNat - size * j))).map (fun i => size * j + i)
    (∀ m < 256, ∀ i ∈ ks, s.matrixElem v ga (opA c w m i).1 (opA c w m i).2 = .ok (ea m i)) →
    (∀ n < 512, ∀ i ∈ ks, s.matrixElem v gb (opB c w i n).1 (opB c w i n).2 = .ok (eb n i)) →
    let tile (m n : Nat) := s.tile (clusterOf t.core) w.acc.toNat m n
    let chunk (m n : Nat) := BitVec.ofNat 32 (componentRound
      (ks.map (fun i => prod false (elemVal ga (ea m i)) (elemVal gb (eb n i)))) fF32 0 false).1
    let whole (m n : Nat) : Int := (ks.map (fun i => elemInt ga (ea m i) * elemInt gb (eb n i))).foldl (· + ·) 0
    (c.word = .mma w ∨ c.word = .mmb w → TileGets s v t c w [ga, gb] j (fun _ => True) (fun m n => sum32 (tile m n) (chunk m n))) ∧
    (c.word = .mmaz w → TileGets s v t c w [ga, gb] j (fun _ => True) (fun m n =>
      sum32 (if j = 0 then 0 else tile m n) (chunk m n))) ∧
    (c.word = .mmi w → TileGets s v t c w [ga, gb] j (fun _ => True) (fun m n =>
      (if j = 0 ∧ w.cfn.getLsbD 0 = true then 0 else tile m n) + BitVec.ofInt 32 (whole m n)))

/-- R274: MLD, row by row: FP16 and BF16 elements are converted to FP32, any other element is the tile word's low bits. -/
def LoadResults : Prop :=
  ∀ (s : State) (v : View) (t : Task) (c : Cmd) (w : MC) (g : Glyph) (r : Nat) (e : Nat → Nat × Nat), r < 256 → c.word = .mld w →
    (∀ n < 512, s.matrixElem v g (tileCoords c w r n).1 (tileCoords c w r n).2 = .ok (e n)) →
    TileGets s v t c w [g] r (fun m => m = r) (fun _ n =>
      if g.ty = 11 ∨ g.ty = 12 then BitVec.ofNat 32 (roundVal fF32 0 false ((fmtOf g.ty).value (e n).1)).1
      else BitVec.ofNat 32 (e n).1)

/-- R275: MST, row by row, to a glyph without scales: every element of the row in the range of the glyph takes its tile word, converted
as `cfn` says, all checked before any is written; and to a glyph with scales, a block of it: the elements in range are quantised
together, their codes written, and their scale. -/
def StoreResults : Prop :=
  ∀ (s : State) (v : View) (t : Task) (c : Cmd) (w : MC) (g : Glyph),
    (∀ r, c.word = .mst w → g.mx = 0 → s.badTiles = [] →
      let rnd := w.mrnd.toNat
      let sat := decide (w.msat = 1)
      let wide := typeBits g.ty
      let stored (x : BitVec 32) : Nat :=
        match w.cfn.getLsbD 0, typeFloat g.ty with
        | false, true => (roundVal (fmtOf g.ty) rnd (satsel g.ty sat) (fF32.value x.toNat)).1
        | false, false => intPat wide (floatToInt g.ty rnd (fF32.value x.toNat)).1
        | true, true => (roundVal (fmtOf g.ty) rnd (satsel g.ty sat) (.fin (Exact.ofInt x.toInt))).1
        | true, false => intPat wide (intResult x.toInt g.ty sat).1
      let cells := ((List.range 512).filter (fun n => g.inRange (tileCoords c w r n))).map (fun n =>
        (g.offset [(tileCoords c w r n).1, (tileCoords c w r n).2, 0, 0, 0], stored (s.tile (clusterOf t.core) w.acc.toNat r n)))
      ∀ u, s.writeTogether v g 0 cells = .ok u → ∃ fl, s.commandUnit v t c [g] r = .ok (u, fl) ∧ fl &&& 0b111010#6 = 0) ∧
    (∀ (rnd : Nat) (e : (Int × Int) × BitVec 32) (es : List ((Int × Int) × BitVec 32)) (ps : List (Nat × Nat)) (a b : State),
      (∀ x ∈ e :: es, g.inRange x.1 = true) →
      let q := quantiseMX ((e :: es).map (fun x => fF32.value x.2.toNat)) g.ty rnd
      let at_ := g.scaleAt [e.1.1, e.1.2, 0, 0, 0]
      s.check v .write at_ 1 = .ok ps → s.putElems v g (((e :: es).map (·.1)).zip q.2.1) = .ok a →
      a.viewWrite v at_ [BitVec.ofNat 8 q.1] = .ok b →
      ∃ fl, s.mstBlock v g rnd (e :: es) = .ok (b, fl) ∧ fl &&& 0b111010#6 = 0)

end Sys2Proof.Claims

/-- R71 to R73, R255, R265, R269, R271 to R275: what the commands of the array leave in their tiles, and what MST writes, unit by
unit. That NV of R71 is raised whenever both infinities are in the sum is the model's reading (log entry 147). -/
def Obligations.TileResults : Prop :=
  Claims.RowResults ∧ Claims.MultiplyResults ∧ Claims.LoadResults ∧ Claims.StoreResults

namespace Sys2Proof.Claims

/-- R21, R138, R141, R254, R353, R367, R370: a landing, a replay, an arrival or a return that is due takes place, on the task the
step names; the vector of an LDX that had not arrived when its context was squashed is read again. -/
def TaskLandings : Prop :=
  ∀ (s : State) (t : Task), s.task? s.arg.x = some t →
    let id := s.arg.x
    let now := s.cyc t.core
    (∀ e u, t.nextLanding now = some (e, u) →
      (e.push? = none → e.replay = false → exec .xLanding s = .next (s.setTask id (u.land e))) ∧
      (e.push? = none → e.replay = true → exec .pendingWriteReplay s = .next (s.setTask id (u.land e))) ∧
      (e.push? ≠ none → exec .vpushArrival s = .next (s.setTask id (u.land e)))) ∧
    (∀ l, t.loads[s.arg.z]? = some l → l.returned = false → l.tag = none →
      (∀ n, l.dst = .reg n → s.arg.y ≠ 1 →
        (l.bad = false → n ≠ 0 → exec .loadReturn s = .next ((s.measureLoad t.core l).setTask id
          { t with regs := t.regs.set 0 n l.val, loads := t.loads.eraseIdx s.arg.z })) ∧
        (l.bad = false → n = 0 → exec .loadReturn s = .next ((s.measureLoad t.core l).setTask id
          { t with loads := t.loads.eraseIdx s.arg.z })) ∧
        (l.bad = true → exec .loadReturn s = .next ((s.measureLoad t.core l).setTask id
          { t with loads := t.loads.set s.arg.z { l with returned := true } }))) ∧
      (l.bad = true ∨ l.vec ≠ [] ∨ l.again = none → s.freshLoad id l = .ok l) ∧
      (∀ q n m, s.freshLoad id l = .ok m → m.dst = .xq q n → t.isResident = true →
        (m.bad = false → exec .xqEntryArrival s = .next ((s.measureLoad t.core m).setTask id
          { t with
            xq := t.xq.set [] q ((t.xq.get [] q).map (fun e => if e.serial = n then { e with ready := true, vals := m.vec } else e))
            loads := t.loads.eraseIdx s.arg.z })) ∧
        (m.bad = true → exec .xqEntryArrival s = .next ((s.measureLoad t.core m).setTask id
          { t with loads := t.loads.set s.arg.z { m with returned := true } })))) ∧
    (∀ l, t.run = .running → t.isResident = true → t.saving = false → t.badLoad = some l → l.cause = .uncorrectable →
      ∃ u, exec .uncorrectableLoadDelivery s = .next u ∧
        u.records = s.records ++
          [{ s.taskRecord id t .a .uncorrectable l.pc l.badAt t.sa.pc.toNat with src := .load id l.id, path := l.path }] ∧
        ∃ t', u.task? id = some t' ∧ t'.run = .onRecord) ∧
    (∀ n l, t.meetsBad = some n → (∀ m ∈ t.loads, m.bad = true → m.returned = true → t.sa.left.head? ≠ some m.sec) →
      t.loads.find? (fun l => l.bad && l.returned && decide (l.id = n)) = some l → t.badLoad = some l)

/-- R138: a load of the Rubricator returns. -/
def RubricatorLoadReturn : Prop :=
  ∀ (s : State) (l : Load) (n : Nat), s.arg.y = 1 → s.rub.loads[s.arg.z]? = some l → l.returned = false → l.tag = none →
    l.dst = .reg n → l.bad = false → n ≠ 0 →
    exec .loadReturn s =
      .next { s with rub := { s.rub with regs := s.rub.regs.set 0 n l.val, loads := s.rub.loads.eraseIdx s.arg.z } }

end Sys2Proof.Claims

/-- R21, R138, R141, R254, R353, R370: landings, arrivals and returns, in a task and on the Rubricator. -/
def Obligations.LandingsAndReturns : Prop := Claims.TaskLandings ∧ Claims.RubricatorLoadReturn

namespace Sys2Proof.Claims

/-- R79 to R85, R193, R194: a stream decodes its header, waits there, and starts; a header out of form traps; and a section that is
done retires, the one that ends the matrix stream releasing its lease (R257). What a section's waits bring it is known to it as it starts (R309). -/
def SectionEvents : Prop :=
  ∀ (s : State) (t : Task), s.task? s.arg.x = some t →
    let id := s.arg.x
    let st := streamOf s.arg.y
    let v := t.stream st
    let now := s.cyc t.core
    let starts := fun (u : Task) => (s.setTask id (u.setStream st { u.stream st with phase := .words, pc := (u.stream st).hdr + 2 })).ordered
      (fun o => o.begin id st (u.stream st).sec
        ((u.headerWaits st).foldl (fun a w => a.join (o.fromParts id w.1 ((u.stream w.1).retiredSeen now))) Know.none))
    (∀ bs, t.live = true → v.phase = .header → v.stopped = false → v.left.length < 16 → (st ≠ .x ∨ t.xNext ≤ now) →
      s.fetch id t.core t.asid st.code v.pc 8 = .ok bs →
      let h := leNat bs
      let begun := { v with
        hdr := v.pc, hword := BitVec.ofNat 64 h, len := bits (BitVec.ofNat 64 h).toNat 48 12
        sec := if v.begun then v.sec + 1 else 0, begun := true, phase := .waiting }
      let u := t.setStream st begun
      (bits h 60 4 ≠ 9 ∨ bits h 48 12 = 0 ∨ bits h 0 13 ≠ 0 →
        exec .headerEntry s = .next (s.trapTask id st .sectionFormat v.pc 0 0)) ∧
      (headerBad h = false → bits h 13 1 = 1 → t.yields = true →
        exec .headerEntry s = .next (s.setTask id (t.setStream st { v with stopped := true }))) ∧
      (headerBad h = false → (bits h 13 1 = 0 ∨ t.yields = false) → u.waitsHold st now = true →
        exec .headerEntry s = .next (starts u)) ∧
      (headerBad h = false → (bits h 13 1 = 0 ∨ t.yields = false) → u.waitsHold st now = false →
        exec .headerEntry s = .next ((s.setTask id u).trapNever id))) ∧
    (t.live = true → v.phase = .waiting → v.stopped = false →
      (t.waitsHold st now = true → exec .headerWaitRelease s = .next (starts t)) ∧
      (t.waitsHold st now = false → t.neverWaits = some st →
        exec .headerWaitRelease s = .next (s.trapTask id st .sectionFormat v.pc 0 0))) ∧
    (∀ n rest, v.left = n :: rest → t.run ≠ .retired → t.run ≠ .faulted → t.sectionDone st n = true →
      let u := t.setStream st { v with
        left := rest, retired := v.retired + 1, retiredAt := now
        retiredPrev := if v.retiredAt = now then v.retiredPrev else v.retired }
      (u.over = false →
        exec .sectionRetirement s = .next
          ((if st = .m ∧ u.sm.final = true then (s.dropLease id).setTask id { u with lease := 0, leaseSaved := none }
            else s.setTask id u).trapNever id)) ∧
      (u.over = true → t.live = true → t.trapDue = false → t.cmds = [] →
        exec .sectionRetirement s = .next ((s.setTask id u).retireTask id)))

/-- R15, R83: a wait on a stream that the task does not have is met by wait number 0 alone; a dead mark is not awaited. -/
def SectionTests : Prop :=
  (∀ (v : StreamSt) (count w : BitVec 16), v.present = false → (v.meets count w = true ↔ w = 0)) ∧
  (∀ (t : Task) (n : BitVec 16), t.sectionDone .x n = true ↔
    ∀ e ∈ t.effects, e.sec = n → ∃ ks, e.dest = .dead ks)

/-- R341 to R343, R379: the X engine gives the turn to the stream it chooses of those ready: one of the highest effective
priority. -/
def XEngineChoice : Prop :=
  ∀ (s : State) (c : Candidate),
    let cs := s.xCandidates s.arg.x
    chooseStream (s.core s.arg.x).lastX (s.cluster (clusterOf s.arg.x)).mark cs = some c →
    exec .xIssue s = .next { s.countWaits .x c.task cs with turn := .word (.task c.task .x) } ∧
    c ∈ cs ∧ ∀ d ∈ cs, 3 - c.prio ≤ 3 - d.prio

end Sys2Proof.Claims

/-- The headers and retirements of sections, and the slot that the X engine serves. The model's readings among them: when a wait that
can never be met is found (log entry 73), that the last section of a task retires only while it runs (74), and when X enters a header
(75). -/
def Obligations.SectionAndEngineEvents : Prop := Claims.SectionEvents ∧ Claims.SectionTests ∧ Claims.XEngineChoice

namespace Sys2Proof.Claims

/-- Chunk `k` of copy `id` may land now (R152). -/
def MayLand (c : Copy) (k : Nat) : Prop :=
  c.stopped = false ∧ c.squashed = false ∧ k < c.chunks ∧ k ∉ c.landed ∧ k < c.frontier + 4096

/-- A command of the list that the array may work on (R262). -/
structure OnArray (s : State) (t : Task) (c : Cmd) : Prop where
  there : s.task? s.arg.x = some t
  listed : t.cmds.find? (fun c => c.serial = s.arg.y) = some c
  may : t.canRun c = true

/-- An open record is answered with a code (R363), and the service die may write its area (R290). -/
structure Answered (s : State) (o : Open) (code : Nat) : Prop where
  free : s.serviceFree = true
  opened : s.opens.find? (fun o => o.number = s.arg.x) = some o
  word : ∃ w, s.serviceWord (ringSlot o.number + 56) = some w ∧ w.getLsbD 63 = true ∧ bits w.toNat 0 3 = code

/-- A queue's head whose waits hold (R188). -/
structure OnQueue (s : State) (e : QEntry) (rest : List QEntry) : Prop where
  head : s.queues.get [] s.arg.x = e :: rest
  holds : s.headHolds e = true

end Sys2Proof.Claims

namespace Sys2Proof.Claims

/-- R152, R153, R318: chunks of copies land and arrive; a fault stops the copy with a record; an element written ahead is not written
again by its chunk. That an element may be written ahead in a step of its own is the model's choice (log entry 61). -/
def CopyEvents : Prop :=
  ∀ (s : State) (c : Copy), SMap.find? s.arg.x s.copies = some c → Claims.MayLand c s.arg.y →
    (∀ (i : Instr), ((i = .copyChunkLanding ∧ s.arg.z = 0) ∨ (i = .pagedWrite ∧ (glyphOf c.dst).paged = true)) →
      (s.chunkRequests s.arg.x s.arg.y = [] →
        (∀ u, s.runChunk s.arg.x s.arg.y c = .ok u → exec i s = .next u) ∧
        (∀ cause, s.runChunk s.arg.x s.arg.y c = .error (.trap cause 0) →
          ∃ u, exec i s = .next u ∧ u.records = s.records ++ [s.copyRecord s.arg.x s.arg.y c cause 0 false] ∧
            SMap.find? s.arg.x u.copies = some { c with stopped := true })) ∧
      (s.chunkRequests s.arg.x s.arg.y ≠ [] → (∀ r ∈ s.chunkRequests s.arg.x s.arg.y, ∃ v, r.2.answer = some (.ok v)) →
        (∃ r ∈ s.chunkRequests s.arg.x s.arg.y, ∃ h n wake fwd chunk, r.2.op = .arrive h n wake fwd chunk) →
        exec i s = .next ({ s with remotes := s.remotes.filter (fun r => decide (r.2.asker ≠ Asker.copy s.arg.x s.arg.y)) }.chunkDone
          s.arg.x s.arg.y))) ∧
    (∀ f xs near one t u, s.arg.z ≠ 0 → c.kind ≠ .vecIn → (glyphOf c.dst).paged = false → (glyphOf c.src).paged = false →
      s.chunkMisuse c = false → s.windowClear c = true → s.chunkRequests s.arg.x s.arg.y = [] →
      let fs := (c.chunk s.arg.y).filter (fun f => !c.early.contains f)
      fs[s.arg.z - 1]? = some f → s.copySource c fs = .ok xs → s.remoteParts c fs xs = .ok near → s.landNear c near.1 = .ok u →
      s.remoteParts c [f] [xs.getD (s.arg.z - 1) 0] = .ok (one, []) → s.landNear c one = .ok t →
      exec .copyChunkLanding s = .next { s.landed t s.arg.x s.arg.y with
        copies := t.copies.adjust s.arg.x (fun c => { c with early := c.early ++ [f] }) })

/-- R152, R155, R156: what a chunk landing writes, where the destination is a glyph in memory that is not paged: the elements of the
chunk, each read before any is written, each `storeBits` bits at its own place; and then the chunk arrives at the barrier. A range of
whole bytes takes the bytes of its value, in little-endian order; every other byte of a chunk of memory that is raw reads as before. -/
def ChunkBytes : Prop :=
  (∀ (s u : State) (id k : Nat) (c : Copy) (xs : List Nat), c.kind = .box ∨ c.kind = .fill ∨ c.kind = .vecOut → c.wash = false →
    c.early = [] → (glyphOf c.dst).paged = false → s.chunkMisuse c = false → s.windowClear c = true →
    s.copySource c (c.chunk k) = .ok xs →
    let rs := s.landBits c (c.chunk k) xs
    s.writeRanges (c.view true) rs = .ok u →
    s.runChunk id k c = .ok ((s.landed (u.detectRuns (c.view true) (mergeBits rs)) id k).chunkArrive id k c)) ∧
  (∀ (s : State) (c : Copy) (f x : Nat), s.ctl.mirrors = [] →
    let g := glyphOf c.dst
    let o := c.offset g f
    s.landBits c [f] [x] = [(8 * g.byteAt o c.dOff.toInt + (o % 8).toNat, g.storeBits, x)]) ∧
  (∀ (s u : State) (v : View) (a n x pa tw y o : Nat), 1 ≤ n → s.ctl.mirrors = [] → s.check v .write a n = .ok [(pa, n)] →
    s.place pa = .store tw y o → s.writeRun v (8 * a, 8 * n, x) = .ok u →
    let k := tw * 2 ^ 40 + o
    (∀ j < n, u.byte (k + j) = BitVec.ofNat 8 (x / 256 ^ j)) ∧
    (∀ b, ¬within b k n → (s.washed.find? (b / 512) = none ∨ b / 512 ∉ chunksOf k n) → u.byte b = s.byte b) ∧
    u.sems = s.sems ∧ u.bars = s.bars ∧ u.tasks = s.tasks)

/-- R261 to R266, R369: array commands complete, stop on a fault, or meet a failing glyph. Commands that have started wait for one
another as log entry 69 says; the record of a stop names the command's word (log entry 71); and a glyph that fails while the command is
fetched is GLYPH_INVALID of the engine (log entry 72): the model's choices. -/
def ArrayEvents : Prop :=
  ∀ (s : State) (t : Task) (c : Cmd), Claims.OnArray s t c →
    let id := s.arg.x
    let q := s.runCommand id t c
    let made := (s.commandWrites q.s id c).served t.core c q
    let at_ := made.onTask id (fun t => t.recordProgress c q)
    let named := fun cause (u : State) =>
      ((u.onTask id (fun t => { t with cmdStop := true })).trapNaming id .m cause t.sm.pc 0 c.pc)
    (q.stop = none → exec .matrixCommandComplete s =
      .next ((made.onTask id (fun t => (t.completeCmd c q.flags).endLease)).ordered
        (fun o => o.commandDone id c (t.laterCmds c)))) ∧
    (q.stop = some .hold → exec .matrixCommandComplete s = .next at_.held) ∧
    (s.glyphsFail id t c = false →
      (∀ cause, q.stop = some (.trap cause 0) → cause ≠ .uncorrectable → exec .matrixFetchFault s = .next
        ((at_.onTask id (fun t => t.onCmd c.serial (fun c => { c with faulted := true }))).post
          (at_.commandRecord id t c q.row cause 0))) ∧
      (q.stop = some (.trap .uncorrectable 0) → t.run = .running → exec .matrixFetchFault s = .next (named .uncorrectable at_))) ∧
    (∀ b, q.stop = some (.parity b) → exec .matrixFetchFault s = .next
      ((at_.onTask id (fun t => t.onCmd c.serial (fun c => { c with faulted := true }))).post
        (at_.commandRecord id t c q.row .uncorrectable 0))) ∧
    (s.glyphsFail id t c = true → t.run = .running → exec .matrixGlyphInvalid s = .next (named .glyphInvalid s))

/-- R256, R258, R260: a lease is granted to the first request of the highest priority that may have it, with saved tiles restored. -/
def LeaseEvents : Prop :=
  ∀ (s : State) (r : Nat × Nat × BitVec 8 × Nat) (t : Task), firstHighest (s.grantable s.arg.x) = some r →
    s.task? r.1 = some t →
    exec .leaseGrant s = .next (s.grantLease r.1 t r.2.2.1) ∧
    ∀ q ∈ s.grantable s.arg.x, q.2.1 ≤ r.2.1

/-- R158, R159, R399: a stream register fetches its next vector, up to four ahead; a decode error poisons it, a fault stops it with
a record. -/
def StreamFetchEvents : Prop :=
  ∀ (s : State) (t : Task) (b : Binding), s.task? s.arg.x = some t → SMap.find? s.arg.y t.binds = some b →
    t.isResident = true → b.stopped = false → b.buf.length < 4 → b.pos + b.buf.length < b.total → b.poison = none →
    let k := b.pos + b.buf.length
    let v := s.streamView s.arg.x t s.arg.y
    (∀ xs b', s.deliverVector v b k = .ok (some (xs, b')) →
      exec .streamVectorFetch s = .next (((s.setTask s.arg.x
        { t with binds := t.binds.put s.arg.y { b' with buf := b.buf ++ [vectorOf xs] } }).countConflicts t.core
          (s.vectorAddrs v b b' k)).measure t.core 3 0)) ∧
    (s.deliverVector v b k = .ok none →
      exec .streamVectorFetch s = .next (s.setTask s.arg.x
        { t with binds := t.binds.put s.arg.y { b with poison := some (k, .glyphInvalid) } })) ∧
    (∀ cause, s.deliverVector v b k = .error (.trap cause 0) →
      exec .streamVectorFetch s = .next ((s.setTask s.arg.x
        { t with binds := t.binds.put s.arg.y { b with stopped := true } }).post (s.bindRecord s.arg.x t s.arg.y b k cause 0)))

end Sys2Proof.Claims

/-- R152, R153, R158, R159, R258, R260 to R266: chunks of copies, array commands, leases, and the vectors of stream registers. The
model's choices among them: an element may be written ahead of its chunk (log entry 61); commands that have started wait for one
another (69); the record of a stop names the command's word (71); and a glyph that fails while the command is fetched is
GLYPH_INVALID of the engine (72). -/
def Obligations.EngineEvents : Prop :=
  Claims.CopyEvents ∧ Claims.ChunkBytes ∧ Claims.ArrayEvents ∧ Claims.LeaseEvents ∧ Claims.StreamFetchEvents

/-- R350, R351, R359, R362, R363, R180, R181: held traps are delivered in the order A, X, M; records are posted, and answered as their
source allows; the watchdog; and the end of a PARK. That an OVERDRAW is delivered inside a handler too, as a nested trap, and to a task
that is parked or saved, but waits while its task is on a record or ended, is the model's choice (log entry 150). -/
def Obligations.TrapEvents : Prop :=
  (∀ (s : State) (t : Task), s.task? s.arg.x = some t →
    let id := s.arg.x
    (t.run ≠ .waiting → t.run ≠ .onRecord → t.run ≠ .retired → t.run ≠ .faulted →
      let drawn := s.setTask id { t with
        heldDraw := none, region := t.region.map (fun r => { r with since := s.tsc, draws := [] }) }
      (t.heldDraw = some .a → exec .trapDelivery s = .next (drawn.trapTask id .a .overdraw t.sa.pc 0 0)) ∧
      (t.heldDraw = some .x → exec .trapDelivery s = .next (drawn.trapTask id .x .overdraw t.sx.pc 0 0)) ∧
      (t.heldDraw = some .m → (t.heldLand = false ∨ t.inHandler = true ∨ t.live = false) →
        exec .trapDelivery s = .next (drawn.trapTask id .m .overdraw t.sm.pc 0 0))) ∧
    (t.live = true →
      (t.inHandler = false → t.heldLand = true → (t.heldDraw = none ∨ t.heldDraw = some .m) → exec .trapDelivery s =
        .next ((s.setTask id { t with heldLand := false }).trapTask id .x .fpException t.sx.pc 0 0)) ∧
      (∀ word, t.inHandler = false → t.heldLand = false → t.heldDraw = none → t.heldFp = some word → exec .trapDelivery s =
        .next ((s.setTask id { t with heldFp := none, cmdStop := true }).trapNaming id .m .fpException t.sm.pc 0 word))) ∧
    (∀ w, t.wait = some w → t.csr.wdLimit ≠ 0 → t.run ≠ .onRecord → t.saving = false → t.unpark = false →
      w.since + t.csr.wdLimit.toNat ≤ s.cyc t.core →
      let left := if w.on = .ink then { s with ink := s.ink.abandon id } else s
      exec .watchdogExpiry s = .next (left.trapTask id w.stream .watchdog w.pc 0 0)) ∧
    (∀ c, t.run = .parked c → t.unpark = true → t.saving = false →
      exec .taskUnpark s = .next (s.setTask id
        { t with run := if t.saved then .runnable else .running, unpark := false, wait := none, sa := t.sa.advance }))) ∧
  (∀ (s : State) (n : Nat) (l : Load), s.rub.running = true → s.rub.meetsBad = some n →
    s.rub.loads.find? (fun l => l.bad && l.returned && decide (l.id = n)) = some l →
    exec .rubricatorTrap s = .next ({ s with rub := { s.rub with
      meetsBad := none, loads := s.rub.loads.filter (fun m => decide (m.id ≠ n)) } }.trapRub l.cause l.pc)) ∧
  (∀ (s : State) (r : Record) (sem : Nat), s.records[s.arg.x]? = some r → (∀ q ∈ s.records.take s.arg.x, q.src ≠ r.src) →
    let u := { s with records := s.records.eraseIdx s.arg.x }
    let room : Prop := s.faultControl ≠ none ∧ s.slotFree = true
    (s.serviceFree = true → s.faultControl = some sem → s.slotFree = true → exec .faultRecordPost s = .next (u.postRecord r sem)) ∧
    (s.serviceFree = true → ¬room → r.info = true → exec .faultRecordPost s =
      .next ({ u with dropped := s.dropped + 1 }.serviceWrite 0x10A038 8 (s.dropped + 1).toNat)) ∧
    (¬room → r.info = false → exec .faultRecordPost s = .next s.held) ∧
    (s.serviceFree = false → exec .faultRecordPost s = .next s.held)) ∧
  (∀ (s : State) (o : Open) (code : Nat), Claims.Answered s o code →
    let u := s.closeRecord o
    let refused := s.serviceWrite (ringSlot o.number + 56) 8 (2 ^ 62)
    (∀ id t, o.src = .task id → s.task? id = some t → t.run = .onRecord → t.saving = false →
      (code = 1 → exec .answerResume s = .next (u.resumeTask id)) ∧
      (code = 2 → exec .answerSkip s = .next ((u.skipTask id).resumeTask id)) ∧
      (code = 3 → exec .answerEnd s = .next (u.endFaulted id)) ∧
      (code = 4 → exec .answerAbandon s = .next refused)) ∧
    (∀ id n t, o.src = .load id n → s.task? id = some t → t.run = .onRecord → t.saving = false →
      (∀ v, code = 1 → u.resumeLoad id n false = .ok v → exec .answerResume s = .next (v.resumeTask id)) ∧
      (∀ v, code = 2 → u.resumeLoad id n true = .ok v → exec .answerSkip s = .next (v.resumeTask id)) ∧
      (code = 3 → exec .answerEnd s = .next (u.endFaulted id))) ∧
    (∀ id, o.src = .copy id →
      (code = 1 → exec .answerResume s =
        .next { u with copies := u.copies.adjust id (fun c => { c with stopped := false }) }) ∧
      (code = 2 → exec .answerSkip s = .next refused) ∧ (code = 3 → exec .answerEnd s = .next refused) ∧
      (code = 4 → exec .answerAbandon s = .next (u.dropCopy id)) ∧
      (5 ≤ code → exec .answerAbandon s = .next refused)) ∧
    (∀ id, o.src = .arrival id →
      (code = 1 → exec .answerResume s =
        .next { u with arrivals := u.arrivals.adjust id (fun a => { a with stopped := false }) }) ∧
      (code = 4 → exec .answerAbandon s = .next { u with arrivals := u.arrivals.del id })) ∧
    (∀ id n, o.src = .binding id n →
      (code = 1 → exec .answerResume s =
        .next (u.onTask id (fun t => t.onBinding n (fun b => { b with stopped := false })))) ∧
      (code = 4 → exec .answerAbandon s = .next (u.onTask id (fun t => t.onBinding n (fun b =>
        { b with stopped := false, poison := some (b.pos + b.buf.length, o.cause.getD .access) }))))) ∧
    (∀ c, o.src = .collective c →
      (code = 1 → exec .answerResume s = .next (u.resumeCollective c)) ∧
      (code = 4 → exec .answerAbandon s = .next (u.abandonCollective c))) ∧
    (o.src = .ended → (code = 1 → exec .answerResume s = .next u) ∧ (code = 4 → exec .answerAbandon s = .next u)) ∧
    (∀ id n, o.src = .command id n →
      (code = 1 → exec .answerResume s =
        .next (u.onTask id (fun t => t.onCmd n (fun c => { c with faulted := false })))) ∧
      (code = 4 → exec .answerAbandon s = .next refused)) ∧
    (code = 0 → exec .answerAbandon s = .next refused))

namespace Sys2Proof.Claims

/-- R336 to R339, R364 to R368, R188: a task whose waits are reached is runnable; tasks are placed; a context is loaded; an arming
completes; pre-emption drains and saves; and the heads of queues act. -/
def TaskEvents : Prop :=
  (∀ (s : State) (t : Task), s.task? s.arg.x = some t →
    (t.run = .waiting → (t.unpark = true ∨ ∀ e ∈ t.waits, s.waitReached e = true) →
      exec .taskWaitsReached s =
        .next ((s.setTask s.arg.x { t with run := .runnable, unpark := false }).acquireWaits s.arg.x t)) ∧
    (t.run = .resident → t.saved = false →
      exec .contextLoadComplete s = .next ((s.setTask s.arg.x { t with run := .running }).keepCode s.arg.x)) ∧
    (∀ a, t.run = .resident → t.saved = true → t.frame = some a → s.frameFree a = true →
      (s.frameIntact a = true → exec .contextLoadComplete s = .next (s.loadContext s.arg.x t)) ∧
      (s.frameIntact a = false → exec .contextLoadComplete s = .next (s.refuseContext s.arg.x t))) ∧
    (∀ p f, s.serviceFree = true → t.pre = some p → p.phase = .drain → t.isResident = true → t.run ≠ .resident →
      s.freeFrame = some f →
      (s.drained s.arg.x t = true → exec .preemptDrainEnd s = .next (s.squash s.arg.x t f.2)) ∧
      (p.since + 1000 * s.rub.preDrain.toNat ≤ s.tsc → exec .preemptDrainTimeout s = .next (s.squash s.arg.x t f.2))) ∧
    (∀ a, t.frame = some a → t.saving = true → (∀ e ∈ t.effects, e.captured = true) → s.serviceFree = true → s.frameFree a = true →
      ∃ u, exec .preemptSaveComplete s = .next u ∧
        u.records = s.records ++ [{ infoRecord s.tower 6 none (s.frameNumber a % 2 ^ 16)
          (t.savedBytes (((SMap.find? a s.frames).map (·.1)).getD 0)) with taskId := t.ident s.tower, serial := t.arming % 2 ^ 32 }] ∧
        ∃ t', u.task? s.arg.x = some t' ∧ t'.slot = none ∧ t'.saved = true ∧ t'.pre = none ∧ t'.regs = t.regs ∧
          t'.slices = t.slices ∧ t'.preds = t.preds ∧ t'.frame = some a)) ∧
  (∀ s : State, s.serviceFree = true → s.coreOpen s.arg.x = true → (s.placeAll s.arg.x (s.placeable s.arg.x)).tasks ≠ s.tasks →
    exec .taskPlacement s = .next (s.placeAll s.arg.x (s.placeable s.arg.x))) ∧
  (∀ (s : State) (a : Arming), SMap.find? s.arg.x s.armings = some a → a.live = [] →
    let u := { s with armings := s.armings.del s.arg.x }
    let right := s.admits s.tower 5 (0xF100000000 + 8 * a.csem) (rubIdent s.tower) .sem
    (a.faulted = false → right = true →
      exec .armingCompletion s = .next ((u.releaseArming s.arg.x a.csem).setSem a.csem (s.sem a.csem + a.cinc))) ∧
    (a.faulted = true ∨ right = false → exec .armingCompletion s = .next u)) ∧
  (∀ (s : State) (e : QEntry) (rest : List QEntry), Claims.OnQueue s e rest →
    let armed := s.arm (dw e.image 3 % 4096) false (.queue s.arg.x)
    let n := bits (dw e.image 3) 0 12
    (e.action = 0 → s.armingsFull = false → s.serviceFree = true → armed.1 = true →
      exec .queueLaunchAction s = .next (armed.2.leaveQueue s.arg.x)) ∧
    (e.action = 0 → s.armingsFull = false → s.serviceFree = true → armed.1 = false →
      exec .queueLaunchAction s = .next ((armed.2.leaveQueue s.arg.x).post
        (queueRecord s.tower s.arg.x e .access armed.2.nextArming))) ∧
    (∀ u, e.action = 1 → s.queueCopy s.arg.x e = .ok u → exec .queueCopyAction s = .next (u.leaveQueue s.arg.x)) ∧
    (∀ c va, e.action = 1 → s.queueCopy s.arg.x e = .error (.trap c va) →
      exec .queueCopyAction s = .next ((s.leaveQueue s.arg.x).post (queueRecord s.tower s.arg.x e c 0))) ∧
    (e.action = 2 → s.semAllowed n (rubIdent s.tower) = .ok () →
      exec .queueSemAction s = .next (((s.releaseSem (.queue s.arg.x) n 3).setSem n (semValue (queueSemOp (bits (dw e.image 3) 12 2)) (s.sem n) 0
        (e.image.getD 4 0))).leaveQueue s.arg.x)) ∧
    (e.action = 3 → exec .queueHirqAction s = .next (((s.releaseHost (.queue s.arg.x)).raiseVector (dw e.image 3 % 64)).leaveQueue s.arg.x)))

/-- R373, R374, R444: the Proofing of a core begins when no task is resident, ends after 200 µs by its signature, is tried again
once, and is aborted once a task wants the core: the abort is marked at once, and the core is scrubbed and given up after it. -/
def ProofingEvents : Prop :=
  ∀ (s : State) (p : Proofing), s.proofing = some p →
    (p.phase = .pending → s.coreBusy p.core = false →
      exec .proofingPatternStart s = .next { s with proofing := some { p with phase := .pattern, begun := true, since := s.tsc } }) ∧
    (s.serviceFree = true → p.since + 200000 ≤ s.tsc → s.proofWanted p = false →
      (p.phase = .pattern → s.arg.y = 1 → exec .proofingPatternEnd s = .next ((s.scrub p.core).endProofing p.core 0)) ∧
      (p.phase = .pattern → s.arg.y ≠ 1 →
        exec .proofingPatternEnd s = .next { s with proofing := some { p with phase := .retry, since := s.tsc } }) ∧
      (p.phase = .retry → s.arg.y = 1 → exec .proofingPatternEnd s = .next ((s.scrub p.core).endProofing p.core 1)) ∧
      (p.phase = .retry → s.arg.y ≠ 1 → exec .proofingPatternEnd s = .next ((s.scrub p.core).endProofing p.core 2))) ∧
    (p.phase ≠ .aborting → s.proofWanted p = true →
      exec .proofingAbort s = .next { s with proofing := some { p with phase := .aborting, since := s.tsc } }) ∧
    (p.phase = .aborting → s.serviceFree = true → (s.arg.x ≠ 1 ∨ p.since + 5000 ≤ s.tsc) →
      (p.begun = true → exec .proofingAbort s = .next ((s.scrub p.core).endProofing p.core 3)) ∧
      (p.begun = false → exec .proofingAbort s = .next (s.endProofing p.core 3)))

end Sys2Proof.Claims

/-- R336 to R339, R364 to R368, R188, R373, R374, R444: tasks, armings, pre-emption, queues, and Proofing. The model's readings among
them: a LAUNCH action that fails leaves its queue with a record (log entry 84); and a refused step of a completion semaphore is not
made (162). -/
def Obligations.TaskAndProofingEvents : Prop := Claims.TaskEvents ∧ Claims.ProofingEvents

namespace Sys2Proof.Claims

/-- R175, R376 to R388: the Inkwell's tick, grants and regions; the checks of the sensors, the clamps, the series pairs, a droop;
and the governor's decision. Each happens when its time has come. -/
def PowerEvents : Prop :=
  ∀ s : State,
    (s.clocks.tick < s.tsc / 1000 → ∃ u, exec .inkTick s = .next u ∧
      u.clocks = { s.clocks with tick := s.tsc / 1000 } ∧
      u.ink.bal = min (s.ink.bal + (s.ink.rate : Int)) (s.ink.cap : Int) -
        s.outsideDraw (1000 * s.clocks.tick) (1000 * (s.tsc / 1000)) ∧ u.ink.past = [] ∧ u.mem = s.mem) ∧
    (∀ r rest, s.ink.order = r :: rest → ((r.lvl * r.dur : Nat) : Int) ≤ s.ink.bal → ∀ t, s.task? r.task = some t →
      ∃ u, exec .inkGrant s = .next u ∧ u.ink.bal = s.ink.bal - (r.lvl * r.dur : Nat) ∧ u.ink.order = rest ∧
        (u.task? r.task).bind (·.region) = some (Region.mk r.lvl r.dur s.tsc false s.ink.grants s.tsc [] false)) ∧
    (∀ r rest, s.ink.order = r :: rest → s.ink.bal < ((r.lvl * r.dur : Nat) : Int) → exec .inkGrant s = .next s.held) ∧
    (∀ t r, s.task? s.arg.x = some t → t.region = some r → r.expired = false → r.start + 1000 * r.dur ≤ s.tsc →
      exec .regionExpiry s = .next { s.setTask s.arg.x { t with region := some { r with expired := true } } with
        ink := s.ink.request (InkReq.mk s.arg.x r.lvl r.dur true) }) ∧
    (∀ t r, s.task? s.arg.x = some t → t.region = some r → r.raised = true → t.sx.phase ≠ .ended →
      exec .overdraw s = .next (s.setTask s.arg.x
        { t with region := some { r with raised := false }, heldDraw := some .x })) ∧
    (∀ t r, s.task? s.arg.x = some t → t.region = some r → r.raised = true → t.sx.phase = .ended → (t.sa.phase ≠ .ended ∨ t.sm.phase ≠ .ended) →
      exec .overdraw s = .next (s.setTask s.arg.x
        { t with region := some { r with raised := false }, heldDraw := some .a })) ∧
    (s.clocks.sensor < s.tsc / 100000 → exec .sensorCheck s = .next
      ((List.range 48).foldl (fun u c => s.checkCluster u c) { s with clocks := { s.clocks with sensor := s.tsc / 100000 } }).heatBanks) ∧
    (s.arg.x < 48 → ((s.cluster s.arg.x).clampSensor, (s.cluster s.arg.x).clampHeat) ≠ s.clampsDue s.arg.x →
      let u := s.setCluster s.arg.x { s.cluster s.arg.x with
        clampSensor := (s.clampsDue s.arg.x).1, clampHeat := (s.clampsDue s.arg.x).2 }
      exec .clusterClamp s = .next (u.setClock s.arg.x (u.clockOf s.arg.x))) ∧
    (s.arg.x < 24 → s.clocks.pairs.get 0 s.arg.x < s.cycles (2 * s.arg.x) / 16 →
      ∃ u, exec .pairMeasurement s = .next u ∧
        let x := s.current (2 * s.arg.x)
        let y := s.current (2 * s.arg.x + 1)
        let d := imbalance (max x y) (min x y)
        let k := u.cluster (2 * s.arg.x)
        let l := u.cluster (2 * s.arg.x + 1)
        k.delta = d ∧ l.delta = d ∧ (d < 30 → k.mark = 0 ∧ l.mark = 0) ∧ (30 ≤ d → y < x → k.mark = 1 ∧ l.mark = 2) ∧
        (30 ≤ d → x < y → k.mark = 2 ∧ l.mark = 1)) ∧
    (s.arg.x < 48 → 1 ≤ s.arg.y → s.arg.y ≤ 5000 → (s.cluster s.arg.x).stretchedAt ≤ s.cycles s.arg.x →
      0 ≤ s.intoCycle (s.cluster s.arg.x) →
      s.intoCycle (s.cluster s.arg.x) < ((s.cluster s.arg.x).mhz : Int) →
      exec .droopDetect s = .next (s.stretchCycle s.arg.x s.arg.y)) ∧
    (s.clocks.governor < s.tsc / 100000 →
      let u := { s with clocks := { s.clocks with governor := s.tsc / 100000 } }
      exec .governorEvaluation s = .next
        ({ u with base := { s.base with governor := governorCeil u.theta } }.showCeilings.decideCeiling))

/-- R388 to R392, R382, R396: changes of the Baseline at their times; its commands; messages of the other towers; the service
die's reading of its words. -/
def BaselineEvents : Prop :=
  ∀ s : State,
    let b := s.base
    let at_ := roundUp (s.tsc + 200000)
    let taken := { s with fabIn := s.fabIn.eraseIdx s.arg.x }
    (b.due s.tsc ≠ b → exec .ceilingChange s = .next (s.setBase (b.due s.tsc)).decideCeiling) ∧
    (∀ serial g, b.fresh = some (serial, 1, g, true) →
      (b.group ≠ none → exec .baselineJoin s = .next (s.endCommand serial 2)) ∧
      (b.group = none → exec .baselineJoin s = .next
        ({ s with base := { b with join := some (serial, g, s.tsc, none), joining := [] } }.sendAll [everyNode]
          (.joinAsk s.node g)))) ∧
    (∀ serial g, b.fresh = some (serial, 2, g, true) →
      (b.group = none → exec .baselineLeave s = .next (s.endCommand serial 2)) ∧
      (b.group ≠ none → exec .baselineLeave s = .next
        ({ s with base := { b with leave := some (serial, at_) } }.sendAll b.peers (.leaving s.node at_)))) ∧
    (∀ serial cmd g ok, b.fresh = some (serial, cmd, g, ok) → (cmd = 3 ∨ ok = false) →
      exec .baselineCommandMalformed s = .next (s.endCommand serial 1)) ∧
    (∀ (ms : List (Nat × Nat × Option (Nat × Nat))) come go serial g asked, s.fabIn[s.arg.x]? = some (.joinReply ms come go) → b.join = some (serial, g, asked, none) →
      let told := { b with
        joining := ms.foldl (fun (js : SMap Member) (m : Nat × Nat × Option (Nat × Nat)) => js.put m.1 (Member.mk m.2.1 m.2.2 s.tsc)) []
        arriving := come.filter (fun e => decide (e.1 ≠ s.node)), leaving := go }
      exec .baselineJoinReply s = .next (taken.announceJoin (told.due s.tsc) serial g asked at_)) ∧
    (∀ serial g asked, b.join = some (serial, g, asked, none) → asked + 100000 ≤ s.tsc →
      exec .baselineJoinTimeout s = .next (s.announceJoin b serial g asked (roundUp (asked + 300000)))) ∧
    (∀ n v t, s.fabIn[s.arg.x]? = some (.announce n v t) → n ∈ b.peers →
      exec .baselineAnnouncement s = .next ((taken.setBase
        ((b.onMember n (fun m => { m with pending := some (v, t) })).due s.tsc)).lateRecord n t)) ∧
    (∀ n g, s.fabIn[s.arg.x]? = some (.joinAsk n g) → b.group = some g →
      exec .baselineAnnouncement s = .next (taken.sendAll [n] s.joinReplyMessage)) ∧
    (b.group ≠ none → s.clocks.heartbeat < s.tsc / 50000 → exec .heartbeatSend s = .next
      ({ s with clocks := { s.clocks with heartbeat := s.tsc / 50000 } }.sendAll b.memberIds
        (.heartbeat s.node (50000 * (s.tsc / 50000)) b.own b.pending))) ∧
    (∀ n stamp v m, s.fabIn[s.arg.x]? = some (.heartbeat n stamp v none) → SMap.find? n b.members = some m → m.heard ≤ stamp →
      let c := (b.onMember n (fun _ => Member.mk v none stamp)).due s.tsc
      exec .heartbeatReceive s = .next (taken.setBase { c with silent := c.quiet s.tsc })) ∧
    (b.silent ≠ b.quiet s.tsc → exec .silentDrop s = .next (s.setBase { b with silent := b.quiet s.tsc })) ∧
    (∀ m, SMap.find? s.arg.x b.members = some m → m.heard + 2000000 ≤ s.tsc →
      let c := { b with
        members := b.members.del s.arg.x, leaving := b.leaving.filter (fun e => decide (e.1 ≠ s.arg.x))
        excluded := b.excluded ++ [s.arg.x] }
      exec .memberExclusion s = .next (s.setBase { c with silent := c.quiet s.tsc })) ∧
    (s.serviceFree = true → s.clocks.service < s.tsc / 10000 → exec .serviceAreaRead s = .next
      ({ s with clocks := { s.clocks with service := s.tsc / 10000 } }.readWords).decideCeiling)

end Sys2Proof.Claims

/-- R175, R376 to R392, R396: the Inkwell, clocks and sensors, and the Baseline. The model's choices among them: pairs are measured on
the cycles of their even cluster (log entry 91); a member counts as heard at its join (94); the ask to join goes to node number 65,536,
which stands for all (95); and a late time gives a record each time (96). -/
def Obligations.PowerAndBaselineEvents : Prop := Claims.PowerEvents ∧ Claims.BaselineEvents

namespace Sys2Proof.Claims

/-- The oldest write to the control block on its way (R303). -/
def CtlNext (s : State) (o : Nat) (v : Word) (rest : List (Nat × Word)) : Prop := s.ctl.incoming = (o, v) :: rest

/-- The machine once the oldest write has been taken. -/
def ctlTaken (s : State) (rest : List (Nat × Word)) : State := { s with ctl := { s.ctl with incoming := rest } }

/-- R288 to R292, R298, R299, R303, R369 to R372: writes to the control block, invalidations, walks, the re-ruling of levels, banks,
detected errors and the remap tables. -/
def ControlBlockEvents : Prop :=
  ∀ s : State,
    (∀ o v rest, Claims.CtlNext s o v rest →
      let u := Claims.ctlTaken s rest
      (s.arg.x ≠ 1 → o ≠ 0x10 → isMirlen o = false → (isRuling o = false ∨ v.getLsbD 0 = false) →
        exec .registerWrite s = .next (u.ctlWrite o v)) ∧
      (o = 0x10 → bits v.toNat 46 17 ≠ 0 → exec .ctlInval s = .next u) ∧
      (o = 0x10 → bits v.toNat 46 17 = 0 → s.ctl.invBusy = false →
        exec .ctlInval s = .next { u with ctl := { u.ctl with inval := v, invFrom := s.ctl.invva, invBusy := true } }) ∧
      (isMirlen o = true →
        let n := (o - 0x100) / 32
        let m : Mirror := { s.mirrorSlot n with len := v.setWidth 32, written := [] }
        exec .ctlMirlen s = .next (u.setMirror n
          { m with active := decide (0 < m.len.toNat) && s.mirrorOk m, refused := decide (0 < m.len.toNat) && !s.mirrorOk m })) ∧
      (isRuling o = true → v.getLsbD 0 = true →
        let x := (o - 0x40) / 8
        (s.frozen = true ∨ s.sealed = true ∨ (s.level x).busy = true → exec .ctlRuling s = .next u) ∧
        (s.frozen = false → s.sealed = false → (s.level x).busy = false →
          ∃ t p, exec .ctlRuling s = .next t ∧ t.level x = (s.level x).ruled p ∧ (t.level x).busy = true ∧
            t.mem = s.mem.filter (fun e =>
              let q := e.1 / 32
              let first := s.levelSector x
              !(decide (first ≤ q) && decide (q < first + (s.level x).banks * bankSize x / 32) &&
                (s.level x).lost.contains ((q - first) % (s.level x).banks)))))) ∧
    (s.ctl.invBusy = true → (∀ r ∈ s.remotes, r.2.translated = false) →
      ∃ u, exec .invalidationComplete s = .next u ∧ u.ctl.invBusy = false ∧
      (∀ e, e ∈ u.tlb ↔ e ∈ s.tlb ∧ s.ctl.covers e.asid e.global e.va e.size = false) ∧
      ∀ w, w ∈ u.walks ↔ w ∈ s.walks ∧ s.ctl.covers w.asid false (w.va / 65536 * 65536) 65536 = false) ∧
    (∀ w, s.walks[s.arg.x]? = some w → s.arg.x < 64 →
      let u := { s with walks := s.walks.eraseIdx s.arg.x }
      (∀ e, u.walk 0 w.asid w.va = .ok e → exec .walkCompletion s = .next
        (((w.units.flatMap (fun k => [k, l2Of k])).eraseDups).foldl (fun t k =>
          t.fillTlb { e with unit := k, rights := t.entryRights k e.pa e.size }) u)) ∧
      (∀ c va, u.walk 0 w.asid w.va = .error (.trap c va) → w.pref = true → exec .walkCompletion s = .next u) ∧
      (∀ c va, u.walk 0 w.asid w.va = .error (.trap c va) → w.pref = false → exec .walkCompletion s = .next
        (w.units.foldl (fun t k => t.fillTlb
          (Tlb.mk k w.asid false (w.va / 65536 * 65536) 65536 0 false false false [] true)) u))) ∧
    ((s.level s.arg.x).busy = true → s.sealed = false →
      exec .reRulingComplete s =
        .next ((s.setLevel s.arg.x { s.level s.arg.x with busy := false }).releaseWrites.releaseBells)) ∧
    (∀ l, s.level s.arg.x = l → s.arg.x ≤ 3 → s.arg.y < l.banks → s.frozen = false → s.sealed = false → l.busy = false →
      l.swap = none → s.arg.y ∉ l.lost →
      (16 < l.errors.get 0 s.arg.y ∨ s.laneFailed s.arg.x s.arg.y = true ∨
        ∃ since, SMap.find? s.arg.y l.hot = some since ∧ since + 100000000 ≤ s.tsc) →
      (l.spares = 0 → exec .bankRetirement s = .next (s.setLevel s.arg.x { l with lost := l.lost ++ [s.arg.y] })) ∧
      (l.spares ≠ 0 → exec .bankRetirement s = .next (s.setLevel s.arg.x
        { l with swap := some (s.arg.y, l.nextBank), spares := l.spares - 1, nextBank := l.nextBank + 1 }))) ∧
    (∀ j b, (s.level s.arg.x).swap = some (j, b) → s.frozen = false → s.sealed = false →
      ∃ u, exec .bankSwapSwitch s = .next u ∧ (u.level s.arg.x).live = (s.level s.arg.x).live.set j j b ∧
        (u.level s.arg.x).swap = none ∧ u.mem = s.mem) ∧
    (∀ f lasting, s.retries[s.arg.x]? = some (f, lasting) →
      let u := { s with retries := s.retries.eraseIdx s.arg.x }
      let passing := fun kind detail second =>
        exec .eccRetry s = .next (u.post { infoRecord s.tower kind none detail second with transient := true })
      (∀ q x o, f = .sector q → s.sectorLevel q = some (x, o) →
        (lasting = false → passing 8 x (32 * q)) ∧
        (lasting = true → ∃ t, exec .eccRetry s = .next t ∧ t.flaws = s.flaws.put q true)) ∧
      (∀ x copy j value, f = .remap x copy j value → x ≤ 3 → copy ≤ 2 → j < (s.level x).banks →
        (lasting = false → passing 9 (x + 4 * copy) 0) ∧
        (lasting = true → ∃ t, exec .eccRetry s = .next t ∧ (t.level x).copyEntry copy j = value)) ∧
      (∀ id k, f = .slice id k →
        (lasting = false → passing 8 5 (k / 64)) ∧
        (∀ v, lasting = true → s.task? id = some v → ∃ t v', exec .eccRetry s = .next t ∧ t.task? id = some v' ∧ k ∈ v'.flawed)) ∧
      (∀ key, f = .tile key →
        (lasting = false → passing 8 6 (key / 512 % 2048)) ∧
        (lasting = true → ∃ t, exec .eccRetry s = .next t ∧ key ∈ t.badTiles))) ∧
    (s.arg.x ≤ 3 → s.arg.y ≤ 2 → s.sealed = false → (s.level s.arg.x).badCopy s.arg.y = true →
      s.arg.y ∉ (s.level s.arg.x).reported → ∃ u, exec .remapVoteFreeze s = .next u ∧ u.frozen = true ∧
      u.records = s.records ++ [infoRecord s.tower 9 none (s.arg.x + 4 * s.arg.y) 0] ∧
      (∀ e ∈ u.levels, e.2.swap = none) ∧ s.arg.y ∈ (u.level s.arg.x).reported) ∧
    (∀ x, s.sealed = false → x ≤ 3 → (s.level x).lostVote = true →
      ∃ u, exec .towerSeal s = .next u ∧ u.sealed = true ∧ u.mem = s.mem)

/-- R371: the vote on an entry of a remap table: the value two readable copies agree in, and none where no two do. -/
def RemapVote : Prop :=
  ∀ (l : Level) (j : Nat),
    let held := fun k => l.copyEntry k j
    (∀ v, held 0 = some v → (held 1 = some v ∨ held 2 = some v) → l.vote j = some v) ∧
    (∀ v, held 1 = some v → held 2 = some v → l.vote j = some v) ∧
    ((∀ v, ¬(held 0 = some v ∧ held 1 = some v) ∧ ¬(held 0 = some v ∧ held 2 = some v) ∧ ¬(held 1 = some v ∧ held 2 = some v)) →
      l.vote j = none)

/-- R162, R403 to R408, R447: the Blotter's visits, conversions and migrations, copies on write and deferred frees. -/
def BlotterEvents : Prop :=
  ∀ s : State,
    (∀ k, k = (if s.clocks.blotter = s.tsc / 1000 then s.folio.visited else 0) → s.folio.enable = true → s.folio.base ≠ none →
      k < s.folio.rate →
      let u := { s with clocks := { s.clocks with blotter := s.tsc / 1000 }, folio := { s.folio with visited := k + 1 } }
      (u.headerCheck .write s.folio.next = .ok () → exec .blotterVisit s = .next (u.visit s.folio.next).nextHeader) ∧
      (∀ c va, u.headerCheck .write s.folio.next = .error (.trap c va) → exec .blotterVisit s = .next u.nextHeader)) ∧
    (∀ c t, s.conversionOf s.arg.x = some c → s.blockState s.arg.x = 2 → s.headerOk s.arg.x = true → s.headerOk c.scratch = true →
      s.convertInto c = .ok t →
      let v := (((t.swapHeaders s.arg.x c.scratch 2 16 41).setHeaderBits s.arg.x 0 52 4 2).setHeaderBits s.arg.x 0 60 2 3).setHeader
        s.arg.x 4 0
      exec .conversionSwitch s = .next (({ v with folio := { v.folio with
        converting := v.folio.converting.filter (fun d => decide (d.block ≠ s.arg.x))
        completed := v.folio.completed + 1 } }.retireScratch c.scratch).showConversions.renewBlock s.arg.x)) ∧
    (∀ w, s.folio.request = some w → s.folio.migrating = none → s.headersFree = true → s.serviceFree = true →
      let u := { s with folio := { s.folio with request := none } }
      let b := bits w.toNat 0 20
      let loc := bits w.toNat 20 3
      (5 ≤ loc → exec .migrationStart s = .next (u.endRequest 3)) ∧
      (loc < 5 → s.folio.base = none → exec .migrationStart s = .next (u.endRequest 2)) ∧
      (loc < 5 → s.folio.base ≠ none → u.blockFree b = false → u.blockBusy b = false →
        u.blockPlace b ≠ loc →
        (u.takeFree loc = none → exec .migrationStart s = .next (u.endRequest 1)) ∧
        (∀ sc t, u.takeFree loc = some (sc, t) → exec .migrationStart s = .next
          { t.setBusy b sc with folio := { t.folio with migrating := some (Convert.mk b sc) } }))) ∧
    (∀ c t, s.folio.migrating = some c → s.headerOk c.block = true → s.headerOk c.scratch = true → s.serviceFree = true →
      s.migrateInto c = .ok t →
      let v := ((t.swapHeaders c.block c.scratch 2 16 41).swapHeaders c.block c.scratch 0 48 3).setHeader c.block 4 0
      exec .migrationSwitch s = .next
        ((({ v with folio := { v.folio with migrating := none } }.retireScratch c.scratch).endRequest 0).renewBlock c.block)) ∧
    (∀ c e, s.headersFree = true → s.serviceFree = true → s.refused c = some e →
      (s.conversionOf s.arg.x = some c → exec .blotterAccessRefused s = .next
        (((s.abortConversion s.arg.x).setBlockState s.arg.x 1).post (s.blotterRecord e.1 s.arg.x e.2))) ∧
      (s.conversionOf s.arg.x = none → s.folio.migrating = some c → c.block = s.arg.x →
        exec .blotterAccessRefused s = .next (s.refuseMigration c e.1 e.2))) ∧
    (∀ c, s.folio.cows.find? (fun c => c.entry = s.arg.x) = some c → s.headersFree = true →
      let u := { s with folio := { s.folio with cows := s.folio.cows.filter (fun d => decide (d.entry ≠ c.entry)) } }
      (∀ t bs, u.copyBlock c = .ok t → t.physRead c.ident .engine c.entry 4 = .ok bs →
        (∀ v, leNat bs = c.block → t.physWrite c.ident .engine c.entry (leBytes 4 c.fresh) = .ok v → exec .copyOnWrite s = .next
          ((v.ordered (fun o => o.renew (t.keyOf c.entry / 8) 1)).dropRef c.block)) ∧
        (leNat bs ≠ c.block → exec .copyOnWrite s = .next (t.dropRef c.fresh))) ∧
      (∀ e va, u.copyBlock c = .error (.trap e va) → exec .copyOnWrite s = .next (u.dropRef c.fresh))) ∧
    (s.arg.x ∈ s.folio.freeing → s.headerOk s.arg.x = true →
      (∀ c ∈ s.folio.cows, c.block ≠ s.arg.x ∧ c.data ≠ s.blockData s.arg.x) →
      (∀ c, s.folio.migrating = some c → c.block ≠ s.arg.x) → exec .folioDeferredFree s = .next
      ({ s with folio := { s.folio with freeing := s.folio.freeing.filter (fun x => decide (x ≠ s.arg.x)) } }.returnFree s.arg.x))

end Sys2Proof.Claims

/-- R162, R288 to R303, R369 to R372, R403 to R408, R447: the control block, walks, levels, and the Blotter. The model's choices among
them: a failed walk leaves a mark that the accesses waiting for it meet (log entry 44); how a migration and a copy on write lie in
time (103, 104); the re-ruling is in force at the write that asks it (109); and which lane serves a bank (108). -/
def Obligations.ControlBlockAndBlotterEvents : Prop :=
  Claims.ControlBlockEvents ∧ Claims.RemapVote ∧ Claims.BlotterEvents

namespace Sys2Proof.Claims

/-- R169, R173, R306, R414 to R419: forwarded arrivals, requests of other towers and their responses, resending and path failures,
flits and ports, and the steering of the time stamp. -/
def FabricEvents : Prop :=
  ∀ s : State,
    let taken := s.takeMessage s.arg.x
    (∀ a, SMap.find? s.arg.x s.arrivals = some a → a.stopped = false → s.arrivalSent s.arg.x = false →
      (handleNode a.handle ≠ s.node → exec .forwardedArrival s = .next (s.sendRequest (handleNode a.handle)
        (.arrive a.handle a.bytes a.wake a.forwarded false) (s.order.know (.arrival s.arg.x)) (.arrival s.arg.x) (rubIdent s.tower) 0)) ∧
      (handleNode a.handle = s.node → (s.bar (handleCore a.handle) (handleBar a.handle)).target = 0 →
        exec .forwardedArrival s = .next (s.stopArrival s.arg.x a (rubIdent s.tower) .barrierMisuse false)) ∧
      (handleNode a.handle = s.node → (s.bar (handleCore a.handle) (handleBar a.handle)).target ≠ 0 → a.wake = false →
        exec .forwardedArrival s = .next ({ s with arrivals := s.arrivals.del s.arg.x }.arrive (handleCore a.handle)
          (handleBar a.handle) a.bytes a.forwarded (s.arrivalBring s.arg.x)))) ∧
    (∀ node tag ident op know stamp again, s.fabIn[s.arg.x]? = some (.request node tag ident op know stamp again) →
      op.isWake = true ∨ s.requestBefore s.arg.x node tag = false → s.arg.y ≠ 1 →
      let i : Instr := if op.isWake then .wakeWrite else .remoteRequestApply
      (∀ k, s.kept.find? (fun k => k.node = node && k.tag = tag) = some k →
        exec i s = .next (taken.respond node tag k.result k.know false)) ∧
      (s.kept.find? (fun k => k.node = node && k.tag = tag) = none → again = true →
        (stamp + 1000000 < s.tsc ∨ 4096 ≤ s.kept.length) → exec i s = .next (taken.sendMsg node (.refused tag))) ∧
      (∀ answer learnt u, s.kept.find? (fun k => k.node = node && k.tag = tag) = none → again = false →
        taken.answerRemote node ident know op = .ok (answer, learnt, u) →
        exec i s = .next (u.respond node tag answer learnt true))) ∧
    (∀ node tag ident es know stamp e u v, s.fabIn[s.arg.x]? = some (.request node tag ident (.chunk es) know stamp false) →
      s.requestBefore s.arg.x node tag = false → s.kept.find? (fun k => k.node = node && k.tag = tag) = none → s.arg.y = 1 →
      1 < es.length → es[s.arg.z]? = some e → s.chunkWrite (peerIdent node) es = .ok u → s.chunkWrite (peerIdent node) [e] = .ok v →
      exec .remoteRequestApply s = .next { v with
        fabIn := v.fabIn.set s.arg.x (.request node tag ident (.chunk (es.eraseIdx s.arg.z)) know stamp false) }) ∧
    (∀ tag answer learnt, s.fabIn[s.arg.x]? = some (.response tag answer learnt) →
      (SMap.find? tag s.remotes = none → exec .remoteResponse s = .next taken) ∧
      (∀ r, SMap.find? tag s.remotes = some r → r.answer = none →
        exec .remoteResponse s = .next (taken.answered tag r answer learnt false)) ∧
      (∀ r v, SMap.find? tag s.remotes = some r → r.answer = some v → exec .remoteResponse s = .next taken)) ∧
    (∀ tag r, s.fabIn[s.arg.x]? = some (.refused tag) → SMap.find? tag s.remotes = some r → r.answer = none →
      exec .remoteResponse s = .next (taken.answered tag r (.error .uncorrectable) Know.none true)) ∧
    (∀ r, SMap.find? s.arg.x s.remotes = some r → r.answer = none →
      (r.last + 100000 ≤ s.tsc → r.sends < 8 → s.tsc < r.first + 800000 → exec .remoteResend s = .next
        ({ s with remotes := s.remotes.put s.arg.x { r with last := s.tsc, sends := r.sends + 1 } }.sendVia r.route r.node
          (.request s.node s.arg.x r.ident r.op r.know r.first true))) ∧
      (r.first + 800000 ≤ s.tsc ∨ r.route = none →
        exec .pathFailure s = .next (s.answered s.arg.x r (.error .uncorrectable) Know.none true))) ∧
    (∀ k, s.kept[s.arg.x]? = some k → k.since + 1000000 ≤ s.tsc →
      exec .tagFilterExpiry s = .next { s with kept := s.kept.eraseIdx s.arg.x }) ∧
    (∀ f rest, s.flitIn = f :: rest →
      let u := { s with flitIn := rest }
      let l := u.link f.port
      let ack := BitVec.ofNat 16 (bits (leNat (f.bytes.take 8)) 32 16)
      let sound := BitVec.ofNat 64 (leNat ((f.bytes.drop 248).take 8)) = crc64 (f.bytes.take 248)
      let held := l.held.filter (fun h => decide (2 ^ 15 ≤ (ack - h.1).toNat))
      let refused := l.refused.filter (fun n => held.any (fun h => decide (h.1 = n)))
      let w := leNat (f.bytes.take 8)
      let inOrder := BitVec.ofNat 16 (bits w 48 16) = l.expect ∧ bits w 24 8 ≤ 4 ∧ bits w 0 24 = 0
      (s.portUp f.port = false → exec .gegilFlitReceive s = .next u) ∧
      (s.portUp f.port = true → ¬sound → l.failedOnce = true → exec .gegilFlitReceive s = .next (u.portDown f.port)) ∧
      (s.portUp f.port = true → ¬sound → l.failedOnce = false →
        exec .gegilFlitReceive s = .next (u.setLink f.port { l with failedOnce := true })) ∧
      (s.portUp f.port = true → sound → inOrder → exec .gegilFlitReceive s = .next
        (u.setLink f.port { l with expect := l.expect + 1, failedOnce := false, held := held, refused := refused })) ∧
      (s.portUp f.port = true → sound → ¬inOrder →
        exec .gegilFlitReceive s = .next (u.setLink f.port { l with held := held, refused := refused }))) ∧
    (s.fabric.valid = true → s.arg.x ≤ 11 →
      (s.fabric.retrain.getLsbD s.arg.x = true → s.fabric.up.getLsbD s.arg.x = false → exec .portRetrain s = .next
        { s with fabric := { s.fabric with
          retrain := s.fabric.retrain &&& ~~~(portBit s.arg.x), training := s.fabric.training ||| portBit s.arg.x } }) ∧
      (s.fabric.training.getLsbD s.arg.x = true → ∃ u, exec .linkTrainingComplete s = .next u ∧
        u.fabric.up = s.fabric.up ||| portBit s.arg.x ∧ u.fabric.training = s.fabric.training &&& ~~~(portBit s.arg.x) ∧
        u.fabric.wash = if s.arg.y = 1 ∧ s.fabric.washWanted.getLsbD s.arg.x = true then s.fabric.wash ||| portBit s.arg.x
          else s.fabric.wash &&& ~~~(portBit s.arg.x))) ∧
    (∀ port ahead master node, s.fabIn[s.arg.x]? = some (.timing port ahead master node) → s.arg.y ≠ 1 →
      (s.fabric.acting = false → exec .tscTimingExchange s = .next
        (({ taken with fabric := { taken.fabric with timed := s.tsc } }.steer ahead).showFabric)) ∧
      (s.fabric.acting = true → (master = false ∨ s.node ≤ node) → exec .tscTimingExchange s = .next taken)) ∧
    (s.arg.y = 1 → s.clocks.timing < s.tsc / 10000 → exec .tscTimingExchange s = .next
      ((List.range 12).foldl State.sendTiming { s with clocks := { s.clocks with timing := s.tsc / 10000 } })) ∧
    (∀ ahead, (s.steer ahead).fabric.synced = true → (s.fabric.synced = false ∧ 0 ≤ ahead) ∨ (-4 ≤ ahead ∧ ahead ≤ 4)) ∧
    (s.fabric.synced = true → s.fabric.acting = false → s.fabric.timed + 1000000 ≤ s.tsc →
      exec .tscSyncLoss s = .next ({ s with fabric := { s.fabric with synced := false, slew := 0 } }.showFabric))

/-- R414, R415: a flit sets out with the next sequence number, acknowledging the last received in order, and is held; one that the other
end refuses is sent again with every flit after it; refused again, it takes the port down. -/
def FlitEvents : Prop :=
  ∀ (s : State) (p : Nat),
    let l := s.link p
    (∀ kind payload, payload.length = 240 → kind < 256 →
      let u := s.sendFlit p kind payload
      ∃ bs, u.link p = { l with nextSeq := l.nextSeq + 1, held := l.held ++ [(l.nextSeq, bs)] } ∧
        u.flitOut = s.flitOut ++ [{ port := p, bytes := bs }] ∧ bs.length = 256 ∧
        bits (leNat (bs.take 8)) 48 16 = l.nextSeq.toNat ∧ bits (leNat (bs.take 8)) 32 16 = (l.expect - 1).toNat ∧
        bits (leNat (bs.take 8)) 24 8 = kind ∧ bits (leNat (bs.take 8)) 0 24 = 0 ∧ (bs.drop 8).take 240 = payload ∧
        BitVec.ofNat 64 (leNat ((bs.drop 248).take 8)) = crc64 (bs.take 248)) ∧
    (∀ seq before bs rest, s.portUp p = true → l.held = before ++ (seq, bs) :: rest → (∀ h ∈ before, h.1 ≠ seq) →
      (l.refused ≠ some seq →
        (s.refuseFlit p seq).flitOut = s.flitOut ++ ((seq, bs) :: rest).map (fun h => { port := p, bytes := h.2 }) ∧
        (s.refuseFlit p seq).link p = { l with refused := some seq }) ∧
      (l.refused = some seq → s.refuseFlit p seq = s.portDown p))

/-- R420 to R424: the phases of a firing of a collective channel: the data phase, its ends with results 0 to 3, a stop, and a
message that abandons it. -/
def CollectiveEvents : Prop :=
  ∀ (s : State) (i : Instance),
    let c := s.arg.x
    (s.serviceFree = true → (s.channel c).inst = some i → i.stopped = false →
      (s.malformed i = true → exec .collectiveCompletion s = .next
        ((s.endInstance c i 2 []).post (infoRecord s.tower 10 none c 0))) ∧
      (s.malformed i = false → i.data = false → s.allStarted c i = true → s.agreed c i = false →
        exec .collectiveCompletion s = .next ((s.endInstance c i 3 []).post (infoRecord s.tower 10 none c 0))) ∧
      (∀ bs, s.malformed i = false → i.data = false → s.agreed c i = true → s.ownShare i = .ok bs →
        let u := s.setChannel c { s.channel c with inst := some { i with data := true } }
        let m : Share := { channel := c, k := i.k, node := s.node, parts := i.parts, bytes := bs }
        exec .collectiveDataPhase s = .next ((u.keepShare m).sendCollective
          (i.parts.filter (fun n => decide (n ≠ s.node))) c i.k (.data m))) ∧
      (∀ u, s.malformed i = false → i.data = true → s.allShares c i = true → s.writeOutcome c i = .ok u →
        exec .collectiveCompletion s = .next (u.endInstance c i 0 (u.order.since s.order.next))) ∧
      (∀ cause node, s.malformed i = false → s.stopCause c i = some (cause, node) →
        exec .collectiveStop s = .next
          ((s.setChannel c { s.channel c with inst := some { i with stopped := true, cause := cause } }).post
            { infoRecord s.tower 10 (some cause) c node with
              src := .collective c, info := false, ident := s.collectIdent.toNat }))) ∧
    (∀ d k, s.fabIn[s.arg.x]? = some (.abandon d k) →
      let taken := s.takeMessage s.arg.x
      (k < (s.channel d).ended → exec .collectiveAbandonMessage s = .next taken) ∧
      ((s.channel d).ended ≤ k → (s.channel d).inst = some i → i.k = k → s.serviceFree = true →
        (i.stopped = true → exec .collectiveAbandonMessage s = .next
          (taken.setChannel d { s.channel d with inst := some { i with abandoned := true } })) ∧
        (i.stopped = false → exec .collectiveAbandonMessage s = .next (taken.endInstance d i 1 []))))

end Sys2Proof.Claims

/-- R169, R173, R306, R414 to R424: the fabric and the collective channels. The model's choices among them: the start value of the CRC
(log entry 112); an acknowledgement covers all before it (113); requests whose tag is old, or too many, are refused (116); and how timing
messages set and steer `tsc` (117). -/
def Obligations.FabricAndCollectiveEvents : Prop := Claims.FabricEvents ∧ Claims.FlitEvents ∧ Claims.CollectiveEvents

namespace Sys2Proof.Claims

/-- The oldest access of the host (R410). -/
def HostNext (s : State) (m : HostMsg) (rest : List HostMsg) : Prop := s.host.inbox = m :: rest

/-- The machine once the oldest host access has been taken. -/
def hostTaken (s : State) (rest : List HostMsg) : State := { s with host := { s.host with inbox := rest } }

/-- R186, R303, R409 to R413, R425 to R427: the host's accesses in order, interrupts, reset, boot and attestation. -/
def HostEvents : Prop :=
  ∀ (s : State) (rest : List HostMsg),
    let u := Claims.hostTaken s rest
    (∀ off n, Claims.HostNext s (.bar2Read off n) rest →
      (∀ bs, s.bar2Read off n = .ok bs → exec .hostBarAccess s = .next (u.hostData bs)) ∧
      (∀ c va, s.bar2Read off n = .error (.trap c va) →
        exec .hostBarAccess s = .next ((u.hostData (List.replicate n 255)).hostRefused off))) ∧
    (∀ off bs, Claims.HostNext s (.bar2Write off bs) rest →
      (∀ t, u.bar2Write off bs = .ok t → exec .hostBarAccess s = .next t) ∧
      (∀ c va, u.bar2Write off bs = .error (.trap c va) → exec .hostBarAccess s = .next (u.hostRefused off))) ∧
    (∀ off n, Claims.HostNext s (.bar4Read off n) rest →
      (∀ a, s.bar2 (off % 2 ^ 40) n .read = .ok a → s.unbacked (off % 2 ^ 40) n = false →
        exec .hostBarAccess s = .next (u.hostData (List.replicate n 255))) ∧
      (∀ a, s.bar2 (off % 2 ^ 40) n .read = .ok a → s.unbacked (off % 2 ^ 40) n = true →
        exec .hostBarAccess s = .next ((u.hostData (List.replicate n 255)).hostRefused off)) ∧
      (∀ va, s.bar2 (off % 2 ^ 40) n .read = .error (.trap .access va) →
        exec .hostBarAccess s = .next ((u.hostData (List.replicate n 255)).hostRefused off))) ∧
    (∀ off n, Claims.HostNext s (.bar0Read off n) rest →
      exec .hostBarAccess s = .next (u.hostData ((List.range n).map (fun i => s.bar0Byte (off + i))))) ∧
    (∀ mode off bs, Claims.HostNext s (.bar4Write mode off bs) rest →
      let chunk := off / 512 * 512
      let key := mode * 2 ^ 40 + chunk
      let v := u.washAgain key (off % 512)
      let rest' := washParts off bs
      (∀ t, State.washWrites mode rest' u = .ok t → exec .hostWashChunkWrite s = .next t) ∧
      (bs ≠ [] → off % 512 + bs.length ≤ 512 → rest' = [(off, bs)]) ∧
      (∀ c va, u.washPlace mode chunk = .error (.trap c va) →
        u.washWrite mode off bs = .ok ((v.setWashing key (some none)).hostRefused (mode * 2 ^ 40 + off))) ∧
      (u.washPlace mode chunk = .ok none → u.washWrite mode off bs = .ok (v.washFail key)) ∧
      (∀ x o, u.washPlace mode chunk = .ok (some (x, o)) →
        (u.washGather key (off % 512) bs = none → u.washWrite mode off bs = .ok (v.washFail key)) ∧
        (∀ acc, u.washGather key (off % 512) bs = some acc → mode = 0 →
          (acc.length < 512 → u.washWrite mode off bs = .ok (v.setWashing key (some (some acc)))) ∧
          (acc.length = 512 → u.washWrite mode off bs =
            .ok (v.hostSees ((v.setWashing key none).storeWashed u.tower x o 0 acc)))))) ∧
    (∀ n v, Claims.HostNext s (.hmbCtl n v) rest →
      let m := s.mailbox n
      let len := bits v.toNat 0 13
      (v.getLsbD 16 = true → m.device = false → len ≤ 4096 →
        let t := u.setMailbox n { m with len := len, device := true }
        exec .hmbCtl s = .next
          ({ t with host := { t.host with refused := t.host.refused.filter (fun k => decide (k ≠ n)) } }.testParks)) ∧
      (v.getLsbD 16 = false ∨ m.device = true ∨ 4096 < len → n ∉ s.host.refused →
        exec .hmbCtl s = .next { u with host := { u.host with refused := u.host.refused ++ [n] } })) ∧
    (∀ ones, Claims.HostNext s (.hmbPend ones) rest →
      exec .hmbPend s = .next { u with host := { u.host with pend := s.host.pend &&& ~~~ones } }) ∧
    (∀ n off bs, Claims.HostNext s (.hmbBuf n off bs) rest →
      ((s.mailbox n).device = true → exec .mailboxBufferWrite s = .next u) ∧
      ((s.mailbox n).device = false → exec .mailboxBufferWrite s = .next
        (u.setMailbox n ((s.mailbox n).write off (bs.take (4096 - off)))))) ∧
    (∀ bs, Claims.HostNext s (.attNonce bs) rest → s.arg.x = 1 →
      exec .registerWrite s = .next { u with host := { u.host with nonce := bs.take 32 } }) ∧
    (s.arg.x ≤ 64 → s.host.linkUp = true → s.host.funcMask = false → s.host.msiPend.getLsbD s.arg.x = true →
      s.host.msiMask.getLsbD s.arg.x = false → exec .msixSend s = .next
        ({ s with host := { s.host with msiPend := s.host.msiPend &&& ~~~(1#65 <<< s.arg.x) } }.hostGive (.msix s.arg.x))) ∧
    (∃ t, exec .towerReset s = .next t ∧ t.mem = s.mem ∧ t.tower = s.tower ∧ t.tasks = [] ∧ t.host.staging = true ∧
      t.host.bootStat = 0 ∧ t.rub.running = false ∧ t.host.resets = s.host.resets + 1 ∧ t.tsc = 0 ∧
      t.frozen = false ∧ t.sealed = false ∧ (∀ x k, (t.level x).badCopy k = false)) ∧
    (∀ v, Claims.HostNext s (.bootLen v) rest →
      let h := { u.host with bootLen := v }
      (s.host.bootStat = 1 ∨ s.host.bootStat = 2 ∨ s.host.bootStat = 6 → exec .bootLenWrite s = .next { u with host := h }) ∧
      (s.host.bootStat ≠ 1 → s.host.bootStat ≠ 2 → s.host.bootStat ≠ 6 →
        exec .bootLenWrite s = .next { u with host := { h with bootStat := 1 } })) ∧
    (s.host.bootStat = 1 →
      (s.imageBad = true → exec .bootVerifyDone s = .next { s with host := { s.host with bootStat := 5 } }) ∧
      (∀ r, s.verify = r → r ≠ 2 → exec .bootVerifyDone s = .next { s with host := { s.host with bootStat := r } }) ∧
      (s.verify = 2 → exec .bootVerifyDone s = .next { s with
        host := { s.host with
          bootStat := 2, staging := false, version := BitVec.ofNat 64 (s.imageNat 24 8), digest := s.imageDigest }
        rub := { s.rub with running := true, pc := BitVec.ofNat 50 ((s.imageBase + 8192 + s.imageNat 16 8) / 4) } })) ∧
    (∀ v, Claims.HostNext s (.attGo v) rest →
      (v = 1 → s.host.attGo.getLsbD 0 = false →
        exec .attGo s = .next { u with host := { u.host with attGo := 1, taken := s.host.nonce } }) ∧
      ((v ≠ 1 ∨ s.host.attGo.getLsbD 0 = true) → exec .attGo s = .next u)) ∧
    (s.host.attGo.getLsbD 0 = true → s.serviceFree = true → exec .attReportDone s = .next { s with host := { s.host with
      attGo := 2
      report := s.reportHead ++ sized 3309 (Config.attSign (shake256 64 s.reportHead)) } })

/-- R191, R394, R395: a monitor unit records the oldest value measured for it; a sample is written once per interval. -/
def MonitorEvents : Prop :=
  (∀ (s : State) (v : Nat) (rest : List Nat), (s.monitor (s.arg.x / 2) (s.arg.x % 2)).pending = v :: rest →
    ∃ u, exec .monitorRecord s = .next u ∧
      let m := s.monitor (s.arg.x / 2) (s.arg.x % 2)
      let n := u.monitor (s.arg.x / 2) (s.arg.x % 2)
      n.pending = rest ∧ n.count = m.count + 1 ∧ n.min.toNat = min m.min.toNat (min v (2 ^ 32 - 1)) ∧
      n.max.toNat = max m.max.toNat (min v (2 ^ 32 - 1))) ∧
  (∀ (s : State) (t : Task) (m : Sampling), s.task? s.arg.x = some t → t.sampling = some m → t.run = .running →
    t.isResident = true → m.nextAt ≤ s.cyc t.core →
    (t.sampled m.written = none → exec .pcSample s = .next (s.setTask s.arg.x { t with sampling := none })) ∧
    (∀ st u, t.sampled m.written = some st →
      s.viewWrite ({ s with cur := .task s.arg.x .a }.aEngine) (m.buf.toNat + 32 * m.written) (s.sampleRecord s.arg.x t st) = .ok u →
      let n := { m with written := m.written + 1, nextAt := m.nextAt + m.interval }
      exec .pcSample s = .next (u.setTask s.arg.x { t with sampling := if n.written = n.capacity then none else some n })))

end Sys2Proof.Claims

/-- R186, R191, R303, R394, R395, R409 to R413, R425 to R427: the host, boot and attestation, monitors and samples. The model's choices
among them: BAR 2 reaches the staging area without an access-table check (log entry 123); the order of the tests of an image, and a
`boot.len` written while it is verified (124); and what a tower reset keeps (125). -/
def Obligations.HostAndMonitorEvents : Prop := Claims.HostEvents ∧ Claims.MonitorEvents

namespace Sys2Proof.Claims

/-- The opcodes that Tables 4.1, 4.5 and 4.8 assign. -/
def assigned (sp : Space) (op : Nat) : Prop :=
  match sp with
  | .a | .rub =>
    (1 ≤ op ∧ op ≤ 0x22) ∨ (0x30 ≤ op ∧ op ≤ 0x36) ∨ (0x40 ≤ op ∧ op ≤ 0x49) ∨ (0x50 ≤ op ∧ op ≤ 0x5C) ∨
      (0x60 ≤ op ∧ op ≤ 0x6C) ∨ (0x70 ≤ op ∧ op ≤ 0x81)
  | .x =>
    (1 ≤ op ∧ op ≤ 0x1B) ∨ (0x20 ≤ op ∧ op ≤ 0x32) ∨ (0x40 ≤ op ∧ op ≤ 0x46) ∨ (0x50 ≤ op ∧ op ≤ 0x52) ∨
      (0x60 ≤ op ∧ op ≤ 0x68) ∨ (0x70 ≤ op ∧ op ≤ 0x74) ∨ (0x78 ≤ op ∧ op ≤ 0x7D) ∨ (0x80 ≤ op ∧ op ≤ 0x85) ∨
      (0x90 ≤ op ∧ op ≤ 0x91)
  | .m => 1 ≤ op ∧ op ≤ 0x12

/-- The words of the A stream that write no memory, and the register each writes; `a0` where it writes none. -/
def registerDest : Instr → Option (BitVec 6)
  | .add w | .sub w | .mul w | .mulh w | .mulhn w | .div w | .divn w | .rem w | .remn w | .and w | .or w | .xor w | .andn w
  | .shl w | .shr w | .sra w | .rol w | .ror w | .clz w | .ctz w | .popc w | .min w | .max w | .minn w | .maxn w | .sel w
  | .slt w | .sltn w | .seq w | .adds w | .jr w => some w.d
  | .addi w | .li w | .bfx w | .bfi w => some w.d
  | .jal w => some w.a
  | .b _ | .j _ => some 0
  | .nop _ => some 0
  | .tsc w => some w.d
  | _ => none

/-- What no word of the A stream that only computes changes in a task: all but its A registers, its A stream, its flags and
its loads. -/
def taskRest (t : Task) : Task :=
  { t with regs := [], sa := StreamSt.start 0, csr := { t.csr with fpFlags := 0 }, loads := [], meetsBad := none }

/-- The same of the Rubricator: all but its A registers, its program counter and its loads. -/
def rubRest (r : Rub) : Rub := { r with regs := [], pc := 0, loads := [], meetsBad := none }

/-- The invariant: memory is in canonical form, and the turn is one that a run can meet. -/
def Inv (s : State) : Prop := s.memoryOk ∧ s.turn.proper = true

end Sys2Proof.Claims

/-- The worked encodings of the manual (Example 4.1 and Tables 3.9, 4.10, 5.6, 6.9, 7.4, 8.8, 9.5, 10.6, 11.4, 19.4, 20.4, 21.5
and 22.6): each word decodes to the instruction the manual prints beside it, or meets the fate of Table 4.10. -/
def Obligations.DecodedWords : Prop :=
  decode .a 0x03000C400000000000000064#96 = .ok (.addi { fn := 0, d := 3, a := 4, imm := 100 }) ∧
  decode .a 0x300410500000FFFFFFFFFFF1#96 = .ok (.b { cc := 4, a := 4, b := 5, off := -15 }) ∧
  decode .a 0x50000140228B00C050000000#96 = .ok (.cpy
    { fn := 0, gd := 5, gs := 2, d := 10, a := 11, b := 0, ext := 12, bar := 40, scope := 0, acq := 0, rel := 0, hnd := 0
      wash := 0, opt := 0 }) ∧
  decode .a 0x670000011146000000D00000#96 = .ok (.sadd
    { fn := 0, sem := 17, d := 5, a := 6, b := 0, scope := 3, acq := 0, rel := 1 }) ∧
  decode .rub 0x7B0101600002000000000000#96 = .ok (.qentCopy { fn := 1, d := 0, a := 22, b := 0, obj := 2, imm := 0 }) ∧
  decode .x 0x01000A0814040A4200041800#96 = .ok (.vadd
    { k := 0, d := 0x141, a := 0x501, b := 0x521, md := 0, ty := 2, rnd := 0, sat := 0, sgn := 3, reuse := 0, dead := 0
      fn := 0 }) ∧
  decode .x 0x23000838061C040E0287D000#96 = .ok (.vfma
    { k := 0, d := 0x107, a := 0x187, b := 0x207, c := 0x287, ty := 13, rnd := 0, sat := 0, sgn := 0, dead := 0, fn := 0 }) ∧
  decode .x 0x72002040021C00000023C000#96 = .ok (.vtwg
    { k := 0, d := 0x408, a := 0x87, imm := 8, ty := 15, rnd := 0, sat := 0, fn := 0 }) ∧
  decode .x 0x800000000000006400000009#96 = .ok (.loop { k := 0, fn := 0, lc := 0, csrc := 0, q := 0, count := 100, off := 9 }) ∧
  decode .x 0x42003008141C00020012001D#96 = .ok (.vqmx
    { k := 0, d := 0x601, a := 0x507, b := 1, md := 0, ty := 9, rnd := 0, sat := 0, sgn := 0, reuse := 0, dead := 0, fn := 0x1D }) ∧
  decode .x 0x6700780E0004000000041000#96 = .ok (.vmov
    { k := 0, d := 0xF01, a := 0x18001, b := 0, md := 0, ty := 2, rnd := 0, sat := 0, sgn := 2, reuse := 0, dead := 0, fn := 0 }) ∧
  decode .x 0x2500303E001C0A0E0487D000#96 = .ok (.vfnma
    { k := 0, d := 0x607, a := 0x18007, b := 0x507, c := 0x487, ty := 13, rnd := 0, sat := 0, sgn := 0, dead := 0, fn := 0 }) ∧
  decode .m 0x0400200A110C080048000000#96 = .ok (.mmaz
    { ms := 0, ga := 4, gb := 5, ca := 1, cb := 2, ct := 3, kk := 512, acc := 0, mtype := 9, mrnd := 0, msat := 0, ta := 0
      tb := 0, cfn := 0 }) ∧
  decode .m 0x0E0010000001000400000200#96 = .ok (.mrep { fn := 0, creg := 2, imm := 0x0001000400000200 }) ∧
  decode .a 0x800000000000000000000000#96 = .ok (.proofStart { fn := 0, d := 0, a := 0, b := 0, obj := 0, imm := 0 }) ∧
  decode .a 0x800000000000000000000001#96 = .error .reservedField ∧
  decode .rub 0x340000000000000000000000#96 = .error .illegalOp ∧
  decode .m 0x130000000000000000000000#96 = .error .illegalOp ∧
  decode .x 0x750000000000000000000000#96 = .error .illegalOp ∧
  decode .x 0x410000000000000000000003#96 = .error .reservedField

/-- R87, R92, R98: every well-formed word decodes, in its opcode space, to the instruction it encodes: no field of any format is
dropped or moved. The two actions of PROOF share a word. -/
def Obligations.EncodeThenDecode : Prop :=
  ∀ (i : Instr) (sp : Space), i.space = some sp → i.wf = true → decode sp (encode i) = .ok i.asWord

namespace Sys2Proof.Claims

/-- R86, R104, R119: what decodes is well-formed and encodes to the very word, so no two words decode to one instruction; the
words that are refused as ILLEGAL_OP are those of an opcode the map of the stream leaves unassigned, and on the Rubricator also
those it lacks; the all-zero word is one of them. -/
def WordsOfInstructions : Prop :=
  ∀ (sp : Space) (v : BitVec 96),
    (∀ i, decode sp v = .ok i → encode i = v ∧ i.wf = true) ∧
    (decode sp v = .error .illegalOp ↔ ¬Claims.assigned sp (opcode v) ∨ (sp = .rub ∧ rubLacks (opcode v) = true)) ∧
    decode sp 0 = .error .illegalOp

end Sys2Proof.Claims

/-- R86, R104, R119: what decodes is well-formed and encodes to its word, and which words are refused as ILLEGAL_OP. -/
def Obligations.DecodeThenEncode : Prop := Claims.WordsOfInstructions ∧ Claims.RubricatorLacks

namespace Sys2Proof.Claims

/-- R76, R86, R134: a step runs the decoded word. When an agent whose turn it is may issue, no grant holds it, and the twelve bytes
at its program counter decode to `i`, the step is `exec` of `i` (of the action of PROOF that its register names, R190). Around it:
the issue is counted unless the word waits; the sectors it accesses are counted for conflicts, which changes that count alone; and
who knows of its writes is kept (R309), which changes the order alone. A word that does not decode takes its trap; an agent that may
not issue, or waits for a grant, holds; a step that is no word is `exec` of it; and with no turn the step chooses the next one. -/
def StepOfWord : Prop :=
  ∀ (s : State),
    (∀ ag bs, s.turn = .word ag →
      let u := s.begin ag
      u.cur = ag ∧ u.turn = .idle ∧
      (u.mayRun ag = true → u.grantHeld ag = false → u.fetchWord = .ok bs →
        (∀ i, decode ag.space (bytesWord bs) = .ok i → step s = u.owns (u.conflicted i (u.settle (exec (u.resolve i) u)))) ∧
        (∀ d, decode ag.space (bytesWord bs) = .error d →
          let v := u.takeTrap (match d with
            | .illegalOp => .illegalOp
            | .reservedField => .reservedField) 0
          step s = .next (if v.stalled then v else u.issued v))) ∧
      (u.mayRun ag = false ∨ u.grantHeld ag = true → step s = .next (u.stallForGrant ag).held)) ∧
    (∀ v, s.settle (.next v) = .next (if v.stalled then v else s.issued v)) ∧
    (∀ i v, ∃ w, s.conflicted i (.next v) = .next w ∧ w = { v with cores := w.cores, conflicts := w.conflicts }) ∧
    (∀ v, ∃ w, s.owns (.next v) = .next w ∧ w = { v with order := w.order }) ∧
    (∀ i a, s.turn = .event i a → step s = exec i { s with turn := .idle, arg := a, stalled := false }) ∧
    (s.turn = .idle → step s = .next s.schedule) ∧
    (∀ i, (∀ w, i ≠ .proofStart w) → s.resolve i = i)

/-- R134, R9: where the Rubricator's word lies: the twelve bytes at four times its program counter, lowest address first. -/
def RubricatorFetch : Prop :=
  ∀ (s : State) (tw x o : Nat), s.cur = .rub → s.place (4 * s.rub.pc.toNat) = .store tw x o →
    s.physCheck (rubIdent s.tower) .engine .fetch (4 * s.rub.pc.toNat) 12 = .ok (.store tw x o) →
    s.washed = [] →
    s.fetchWord = .ok ((List.range 12).map (fun i => s.byte (tw * 2 ^ 40 + o + i)))

end Sys2Proof.Claims

/-- R76, R86, R134, R9: a step runs the word that the bytes at the program counter decode to, and where the Rubricator's bytes lie. -/
def Obligations.StepRunsDecodedWord : Prop := Claims.StepOfWord ∧ Claims.RubricatorFetch

/-- Every step keeps the canonical form of memory and the turn a proper one, from every state that has them; no step changes
which tower this is. -/
def Obligations.StepKeepsInv : Prop :=
  ∀ (s t : State), Claims.Inv s → step s = .next t → Claims.Inv t ∧ t.tower = s.tower

/-- The machine goes on: from every state whose turn a run can meet, a step neither faults nor is refused. -/
def Obligations.StepGoesOn : Prop :=
  ∀ s : State, s.turn.proper = true → goesOn (step s)

/-- The state after reset: the invariant holds; and no task, firing, copy, arming or record; `tsc` 0; boot not begun, the staging
area open, the Rubricator not running; the banks of Table 12.3, no remap frozen. The zeros of memory and of the semaphores and the
1,250 MHz of the clusters are the model's choice (log entries 2, 3 and 5). -/
def Obligations.ResetState : Prop :=
  let s := State.reset
  Claims.Inv s ∧ s.tasks = [] ∧ s.tsc = 0 ∧ s.copies = [] ∧ s.armings = [] ∧ s.records = [] ∧ s.turn = .idle ∧
  (∀ c n, s.bar c n = { count := 0, target := 0, firing := 0, scope := 0, regions := [], forward := 0 }) ∧
  (∀ n, s.sem n = 0) ∧ (∀ a, s.byte a = 0) ∧ (∀ c, (s.cluster c).mhz = 1250) ∧
  s.rub.running = false ∧ s.host.bootStat = 0 ∧ s.host.staging = true ∧ s.frozen = false ∧ s.sealed = false ∧
  (s.level 0).banks = 8192 ∧ (s.level 1).banks = 4096 ∧ (s.level 2).banks = 4096 ∧ (s.level 3).banks = 2048

/-- R14: the A registers. `a0` reads 0 and discards what is written to it; any other register reads as last written, by whoever
runs; a write changes no other register, nothing else of the task or of the Rubricator but what a load in flight would write,
and nothing else of the machine. -/
def Obligations.RegisterFile : Prop :=
  ∀ (s : State) (n m : BitVec 6) (v : Word), s.acts .a = true →
    let u := s.setReg n v
    u.reg 0 = 0 ∧ (n ≠ 0 → u.reg n = v) ∧ (m ≠ n → u.reg m = s.reg m) ∧ (n = 0 → u.tasks = s.tasks ∧ u.rub = s.rub) ∧
    u = { s with tasks := u.tasks, rub := u.rub } ∧
    (∀ id st, s.cur = .task id st → u.rub = s.rub ∧ (∀ j, j ≠ id → u.task? j = s.task? j) ∧
      ∀ t, s.task? id = some t → ∃ k ls, u.task? id = some { t with regs := k, loads := ls }) ∧
    (s.cur = .rub → u.tasks = s.tasks ∧ ∃ k ls, u.rub = { s.rub with regs := k, loads := ls })

namespace Sys2Proof.Claims

/-- R9: memory reads as it was written. A value stored in `n` little-endian bytes reads back as the value, every other byte as
before, whatever was stored there; the canonical form is kept. -/
def BytesAsWritten : Prop :=
  ∀ (s : State) (a n v : Nat),
    let u := s.setBytes a (leBytes n v)
    leNat (u.bytes a n) = v % 256 ^ n ∧ (leBytes n v).length = n ∧
    (∀ c, ¬within c a n → u.byte c = s.byte c) ∧ (s.memoryOk → u.memoryOk) ∧
    (∀ i, i < n → u.byte (a + i) = BitVec.ofNat 8 (v / 256 ^ i))

/-- A lag is well-formed: eight bytes at every moment, and of each of them at most all the writes seen. -/
def LagOk (g : Lag) : Prop :=
  g.base.length = 8 ∧ g.pos.length = 8 ∧ (∀ w ∈ g.later, w.bytes.length = 8) ∧ ∀ p ∈ g.pos, p ≤ g.later.length

/-- R314: what changes the lags keeps them well-formed. -/
def LagsKept : Prop :=
  ∀ (o : Order), (∀ g ∈ o.lags, LagOk g) →
    (∀ (k i n : Nat) (bs : List Byte), bs.length = 8 → ∀ g ∈ (o.note k i n bs).lags, LagOk g) ∧
    (∀ p, ∀ g ∈ (o.reach p).lags, LagOk g) ∧
    (∀ who k bs, bs.length = 8 → ∀ g ∈ (o.lag who k bs).lags, LagOk g) ∧
    (∀ who a m n, ∀ g ∈ (o.see who a m n).lags, LagOk g) ∧
    (∀ v w, ∀ g ∈ (o.clone v w).lags, LagOk g)

/-- R313, R314: what a viewer sees of memory, `bs` being the newest bytes at `a`. One that lags at no doubleword of them sees them; one
that lags at a doubleword sees each element of it, aligned, at one moment: after so many writes as it has seen of any byte of it; and a
write to a doubleword shows nothing new to whoever lags there. -/
def ViewsOfMemory : Prop :=
  ∀ (o : Order) (who : Viewer) (grain a k : Nat) (bs : List Byte),
    o.view none grain a bs = bs ∧
    ((∀ i < bs.length, ∀ g ∈ o.lags, g.who = who → g.key ≠ (a + i) / 8) → o.view (some who) grain a bs = bs) ∧
    (∀ g i, o.lags.find? (fun g => decide (g.who = who) && decide (g.key = k)) = some g → LagOk g →
      grain ∈ [1, 2, 4, 8] → i % grain = 0 → i < 8 → bs.length = grain →
      o.view (some who) grain (8 * k + i) bs = ((g.version (g.at i grain)).drop i).take grain) ∧
    (∀ i n new, (∀ g ∈ o.lags, LagOk g) → (o.note k i n new).view (some who) grain a bs = o.view (some who) grain a bs)

end Sys2Proof.Claims

/-- R9, R313, R314: memory reads as it was written, and what a viewer that lags sees of it. That lags are of aligned doublewords,
kept byte by byte, is the model's choice (log entry 23). -/
def Obligations.MemoryBytes : Prop := Claims.BytesAsWritten ∧ Claims.LagsKept ∧ Claims.ViewsOfMemory

/-- What a word of the A stream that only computes leaves unchanged, unless it traps: every register but its destination, all of
memory, every special register but the saturation flag that ADDS sets, semaphores, barriers, copies, and every other task. -/
def Obligations.RegisterWordFrame : Prop :=
  ∀ (i : Instr) (d : BitVec 6) (s t : State), Claims.registerDest i = some d → exec i s = .next t →
    (∀ c va, t ≠ s.takeTrap c va) → (∀ v c va, t ≠ (s.setReg d v).takeTrap c va) →
    (∀ m, m ≠ d → t.reg m = s.reg m) ∧ (∀ a, t.byte a = s.byte a) ∧
    t = { s with tasks := t.tasks, rub := t.rub, stalled := t.stalled } ∧
    (∀ id st, s.cur = .task id st → t.rub = s.rub ∧ (∀ j, j ≠ id → t.task? j = s.task? j) ∧
      ∀ u, s.task? id = some u → ∃ v, t.task? id = some v ∧ Claims.taskRest v = Claims.taskRest u ∧
        ((∀ w, i ≠ .adds w) → v.csr = u.csr) ∧
        (v.csr = u.csr ∨ v.csr = { u.csr with fpFlags := u.csr.fpFlags ||| 32 })) ∧
    (s.cur = .rub → t.tasks = s.tasks ∧ Claims.rubRest t.rub = Claims.rubRest s.rub)

namespace Sys2Proof.Claims

/-- R53: E2M1 takes the values of Table 2.5, and has no infinity and no NaN. The list gives twice the magnitude of each code. -/
def ElementValues : Prop :=
  ∀ code < 16, ∃ x, fF4.value code = .fin x ∧ x.more = false ∧ x.neg = decide (8 ≤ code) ∧ -1 ≤ x.exp ∧
    x.mag * 2 ^ (x.exp + 1).toNat = [0, 1, 2, 3, 4, 6, 8, 12].getD (code % 8) 0

/-- R55: an E8M0 code below 0xFF is a power of two, 0xFF is NaN; no code is zero, infinite or negative. EncodeScale clamps
below silently and above with SAT. -/
def ScaleCodes : Prop :=
  let one : Val := .fin { neg := false, mag := 1, exp := 0, more := false }
  (∀ k : Nat, k ≤ 0xFE → mxValue one k = .fin { neg := false, mag := 1, exp := (k : Int) - 127, more := false }) ∧
  mxValue one 0xFF = .nan false ∧
  (∀ j : Int, j < -127 → encodeScale j = (0x00, 0)) ∧ (∀ j : Int, 127 < j → encodeScale j = (0xFE, flagSAT)) ∧
  (∀ j : Int, -127 ≤ j → j ≤ 127 → ((encodeScale j).1 : Int) = j + 127 ∧ (encodeScale j).2 = 0)

end Sys2Proof.Claims

/-- R53, R55: the values of E2M1 codes and of E8M0 codes, and how EncodeScale clamps. -/
def Obligations.ElementAndScaleCodes : Prop := Claims.ElementValues ∧ Claims.ScaleCodes

/-- R79: a header that meets one of the five conditions traps with SECTION_FORMAT, precisely, with the pc at its first parcel:
nothing else of the task's work is done. The layout of the header is Table 3.1's. -/
def Obligations.HeaderChecks : Prop :=
  ∀ (s : State) (t : Task) (bs : List Byte), s.task? s.arg.x = some t →
    let st := streamOf s.arg.y
    let v := t.stream st
    t.live = true → v.phase = .header → v.stopped = false → v.left.length < 16 → (st ≠ .x ∨ t.xNext ≤ s.cyc t.core) →
    s.fetch s.arg.x t.core t.asid st.code v.pc 8 = .ok bs →
    let h := BitVec.ofNat 64 (leNat bs)
    h.extractLsb' 60 4 ≠ 9#4 ∨ h.extractLsb' 48 12 = 0#12 ∨ h.extractLsb' 0 13 ≠ 0#13 ∨
      (h.getLsbD 15 = false ∧ h.extractLsb' 32 16 ≠ 0#16) ∨ (h.getLsbD 14 = false ∧ h.extractLsb' 16 16 ≠ 0#16) →
    ∃ u r t', exec .headerEntry s = .next u ∧ u.records = s.records ++ [r] ∧ r.cause = some .sectionFormat ∧
      r.pc = v.pc.toNat ∧ r.stream = st.code ∧ u.task? s.arg.x = some t' ∧
      (t.handler = none → t'.csr.trapPc = v.pc ∧ t'.csr.trapCause = BitVec.ofNat 8 Cause.sectionFormat.code) ∧
      (t'.stream st).pc = v.pc ∧ (t'.stream st).sec = v.sec ∧ (t'.stream st).phase = .header ∧
      t'.slices = t.slices ∧ t'.preds = t.preds ∧ u.mem = s.mem

/-- R125: ADDS clamps the signed sum to 64 bits. In a task a clamped result sets SAT, and no other flag changes; on the Rubricator
no flag is set. It never traps: no record is posted and no handler entered. The sum of the manual's example is clamped. -/
def Obligations.SaturatingAdd : Prop :=
  (∀ (w : AR) (s : State), Claims.Reads s [w.a, w.b] →
    let sum := (s.reg w.a).toInt + (s.reg w.b).toInt
    let clamped := max (-2 ^ 63) (min (2 ^ 63 - 1) sum)
    ∃ u, exec (.adds w) s = .next u ∧ u.reg w.d = (if w.d = 0 then 0 else BitVec.ofInt 64 clamped) ∧ u.records = s.records ∧
      (∀ id t, s.cur = .task id .a → s.task? id = some t → ∃ t', u.task? id = some t' ∧
        t'.csr = { t.csr with fpFlags := if clamped = sum then t.csr.fpFlags else t.csr.fpFlags ||| 32 } ∧
        t'.handler = t.handler ∧ t'.run = t.run) ∧
      (s.cur = .rub → u.tasks = s.tasks ∧ u.rub.inHandler = s.rub.inHandler ∧ u.rub.pc = s.rub.pc + 3)) ∧
  max (-2 ^ 63) (min (2 ^ 63 - 1) ((0x7FFFFFFFFFFFFFF0#64).toInt + (0x20#64).toInt)) = (0x7FFFFFFFFFFFFFFF#64).toInt

/-- R133: NOP issues, occupies one word of its span and changes nothing else. As the last word of a span it falls through to the
next header. -/
def Obligations.NoOperation : Prop :=
  ∀ (r : AR) (s : State), Claims.Reads s [] →
    (∀ id t, s.cur = .task id .a → s.task? id = some t → t.handler = none →
      (t.sa.pc + 3 ≠ t.sa.hdr + BitVec.ofNat 50 (2 + 3 * t.sa.len) →
        exec (.nop r) s = .next (s.onTask id (fun t => { t with sa := { t.sa with pc := t.sa.pc + 3 } }))) ∧
      (t.sa.pc + 3 = t.sa.hdr + BitVec.ofNat 50 (2 + 3 * t.sa.len) →
        exec (.nop r) s = .next (s.onTask id (fun t => { t with
          sa := { t.sa with phase := .header, pc := t.sa.pc + 3, len := 0, left := t.sa.left ++ [t.sa.sec] } })))) ∧
    (s.cur = .rub → exec (.nop r) s = .next { s with rub := { s.rub with pc := s.rub.pc + 3 } })

/-- R199: the count of the lane shifts, and what a count of the full width gives: zero for VSHL without saturation, a clamp of any
non-zero value with it, zero for VSHR, copies of the sign bit for VSRA. -/
def Obligations.ShiftCounts : Prop :=
  ∀ (w : XV3) (x y : Int), w.ty.toNat < 8 →
    let ty := w.ty.toNat
    let n := typeBits ty
    intMin n (typeSigned ty) ≤ x → x ≤ intMax n (typeSigned ty) →
    (0 ≤ y → y < n → (shiftCount n y : Int) = y) ∧
    (¬(0 ≤ y ∧ y < n) → shiftCount n y = n) ∧
    Claims.XLane2 .vshl w ty ty ty (timeInt ty) (fun _ x y => intResult (x * 2 ^ shiftCount n y) ty (decide (w.sat = 1))) ∧
    Claims.XLane2 .vshr w ty ty ty (timeInt ty) (fun _ x y => intResult ((intPat n x / 2 ^ shiftCount n y : Nat) : Int) ty false) ∧
    Claims.XLane2 .vsra w ty ty ty (timeInt ty)
      (fun _ x y => intResult (patInt n true (intPat n x) / 2 ^ shiftCount n y) ty false) ∧
    intResult (x * 2 ^ n) ty false = (0, 0) ∧
    (0 < x → intResult (x * 2 ^ n) ty true = (intMax n (typeSigned ty), flagSAT)) ∧
    (x < 0 → intResult (x * 2 ^ n) ty true = (intMin n (typeSigned ty), flagSAT)) ∧
    intResult ((intPat n x / 2 ^ n : Nat) : Int) ty false = (0, 0) ∧
    intPat n (intResult (patInt n true (intPat n x) / 2 ^ n) ty false).1 =
      if 2 ^ (n - 1) ≤ intPat n x then 2 ^ n - 1 else 0

/-- R208: VFCLASS puts a class mask of one bit into each lane, sets no flag, and takes the time of its source type. The bit follows
from the sign, exponent and significand fields of the pattern. -/
def Obligations.ClassMasks : Prop :=
  (∀ w : XV3, Claims.XClass w) ∧
  ∀ ty x : Nat, 8 ≤ ty → ty ≤ 13 → x < 2 ^ typeBits ty →
    let f := fmtOf ty
    let neg := x / 2 ^ (f.eb + f.mb) = 1
    let e := x / 2 ^ f.mb % 2 ^ f.eb
    let m := x % 2 ^ f.mb
    let top := e = 2 ^ f.eb - 1
    let mask := classMask f x
    (e = 0 → m = 0 → mask = if neg then 8 else 16) ∧
    (e = 0 → m ≠ 0 → mask = if neg then 4 else 32) ∧
    (e ≠ 0 → ¬top → mask = if neg then 2 else 64) ∧
    (ty = 8 → e ≠ 0 → mask = if neg then 2 else 64) ∧
    (ty = 9 → top → mask = if m = 7 then 512 else if neg then 2 else 64) ∧
    (10 ≤ ty → top → m = 0 → mask = if neg then 1 else 128) ∧
    (10 ≤ ty → top → m ≠ 0 → mask = if m < 2 ^ (f.mb - 1) then 256 else 512)

/-- R32: a scale register holds sixteen E8M0 values; value `j` lies in bits `[8j+7:8j]` and is the scale of the lanes 32j to
32j + 31, as EGET shows; at task start every value is 0x7F, which is 2^0. -/
def Obligations.ScaleRegisters : Prop :=
  (∀ (t : Task) (e j : Nat), j < 16 → t.scaleValue e j = ((t.scales.get scaleStart e).extractLsb' (8 * j) 8).toNat) ∧
  (∀ u : XI, Claims.XMake .eget u (decide (u.sat = 1)) 5
    (fun x => ((List.range 512).map (fun l => (x.t.scaleValue (u.a.toNat % 64) (l / 32) : Nat)), 0))) ∧
  (∀ (img : List Word) (entry arming core rank e j : Nat), j < 16 → (Task.start img entry arming core rank).scaleValue e j = 0x7F) ∧
  mxValue (.fin { neg := false, mag := 1, exp := 0, more := false }) 0x7F = .fin { neg := false, mag := 1, exp := 0, more := false }

/-- R294: how a virtual address is split: the index into the table of each level, the sizes of the tables, the offset in a page and
the size of the page that a leaf of each level maps. -/
def Obligations.AddressSplit : Prop :=
  (∀ va : Nat, va < 2 ^ 52 →
    va = ptIndex 3 va * 2 ^ 39 + ptIndex 2 va * 2 ^ 30 + ptIndex 1 va * 2 ^ 21 + ptIndex 0 va * 2 ^ 16 + va % 65536 ∧
    ptIndex 3 va < 8192 ∧ ptIndex 2 va < 512 ∧ ptIndex 1 va < 512 ∧ ptIndex 0 va < 32) ∧
  ptBytes 3 = 8 * 8192 ∧ ptBytes 3 = 65536 ∧ ptBytes 2 = 8 * 512 ∧ ptBytes 1 = 8 * 512 ∧ ptBytes 0 = 8 * 32 ∧
  pageBytes 2 = 2 ^ 30 ∧ pageBytes 1 = 2 ^ 21 ∧ pageBytes 0 = 65536
end

