-- ==== Sys2Proof/Tests/Slice0.lean ====
section
/-! SUPPORT. Small tests: ill-formed words are refused, words written out from the format tables decode, single steps give the
manual's values, and every statement's hypotheses are met somewhere. -/

namespace Sys2Proof.Tests

-- One theorem at a time: checked side by side these small evaluations take more memory than the whole model.
set_option Elab.async false

open Sys2Proof Sys2Proof.Machine

/-! ## Words with every field zero -/

def r0 : AR := { fn := 0, d := 0, a := 0, b := 0, c := 0 }
def i0 : AI := { fn := 0, d := 0, a := 0, imm := 0 }
def m0 : AM := { size := 0, sx := 0, scope := 0, hint := 0, d := 0, base := 0, index := 0, shift := 0, off := 0 }
def b0 : AB := { cc := 0, a := 0, b := 0, off := 0 }
def c0 : AC :=
  { fn := 0, gd := 0, gs := 0, d := 0, a := 0, b := 0, ext := 0, bar := 0, scope := 0, acq := 0, rel := 0, hnd := 0, wash := 0,
    opt := 0 }
def q0 : AQ := { fn := 0, sem := 0, d := 0, a := 0, b := 0, scope := 0, acq := 0, rel := 0 }
def s0 : AS := { fn := 0, d := 0, a := 0, b := 0, obj := 0, imm := 0 }
def v0 : XV3 :=
  { k := 0, d := 0, a := 0, b := 0, md := 0, ty := 0, rnd := 0, sat := 0, sgn := 0, reuse := 0, dead := 0, fn := 0 }
def w0 : XV4 := { k := 0, d := 0, a := 0, b := 0, c := 0, ty := 0, rnd := 0, sat := 0, sgn := 0, dead := 0, fn := 0 }
def x0 : XI := { k := 0, d := 0, a := 0, imm := 0, ty := 0, rnd := 0, sat := 0, fn := 0 }
def l0 : XC := { k := 0, fn := 0, lc := 0, csrc := 0, q := 0, count := 0, off := 0 }
def k0 : MC :=
  { ms := 0, ga := 0, gb := 0, ca := 0, cb := 0, ct := 0, kk := 0, acc := 0, mtype := 0, mrnd := 0, msat := 0, ta := 0, tb := 0,
    cfn := 0 }
def n0 : MS := { fn := 0, creg := 0, imm := 0 }

/-! ## Every check of a word's fields refuses something -/

/-- Types outside Tables 4.5 to 4.8, rounding codes above 4 (R86), type pairs of R218, reductions of R235. -/
theorem wf_refuses_types :
    ([.vadd { v0 with ty := 8 }, .vabs { v0 with ty := 1 }, .vfmul { v0 with ty := 8 }, .vfmin { v0 with ty := 14 },
      .vcmul { v0 with ty := 13 }, .vdot4 { w0 with ty := 5 }, .vqmx { v0 with ty := 11, fn := 13 },
      .vqmx { v0 with ty := 9, fn := 8 }, .vcvt { v0 with ty := 14, fn := 8 }, .vcvt { v0 with ty := 5, fn := 16 },
      .vcvte { w0 with ty := 13 }, .vred { v0 with ty := 8 }, .vred { v0 with ty := 12, fn := 3 }, .vred { v0 with fn := 6 },
      .vfadd { v0 with ty := 13, rnd := 5 }, .vadd { v0 with rnd := 1 }, .mmb { k0 with mtype := 12 },
      .mma { k0 with mtype := 13 }, .mld { k0 with mtype := 8 }, .mmi { k0 with mtype := 4 },
      .mst { k0 with mtype := 14 }, .eset { x0 with ty := 2 }, .eget { x0 with ty := 4 }] : List Instr).all
      (fun i => !i.wf) = true := by decide

/-- Scopes (R86), conditions (Table 3.5), bit fields (R126), barrier operands (R90), semaphore scopes (R170), functions. -/
theorem wf_refuses_access :
    ([.lds { m0 with scope := 5 }, .b { b0 with cc := 6 }, .bfx { i0 with imm := 0 }, .bfx { i0 with imm := 65 },
      .bfx { i0 with imm := 0x3F02 }, .bfx { i0 with imm := 0x81 }, .bfx { i0 with imm := 0x4001 }, .bfx { i0 with imm := 0x20001 },
      .bfi { i0 with imm := 0x10001 }, .bxp { c0 with hnd := 1, bar := 1 }, .bxp { c0 with b := 1 }, .bxp { c0 with scope := 5 },
      .bbnd { c0 with opt := 4, bar := 1 }, .bbnd { c0 with opt := 8 }, .bubd { c0 with opt := 9 }, .sadd { q0 with scope := 1 },
      .srd { q0 with rel := 1 }, .swt { q0 with b := 1 }, .ldx { c0 with fn := 5 }, .ldx { c0 with opt := 8 },
      .gset { c0 with fn := 0x14 }, .lpatch { s0 with fn := 0x1A }, .qentCopy s0, .qentLaunch { s0 with obj := 16 },
      .mbxr { s0 with obj := 64 }, .tret { s0 with imm := 2 }, .parkSem s0] : List Instr).all
      (fun i => !i.wf) = true := by decide

/-- Fields that a word does not use hold 0 (R86). -/
theorem wf_refuses_unused :
    ([.add { r0 with fn := 1 }, .add { r0 with c := 1 }, .clz { r0 with b := 1 }, .li { i0 with a := 1 }, .j { b0 with a := 1 },
      .jal { b0 with b := 1 }, .jr { r0 with b := 1 }, .bqp { b0 with off := 1 }, .fin { r0 with a := 1 }, .nop { r0 with d := 1 },
      .ld { m0 with scope := 1 }, .st { m0 with sx := 1 }, .pref { m0 with d := 1 }, .fence { r0 with c := 1 },
      .cpy { c0 with opt := 1 }, .cpyvIn { c0 with gd := 1 }, .cpyvOut { c0 with gs := 1, opt := 1 }, .cpyb { c0 with a := 1 },
      .cpyx c0, .sbind { c0 with d := 1 }, .sdrop { c0 with gs := 1 }, .gdef { c0 with opt := 1 }, .gget { c0 with a := 1 },
      .falloc { c0 with b := 1 }, .pseal { c0 with d := 1 }, .inkr { s0 with a := 1 }, .trap { s0 with obj := 1 },
      .csrr { s0 with a := 1 }, .tsc { s0 with obj := 1 }, .lgo { s0 with d := 1 }, .proofStart { s0 with imm := 1 },
      .vpush { x0 with d := 1 }, .xj { l0 with fn := 1 }, .xfin { l0 with off := 1 }, .mclr { k0 with ga := 1 },
      .mfin { n0 with imm := 1 }, .lfree { n0 with creg := 1 }] : List Instr).all
      (fun i => !i.wf) = true := by decide

/-- Modifiers (R96), source bits (R97), predicates (R202), scale registers (R217), immediates (R224, R240, R243, R276). -/
theorem wf_refuses_execute :
    ([.vadd { v0 with md := 0x040 }, .vadd { v0 with md := 0x400 }, .vadd { v0 with md := 0x680 }, .vadd { v0 with md := 0x442 },
      .vadd { v0 with md := 0x883 }, .vadd { v0 with a := 0x18000, reuse := 2 }, .vadd { v0 with b := 0x18000, dead := 1 },
      .vcmp { v0 with d := 8 }, .vfadd { v0 with ty := 13, sgn := 2 }, .vabs { v0 with b := 1 }, .vmad { w0 with a := 0x18000, dead := 4 },
      .vfma { w0 with ty := 13, sgn := 1 }, .eset { x0 with ty := 3, d := 64 }, .esetImm { x0 with ty := 3, imm := 2 },
      .vqmx { v0 with ty := 9, fn := 13, b := 64 }, .vmovi { x0 with imm := 8 }, .vmovi { x0 with ty := 1, imm := 16 },
      .vmovi { x0 with ty := 15 }, .kand { x0 with a := 8 }, .kand { x0 with imm := 32 }, .ksetLt { x0 with imm := 513 },
      .ksetMod { x0 with fn := 2, imm := 0x2800 }, .ksetMod { x0 with fn := 2, imm := 0x403 }, .kmovTov { x0 with fn := 2, sat := 1 },
      .loop { l0 with csrc := 3 }, .loop { l0 with q := 1 }, .loop { l0 with csrc := 2, count := 4 }, .loopr { l0 with count := 1 },
      .vdead x0, .vdead { x0 with k := 1, imm := 0x2000 }, .vtwg { x0 with ty := 15, imm := 25 }, .vbf4 { w0 with ty := 14 },
      .lease n0, .lease { n0 with imm := 256 }, .mfence n0, .mbarv { n0 with imm := 0x90000 }, .mset { n0 with imm := 0x100000000 },
      .madd { k0 with cfn := 16 }, .mma { k0 with cfn := 1 }] : List Instr).all
      (fun i => !i.wf) = true := by decide

/-- A word of each family that every check passes. -/
theorem wf_accepts :
    ([.add r0, .li i0, .bfx { i0 with imm := 0x40 }, .bfx { i0 with imm := 0x3F01 }, .b { b0 with cc := 5 }, .ld m0, .cpy c0,
      .bxp { c0 with scope := 4 }, .sadd { q0 with scope := 4, acq := 1 }, .csrr s0, .vadd { v0 with md := 0x67F }, .vmad w0,
      .vmovi { x0 with imm := 7 }, .vmovi { x0 with imm := 0xFFFFFFF8 }, .ksetMod { x0 with fn := 2, imm := 0x2600 }, .loop l0,
      .loopr { l0 with count := 0x1000000 }, .mma { k0 with mtype := 12 }, .mset n0, .xIssue] : List Instr).all
      (fun i => i.wf) = true := by decide

/-! ## Words written out field by field, from Tables 3.4, 3.6 and 3.10 and the opcode maps -/

/-- `SUB a1, a2, a3` (AR): op, fn, d, a, b, c, zero. -/
theorem test_decode_sub :
    decode .a (0x02#8 ++ 0#8 ++ 1#6 ++ 2#6 ++ 3#6 ++ 0#6 ++ 0#56) = .ok (.sub { r0 with d := 1, a := 2, b := 3 }) := rfl

/-- `BFX a3, a5, 8, 17, s` (AI): op, fn, d, a, zero, imm64, with the width, the position and the sign bit of R126. -/
theorem test_decode_bfx :
    decode .a (0x20#8 ++ 0#8 ++ 3#6 ++ 5#6 ++ 0#4 ++ (0#47 ++ 1#1 ++ 0#2 ++ 17#6 ++ 0#1 ++ 8#7)) =
      .ok (.bfx { i0 with d := 3, a := 5, imm := 0x11108 }) := rfl

/-- `LDS.4S.CORE a3, [a4 + a5<<2 + 16]` (AM), the example of section 3: op, size, sx, scope, hint, d, base, index, shift, zero,
off48. -/
theorem test_decode_lds :
    decode .a (0x42#8 ++ 2#2 ++ 1#1 ++ 1#3 ++ 0#2 ++ 3#6 ++ 4#6 ++ 5#6 ++ 2#2 ++ 0#12 ++ 16#48) =
      .ok (.lds { size := 2, sx := 1, scope := 1, hint := 0, d := 3, base := 4, index := 5, shift := 2, off := 16 }) := rfl

/-- `J` (AB): op, cc, a, b, zero, off48. -/
theorem test_decode_j :
    decode .rub (0x31#8 ++ 0#8 ++ 0#6 ++ 0#6 ++ 0#20 ++ 0xFFFFFFFFFFFD#48) = .ok (.j { b0 with off := -3 }) := rfl

/-- `BXP.SUPER` by a handle (AC): op, fn, gd, gs, d, a, b, ext, bar, scope, acq, rel, hnd, wash, opt, zero. -/
theorem test_decode_bxp :
    decode .a (0x60#8 ++ 0#8 ++ 0#10 ++ 0#10 ++ 0#6 ++ 7#6 ++ 9#6 ++ 0#6 ++ 0#11 ++ 4#3 ++ 0#1 ++ 0#1 ++ 1#1 ++ 0#1 ++ 0#4 ++ 0#14) =
      .ok (.bxp { c0 with a := 7, b := 9, scope := 4, hnd := 1 }) := rfl

/-- `SWT.ACQ.TOWER` (the semaphore form): op, fn, zero, sem, d, a, b, zero, scope, acq, rel, zero. -/
theorem test_decode_swt :
    decode .a (0x6C#8 ++ 0#8 ++ 0#8 ++ 0xABC#12 ++ 5#6 ++ 6#6 ++ 0#6 ++ 0#17 ++ 3#3 ++ 1#1 ++ 0#1 ++ 0#20) =
      .ok (.swt { q0 with sem := 0xABC, d := 5, a := 6, scope := 3, acq := 1 }) := rfl

/-- `PARK` on a semaphore (AS): op, fn, d, a, b, zero, obj, imm48. -/
theorem test_decode_park :
    decode .a (0x77#8 ++ 0#8 ++ 0#6 ++ 1#6 ++ 2#6 ++ 0#2 ++ 0#12 ++ 1#48) = .ok (.parkSem { s0 with a := 1, b := 2, imm := 1 }) := rfl

/-- `VCMP` (XV3) into `k3`, with a modifier: op, k, d, a, b, mod, type, rnd, sat, sgn, reuse, dead, fn. -/
theorem test_decode_vcmp :
    decode .x (0x1A#8 ++ 1#4 ++ 3#17 ++ 0x10F#17 ++ 0x18F#17 ++ 0x67F#12 ++ 4#4 ++ 0#3 ++ 0#1 ++ 3#2 ++ 2#2 ++ 1#2 ++ 5#7) =
      .ok (.vcmp { v0 with k := 1, d := 3, a := 0x10F, b := 0x18F, md := 0x67F, ty := 4, sgn := 3, reuse := 2, dead := 1, fn := 5 }) := rfl

/-- `VMAD` (XV4): op, k, d, a, b, c, type, rnd, sat, sgn, dead, fn. -/
theorem test_decode_vmad :
    decode .x (0x05#8 ++ 2#4 ++ 0x001#17 ++ 0x021#17 ++ 0x041#17 ++ 0x061#17 ++ 2#4 ++ 0#3 ++ 1#1 ++ 3#2 ++ 4#3 ++ 0#3) =
      .ok (.vmad { w0 with k := 2, d := 0x001, a := 0x021, b := 0x041, c := 0x061, ty := 2, sat := 1, sgn := 3, dead := 4 }) := rfl

/-- `VMOVI` (XI): op, k, d, a, imm32, type, rnd, sat, fn. -/
theorem test_decode_vmovi :
    decode .x (0x68#8 ++ 0#4 ++ 0x001#17 ++ 0#17 ++ 0xFFFFFF80#32 ++ 2#4 ++ 0#3 ++ 0#1 ++ 0#10) =
      .ok (.vmovi { x0 with d := 0x001, imm := 0xFFFFFF80, ty := 2 }) := rfl

/-- `XBK` (XC): op, k, fn, lc, csrc, q, zero, count, off32. -/
theorem test_decode_xbk :
    decode .x (0x83#8 ++ 6#4 ++ 2#8 ++ 0#2 ++ 0#2 ++ 0#3 ++ 0#5 ++ 0#32 ++ 0xFFFFFFFA#32) =
      .ok (.xbk { l0 with k := 6, fn := 2, off := -6 }) := rfl

/-- `MST` (MC): op, ms, ga, gb, ca, cb, ct, K, acc, mtype, mrnd, msat, ta, tb, cfn. -/
theorem test_decode_mst :
    decode .m (0x09#8 ++ 7#3 ++ 6#10 ++ 0#10 ++ 2#5 ++ 3#5 ++ 0#5 ++ 0#16 ++ 5#3 ++ 12#4 ++ 4#3 ++ 1#1 ++ 1#1 ++ 0#1 ++ 1#21) =
      .ok (.mst { k0 with ms := 7, ga := 6, ca := 2, cb := 3, acc := 5, mtype := 12, mrnd := 4, msat := 1, ta := 1, cfn := 1 }) := rfl

/-- `MBARV.ALL bn7, 1048576` (MS): op, fn, creg, zero, imm64, with the fields of Table 11.2. -/
theorem test_decode_mbarv :
    decode .m (0x10#8 ++ 0#8 ++ 0#5 ++ 0#11 ++ (1048576#40 ++ 0#4 ++ 1#1 ++ 0#3 ++ 0#5 ++ 7#11)) =
      .ok (.mbarv { n0 with imm := 0x100000080007 }) := rfl

/-- Table 4.10: VCVTE with function 3 is RESERVED_FIELD, PROOF with a bit of imm48 too, an unassigned opcode ILLEGAL_OP. -/
theorem test_decode_fates :
    decode .x (0x41#8 ++ 0#85 ++ 3#3) = .error .reservedField ∧ decode .a (0x80#8 ++ 0#87 ++ 1#1) = .error .reservedField ∧
      decode .x (0x75#8 ++ 0#88) = .error .illegalOp := ⟨rfl, rfl, rfl⟩

/-! ## Small states -/

/-- The Rubricator runs. -/
def onRub : State := { State.reset with rub := { Rub.reset with running := true } }

/-- The first 64 KiB of T1 at virtual address 0, with every right. -/
def page : Tlb := { probePage 0 with r := true, w := true }

/-- Every right on T1 for the cores. -/
def right : AclEntry := { probeRight with w0 := 0xF800000000000000#64 }

/-- A task whose stream executes, on core 0, with memory in reach. -/
def onTask (st : Stream) (t : Task) : State :=
  { State.reset with
    tasks := [(0, t)], nextTask := 1, cur := .task 0 st, tlb := [page], acl := State.reset.acl.set AclEntry.empty 1 right }

/-- Tasks in the words of a section of one stream. -/
def aT : Task := probeTask .a
def xT : Task := probeTask .x
def mT : Task := probeTask .m
def onA (t : Task) : State := onTask .a t
def onX (t : Task) : State := onTask .x t
def onM (t : Task) : State := onTask .m t

/-- A task whose A registers from `a1` on hold the values. -/
def withRegs (vs : List Word) : Task := { aT with regs := vs.zipIdx.foldl (fun m v => m.set 0 (v.2 + 1) v.1) [] }

/-- Without loads in flight every register is ready. -/
theorem reads_any (s : State) (ns : List (BitVec 6)) (h : s.acts .a = true) (hl : s.loads = []) : Claims.Reads s ns :=
  ⟨h, by simp [State.ready, hl]⟩

theorem reads_rub (ns : List (BitVec 6)) : Claims.Reads onRub ns := reads_any _ _ rfl rfl

theorem reads_task (t : Task) (ns : List (BitVec 6)) (hl : t.loads = []) : Claims.Reads (onA t) ns := reads_any _ _ rfl hl

theorem onTask_any (t : Task) (ns : List (BitVec 6)) (hl : t.loads = []) : Claims.OnTask (onA t) 0 t ns :=
  ⟨rfl, rfl, by show ns.all _ = true; simp [State.loads, onA, onTask, State.task?, SMap.find?, hl]⟩

/-! ## Single steps with the manual's values -/

/-- The state a word leaves. -/
def after (i : Instr) (s : State) : Option State :=
  match exec i s with
  | .next t => some t
  | _ => none

/-- What a register holds after a word. -/
def regAfter (i : Instr) (s : State) (n : BitVec 6) : Option Word := (after i s).map (fun t => t.reg n)

/-- R125: the sum of the manual's example is clamped, and SAT is set. -/
theorem test_adds :
    let s := onA (withRegs [0x7FFFFFFFFFFFFFF0, 0x20])
    regAfter (.adds { r0 with d := 3, a := 1, b := 2 }) s 3 = some 0x7FFFFFFFFFFFFFFF ∧
      ((after (.adds { r0 with d := 3, a := 1, b := 2 }) s).bind (·.task? 0)).map (·.csr.fpFlags) = some 32 := by decide

/-- Table 5.7, round 1: 1,071 mod 462 is 147; and the signs of R124. -/
theorem test_remainder :
    regAfter (.remn { r0 with d := 3, a := 1, b := 2 }) (onA (withRegs [1071, 462])) 3 = some 147 ∧
      regAfter (.div { r0 with d := 1, a := 1, b := 2 }) (onA (withRegs [-7, 2])) 1 = some (-3) ∧
      regAfter (.rem { r0 with d := 1, a := 1, b := 2 }) (onA (withRegs [-7, 2])) 1 = some (-1) := by decide

/-- Table 5.2: a product and a shift that leave 64 bits. -/
theorem test_products_and_shifts :
    regAfter (.mulh { r0 with d := 3, a := 1, b := 2 }) (onA (withRegs [-1, 2])) 3 = some (-1) ∧
      regAfter (.mulhn { r0 with d := 3, a := 1, b := 2 }) (onA (withRegs [-1, 2])) 3 = some 1 ∧
      regAfter (.sra { r0 with d := 3, a := 1, b := 2 }) (onA (withRegs [0x8000000000000000, 64])) 3 = some (-1) ∧
      regAfter (.shl { r0 with d := 3, a := 1, b := 2 }) (onA (withRegs [3, 64])) 3 = some 0 ∧
      regAfter (.clz { r0 with d := 3 }) (onA (withRegs [])) 3 = some 64 := by decide

/-- R126: a field of one bit, extended by its sign, and a field inserted. -/
theorem test_bit_fields :
    regAfter (.bfx { i0 with d := 2, a := 1, imm := 0x13F01 }) (onRub.setReg 1 0x8000000000000000) 2 = some (-1) ∧
      regAfter (.bfi { i0 with d := 2, a := 1, imm := 0x404 }) ((onRub.setReg 1 0xFA).setReg 2 (-1)) 2 = some (-0x51) := by decide

/-- R128, R129: JAL leaves the next word's parcel in its register and goes to its target. -/
theorem test_jal :
    (after (.jal { b0 with a := 1, off := -6 }) { onRub with rub := { onRub.rub with pc := 100 } }).map
      (fun t => (t.reg 1, t.rub.pc)) = some (103, 94) := by decide

/-- R170: a semaphore step answers the old value; SMAX keeps the larger. -/
theorem test_semaphores :
    let s := (onRub.setSem 17 9).setReg 6 5
    (after (.sadd { q0 with sem := 17, d := 5, a := 6 }) s).map (fun t => (t.reg 5, t.sem 17)) = some (9, 14) ∧
      (after (.smax { q0 with sem := 17, d := 5, a := 6 }) s).map (fun t => (t.reg 5, t.sem 17)) = some (9, 9) ∧
      (after (.scas { q0 with sem := 17, d := 6, a := 0 }) s).map (fun t => (t.reg 6, t.sem 17)) = some (9, 9) := by decide

/-- Example 7.1: 3,072 bytes have arrived; the last 1,024 fire the barrier and leave its count 0. -/
theorem test_arrival :
    let b : Barrier := { Barrier.reset with count := 3072, target := 4096, firing := 3, scope := 1 }
    ((onRub.setBar 5 12 b).arrive 5 12 1024 false (onRub.bring .rub)).bar 5 12 = { b with count := 0, firing := 4 } := by decide

/-- R139: a halfword is stored in two bytes, the low one first. -/
theorem test_store :
    (after (.st { m0 with size := 1, d := 1, off := 6 }) (onA (withRegs [0xABCD1234]))).map
      (fun t => (t.byte 6, t.byte 7, t.byte 8)) = some (0x34, 0x12, 0) := by decide

/-- R138: a load that asks for it extends the sign. -/
theorem test_load :
    ((after (.ld { m0 with sx := 1, d := 2, off := 6 }) ((onA aT).setByte 6 0x80)).bind (·.task? 0)).map
      (fun t => t.loads.map (·.val)) = some [-128] := by decide

/-- R177, R349: TRAP with no vector parks the task on a record with cause 0x12. -/
theorem test_trap :
    (after (.trap s0) (onA aT)).map (fun t => (t.records.map (·.cause), (t.task? 0).map (·.run), (t.task? 0).map (·.csr.trapCause))) =
      some ([some .trap], some .onRecord, some 0x12) := by decide

/-- Example 12.3: the indices of a walk of 0x8_0123_4567. -/
theorem test_indices :
    [ptIndex 3 0x801234567, ptIndex 2 0x801234567, ptIndex 1 0x801234567, ptIndex 0 0x801234567] = [0, 32, 9, 3] := by decide

/-- Table 8.4: requantising by VRSH, to nearest even and away from zero, with the saturation at both ends. -/
theorem test_vrsh :
    [4736, -4736, 40000, -33000].map (fun x => satInt (roundRatio x 8 0) 8 true) = [(18, 0), (-18, 0), (127, 32), (-128, 32)] ∧
      [4736, -4736].map (fun x => satInt (roundRatio x 8 4) 8 true) = [(19, 0), (-19, 0)] := by decide

/-- Table 9.2: the codes, the scale and the flags of a block. -/
theorem test_quantise :
    let act := List.replicate 4 true
    (let r := quantBlock 13 9 0 act [0x42C80000, 0x40400000, 0xBEC00000, 0x80000000]; (r.1, r.2.1)) =
        ([0x7C, 0x54, 0xBC, 0x80], some 0x7D) ∧
      (let r := quantBlock 13 9 0 act [0x447A0000, 0x3F000000, 0, 0]; (r.1, r.2.1)) = ([0x7E, 0x28, 0, 0], some 0x80) := by decide

/-- Table 2.9: the first and last calls of VCVTE, code and residue. -/
theorem test_error_feedback :
    let f (a c : Int) := let r := errorFeedback (valOf 13 a) (valOf 12 c) 8 12; (r.1, r.2.1)
    f 0x3FA00000 0 = (2, 0x3E80) ∧ f 0x40A00000 0 = (6, 0x3F80) ∧ f 0x40E00000 0x4040 = (7, 0x4080) := by decide

/-- Table 9.6: two twiddle factors of 256, real and imaginary. -/
theorem test_twiddle :
    (twiddle fF32 0 8 32 false).1.1 = 0x3F3504F3 ∧ (twiddle fF32 0 8 32 false).2.1 = 0x3F3504F3 ∧
      (twiddle fF32 0 8 192 false).1.1 = 0 ∧ (twiddle fF32 0 8 192 false).2.1 = 0xBF800000 := by decide +kernel

/-- Table 10.3: the sum and the running sum of the active lanes, over four lanes. -/
theorem test_reductions :
    let x := presentLanes [true, false, true, true] [5, -2, 7, 4]
    (treeReduce (combine 4 0 0 false) 2 x).1 = some 16 ∧ (treeReduce (combine 4 1 0 false) 2 x).1 = some 4 ∧
      (scanLevels (combine 4 0 0 false) 2 0 x).1 = [some 5, some 5, some 12, some 16] := by decide

/-- Example 2.2: the chunk of 64 products in E4M3. -/
theorem test_chunk :
    let big := valOf 9 0x78
    let small := valOf 9 0x18
    (chunkFloat 0 ((big, big) :: List.replicate 63 (small, small))).1 = 0x47800020 := by decide +kernel

/-- Example 3.1: the header of five words that waits for A's second section is in form. -/
theorem test_header : headerBad 0x9005000200008000 = false ∧ headerBad 0x8005000200008000 = true := by decide

/-! ## Witnesses: every statement's hypotheses, clause by clause, are met -/

/-- TwoRegisterResults, OneRegisterResults, SaturatingAdd: a word that reads any registers, in a task and on the Rubricator. -/
theorem witness_reads :
    Claims.Reads onRub [1, 2] ∧ Claims.Reads (onA (withRegs [1, 2])) [1, 2, 3] ∧ Claims.OnTask (onA aT) 0 aT [63] :=
  ⟨reads_rub _, reads_task _ _ rfl, onTask_any _ _ rfl⟩

/-- CountsAndBitFields: the fields of 64 bits at 0 and of one bit at 63. -/
theorem witness_bit_fields :
    ((0x40 : Word).toNat % 128 = 64 ∧ (0x40 : Word).toNat / 256 % 64 = 0) ∧
      ((0x3F01 : Word).toNat % 128 = 1 ∧ (0x3F01 : Word).toNat / 256 % 64 = 63) ∧
      clz64 1 < 64 ∧ ctz64 0x8000000000000000 < 64 :=
  ⟨⟨rfl, rfl⟩, ⟨rfl, rfl⟩, Nat.lt_of_le_of_lt (Nat.sub_le _ _) (by decide), by decide⟩

/-- Divisions: a zero divisor and another. -/
theorem witness_divisions : onRub.reg 2 = 0 ∧ (onA (withRegs [7, 1])).reg 2 ≠ 0 := by decide

/-- A task whose section begins at parcel 0 with two words: the second parcel of a word is no target. -/
theorem witness_branches :
    let s := onA (withRegs [2 ^ 50, 2 ^ 50 - 1, 3])
    Claims.Reads s [] ∧ s.pc = 2 ∧ s.gotoOk 5 = true ∧ s.gotoOk 3 = false ∧ (s.setReg 1 5).gotoOk 5 = true ∧
      (s.setReg 1 5).gotoOk 3 = false ∧ condHolds 0 (s.reg 1) (s.reg 2) = false ∧ condHolds 1 (s.reg 1) (s.reg 2) = true ∧
      2 ^ 50 ≤ (s.reg 1).toNat ∧ (s.reg 2).toNat < 2 ^ 50 ∧ (s.setReg 0 5).gotoOk ((s.reg 2).setWidth 50) = true ∧
      (s.setReg 0 5).gotoOk ((s.reg 3).setWidth 50) = false := by
  refine ⟨reads_task _ _ rfl, ?_⟩
  decide

/-- ControlWords: a queue of branch outcomes with room and without, an X stream that goes on, has ended or is absent. -/
theorem witness_control :
    aT.handler = none ∧ aT.sx.present = true ∧ aT.bq.length < 64 ∧ aT.sx.phase ≠ .ended ∧
      ({ aT with bq := List.replicate 63 true }).bq.length < 64 ∧ 64 ≤ ({ aT with bq := List.replicate 64 true }).bq.length ∧
      ({ aT with sx := { aT.sx with phase := .ended } }).sx.phase = .ended ∧
      ({ aT with sx := { aT.sx with present := false } }).sx.present = false ∧ aT.yields = false ∧
      ({ aT with pre := some { phase := .drain, since := 0 } }).yields = true ∧
      ({ aT with handler := some { saved := aT.sa, before := 0 } }).handler ≠ none := by decide

/-- The Rubricator's words that name task state. -/
theorem witness_rubricator : rubLacks 0x34 = true ∧ rubLacks (opcode 0x340000000000000000000000) = true := by decide

/-- A state whose sector at 0 has a lasting error. -/
def flawed : State := { onRub with flaws := [(0, true)] }

/-- A copy of the task that has still to land in the first 8 bytes. -/
def hazardous : State :=
  let g : List Word := [0x9020000000000000, 0x100000008, 0x100000001, 1, 0, 0, 0, 0]
  let u := onA { aT with csr := { aT.csr with hazard := 1 } }
  { u with copies := [(0, u.newCopy .fill g [] 0 0 [8] 0 0 0 false false 8 8)] }

/-- A task that waits for a strong load from another tower. -/
def farLoad : State := (onA aT).launchRemote { m0 with size := 3, d := 1 } .xIssue 5 8 (some 3)

/-- LoadWords: a misaligned load, one that goes through, one that meets a lasting error, one that meets a copy. -/
theorem witness_loads :
    let w := { m0 with size := 3 }
    (((onA aT).reg w.base + (onA aT).reg w.index <<< w.shift.toNat + (7 : BitVec 48).signExtend 64).toNat % 8 ≠ 0) ∧
      (∃ ps, (onA aT).check (onA aT).aView .read 65528 8 = .ok ps ∧ (onA aT).place (ps.headD (0, 0)).1 = .store 0 0 65528 ∧
        (onA aT).seenBytes (onA aT).aView.who 8 (0 * 2 ^ 40 + 65528) 8 = .ok (List.replicate 8 0)) ∧
      (onA aT).hazard 65528 8 = .ok () ∧
      flawed.check flawed.aView .read 24 8 = .error (.trap .uncorrectable 24) ∧
      (∃ ps, hazardous.check hazardous.aView .read 0 8 = .ok ps) ∧ hazardous.hazard 0 8 = .error (.trap .hazard 0) :=
  ⟨by decide, ⟨_, rfl, rfl, rfl⟩, rfl, rfl, ⟨_, rfl⟩, rfl⟩

/-- LoadWords and StoreWords, the strong ones: no strong load of another tower outstanding, and one; and both forms of each. -/
theorem witness_strong :
    let u := (onA aT).performs
    let v := u.strongLoad (some 3) 65528 8
    (onA aT).near = true ∧ farLoad.near = false ∧
      (∃ ps, u.check u.aView .read 65528 8 = .ok ps ∧ u.place (ps.headD (0, 0)).1 = .store 0 0 65528 ∧
        v.seenBytes u.aView.who 8 (0 * 2 ^ 40 + 65528) 8 = .ok (List.replicate 8 0)) ∧ u.hazard 65528 8 = .ok () ∧
      Claims.LoadForm m0 (onA aT) (.ld m0) (onA aT) none ∧ Claims.LoadForm { m0 with scope := 3 } (onA aT) (.lds { m0 with scope := 3 }) u (some 3) ∧
      Claims.StoreForm m0 (onA aT) (.st m0) (onA aT) none id ∧
      Claims.StoreForm m0 (onA aT) (.sts m0) u (some 0) (fun w => (onA aT).strongWrite w ((onA aT).standing (onA aT).strand 0)) :=
  ⟨rfl, rfl, ⟨_, rfl, rfl, rfl⟩, rfl, .inl ⟨rfl, rfl, rfl⟩, .inr ⟨rfl, rfl, rfl, rfl⟩, .inl ⟨rfl, rfl, rfl, rfl⟩,
    .inr ⟨rfl, rfl, rfl, rfl, rfl⟩⟩

/-- The Rubricator with a store to the control block on its way. -/
def ctlBusy : State := onRub.ctlSend 8 8 5

/-- LoadWords, StoreWords and SpecialWindows: the control block, with nothing on its way to it and with a store; the semaphore file and
the host window. -/
theorem witness_windows :
    (∃ ps, onRub.check onRub.aView .read 0xF000000008 8 = .ok ps ∧ onRub.place (ps.headD (0, 0)).1 = .ctl 0 0xF000000008) ∧
      (∃ ps, onRub.check onRub.aView .write 0xF000000008 8 = .ok ps ∧ onRub.place (ps.headD (0, 0)).1 = .ctl 0 0xF000000008) ∧
      onRub.hazard 0xF000000008 8 = .ok () ∧ onRub.ctl.incoming = [] ∧ ctlBusy.ctl.incoming ≠ [] ∧
      (ctlBusy.check ctlBusy.aView .write 0xF000000008 8).isOk = true ∧ ctlBusy.ctl.invva = onRub.ctl.invva ∧
      onRub.place 0xF100000010 = .semFile 0 0xF100000010 ∧ onRub.range onRub.aView .read 0xF100000010 8 = .ok [(0xF100000010, 8)] ∧
      onRub.range onRub.aView .write 0xF100000010 8 = .ok [(0xF100000010, 8)] ∧
      onRub.place 0x20000000010 = .host 0x10 ∧ onRub.range onRub.aView .read 0x20000000010 8 = .ok [(0x20000000010, 8)] ∧
      onRub.performs.range onRub.aView .write 0x20000000010 8 = .ok [(0x20000000010, 8)] :=
  ⟨⟨_, rfl, rfl⟩, ⟨_, rfl, rfl⟩, rfl, rfl, by decide, rfl, rfl, rfl, rfl, rfl, rfl, rfl, rfl⟩

/-- StoreWords and StoreFrame: stores that go through, by a task and by the Rubricator, and their next states. -/
theorem witness_stores :
    let w := { m0 with size := 3, d := 1, off := 65528 }
    let s := onA (withRegs [5])
    (s.reg w.base + s.reg w.index <<< w.shift.toNat + w.off.signExtend 64).toNat = 65528 ∧ 65528 % 8 = 0 ∧
      (∃ ps, s.check s.aView .write 65528 8 = .ok ps ∧ s.place (ps.headD (0, 0)).1 = .store 0 0 65528) ∧
      (∃ ps, onRub.check onRub.aView .write 0x4000000000 8 = .ok ps ∧ onRub.place (ps.headD (0, 0)).1 = .store 0 4 0x4000000000) ∧
      s.ctl.mirrors = [] ∧ (∃ t, exec (.st w) s = .next t) ∧ (∃ t, exec (.sts w) s = .next t) ∧ s.near = true ∧ s.washed.find? 0 = none :=
  ⟨by decide, rfl, ⟨_, rfl, rfl⟩, ⟨_, rfl, rfl⟩, rfl, ⟨_, rfl⟩, ⟨_, rfl⟩, rfl, rfl⟩

/-- A request of the Rubricator's store word at parcel 0, with and without its answer. -/
def asks (answer : Option Answer) : State :=
  let u := onRub.sendRequest 5 (.store 8 8 0 none) Know.none (.word .rub false) (rubIdent 0) 0
  { u with remotes := u.remotes.adjust 0 (fun r => { r with answer := answer }) }

/-- RemoteAccesses: an address of node 5: nothing asked, asked, and answered; and the same bytes asked for already. -/
theorem witness_remote_accesses :
    let a := 2 ^ 56 + 5 * 2 ^ 40 + 8
    onRub.place a = .remote 5 8 ∧ onRub.check onRub.aView .read a 8 = .ok [(a, 8)] ∧ onRub.hazard a 8 = .ok () ∧
      onRub.check onRub.aView .write a 8 = .ok [(a, 8)] ∧ onRub.asked = none ∧ a % 8 = 0 ∧
      onRub.opClear 5 onRub.ownIdent (.load 8 8 none) = true ∧ onRub.opClear 5 onRub.ownIdent (.store 8 8 0 none) = true ∧
      (asks none).opClear 5 (asks none).ownIdent (.load 8 8 none) = false ∧
      (asks none).opClear 5 (asks none).ownIdent (.store 8 8 0 (some 3)) = false ∧
      onRub.performs.check onRub.aView .read a 8 = .ok [(a, 8)] ∧ onRub.near = true :=
  ⟨rfl, rfl, rfl, rfl, rfl, rfl, rfl, rfl, rfl, rfl, rfl, rfl⟩

theorem witness_remote_answers :
    let a := 2 ^ 56 + 5 * 2 ^ 40 + 8
    (∃ r, (asks none).asked = some (0, r) ∧ r.answer = none) ∧
      (∃ r, (asks (some (.ok 7))).asked = some (0, r) ∧ r.answer = some (.ok 7)) ∧
      (asks none).place a = .remote 5 8 ∧ (asks none).check (asks none).aView .read a 8 = .ok [(a, 8)] ∧
      (onA aT).cur = .task 0 .a ∧ (onA aT).task? 0 = some aT :=
  ⟨⟨_, rfl, rfl⟩, ⟨_, rfl, rfl⟩, rfl, rfl, rfl, rfl⟩

/-- PrefetchCompletes: an address beyond all, a page that is held, one that is walked, one that is not. -/
theorem witness_prefetch :
    Claims.Reads onRub [0, 0] ∧ onRub.cur = .rub ∧ ¬(2 ^ 52 < 2 ^ 52) ∧ (onA aT).tlbFind 0 0 0 ≠ none ∧
      ((onA aT).newWalk 0 0 65536 true).walks.any (fun k => k.isFor 0 65536) = true ∧
      (onA aT).tlbFind 0 0 (2 ^ 52 - 1) = none ∧ (onA aT).walks.any (fun k => k.isFor 0 (2 ^ 52 - 1)) = false :=
  ⟨reads_rub _, by decide⟩

/-- A copy of the task and one of the Rubricator with a chunk still to land. -/
def rubCopy : State := { onRub with copies := [(0, onRub.newCopy .fill [] [] 0 0 [8] 0 0 0 false false 8 8)] }

/-- FenceCompletes: nothing outstanding, a load, a store to the control block, copies. -/
theorem witness_fence :
    (onA aT).loads = [] ∧ (onA aT).copies = [] ∧ onRub.loads = [] ∧ onRub.ctl.incoming = [] ∧ onRub.copies = [] ∧
      (∃ l ∈ ((onA aT).launchReg 1 0).loads, l.returned = false) ∧
      ({ onRub with ctl := { onRub.ctl with incoming := [(0, 0)] } }).ctl.incoming ≠ [] ∧
      (∃ e ∈ hazardous.copies, e.2.issuer = .task 0 ∧ e.2.landed.length < e.2.chunks) ∧
      (∃ e ∈ rubCopy.copies, e.2.issuer = .rub ∧ e.2.landed.length < e.2.chunks) :=
  ⟨rfl, rfl, rfl, rfl, rfl, ⟨_, List.mem_cons_self .., rfl⟩, by decide, ⟨_, List.mem_cons_self .., by decide⟩,
    ⟨_, List.mem_cons_self .., by decide⟩⟩

theorem ok_of {α : Type} {r : Try α} {x : α} (h : r.toOption = some x) : r = .ok x := by
  cases r <;> simp_all [Except.toOption]

theorem ok_some {α : Type} {r : Try α} (h : r.isOk = true) : ∃ x, r = .ok x := by
  cases r <;> simp_all [Except.isOk, Except.toBool]

/-- What an operation answers is a trap. -/
def stops {α : Type} (r : Try α) (c : Cause) (va : Nat) : Bool :=
  match r with
  | .error (.trap d v) => decide (d = c) && decide (v = va)
  | _ => false

theorem stop_of {α : Type} {r : Try α} {c : Cause} {va : Nat} (h : stops r c va = true) : r = .error (.trap c va) := by
  unfold stops at h
  split at h <;> simp_all

/-- Doublewords as bytes. -/
def wordsBytes (ws : List Word) : List Byte := ws.flatMap (fun w => leBytes 8 w.toNat)

/-- A glyph of eight .I8 elements at address 0. -/
def g8 : List Word := [0x9020000000000000, 0x100000008, 0x100000001, 1, 0, 0, 0, 0]

/-- A glyph of 4,096 .I8 elements at address 0. -/
def g4k : List Word := [0x9020000000000000, 0x100001000, 0x100000001, 1, 0, 0, 0, 0]

/-- A task whose glyphs 0 and 1 are these; at 0x1000 stands a stream descriptor, and `a1` holds 0x4000. -/
def glyphs : State :=
  { onA { aT with glyphs := 0x2000, regs := [(1, 0x4000)] } with
    mem := [(0x1035, 2), (0x2006, 0x20), (0x2007, 0x90), (0x2008, 8), (0x200C, 1), (0x2010, 1), (0x2014, 1), (0x2018, 1),
      (0x2046, 0x20), (0x2047, 0x90), (0x2049, 0x10), (0x204C, 1), (0x2050, 1), (0x2054, 1), (0x2058, 1)] }

/-- Answers without a stop are all taken. -/
theorem collect_same {α : Type} (x : α) (n : Nat) : collect (List.replicate n (Except.ok x : Try α)) = .ok (List.replicate n x) := by
  simp [collect, stopOf]

/-- Reading one element many times. -/
theorem gather_same {s : State} {v : View} {g : Glyph} {f x : Nat} (hf : ¬g.count ≤ f) (h : s.readElem v g (g.flat f) 0 = .ok x)
    (n : Nat) : s.gather v g (List.replicate n f) = .ok (List.replicate n x) := by
  simp only [State.gather, List.map_replicate, if_neg hf, h, collect_same]

theorem gatherHazard_same {s : State} {g : Glyph} {f : Nat} (h : s.gatherHazard g f = .ok ()) (n : Nat) :
    collect ((List.replicate n f).map (s.gatherHazard g)) = .ok (List.replicate n ()) := by
  rw [List.map_replicate, h, collect_same]

/-- Writing one element many times, each leaving the machine as it was. -/
theorem elemsReady_same {s : State} {v : View} {g : Glyph} {o : Int} (h : s.elemReady v g o 0 = .ok ()) (n : Nat) :
    s.elemsReady v g 0 (List.replicate n o) = .ok () := by
  simp only [State.elemsReady, List.map_replicate, h, collect_same]
  rfl

theorem writeElems_same {s : State} {v : View} {g : Glyph} {o : Int} {x : Nat} (h : s.writeElem v g o 0 x = .ok s) (n : Nat) :
    s.writeElems v g 0 (List.replicate n (o, x)) = .ok s := by
  induction n with
  | zero => rfl
  | succ n ih =>
    simp only [List.replicate_succ, State.writeElems, h]
    exact ih

theorem leNat_zeros (n : Nat) : leNat (List.replicate n 0#8) = 0 := by
  induction n with
  | zero => rfl
  | succ n ih => simp [List.replicate_succ, leNat, ih]

/-- Elements of zero bytes are zeros. -/
theorem elemsOf_zeros {w : Nat} (hw : w ≠ 4) (n m : Nat) : elemsOf w n (List.replicate m 0#8) = List.replicate n 0 := by
  simp [elemsOf, hw, leNat_zeros, List.map_const']

/-- Indexes in memory that holds zeros. -/
theorem indices_zeros {s : State} (h : s.viewRead (s.aEngine.grained 32) 0x4000 2048 = .ok (List.replicate 2048 0#8)) :
    s.indices 0x4000 = .ok (List.replicate 512 0) := by
  unfold State.indices
  rw [if_neg (by decide), h]
  exact congrArg Except.ok (elemsOf_zeros (by decide) 512 2048)

theorem indices_zero : glyphs.indices 0x4000 = .ok (List.replicate 512 0) := indices_zeros (ok_of (by decide +kernel))

theorem useGlyph_zero : glyphs.useGlyph 0 = .ok g8 := ok_of (by decide +kernel)

/-- VectorAccesses: LDX and GATH with room and without, STX with an entry, waiting, and met by the end of X. -/
theorem witness_vector_accesses :
    let e : XqEntry := { width := 4, ready := true, serial := 0, vals := [] }
    let s := onA aT
    s.viewRead (s.aEngine.grained 4) 0 256 = .ok (List.replicate 256 0) ∧ s.hazard 0 256 = .ok () ∧
      ({ aT with xq := [(7, List.replicate 7 e)] }.xq.get [] 7).length < 8 ∧
      8 ≤ ({ aT with xq := [(7, List.replicate 8 e)] }.xq.get [] 7).length ∧ aT.sx.phase ≠ .ended ∧ aT.sx.present = true ∧
      s.check s.aEngine .write 65528 8 = .ok [(65528, 8)] ∧
      ({ aT with aq := [(3, [5])] }.aq.get [] 3 = [5]) ∧ aT.aq.get [] 0 = [] ∧ aT.aqOver 0 = false ∧
      { aT with sx := { aT.sx with phase := .ended } }.aqOver 0 = true :=
  ⟨ok_of (by decide +kernel), rfl, by decide, by decide, by decide, rfl, ok_of (by decide +kernel), rfl, rfl, rfl, rfl⟩

/-- The parts of a gather. -/
theorem gathRead_of {s : State} {w : AC} {va : Nat} {ix xs : List Nat} {gw : List Word} (h0 : (s.reg w.a).toNat = va)
    (h8 : va % 4 = 0) (h1 : s.indices va = .ok ix) (h2 : s.useGlyph w.gs.toNat = .ok gw) (h3 : (glyphOf gw).mx = 0)
    (h4 : s.gather s.aEngine (glyphOf gw) ix = .ok xs) (h5 : s.hazard va 2048 = .ok ()) {us : List Unit}
    (h6 : collect (ix.map (s.gatherHazard (glyphOf gw))) = .ok us) :
    s.gathRead w = .ok (typeBits (glyphOf gw).ty, some xs) := by
  have h7 : s.glyphWords w.gs.toNat = .ok gw := by
    simp only [State.useGlyph, bind, Except.bind] at h2
    split at h2 <;> simp_all
    split at h2 <;> simp_all
  have h9 : together [checked (.ok ix), checked (s.glyphWords w.gs.toNat)] = .ok () := by
    rw [h7]
    rfl
  simp [State.gathRead, h0, h1, h2, h3, h4, h5, h6, h8, h9, bind, Except.bind, require, lasting]

/-- VectorAccesses: a gather of element 0 of glyph 0 in every lane. -/
theorem witness_gather : glyphs.gathRead { c0 with a := 1 } = .ok (typeBits (glyphOf g8).ty, some (List.replicate 512 0)) :=
  gathRead_of (by decide +kernel) (by decide) indices_zero (ok_of (by decide +kernel)) (by decide +kernel)
    (gather_same (by decide +kernel) (ok_of (by decide +kernel)) 512) (ok_of (by decide +kernel))
    (gatherHazard_same (ok_of (by decide +kernel)) 512)

/-- VectorAccesses: a scatter of 512 zeros to element 0. -/
theorem witness_scatter :
    let s := glyphs
    let g := glyphOf g8
    let ws := scatters g (List.replicate 512 0) (elemsOf 8 512 (List.replicate 512 0))
    s.indices 0x4000 = .ok (List.replicate 512 0) ∧ s.useGlyph 0 = .ok g8 ∧ g.mx = 0 ∧ g.memfmt = 0 ∧
      s.viewRead (s.aEngine.grained 8) 0x8000 512 = .ok (List.replicate 512 0) ∧ s.elemsReady s.aEngine g 0 (ws.map (fun p => p.1)) = .ok () ∧
      ∃ u, s.writeElems s.aEngine g 0 ws = .ok u := by
  have hw : scatters (glyphOf g8) (List.replicate 512 0) (elemsOf 8 512 (List.replicate 512 0)) = List.replicate 512 (0, 0) := by
    rw [show elemsOf 8 512 (List.replicate 512 0) = List.replicate 512 0 from elemsOf_zeros (by decide) 512 512, scatters, List.zip_replicate', List.filterMap_replicate]
    rfl
  refine ⟨indices_zero, useGlyph_zero, rfl, rfl, ok_of (by decide +kernel), ?_, glyphs, ?_⟩
  · rw [hw, List.map_replicate]
    exact elemsReady_same (ok_of (by decide +kernel)) 512
  · rw [hw]
    exact writeElems_same (ok_of (by decide +kernel)) 512

/-- GlyphWords: glyph 0, the last slot of its page, and a field of glyph 0. -/
theorem witness_glyphs :
    let s := glyphs
    s.viewRead s.aEngine 0x2000 64 = .ok (wordsBytes g8) ∧ (∃ u, s.viewWrite s.aEngine (0x2000 + 64 * 895) (wordsBytes g8) = .ok u) ∧
      s.viewRead s.aEngine 0x2038 8 = .ok (leBytes 8 0) ∧ (∃ u, s.viewWrite s.aEngine 0x2038 (leBytes 8 (setBits 0 0 52 9)) = .ok u) ∧
      (63 : Nat) % 64 ≠ 0 :=
  ⟨ok_of (by decide +kernel), ok_some (by decide +kernel), ok_of (by decide +kernel), ok_some (by decide +kernel), by decide⟩

/-- The machine with a Folio whose headers stand at 16 MiB of T4 and a service area at the start of T4; block 0 is free. -/
def folio (header : Nat) : State :=
  let u := onA (withRegs [0])
  let u := { u with
    ctl := { Ctl.reset with asbase := 0x180000000, written := true }
    folio := { Folio.reset with base := some 0x181000000, enable := true, tables := some 0x190000000 } }
  u.setHeader 0 0 header

/-- The same with block 0 at the head of a free list of T1 and of LPDDR6. -/
def freeList : State := { folio (2 ^ 63) with folio := { (folio 0).folio with heads := [(0, 0), (4, 0)] } }

/-- FolioWords: descriptors in and out of form, a free block and none, blocks in use at the ends of the refcount. -/
theorem witness_folio :
    let fields (v : Nat) : Prop := v / 16 % 8 ≤ 4 ∧ v % 16 ≤ 4 ∧ v % 16 ≠ 2 ∧ v / 128 % 2 = 0 ∧ v / 65536 % 2 ^ 48 = 0
    ¬fields 2 ∧ ¬fields 0x50 ∧ fields 0xFF44 ∧ fields 0x10000000000000000 ∧ (onA aT).folio.base = none ∧ (folio 0).folio.base ≠ none ∧
      freeList.allocBlock 4 4 255 ≠ none ∧ (folio 0).allocBlock 0 0 0 = none ∧ freeList.freeHead 4 = some 0 ∧
      freeList.freeHead 1 = none ∧ freeList.headerOk 0 = true ∧ (folio 1).headerOk 0 = true ∧
      ((folio 1).blockFree 0 = false ∧ (folio 1).blockRefs 0 = 1 ∧ (folio 1).blockState 0 = 0) ∧
      ((folio (2 ^ 60 + 2 ^ 24 - 1)).blockRefs 0 = 2 ^ 24 - 1 ∧ (folio (2 ^ 60 + 2 ^ 24 - 1)).blockState 0 ≠ 0) ∧
      (folio (2 ^ 63)).blockFree 0 = true := by decide +kernel

/-- CopyWords: a box of eight bytes from a glyph to itself, with the default extents; a core with room and one without. -/
theorem witness_copies :
    let s := glyphs
    let c := s.newCopy .box g8 g8 0 0 [8] 0 0 0 false false 8 8
    let g := glyphOf g8
    s.glyphWords 0 = .ok g8 ∧ s.useGlyph 0 = .ok g8 ∧ g.memfmt = 0 ∧
      boxChecks g g 0 0 0 (s.copyBarrier c0 false) false false = .ok ([8, 1, 1, 1, 1], 0) ∧
      boxChecks g g 0xFF 0 0 (s.copyBarrier c0 false) false false = .error (.trap .glyphInvalid 0) ∧
      boxChecks g g 0 0 0 (s.copyBarrier { c0 with hnd := 1 } true) false true = .ok ([8, 1, 1, 1, 1], 0) ∧
      boxExtents 0x8 [g] = some [8, 1, 1, 1, 1] ∧ s.copyBarrier c0 false = .ok 0 ∧ s.copyRoom = true ∧
      { s with copies := (List.range 64).map (fun i => (i, c)) }.copyRoom = false :=
  ⟨ok_of (by decide +kernel), ok_of (by decide +kernel), rfl, ok_of (by decide +kernel), stop_of (by decide +kernel),
    ok_of (by decide +kernel), by decide +kernel, ok_of (by decide +kernel), by decide +kernel, by decide +kernel⟩

/-- CopyWords: one vector of .I8, two slices at the end of the window; the widest code. -/
theorem witness_vector_copies :
    let v : Nat := 6142 + 65536
    v / 2 ^ 13 % 8 = 0 ∧ v / 2 ^ 20 % 2 ^ 44 = 0 ∧ v / 65536 % 16 = 1 ∧ v % 2 ^ 13 + 2 * 1 ≤ aT.winSize ∧
      typeBits (glyphOf g4k).ty = 4 * 2 ∧ 512 * 1 ≤ (glyphOf g4k).count ∧ glyphs.useGlyph 1 = .ok g4k ∧
      (65536 * 8) / 65536 % 16 ≤ 8 ∧ 0 + 16 * 384 ≤ aT.winSize :=
  ⟨rfl, rfl, rfl, by decide, by decide +kernel, by decide +kernel, ok_of (by decide +kernel), by decide, by decide⟩

/-- A descriptor of one vector of .I8 elements. -/
def desc : List Word := [0, 0, 0, 0, 0, 0, 0x20000000000, 0]

/-- BindingWords: a descriptor that binds and one whose type is not the glyph's. -/
theorem witness_bindings :
    let s := glyphs
    s.viewRead s.aEngine 0x1000 64 = .ok (wordsBytes desc) ∧ dwords 8 (wordsBytes desc) = desc ∧ s.glyphWords 0 = .ok g8 ∧ holdsOp desc 5 = false ∧
      Machine.bindOk desc (glyphOf g8) 0 (glyphOf []) = true ∧ Machine.bindOk desc (glyphOf g8) 1 (glyphOf []) = false ∧
      s.entropyTable desc (glyphOf g8) = .ok [] ∧ aT.handler = none :=
  ⟨ok_of (by decide +kernel), by decide +kernel, ok_of (by decide +kernel), by decide +kernel, by decide +kernel, by decide +kernel,
    ok_of (by decide +kernel), rfl⟩

/-- BarrierWords: an operand by number, by a handle of this node, of another, and one whose core is none. -/
theorem witness_barrier_operands :
    let fine (h : Nat) : Prop := h / 2 ^ 48 = 0 ∧ h / 2 ^ 25 % 2 ^ 7 = 0 ∧ h / 2 ^ 11 % 2 ^ 5 = 0 ∧ h / 2 ^ 16 % 256 < 192 ∧
      h / 2 ^ 24 % 2 = h / 2 ^ 32 % 2
    c0.hnd = 0 ∧ onRub.cur = .rub ∧ (onA aT).cur = .task 0 .a ∧ fine (191 * 65536 + 2047) ∧ (191 * 65536 + 2047) / 2 ^ 32 % 65536 = onRub.node ∧
      fine (2 ^ 32 + 2 ^ 24) ∧ (2 ^ 32 + 2 ^ 24) / 2 ^ 32 % 65536 ≠ onRub.node ∧ ¬fine (192 * 65536) := by decide

/-- A barrier of core 0 with a target, which has fired `f` times, and `a1`, `a2`. -/
def barred (target : Nat) (f : BitVec 32) (vs : List Word) : State :=
  (onA (withRegs vs)).setBar 0 7 { Barrier.reset with target := target, firing := f }

/-- BarrierWords: counts below and at 2^40, a barrier with a target and without, a firing reached and not, handles to forward to. -/
theorem witness_barrier_steps :
    let w := { c0 with a := 1, bar := 7 }
    (barred 0 0 [2 ^ 40]).barRef w = .ok (.here 0 7) ∧ 2 ^ 40 ≤ ((barred 0 0 [2 ^ 40]).reg 1).toNat ∧
      ((barred 0 0 [2 ^ 40 - 1]).reg 1).toNat < 2 ^ 40 ∧ (barred 0 0 [2 ^ 40 - 1]).reg 1 ≠ 0 ∧ (barred 0 0 []).reg 1 = 0 ∧
      ((barred 0 0 []).bar 0 7).target = 0 ∧ ((barred 1 0 []).bar 0 7).target ≠ 0 ∧
      (((barred 1 (2 ^ 31) [1]).bar 0 7).firing - ((barred 1 (2 ^ 31) [1]).reg 1).setWidth 32).toNat < 2 ^ 31 ∧
      2 ^ 31 ≤ (((barred 1 (2 ^ 31) [0]).bar 0 7).firing - ((barred 1 (2 ^ 31) [0]).reg 1).setWidth 32).toNat ∧
      handleOk (2 ^ 32 + 2 ^ 24) = true ∧ handleOk (2 ^ 32) = false :=
  ⟨rfl, by decide, by decide, by decide, by decide, by decide, by decide, by decide, by decide, by decide, by decide⟩

/-- RegionWords: a barrier and the last semaphore; regions at the ends of their ranges and one beyond. -/
theorem witness_regions :
    let ok (base len : Nat) : Prop := base < 2 ^ 52 ∧ len < 2 ^ 40 ∧ base + len ≤ 2 ^ 52
    (onA aT).boundObject c0 = .ok (some (0, 0), 0) ∧ (onA (withRegs [4095])).boundObject { c0 with opt := 4, b := 1 } = .ok (none, 4095) ∧
      (∃ o, (onA aT).boundObject { c0 with opt := 8 } = .ok o ∧ ({ c0 with opt := 8 } : AC).opt.getLsbD 3 = true) ∧
      ok 0 0 ∧ ok (2 ^ 52 - 1) 1 ∧ ¬ok (2 ^ 52 - 1) 2 ∧ ok 0 (2 ^ 40 - 1) ∧ ¬ok 0 (2 ^ 40) := by
  refine ⟨rfl, rfl, ⟨_, rfl, rfl⟩, ?_⟩
  decide

/-- ArrivalCounts: a barrier with a target. -/
theorem witness_arrivals : ((barred (2 ^ 40 - 1) 0 []).bar 0 7).target ≠ 0 := by decide

/-- Task 0 of core 0, with a lag at doubleword 1 behind one write, which barrier 7's firing 1 at scope CORE publishes. -/
def lagging : State :=
  let u := barred 1 1 [1]
  { u with order := { u.order with
      next := 1
      lags := [Lag.mk (.stream 0) 1 (List.replicate 8 0) [Later.mk 0 (List.replicate 8 9) 0 8 none] (List.replicate 8 0)]
      firings := [(7, 1, Release.mk 1 (.core 0) [] (Know.mk (List.range 8) (List.range 8) []))] } }

/-- ScopeDomains and AcquireShows: a task on core 0; a firing that it reaches in its domain, one it does not reach, one outside. -/
theorem witness_order :
    lagging.task? 0 ≠ none ∧ lagging.order.firings.length = 1 ∧ ((1 : BitVec 32) - 1).toNat < 2 ^ 31 ∧ ¬((0 : BitVec 32) - 1).toNat < 2 ^ 31 ∧
      lagging.inDomain 1 (.core 0) [] (.task 0) = true ∧ lagging.inDomain 1 (.core 1) [] (.task 0) = false ∧
      lagging.inDomain 2 (.core 0) [] .rub = false ∧ Viewer.stream 0 ∈ (Strand.task 0).viewers ∧
      (∀ g ∈ (lagging.acquireBar (.task 0) 0 7 1).order.lags, g.who ∈ (Strand.task 0).viewers) ∧
      (∃ g ∈ lagging.order.lags, (0, 7) ∈ g.pos.zipIdx ∧ ∃ w, g.later[0]? = some w ∧ w.wrote 7 = true ∧ 8 * w.id + 7 ∈ List.range 8) := by decide

/-- Table 13.2: before it acquires, the task reads the old bytes; after, the new ones; outside the domain, still the old ones. -/
theorem test_acquire :
    lagging.order.view (some (.stream 0)) 8 8 (List.replicate 8 9) = List.replicate 8 0 ∧
      (lagging.acquireBar (.task 0) 0 7 1).order.view (some (.stream 0)) 8 8 (List.replicate 8 9) = List.replicate 8 9 ∧
      ((lagging.acquireBar (.task 0) 0 7 0).order.view (some (.stream 0)) 8 8 (List.replicate 8 9)) = List.replicate 8 0 := by decide

/-- A task whose SWT waits for semaphore 1 to reach 5. -/
def waiting : Task := { aT with wait := some { pc := 2, stream := .a, since := 0, on := .sem 1 5 6 none } }

/-- SemaphoreWords: the Rubricator's right and a task's lack of it; nodes 0 and beyond; SWT reached and waiting, and answered. -/
theorem witness_semaphores :
    let right (s : State) := s.admits s.tower 5 (0xF100000000 + 8 * 4095) s.ownIdent .sem
    right onRub = true ∧ right (onA aT) = false ∧ ((onRub.reg 2).toNat < 2 ^ 17 ∧ (onRub.reg 2).toNat = 0) ∧
      2 ^ 17 ≤ ((onA (withRegs [0, 2 ^ 17])).reg 2).toNat ∧
      (onA waiting).task? 0 = some waiting ∧ (5 : Word).toNat ≤ (6 : Word).toNat ∧ (4 : Word).toNat < (5 : Word).toNat ∧
      (onRub.reg 1).toNat ≤ (onRub.sem 4095).toNat ∧ (onRub.sem 4095).toNat < ((onRub.setReg 1 1).reg 1).toNat := by decide +kernel

/-- R172: the step that leaves 6 in semaphore 1 answers the SWT that waits for 5; a later smaller value does not take it back. -/
theorem test_swt_answered :
    (((((onA waiting).setSem 1 6).setSem 1 0).task? 0).map (fun t => (t.wait, t.sa.pc, t.regs.get 0 6))) =
      some (none, 5, 6) := by decide

/-- RemoteSteps: node 5 named in a register, by a handle, with nothing asked and with the answer. -/
theorem witness_remote_steps :
    let s := onRub.setReg 2 (2 ^ 16 + 5)
    let h := onRub.setReg 2 (5 * 2 ^ 32 + 2 ^ 24)
    (s.reg 2).toNat < 2 ^ 17 ∧ s.reg 2 ≠ 0 ∧ (s.reg 2).toNat % 65536 = 5 ∧ 5 ≠ s.node ∧ s.asked = none ∧
      s.opClear 5 s.ownIdent (.sem 0 0 0 0 (semOrder q0)) = true ∧ s.opClear 5 s.ownIdent (.arrive 0 0 false false false) = true ∧
      h.barRef { c0 with hnd := 1, b := 2 } = .ok (.there 5 (5 * 2 ^ 32 + 2 ^ 24)) ∧ (h.reg 0).toNat < 2 ^ 40 ∧
      (∃ r, ((asks (some (.ok 7))).setReg 2 (5 * 2 ^ 32 + 2 ^ 24)).asked = some (0, r) ∧ r.answer = some (.ok 7)) :=
  ⟨by decide, by decide, by decide, by decide, rfl, rfl, rfl, rfl, by decide, ⟨_, rfl, rfl⟩⟩

/-- TrapsTaken: causes a handler takes and causes it does not; a task with a vector, one without, one inside its handler. -/
theorem witness_traps :
    let v : Task := { aT with csr := { aT.csr with trapVec := 100 } }
    (onA v).task? 0 = some v ∧ v.csr.trapVec ≠ 0 ∧ v.handler = none ∧ aT.csr.trapVec = 0 ∧
      ({ v with handler := some { saved := v.sa, before := 0 } }).handler ≠ none ∧
      ¬(Cause.misaligned = .overdraw ∨ Cause.misaligned = .hazard ∨ Cause.misaligned = .deadRead ∨ Cause.misaligned = .fpException ∨
        Cause.misaligned = .trap) ∧
      onRub.rub.tvec = 0 ∧ ({ Rub.reset with tvec := 4 }).tvec ≠ 0 ∧ ({ Rub.reset with tvec := 4 }).inHandler = false ∧
      ({ Rub.reset with inHandler := true }).inHandler = true := by decide

/-- TrapReturn: outside a handler, in the Rubricator's, in a task's; an effect that a stop has captured. -/
theorem witness_trap_return :
    let h : Handler := { saved := aT.sa, before := 0 }
    let e : Effect := { dest := .dead [0], mask := 0, due := 3, captured := true, replay := false, flags := 0, raises := false, sec := 0 }
    (onA aT).trapReturn false = none ∧ onRub.trapReturn true = none ∧ ({ Rub.reset with inHandler := true }).inHandler = true ∧
      (onA { aT with handler := some h }).task? 0 = some { aT with handler := some h } ∧
      { aT with effects := [e] }.effects.any (fun x => x.captured) = true := by decide

/-- CsrWords: the last selector of a monitor unit and the first beyond, its first and last offsets; a number that reads, one that none reads; numbers that take a write and numbers that do not. -/
theorem witness_csrs :
    let t := onA aT
    t.csrRead 0x010 ≠ none ∧ t.csrRead 0xFFF = none ∧ onRub.csrRead 0xFFF = none ∧ onRub.csrRead 0x800 ≠ none ∧
      onRub.rub.csrWrite 0x803 0 ≠ none ∧ (∃ n, onRub.csrRead n ≠ none ∧ onRub.rub.csrWrite n 0 = none) ∧
      (∃ w : AS, w.obj.toNat = 0x240 + 0x20 * 0 + 0 ∧ (t.reg 0).toNat % 256 < 8) ∧
      (∃ w : AS, w.obj.toNat = 0x240 + 0x20 * 1 + 31) ∧ 8 ≤ ((onA (withRegs [8])).reg 1).toNat % 256 ∧ Claims.OnTask t 0 aT [0] ∧
      aT.csr.write 0x030 0 ≠ none ∧ (∃ n, t.csrRead n ≠ none ∧ ¬(0x240 ≤ n ∧ n < 0x280) ∧ aT.csr.write n 0 = none) :=
  ⟨by decide, by decide, by decide, by decide, by decide, ⟨0x804, by decide, by decide⟩,
    ⟨{ s0 with obj := 0x240 }, by decide, by decide⟩, ⟨{ s0 with obj := 0x27F }, by decide⟩, by decide, onTask_any _ _ rfl, by decide, ⟨0x031, by decide, by decide, by decide⟩⟩

/-- InkWords: levels and times at the ends of their ranges; a grant made, a request standing, neither. -/
theorem witness_ink :
    let legal (lvl dur : Nat) : Prop := 1 ≤ lvl ∧ lvl ≤ 4095 ∧ 1 ≤ dur ∧ dur ≤ 65535
    let k := Ink.reset
    legal 1 1 ∧ legal 4095 65535 ∧ ¬legal 0 1 ∧ ¬legal 4096 1 ∧ ¬legal 1 0 ∧ ¬legal 1 65536 ∧
      ({ k with granted := [0] }).granted.contains 0 = true ∧ k.granted.contains 0 = false ∧
      (k.request { task := 0, lvl := 1, dur := 1, auto := false }).asked 0 = true ∧ k.asked 0 = false := by decide

/-- ParkWords: the last numbers in range and the first beyond; a condition that holds and one that does not. -/
theorem witness_park :
    let s := onA (withRegs [2047, 2048, 4095, 4096, 63, 64])
    (s.reg 1).toNat < 2048 ∧ 2048 ≤ (s.reg 2).toNat ∧ (s.reg 3).toNat < 4096 ∧ 4096 ≤ (s.reg 4).toNat ∧ (s.reg 5).toNat < 64 ∧
      64 ≤ (s.reg 6).toNat ∧ s.parkHolds aT (.sem 4095 0) = true ∧ s.parkHolds aT (.sem 4095 1) = false ∧
      s.parkHolds aT (.bar 2047 0) = true ∧ s.parkHolds aT (.bar 2047 1) = false ∧
      (∃ b, s.parkHolds aT (.mbx b) = false) ∧ (∃ v, s.parkHolds aT (.ink v) = true) :=
  ⟨by decide, by decide, by decide, by decide, by decide, by decide, by decide, by decide, by decide, by decide, ⟨63, by decide⟩,
    ⟨0, by decide⟩⟩

theorem pair_of {p : Bool × State} {b : Bool} (h : p.1 = b) : ∃ u, p = (b, u) := ⟨p.2, Prod.ext h rfl⟩

/-- The Rubricator with a service area at the start of T4, core 4 present, and launch entry 0 for one task there: an A stream at
parcel 64, one granule, armable by tasks, its target patchable by them. -/
def serves : State :=
  { onRub with
    ctl := { Ctl.reset with asbase := 0x180000000, written := true }
    mem := [(0x180008000, 64), (0x180008008, 255), (0x180008009, 255), (0x18000800A, 255), (0x18000800B, 255), (0x18000800C, 255),
      (0x18000800D, 255), (0x18000800E, 255), (0x18000800F, 255), (0x180008010, 255), (0x180008011, 255), (0x180008012, 255),
      (0x180008013, 255), (0x180008014, 255), (0x180008015, 255), (0x180008016, 255), (0x180008017, 255), (0x180008018, 1),
      (0x18000801C, 4), (0x18000801F, 0xC0), (0x180008028, 0x80), (0x18000804F, 0x80), (0x180008057, 0x80), (0x18000805F, 0x80),
      (0x180008067, 0x80), (0x18010A000, 0x10)] }

/-- LaunchWords: an entry that arms, one that does not, a tower full of armings; fields that may be patched, and values. -/
theorem witness_launch :
    let a : Arming := { entry := 0, csem := 0, cinc := 0, live := [], faulted := false }
    serves.armingsFull = false ∧ (∃ u, serves.arm 0 serves.byTask .rub = (true, u)) ∧ (∃ u, serves.arm 1 serves.byTask .rub = (false, u)) ∧
      { serves with armings := (List.range 4096).map (fun i => (i, a)) }.armingsFull = true ∧
      serves.serviceFree = true ∧ (serves.setLevel 3 { serves.level 3 with busy := true }).serviceFree = false ∧
      serves.serviceBase = some 0x180000000 ∧
      serves.physRead (rubIdent 0) .engine (0x180008000 + 40) 8 = .ok [0x80, 0, 0, 0, 0, 0, 0, 0] ∧ serves.byTask = false ∧
      (onA aT).byTask = true ∧ 0x80 / 2 ^ 6 % 2 = 0 ∧ 0x80 / 2 ^ 7 % 2 = 1 ∧ patchOk 7 191 = true ∧ patchOk 7 192 = false ∧
      patchOk 3 24 = true ∧ patchOk 3 25 = false ∧
      serves.physRead (rubIdent 0) .engine (0x180008000 + 8 * (patchField 7).1) 8 = .ok [1, 0, 0, 0, 4, 0, 0, 0xC0] ∧
      (∃ u, serves.physWrite (rubIdent 0) .engine (0x180008000 + 24) (leBytes 8 0xC0000005BF000001) = .ok u) :=
  ⟨rfl, pair_of (by decide +kernel), pair_of (by decide +kernel), by decide +kernel, by decide +kernel, by decide +kernel,
    by decide +kernel, ok_of (by decide +kernel), rfl,
    rfl, rfl, rfl, by decide, by decide, by decide, by decide, ok_of (by decide +kernel), ok_some (by decide +kernel)⟩

/-- QueueWords: images an action takes and does not, a queue with one place left and a full one. -/
theorem witness_queues :
    let e : QEntry := { action := 0, image := [], ready := false }
    onRub.viewRead onRub.aEngine 0 64 = .ok (List.replicate 64 0) ∧ (∃ im, imageOk 0 im = true) ∧ (∃ im, imageOk 0 im = false) ∧
      (∃ im, imageOk 1 im = true) ∧ (∃ im, imageOk 2 im = true) ∧ (∃ im, imageOk 3 im = true) ∧
      ({ onRub with queues := [(15, List.replicate 255 e)] }.queues.get [] 15).length < 256 ∧
      256 ≤ ({ onRub with queues := [(15, List.replicate 256 e)] }.queues.get [] 15).length ∧ (64 * 3) % 64 = 0 ∧ (63 : Nat) % 64 ≠ 0 :=
  ⟨ok_of (by decide +kernel), ⟨List.replicate 8 0, by decide +kernel⟩, ⟨List.replicate 8 (-1), by decide +kernel⟩,
    ⟨List.replicate 8 0, by decide +kernel⟩, ⟨List.replicate 8 0, by decide +kernel⟩, ⟨List.replicate 8 0, by decide +kernel⟩,
    by decide +kernel, by decide +kernel, rfl, by decide⟩

/-- MailboxWords: a mailbox of the host and one of the device; lengths 4,096 and 4,097. -/
theorem witness_mailboxes :
    let d := onRub.setMailbox 63 { Mailbox.reset with device := true, len := 2 }
    (onRub.mailbox 63).device = false ∧ (d.mailbox 63).device = true ∧ (d.mailbox 63).bytes 0 2 = [0, 0] ∧
      (∃ u, d.viewWrite d.aEngine 8 [0, 0] = .ok u) ∧ (∃ bs, onRub.viewRead onRub.aEngine 0 4096 = .ok bs) ∧ 4096 < 4097 ∧
      (7 : Nat) % 8 ≠ 0 :=
  ⟨by decide, by decide, by decide, ok_some (by decide +kernel), ok_some (by decide +kernel), by decide, by decide⟩

/-- SupervisorWords: slots with a task, draining or not, and without one; actions and sampling words at the ends of their ranges. -/
theorem witness_supervisor :
    let r (t : Task) : State := { onRub with tasks := [(3, t)] }
    let p : Pre := { phase := .drain, since := 0 }
    (r aT).taskIn 0 0 = some (3, aT) ∧ aT.pre = none ∧ (r { aT with pre := some p }).taskIn 0 0 = some (3, { aT with pre := some p }) ∧
      (r aT).taskIn 0 7 = none ∧ onRub.serviceFree = true ∧
      (serves.setLevel 3 { serves.level 3 with busy := true }).serviceFree = false ∧ (191 * 512 + 7) / 8 % 64 = 0 ∧ (191 * 512 + 7) / 2 ^ 17 = 0 ∧ 512 ≤ 512 ∧ 255 < 256 ∧ 511 < 512 ∧
      (let x : Nat := 65535 * 2 ^ 32 + 64; (x % 2 ^ 32 = 0 ∨ 64 ≤ x % 2 ^ 32) ∧ 1 ≤ x / 2 ^ 32 % 65536 ∧ x / 2 ^ 48 = 0) ∧
      (let x : Nat := 2 ^ 32; x % 2 ^ 32 = 0 ∧ 1 ≤ x / 2 ^ 32 % 65536 ∧ x / 2 ^ 48 = 0) ∧
      (let x : Nat := 2 ^ 32 + 63; ¬(x % 2 ^ 32 = 0 ∨ 64 ≤ x % 2 ^ 32)) := by decide +kernel

/-- Operands of a word of the X stream: two sources and a destination of .I8, as in Example 1.1. -/
def added (a b d : BitVec 17) : XReq :=
  let w : XV3 := { v0 with d := d, a := a, b := b, ty := 2, sgn := 3 }
  { k := 0, srcs := [srcA3 w 2, srcB3 w 2], dsts := [{ f := d, ty := 2, group := 1 }], md := 0, interval := fun _ => 1, latency := 3 }

/-- XDoes, which the statements about words of the X stream say: it waits for a head on its way, meets a source, a destination or a
check of its own that fails, is never active, or reads its sources. -/
theorem witness_execute_words :
    let t := xT.settleRotation
    let q := added 0x501 0x521 0x141
    Claims.OnX (onX xT) 0 xT ∧ t.headsWait ((added 0x18201 0x521 0x141).srcs.map (·.f)) = true ∧ q.k ≠ 8 ∧
      t.headsWait (q.srcs.map (·.f)) = false ∧ t.resolveAll false (added 0x17FF1 0x521 0x141).srcs [] = .error (.trap .sliceRange 0) ∧
      t.resolveDsts (added 0x501 0x521 0x17FF1).dsts = .error (.trap .sliceRange 0) ∧
      dotWidths { w0 with ty := 6 } t = .error (.trap .reservedField 0) ∧
      t.resolveAll false q.srcs [] = .ok [.slices [[80, 81]], .slices [[82, 83]]] ∧ t.resolveDsts q.dsts = .ok [[[20, 21]]] ∧
      t.resolveAll true q.srcs [] = .ok [.slices [[80, 81]], .slices [[82, 83]]] ∧
      t.resolveDsts (added 0x501 0x521 0x17FE1).dsts = .ok [[[6142, 6143]]] :=
  ⟨⟨rfl, rfl, rfl⟩, by decide, by decide, by decide, stop_of (by decide +kernel), stop_of (by decide +kernel), stop_of (by decide +kernel),
    ok_of (by decide +kernel), ok_of (by decide +kernel), ok_of (by decide +kernel), ok_of (by decide +kernel)⟩

/-- XReductionAndPredicateWords: slices inside the window and beyond it, for VDEAD. -/
theorem witness_dead :
    let t := xT.settleRotation
    (6142 + 2 ≤ t.winSize ∧ ∀ x ∈ t.named 6142 2, x < t.winSize) ∧ (∃ x ∈ t.named 6143 2, t.winSize ≤ x) := by decide +kernel

/-- A task inside loops of the X stream. -/
def looped (ls : List Loop) : Task := { xT with loops := ls }

/-- XLoopsAndBranches: levels that may open and may not, counts of each kind, zero and not; LOOPR inside another. -/
theorem witness_loops :
    let w : XC := { l0 with off := 3 }
    let e : XqEntry := { width := 32, ready := true, serial := 0, vals := [5] }
    let r : Loop := { first := 2, last := 5, rotating := true, stages := 1, trips := 1, sigma := 0 }
    Claims.MayOpen xT w ∧ Claims.Counted xT w w.count.toNat 0 ∧ Claims.Counted xT { w with count := 9 } 9 9 ∧
      Claims.Counted { xT with xq := [(7, [e])] } { w with csrc := 1, q := 7 } 0 5 ∧
      Claims.Counted { xT with lc := [(3, 2 ^ 22 - 1)] } { w with csrc := 2, count := 3 } 3 (2 ^ 22 - 1) ∧ xT.rotating = false ∧
      2 ^ 22 - 1 < 2 ^ 22 ∧ xT.csr.rotBase.toNat + xT.csr.rotSize.toNat ≤ xT.winSize ∧ xT.csr.rotSize = 0 ∧
      (looped [r]).rotating = true ∧ ({ w with lc := 1 } : XC).lc.toNat ≠ xT.loops.length ∧ w.csrc ≠ 1 :=
  ⟨⟨by decide, by decide, by decide, by decide⟩, .inl ⟨by decide, by decide⟩, .inl ⟨by decide, rfl⟩,
    .inr (.inl ⟨rfl, _, _, rfl, by decide⟩), .inr (.inr ⟨by decide, by decide, by decide⟩), by decide, by decide, by decide, by decide,
    by decide, by decide, by decide⟩

/-- XLoopsAndBranches: an empty queue of outcomes that may fill and one that cannot, one that holds an outcome; targets. -/
theorem witness_branch_targets :
    xT.bq = [] ∧ xT.aOver = false ∧ { xT with sa := { xT.sa with phase := .ended } }.aOver = true ∧
      { xT with bq := [true] }.bq = true :: [] ∧ { xT with bq := [false] }.bq = false :: [] ∧
      xT.sx.inSpan 5 = true ∧ xT.sx.wordStart 5 = true ∧ xT.sx.inSpan 7 = true ∧ xT.sx.wordStart 7 = false ∧ xT.sx.inSpan 8 = false ∧
      xT.activeMask 0 = BitVec.allOnes 512 ∧ xT.activeMask 8 = 0 := by decide +kernel

/-- LandingAndLanes: two slices and their values; lists of 512 lanes. -/
theorem witness_landing :
    ([0, 6143] : List Nat).Nodup ∧ ([0, 6143] : List Nat).length = ([1, 2] : List Slice).length ∧ (List.replicate 512 0).length = 512 := by
  decide +kernel

/-- VectorWordFrame: a KNOT that completes. -/
theorem witness_vector_frame :
    Claims.isVectorWord (.knot { x0 with d := 1 }) = true ∧
      ∃ s' t', exec (.knot { x0 with d := 1 }) (onX xT) = .next s' ∧ s'.task? 0 = some t' ∧ s'.records = (onX xT).records ∧
        t'.handler = xT.handler ∧ xT.rotPending = false :=
  ⟨rfl, _, _, rfl, rfl, rfl, rfl, rfl⟩

/-- A command that has not begun. -/
def cmd (i : Instr) : Cmd :=
  { word := i, ca := 0, cb := 0, ct := 0, pc := 2, sec := 0, row := 0, started := false, faulted := false, flags := 0, serial := 0 }

/-- A task on its M stream, with a lease and so many commands. -/
def leased (tiles : BitVec 8) (n : Nat) : Task := { mT with lease := tiles, cmds := List.replicate n (cmd (.mclr k0)) }

/-- MatrixWords: a lease that holds a command's tiles, one that does not; room for one command, none; repetitions. -/
theorem witness_array_commands :
    Claims.OnM (onM mT) 0 mT ∧ (leased 1 31).lease ≠ 0 ∧ (leased 1 31).cmds.length < 32 ∧ 32 ≤ (leased 1 32).cmds.length ∧
      (leased 1 0).mrep = none ∧ ({ leased 1 0 with mrep := some { left := 1, creg := 0, imm := 0 } }).mrep ≠ none ∧
      (∀ x ∈ commandTiles (.mclr { k0 with acc := k0.acc + (leased 1 0).tileStep }), (leased 1 0).lease.getLsbD x = true) ∧
      ¬(∀ x ∈ commandTiles (.mclr { k0 with acc := k0.acc + (leased 2 0).tileStep }), (leased 2 0).lease.getLsbD x = true) ∧
      mT.lease = 0 :=
  ⟨⟨rfl, rfl⟩, by decide, by decide, by decide, rfl, by decide, by decide, by decide, rfl⟩

/-- MatrixWords: tiles that are free and tiles that are not; commands of the streams named and of others; what follows an MREP. -/
theorem witness_matrix_stream :
    let s := { onM mT with mem := [(31, 7)] }
    let other : Task := leased 0xFF 0
    mT.leaseWait = none ∧ ({ mT with leaseWait := some 1 }).leaseWait ≠ none ∧
      (onM mT).leaseFree 0 mT.prio 0xFF ((onM mT).leaseRequests 0) = true ∧
      { onM mT with tasks := [(0, mT), (1, other)] }.leaseFree 0 mT.prio 1 [] = false ∧ (leased 0 0).cmds = [] ∧ (leased 0 1).cmds ≠ [] ∧
      (∀ c ∈ (leased 0 1).cmds, c.streams &&& 2 = 0) ∧ (∃ c ∈ (leased 0 1).cmds, c.streams &&& 1 ≠ 0) ∧
      mT.sm.pc + 3 ≠ mT.sm.spanEnd ∧ ({ mT.sm with pc := 5 }).pc + 3 = ({ mT.sm with pc := 5 } : StreamSt).spanEnd ∧
      s.fetch 0 0 0 2 5 12 = .ok [0, 0, 0, 0, 0, 0, 0, 0, 0, 0, 0, 7] ∧
      decode .m (bytesWord [0, 0, 0, 0, 0, 0, 0, 0, 0, 0, 0, 7]) = .ok (.mclr k0) ∧
      (onM mT).fetch 0 0 0 2 5 12 = .ok (List.replicate 12 0) ∧ opcode (bytesWord (List.replicate 12 0)) < 3 ∧
      bits (0 : Word).toNat 32 16 = 0 ∧ bits (2 ^ 32 : Word).toNat 32 16 ≠ 0 :=
  ⟨rfl, by decide, by decide, by decide, rfl, by decide, by decide, by decide, by decide, by decide, ok_of (by decide +kernel), rfl,
    ok_of (by decide +kernel), by decide, by decide, by decide⟩

/-- TileResults: a clearing and an addition go through, on tiles in canonical form. -/
theorem witness_tiles :
    let s := onM mT
    s.tiles.wf 0 = true ∧ (∃ p, s.commandUnit s.aEngine mT (cmd (.mclr k0)) [] 0 = .ok p) ∧
      (∃ p, s.commandUnit s.aEngine mT (cmd (.madd k0)) [] 0 = .ok p) :=
  ⟨rfl, ok_some rfl, ok_some rfl⟩

/-- TileResults: the factors of a multiply with one row of products, the elements of a row to load, at both ends of the tile. -/
theorem witness_tile_sources :
    let s := onM mT
    let v := s.aEngine
    let g := glyphOf g8
    let c := cmd (.mma { k0 with kk := 1 })
    let w := { k0 with kk := 1 }
    (∀ m < 256, ∀ i ∈ [0], s.matrixElem v g (opA c w m i).1 (opA c w m i).2 = .ok (0, 127)) ∧
      (∀ n < 512, ∀ i ∈ [0], s.matrixElem v g (opB c w i n).1 (opB c w i n).2 = .ok (0, 127)) ∧
      (∀ n < 512, s.matrixElem v g (tileCoords c w 0 n).1 (tileCoords c w 0 n).2 = .ok (0, 127)) ∧
      s.matrixElem v g (tileCoords c w 255 511).1 (tileCoords c w 255 511).2 = .ok (0, 127) :=
  ⟨fun m h i hi => ok_of ((by decide +kernel : ∀ m < 256, ∀ i ∈ [0], ((onM mT).matrixElem (onM mT).aEngine (glyphOf g8)
      (opA (cmd (.mma { k0 with kk := 1 })) { k0 with kk := 1 } m i).1
      (opA (cmd (.mma { k0 with kk := 1 })) { k0 with kk := 1 } m i).2).toOption = some (0, 127)) m h i hi),
    fun n h i hi => ok_of ((by decide +kernel : ∀ n < 512, ∀ i ∈ [0], ((onM mT).matrixElem (onM mT).aEngine (glyphOf g8)
      (opB (cmd (.mma { k0 with kk := 1 })) { k0 with kk := 1 } i n).1
      (opB (cmd (.mma { k0 with kk := 1 })) { k0 with kk := 1 } i n).2).toOption = some (0, 127)) n h i hi),
    fun n h => ok_of ((by decide +kernel : ∀ n < 512, ((onM mT).matrixElem (onM mT).aEngine (glyphOf g8)
      (tileCoords (cmd (.mma { k0 with kk := 1 })) { k0 with kk := 1 } 0 n).1
      (tileCoords (cmd (.mma { k0 with kk := 1 })) { k0 with kk := 1 } 0 n).2).toOption = some (0, 127)) n h),
    ok_of (by decide +kernel)⟩

/-- TileResults: a row of eight elements that is stored, and a block of one element and its scale. -/
theorem witness_tile_stores :
    let s := onM mT
    let v := s.aEngine
    let g := glyphOf g8
    let e : (Int × Int) × BitVec 32 := ((7, 0), 0x3F800000)
    g.mx = 0 ∧ s.badTiles = [] ∧ (∃ u, s.writeTogether v g 0 ((List.range 8).map (fun (n : Nat) => ((n : Int), 255))) = .ok u) ∧
      g.inRange e.1 = true ∧ s.check v .write (g.scaleAt [7, 0, 0, 0, 0]) 1 = .ok [(0, 1)] ∧
      (match s.putElems v g [((7, 0), 1)] with
        | .ok a => (a.viewWrite v 0 [255]).isOk
        | .error _ => false) = true :=
  ⟨rfl, rfl, ok_some (by decide +kernel), by decide +kernel, ok_of (by decide +kernel), by decide +kernel⟩

/-! ## Steps that are no words -/

/-- The machine about to take a step about task, copy, level … `x`. -/
def at_ (s : State) (x y z : Nat) : State := { s with arg := { x := x, y := y, z := z } }

def effect (d : Dest) (replay : Bool) : Effect :=
  { dest := d, mask := 0, due := 0, captured := false, replay := replay, flags := 0, raises := false, sec := 0 }

def load (d : LoadDst) (returned bad : Bool) : Load :=
  { id := 4, dst := d, val := 5, vec := [], returned := returned, bad := bad, badAt := 8, issued := none, tag := none, sext := 0
    cause := .uncorrectable, path := false, again := none, sec := 0, pc := 2 }

/-- LandingsAndReturns: each kind of effect due, each kind of load in flight, one that has failed and is met. -/
theorem witness_landings :
    let lands (e : Effect) : Bool := ({ xT with effects := [e] }.nextLanding 0).isSome
    lands (effect (.dead [0]) false) = true ∧ (effect (.dead [0]) false).push? = none ∧ lands (effect (.dead [0]) true) = true ∧
      lands (effect (.aq 0 1) false) = true ∧ (effect (.aq 0 1) false).push? ≠ none ∧
      ({ aT with loads := [load (.reg 63) false false] } : Task).loads[0]? = some (load (.reg 63) false false) ∧
      (load (.reg 63) false false).returned = false ∧ (load (.reg 63) false false).bad = false ∧ (load (.reg 0) false true).bad = true ∧
      (load (.xq 7 0) false false).dst = .xq 7 0 ∧
      (onA aT).freshLoad 3 (load (.xq 7 0) false false) = .ok (load (.xq 7 0) false false) ∧
      (load (.xq 7 0) false true).bad = true ∧ { load (.xq 7 0) false false with vec := [1] }.vec ≠ [] ∧ aT.isResident = true ∧
      { aT with loads := [load (.reg 1) true true], meetsBad := some 4 }.badLoad = some (load (.reg 1) true true) ∧ aT.run = .running ∧
      aT.saving = false ∧ (load (.reg 1) true true).cause = .uncorrectable ∧ (load (.reg 1) true true).tag = none ∧
      aT.sa.left.head? ≠ some 0 :=
  ⟨by decide, by decide, by decide, by decide, by decide, by decide, by decide, by decide, by decide, by decide, rfl, by decide⟩

/-- A task of which stream `st` stands at its header at parcel 2, with the bits of a header in memory. -/
def atHeader (v : StreamSt) (cells : List (Nat × Byte)) : State :=
  { onA { aT with sa := v } with mem := cells }

/-- SectionEvents: headers in form, waiting, yielding, and out of form; a wait that holds and one that never will; sections done. -/
theorem witness_sections :
    let v : StreamSt := { aT.sa with phase := .header }
    let t : Task := { aT with sa := v }
    let good := atHeader v [(14, 1), (15, 0x90)]
    let waits := atHeader v [(9, 0x80), (12, 1), (14, 1), (15, 0x90)]
    let w : StreamSt := { aT.sa with phase := .waiting, hword := 0x9001000100008000 }
    t.live = true ∧ v.phase = .header ∧ v.stopped = false ∧ v.left.length < 16 ∧ t.xNext ≤ 0 ∧
      good.fetch 0 0 0 0 2 8 = .ok [0, 0, 0, 0, 0, 0, 1, 0x90] ∧ headerBad (leNat [0, 0, 0, 0, 0, 0, 1, 0x90]) = false ∧
      bits (leNat [0, 0, 0, 0, 0, 0, 1, 0x90]) 13 1 = 0 ∧ headerBad (leNat [0, 0x20, 0, 0, 0, 0, 1, 0x90]) = false ∧
      bits (leNat [0, 0x20, 0, 0, 0, 0, 1, 0x90]) 13 1 = 1 ∧ t.waitsHold .a 0 = true ∧
      waits.fetch 0 0 0 0 2 8 = .ok [0, 0x80, 0, 0, 1, 0, 1, 0x90] ∧ headerBad (leNat [0, 0x80, 0, 0, 1, 0, 1, 0x90]) = false ∧
      { aT with sa := w }.waitsHold .a 0 = false ∧ { aT with sa := { w with hword := 0x9001000000000000 } }.waitsHold .a 0 = true ∧
      { aT with sa := w, sx := { aT.sx with phase := .ended } }.neverWaits = some .a ∧
      { aT with sa := w, sx := { aT.sx with phase := .ended } }.live = true := by
  refine ⟨by decide, by decide, by decide, by decide, by decide, ok_of (by decide +kernel), ?_⟩
  refine ⟨by decide, by decide, by decide, by decide, by decide, ok_of (by decide +kernel), ?_⟩
  decide

/-- SectionEvents: a section that is done retires, the task going on or over. -/
theorem witness_retirement :
    let e (v : StreamSt) (l : List (BitVec 16)) : StreamSt := { v with phase := .ended, left := l }
    let gone : Task := { aT with sa := e aT.sa [0], sx := e aT.sx [], sm := e aT.sm [] }
    ({ aT with sa := { aT.sa with left := [0] } }).sa.left = 0 :: [] ∧ { aT with sa := { aT.sa with left := [0] } }.sectionDone .a 0 = true ∧
      aT.over = false ∧ gone.sectionDone .a 0 = true ∧ { gone with sa := e gone.sa [] }.over = true ∧ gone.live = true ∧
      gone.trapDue = false ∧ gone.cmds = [] ∧ gone.run ≠ .retired ∧ gone.run ≠ .faulted := by decide

/-- XEngineChoice: one stream is ready. -/
theorem witness_engine :
    ∃ c, chooseStream ((onX xT).core 0).lastX ((onX xT).cluster 0).mark ((onX xT).xCandidates 0) = some c := ⟨_, rfl⟩

/-- SectionTests: a stream that is absent; an effect of the section and a dead mark of it. -/
theorem witness_section_tests :
    let v : StreamSt := { aT.sx with present := false, retired := 0xFFFF }
    v.meets 0 0 = true ∧ v.meets 0 0x8001 = false ∧ ({ xT with effects := [effect (.aq 0 1) false] }).sectionDone .x 0 = false ∧
      ({ xT with effects := [effect (.dead [0]) false] }).sectionDone .x 0 = true := by decide

/-- A copy of eight bytes into the first eight, its barrier with a target. -/
def copies : State :=
  let u := (onA aT).setBar 0 0 { Barrier.reset with target := 8 }
  { u with copies := [(0, u.newCopy .fill g8 [] 0 0 [8] 0 0 0 false false 8 8)] }

/-- EngineEvents: a chunk that lands, one whose barrier is disabled, one that waits for its arrival at another tower; a paged
destination; an element that lands ahead of its chunk. -/
theorem witness_chunks :
    let c := (onA aT).newCopy .fill g8 [] 0 0 [8] 0 0 0 false false 8 8
    let r : Remote := { node := 5, op := .arrive 0 512 false false true, asker := .copy 0 0, pc := 2, ident := 0, first := 0, last := 0,
                        sends := 1, route := some 0, answer := some (.ok 0), path := false, know := Know.none, learnt := Know.none }
    SMap.find? 0 copies.copies = some c ∧ Claims.MayLand c 0 ∧ copies.chunkRequests 0 0 = [] ∧ (∃ u, copies.runChunk 0 0 c = .ok u) ∧
      { copies with bars := [] }.runChunk 0 0 c = .error (.trap .barrierMisuse 0) ∧
      { copies with remotes := [(4, r)] }.chunkRequests 0 0 = [(4, r)] ∧ r.answer = some (.ok 0) ∧
      (∃ h n w x y, r.op = .arrive h n w x y) ∧ (glyphOf [0, 0, 0, 0, 0, 0, 0x100000000000000, 0]).paged = true ∧
      (c.kind = .fill ∧ c.wash = false ∧ copies.chunkMisuse c = false ∧ copies.windowClear c = true ∧ (c.chunk 0)[0]? = some 0) ∧
      (∃ xs, copies.copySource c (c.chunk 0) = .ok xs) ∧ copies.copySource c [0] = .ok [0] ∧
      (match copies.remoteParts c [0] [0] with
        | .ok one => one.2.isEmpty && (copies.landNear c one.1).isOk
        | .error _ => false) = true ∧ (copies.remoteParts c (c.chunk 0) (List.replicate 8 0)).isOk = true ∧
      (∃ u, copies.writeRanges (c.view true) (copies.landBits c (c.chunk 0) (List.replicate 8 0)) = .ok u) ∧
      (∃ u, copies.writeRun (c.view true) (8 * 7, 8 * 1, 255) = .ok u) ∧ copies.check (c.view true) .write 7 1 = .ok [(7, 1)] ∧
      copies.place 7 = .store 0 0 7 ∧ c.early = [] ∧ copies.ctl.mirrors = [] :=
  ⟨rfl, ⟨rfl, rfl, by decide, by decide, by decide⟩, rfl, ok_some (by decide +kernel), stop_of (by decide +kernel), rfl, rfl,
    ⟨_, _, _, _, _, rfl⟩, by decide, by decide +kernel, ok_some (by decide +kernel), ok_of (by decide +kernel), by decide +kernel, by decide +kernel, ok_some (by decide +kernel),
    ok_some (by decide +kernel), ok_of (by decide +kernel), rfl, rfl, rfl⟩

/-- A task with one command in its list, with its lease, that the matrix loads can serve. -/
def arrayed (i : Instr) : State :=
  let u := onM { mT with lease := 0xFF, cmds := [cmd i] }
  { u with tlb := { page with unit := 192 } :: u.tlb }

/-- EngineEvents: a command that completes, one whose barrier is disabled, one whose glyph fails; a lease that is wanted. -/
theorem witness_array :
    let t (i : Instr) : Task := { mT with lease := 0xFF, cmds := [cmd i] }
    let stop (s : State) (i : Instr) := (s.runCommand 0 (t i) (cmd i)).stop
    let asking : State := { onM { mT with leaseWait := some 1 } with leaseOrder := [(0, 0, 0)] }
    Claims.OnArray (arrayed (.mbarv n0)) (t (.mbarv n0)) (cmd (.mbarv n0)) ∧
      (stop ((arrayed (.mbarv n0)).setBar 0 0 { Barrier.reset with target := 8 }) (.mbarv n0)).isNone = true ∧
      (match stop (arrayed (.mbarv n0)) (.mbarv n0) with
        | some (.trap c 0) => decide (c ≠ .uncorrectable)
        | _ => false) = true ∧
      (arrayed (.mbarv n0)).glyphsFail 0 (t (.mbarv n0)) (cmd (.mbarv n0)) = false ∧
      (arrayed (.mma k0)).glyphsFail 0 (t (.mma k0)) (cmd (.mma k0)) = true ∧ (t (.mma k0)).run = .running ∧
      (match stop { arrayed (.madd k0) with badTiles := [0] } (.madd k0) with
        | some (.parity 0) => true
        | _ => false) = true ∧
      (firstHighest (asking.grantable 0)).isSome = true :=
  ⟨⟨rfl, rfl, rfl⟩, by decide +kernel, by decide +kernel, by decide +kernel, by decide +kernel, rfl, by decide +kernel, by decide⟩

/-- A binding of one vector, that has not begun. -/
def bound (d : List Word) (table : List Nat) : Binding :=
  { glyph := 0, data := g8, index := [], desc := d, table := table, pc := 2, pos := 0, buf := [], bitPos := 0, elems := []
    stopped := false, poison := none }

/-- EngineEvents: a vector that lies outside its glyph is all pad; one with no code; one of a sealed tower. -/
theorem witness_streams :
    let s := onA aT
    let v := s.streamView 0 aT 0
    let pads := bound [8, 0, 0, 0, 0, 0, 0x21000000090, 0] []
    let bad := bound [0, 0, 0, 0, 0, 0, 0x20000000000, 2] (List.replicate 256 0)
    let plain := bound desc []
    pads.total = 1 ∧ v.unit = 0 ∧ (match s.deliverVector v pads 0 with | .ok (some _) => true | _ => false) = true ∧
      s.deliverVector v bad 0 = .ok none ∧ { s with sealed := true }.deliverVector v plain 0 = .error (.trap .mapLost 0) :=
  ⟨by decide, rfl, by decide +kernel, ok_of (by decide +kernel), stop_of (by decide +kernel)⟩

/-! ## Events of traps and records -/

/-- The machine with a service area at the start of T4 that holds the cells. -/
def served (cells : List (Nat × Byte)) : State :=
  { State.reset with ctl := { Ctl.reset with asbase := 0x180000000, written := true }, mem := cells }

/-- Fault control on, its semaphore 9. -/
def control : State := served [(0x18010A020, 9), (0x18010A027, 0x80)]

/-- A posted record 3 of the source, answered with the code. -/
def answered (src : Source) (code : Byte) : State :=
  let w : List (Nat × Byte) := if code = 0 then [(0x1801100FF, 0x80)] else [(0x1801100F8, code), (0x1801100FF, 0x80)]
  at_ { served w with
    opens := [{ number := 3, src := src, kind := 0, cause := some .access }], tasks := [(0, { aT with run := .onRecord })] } 3 0 0

theorem is_answered (s : State) (o : Open) (code : Nat) (hf : s.serviceFree = true) (ho : s.opens.find? (fun o => o.number = s.arg.x) = some o)
    (hw : (s.serviceWord (ringSlot o.number + 56)).map (fun w => w.getLsbD 63 && decide (bits w.toNat 0 3 = code)) = some true) :
    Claims.Answered s o code := by
  obtain ⟨w, h, h'⟩ := Option.map_eq_some_iff.mp hw
  simp only [Bool.and_eq_true, decide_eq_true_eq] at h'
  exact ⟨hf, ho, w, h, h'⟩

/-- TrapEvents: traps held for each stream; a watchdog that has run out; a PARK that may end; a failed load of the Rubricator. -/
theorem witness_held_traps :
    let w : WaitMark := { pc := 2, stream := .x, since := 0, on := .sem 7 1 0 none }
    let t : Task := { aT with csr := { aT.csr with wdLimit := 5 }, wait := some w }
    let p : Task := { aT with run := .parked (.mbx 1), unpark := true }
    let r : Rub := { onRub.rub with meetsBad := some 4, loads := [load (.reg 1) true true] }
    aT.run = .running ∧ aT.inHandler = false ∧ aT.saving = false ∧ aT.isResident = true ∧ aT.heldDraw = none ∧
      aT.heldLand = false ∧ aT.heldFp = none ∧ { aT with heldLand := true }.inHandler = false ∧
      { aT with heldFp := some 5 }.heldFp = some 5 ∧ { aT with heldDraw := some .a }.heldDraw = some .a ∧
      { aT with handler := some { saved := aT.sa, before := 0 } }.inHandler = true ∧
      w.on ≠ .ink ∧ t.csr.wdLimit ≠ 0 ∧ t.run ≠ .onRecord ∧ t.saving = false ∧
      w.since + t.csr.wdLimit.toNat ≤ ({ onA t with now := 100000 } : State).cyc t.core ∧
      p.run = .parked (.mbx 1) ∧ p.saving = false ∧ p.unpark = true ∧
      r.running = true ∧ r.meetsBad = some 4 ∧
      r.loads.find? (fun l => l.bad && l.returned && decide (l.id = 4)) = some (load (.reg 1) true true) := by decide

/-- TrapEvents: records that may be posted, fault control on and off, with room. -/
theorem witness_posting :
    let r := infoRecord 0 4 none 0 0
    let q : Record := { r with info := false }
    control.serviceFree = true ∧ control.faultControl = some 9 ∧ control.slotFree = true ∧ (served []).faultControl = none ∧ r.info = true ∧ q.info = false ∧
      (at_ { control with records := [r, q] } 0 0 0).records[0]? = some r ∧ ∀ p ∈ [r, q].take 0, p.src ≠ r.src := by
  refine ⟨?_, ?_, ?_, ?_, rfl, rfl, rfl, by simp⟩ <;> decide +kernel

/-- Sources of every kind that an answer treats by itself. -/
def sources : List Source := [.task 0, .load 0 2, .copy 1, .arrival 1, .command 0 7, .binding 0 1]

/-- TrapEvents: each code, on a record of each source. -/
theorem witness_answers :
    (∀ src ∈ sources, ∀ n ∈ List.range 6, 
        Claims.Answered (answered src (BitVec.ofNat 8 n)) { number := 3, src := src, kind := 0, cause := some .access } n) ∧
      ∀ src, (answered src 1).task? 0 = some { aT with run := .onRecord } := by
  have h : ∀ src ∈ sources, ∀ n ∈ List.range 6,
      ((answered src (BitVec.ofNat 8 n)).serviceWord (ringSlot 3 + 56)).map
        (fun w => w.getLsbD 63 && decide (bits w.toNat 0 3 = n)) = some true := by decide +kernel
  have hf : ∀ src ∈ sources, ∀ n ∈ List.range 6, (answered src (BitVec.ofNat 8 n)).serviceFree = true := by decide +kernel
  exact ⟨fun src hs n hn => is_answered _ _ _ (hf src hs n hn) rfl (h src hs n hn), fun _ => rfl⟩

/-! ## Events of tasks, queues and Proofing -/

/-- A service area with one frame, at 8 GiB. -/
def framed : State := { served [(0x18010A044, 2), (0x18010A048, 1)] with tasks := [(0, aT)] }

/-- TaskEvents: a task whose waits are reached, one that is loaded, one whose frame is intact, one whose frame is not. -/
theorem witness_contexts :
    let t : Task := { aT with run := .resident }
    let r : Task := { t with saved := true, frame := some 64 }
    { aT with run := .waiting, waits := [] }.run = .waiting ∧ (∀ e ∈ ([] : List (Word × BitVec 32)), (onA aT).waitReached e = true) ∧
      (∀ e ∈ [((0 : Word), (0 : BitVec 32))], (onA aT).waitReached e = true) ∧ (∃ e, (onA aT).waitReached e = false) ∧
      t.run = .resident ∧ t.saved = false ∧ r.run = .resident ∧ r.saved = true ∧ r.frame = some 64 ∧
      { onA r with frames := [(64, (0, 0))] }.frameIntact 64 = true ∧ { onA r with frames := [] }.frameIntact 64 = false :=
  ⟨rfl, by simp, fun e he => by rw [List.mem_singleton.mp he]; rfl, ⟨(0, 1), rfl⟩, rfl, rfl, rfl, rfl, rfl, rfl, rfl⟩

/-- TaskEvents: a task that drains with a free frame, drained and out of time, and one that is being saved. -/
theorem witness_preemption :
    let t : Task := { aT with pre := some { phase := .drain, since := 0 }, sa := { aT.sa with stopped := true }
                              sx := { aT.sx with phase := .ended }, sm := { aT.sm with phase := .ended } }
    let v : Task := { aT with pre := some { phase := .saving, since := 0 }, frame := some 0x200000000 }
    let late : State := { framed with now := 10000 * framed.rub.preDrain.toNat }
    t.pre = some { phase := .drain, since := 0 } ∧ t.isResident = true ∧ t.run ≠ .resident ∧
      framed.serviceFree = true ∧ framed.frameFree 0x200000000 = true ∧ framed.freeFrame = some (0, 0x200000000) ∧ framed.drained 0 t = true ∧ late.freeFrame = some (0, 0x200000000) ∧
      0 + 1000 * late.rub.preDrain.toNat ≤ late.tsc ∧ v.frame = some 0x200000000 ∧ v.saving = true ∧ v.effects = [] := by
  refine ⟨rfl, rfl, by decide, ?_, ?_, ?_, ?_, ?_, ?_, rfl, rfl, rfl⟩ <;> decide +kernel

/-- TaskEvents: a core that takes a runnable task; an arming whose tasks have ended. -/
theorem witness_placement :
    let u := at_ { serves with tasks := [(0, { aT with core := 4, slot := none, run := .runnable })] } 4 0 0
    let a : Arming := { entry := 0, csem := 3, cinc := 1, live := [], faulted := false }
    u.serviceFree = true ∧ u.admits u.tower 5 (0xF100000000 + 8 * 3) (rubIdent u.tower) .sem = true ∧ u.coreOpen 4 = true ∧ (u.placeAll 4 (u.placeable 4)).tasks ≠ u.tasks ∧
      SMap.find? 6 { onRub with armings := [(6, a), (7, { a with faulted := true })] }.armings = some a ∧
      SMap.find? 7 { onRub with armings := [(6, a), (7, { a with faulted := true })] }.armings = some { a with faulted := true } := by
  decide +kernel

/-- A queue 2 whose head has the action and image, with nothing to wait for. -/
def queued (s : State) (action : Nat) (image : List Word) : State :=
  at_ { s with queues := [(2, [{ action := action, image := image, ready := true }])] } 2 0 0

/-- TaskEvents: a head of each action: a launch that arms and one that does not, a copy that is issued and one that fails, a step
on a semaphore, an interrupt. -/
theorem witness_queue_heads :
    let q (n : Nat) (im : List Word) : QEntry := { action := n, image := im, ready := true }
    let g : State := { onRub with mem := glyphs.mem }
    let copy : List Word := [0, 0, 0, 0x2000, 0x2000, 0, 0, 0]
    Claims.OnQueue (queued serves 0 [0, 0, 0, 0]) (q 0 [0, 0, 0, 0]) [] ∧ (queued serves 0 [0, 0, 0, 0]).armingsFull = false ∧
      ((queued serves 0 [0, 0, 0, 0]).arm 0 false (.queue 2)).1 = true ∧ ((queued serves 0 [0, 0, 0, 1]).arm 1 false (.queue 2)).1 = false ∧
      (∃ u, (queued g 1 copy).queueCopy 2 (q 1 copy) = .ok u) ∧
      (∃ c va, (queued onRub 1 copy).queueCopy 2 (q 1 copy) = .error (.trap c va)) ∧
      (queued onRub 2 [0, 0, 0, 5]).semAllowed 5 (rubIdent 0) = .ok () ∧ (queued onRub 3 [0, 0, 0, 63]).armingsFull = false := by
  refine ⟨⟨rfl, rfl⟩, rfl, ?_, ?_, ok_some ?_, ?_, ok_of ?_, rfl⟩
  · decide +kernel
  · decide +kernel
  · decide +kernel
  · exact ⟨_, _, rfl⟩
  · decide +kernel

/-- ProofingEvents: an abort that is marked, at once and after 5 µs, of a Proofing that has begun and of one that has not; a Proofing in
each phase, on a core with no task and on one that must wait; its 200 µs over. -/
theorem witness_proofing :
    let p : Proofing := { core := 2, phase := .pending, begun := false, since := 0, exempt := [] }
    let s := at_ { onRub with proofing := some p, now := 2000000 } 0 1 0
    s.proofing = some p ∧ s.coreBusy p.core = false ∧ s.proofWanted p = false ∧ ({ p with begun := true }).begun = true ∧
      s.serviceFree = true ∧ ({ p with phase := .aborting }).phase = .aborting ∧ s.arg.x ≠ 1 ∧ p.since + 5000 ≤ (at_ s 1 0 0).tsc ∧
      p.since + 200000 ≤ s.tsc ∧ s.arg.y = 1 ∧ (at_ s 0 0 0).arg.y ≠ 1 ∧
      { s with tasks := [(0, { aT with core := 2, prio := 1, run := .runnable })], proofing := some p }.proofWanted p = true := by decide +kernel

/-! ## Events of power and of the Baseline -/

/-- A tower 100 µs after reset: the times of the tick, the sensors, the pairs, the governor and the service die have come. -/
def later : State := { onRub with now := 1000000, tasks := [(0, aT)] }

def region : Region := Region.mk 10 5 0 false 0 0 [] true

/-- PowerEvents: the times have come; a request that is granted, one that waits; a region that has ended; draws above a region's
level; a clamp to apply; a droop. -/
theorem witness_power :
    let r : InkReq := { task := 0, lvl := 10, dur := 5, auto := false }
    let t : Task := { aT with region := some region }
    let u : Task := { t with sx := { t.sx with phase := .ended } }
    let hot := at_ { later with clusters := [(3, { Cluster.reset with
      sensors := [(3, { valid := false, reading := 0, changedAt := 0, passedSince := none })] })] } 3 0 0
    later.clocks.tick < later.tsc / 1000 ∧ { later with ink := { later.ink with order := [r], bal := 50 } }.ink.order = r :: [] ∧
      ((r.lvl * r.dur : Nat) : Int) ≤ 50 ∧ (49 : Int) < ((r.lvl * r.dur : Nat) : Int) ∧ later.task? 0 = some aT ∧
      t.region = some region ∧ region.expired = false ∧ region.start + 1000 * region.dur ≤ later.tsc ∧ region.raised = true ∧
      t.sx.phase ≠ .ended ∧ u.sx.phase = .ended ∧ u.sa.phase ≠ .ended ∧ later.clocks.sensor < later.tsc / 100000 ∧
      ((hot.cluster 3).clampSensor, (hot.cluster 3).clampHeat) ≠ hot.clampsDue 3 ∧
      later.clocks.pairs.get 0 23 < later.cycles 46 / 16 ∧ 0 ≤ later.intoCycle (later.cluster 47) ∧
      later.intoCycle (later.cluster 47) < ((later.cluster 47).mhz : Int) ∧ (later.cluster 47).stretchedAt ≤ later.cycles 47 ∧ later.clocks.governor < later.tsc / 100000 := by
  refine ⟨?_, ?_, ?_, ?_, ?_, ?_, ?_, ?_, ?_, ?_, ?_, ?_, ?_, ?_, ?_, ?_, ?_, ?_, ?_⟩ <;> decide +kernel

/-- PowerEvents: a pair whose halves draw alike, and each way unlike. -/
theorem witness_pairs :
    imbalance 100 98 < 30 ∧ 30 ≤ imbalance 100 90 ∧ imbalance 100 97 = 30 := by decide

/-- The tower in a group with one other, that has last been heard at 0. -/
def grouped : State :=
  { later with base := { later.base with group := some 4, members := [(9, { ceil := 1000, pending := none, heard := 0 })] } }

/-- A tower whose command word asks for the command in group 4. -/
def commanded (s : State) (cmd : Nat) : State := { s with base := { s.base with command := BitVec.ofNat 64 (2 ^ 32 + cmd * 65536 + 4) } }

/-- BaselineEvents: a change that is due; each command, in a group and out of one, and one that is malformed. -/
theorem witness_baseline :
    let due : State := { later with base := { later.base with pending := some (1000, 0) } }
    due.base.due due.tsc ≠ due.base ∧ (commanded later 1).base.fresh = some (1, 1, 4, true) ∧ later.base.group = none ∧
      (commanded grouped 1).base.fresh = some (1, 1, 4, true) ∧ grouped.base.group ≠ none ∧
      (commanded grouped 2).base.fresh = some (1, 2, 4, true) ∧ (commanded later 2).base.fresh = some (1, 2, 4, true) ∧
      (commanded later 3).base.fresh = some (1, 3, 4, true) ∧ (commanded later 5).base.fresh = some (1, 1, 4, false) := by
  refine ⟨fun h => absurd (congrArg Baseline.pending h) (by decide), ?_, ?_, ?_, ?_, ?_, ?_, ?_, ?_⟩ <;> decide +kernel

/-- BaselineEvents: the messages and the times of a join, of the members, and of the service die. -/
theorem witness_baseline_messages :
    let joins : State :=
      { later with base := { later.base with join := some (1, 4, 0, none) }, fabIn := [.joinReply [(9, 1000, none)] [] []] }
    let told : State := { grouped with fabIn := [.announce 9 900 300000, .joinAsk 7 4, .heartbeat 9 0 1000 none] }
    let old : State := { grouped with now := 20000000 }
    joins.fabIn[0]? = some (.joinReply [(9, 1000, none)] [] []) ∧ joins.base.join = some (1, 4, 0, none) ∧ 0 + 100000 ≤ joins.tsc ∧
      told.fabIn[0]? = some (.announce 9 900 300000) ∧ 9 ∈ told.base.peers ∧ told.fabIn[1]? = some (.joinAsk 7 4) ∧
      told.fabIn[2]? = some (.heartbeat 9 0 1000 none) ∧
      SMap.find? 9 told.base.members = some { ceil := 1000, pending := none, heard := 0 } ∧
      grouped.clocks.heartbeat < grouped.tsc / 50000 ∧ old.base.silent ≠ old.base.quiet old.tsc ∧ 0 + 2000000 ≤ old.tsc ∧
      later.clocks.service < later.tsc / 10000 := by
  refine ⟨rfl, rfl, ?_, rfl, ?_, rfl, rfl, rfl, ?_, ?_, ?_, ?_⟩ <;> decide

/-! ## Events of the control block and of the Blotter -/

/-- A write to the control block on its way. -/
def writing (o : Nat) (v : Word) : State := { onRub with ctl := { onRub.ctl with incoming := [(o, v)] } }

/-- Every right on T4 for everyone. -/
def openT4 : SMap AclEntry :=
  State.reset.acl.set AclEntry.empty 769 { w0 := 0xF800000000000000#64, w1 := 0xFFFFFF0000#64, w2 := 0, w3 := 0 }

/-- Every right on LPDDR6 for everyone. -/
def openLow : SMap AclEntry :=
  State.reset.acl.set AclEntry.empty 1025 { w0 := 0xF800000000000000#64, w1 := 0xFFFFFF0000#64, w2 := 0, w3 := 0 }

/-- Page tables of address space 0 that map the first 2 MiB to themselves. -/
def tables : State :=
  { served [(0x180000000, 1), (0x180000004, 2), (0x200000000, 1), (0x200000002, 1), (0x200000004, 2), (0x200010000, 1),
    (0x200010002, 2), (0x200010004, 2), (0x200020000, 7)] with acl := openT4 }

theorem made {α : Type} {r : Option α} (h : r.isSome = true) : ∃ x, r = some x := Option.isSome_iff_exists.mp h

theorem made_pair {α β : Type} {r : Option (α × β)} (h : r.isSome = true) : ∃ x y, r = some (x, y) := by
  obtain ⟨⟨x, y⟩, h⟩ := made h
  exact ⟨x, y, h⟩

theorem walked {α β : Type} {r : Except α β} (h : r.isOk = true) : ∃ x, r = .ok x := by
  cases r <;> simp_all [Except.isOk, Except.toBool]

/-- ControlBlockEvents: writes to each kind of register; an invalidation; walks that find a page and that find none. -/
theorem witness_control_block :
    let w : Walk := { units := [0], asid := 0, va := 4096, pref := false }
    Claims.CtlNext (writing 0 5) 0 5 [] ∧ (writing 0 5).arg.x ≠ 1 ∧ isMirlen 0 = false ∧ isRuling 0 = false ∧
      isRuling 0x58 = true ∧ (2 : Word).getLsbD 0 = false ∧ (1 : Word).getLsbD 0 = true ∧ bits (2 ^ 62) 46 17 ≠ 0 ∧
      bits (2 ^ 63 + 2 ^ 46 - 1) 46 17 = 0 ∧ (writing 0x10 1).ctl.invBusy = false ∧ isMirlen 0x110 = true ∧ isMirlen 0x1F0 = true ∧
      { onRub with frozen := true }.frozen = true ∧ { onRub with sealed := true }.sealed = true ∧ onRub.frozen = false ∧
      onRub.sealed = false ∧ { onRub.ctl with invBusy := true }.invBusy = true ∧ { tables with walks := [w] }.walks[0]? = some w ∧
      (∃ e, tables.walk 0 w.asid w.va = .ok e) ∧ onRub.walk 0 w.asid w.va = .error (.trap .xlate 0) ∧ onRub.remotes = [] ∧ { w with pref := true }.pref = true := by
  refine ⟨rfl, ?_, ?_, ?_, ?_, ?_, ?_, ?_, ?_, ?_, ?_, ?_, ?_, ?_, ?_, ?_, rfl, rfl, walked ?_, stop_of ?_, rfl, rfl⟩ <;> decide +kernel

/-- Level 3 with one copy of its remap table unreadable in entry 5, or two. -/
def votes (ks : List Nat) : Level := { onRub.level 3 with copies := ks.map (fun k => (k, [(5, none)])) }

/-- ControlBlockEvents: a level that is being re-ruled; a bank retired with a spare and without, for its errors, for a lane, for heat; a
swap; errors that pass and that last, of each kind. -/
theorem witness_levels :
    let l := onRub.level 3
    let busy := onRub.setLevel 3 { l with busy := true }
    let swaps := onRub.setLevel 3 { l with swap := some (2047, 2048) }
    let flaws : List (Flaw × Bool) :=
      [(.sector 0, false), (.sector 1, true), (.remap 3 2 2047 none, true), (.slice 0 64, true), (.tile 512, false)]
    (busy.level 3).busy = true ∧ (busy.level 3).swap = none ∧ 2047 < l.banks ∧ l.busy = false ∧ l.swap = none ∧ 2047 ∉ l.lost ∧
      16 < { l with errors := [(2047, 17)] }.errors.get 0 2047 ∧
      (onRub.setLevel (laneHome 3) { onRub.level (laneHome 3) with failedLanes := [Config.laneOf 3 2047] }).laneFailed 3 2047 = true ∧
      SMap.find? 2047 { l with hot := [(2047, 0)] }.hot = some 0 ∧ 0 + 100000000 ≤ ({ onRub with now := 10 ^ 9 } : State).tsc ∧
      l.spares ≠ 0 ∧ { l with spares := 0 }.spares = 0 ∧ (swaps.level 3).swap = some (2047, 2048) ∧
      (∀ n, n < 5 → ∃ e, ({ onRub with retries := flaws } : State).retries[n]? = some e) ∧
      (∃ x o, onRub.sectorLevel 0 = some (x, o)) ∧ (∃ x o, onRub.sectorLevel 1 = some (x, o)) := by
  refine ⟨?_, ?_, ?_, ?_, ?_, ?_, ?_, List.contains_iff_mem.mpr (List.mem_singleton.mpr rfl), ?_, ?_, ?_, ?_, ?_, ?_, ⟨_, _, rfl⟩, ⟨_, _, rfl⟩⟩
  case refine_13 =>
    intro n h
    match n, h with
    | 0, _ | 1, _ | 2, _ | 3, _ | 4, _ => exact ⟨_, rfl⟩
  all_goals decide

/-- ControlBlockEvents and RemapVote: copies that agree, one that is bad, two that are. -/
theorem witness_votes :
    (votes []).copyEntry 0 5 = some 5 ∧ (votes []).copyEntry 1 5 = some 5 ∧ (votes [0]).copyEntry 1 5 = some 5 ∧
      (votes [0]).copyEntry 2 5 = some 5 ∧ (∀ v, (votes [0, 1]).copyEntry 0 5 ≠ some v ∧ (votes [0, 1]).copyEntry 1 5 ≠ some v) ∧
      (votes [2]).badCopy 2 = true ∧ 2 ∉ (votes [2]).reported ∧ (votes [0, 1]).lostVote = true ∧ (votes [0]).lostVote = false := by
  refine ⟨rfl, rfl, rfl, rfl, fun v => ⟨nofun, nofun⟩, ?_, ?_, ?_, ?_⟩ <;> decide

/-- Blocks 0 to 2 of a Folio: block 0 is to be converted into block 1, both in LPDDR6; the storage of block 2 lies on another tower. -/
def blocks : State :=
  { served [(0x10007, 0x20), (0x10012, 2), (0x10014, 0x40), (0x10052, 3), (0x10054, 0x40), (0x10096, 1)] with
    acl := openLow
    folio := { State.reset.folio with base := some 0x10000, enable := true, rate := 4, converting := [{ block := 0, scratch := 1 }] } }

theorem try_bind {α β : Type} (x : α) (f : α → Try β) : (Except.ok x : Try α) >>= f = f x := rfl

/-- Where nobody lags, a viewer sees the newest bytes. -/
theorem view_newest {o : Order} (h : o.lags = []) (who : Option Viewer) (grain a : Nat) (bs : List Byte) : o.view who grain a bs = bs := by
  cases who <;> simp [Order.view, h]

theorem die_reads {s : State} {ident : BitVec 32} {pa n : Nat} {p : Place} (ho : s.order.lags = []) (hw : s.washed = [])
    (hp : s.physCheck ident .engine .read pa n = .ok p) : s.dieRead ident pa n = .ok (s.bytes p.key n) := by
  simp only [State.dieRead, hp, try_bind, State.seenBytes, State.readBytes, hw, view_newest ho]
  rfl

theorem phys_writes {s : State} {ident : BitVec 32} {pa : Nat} {p : Place} {bs : List Byte} (hw : s.washed = []) (hm : s.ctl.mirrors = [])
    (hp : s.physCheck ident .engine .write pa bs.length = .ok p) : ∃ t, s.physWrite ident .engine pa bs = .ok t := by
  refine ⟨s.dieWrote (s.writeBytes p.key bs) ident, ?_⟩
  simp only [State.physWrite, hp, try_bind, State.writable, State.mirrorHeld, hw, hm]
  rfl

theorem blotter_reads {s : State} {b : Nat} {p : Place} (hs : s.storageOk (s.blockData b) = true) (ho : s.order.lags = [])
    (hw : s.washed = []) (hp : s.physCheck s.blotterIdent .engine .read (s.blockData b) 65536 = .ok p) :
    s.blotterRead b = .ok (s.bytes p.key 65536) := by
  simp only [State.blotterRead, hs, die_reads ho hw hp]
  rfl

theorem blotter_writes {s : State} {b : Nat} {p : Place} {bs : List Byte} (hs : s.storageOk (s.blockData b) = true) (hw : s.washed = [])
    (hm : s.ctl.mirrors = []) (hp : s.physCheck s.blotterIdent .engine .write (s.blockData b) 65536 = .ok p) (hl : bs.length = 65536) :
    ∃ t, s.blotterWrite b bs = .ok t := by
  obtain ⟨t, ht⟩ := phys_writes (bs := bs) hw hm (by rw [hl]; exact hp)
  refine ⟨t, ?_⟩
  simp only [State.blotterWrite, hs, ht]
  rfl

/-- A list of whole runs falls into them. -/
theorem runs_whole {α : Type} {n : Nat} (hn : 0 < n) : ∀ (k fuel : Nat) (xs : List α), xs.length = n * k → k ≤ fuel →
    (runs n fuel xs).length = k ∧ ∀ r ∈ runs n fuel xs, r.length = n := by
  intro k
  induction k with
  | zero =>
    intro fuel xs h _
    have : xs = [] := List.length_eq_zero_iff.mp (by simpa using h)
    subst this
    cases fuel <;> simp [runs]
  | succ k ih =>
    intro fuel xs h hf
    obtain ⟨f, rfl⟩ : ∃ f, fuel = f + 1 := ⟨fuel - 1, by omega⟩
    have hx : xs.isEmpty = false := by
      cases xs with
      | nil => simp [Nat.mul_succ] at h; omega
      | cons _ _ => rfl
    have hd := ih f (xs.drop n) (by rw [List.length_drop, h, Nat.mul_succ]; omega) (by omega)
    simp only [runs, hx]
    refine ⟨by simp [hd.1], ?_⟩
    intro r hr
    rcases List.mem_cons.mp hr with rfl | hr
    · rw [List.length_take, h, Nat.mul_succ]; omega
    · exact hd.2 r hr

theorem flat_length {α β : Type} (f : α → List β) (m : Nat) : ∀ xs : List α, (∀ x ∈ xs, (f x).length = m) →
    (xs.flatMap f).length = m * xs.length
  | [], _ => rfl
  | x :: xs, h => by
    rw [List.flatMap_cons, List.length_append, h x (by simp), flat_length f m xs (fun y hy => h y (by simp [hy])), List.length_cons,
      Nat.mul_succ, Nat.add_comm]

theorem finites_length : ∀ (xs : List Val) (fs : List Exact), finites xs = some fs → fs.length = xs.length
  | [], fs, h => by simp only [finites, Option.some.injEq] at h; rw [← h]; rfl
  | .fin x :: vs, fs, h => by
    obtain ⟨gs, hg, rfl⟩ := Option.map_eq_some_iff.mp h
    rw [List.length_cons, List.length_cons, finites_length vs gs hg]
  | .inf _ :: _, _, h => by cases h
  | .nan _ :: _, _, h => by cases h

theorem quantised_length (r : List Val) (t mode : Nat) : (quantiseMX r t mode).2.1.length = r.length := by
  simp only [quantiseMX]
  split
  · exact List.length_map _
  · rename_i fs h
    simp only [List.length_map, finites_length r fs h]

theorem converted {s t : State} {c : Convert} {bs : List Byte} (hr : s.blotterRead c.block = .ok bs)
    (hw : s.blotterWrite c.scratch (convertPage (s.blockFormat c.block) (s.blockGroup c.block) bs) = .ok t) : s.convertInto c = .ok t := by
  unfold State.convertInto
  rw [hr, try_bind]
  exact hw

theorem migrated {s t : State} {c : Convert} {bs : List Byte} (hr : s.blotterRead c.block = .ok bs)
    (hw : s.blotterWrite c.scratch bs = .ok t) : s.migrateInto c = .ok t := by
  unfold State.migrateInto
  rw [hr, try_bind]
  exact hw

/-- A converted page fills its storage. -/
theorem converted_length (format : Nat) (bs : List Byte) (h : bs.length = 65536) : (convertPage format 0 bs).length = 65536 := by
  have hr := runs_whole (n := 32) (by decide) 2048 bs.length
    (bs.map (fun b => if format = 0 then fE4.value b.toNat else fE5.value b.toNat)) (by simp [h]) (by omega)
  simp only [convertPage, if_true]
  generalize runs 32 bs.length _ = rs at hr
  have hq : ∀ q ∈ rs.map (fun r => quantiseMX r 8 0), q.2.1.length = 32 := by
    intro q hq
    obtain ⟨r, hm, rfl⟩ := List.mem_map.mp hq
    rw [quantised_length, hr.2 r hm]
  generalize hqs : rs.map (fun r => quantiseMX r 8 0) = qs at hq
  have hn : qs.length = 2048 := by rw [← hqs, List.length_map, hr.1]
  have h1 : (qs.flatMap (fun q => q.2.1)).length = 65536 := by rw [flat_length _ 32 qs hq, hn]
  have h2 : (packNibbles (qs.flatMap (fun q => q.2.1))).length = 32768 := by
    rw [packNibbles, List.length_map]
    exact (runs_whole (by decide) 32768 _ _ (by rw [h1]) (by rw [h1]; decide)).1
  rw [List.length_append, List.length_append, h2, flat_length _ 1 qs (by simp), hn, List.length_replicate]

/-- BlotterEvents: a visit that is due, a conversion and a migration that end, one that is refused. -/
theorem witness_blotter :
    let c : Convert := { block := 0, scratch := 1 }
    blocks.folio.enable = true ∧ blocks.folio.base ≠ none ∧
      (if blocks.clocks.blotter = blocks.tsc / 1000 then blocks.folio.visited else 0) < blocks.folio.rate ∧
      blocks.conversionOf 0 = some c ∧ blocks.blockState 0 = 2 := by
  refine ⟨rfl, by decide, by decide, rfl, by decide +kernel⟩

/-- BlotterEvents: a conversion and a migration that end, and one that is refused. -/
theorem witness_conversions :
    (∃ t, blocks.convertInto { block := 0, scratch := 1 } = .ok t) ∧ (∃ t, blocks.migrateInto { block := 0, scratch := 1 } = .ok t) ∧
      (blocks.refused { block := 2, scratch := 1 }).isSome = true := by
  have hr : blocks.blotterRead 0 = .ok (blocks.bytes 0x4000020000 65536) :=
    blotter_reads (p := .store 0 4 0x4000020000) (by decide +kernel) rfl rfl (ok_of (by decide +kernel))
  have hw (bs : List Byte) (hl : bs.length = 65536) : ∃ t, blocks.blotterWrite 1 bs = .ok t :=
    blotter_writes (p := .store 0 4 0x4000030000) (by decide +kernel) rfl rfl (ok_of (by decide +kernel)) hl
  have hb : (blocks.bytes 0x4000020000 65536).length = 65536 := by rw [State.bytes, List.length_map, List.length_range]
  refine ⟨?_, ?_, by decide +kernel⟩
  · have hg : blocks.blockGroup 0 = 0 := by decide +kernel
    obtain ⟨t, ht⟩ := hw (convertPage (blocks.blockFormat 0) 0 (blocks.bytes 0x4000020000 65536)) (converted_length _ _ hb)
    exact ⟨t, converted hr (by rw [hg]; exact ht)⟩
  · obtain ⟨t, ht⟩ := hw _ hb
    exact ⟨t, migrated hr ht⟩

/-- BlotterEvents: headers that may be read; requests to migrate a block, malformed or not, with a free block at the location and
without one; a copy on write and whether its entry still names the block; a deferred free. -/
theorem witness_migrations :
    let asks (v : Word) : State := { blocks with folio := { blocks.folio with request := some v, migrating := none, heads := [(3, 6)] } }
    let cow : Cow := { entry := 64, block := 0, fresh := 1, data := 0x4000020000, ident := blocks.blotterIdent }
    blocks.headerOk 0 = true ∧ blocks.headerOk 1 = true ∧ ({ blocks with sealed := true } : State).headerOk 0 = false ∧
      (asks 0x300005).folio.request = some 0x300005 ∧ (asks 0).folio.migrating = none ∧ 5 ≤ bits 0x500005 20 3 ∧
      bits 0x300005 20 3 = 3 ∧ bits 0x300005 0 20 = 5 ∧ onRub.folio.base = none ∧
      (asks 0).blockFree 5 = false ∧ (asks 0).blockBusy 5 = false ∧ (asks 0).blockPlace 5 ≠ 3 ∧
      (∃ b t, (asks 0).takeFree 3 = some (b, t)) ∧ ((asks 0).takeFree 2).isNone = true ∧
      { blocks.folio with cows := [cow] }.cows.find? (fun (c : Cow) => c.entry = 64) = some cow ∧
      leNat (blocks.plainBytes (blocks.keyOf 64) 4) = 0 ∧ 7 ∈ { blocks.folio with freeing := [7] }.freeing ∧ blocks.folio.cows = [] ∧
      blocks.folio.migrating = none ∧ blocks.headerOk 7 = true := by
  refine ⟨?_, ?_, ?_, rfl, rfl, ?_, ?_, ?_, rfl, ?_, ?_, ?_, made_pair ?_, ?_, rfl, ?_, ?_, rfl, rfl, ?_⟩
  all_goals decide +kernel

/-- BlotterEvents: the copy of a copy on write. -/
theorem witness_copy_on_write :
    ∃ t, blocks.copyBlock { entry := 64, block := 0, fresh := 1, data := 0x4000020000, ident := blocks.blotterIdent } = .ok t := by
  have hr := die_reads (s := blocks) (ident := blocks.blotterIdent) (pa := 0x4000020000) (n := 65536) (p := .store 0 4 0x4000020000) rfl rfl
    (ok_of (by decide +kernel))
  have hl : (blocks.bytes 0x4000020000 65536).length = 65536 := by rw [State.bytes, List.length_map, List.length_range]
  obtain ⟨u, hu⟩ := phys_writes (s := blocks) (ident := blocks.blotterIdent) (pa := blocks.blockData 1)
    (p := .store 0 4 0x4000030000) (bs := blocks.bytes 0x4000020000 65536) rfl rfl (by rw [hl]; exact ok_of (by decide +kernel))
  exact ⟨_, by unfold State.copyBlock; rw [hr, try_bind]; exact (congrArg (· >>= _) hu).trans rfl⟩

/-- BlotterEvents: the entry of a copy on write, read and written; a copy that is refused; headers and the service area free. -/
theorem witness_list_entry :
    let cow : Cow := { entry := 0x4000000040, block := 0, fresh := 1, data := 0x4000020000, ident := blocks.blotterIdent }
    blocks.physRead cow.ident .engine cow.entry 4 = .ok [0, 0, 0, 0] ∧ (blocks.physWrite cow.ident .engine cow.entry (leBytes 4 1)).isOk = true ∧
      stops (({ blocks with acl := State.reset.acl } : State).copyBlock cow) .access 0 = true ∧ blocks.headersFree = true ∧ blocks.serviceFree = true := by
  refine ⟨ok_of ?_, ?_, ?_, ?_, ?_⟩ <;> decide +kernel

/-! ## Events of the fabric and of the collective channels -/

/-- An arrival of 512 bytes for barrier 0 of core 0 of a node. -/
def arrival (node : Nat) : Arrival :=
  { handle := BitVec.ofNat 64 (node * 2 ^ 32 + node % 2 * 2 ^ 24), bytes := 512, forwarded := true, wake := false, stopped := false, task := none }

/-- A semaphore step that neither acquires nor releases. -/
def ord0 : SemOrder := { acq := false, rel := false, scope := 0 }

/-- A request of this tower to node 5 that has been sent once. -/
def request (answer : Option Answer) : Remote :=
  { node := 5, op := .sem 0 7 0 1 ord0, asker := .none, pc := 0, ident := 0, first := 0, last := 0, sends := 1, route := some 3
    answer := answer, path := false, know := Know.none, learnt := Know.none }

/-- FabricEvents: an arrival for another tower, for a disabled barrier, for an enabled one. -/
theorem witness_forwarded :
    let far : State := { onRub with arrivals := [(0, arrival 5)] }
    let near : State := { onRub with arrivals := [(0, arrival 0)] }
    SMap.find? 0 far.arrivals = some (arrival 5) ∧ (arrival 5).stopped = false ∧ far.arrivalSent 0 = false ∧
      handleNode (arrival 5).handle ≠ far.node ∧ handleNode (arrival 0).handle = near.node ∧
      (near.bar (handleCore (arrival 0).handle) (handleBar (arrival 0).handle)).target = 0 ∧
      ((near.setBar 0 0 { Barrier.reset with target := 8 }).bar (handleCore (arrival 0).handle) (handleBar (arrival 0).handle)).target ≠ 0 ∧
      (arrival 0).wake = false := by
  refine ⟨rfl, ?_, ?_, ?_, ?_, ?_, ?_, ?_⟩ <;> decide

/-- FabricEvents: a request that has been answered before, one that comes too late, one that is applied, one that is refused; responses
to a request that waits, to one that has its answer, and to none. -/
theorem witness_requests :
    let k : Kept := { node := 5, tag := 3, result := .ok 1, know := Know.none, since := 0 }
    let asked : State := { onRub with
                           fabIn := [.request 5 3 0 (.sem 0 7 0 1 ord0) Know.none 0 true, .request 5 4 0 (.wake 0) Know.none 0 false, .response 8 (.ok 0) Know.none] }
    asked.fabIn[0]? = some (.request 5 3 0 (.sem 0 7 0 1 ord0) Know.none 0 true) ∧
      { asked with kept := [k] }.kept.find? (fun k => k.node = 5 && k.tag = 3) = some k ∧
      asked.kept.find? (fun k => k.node = 5 && k.tag = 3) = none ∧ 0 + 1000000 < { asked with now := 20000000 }.tsc ∧
      (∃ p, (asked.takeMessage 1).answerRemote 5 (peerIdent 5) Know.none (.wake 0) = .ok p) ∧ (RemoteOp.wake 0).isWake = true ∧
      (∃ p, (asked.takeMessage 0).answerRemote 5 (peerIdent 5) Know.none (.sem 0 7 0 1 ord0) = .ok p) ∧ (RemoteOp.sem 0 7 0 1 ord0).isWake = false ∧
      asked.fabIn[2]? = some (.response 8 (.ok 0) Know.none) ∧ SMap.find? 8 asked.remotes = none ∧
      SMap.find? 8 { asked with remotes := [(8, request none)] }.remotes = some (request none) ∧ (request none).answer = none ∧
      (request (some (.ok 2))).answer = some (.ok 2) := by
  refine ⟨rfl, rfl, rfl, by decide, ⟨_, rfl⟩, rfl, ⟨_, rfl⟩, rfl, rfl, rfl, rfl, rfl, rfl⟩

/-- FabricEvents: a chunk of two elements from node 5, the last of which is written ahead of the other. -/
theorem witness_chunk_ahead :
    let es : List (Nat × Nat × Nat) := [(0, 8, 1), (8, 8, 2)]
    let s : State := { at_ onRub 0 1 1 with
                       acl := State.reset.acl.set AclEntry.empty 1 { right with w2 := 0 }
                       fabIn := [.request 5 3 (peerIdent 5) (.chunk es) Know.none 0 false] }
    s.fabIn[s.arg.x]? = some (.request 5 3 (peerIdent 5) (.chunk es) Know.none 0 false) ∧ s.requestBefore 0 5 3 = false ∧
      s.kept.find? (fun k => k.node = 5 && k.tag = 3) = none ∧ s.arg.y = 1 ∧ 1 < es.length ∧ es[s.arg.z]? = some (8, 8, 2) ∧
      (s.chunkWrite (peerIdent 5) es).isOk = true ∧ (s.chunkWrite (peerIdent 5) [(8, 8, 2)]).isOk = true := by
  refine ⟨rfl, ?_, rfl, rfl, ?_, rfl, ?_, ?_⟩ <;> decide +kernel

/-- FabricEvents: a request to be sent again, one that has failed; a tag whose time is over. -/
theorem witness_resending :
    let s : State := { onRub with now := 1000000, remotes := [(8, request none)] }
    let late : State := { s with now := 20000000, kept := [{ node := 5, tag := 3, result := .ok 1, know := Know.none, since := 0 }] }
    SMap.find? 8 s.remotes = some (request none) ∧ (request none).last + 100000 ≤ s.tsc ∧ (request none).sends < 8 ∧
      s.tsc < (request none).first + 800000 ∧ (request none).first + 800000 ≤ late.tsc ∧ { request none with route := none }.route = none ∧
      late.kept[0]? = some { node := 5, tag := 3, result := .ok 1, know := Know.none, since := 0 } ∧ 0 + 1000000 ≤ late.tsc := by
  refine ⟨rfl, ?_, ?_, ?_, ?_, ?_, rfl, ?_⟩ <;> decide

/-- A flit of zeros but for its sequence number and its CRC. -/
def flit (seq crc : Word) : Flit :=
  { port := 11, bytes := leBytes 8 (seq.toNat * 2 ^ 48) ++ List.replicate 240 0 ++ leBytes 8 crc.toNat }

/-- The CRC of zeros is 0. -/
theorem crc_zeros (n : Nat) : crc64 (List.replicate n 0) = 0 := by
  induction n with
  | zero => rfl
  | succ n ih =>
    have h : (List.range 8).foldl (fun (c : BitVec 64) _ => crcBit c) ((0 : BitVec 64) ^^^ (BitVec.setWidth 64 (0 : Byte) <<< (56 : Nat))) = 0 := by
      decide
    simp only [crc64, List.replicate_succ, List.foldl_cons, h] at ih ⊢
    exact ih

theorem crc_flit (seq : Word) (h : seq = 0) (crc : Word) : crc64 ((flit seq crc).bytes.take 248) = 0 := by
  subst h
  have : (flit 0 crc).bytes.take 248 = List.replicate 248 0 := by
    rw [flit, List.take_left' (by decide +kernel)]
    decide +kernel
  rw [this, crc_zeros]

/-- FabricEvents: a flit on a port that is down; one that is sound, in sequence and out of it; one that is not sound. -/
theorem witness_flits :
    let up : State := { onRub with fabric := { onRub.fabric with valid := true, up := 0x800 } }
    onRub.portUp 11 = false ∧ up.portUp 11 = true ∧ (up.link 11).failedOnce = false ∧ (up.link 11).expect = 0 ∧
      ((up.setLink 11 { up.link 11 with failedOnce := true }).link 11).failedOnce = true ∧
      ((up.setLink 11 { up.link 11 with expect := 1 }).link 11).expect = 1 ∧
      BitVec.ofNat 64 (leNat (((flit 0 0).bytes.drop 248).take 8)) = crc64 ((flit 0 0).bytes.take 248) ∧
      ¬BitVec.ofNat 64 (leNat (((flit 0 1).bytes.drop 248).take 8)) = crc64 ((flit 0 1).bytes.take 248) ∧
      BitVec.ofNat 16 (bits (leNat ((flit 0 0).bytes.take 8)) 48 16) = 0 := by
  rw [crc_flit 0 rfl, crc_flit 0 rfl]
  decide +kernel

/-- FlitEvents: a payload; a flit held behind another, that the other end has refused and has not. -/
theorem witness_flits_out :
    let l : Link := { onRub.link 3 with nextSeq := 2, held := [(0, []), (1, [])] }
    let up : State := { onRub with fabric := { onRub.fabric with valid := true, up := 8 } }
    (List.replicate 240 (0 : Byte)).length = 240 ∧ up.portUp 3 = true ∧ ((up.setLink 3 l).link 3).held = [(0, [])] ++ (1, []) :: [] ∧
      (∀ h ∈ ([(0, [])] : List (BitVec 16 × List Byte)), h.1 ≠ 1) ∧ ((up.setLink 3 l).link 3).refused ≠ some 1 ∧
      ((up.setLink 3 { l with refused := some 1 }).link 3).refused = some 1 := by decide +kernel

/-- FabricEvents: ports to train again and in training; exchanges of time; a synchrony that is lost. -/
theorem witness_ports_and_time :
    let f : Fabric := { Fabric.reset with valid := true, retrain := 1, training := 0x800, acting := true, synced := true }
    f.valid = true ∧ f.retrain.getLsbD 0 = true ∧ f.up.getLsbD 0 = false ∧ f.training.getLsbD 11 = true ∧ f.acting = true ∧
      { f with acting := false }.acting = false ∧ { f with acting := false }.synced = true ∧
      { onRub with fabIn := [.timing 0 4 true 1] }.fabIn[0]? = some (.timing 0 4 true 1) ∧ onRub.node ≤ 1 ∧
      f.timed + 1000000 ≤ { onRub with now := 20000000 }.tsc ∧ (at_ onRub 0 1 0).arg.y = 1 ∧
      onRub.clocks.timing < { onRub with now := 100000 }.tsc / 10000 ∧ (onRub.steer 0).fabric.synced = true ∧
      (onRub.steer 5).fabric.synced = true ∧ ({ onRub with fabric := f }.steer (-4)).fabric.synced = true := by
  refine ⟨rfl, ?_, ?_, ?_, rfl, rfl, rfl, rfl, ?_, ?_, rfl, ?_, ?_, ?_, ?_⟩ <;> decide

/-- An instance of BROADCAST on channel 3: 128 elements of .F32, from node 0. -/
def entry : Word := BitVec.ofNat 64 (2 ^ 63 + 3 * 2 ^ 60 + 13 * 2 ^ 55 + 128)

def collects (parts : List Nat) (data stopped : Bool) : Instance :=
  { k := 1, words := [entry, 0x4000000000, 0x4000000200, 0, 0, 0, 0, 0], parts := parts, data := data, stopped := stopped
    cause := .access, abandoned := false }

/-- A tower on which the instance goes on, node 0 having started with the entry. -/
def collecting (i : Instance) (e : Word) : State :=
  { at_ onRub 3 0 0 with
    acl := openLow.set AclEntry.empty 1281 { w0 := 0xF800000000000000#64, w1 := 0xFFFFFF0000#64, w2 := 0, w3 := 0 }, channels := [(3, { ended := 1, completed := 1, inst := some i })]
    starts := [{ channel := 3, k := 1, node := 0, entry := e, root := 0, parts := [0] }]
    shares := [{ channel := 3, k := 1, node := 0, parts := [0], bytes := List.replicate 512 0 }], fabIn := [.abandon 3 0, .abandon 3 1] }

/-- CollectiveEvents: an instance that is malformed; one whose participants agree, do not, or fall silent; its data phase and end; the
messages that abandon one. -/
theorem witness_collectives :
    let i := collects [0] false false
    let s := collecting i entry
    (s.channel 3).inst = some i ∧ i.stopped = false ∧ s.malformed i = false ∧ s.malformed { i with words := [] } = true ∧
      i.data = false ∧ s.allStarted 3 i = true ∧ (collecting i 0).agreed 3 i = false ∧ s.agreed 3 i = true ∧
      (∃ bs, s.ownShare i = .ok bs) ∧ { i with data := true }.data = true ∧ s.allShares 3 { i with data := true } = true ∧
      (∃ u, s.writeOutcome 3 { i with data := true } = .ok u) ∧
      { s with base := { s.base with excluded := [9] } }.stopCause 3 { i with parts := [0, 9] } = some (.groupSilent, 9) ∧
      s.fabIn[0]? = some (.abandon 3 0) ∧ s.fabIn[1]? = some (.abandon 3 1) ∧ 0 < (s.channel 3).ended ∧ (s.channel 3).ended ≤ 1 ∧
      i.k = 1 ∧ { i with stopped := true }.stopped = true ∧ s.serviceFree = true := by
  refine ⟨rfl, rfl, ?_, ?_, rfl, ?_, ?_, ?_, ok_some ?_, rfl, ?_, ok_some ?_, rfl, rfl, rfl, ?_, ?_, rfl, rfl, ?_⟩ <;> decide +kernel

/-! ## Events of the host, boot and the monitors -/

/-- A tower that boots no more, whose oldest host access is this. -/
def asked (m : HostMsg) : State :=
  { onRub with host := { onRub.host with inbox := [m], staging := false }, acl := State.reset.acl.set AclEntry.empty 1 { right with w2 := 0 } }

/-- HostEvents: reads and writes through BAR 2 that go through and that are refused; other reads. -/
theorem witness_bars :
    Claims.HostNext (asked (.bar2Read 0 8)) (.bar2Read 0 8) [] ∧ (∃ bs, (asked (.bar2Read 0 8)).bar2Read 0 8 = .ok bs) ∧
      (∃ c va, (asked (.bar4Read 0 8)).bar2Read 0x40000000 8 = .error (.trap c va)) ∧
      (∃ a, (asked (.bar4Read 0 8)).bar2 (0 % 2 ^ 40) 8 .read = .ok a) ∧
      (∃ va, (asked (.bar4Read 0 8)).bar2 (0x40000000 % 2 ^ 40) 8 .read = .error (.trap .access va)) ∧
      (∃ t, (Claims.hostTaken (asked (.bar2Write 0 [1])) []).bar2Write 0 [1] = .ok t) ∧
      (∃ c va, (Claims.hostTaken (asked (.bar2Write 0 [1])) []).bar2Write 0x40000000 [1] = .error (.trap c va)) ∧
      Claims.HostNext (asked (.bar0Read 0x41000 1)) (.bar0Read 0x41000 1) [] := by
  refine ⟨rfl, ok_some ?_, ⟨.access, 0, stop_of ?_⟩, ok_some ?_, ⟨0, stop_of ?_⟩, ok_some ?_, ⟨.access, 0, stop_of ?_⟩, rfl⟩ <;> decide +kernel

/-- HostEvents: a chunk's bytes out of order, a target that refuses them, one that takes no mode, bytes begun, and whole; a write that spans
two chunks, and a read of BAR 4 past what its level can hold. -/
theorem witness_wash_chunks :
    let half := List.replicate 256 (0 : Byte)
    let open_ : State := { asked (.bar4Write 0 0 half) with ctl := { Ctl.reset with washhost := 1 } }
    let on : State := { open_ with host := { open_.host with washing := [(0, some half)] } }
    open_.washGather 0 256 half = none ∧ open_.washGather 0 0 half = some half ∧ (∃ c va, onRub.washPlace 0 0 = .error (.trap c va)) ∧
      open_.washPlace 0 0 = .ok (some (0, 0)) ∧ half.length < 512 ∧ on.washGather 0 256 half = some (half ++ half) ∧
      (half ++ half).length = 512 ∧ on.washPlace 0 0 = .ok (some (0, 0)) ∧ on.washPlace 5 0 = .ok none ∧
      (∃ t, State.washWrites 0 (washParts 256 (half ++ half)) on = .ok t) ∧ (washParts 256 (half ++ half)).length = 2 ∧
      on.unbacked 0 8 = false ∧ (on.setLevel 0 { on.level 0 with banks := 0 }).unbacked 0 8 = true ∧
      (∃ a, on.bar2 0 8 .read = .ok a) := by
  refine ⟨?_, ?_, ⟨.access, 0, stop_of ?_⟩, ok_of ?_, ?_, ?_, ?_, ok_of ?_, ok_of ?_, ok_some ?_, ?_, ?_, ?_, ok_some ?_⟩ <;> decide +kernel

/-- HostEvents: mailboxes given and not; interrupts that may go; boot and attestation at each stage. -/
theorem witness_host_words :
    let h : HostSide := { onRub.host with msiPend := 1 <<< 64 }
    (0x11000 : BitVec 32).getLsbD 16 = true ∧ (onRub.mailbox 63).device = false ∧ bits (0x11000 : BitVec 32).toNat 0 13 = 4096 ∧
      4096 < bits (0x11001 : BitVec 32).toNat 0 13 ∧ (0x1000 : BitVec 32).getLsbD 16 = false ∧ 63 ∉ onRub.host.refused ∧
      ((onRub.setMailbox 63 { Mailbox.reset with device := true }).mailbox 63).device = true ∧
      h.linkUp = true ∧ h.funcMask = false ∧ h.msiPend.getLsbD 64 = true ∧ h.msiMask.getLsbD 64 = false ∧ onRub.host.bootStat = 0 ∧
      { h with bootStat := 1 }.bootStat = 1 ∧ { h with bootStat := 2 }.bootStat = 2 ∧ h.attGo.getLsbD 0 = false ∧
      { h with attGo := 1 }.attGo.getLsbD 0 = true := by
  decide +kernel

/-- An image in the staging area that is in form: 4 bytes of program. -/
def image : State := { onRub with host := { onRub.host with bootStat := 1 }, mem := [(0x180000000, 1), (0x180000008, 4)] }

/-- HostEvents: an image out of form gives result 5. One in form gives result 2, 3 or 4, as its key and its signature come out: the hash of
the chip's key is a value that the model leaves open. -/
theorem witness_images :
    { image with mem := [] }.imageBad = true ∧ { image with mem := [] }.verify = 5 ∧ (5 : BitVec 8) ≠ 2 ∧ image.imageBad = false ∧
      (image.verify = 2 ∨ image.verify = 3 ∨ image.verify = 4) := by
  have hb : { image with mem := [] }.imageBad = true := by decide +kernel
  have hi : image.imageBad = false := by decide +kernel
  refine ⟨hb, by simp only [State.verify, hb, if_true], by decide, hi, ?_⟩
  simp only [State.verify, hi, Bool.false_eq_true, if_false]
  generalize digest _ = d
  generalize dsaVerify _ _ _ = q
  by_cases hp : d = Config.bootKeyHash <;> cases q <;> simp [hp]

set_option maxRecDepth 20000 in
/-- FIPS 202: the first eight bytes of SHAKE256 of the empty string. -/
theorem test_shake256 : shake256 8 [] = [0x46, 0xB9, 0xDD, 0x2B, 0x0B, 0xA8, 0x8D, 0x13] := by decide +kernel

/-- MonitorEvents: a value to record; a sample of a task that has a stream, and of one that has none. -/
theorem witness_monitors :
    let m : Sampling := { buf := 0x1000, interval := 64, capacity := 4, written := 0, nextAt := 0 }
    let t : Task := { aT with sampling := some m }
    let none_ : Task := { t with sa := { t.sa with phase := .ended }, sx := { t.sx with phase := .ended }, sm := { t.sm with phase := .ended } }
    ((onRub.setMonitor 191 1 { Monitor.reset with pending := [9] }).monitor (383 / 2) (383 % 2)).pending = [9] ∧
      (onA t).task? 0 = some t ∧ t.sampling = some m ∧ t.run = .running ∧ t.isResident = true ∧ m.nextAt ≤ (onA t).cyc t.core ∧
      none_.sampled 0 = none ∧ t.sampled 0 = some .a ∧
      (∃ u, (onA t).viewWrite ((onA t).aEngine) 0x1000 ((onA t).sampleRecord 0 t .a) = .ok u) := by
  refine ⟨rfl, rfl, rfl, rfl, rfl, ?_, ?_, ?_, ok_some ?_⟩ <;> decide +kernel

/-! ## Steps, encodings, registers -/

/-- The machine after reset, about to run a word of the Rubricator, the A, the X or the M stream (opcode space `sp`). -/
def about (sp : Nat) (v : BitVec 96) : State := State.reset.withFetchWord 104 (sp * 2 ^ 96 + v.toNat)

/-- What the word's agent sees. -/
def begun (sp : Nat) (v : BitVec 96) : State :=
  match (about sp v).turn with
  | .word ag => (about sp v).begin ag
  | _ => about sp v

/-- StepRunsDecodedWord: words that run, words that do not decode, for each agent; where the Rubricator's lie; other turns. -/
theorem witness_steps :
    let li : BitVec 96 := 0x03000C400000000000000064
    (∃ ag, (about 0 li).turn = .word ag ∧ ag.space = .rub) ∧ (begun 0 li).mayRun (begun 0 li).cur = true ∧ (begun 0 li).grantHeld .rub = false ∧
      (begun 0 li).fetchWord.toOption.map bytesWord = some li ∧ (decode .rub li).isOk = true ∧
      (begun 1 0x700000000000000000000000).fetchWord.isOk = true ∧
      (begun 1 0x700000000000000000000000).mayRun (begun 1 0x700000000000000000000000).cur = true ∧
      (begun 2 0).fetchWord.toOption.map bytesWord = some 0 ∧ (begun 2 0).mayRun (begun 2 0).cur = true ∧
      (decode .m 0).isOk = false ∧ (about 3 0).turn.proper = true ∧ State.reset.turn = .idle ∧
      (begun 0 li).place (4 * (begun 0 li).rub.pc.toNat) = .store 0 0 0 ∧ (begun 0 li).washed = [] ∧
      (begun 0 li).physCheck (rubIdent 0) .engine .fetch 0 12 = .ok (.store 0 0 0) ∧ (about 3 0).turn ≠ .idle := by
  refine ⟨⟨.rub, ?_, rfl⟩, ?_, ?_, ?_, ?_, ?_, ?_, ?_, ?_, ?_, ?_, rfl, ?_, ?_, ok_of ?_, ?_⟩ <;> decide +kernel

/-- StepRunsDecodedWord: a task whose region has ended waits for its grant. -/
theorem witness_grant_held :
    let t : Task := { aT with region := some { region with expired := true } }
    (onA t).mayRun (.task 0 .a) = true ∧ (onA t).grantHeld (.task 0 .a) = true ∧ (onA t).grantHeld (.task 0 .x) = false := by
  decide +kernel

/-- StepKeepsInv, StepGoesOn: a state with a word, one with a step that is no word, one with nothing chosen. -/
theorem witness_turns :
    Claims.Inv (about 0 0x03000C400000000000000064) ∧ Claims.Inv (about 3 0) ∧ Claims.Inv State.reset ∧
      (∃ t, step (about 0 0x03000C400000000000000064) = .next t) ∧ (∃ t, step State.reset = .next t) := by
  refine ⟨⟨?_, ?_⟩, ⟨?_, ?_⟩, ⟨?_, ?_⟩, ⟨_, rfl⟩, ⟨_, rfl⟩⟩ <;> decide +kernel

/-- EncodeThenDecode, DecodeThenEncode: a word of every opcode space; opcodes assigned and not. -/
theorem witness_encodings :
    (Instr.addi i0).space = some .a ∧ (Instr.addi i0).wf = true ∧ (Instr.mclr k0).space = some .m ∧ (Instr.mclr k0).wf = true ∧
      (Instr.loop { k := 0, fn := 0, lc := 0, csrc := 0, q := 0, count := 1, off := 3 }).space = some .x ∧
      (Instr.loop { k := 0, fn := 0, lc := 0, csrc := 0, q := 0, count := 1, off := 3 }).wf = true ∧
      Claims.assigned .a 0x81 ∧ ¬Claims.assigned .a 0x82 ∧ Claims.assigned .x 0x91 ∧ ¬Claims.assigned .x 0x92 ∧ ¬Claims.assigned .x 0 ∧
      Claims.assigned .m 0x12 ∧ ¬Claims.assigned .m 0x13 := by
  refine ⟨rfl, by decide, rfl, by decide, rfl, by decide, ?_, ?_, ?_, ?_, ?_, ?_, ?_⟩ <;> simp [Claims.assigned]

/-- RegisterFile: a task's registers and the Rubricator's; `a0` and the last one. -/
theorem witness_register_file :
    onRub.acts .a = true ∧ (onA aT).acts .a = true ∧ (onA aT).cur = .task 0 .a ∧ (onA aT).task? 0 = some aT ∧ onRub.cur = .rub ∧
      ((onA aT).setReg 63 5).reg 63 = 5 ∧ ((onA aT).setReg 0 5).reg 0 = 0 := by
  refine ⟨rfl, rfl, rfl, rfl, rfl, ?_, ?_⟩ <;> decide

/-- MemoryBytes: a lag that is well-formed, and the byte it holds back. -/
theorem witness_lags :
    (∀ g ∈ lagging.order.lags, Claims.LagOk g) ∧
      (∃ g, lagging.order.lags.find? (fun g => decide (g.who = .stream 0) && decide (g.key = 1)) = some g ∧ Claims.LagOk g) ∧
      (∀ g ∈ lagging.order.lags, g.who = .stream 1 → g.key ≠ 1) ∧ 4 ∈ [1, 2, 4, 8] ∧ 4 % 4 = 0 := by
  have h : Claims.LagOk (Lag.mk (.stream 0) 1 (List.replicate 8 0) [Later.mk 0 (List.replicate 8 9) 0 8 none] (List.replicate 8 0)) :=
    ⟨rfl, rfl, by decide, by decide⟩
  exact ⟨fun g hg => (List.mem_singleton.mp hg) ▸ h, ⟨_, rfl, h⟩, by decide, by decide, rfl⟩

/-- MemoryBytes: three bytes at the end of a tower's offsets; the byte before them. -/
theorem witness_memory_bytes :
    ¬Claims.within (2 ^ 40 - 4) (2 ^ 40 - 3) 3 ∧ Claims.within (2 ^ 40 - 3) (2 ^ 40 - 3) 3 ∧ ¬Claims.within (2 ^ 40) (2 ^ 40 - 3) 3 ∧
      onRub.memoryOk := by
  refine ⟨?_, ?_, ?_, rfl⟩ <;> simp [Claims.within]

theorem rub_trap_stops (s : State) (h : s.cur = .rub) (ht : s.rub.tvec = 0) (c : Cause) (va : Nat) :
    (s.takeTrap c va).rub.halted = true := by
  simp [State.takeTrap, h, State.trapRub, Rub.returnLoads, ht]

/-- RegisterWordFrame: a word that goes through, on the Rubricator and in a task. -/
theorem witness_register_words :
    Claims.registerDest (.addi { i0 with d := 1, imm := 5 }) = some 1 ∧
      (∃ t, exec (.addi { i0 with d := 1, imm := 5 }) onRub = .next t ∧ (∀ c va, t ≠ onRub.takeTrap c va) ∧
        ∀ v c va, t ≠ (onRub.setReg 1 v).takeTrap c va) ∧
      (∃ t, exec (.addi { i0 with d := 1, imm := 5 }) (onA aT) = .next t) := by
  refine ⟨rfl, ⟨_, rfl, ?_, ?_⟩, ⟨_, rfl⟩⟩
  · intro c va h
    have := congrArg (fun (s : State) => s.rub.halted) h
    rw [rub_trap_stops onRub rfl rfl] at this
    exact absurd this (by decide)
  · intro v c va h
    have := congrArg (fun (s : State) => s.rub.halted) h
    rw [rub_trap_stops _ rfl rfl] at this
    exact absurd this (by decide)

/-- HeaderChecks: each of the five conditions, alone. -/
theorem witness_headers :
    let bad (h : Word) : Bool :=
      decide (h.extractLsb' 60 4 ≠ 9#4) || decide (h.extractLsb' 48 12 = 0#12) || decide (h.extractLsb' 0 13 ≠ 0#13) ||
        (decide (h.getLsbD 15 = false) && decide (h.extractLsb' 32 16 ≠ 0#16)) ||
        (decide (h.getLsbD 14 = false) && decide (h.extractLsb' 16 16 ≠ 0#16))
    let v : StreamSt := { aT.sa with phase := .header }
    let t : Task := { aT with sa := v }
    bad 0x8001000000000000 = true ∧ bad 0x9000000000000000 = true ∧ bad 0x9001000000001000 = true ∧ bad 0x9001000100000000 = true ∧
      bad 0x9001000000010000 = true ∧ bad 0x9FFFFFFFFFFFE000 = false ∧ t.live = true ∧ v.phase = .header ∧ v.stopped = false ∧
      v.left.length < 16 ∧ t.handler = none ∧
      (atHeader v [(14, 1), (15, 0x80)]).fetch 0 0 0 0 v.pc 8 = .ok [0, 0, 0, 0, 0, 0, 1, 0x80] := by
  refine ⟨?_, ?_, ?_, ?_, ?_, ?_, rfl, rfl, rfl, ?_, rfl, ok_of ?_⟩ <;> decide +kernel

/-- NoOperation: a word inside its span, the last of one, and one of the Rubricator. -/
theorem witness_nop :
    let last : StreamSt := { aT.sa with pc := 5 }
    Claims.Reads (onA aT) [] ∧ aT.handler = none ∧ aT.sa.pc + 3 ≠ aT.sa.hdr + BitVec.ofNat 50 (2 + 3 * aT.sa.len) ∧
      last.pc + 3 = last.hdr + BitVec.ofNat 50 (2 + 3 * last.len) ∧ Claims.Reads (onA { aT with sa := last }) [] ∧
      Claims.Reads onRub [] ∧ onRub.cur = .rub := by
  refine ⟨reads_task _ _ rfl, rfl, ?_, ?_, reads_task _ _ rfl, reads_rub _, rfl⟩ <;> decide

/-- ShiftCounts, ClassMasks, ScaleRegisters, AddressSplit: operands in range, at the ends of it. -/
theorem witness_ranges :
    (7 : BitVec 4).toNat < 8 ∧ typeBits 6 = 32 ∧ intMin 32 (typeSigned 6) ≤ -2 ^ 31 ∧ 2 ^ 31 - 1 ≤ intMax 32 (typeSigned 6) ∧ (0 : Int) ≤ 31 ∧ (31 : Int) < 32 ∧
      ¬(0 ≤ (32 : Int) ∧ (32 : Int) < 32) ∧ ¬(0 ≤ (-1 : Int) ∧ (-1 : Int) < 32) ∧
      (8 ≤ 13 ∧ (0xFF800000 : Nat) < 2 ^ typeBits 13) ∧ (0xF < 2 ^ typeBits 8 ∧ 0x7F < 2 ^ typeBits 9) ∧ (15 : Nat) < 16 ∧
      (0 : Nat) < 2 ^ 52 ∧ 2 ^ 52 - 1 < 2 ^ 52 ∧ ptIndex 3 (2 ^ 52 - 1) = 8191 ∧ ptIndex 0 (2 ^ 52 - 1) = 31 := by decide

/-- R208: class masks of .F32: minus infinity, minus one, minus zero, a subnormal number, one, a quiet NaN and a signalling one. -/
theorem test_class_masks :
    [0xFF800000, 0xBF800000, 0x80000000, 1, 0x3F800000, 0x7FC00000, 0x7F800001].map (classMask (fmtOf 13)) =
      [1, 2, 8, 32, 64, 512, 256] := by decide

end Sys2Proof.Tests
end

section
/-! PROOFS. The frame of a word of the X stream (R193, R196), proved once for all of them, and the scale registers of R32. -/

namespace Sys2Proof.Proofs

open Sys2Proof Sys2Proof.Machine Sys2Proof.Claims

/-! ## What `State.xOp` answers -/

/-- The sources' vectors as the word's function sees them: the modifier has moved the lanes of the first. -/
def modifyFirst (md : BitVec 12) : List (List Lanes) → List (List Lanes)
  | (v :: vs) :: rest => (applyMod md v :: vs) :: rest
  | vs => vs

/-- The effect that marks the slices of dead sources, when there are any (R23). -/
def deadMarks (t : Task) (mask : Pred) (p : Nat) : List Nat → List Effect
  | [] => []
  | ss => [t.effect (.dead ss) mask (p + 1) 0]

section XFrame

variable {s : State} {id : Nat} {t0 : Task} {q : XReq} {own : Task → Try Unit} {g : XIn → XRes}

/-- An X word waits while a head it names is on its way (R28). -/
theorem xOp_of_headsWait (h : OnX s id t0) (hk : q.k ≠ 8) (hw : t0.settleRotation.headsWait (q.srcs.map (·.f)) = true) :
    s.xOp q own g = .next s.held := by
  unfold State.xOp
  rw [State.xWord_next s _ h.cur h.there h.landed]
  simp only [hk, decide_false, hw, Bool.not_true, Bool.or_false, await_false, Try.error_bind, State.finish]

/-- The gate of an X word is open: the predicate names no lane, or no head it names is on its way. -/
theorem never_or_not_headsWait {k : BitVec 4} {b : Bool} (h : k ≠ 8 → b = false) : (decide (k = 8) || !b) = true := by
  by_cases hk : k = 8
  · simp [hk]
  · simp [h hk]

/-- The first check that fails ends an X word: of the sources, then of the destinations, then its own (R196). -/
theorem xOp_of_check_error {e : Stop} (h : OnX s id t0)
    (hw : q.k ≠ 8 → t0.settleRotation.headsWait (q.srcs.map (·.f)) = false)
    (he : t0.settleRotation.resolveAll (decide (q.k = 8)) q.srcs [] = .error e ∨
      ∃ rs, t0.settleRotation.resolveAll (decide (q.k = 8)) q.srcs [] = .ok rs ∧
        (t0.settleRotation.resolveDsts q.dsts = .error e ∨
          ∃ ds, t0.settleRotation.resolveDsts q.dsts = .ok ds ∧ own t0.settleRotation = .error e)) :
    s.xOp q own g = .next (s.finish (.error e)) := by
  unfold State.xOp
  rw [State.xWord_next s _ h.cur h.there h.landed]
  simp only [never_or_not_headsWait hw, await_true, Try.ok_bind]
  obtain hr | ⟨rs, hr, hd | ⟨ds, hd, ho⟩⟩ := he
  · simp only [hr, Try.error_bind]
  · simp only [hr, hd, Try.ok_bind, Try.error_bind]
  · simp only [hr, hd, ho, Try.ok_bind, Try.error_bind]

/-- An X word whose predicate names no lane only occupies the engine (R196). -/
theorem xOp_of_never {rs : List Opd} {ds : List (List (List Nat))} (h : OnX s id t0) (hk : q.k = 8)
    (hr : t0.settleRotation.resolveAll (decide (q.k = 8)) q.srcs [] = .ok rs)
    (hd : t0.settleRotation.resolveDsts q.dsts = .ok ds) (ho : own t0.settleRotation = .ok ()) :
    s.xOp q own g = .next (s.occupy id t0.settleRotation (q.interval (widthUsed q) + crossCycles rs ds)) := by
  unfold State.xOp
  rw [State.xWord_next s _ h.cur h.there h.landed]
  simp only [hk, decide_true] at hr
  simp only [hk, decide_true, Bool.true_or, await_true, hr, hd, ho, Try.ok_bind, if_true]
  rfl

/-- An X word that passes its checks reads its sources, and its results land after its latency (R193, R196). -/
theorem xOp_of_reads {rs : List Opd} {ds : List (List (List Nat))} {vals : List (List Lanes)} {after : Task}
    (h : OnX s id t0) (hk : q.k ≠ 8) (hw : t0.settleRotation.headsWait (q.srcs.map (·.f)) = false)
    (hr : t0.settleRotation.resolveAll (decide (q.k = 8)) q.srcs [] = .ok rs)
    (hd : t0.settleRotation.resolveDsts q.dsts = .ok ds) (ho : own t0.settleRotation = .ok ())
    (hv : t0.settleRotation.readAll (q.srcs.zip rs) = (vals, after)) :
    let t := t0.settleRotation
    let p := s.cyc t0.core
    let mask := t.activeMask q.k
    let r := g (XIn.mk t mask (maskBits mask) (modifyFirst q.md vals) ds)
    let due := p + (q.latency + crossCycles rs ds + if q.md = 0 then 0 else 1)
    s.xOp q own g = .next (s.occupy id
      { after with
        effects := after.effects ++ deadMarks t mask p (deadSlices (q.srcs.zip rs)) ++ t.effectsOf due r.flags r.outs }
      (q.interval (widthUsed q) + crossCycles rs ds)) := by
  unfold State.xOp
  rw [State.xWord_next s _ h.cur h.there h.landed]
  simp only [hk, decide_false] at hr
  simp only [hk, decide_false, hw, Bool.not_false, Bool.or_true, await_true, hr, hd, ho, hv, Try.ok_bind,
    Bool.false_eq_true, if_false]
  cases deadSlices (q.srcs.zip rs) <;> rfl

end XFrame

/-- A word whose meaning is the frame of an X word does what the frame says. -/
theorem xDoes_of_exec_eq_xOp {i : Instr} {q : XReq} {own : State → Task → Try Unit} {g : XIn → XRes}
    (hi : ∀ s, exec i s = s.xOp q (own s) g) : XDoes i q own g := by
  intro s id t0 h
  refine ⟨fun hk hw => ?_, fun e hw he => ?_, fun rs ds hw hr hd ho => ⟨fun hk => ?_, fun hk vals after hv => ?_⟩⟩
  · exact (hi s).trans (xOp_of_headsWait h hk hw)
  · exact (hi s).trans (xOp_of_check_error h hw he)
  · exact (hi s).trans (xOp_of_never h hk hr hd ho)
  · exact (hi s).trans (xOp_of_reads h hk (hw hk) hr hd ho hv)

/-! ## Scale registers (R32, R217, R223) -/

/-- The meaning that the dispatch gives an EGET word. -/
theorem exec_eget (w : XI) (s : State) : exec (.eget w) s = execEget w s := rfl

/-- EGET makes a vector whose lane `l` is value `l / 32` of its scale register (R223). -/
theorem eget_makes (w : XI) :
    XMake .eget w (decide (w.sat = 1)) 5
      (fun x => ((List.range 512).map (fun l => (x.t.scaleValue (w.a.toNat % 64) (l / 32) : Nat)), 0)) :=
  xDoes_of_exec_eq_xOp (exec_eget w)

/-- Value `j` of a scale register is the byte at bit 8j (R32). -/
theorem scaleValue_eq_extractLsb' (t : Task) (e j : Nat) :
    t.scaleValue e j = ((t.scales.get scaleStart e).extractLsb' (8 * j) 8).toNat := by
  rw [BitVec.extractLsb'_toNat, Nat.shiftRight_eq_div_pow]
  rfl

/-- Each of the sixteen bytes of a scale register at task start is 0x7F (R32). -/
theorem scaleStart_byte : ∀ j < 16, bits scaleStart.toNat (8 * j) 8 = 0x7F := by decide

/-- A new task has written no scale register. -/
@[simp] theorem start_scales (img : List Word) (entry arming core rank : Nat) :
    (Task.start img entry arming core rank).scales = [] := rfl

/-- A scale register that was never written holds its start value. -/
theorem scaleValue_of_unwritten {t : Task} (h : t.scales = []) (e : Nat) {j : Nat} (hj : j < 16) : t.scaleValue e j = 0x7F := by
  have hget : t.scales.get scaleStart e = scaleStart := by rw [h]; rfl
  rw [Task.scaleValue, hget]
  exact scaleStart_byte j hj

/-- A finite value under the scale code `c` is scaled by 2^(c − 127) (R65). -/
theorem mxValue_fin {c : Nat} (h : c ≠ 0xFF) (x : Exact) : mxValue (.fin x) c = .fin (x.shift ((c : Int) - 127)) := by
  simp [mxValue, h]

/-- Settles O59: a value is its byte, EGET shows value `l / 32` to lane `l` by the frame of every X word, and a new task has
written no scale register. -/
theorem scaleRegisters : Obligations.ScaleRegisters := by
  unfold Obligations.ScaleRegisters
  refine ⟨fun t e j _ => ?_, fun w => ?_, fun img entry arming core rank e j hj => ?_, ?_⟩
  · exact scaleValue_eq_extractLsb' t e j
  · exact eget_makes w
  · exact scaleValue_of_unwritten (start_scales img entry arming core rank) e hj
  · exact mxValue_fin (by decide) _

end Sys2Proof.Proofs
end

section
/-! PROOFS. Codes of element formats without infinity and NaN (R53), and of E8M0 scales (R55). -/

namespace Sys2Proof.Proofs

open Sys2Proof Sys2Proof.Machine Sys2Proof.Claims

/-! ## Formats whose codes are all finite (R53) -/

/-- The number a code stands for when its format has no infinity and no NaN: exponent field 0 is read as 1 without the leading
one. -/
def finiteExact (f : Fmt) (code : Nat) : Exact :=
  let e := code / 2 ^ f.mb % 2 ^ f.eb
  { neg := decide (code / 2 ^ (f.eb + f.mb) % 2 = 1)
    mag := (if e = 0 then 0 else 2 ^ f.mb) + code % 2 ^ f.mb
    exp := (max e 1 : Nat) - (f.bias : Int) - f.mb
    more := false }

/-- In a format without infinity and NaN every code is a finite number. -/
theorem value_eq_finiteExact {f : Fmt} (hinf : f.inf = false) (hnan : f.nan = false) (code : Nat) :
    f.value code = .fin (finiteExact f code) := by
  by_cases he : code / 2 ^ f.mb % 2 ^ f.eb = 0
  · simp [Fmt.value, finiteExact, hinf, hnan, he]
  · have hmax : max (code / 2 ^ f.mb % 2 ^ f.eb) 1 = code / 2 ^ f.mb % 2 ^ f.eb :=
      Nat.max_eq_left (Nat.one_le_iff_ne_zero.mpr he)
    simp only [Fmt.value, finiteExact, hinf, hnan, he, hmax, Bool.false_and, Bool.and_false, Bool.false_eq_true, if_false]

/-- Bit 3 of an E2M1 code is its sign. -/
theorem finiteExact_fF4_neg {code : Nat} (h : code < 16) : (finiteExact fF4 code).neg = decide (8 ≤ code) :=
  decide_eq_decide.mpr (show code / 8 % 2 = 1 ↔ 8 ≤ code by omega)

/-- E2M1 has no unit smaller than a half. -/
theorem neg_one_le_finiteExact_fF4_exp (code : Nat) : -1 ≤ (finiteExact fF4 code).exp := by
  have hfield : 1 ≤ max (code / 2 ^ fF4.mb % 2 ^ fF4.eb) 1 := Nat.le_max_right _ _
  simp only [finiteExact, fF4] at hfield ⊢
  omega

/-- Twice the magnitude of each E2M1 code, as Table 2.5 lists it. -/
theorem finiteExact_fF4_magnitude : ∀ code < 16,
    (finiteExact fF4 code).mag * 2 ^ ((finiteExact fF4 code).exp + 1).toNat =
      [0, 1, 2, 3, 4, 6, 8, 12].getD (code % 8) 0 := by decide

/-- E2M1 takes the values of Table 2.5. -/
theorem elementValues : ElementValues := fun code h =>
  ⟨finiteExact fF4 code, value_eq_finiteExact rfl rfl code, rfl, finiteExact_fF4_neg h,
    neg_one_le_finiteExact_fF4_exp code, finiteExact_fF4_magnitude code h⟩

/-! ## E8M0 codes and EncodeScale (R55) -/

/-- The scale code 0xFF makes NaN of every finite value. -/
theorem mxValue_fin_nanScale (x : Exact) : mxValue (.fin x) 0xFF = .nan false := rfl

/-- One under the scale code `c` is 2^(c − 127). -/
theorem mxValue_one {c : Nat} (h : c ≠ 0xFF) :
    mxValue (.fin { neg := false, mag := 1, exp := 0, more := false }) c =
      .fin { neg := false, mag := 1, exp := (c : Int) - 127, more := false } := by
  rw [mxValue_fin h, Exact.shift, Int.zero_add]

/-- EncodeScale clamps an exponent below the range without a flag. -/
theorem encodeScale_below {j : Int} (h : j < -127) : encodeScale j = (0, 0) := if_pos h

/-- EncodeScale clamps an exponent above the range and sets SAT. -/
theorem encodeScale_above {j : Int} (h : 127 < j) : encodeScale j = (0xFE, flagSAT) := by
  rw [encodeScale, if_neg (by omega), if_pos h]

/-- Inside the range EncodeScale adds the bias. -/
theorem encodeScale_inside {j : Int} (hl : -127 ≤ j) (hh : j ≤ 127) : encodeScale j = ((j + 127).toNat, 0) := by
  rw [encodeScale, if_neg (by omega), if_neg (by omega)]

/-- E8M0 codes are powers of two and one NaN, and EncodeScale makes them. -/
theorem scaleCodes : ScaleCodes := by
  refine ⟨fun k hk => ?_, ?_, fun j hj => ?_, fun j hj => ?_, fun j hl hh => ?_⟩
  · exact mxValue_one (by omega)
  · exact mxValue_fin_nanScale _
  · exact encodeScale_below hj
  · exact encodeScale_above hj
  · rw [encodeScale_inside hl hh]
    exact ⟨Int.toNat_of_nonneg (by omega), rfl⟩

/-- Settles O53: every E2M1 code is finite and has the value of Table 2.5, and EncodeScale clamps to the E8M0 codes as R55 says. -/
theorem elementAndScaleCodes : Obligations.ElementAndScaleCodes := ⟨elementValues, scaleCodes⟩

end Sys2Proof.Proofs
end

section
/-! PROOFS. A header that breaks R79 traps its task with SECTION_FORMAT at its first parcel (R79, R350). -/

namespace Sys2Proof.Proofs

open Sys2Proof Sys2Proof.Machine

/-! ## The fields of a header (Table 3.1) -/

/-- A field that lies inside a word is the field of the number the word was made from. -/
theorem toNat_extractLsb'_ofNat {w lo n : Nat} (x : Nat) (h : lo + n ≤ w) :
    ((BitVec.ofNat w x).extractLsb' lo n).toNat = bits x lo n := by
  have hw : 2 ^ w = 2 ^ lo * 2 ^ (w - lo) := by
    rw [← Nat.pow_add, Nat.add_sub_cancel' (show lo ≤ w by omega)]
  rw [BitVec.extractLsb'_toNat, BitVec.toNat_ofNat, Nat.shiftRight_eq_div_pow, hw, Nat.mod_mul_right_div_self,
    Nat.mod_mod_of_dvd _ (Nat.pow_dvd_pow 2 (by omega)), bits]

/-- A field that lies inside a word is a constant exactly when its number is. -/
theorem extractLsb'_ofNat_eq_iff {w lo n : Nat} (x : Nat) (c : BitVec n) (h : lo + n ≤ w) :
    (BitVec.ofNat w x).extractLsb' lo n = c ↔ bits x lo n = c.toNat := by
  rw [← BitVec.toNat_inj, toNat_extractLsb'_ofNat x h]

/-- A bit of a word is clear exactly when its one-bit field is 0. -/
theorem getLsbD_ofNat_eq_false_iff {w i : Nat} (x : Nat) (h : i < w) :
    (BitVec.ofNat w x).getLsbD i = false ↔ bits x i 1 = 0 := by
  rw [BitVec.getLsbD_ofNat, Nat.testBit_eq_decide_div_mod_eq, decide_eq_true h, Bool.true_and, decide_eq_false_iff_not]
  exact Nat.mod_two_ne_one

/-- The five conditions of R79 on the fields of Table 3.1 are those that the model tests. -/
theorem headerBad_iff (x : Nat) :
    let h := BitVec.ofNat 64 x
    headerBad x = true ↔
      h.extractLsb' 60 4 ≠ 9#4 ∨ h.extractLsb' 48 12 = 0#12 ∨ h.extractLsb' 0 13 ≠ 0#13 ∨
        (h.getLsbD 15 = false ∧ h.extractLsb' 32 16 ≠ 0#16) ∨ (h.getLsbD 14 = false ∧ h.extractLsb' 16 16 ≠ 0#16) := by
  have hkind := not_congr (extractLsb'_ofNat_eq_iff x 9#4 (show 60 + 4 ≤ 64 by decide))
  have hlength := extractLsb'_ofNat_eq_iff x 0#12 (show 48 + 12 ≤ 64 by decide)
  have hreserved := not_congr (extractLsb'_ofNat_eq_iff x 0#13 (show 0 + 13 ≤ 64 by decide))
  have hwait1 := not_congr (extractLsb'_ofNat_eq_iff x 0#16 (show 32 + 16 ≤ 64 by decide))
  have hwait2 := not_congr (extractLsb'_ofNat_eq_iff x 0#16 (show 16 + 16 ≤ 64 by decide))
  have hv1 := getLsbD_ofNat_eq_false_iff x (show 15 < 64 by decide)
  have hv2 := getLsbD_ofNat_eq_false_iff x (show 14 < 64 by decide)
  simp only [headerBad, Bool.or_eq_true, Bool.and_eq_true, decide_eq_true_eq, or_assoc]
  exact or_congr hkind.symm (or_congr hlength.symm (or_congr hreserved.symm
    (or_congr (and_congr hv1.symm hwait1.symm) (and_congr hv2.symm hwait2.symm))))

/-! ## A task that a trap parks on a record (R350, R355) -/

section Parked

variable (t : Task) (c : Cause) (st : Stream) (pc : Parcel) (now : Nat)

/-- Each stream of the task only stops where it is. -/
theorem stream_parkOnRecord (y : Stream) : (t.parkOnRecord c st pc now).stream y = { t.stream y with stopped := true } := by
  unfold Task.parkOnRecord
  split <;> cases y <;> rfl

/-- No slice is written. -/
@[simp] theorem parkOnRecord_slices : (t.parkOnRecord c st pc now).slices = t.slices := by
  unfold Task.parkOnRecord
  split <;> rfl

/-- No predicate register is written. -/
@[simp] theorem parkOnRecord_preds : (t.parkOnRecord c st pc now).preds = t.preds := by
  unfold Task.parkOnRecord
  split <;> rfl

variable {t}

/-- Outside a handler the trap CSRs take the trap. -/
theorem parkOnRecord_csr_of_no_handler (h : t.handler = none) : (t.parkOnRecord c st pc now).csr = t.csr.trapped c st pc := by
  have hout : ¬t.inHandler = true := by simp [Task.inHandler, h]
  rw [Task.parkOnRecord, if_neg hout]
  rfl

end Parked

/-- No in-task handler takes SECTION_FORMAT (R355). -/
theorem not_takesInside_sectionFormat (t : Task) : t.takesInside .sectionFormat = false := rfl

/-! ## HEADER_ENTRY (R79) -/

/-- A stream that may enter its header, and whose header breaks R79, traps with SECTION_FORMAT at the header. -/
theorem exec_headerEntry_of_headerBad {s : State} {t : Task} {st : Stream} {bs : List Byte} (hst : streamOf s.arg.y = st)
    (ht : s.task? s.arg.x = some t) (hlive : t.live = true) (hphase : (t.stream st).phase = .header)
    (hgo : (t.stream st).stopped = false) (hroom : (t.stream st).left.length < 16)
    (hturn : st ≠ .x ∨ t.xNext ≤ s.cyc t.core)
    (hfetch : s.fetch s.arg.x t.core t.asid st.code (t.stream st).pc 8 = .ok bs) (hbad : headerBad (leNat bs) = true) :
    exec .headerEntry s = .next (s.trapTask s.arg.x st .sectionFormat (t.stream st).pc 0 0) := by
  have hturn' : (decide (st ≠ .x) || decide (t.xNext ≤ s.cyc t.core)) = true := by
    simpa only [Bool.or_eq_true, decide_eq_true_eq] using hturn
  change execHeaderEntry s = _
  simp only [execHeaderEntry, State.event, State.argTask, ht, need_some, Try.ok_bind, hst, hlive, hphase, hgo, hroom, hturn', hfetch,
    hbad, decide_true, Bool.not_false, Bool.and_self, await_true, if_true, State.eventEnd]

/-- Settles O54: the five conditions are the model's test, HEADER_ENTRY then takes the trap, and SECTION_FORMAT, which no handler
takes, only parks the task on its record. -/
theorem headerChecks : Obligations.HeaderChecks := by
  intro s t bs ht st v hlive hphase hgo hroom hturn hfetch h hconds
  have hbad : headerBad (leNat bs) = true := (headerBad_iff (leNat bs)).mpr hconds
  have hexec := exec_headerEntry_of_headerBad rfl ht hlive hphase hgo hroom hturn hfetch hbad
  rw [State.trapTask_record s _ st t _ v.pc 0 0 ht (not_takesInside_sectionFormat t)] at hexec
  have hstream := stream_parkOnRecord t .sectionFormat st v.pc (s.cyc t.core) st
  refine ⟨_, s.taskRecord s.arg.x t st .sectionFormat v.pc 0 0, t.parkOnRecord .sectionFormat st v.pc (s.cyc t.core),
    hexec, rfl, rfl, rfl, rfl, SMap.find?_put_self _ _ _, fun hnone => ?_, ?_, ?_, ?_, ?_, ?_, rfl⟩
  · rw [parkOnRecord_csr_of_no_handler _ _ _ _ hnone]
    exact ⟨rfl, rfl⟩
  · rw [hstream]
  · rw [hstream]
  · rw [hstream]
    exact hphase
  · rw [parkOnRecord_slices]
  · rw [parkOnRecord_preds]

end Sys2Proof.Proofs
end

section
/-! PROOFS. ADDS and NOP of the A stream (R125, R133): what a word that writes one register, sets flags and goes on leaves of the
machine. -/

namespace Sys2Proof.Proofs

open Sys2Proof Sys2Proof.Machine Sys2Proof.Claims

/-! ## Who runs, and a change to a task that exists -/

/-- A word of the A stream is the Rubricator's, or of a task that exists. -/
theorem acts_a_cases {s : State} (h : s.acts .a = true) :
    s.cur = .rub ∨ ∃ id t, s.cur = .task id .a ∧ s.task? id = some t := by
  unfold State.acts at h
  split at h
  case h_1 hc => exact .inl hc
  case h_2 id st hc =>
    obtain ⟨hst, hsome⟩ := Bool.and_eq_true_iff.mp h
    obtain ⟨t, ht⟩ := Option.isSome_iff_exists.mp hsome
    exact .inr ⟨id, t, of_decide_eq_true hst ▸ hc, ht⟩

/-- Two changes that agree on the entry of an index adjust the array alike. -/
theorem adjust_congr {α : Type} {k : Nat} {m : SMap α} {v : α} {f g : α → α} (hv : SMap.find? k m = some v) (h : f v = g v) :
    SMap.adjust k f m = SMap.adjust k g m := by
  induction m with
  | nil => rfl
  | cons e rest ih =>
    obtain ⟨j, u⟩ := e
    by_cases hj : j = k
    · obtain rfl : u = v := by simpa [SMap.find?, hj] using hv
      simp only [SMap.adjust, hj, if_true, h]
    · simp only [SMap.find?, hj, if_false] at hv
      simp only [SMap.adjust, hj, if_false, ih hv]

section OfTask

variable {s : State} {id : Nat} {t : Task}

/-- Two changes that agree on a task change the machine alike. -/
theorem onTask_congr {f g : Task → Task} (ht : s.task? id = some t) (h : f t = g t) : s.onTask id f = s.onTask id g :=
  congrArg (fun m => { s with tasks := m }) (adjust_congr ht h)

/-- A task that was changed is there as the change made it. -/
theorem task?_onTask_self {f : Task → Task} (ht : s.task? id = some t) : (s.onTask id f).task? id = some (f t) :=
  (SMap.find?_adjust_self id f s.tasks).trans (congrArg (Option.map f) ht)

end OfTask

/-! ## Writing a register (R14) -/

@[simp] theorem setReg_cur (s : State) (n : BitVec 6) (v : Word) : (s.setReg n v).cur = s.cur := by rw [State.setReg_eq]

@[simp] theorem setReg_records (s : State) (n : BitVec 6) (v : Word) : (s.setReg n v).records = s.records := by
  rw [State.setReg_eq]

theorem setReg_of_rub {s : State} (hc : s.cur = .rub) (n : BitVec 6) (v : Word) :
    s.setReg n v = { s with rub := s.rub.setReg n v } := by
  simp only [State.setReg, hc]

theorem setReg_of_task {s : State} {id : Nat} {st : Stream} (hc : s.cur = .task id st) (n : BitVec 6) (v : Word) :
    s.setReg n v = s.onTask id (fun t => t.setReg n v) := by
  simp only [State.setReg, hc]

/-- A task's write to a register changes its registers, and what its loads in flight write. -/
theorem task_setReg_eq (t : Task) (n : BitVec 6) (v : Word) :
    t.setReg n v = { t with regs := (t.setReg n v).regs, loads := (t.setReg n v).loads } := by
  unfold Task.setReg
  split <;> rfl

/-- The same for the Rubricator. -/
theorem rub_setReg_eq (r : Rub) (n : BitVec 6) (v : Word) :
    r.setReg n v = { r with regs := (r.setReg n v).regs, loads := (r.setReg n v).loads } := by
  unfold Rub.setReg
  split <;> rfl

/-- The register written reads as the value, unless it is `a0`. -/
theorem reg_setReg_self {s : State} (h : s.acts .a = true) (n : BitVec 6) (v : Word) :
    (s.setReg n v).reg n = if n = 0 then 0 else v := by
  have hread : (s.setReg n v).reg n = if n = n ∧ n ≠ 0 then v else s.reg n := by
    obtain hc | ⟨id, t, hc, ht⟩ := acts_a_cases h
    · exact State.reg_setReg_rub s n n v hc
    · exact State.reg_setReg_task s n n v hc ht
  rw [hread]
  by_cases hn : n = 0
  · subst hn
    rfl
  · rw [if_pos ⟨rfl, hn⟩, if_neg hn]

/-! ## Setting flags (R43, R125) -/

theorem setFlags_of_rub {s : State} (hc : s.cur = .rub) (f : Flags) : s.setFlags f = s := by
  simp only [State.setFlags, hc]

@[simp] theorem task_setFlags_zero (t : Task) : t.setFlags 0 = t :=
  congrArg (fun f => { t with csr := { t.csr with fpFlags := f } }) BitVec.or_zero

/-- A flag set unless a condition holds: where it holds the flags stay. -/
theorem or_flag_unless (flags f : Flags) (P : Prop) [Decidable P] :
    (flags ||| if P then 0 else f) = if P then flags else flags ||| f := by
  split
  · exact BitVec.or_zero
  · rfl

/-- Flags set by a task are its own, no flag being no change. -/
theorem task?_setFlags {s : State} {id : Nat} {st : Stream} {t : Task} (hc : s.cur = .task id st) (ht : s.task? id = some t)
    (f : Flags) : (s.setFlags f).task? id = some (t.setFlags f) := by
  simp only [State.setFlags, hc]
  split
  case isTrue hf => rw [hf, task_setFlags_zero, ht]
  case isFalse => exact task?_onTask_self ht

/-- Setting flags changes tasks alone. -/
theorem setFlags_eq (s : State) (f : Flags) : s.setFlags f = { s with tasks := (s.setFlags f).tasks } := by
  unfold State.setFlags
  split
  · rfl
  · split <;> rfl

@[simp] theorem setFlags_cur (s : State) (f : Flags) : (s.setFlags f).cur = s.cur := by rw [setFlags_eq]

@[simp] theorem setFlags_records (s : State) (f : Flags) : (s.setFlags f).records = s.records := by rw [setFlags_eq]

/-- No register is a flag. -/
theorem reg_setFlags (s : State) (f : Flags) (n : BitVec 6) : (s.setFlags f).reg n = s.reg n := by
  cases hc : s.cur with
  | rub => rw [setFlags_of_rub hc]
  | task id st =>
    cases ht : s.task? id with
    | none =>
      have hnone : (s.setFlags f).task? id = none := by
        simp only [State.setFlags, hc]
        split
        · exact ht
        · exact (SMap.find?_adjust_self id _ s.tasks).trans (congrArg (Option.map _) ht)
      simp only [State.reg, setFlags_cur, hc, hnone, ht]
    | some t => simp only [State.reg, setFlags_cur, hc, task?_setFlags hc ht f, ht, Task.setFlags]

/-! ## Going on to the next word (R80, R134) -/

@[simp] theorem advance_records (s : State) : s.advance.records = s.records := by rw [State.advance_eq]

theorem advance_of_rub {s : State} (hc : s.cur = .rub) : s.advance = { s with rub := { s.rub with pc := s.rub.pc + 3 } } := by
  simp only [State.advance, hc]

/-- A task that goes on changes in the stream that runs, and in no other way. -/
theorem exists_task?_advance {s : State} {id : Nat} {st : Stream} {t : Task} (hc : s.cur = .task id st)
    (ht : s.task? id = some t) : ∃ v, s.advance.task? id = some (t.setStream st v) := by
  simp only [State.advance, hc]
  rw [task?_onTask_self ht]
  split
  · exact ⟨_, rfl⟩
  · exact ⟨_, rfl⟩

/-- Outside a handler the A stream goes on as its section says. -/
theorem advance_of_no_handler {s : State} {id : Nat} {t : Task} (hc : s.cur = .task id .a) (ht : s.task? id = some t)
    (hn : t.handler = none) : s.advance = s.onTask id (fun t => { t with sa := t.sa.advance }) := by
  simp only [State.advance, hc]
  refine onTask_congr ht ?_
  have hout : t.inHandler = false := by rw [Task.inHandler, hn]; rfl
  simp only [hout, Bool.and_false, Bool.false_eq_true, if_false]
  rfl

/-- Inside the span the next word follows (R80). -/
theorem streamAdvance_inside {v : StreamSt} (h : v.pc + 3 ≠ v.hdr + BitVec.ofNat 50 (2 + 3 * v.len)) :
    v.advance = { v with pc := v.pc + 3 } := if_neg h

/-- After the last word of a span comes the next header (R80). -/
theorem streamAdvance_last {v : StreamSt} (h : v.pc + 3 = v.hdr + BitVec.ofNat 50 (2 + 3 * v.len)) :
    v.advance = { v with phase := .header, pc := v.pc + 3, len := 0, left := v.left ++ [v.sec] } := if_pos h

/-! ## NOP (R133) -/

/-- NOP goes on to the next word and does nothing else. -/
theorem exec_nop {s : State} (r : AR) (h : Reads s []) : exec (.nop r) s = .next s.advance :=
  State.aWord_next s [] (fun u => .ok u.advance) h.acts h.ready

/-- Settles O56: NOP only goes on, and the stream's own rule says where to. -/
theorem noOperation : Obligations.NoOperation := by
  intro r s h
  rw [exec_nop r h]
  refine ⟨fun id t hc ht hn => ⟨fun hin => ?_, fun hlast => ?_⟩, fun hc => ?_⟩
  · rw [advance_of_no_handler hc ht hn]
    exact congrArg _ (onTask_congr ht (congrArg (fun v => { t with sa := v }) (streamAdvance_inside hin)))
  · rw [advance_of_no_handler hc ht hn]
    exact congrArg _ (onTask_congr ht (congrArg (fun v => { t with sa := v }) (streamAdvance_last hlast)))
  · rw [advance_of_rub hc]

/-! ## ADDS (R125) -/

/-- SatInt to a signed word clamps to its range, and its flag is SAT exactly when that changes the value (R46). -/
theorem satInt_signed_64 (v : Int) :
    let clamped := max (-2 ^ 63) (min (2 ^ 63 - 1) v)
    satInt v 64 true = (clamped, if clamped = v then 0 else 32) := by
  intro clamped
  have hmin : intMin 64 true = -2 ^ 63 := rfl
  have hmax : intMax 64 true = 2 ^ 63 - 1 := rfl
  rw [satInt, hmin, hmax]
  by_cases hlow : v < -2 ^ 63
  · have hc : clamped = -2 ^ 63 := by omega
    rw [if_pos hlow, hc, if_neg (by omega), flagSAT]
  · by_cases hhigh : 2 ^ 63 - 1 < v
    · have hc : clamped = 2 ^ 63 - 1 := by omega
      rw [if_neg hlow, if_pos hhigh, hc, if_neg (by omega), flagSAT]
    · have hc : clamped = v := by omega
      rw [if_neg hlow, if_neg hhigh, hc, if_pos rfl]

/-- ADDS writes the clamped sum, sets SAT when that is not the sum, and goes on. -/
theorem exec_adds {s : State} (w : AR) (h : Reads s [w.a, w.b]) :
    let sum := (s.reg w.a).toInt + (s.reg w.b).toInt
    let clamped := max (-2 ^ 63) (min (2 ^ 63 - 1) sum)
    exec (.adds w) s = .next ((s.setReg w.d (word clamped)).setFlags (if clamped = sum then 0 else 32)).advance := by
  change execAdds w s = _
  rw [execAdds, State.aWord_next s _ _ h.acts h.ready, satInt_signed_64]
  rfl

section Completes

variable {s : State} (n : BitVec 6) (v : Word) (f : Flags)

/-- The destination of a word that writes it, sets flags and goes on. -/
theorem reg_advance_setFlags_setReg (h : s.acts .a = true) :
    ((s.setReg n v).setFlags f).advance.reg n = if n = 0 then 0 else v := by
  rw [State.reg_advance, reg_setFlags, reg_setReg_self h]

/-- Of the special registers of its task such a word changes the flags alone, and the task runs on as it did. -/
theorem exists_task?_advance_setFlags_setReg {id : Nat} {st : Stream} {t : Task} (hc : s.cur = .task id st)
    (ht : s.task? id = some t) :
    ∃ t', ((s.setReg n v).setFlags f).advance.task? id = some t' ∧
      t'.csr = { t.csr with fpFlags := t.csr.fpFlags ||| f } ∧ t'.handler = t.handler ∧ t'.run = t.run := by
  have hreg : (s.setReg n v).task? id = some (t.setReg n v) := by rw [setReg_of_task hc, task?_onTask_self ht]
  have hflags := task?_setFlags ((setReg_cur s n v).trans hc) hreg f
  obtain ⟨y, hy⟩ := exists_task?_advance ((setFlags_cur _ f).trans ((setReg_cur s n v).trans hc)) hflags
  refine ⟨_, hy, ?_⟩
  rw [task_setReg_eq]
  cases st <;> exact ⟨rfl, rfl, rfl⟩

/-- On the Rubricator such a word sets no flag: it writes the register and goes on. -/
theorem advance_setFlags_setReg_of_rub (hc : s.cur = .rub) :
    ((s.setReg n v).setFlags f).advance =
      { s with rub := { s.rub with
        regs := (s.rub.setReg n v).regs, loads := (s.rub.setReg n v).loads, pc := s.rub.pc + 3 } } := by
  have hcur := (setReg_cur s n v).trans hc
  rw [setFlags_of_rub hcur, advance_of_rub hcur, setReg_of_rub hc, rub_setReg_eq]

end Completes

/-- Settles O55: ADDS is a write of the clamped sum and of the clamp's flag, and then goes on; a trap is no part of it. -/
theorem saturatingAdd : Obligations.SaturatingAdd := by
  refine ⟨?_, by decide⟩
  intro w s h sum clamped
  refine ⟨_, exec_adds w h, reg_advance_setFlags_setReg _ _ _ h.acts, ?_, fun id t hc ht => ?_, fun hc => ?_⟩
  · rw [advance_records, setFlags_records, setReg_records]
  · obtain ⟨t', ht', hcsr, hrest⟩ :=
      exists_task?_advance_setFlags_setReg w.d (word clamped) (if clamped = sum then 0 else 32) hc ht
    refine ⟨t', ht', ?_, hrest⟩
    rw [hcsr, or_flag_unless]
  · rw [advance_setFlags_setReg_of_rub _ _ _ hc]
    exact ⟨rfl, rfl, rfl⟩

end Sys2Proof.Proofs
end

section
/-! PROOFS. The lane shifts of the X stream and their counts (R197, R199). -/

namespace Sys2Proof.Proofs

open Sys2Proof Sys2Proof.Machine Sys2Proof.Claims

/-! ## Patterns and ranges of n-bit integers (R46, R197) -/

/-- An n-bit pattern fits in n bits. -/
theorem intPat_lt (n : Nat) (v : Int) : intPat n v < 2 ^ n := by
  have hpos : (0 : Int) < ((2 ^ n : Nat) : Int) := Int.natCast_pos.mpr (Nat.two_pow_pos n)
  have hlow := Int.emod_nonneg v (Int.ne_of_gt hpos)
  have hhigh := Int.emod_lt_of_pos v hpos
  rw [intPat]
  omega

@[simp] theorem intPat_zero (n : Nat) : intPat n 0 = 0 := by
  rw [intPat, Int.zero_emod, Int.toNat_zero]

/-- A multiple of 2^n has the pattern of zero. -/
@[simp] theorem intPat_mul_two_pow (n : Nat) (v : Int) : intPat n (v * 2 ^ n) = 0 := by
  rw [intPat, Int.natCast_pow, Int.cast_ofNat_Int, Int.mul_emod_left, Int.toNat_zero]

/-- The pattern of −1 is all ones. -/
theorem intPat_neg_one (n : Nat) : intPat n (-1) = 2 ^ n - 1 := by
  have hpos : 0 < 2 ^ n := Nat.two_pow_pos n
  have hmod : (-1 : Int) % ((2 ^ n : Nat) : Int) = ((2 ^ n : Nat) : Int) - 1 := by
    rw [← Int.add_emod_right, Int.emod_eq_of_lt] <;> omega
  rw [intPat, hmod]
  omega

/-- A value read off a pattern, signed or not, has that pattern. -/
theorem intPat_patInt (n : Nat) (sg : Bool) (p : Nat) : intPat n (patInt n sg p) = p % 2 ^ n := by
  have hcong : patInt n sg p % ((2 ^ n : Nat) : Int) = ((p % 2 ^ n : Nat) : Int) := by
    rw [patInt]
    split
    · rw [Int.sub_emod_right, ← Int.natCast_emod, Nat.mod_mod]
    · rw [← Int.natCast_emod, Nat.mod_mod]
  rw [intPat, hcong, Int.toNat_natCast]

/-- Placed without saturation, a value keeps its pattern. -/
theorem intPat_intResult (v : Int) (ty : Nat) : intPat (typeBits ty) (intResult v ty false).1 = intPat (typeBits ty) v := by
  simp only [intResult, Bool.false_eq_true, if_false, intPat_patInt, Nat.mod_eq_of_lt (intPat_lt _ v)]

@[simp] theorem patInt_zero (n : Nat) (sg : Bool) : patInt n sg 0 = 0 := by
  have hsign : ¬2 ^ (n - 1) ≤ 0 := Nat.not_le_of_gt (Nat.two_pow_pos _)
  rw [patInt, Nat.zero_mod, decide_eq_false hsign, Bool.and_false, if_neg Bool.false_ne_true, Int.natCast_zero]

/-- No n-bit integer reaches 2^n. -/
theorem intMax_lt_two_pow (n : Nat) (sg : Bool) : intMax n sg < 2 ^ n := by
  have hhalf : 2 ^ (n - 1) ≤ 2 ^ n := Nat.pow_le_pow_right (by decide) (Nat.sub_le n 1)
  have hcast : (2 : Int) ^ n = ((2 ^ n : Nat) : Int) := by norm_cast
  rw [hcast]
  cases sg with
  | false => exact Int.sub_one_lt_of_le (Int.le_refl _)
  | true => exact Int.sub_one_lt_of_le (Int.ofNat_le.mpr hhalf)

/-- No n-bit integer reaches −2^n. -/
theorem neg_two_pow_lt_intMin {n : Nat} (hn : 0 < n) (sg : Bool) : -2 ^ n < intMin n sg := by
  have hhalf : 2 ^ (n - 1) < 2 ^ n := Nat.pow_lt_pow_right (by decide) (Nat.sub_one_lt_of_lt hn)
  have hcast : (2 : Int) ^ n = ((2 ^ n : Nat) : Int) := by norm_cast
  rw [hcast]
  cases sg with
  | false => exact Int.neg_neg_of_pos (Int.natCast_pos.mpr (Nat.two_pow_pos n))
  | true => exact Int.neg_lt_neg (Int.ofNat_lt.mpr hhalf)

theorem satInt_of_lt_intMin {v : Int} {n : Nat} {sg : Bool} (h : v < intMin n sg) : satInt v n sg = (intMin n sg, flagSAT) :=
  if_pos h

/-- The range of n bits has its smallest value at most one above its largest. -/
theorem intMin_le_intMax_add_one (n : Nat) (sg : Bool) : intMin n sg ≤ intMax n sg + 1 := by
  cases sg with
  | false =>
    show (0 : Int) ≤ ((2 ^ n : Nat) : Int) - 1 + 1
    rw [Int.sub_add_cancel]
    exact Int.natCast_nonneg _
  | true =>
    show -((2 ^ (n - 1) : Nat) : Int) ≤ ((2 ^ (n - 1) : Nat) : Int) - 1 + 1
    rw [Int.sub_add_cancel]
    exact Int.le_trans (Int.neg_nonpos_of_nonneg (Int.natCast_nonneg _)) (Int.natCast_nonneg _)

theorem satInt_of_intMax_lt {v : Int} {n : Nat} {sg : Bool} (h : intMax n sg < v) : satInt v n sg = (intMax n sg, flagSAT) := by
  have hrange := intMin_le_intMax_add_one n sg
  rw [satInt, if_neg (by omega), if_pos h]

/-- Every integer type has bits. -/
theorem typeBits_pos (ty : Nat) : 0 < typeBits ty := by
  unfold typeBits
  repeat' split
  all_goals decide

/-! ## The count of a lane shift (R199) -/

/-- A count in the range of the type stands. -/
theorem shiftCount_inside {n : Nat} {y : Int} (hlow : 0 ≤ y) (hhigh : y < n) : (shiftCount n y : Int) = y := by
  rw [shiftCount, if_pos ⟨hlow, hhigh⟩, Int.toNat_of_nonneg hlow]

/-- Every other count is the full width. -/
theorem shiftCount_outside {n : Nat} {y : Int} (h : ¬(0 ≤ y ∧ y < n)) : shiftCount n y = n := if_neg h

/-! ## What a count of the full width gives (R199) -/

/-- VSHL by the full width without saturation: no bit of the value is left. -/
theorem intResult_mul_two_pow_wrap (x : Int) (ty : Nat) : intResult (x * 2 ^ typeBits ty) ty false = (0, 0) := by
  simp only [intResult, Bool.false_eq_true, if_false, intPat_mul_two_pow, patInt_zero]

/-- VSHL by the full width with saturation clamps a positive value to the largest. -/
theorem intResult_mul_two_pow_of_pos {x : Int} (hx : 0 < x) (ty : Nat) :
    intResult (x * 2 ^ typeBits ty) ty true = (intMax (typeBits ty) (typeSigned ty), flagSAT) := by
  refine satInt_of_intMax_lt ?_
  have hpow : (0 : Int) ≤ 2 ^ typeBits ty := Int.pow_nonneg (by decide)
  calc intMax (typeBits ty) (typeSigned ty) < 2 ^ typeBits ty := intMax_lt_two_pow _ _
    _ = 1 * 2 ^ typeBits ty := (Int.one_mul _).symm
    _ ≤ x * 2 ^ typeBits ty := Int.mul_le_mul_of_nonneg_right hx hpow

/-- VSHL by the full width with saturation clamps a negative value to the smallest. -/
theorem intResult_mul_two_pow_of_neg {x : Int} (hx : x < 0) (ty : Nat) :
    intResult (x * 2 ^ typeBits ty) ty true = (intMin (typeBits ty) (typeSigned ty), flagSAT) := by
  refine satInt_of_lt_intMin ?_
  have hpow : (0 : Int) ≤ 2 ^ typeBits ty := Int.pow_nonneg (by decide)
  calc x * 2 ^ typeBits ty ≤ -1 * 2 ^ typeBits ty := Int.mul_le_mul_of_nonneg_right (Int.le_sub_one_of_lt hx) hpow
    _ = -2 ^ typeBits ty := Int.neg_one_mul _
    _ < intMin (typeBits ty) (typeSigned ty) := neg_two_pow_lt_intMin (typeBits_pos ty) _

/-- VSHR by the full width: no bit of the pattern is left. -/
theorem intResult_intPat_div_two_pow (x : Int) (ty : Nat) :
    intResult ((intPat (typeBits ty) x / 2 ^ typeBits ty : Nat) : Int) ty false = (0, 0) := by
  simp only [Nat.div_eq_of_lt (intPat_lt _ x), Int.natCast_zero, intResult, Bool.false_eq_true, if_false, intPat_zero,
    patInt_zero]

/-- A signed value of n bits divided by 2^n is its sign, 0 or −1. -/
theorem patInt_signed_div_two_pow {n p : Nat} (hp : p < 2 ^ n) :
    patInt n true p / 2 ^ n = if 2 ^ (n - 1) ≤ p then -1 else 0 := by
  have hcast : (2 : Int) ^ n = ((2 ^ n : Nat) : Int) := by norm_cast
  rw [patInt, Nat.mod_eq_of_lt hp, Bool.true_and, hcast]
  by_cases hsign : 2 ^ (n - 1) ≤ p
  · rw [if_pos (decide_eq_true hsign), if_pos hsign]
    exact Int.ediv_eq_neg_one_of_neg_of_le (by omega) (by omega)
  · rw [decide_eq_false hsign, if_neg Bool.false_ne_true, if_neg hsign]
    exact Int.ediv_eq_zero_of_lt (by omega) (by omega)

/-- VSRA by the full width: every bit of the result is the sign bit of the pattern. -/
theorem intPat_intResult_patInt_div_two_pow (x : Int) (ty : Nat) :
    let n := typeBits ty
    intPat n (intResult (patInt n true (intPat n x) / 2 ^ n) ty false).1 =
      if 2 ^ (n - 1) ≤ intPat n x then 2 ^ n - 1 else 0 := by
  intro n
  rw [intPat_intResult, patInt_signed_div_two_pow (intPat_lt n x)]
  split
  · exact intPat_neg_one n
  · exact intPat_zero n

/-! ## The three shifts (R197, R199) -/

section Shifts

variable (w : XV3) (s : State)

/-- The meaning that the dispatch gives a VSHL word. -/
theorem exec_vshl : exec (.vshl w) s = execVshl w s := rfl

/-- The meaning that the dispatch gives a VSHR word. -/
theorem exec_vshr : exec (.vshr w) s = execVshr w s := rfl

/-- The meaning that the dispatch gives a VSRA word. -/
theorem exec_vsra : exec (.vsra w) s = execVsra w s := rfl

end Shifts

/-- VSHL multiplies by the power of two of its count, and the value is placed as the word says. -/
theorem vshl_lanes (w : XV3) :
    let ty := w.ty.toNat
    XLane2 .vshl w ty ty ty (timeInt ty)
      (fun _ x y => intResult (x * 2 ^ shiftCount (typeBits ty) y) ty (decide (w.sat = 1))) :=
  xDoes_of_exec_eq_xOp (exec_vshl w)

/-- VSHR divides the pattern, extended by zeros. -/
theorem vshr_lanes (w : XV3) :
    let ty := w.ty.toNat
    let n := typeBits ty
    XLane2 .vshr w ty ty ty (timeInt ty) (fun _ x y => intResult ((intPat n x / 2 ^ shiftCount n y : Nat) : Int) ty false) :=
  xDoes_of_exec_eq_xOp (exec_vshr w)

/-- VSRA divides the pattern, extended by its sign, towards minus infinity. -/
theorem vsra_lanes (w : XV3) :
    let ty := w.ty.toNat
    let n := typeBits ty
    XLane2 .vsra w ty ty ty (timeInt ty)
      (fun _ x y => intResult (patInt n true (intPat n x) / 2 ^ shiftCount n y) ty false) :=
  xDoes_of_exec_eq_xOp (exec_vsra w)

/-- Settles O57: each shift is the frame of an X word around its lane function, and at the full width its result is read off the
patterns and the range of the type; that the operand is in range is not needed. -/
theorem shiftCounts : Obligations.ShiftCounts := by
  intro w x y _ ty n _ _
  refine ⟨shiftCount_inside, shiftCount_outside, vshl_lanes w, vshr_lanes w, vsra_lanes w, ?_, fun hx => ?_, fun hx => ?_,
    ?_, ?_⟩
  · exact intResult_mul_two_pow_wrap x ty
  · exact intResult_mul_two_pow_of_pos hx ty
  · exact intResult_mul_two_pow_of_neg hx ty
  · exact intResult_intPat_div_two_pow x ty
  · exact intPat_intResult_patInt_div_two_pow x ty

end Sys2Proof.Proofs
end

section
/-! PROOFS. The class mask of VFCLASS (R208), from the fields of a pattern (R50 to R53). -/

namespace Sys2Proof.Proofs

open Sys2Proof Sys2Proof.Machine Sys2Proof.Claims

section Classes

variable {f : Fmt} {x : Nat}

/-! ## The value that the fields of a pattern name (R50 to R53) -/

/-- Exponent field 0: zero or a subnormal number. -/
theorem value_of_expField_zero (heb : 0 < f.eb) (he : x / 2 ^ f.mb % 2 ^ f.eb = 0) :
    f.value x = .fin { neg := decide (x / 2 ^ (f.eb + f.mb) % 2 = 1), mag := x % 2 ^ f.mb,
                       exp := 1 - (f.bias : Int) - f.mb, more := false } := by
  have htop : 0 ≠ 2 ^ f.eb - 1 := Nat.ne_of_lt (Nat.sub_pos_of_lt (Nat.one_lt_two_pow (Nat.ne_of_gt heb)))
  simp only [Fmt.value, he, htop, decide_false, Bool.and_false, Bool.false_and, Bool.false_eq_true, if_false, if_true]

/-- Any other exponent field: a normal number, unless the format keeps the pattern for an infinity or a NaN. -/
theorem value_of_normal (he : x / 2 ^ f.mb % 2 ^ f.eb ≠ 0)
    (hinf : f.inf = true → x / 2 ^ f.mb % 2 ^ f.eb ≠ 2 ^ f.eb - 1)
    (hnan : f.nan = true → x / 2 ^ f.mb % 2 ^ f.eb = 2 ^ f.eb - 1 → x % 2 ^ f.mb ≠ 2 ^ f.mb - 1) :
    f.value x = .fin { neg := decide (x / 2 ^ (f.eb + f.mb) % 2 = 1), mag := 2 ^ f.mb + x % 2 ^ f.mb,
                       exp := ((x / 2 ^ f.mb % 2 ^ f.eb : Nat) : Int) - f.bias - f.mb, more := false } := by
  simp only [Fmt.value]
  rw [if_neg, if_neg, if_neg he]
  · simp only [Bool.and_eq_true, decide_eq_true_eq, not_and]
    exact fun ⟨⟨_, hn⟩, htop⟩ => hnan hn htop
  · simp only [Bool.and_eq_true, decide_eq_true_eq, not_and]
    exact hinf

section WithInfinity

variable (hinf : f.inf = true) (htop : x / 2 ^ f.mb % 2 ^ f.eb = 2 ^ f.eb - 1)
include hinf htop

/-- The largest exponent field with significand field 0 is an infinity. -/
theorem value_of_infinity (hm : x % 2 ^ f.mb = 0) : f.value x = .inf (decide (x / 2 ^ (f.eb + f.mb) % 2 = 1)) := by
  simp only [Fmt.value, hinf, htop, hm, decide_true, Bool.and_true, if_true]

/-- The largest exponent field with another significand field is a NaN, a signalling one below the half. -/
theorem value_of_nan (hm : x % 2 ^ f.mb ≠ 0) : f.value x = .nan (decide (x % 2 ^ f.mb < 2 ^ (f.mb - 1))) := by
  simp only [Fmt.value, hinf, htop, hm, decide_true, Bool.and_true, if_true, if_false]

end WithInfinity

/-- In a format with a NaN and no infinity all ones below the sign are the NaN, a quiet one. -/
theorem value_of_all_ones (hinf : f.inf = false) (hnan : f.nan = true) (htop : x / 2 ^ f.mb % 2 ^ f.eb = 2 ^ f.eb - 1)
    (hm : x % 2 ^ f.mb = 2 ^ f.mb - 1) : f.value x = .nan false := by
  simp only [Fmt.value, hinf, hnan, htop, hm, decide_true, Bool.not_false, Bool.and_true, Bool.false_eq_true, if_true,
    if_false]

/-! ## The class of a pattern (R208) -/

/-- Where a format has infinities, the first significand bit tells a quiet NaN. -/
theorem classMask_of_nan (hinf : f.inf = true) (htop : x / 2 ^ f.mb % 2 ^ f.eb = 2 ^ f.eb - 1) (hm : x % 2 ^ f.mb ≠ 0) :
    classMask f x = if x % 2 ^ f.mb < 2 ^ (f.mb - 1) then 256 else 512 := by
  simp only [classMask, value_of_nan hinf htop hm, decide_eq_true_eq]

/-- Where a format has none, its NaN is quiet. -/
theorem classMask_of_all_ones (hinf : f.inf = false) (hnan : f.nan = true)
    (htop : x / 2 ^ f.mb % 2 ^ f.eb = 2 ^ f.eb - 1) (hm : x % 2 ^ f.mb = 2 ^ f.mb - 1) : classMask f x = 512 := by
  simp only [classMask, value_of_all_ones hinf hnan htop hm, Bool.false_eq_true, if_false]

section Signed

variable (hx : x < 2 ^ f.width)
include hx

/-- The sign field of a pattern is its topmost bit. -/
theorem signField_mod_two : x / 2 ^ (f.eb + f.mb) % 2 = x / 2 ^ (f.eb + f.mb) := by
  refine Nat.mod_eq_of_lt (Nat.div_lt_of_lt_mul ?_)
  rwa [← Nat.pow_succ, Nat.succ_eq_add_one, Nat.add_comm, ← Nat.add_assoc]

theorem classMask_of_zero (heb : 0 < f.eb) (he : x / 2 ^ f.mb % 2 ^ f.eb = 0) (hm : x % 2 ^ f.mb = 0) :
    classMask f x = if x / 2 ^ (f.eb + f.mb) = 1 then 8 else 16 := by
  simp only [classMask, value_of_expField_zero heb he, hm, if_true, signField_mod_two hx, decide_eq_true_eq]

theorem classMask_of_subnormal (heb : 0 < f.eb) (he : x / 2 ^ f.mb % 2 ^ f.eb = 0) (hm : x % 2 ^ f.mb ≠ 0) :
    classMask f x = if x / 2 ^ (f.eb + f.mb) = 1 then 4 else 32 := by
  simp only [classMask, value_of_expField_zero heb he, hm, he, if_true, if_false, signField_mod_two hx, decide_eq_true_eq]

theorem classMask_of_normal (he : x / 2 ^ f.mb % 2 ^ f.eb ≠ 0)
    (hinf : f.inf = true → x / 2 ^ f.mb % 2 ^ f.eb ≠ 2 ^ f.eb - 1)
    (hnan : f.nan = true → x / 2 ^ f.mb % 2 ^ f.eb = 2 ^ f.eb - 1 → x % 2 ^ f.mb ≠ 2 ^ f.mb - 1) :
    classMask f x = if x / 2 ^ (f.eb + f.mb) = 1 then 2 else 64 := by
  have hmag : 2 ^ f.mb + x % 2 ^ f.mb ≠ 0 := Nat.ne_of_gt (Nat.add_pos_left (Nat.two_pow_pos _) _)
  simp only [classMask, value_of_normal he hinf hnan, hmag, he, if_false, signField_mod_two hx, decide_eq_true_eq]

theorem classMask_of_infinity (hinf : f.inf = true) (htop : x / 2 ^ f.mb % 2 ^ f.eb = 2 ^ f.eb - 1) (hm : x % 2 ^ f.mb = 0) :
    classMask f x = if x / 2 ^ (f.eb + f.mb) = 1 then 1 else 128 := by
  simp only [classMask, value_of_infinity hinf htop hm, signField_mod_two hx, decide_eq_true_eq]

end Signed
end Classes

/-! ## The real types (Table 2.2) -/

/-- The formats of the six real types: they have an exponent field, the width of the type, and infinities from E5M2 on. -/
theorem fmtOf_real : ∀ ty ≤ 13, 8 ≤ ty →
    0 < (fmtOf ty).eb ∧ (fmtOf ty).width = typeBits ty ∧ (fmtOf ty).inf = decide (10 ≤ ty) := by decide

/-! ## VFCLASS -/

/-- The meaning that the dispatch gives a VFCLASS word. -/
theorem exec_vfclass (w : XV3) (s : State) : exec (.vfclass w) s = execVfclass w s := rfl

/-- VFCLASS puts a class mask into each lane and sets no flag. -/
theorem vfclass_classifies (w : XV3) : XClass w := xDoes_of_exec_eq_xOp (exec_vfclass w)

/-- Settles O58: VFCLASS is the frame of an X word around the class masks, and the fields of a pattern name its value, which has
one class. -/
theorem classMasks : Obligations.ClassMasks := by
  refine ⟨vfclass_classifies, fun ty x hlow hhigh hwidth => ?_⟩
  obtain ⟨heb, hbits, hinf⟩ := fmtOf_real ty hhigh hlow
  intro f neg e m top mask
  have hx : x < 2 ^ f.width := by rwa [hbits]
  refine ⟨classMask_of_zero hx heb, classMask_of_subnormal hx heb, fun he ht => ?_, fun h8 he => ?_, fun h9 ht => ?_,
    fun h10 => ?_, fun h10 ht hm => ?_⟩
  · exact classMask_of_normal hx he (fun _ => ht) (fun _ h => absurd h ht)
  · subst h8
    exact classMask_of_normal hx he (fun h => nomatch h) (fun h => nomatch h)
  · subst h9
    by_cases hm : m = 7
    · rw [if_pos hm]
      exact classMask_of_all_ones rfl rfl ht hm
    · rw [if_neg hm]
      exact classMask_of_normal hx (fun he => nomatch ht.symm.trans he) (fun h => nomatch h) (fun _ _ => hm)
  · exact classMask_of_infinity hx (hinf.trans (decide_eq_true h10))
  · exact classMask_of_nan (hinf.trans (decide_eq_true h10)) ht hm

end Sys2Proof.Proofs
end

section
/-! PROOFS. How a virtual address is split into the indexes of the page tables and an offset (R294). -/

namespace Sys2Proof.Proofs

open Sys2Proof Sys2Proof.Machine

/-! ## Bit fields of a number -/

/-- A field of `n` bits is less than `2 ^ n`. -/
theorem bits_lt (v lo n : Nat) : bits v lo n < 2 ^ n := Nat.mod_lt _ (Nat.two_pow_pos n)

/-- What stands below the end of a field is the field at its place and what stands below the field. -/
theorem mod_two_pow_eq_bits_add (v lo n : Nat) : v % 2 ^ (lo + n) = bits v lo n * 2 ^ lo + v % 2 ^ lo := by
  rw [Nat.pow_add, Nat.mod_mul, bits, Nat.mul_comm, Nat.add_comm]

/-! ## The indexes of the four tables (R294) -/

theorem ptIndex_three (va : Nat) : ptIndex 3 va = bits va 39 13 := rfl
theorem ptIndex_two (va : Nat) : ptIndex 2 va = bits va 30 9 := rfl
theorem ptIndex_one (va : Nat) : ptIndex 1 va = bits va 21 9 := rfl
theorem ptIndex_zero (va : Nat) : ptIndex 0 va = bits va 16 5 := rfl

/-- The fields follow one another without a gap: from the whole address down, each index leaves what stands below its field. -/
theorem eq_ptIndex_sum {va : Nat} (hva : va < 2 ^ 52) :
    va = ptIndex 3 va * 2 ^ 39 + ptIndex 2 va * 2 ^ 30 + ptIndex 1 va * 2 ^ 21 + ptIndex 0 va * 2 ^ 16 + va % 2 ^ 16 :=
  calc va = va % 2 ^ 52 := (Nat.mod_eq_of_lt hva).symm
    _ = ptIndex 3 va * 2 ^ 39 + va % 2 ^ 39 := by rw [ptIndex_three, ← mod_two_pow_eq_bits_add va 39 13]
    _ = ptIndex 3 va * 2 ^ 39 + (ptIndex 2 va * 2 ^ 30 + va % 2 ^ 30) := by
      rw [mod_two_pow_eq_bits_add va 30 9, ptIndex_two]
    _ = ptIndex 3 va * 2 ^ 39 + (ptIndex 2 va * 2 ^ 30 + (ptIndex 1 va * 2 ^ 21 + va % 2 ^ 21)) := by
      rw [mod_two_pow_eq_bits_add va 21 9, ptIndex_one]
    _ = ptIndex 3 va * 2 ^ 39 + (ptIndex 2 va * 2 ^ 30 + (ptIndex 1 va * 2 ^ 21 + (ptIndex 0 va * 2 ^ 16 + va % 2 ^ 16))) := by
      rw [mod_two_pow_eq_bits_add va 16 5, ptIndex_zero]
    _ = _ := by simp only [Nat.add_assoc]

/-- Settles O60: an address is the sum of its fields, each below the size of its table, and the sizes are those of R294. -/
theorem addressSplit : Obligations.AddressSplit := by
  refine ⟨fun va hva => ⟨eq_ptIndex_sum hva, ?_, ?_, ?_, ?_⟩, ?sizes⟩
  · exact bits_lt va 39 13
  · exact bits_lt va 30 9
  · exact bits_lt va 21 9
  · exact bits_lt va 16 5
  case sizes => decide

end Sys2Proof.Proofs
end

section
/-! PROOFS. Every well-formed word decodes from its own encoding (R87, R92, R98), and what every step of the machine keeps. -/

namespace Sys2Proof.Proofs

open Sys2Proof Sys2Proof.Machine

/-! ## Encoding, then decoding (R87, R92, R98) -/

/-- Constructor by constructor: a word by the lemma about its format, a step that is no word by its having no opcode space. -/
theorem decode_encode (i : Instr) : Laws.Codec.Statement i := by
  cases i with
  | add w => exact Laws.Codec.add w
  | sub w => exact Laws.Codec.sub w
  | addi w => exact Laws.Codec.addi w
  | mul w => exact Laws.Codec.mul w
  | mulh w => exact Laws.Codec.mulh w
  | mulhn w => exact Laws.Codec.mulhn w
  | div w => exact Laws.Codec.div w
  | divn w => exact Laws.Codec.divn w
  | rem w => exact Laws.Codec.rem w
  | remn w => exact Laws.Codec.remn w
  | and w => exact Laws.Codec.and w
  | or w => exact Laws.Codec.or w
  | xor w => exact Laws.Codec.xor w
  | andn w => exact Laws.Codec.andn w
  | shl w => exact Laws.Codec.shl w
  | shr w => exact Laws.Codec.shr w
  | sra w => exact Laws.Codec.sra w
  | rol w => exact Laws.Codec.rol w
  | ror w => exact Laws.Codec.ror w
  | clz w => exact Laws.Codec.clz w
  | ctz w => exact Laws.Codec.ctz w
  | popc w => exact Laws.Codec.popc w
  | min w => exact Laws.Codec.min w
  | max w => exact Laws.Codec.max w
  | minn w => exact Laws.Codec.minn w
  | maxn w => exact Laws.Codec.maxn w
  | sel w => exact Laws.Codec.sel w
  | slt w => exact Laws.Codec.slt w
  | sltn w => exact Laws.Codec.sltn w
  | seq w => exact Laws.Codec.seq w
  | li w => exact Laws.Codec.li w
  | bfx w => exact Laws.Codec.bfx w
  | bfi w => exact Laws.Codec.bfi w
  | adds w => exact Laws.Codec.adds w
  | b w => exact Laws.Codec.b w
  | j w => exact Laws.Codec.j w
  | jal w => exact Laws.Codec.jal w
  | jr w => exact Laws.Codec.jr w
  | bqp w => exact Laws.Codec.bqp w
  | fin w => exact Laws.Codec.fin w
  | nop w => exact Laws.Codec.nop w
  | ld w => exact Laws.Codec.ld w
  | st w => exact Laws.Codec.st w
  | lds w => exact Laws.Codec.lds w
  | sts w => exact Laws.Codec.sts w
  | ldx w => exact Laws.Codec.ldx w
  | stx w => exact Laws.Codec.stx w
  | gath w => exact Laws.Codec.gath w
  | scat w => exact Laws.Codec.scat w
  | pref w => exact Laws.Codec.pref w
  | fence w => exact Laws.Codec.fence w
  | cpy w => exact Laws.Codec.cpy w
  | cpyvIn w => exact Laws.Codec.cpyvIn w
  | cpyvOut w => exact Laws.Codec.cpyvOut w
  | cpyb w => exact Laws.Codec.cpyb w
  | cpyx w => exact Laws.Codec.cpyx w
  | sbind w => exact Laws.Codec.sbind w
  | sdrop w => exact Laws.Codec.sdrop w
  | gdef w => exact Laws.Codec.gdef w
  | gset w => exact Laws.Codec.gset w
  | gget w => exact Laws.Codec.gget w
  | falloc w => exact Laws.Codec.falloc w
  | faddref w => exact Laws.Codec.faddref w
  | fdrop w => exact Laws.Codec.fdrop w
  | pseal w => exact Laws.Codec.pseal w
  | bxp w => exact Laws.Codec.bxp w
  | barv w => exact Laws.Codec.barv w
  | bwt w => exact Laws.Codec.bwt w
  | btst w => exact Laws.Codec.btst w
  | bbnd w => exact Laws.Codec.bbnd w
  | bubd w => exact Laws.Codec.bubd w
  | bfwd w => exact Laws.Codec.bfwd w
  | sadd w => exact Laws.Codec.sadd w
  | scas w => exact Laws.Codec.scas w
  | smax w => exact Laws.Codec.smax w
  | sxch w => exact Laws.Codec.sxch w
  | srd w => exact Laws.Codec.srd w
  | swt w => exact Laws.Codec.swt w
  | inkq w => exact Laws.Codec.inkq w
  | inkr w => exact Laws.Codec.inkr w
  | trap w => exact Laws.Codec.trap w
  | tret w => exact Laws.Codec.tret w
  | csrr w => exact Laws.Codec.csrr w
  | csrw w => exact Laws.Codec.csrw w
  | tsc w => exact Laws.Codec.tsc w
  | parkBar w => exact Laws.Codec.parkBar w
  | parkSem w => exact Laws.Codec.parkSem w
  | parkMbx w => exact Laws.Codec.parkMbx w
  | parkInk w => exact Laws.Codec.parkInk w
  | yield w => exact Laws.Codec.yield w
  | lgo w => exact Laws.Codec.lgo w
  | lpatch w => exact Laws.Codec.lpatch w
  | qentLaunch w => exact Laws.Codec.qentLaunch w
  | qentCopy w => exact Laws.Codec.qentCopy w
  | qentSem w => exact Laws.Codec.qentSem w
  | qentHirq w => exact Laws.Codec.qentHirq w
  | mbxr w => exact Laws.Codec.mbxr w
  | mbxs w => exact Laws.Codec.mbxs w
  | hirq w => exact Laws.Codec.hirq w
  | preempt w => exact Laws.Codec.preempt w
  | proofStart w => exact Laws.Codec.proofStart w
  | proofAbort w => exact Laws.Codec.proofAbort w
  | sampm w => exact Laws.Codec.sampm w
  | vadd w => exact Laws.Codec.vadd w
  | vsub w => exact Laws.Codec.vsub w
  | vmul w => exact Laws.Codec.vmul w
  | vmulh w => exact Laws.Codec.vmulh w
  | vmad w => exact Laws.Codec.vmad w
  | vdot4 w => exact Laws.Codec.vdot4 w
  | vdot8 w => exact Laws.Codec.vdot8 w
  | vmin w => exact Laws.Codec.vmin w
  | vmax w => exact Laws.Codec.vmax w
  | vabs w => exact Laws.Codec.vabs w
  | vabsd w => exact Laws.Codec.vabsd w
  | vneg w => exact Laws.Codec.vneg w
  | vavg w => exact Laws.Codec.vavg w
  | vshl w => exact Laws.Codec.vshl w
  | vshr w => exact Laws.Codec.vshr w
  | vsra w => exact Laws.Codec.vsra w
  | vrsh w => exact Laws.Codec.vrsh w
  | vand w => exact Laws.Codec.vand w
  | vor w => exact Laws.Codec.vor w
  | vxor w => exact Laws.Codec.vxor w
  | vandn w => exact Laws.Codec.vandn w
  | vnot w => exact Laws.Codec.vnot w
  | vpopc w => exact Laws.Codec.vpopc w
  | vclz w => exact Laws.Codec.vclz w
  | vsel w => exact Laws.Codec.vsel w
  | vcmp w => exact Laws.Codec.vcmp w
  | vclamp w => exact Laws.Codec.vclamp w
  | vfadd w => exact Laws.Codec.vfadd w
  | vfsub w => exact Laws.Codec.vfsub w
  | vfmul w => exact Laws.Codec.vfmul w
  | vfma w => exact Laws.Codec.vfma w
  | vfms w => exact Laws.Codec.vfms w
  | vfnma w => exact Laws.Codec.vfnma w
  | vfmin w => exact Laws.Codec.vfmin w
  | vfmax w => exact Laws.Codec.vfmax w
  | vfabs w => exact Laws.Codec.vfabs w
  | vfneg w => exact Laws.Codec.vfneg w
  | vfcmp w => exact Laws.Codec.vfcmp w
  | vfclass w => exact Laws.Codec.vfclass w
  | vrcp w => exact Laws.Codec.vrcp w
  | vrsq w => exact Laws.Codec.vrsq w
  | vsqrt w => exact Laws.Codec.vsqrt w
  | vdiv w => exact Laws.Codec.vdiv w
  | vexp2 w => exact Laws.Codec.vexp2 w
  | vlog2 w => exact Laws.Codec.vlog2 w
  | vfscl w => exact Laws.Codec.vfscl w
  | vcvt w => exact Laws.Codec.vcvt w
  | vcvte w => exact Laws.Codec.vcvte w
  | vqmx w => exact Laws.Codec.vqmx w
  | vdqmx w => exact Laws.Codec.vdqmx w
  | vamax w => exact Laws.Codec.vamax w
  | eset w => exact Laws.Codec.eset w
  | esetImm w => exact Laws.Codec.esetImm w
  | eget w => exact Laws.Codec.eget w
  | vperm w => exact Laws.Codec.vperm w
  | vbcst w => exact Laws.Codec.vbcst w
  | vzip w => exact Laws.Codec.vzip w
  | vunzip w => exact Laws.Codec.vunzip w
  | vpack w => exact Laws.Codec.vpack w
  | vunpk w => exact Laws.Codec.vunpk w
  | vlsh w => exact Laws.Codec.vlsh w
  | vmov w => exact Laws.Codec.vmov w
  | vmovi w => exact Laws.Codec.vmovi w
  | vbf2 w => exact Laws.Codec.vbf2 w
  | vbf4 w => exact Laws.Codec.vbf4 w
  | vtwg w => exact Laws.Codec.vtwg w
  | vcmul w => exact Laws.Codec.vcmul w
  | vcmac w => exact Laws.Codec.vcmac w
  | vred w => exact Laws.Codec.vred w
  | vscan w => exact Laws.Codec.vscan w
  | vrsum w => exact Laws.Codec.vrsum w
  | kand w => exact Laws.Codec.kand w
  | kor w => exact Laws.Codec.kor w
  | kxor w => exact Laws.Codec.kxor w
  | knot w => exact Laws.Codec.knot w
  | ksetLt w => exact Laws.Codec.ksetLt w
  | ksetGe w => exact Laws.Codec.ksetGe w
  | ksetMod w => exact Laws.Codec.ksetMod w
  | kmov w => exact Laws.Codec.kmov w
  | kmovFromv w => exact Laws.Codec.kmovFromv w
  | kmovTov w => exact Laws.Codec.kmovTov w
  | loop w => exact Laws.Codec.loop w
  | loopr w => exact Laws.Codec.loopr w
  | xb w => exact Laws.Codec.xb w
  | xbk w => exact Laws.Codec.xbk w
  | xj w => exact Laws.Codec.xj w
  | xfin w => exact Laws.Codec.xfin w
  | vdead w => exact Laws.Codec.vdead w
  | vpush w => exact Laws.Codec.vpush w
  | lease w => exact Laws.Codec.lease w
  | lfree w => exact Laws.Codec.lfree w
  | mma w => exact Laws.Codec.mma w
  | mmaz w => exact Laws.Codec.mmaz w
  | mmb w => exact Laws.Codec.mmb w
  | mmi w => exact Laws.Codec.mmi w
  | mclr w => exact Laws.Codec.mclr w
  | mld w => exact Laws.Codec.mld w
  | mst w => exact Laws.Codec.mst w
  | madd w => exact Laws.Codec.madd w
  | mscl w => exact Laws.Codec.mscl w
  | mset w => exact Laws.Codec.mset w
  | minc w => exact Laws.Codec.minc w
  | mrep w => exact Laws.Codec.mrep w
  | mfence w => exact Laws.Codec.mfence w
  | mbarv w => exact Laws.Codec.mbarv w
  | mfin w => exact Laws.Codec.mfin w
  | mnop w => exact Laws.Codec.mnop w
  | _ =>
    intro sp h
    cases h

/-- Settles O44. -/
theorem encodeThenDecode : Obligations.EncodeThenDecode := decode_encode

/-! ## What a step keeps -/

/-- Whatever the turn says, a step passes from a state to one that keeps its canonical memory, a proper turn, and the tower. -/
theorem step_keeps {s t : State} (h : step s = .next t) : s.Keeps t := by
  unfold step at h
  split at h
  case h_1 =>
    cases h
    exact State.schedule_keeps s
  case h_2 ag ht => exact State.runTurn_next (t := .word ag) h
  case h_3 i a ht => exact State.runTurn_next (t := .event i a) h

/-- Settles O47. -/
theorem stepKeepsInv : Obligations.StepKeepsInv := by
  intro s t hs h
  obtain ⟨hmem, hturn⟩ := hs
  have hk := step_keeps h
  exact ⟨⟨hk.mem hmem, hk.turn hturn⟩, hk.tower⟩

/-! ## A step goes on -/

theorem settle_goesOn {s : State} {o : Host.Outcome State Fault Refusal} (h : goesOn o) : goesOn (s.settle o) := by
  cases o with
  | next u => trivial
  | fault f => exact h
  | refused r => exact h

theorem conflicted_goesOn {s : State} {i : Instr} {o : Host.Outcome State Fault Refusal} (h : goesOn o) :
    goesOn (s.conflicted i o) := by
  cases o with
  | next u =>
    unfold State.conflicted
    repeat' split
    all_goals trivial
  | fault f => exact h
  | refused r => exact h

theorem owns_goesOn {s : State} {o : Host.Outcome State Fault Refusal} (h : goesOn o) : goesOn (s.owns o) := by
  cases o with
  | next u =>
    unfold State.owns
    repeat' split
    all_goals trivial
  | fault f => exact h
  | refused r => exact h

/-- The action of PROOF that a register names is a word of the same stream. -/
theorem space_resolve (s : State) (i : Instr) : (s.resolve i).space = i.space := by
  unfold State.resolve
  split
  · split <;> rfl
  · rfl

/-- The stream whose words an agent issues. -/
def streamOfAgent : Agent → Stream
  | .rub => .a
  | .task _ st => st

/-- Who may run is there to act. -/
theorem acts_of_mayRun {s : State} {ag : Agent} (hc : s.cur = ag) (h : s.mayRun ag = true) : s.acts (streamOfAgent ag) = true := by
  cases ag with
  | rub => simp [State.acts, hc, streamOfAgent]
  | task id st =>
    cases ht : s.task? id with
    | none => simp [State.mayRun, ht] at h
    | some t => simp [State.acts, hc, streamOfAgent, ht]

/-- What an agent that acts decodes goes on. -/
theorem exec_goesOn {s : State} {i : Instr} (ha : s.acts (streamOfAgent s.cur) = true)
    (h : i.space = some (wordSpace s.cur.space)) : goesOn (exec i s) := by
  cases hc : s.cur with
  | rub =>
    rw [hc] at ha h
    exact exec_a_goesOn i s h ha
  | task id st =>
    rw [hc] at ha h
    cases st with
    | a => exact exec_a_goesOn i s h ha
    | x => exact exec_x_goesOn i s h ha
    | m => exact exec_m_goesOn i s h ha

theorem runBytes_goesOn {s : State} (bs : List Byte) (ha : s.acts (streamOfAgent s.cur) = true) : goesOn (s.runBytes bs) := by
  unfold State.runBytes
  split
  case h_1 i hi =>
    exact owns_goesOn (conflicted_goesOn (settle_goesOn (exec_goesOn ha ((space_resolve s i).trans (decode_space hi)))))
  case h_2 d hd => exact settle_goesOn trivial

theorem runWord_goesOn (s : State) (ag : Agent) : goesOn (s.runWord ag) := by
  unfold State.runWord
  dsimp only
  split
  case isTrue h =>
    rw [Bool.and_eq_true] at h
    split
    · exact runBytes_goesOn _ (acts_of_mayRun rfl h.1)
    · exact settle_goesOn trivial
  case isFalse h => trivial

/-- Settles O48. -/
theorem stepGoesOn : Obligations.StepGoesOn := by
  intro s hs
  unfold step
  split
  case h_1 ht => trivial
  case h_2 ag ht => exact runWord_goesOn s ag
  case h_3 i a ht =>
    rw [ht] at hs
    exact exec_event_goesOn i _ (Option.isNone_iff_eq_none.mp hs)

end Sys2Proof.Proofs
end

section
/-! PROOFS. The integer and address instructions of the A stream (R122 to R126). -/

namespace Sys2Proof.Proofs

open Sys2Proof Sys2Proof.Machine Sys2Proof.Claims

/-! ## What the forms of an integer word answer -/

section Forms

variable {w : AR} {s : State} {f : Word → Word → Word} {v : Word}

theorem alu2_next (h : Reads s [w.a, w.b]) (hv : f (s.reg w.a) (s.reg w.b) = v) :
    s.alu2 w f = .next (s.setReg w.d v).advance := by
  rw [State.alu2, State.aWord_next s _ _ h.acts h.ready, hv]
  rfl

theorem alu1_next {f : Word → Word} (h : Reads s [w.a]) : s.alu1 w f = .next (s.setReg w.d (f (s.reg w.a))).advance :=
  State.aWord_next s _ _ h.acts h.ready

theorem divide_next (h : Reads s [w.a, w.b]) (hb : s.reg w.b ≠ 0) (hv : f (s.reg w.a) (s.reg w.b) = v) :
    s.divide w f = .next (s.setReg w.d v).advance := by
  rw [State.divide, State.aWord_next s _ _ h.acts h.ready, decide_eq_true hb, hv]
  rfl

theorem divide_traps (h : Reads s [w.a, w.b]) (hb : s.reg w.b = 0) : s.divide w f = .next (s.takeTrap .divideZero 0) := by
  rw [State.divide, State.aWord_next s _ _ h.acts h.ready, decide_eq_false (fun hn => hn hb)]
  rfl

end Forms

/-! ## The values of the words of two registers (R123) -/

section Values

variable (a b : Word)

/-- A left shift, the bits that leave the register being lost; by 64 or more nothing is left. -/
theorem shiftLeft_eq_mul : (if b.toNat < 64 then a <<< b.toNat else 0) = BitVec.ofNat 64 (a.toNat * 2 ^ b.toNat) := by
  apply BitVec.eq_of_toNat_eq
  split
  case isTrue h => simp [Nat.shiftLeft_eq]
  case isFalse h =>
    have hdvd : 2 ^ 64 ∣ a.toNat * 2 ^ b.toNat := Nat.dvd_mul_left_of_dvd (Nat.pow_dvd_pow 2 (Nat.le_of_not_lt h)) _
    rw [BitVec.toNat_ofNat, Nat.mod_eq_zero_of_dvd hdvd]
    rfl

theorem shiftRight_eq_div : (if b.toNat < 64 then a >>> b.toNat else 0) = BitVec.ofNat 64 (a.toNat / 2 ^ b.toNat) := by
  apply BitVec.eq_of_toNat_eq
  rw [BitVec.toNat_ofNat, Nat.mod_eq_of_lt (Nat.lt_of_le_of_lt (Nat.div_le_self _ _) a.isLt)]
  split
  case isTrue h => rw [BitVec.toNat_ushiftRight, Nat.shiftRight_eq_div_pow]
  case isFalse h =>
    have ha : a.toNat < 2 ^ b.toNat := Nat.lt_of_lt_of_le a.isLt (Nat.pow_le_pow_right (by decide) (Nat.le_of_not_lt h))
    rw [Nat.div_eq_of_lt ha]
    rfl

theorem shiftArith_eq : shiftArith a b = BitVec.ofInt 64 (a.toInt / 2 ^ min b.toNat 63) := by
  rw [shiftArith, BitVec.sshiftRight, Int.shiftRight_eq_div_pow]
  norm_cast

theorem slt_ite {α : Sort _} (x y : α) : (if a.slt b then x else y) = if a.toInt < b.toInt then x else y := by
  simp only [BitVec.slt_iff_toInt_lt]

theorem ult_ite {α : Sort _} (x y : α) : (if a.ult b then x else y) = if a.toNat < b.toNat then x else y := by
  simp only [BitVec.ult_iff_toNat_lt]

theorem eq_ite : flag01 (decide (a = b)) = if a = b then 1 else 0 := by
  simp only [flag01, decide_eq_true_eq]

end Values

/-- Settles O1: each word is one of the form `State.alu2`, with the value of Table 5.3. -/
theorem twoRegisterResults : Obligations.TwoRegisterResults := by
  intro w s h a b
  refine ⟨?add, ?sub, ?mul, ?mulh, ?mulhn, ?and, ?or, ?xor, ?andn, ?shl, ?shr, ?sra, ?rol, ?ror, ?min, ?max, ?minn, ?maxn, ?slt, ?sltn, ?seq⟩
  case add => exact (alu2_next h rfl : execAdd w s = _)
  case sub => exact (alu2_next h rfl : execSub w s = _)
  case mul => exact (alu2_next h rfl : execMul w s = _)
  case mulh => exact (alu2_next h rfl : execMulh w s = _)
  case mulhn => exact (alu2_next h rfl : execMulhn w s = _)
  case and => exact (alu2_next h rfl : execAnd w s = _)
  case or => exact (alu2_next h rfl : execOr w s = _)
  case xor => exact (alu2_next h rfl : execXor w s = _)
  case andn => exact (alu2_next h rfl : execAndn w s = _)
  case shl => exact (alu2_next h (shiftLeft_eq_mul a b) : execShl w s = _)
  case shr => exact (alu2_next h (shiftRight_eq_div a b) : execShr w s = _)
  case sra => exact (alu2_next h (shiftArith_eq a b) : execSra w s = _)
  case rol => exact (alu2_next h rfl : execRol w s = _)
  case ror => exact (alu2_next h rfl : execRor w s = _)
  case min => exact (alu2_next h (slt_ite a b a b) : execMin w s = _)
  case max => exact (alu2_next h (slt_ite a b b a) : execMax w s = _)
  case minn => exact (alu2_next h (ult_ite a b a b) : execMinn w s = _)
  case maxn => exact (alu2_next h (ult_ite a b b a) : execMaxn w s = _)
  case slt => exact (alu2_next h (slt_ite a b 1 0) : execSlt w s = _)
  case sltn => exact (alu2_next h (ult_ite a b 1 0) : execSltn w s = _)
  case seq => exact (alu2_next h (eq_ite a b) : execSeq w s = _)

/-- Settles O2. ADDS clamps as `exec_adds` says; its flag is raised exactly where the sum lies out of range. -/
theorem oneRegisterResults : Obligations.OneRegisterResults := by
  intro r w s
  refine ⟨fun h => ⟨?clz, ?ctz, ?popc⟩, fun h => ?sel, fun h => ?li, fun h => ⟨?addi, ?bfx⟩, fun h => ?bfi, fun h => ?adds⟩
  case clz => exact (alu1_next h : execClz r s = _)
  case ctz => exact (alu1_next h : execCtz r s = _)
  case popc => exact (alu1_next h : execPopc r s = _)
  case sel => exact (State.aWord_next s _ _ h.acts h.ready : execSel r s = _)
  case li => exact (State.aWord_next s _ _ h.acts h.ready : execLi w s = _)
  case addi => exact (State.aWord_next s _ _ h.acts h.ready : execAddi w s = _)
  case bfx => exact (State.aWord_next s _ _ h.acts h.ready : execBfx w s = _)
  case bfi => exact (State.aWord_next s _ _ h.acts h.ready : execBfi w s = _)
  case adds =>
    intro v
    have hflag : (if max (-2 ^ 63) (min (2 ^ 63 - 1) v) = v then (0 : Flags) else 32) =
        if v < -2 ^ 63 ∨ 2 ^ 63 - 1 < v then 32 else 0 := by
      by_cases hv : v < -2 ^ 63 ∨ 2 ^ 63 - 1 < v
      · rw [if_pos hv, if_neg (by omega)]
      · rw [if_neg hv, if_pos (by omega)]
    exact (exec_adds r h).trans (by rw [hflag]; rfl)

/-! ## Counts (Table 5.3) -/

theorem popcBelow_eq_length (a n : Nat) : popcBelow a n = ((List.range n).filter (fun i => a.testBit i)).length := by
  induction n with
  | zero => rfl
  | succ n ih =>
    rw [List.range_succ, List.filter_append, List.length_append, popcBelow, ih, Nat.add_comm]
    congr 1
    rw [← Nat.toNat_testBit]
    cases hb : a.testBit n <;> simp [hb]

theorem clz64_spec (a : Word) :
    clz64 a ≤ 64 ∧ (∀ i < clz64 a, a.getLsbD (63 - i) = false) ∧ (clz64 a < 64 → a.getLsbD (63 - clz64 a) = true) := by
  unfold clz64
  by_cases ha : a = 0
  · simp [ha]
  · have hn : a.toNat ≠ 0 := fun h => ha (BitVec.eq_of_toNat_eq h)
    have hlog : Nat.log2 a.toNat < 64 := (Nat.log2_lt hn).mpr a.isLt
    rw [if_neg ha]
    refine ⟨by omega, fun i hi => ?_, fun _ => ?_⟩
    · have hlt : a.toNat < 2 ^ (63 - i) := Nat.lt_of_lt_of_le Nat.lt_log2_self (Nat.pow_le_pow_right (by decide) (by omega))
      exact Nat.testBit_lt_two_pow hlt
    · rw [show 63 - (63 - Nat.log2 a.toNat) = Nat.log2 a.toNat by omega]
      exact Nat.testBit_log2 hn

/-- Counting from bit `64 − n` up: the bits passed over are zero, and the one after them is one. -/
theorem ctzFrom_spec (a : Word) {n : Nat} (hn : n ≤ 64) :
    ctzFrom a n ≤ n ∧ (∀ i < ctzFrom a n, a.getLsbD (64 - n + i) = false) ∧
      (ctzFrom a n < n → a.getLsbD (64 - n + ctzFrom a n) = true) := by
  induction n with
  | zero => simp [ctzFrom]
  | succ n ih =>
    obtain ⟨hle, hzero, hone⟩ := ih (by omega)
    have hpos : 64 - (n + 1) = 63 - n := by omega
    have hnext : ∀ i, 63 - n + (1 + i) = 64 - n + i := by omega
    rw [ctzFrom, hpos]
    cases hb : a.getLsbD (63 - n) with
    | true => exact ⟨Nat.zero_le _, fun i hi => absurd hi (Nat.not_lt_zero i), fun _ => hb⟩
    | false =>
      refine ⟨by simp; omega, fun i hi => ?_, fun h => ?_⟩
      · cases i with
        | zero => exact hb
        | succ i =>
          rw [Nat.add_comm i 1, hnext]
          exact hzero i (by simp at hi; omega)
      · simp only [Bool.false_eq_true, if_false] at h ⊢
        rw [hnext]
        exact hone (by omega)

theorem countsByBits : CountsByBits := by
  intro a
  refine ⟨clz64_spec a, ?ctz, ?popc⟩
  case ctz => simpa [ctz64] using ctzFrom_spec a (Nat.le_refl 64)
  case popc => exact popcBelow_eq_length a.toNat 64

/-! ## Bit fields (R126) -/

/-- The bits of a number read as signed: its own below the width, copies of its highest from there on. -/
theorem testBit_word_signed {width : Nat} (hw : 1 ≤ width) (hw64 : width ≤ 64) (f : Nat) {i : Nat} (hi : i < 64) :
    (word (signed width f)).getLsbD i = if i < width then f.testBit i else f.testBit (width - 1) := by
  have hx : word (signed width f) = (BitVec.ofNat width f).signExtend 64 := by
    rw [BitVec.signExtend, word, BitVec.toInt_eq_toNat_cond, BitVec.toNat_ofNat, signed]
    have hpow : 2 ^ width = 2 * 2 ^ (width - 1) := by rw [← Nat.pow_succ']; congr 1; omega
    congr 1
    by_cases h : f % 2 ^ width < 2 ^ (width - 1)
    · rw [if_pos h, if_pos (by omega)]
    · rw [if_neg h, if_neg (by omega)]
  rw [hx, BitVec.getLsbD_signExtend, decide_eq_true hi, Bool.true_and]
  by_cases h : i < width
  · rw [if_pos h, if_pos h, BitVec.getLsbD_ofNat, decide_eq_true h, Bool.true_and]
  · rw [if_neg h, if_neg h, BitVec.msb_eq_getLsbD_last, BitVec.getLsbD_ofNat, decide_eq_true (by omega), Bool.true_and]

theorem getLsbD_bfx {imm a : Word} {i : Nat} (hw : 1 ≤ imm.toNat % 128) (hfit : imm.toNat % 128 + imm.toNat / 256 % 64 ≤ 64)
    (hi : i < 64) :
    (bfx imm a).getLsbD i = if i < imm.toNat % 128 then a.getLsbD (imm.toNat / 256 % 64 + i)
      else imm.getLsbD 16 && a.getLsbD (imm.toNat / 256 % 64 + imm.toNat % 128 - 1) := by
  have hwidth : bits imm.toNat 0 7 = imm.toNat % 128 := by simp [bits]
  have hpos : bits imm.toNat 8 6 = imm.toNat / 256 % 64 := rfl
  rw [bfx, hwidth, hpos]
  generalize imm.toNat % 128 = width at *
  generalize imm.toNat / 256 % 64 = pos at *
  have hfield : ∀ j, (a.toNat / 2 ^ pos % 2 ^ width).testBit j = (decide (j < width) && a.getLsbD (pos + j)) := by
    intro j
    rw [Nat.testBit_mod_two_pow, Nat.testBit_div_two_pow, Nat.add_comm]
    rfl
  cases h16 : imm.getLsbD 16 with
  | true =>
    rw [if_pos rfl, testBit_word_signed hw (by omega) _ hi, hfield, hfield]
    by_cases h : i < width
    · simp [h]
    · have hlast : pos + (width - 1) = pos + width - 1 := by omega
      simp [h, hlast]; omega
  | false =>
    rw [if_neg (by decide), BitVec.getLsbD_ofNat, hfield]
    by_cases h : i < width <;> simp [h, hi]

theorem getLsbD_bfi {imm old a : Word} {i : Nat} (hi : i < 64) :
    (bfi imm old a).getLsbD i =
      if imm.toNat / 256 % 64 ≤ i ∧ i < imm.toNat / 256 % 64 + imm.toNat % 128 then a.getLsbD (i - imm.toNat / 256 % 64)
      else old.getLsbD i := by
  have hwidth : bits imm.toNat 0 7 = imm.toNat % 128 := by simp [bits]
  have hpos : bits imm.toNat 8 6 = imm.toNat / 256 % 64 := rfl
  rw [bfi, hwidth, hpos]
  generalize imm.toNat % 128 = width at *
  generalize imm.toNat / 256 % 64 = pos at *
  simp only [BitVec.getLsbD_or, BitVec.getLsbD_and, BitVec.getLsbD_not, BitVec.getLsbD_ofNat, Nat.testBit_mul_two_pow,
    Nat.testBit_two_pow_sub_one, Nat.testBit_mod_two_pow, hi, decide_true, Bool.true_and]
  by_cases hlow : pos ≤ i
  · by_cases hhigh : i - pos < width
    · have hin : i < pos + width := by omega
      simp [hlow, hhigh, hin]; rfl
    · have hout : ¬i < pos + width := by omega
      simp [hlow, hhigh, hout]
  · simp [hlow]

theorem bitFields : BitFields := by
  intro imm old a i hfit hw hi
  exact ⟨getLsbD_bfx hw hfit hi, getLsbD_bfi hi⟩

/-- Settles O3. -/
theorem countsAndBitFields : Obligations.CountsAndBitFields := ⟨countsByBits, bitFields⟩

/-! ## Divisions (R124) -/

/-- A quotient rounded towards zero, by its sign and its magnitude. -/
theorem tdiv_eq_sign_mul (a b : Int) : a.tdiv b = Int.sign (a * b) * ((a.natAbs / b.natAbs : Nat) : Int) := by
  have hmag : (a.natAbs : Int).tdiv b.natAbs = ((a.natAbs / b.natAbs : Nat) : Int) := rfl
  conv => lhs; rw [← Int.sign_mul_natAbs a, ← Int.sign_mul_natAbs b]
  rw [Int.sign_mul, ← hmag]
  rcases Int.sign_trichotomy a with ha | ha | ha <;> rcases Int.sign_trichotomy b with hb | hb | hb <;>
    simp [ha, hb, Int.neg_tdiv, Int.tdiv_neg]

/-- Settles O4: each word is one of the form `State.divide`. -/
theorem divisions : Obligations.Divisions := by
  intro w s h a b
  constructor
  case left =>
    intro hb
    exact ⟨(divide_traps h hb : execDiv w s = _), (divide_traps h hb : execDivn w s = _), (divide_traps h hb : execRem w s = _),
      (divide_traps h hb : execRemn w s = _)⟩
  case right =>
    intro hb q
    have hq : a.toInt.tdiv b.toInt = q := tdiv_eq_sign_mul _ _
    have hrem : a.toInt.tmod b.toInt = a.toInt - q * b.toInt := by rw [Int.tmod_def, hq, Int.mul_comm]
    have hremn : a.toNat % b.toNat = a.toNat - a.toNat / b.toNat * b.toNat := by rw [Nat.mod_eq_sub, Nat.mul_comm]
    exact ⟨(divide_next h hb (congrArg word hq) : execDiv w s = _), (divide_next h hb (congrArg word hrem) : execRem w s = _),
      (divide_next h hb rfl : execDivn w s = _), (divide_next h hb (congrArg (BitVec.ofNat 64) hremn) : execRemn w s = _)⟩

end Sys2Proof.Proofs
end

section
/-! PROOFS. How a word of the A stream ends, and the control instructions (R127 to R134, R178, R182, R186). -/

namespace Sys2Proof.Proofs

open Sys2Proof Sys2Proof.Machine Sys2Proof.Claims

/-! ## How a word of the A stream ends

It completes, traps or waits as its body answers, once the registers it reads are ready. -/

section Ends

variable {s u : State} {ns : List (BitVec 6)} {c : Cause} {va : Nat}

section Anyone

variable {f : State → Try State}

theorem aWord_completes (h : Reads s ns) (hf : f s = .ok u) : s.aWord ns f = .next u := by
  rw [State.aWord_next s _ _ h.acts h.ready, hf]
  rfl

theorem aWord_traps (h : Reads s ns) (hf : f s = .error (.trap c va)) : s.aWord ns f = .next (s.takeTrap c va) := by
  rw [State.aWord_next s _ _ h.acts h.ready, hf]
  rfl

theorem aWord_waits (h : Reads s ns) (hf : f s = .error .hold) : s.aWord ns f = .next s.held := by
  rw [State.aWord_next s _ _ h.acts h.ready, hf]
  rfl

theorem aWord_pends (h : Reads s ns) (hf : f s = .error (.pend u)) : s.aWord ns f = .next u.held := by
  rw [State.aWord_next s _ _ h.acts h.ready, hf]
  rfl

end Anyone

section OfATask

variable {f : State → Nat → Task → Try State} {id : Nat} {t : Task}

theorem taskWord_completes (h : OnTask s id t ns) (hf : f s id t = .ok u) : s.taskWord ns f = .next u := by
  rw [State.taskWord_next s _ _ h.cur h.there h.ready, hf]
  rfl

theorem taskWord_traps (h : OnTask s id t ns) (hf : f s id t = .error (.trap c va)) :
    s.taskWord ns f = .next (s.takeTrap c va) := by
  rw [State.taskWord_next s _ _ h.cur h.there h.ready, hf]
  rfl

theorem taskWord_waits (h : OnTask s id t ns) (hf : f s id t = .error .hold) : s.taskWord ns f = .next s.held := by
  rw [State.taskWord_next s _ _ h.cur h.there h.ready, hf]
  rfl

theorem taskWord_pends (h : OnTask s id t ns) (hf : f s id t = .error (.pend u)) : s.taskWord ns f = .next u.held := by
  rw [State.taskWord_next s _ _ h.cur h.there h.ready, hf]
  rfl

end OfATask

end Ends

/-- Outside a handler a task may issue every word. -/
theorem notInHandler_of_none {t : Task} (h : t.handler = none) : t.notInHandler = .ok () := by
  simp [Task.notInHandler, Task.inHandler, h]

theorem notInHandler_of_some {t : Task} (h : t.handler ≠ none) : t.notInHandler = .error (.trap .access 0) := by
  simp [Task.notInHandler, Task.inHandler, Option.isSome_iff_ne_none.mpr h]

/-! ## Jumps and branches (R80, R127 to R129) -/

/-- How a word ends whose target is `p`, what `u` has written standing. -/
theorem finish_jump (s u : State) (p : Parcel) :
    s.finish (u.jump p) = if u.gotoOk p then u.goto p else u.takeTrap .sectionFormat 0 := by
  unfold State.jump
  split <;> rfl

section Jumps

variable {s : State}

theorem exec_j (w : AB) (h : Reads s []) : exec (.j w) s = .next (s.finish (s.jump (s.branchTarget w.off))) :=
  (State.aWord_next s _ _ h.acts h.ready : execJ w s = _)

theorem exec_jal (w : AB) (h : Reads s []) :
    exec (.jal w) s = .next (s.finish ((s.setReg w.a ((s.pc + 3).setWidth 64)).jump (s.branchTarget w.off))) :=
  (State.aWord_next s _ _ h.acts h.ready : execJal w s = _)

theorem exec_b (w : AB) (h : Reads s [w.a, w.b]) :
    exec (.b w) s = .next (if condHolds w.cc (s.reg w.a) (s.reg w.b) then s.finish (s.jump (s.branchTarget w.off)) else s.advance) := by
  rw [show exec (.b w) s = _ from (State.aWord_next s _ _ h.acts h.ready : execB w s = _)]
  cases condHolds w.cc (s.reg w.a) (s.reg w.b) <;> rfl

theorem jr_traps (r : AR) (h : Reads s [r.a]) (hr : 2 ^ 50 ≤ (s.reg r.a).toNat) : Traps (.jr r) s .misaligned 0 := by
  have hn : ¬(s.reg r.a).toNat < 2 ^ 50 := Nat.not_lt.mpr hr
  refine (aWord_traps h ?_ : execJr r s = _)
  simp only [hn, decide_false, require_false, Try.error_bind]

theorem exec_jr (r : AR) (h : Reads s [r.a]) (hr : (s.reg r.a).toNat < 2 ^ 50) :
    exec (.jr r) s = .next (s.finish ((s.setReg r.d ((s.pc + 3).setWidth 64)).jump ((s.reg r.a).setWidth 50))) := by
  rw [show exec (.jr r) s = _ from (State.aWord_next s _ _ h.acts h.ready : execJr r s = _)]
  simp only [hr, decide_true, require_true, Try.ok_bind]

end Jumps

theorem branches : Branches := by
  intro w r s p link
  refine ⟨fun h => ⟨fun hg => ?_, fun hg => ?_, fun hg => ?_, fun hg => ?_⟩,
    fun h => ⟨fun hc => ?_, fun hc hg => ?_, fun hc hg => ?_⟩, fun h => ⟨jr_traps r h, fun hr hg => ?_, fun hr hg => ?_⟩⟩
  · rw [exec_j w h, finish_jump]; exact congrArg _ (if_pos hg)
  · rw [Traps, exec_j w h, finish_jump]; exact congrArg _ (if_neg (Bool.eq_false_iff.mp hg))
  · rw [exec_jal w h, finish_jump]; exact congrArg _ (if_pos hg)
  · rw [exec_jal w h, finish_jump]; exact congrArg _ (if_neg (Bool.eq_false_iff.mp hg))
  · rw [exec_b w h, if_neg (Bool.eq_false_iff.mp hc)]
  · rw [exec_b w h, if_pos hc, finish_jump]; exact congrArg _ (if_pos hg)
  · rw [Traps, exec_b w h, if_pos hc, finish_jump]; exact congrArg _ (if_neg (Bool.eq_false_iff.mp hg))
  · rw [exec_jr r h hr, finish_jump]; exact congrArg _ (if_pos hg)
  · rw [exec_jr r h hr, finish_jump]; exact congrArg _ (if_neg (Bool.eq_false_iff.mp hg))

theorem conditions : Conditions := by
  intro a b
  refine ⟨?_, ?_, ?_, ?_, ?_, ?_⟩
  · simp [condHolds]
  · simp [condHolds]
  · simp [condHolds, BitVec.slt_iff_toInt_lt]
  · simp [condHolds, BitVec.slt_eq_decide]
  · simp [condHolds, BitVec.ult_iff_toNat_lt]
  · simp [condHolds, BitVec.ult_eq_decide]

/-- Settles O5. -/
theorem branchesAndConditions : Obligations.BranchesAndConditions := ⟨branches, conditions⟩

/-! ## BQP, FIN, YIELD, TSC and HIRQ (R131, R132, R178, R182, R186) -/

section Bqp

variable {w : AB} {s : State} {id : Nat} {t : Task}

theorem bqp_pushes (h : OnTask s id t [w.a, w.b]) (hh : t.handler = none) (hx : t.sx.present = true) (hl : t.bq.length < 64) :
    exec (.bqp w) s = .next (s.setTask id { t with bq := t.bq ++ [condHolds w.cc (s.reg w.a) (s.reg w.b)] }).advance := by
  refine (taskWord_completes h ?_ : execBqp w s = _)
  simp only [notInHandler_of_none hh, hx, require_true, Try.ok_bind, if_neg (Nat.not_le.mpr hl)]

theorem bqp_waits (h : OnTask s id t [w.a, w.b]) (hh : t.handler = none) (hx : t.sx.present = true) (hl : 64 ≤ t.bq.length)
    (hp : t.sx.phase ≠ .ended) : Waits (.bqp w) s := by
  refine (taskWord_waits h ?_ : execBqp w s = _)
  simp only [notInHandler_of_none hh, hx, require_true, Try.ok_bind, if_pos hl, decide_eq_true hp]

/-- R131: with the X stream ended or absent nothing will ever pop the queue. -/
theorem bqp_traps (h : OnTask s id t [w.a, w.b]) (hh : t.handler = none)
    (hx : t.sx.present = false ∨ t.sx.present = true ∧ 64 ≤ t.bq.length ∧ t.sx.phase = .ended) :
    Traps (.bqp w) s .queueProtocol 0 := by
  refine (taskWord_traps h ?_ : execBqp w s = _)
  rcases hx with hx | ⟨hx, hl, hp⟩
  · simp only [notInHandler_of_none hh, hx, require_false, Try.ok_bind, Try.error_bind]
  · simp only [notInHandler_of_none hh, hx, require_true, require_false, Try.ok_bind, Try.error_bind, if_pos hl,
      decide_eq_false (not_not_intro hp)]

end Bqp

section Streams

variable {s : State} {id : Nat} {t : Task}

theorem exec_fin (r : AR) (h : OnTask s id t []) (hh : t.handler = none) :
    exec (.fin r) s = .next (s.setTask id { t with sa := t.sa.finish }) := by
  refine (taskWord_completes h ?_ : execFin r s = _)
  rw [notInHandler_of_none hh, Try.ok_bind]

theorem exec_yield (q : AS) (h : OnTask s id t []) (hh : t.handler = none) :
    exec (.yield q) s = .next (if t.yields then s.advance.onTask id (fun t => { t with sa := { t.sa with stopped := true } })
      else s.advance) := by
  refine (taskWord_completes h ?_ : execYield q s = _)
  rw [notInHandler_of_none hh, Try.ok_bind]

theorem fin_traps_in_handler (r : AR) (h : OnTask s id t []) (hh : t.handler ≠ none) : Traps (.fin r) s .access 0 := by
  refine (taskWord_traps h ?_ : execFin r s = _)
  rw [notInHandler_of_some hh, Try.error_bind]

theorem yield_traps_in_handler (q : AS) (h : OnTask s id t []) (hh : t.handler ≠ none) : Traps (.yield q) s .access 0 := by
  refine (taskWord_traps h ?_ : execYield q s = _)
  rw [notInHandler_of_some hh, Try.error_bind]

end Streams

/-- Settles O6. -/
theorem controlWords : Obligations.ControlWords := by
  intro w r q s id t
  refine ⟨fun h hh => ⟨bqp_pushes h hh, bqp_waits h hh, ?ended, ?absent⟩, fun h => ⟨exec_fin r h, ?stays, ?stops, ?handler⟩,
    fun h => ⟨exec_nop r h, ?tsc, ?hirq⟩⟩
  case ended => exact fun hx hl hp => bqp_traps h hh (.inr ⟨hx, hl, hp⟩)
  case absent => exact fun hx => bqp_traps h hh (.inl hx)
  case stays =>
    intro hh hy
    rw [exec_yield q h hh, hy]
    rfl
  case stops =>
    intro hh hy
    rw [exec_yield q h hh, hy]
    rfl
  case handler => exact fun hh => ⟨fin_traps_in_handler r h hh, yield_traps_in_handler q h hh⟩
  case tsc => exact (aWord_completes h rfl : execTsc q s = _)
  case hirq => exact (aWord_completes h rfl : execHirq q s = _)

end Sys2Proof.Proofs
end

section
/-! PROOFS. The A registers (R14), memory as it was written and as a viewer that lags sees it (R9, R313, R314), and the state after
reset. -/

namespace Sys2Proof.Proofs

open Sys2Proof Sys2Proof.Machine Sys2Proof.Claims

/-! ## The A registers (R14) -/

theorem reg_setReg {s : State} (h : s.acts .a = true) (n m : BitVec 6) (v : Word) :
    (s.setReg n v).reg m = if m = n ∧ n ≠ 0 then v else s.reg m := by
  obtain hc | ⟨id, t, hc, ht⟩ := acts_a_cases h
  · exact State.reg_setReg_rub s n m v hc
  · exact State.reg_setReg_task s n m v hc ht

theorem reg_setReg_ne {s : State} (h : s.acts .a = true) {n m : BitVec 6} (v : Word) (hm : m ≠ n) :
    (s.setReg n v).reg m = s.reg m := by
  rw [reg_setReg h, if_neg (fun hmn => hm hmn.1)]

theorem task_setReg_zero (t : Task) (v : Word) : t.setReg 0 v = t := rfl

/-- A change that changes nothing leaves the array. -/
theorem adjust_id {α : Type} (k : Nat) {f : α → α} (hf : ∀ v, f v = v) (m : SMap α) : SMap.adjust k f m = m := by
  induction m with
  | nil => rfl
  | cons e rest ih =>
    obtain ⟨j, u⟩ := e
    unfold SMap.adjust
    split
    · rw [hf]
    · rw [ih]

/-- What is written to `a0` is discarded. -/
theorem setReg_zero (s : State) (v : Word) : s.setReg 0 v = s := by
  cases hc : s.cur with
  | rub => exact State.setReg_zero_rub s v hc
  | task id st =>
    rw [setReg_of_task hc]
    exact congrArg (fun m => { s with tasks := m }) (adjust_id id (task_setReg_zero · v) s.tasks)

/-- A change of one task leaves every other. -/
theorem task?_onTask_ne {s : State} {id j : Nat} (f : Task → Task) (hj : j ≠ id) : (s.onTask id f).task? j = s.task? j :=
  SMap.find?_adjust_ne id j f s.tasks hj

/-- Settles O50. -/
theorem registerFile : Obligations.RegisterFile := by
  intro s n m v h u
  refine ⟨rfl, fun hn => ?_, reg_setReg_ne h v, fun hn => ?_, State.setReg_eq s n v, fun id st hc => ⟨?rub, fun j hj => ?other, fun t ht => ?own⟩, fun hc => ⟨?tasks, ?regs⟩⟩
  · exact (reg_setReg_self h n v).trans (if_neg hn)
  · subst hn
    exact ⟨congrArg State.tasks (setReg_zero s v), congrArg State.rub (setReg_zero s v)⟩
  case rub =>
    show (s.setReg n v).rub = s.rub
    rw [setReg_of_task hc]
    rfl
  case other => exact (congrArg (·.task? j) (setReg_of_task hc n v)).trans (task?_onTask_ne _ hj)
  case own =>
    have hown : u.task? id = some (t.setReg n v) :=
      (congrArg (·.task? id) (setReg_of_task hc n v)).trans (task?_onTask_self ht)
    exact ⟨_, _, hown.trans (congrArg some (task_setReg_eq t n v))⟩
  case tasks =>
    show (s.setReg n v).tasks = s.tasks
    rw [setReg_of_rub hc]
  case regs =>
    have hown : u.rub = s.rub.setReg n v := congrArg State.rub (setReg_of_rub hc n v)
    exact ⟨_, _, hown.trans (rub_setReg_eq s.rub n v)⟩

/-! ## Memory as it was written (R9) -/

theorem length_leBytes (n v : Nat) : (leBytes n v).length = n := by
  induction n generalizing v with
  | zero => rfl
  | succ n ih => rw [leBytes, List.length_cons, ih]

theorem getD_leBytes {n i : Nat} (v : Nat) (hi : i < n) : (leBytes n v).getD i 0 = BitVec.ofNat 8 (v / 256 ^ i) := by
  induction n generalizing v i with
  | zero => exact absurd hi (Nat.not_lt_zero i)
  | succ n ih =>
    cases i with
    | zero => simp [leBytes]
    | succ i => rw [leBytes, List.getD_cons_succ, ih (v / 256) (Nat.lt_of_succ_lt_succ hi), Nat.div_div_eq_div_mul, Nat.pow_succ']

theorem leNat_leBytes (n v : Nat) : leNat (leBytes n v) = v % 256 ^ n := by
  induction n generalizing v with
  | zero => simp [leBytes, leNat, Nat.mod_one]
  | succ n ih => rw [leBytes, leNat, ih, BitVec.toNat_ofNat, Nat.pow_succ' (m := 256), Nat.mod_mul]

/-- Bytes written read back as written. -/
theorem bytes_setBytes (s : State) (a : Nat) (bs : List Byte) : (s.setBytes a bs).bytes a bs.length = bs := by
  refine List.ext_getElem (by simp [State.bytes]) (fun i _ hi => ?_)
  simp [State.bytes, State.byte_setBytes_in s a i bs hi, hi]

theorem bytesAsWritten : BytesAsWritten := by
  intro s a n v u
  have hlen := length_leBytes n v
  refine ⟨?back, hlen, fun c hc => ?other, fun hs => ?form, fun i hi => ?each⟩
  case back =>
    have hbytes : u.bytes a n = leBytes n v := by
      have := bytes_setBytes s a (leBytes n v)
      rwa [hlen] at this
    rw [hbytes, leNat_leBytes]
  case other => exact State.byte_setBytes_out s a c _ (by rwa [hlen])
  case form => exact (State.setBytes_keeps s a _ (State.Keeps.refl s)).mem hs
  case each => exact (State.byte_setBytes_in s a i _ (hlen.symm ▸ hi)).trans (getD_leBytes v hi)

/-! ## Lags (R314) -/

theorem length_version {g : Lag} (hg : LagOk g) (p : Nat) : (g.version p).length = 8 := by
  obtain ⟨hbase, -, hlater, -⟩ := hg
  unfold Lag.version
  cases hw : (g.later.take p).getLast? with
  | none => exact hbase
  | some w => exact hlater w (List.mem_of_mem_take (List.mem_of_getLast? hw))

/-- Writes that the viewer has not seen do not show. -/
theorem version_append (g : Lag) (ws : List Later) {p : Nat} (hp : p ≤ g.later.length) :
    ({ g with later := g.later ++ ws } : Lag).version p = g.version p := by
  unfold Lag.version
  rw [List.take_append_of_le_length hp]

theorem foldl_max_le {ps : List Nat} {a b : Nat} (ha : a ≤ b) (hps : ∀ p ∈ ps, p ≤ b) : ps.foldl max a ≤ b := by
  induction ps generalizing a with
  | nil => exact ha
  | cons p ps ih =>
    exact ih (Nat.max_le.mpr ⟨ha, hps p List.mem_cons_self⟩) (fun q hq => hps q (List.mem_cons_of_mem p hq))

/-- Of no element more writes have been seen than there are. -/
theorem at_le {g : Lag} (hg : LagOk g) (i n : Nat) : g.at i n ≤ g.later.length :=
  foldl_max_le (Nat.zero_le _) (fun p hp => hg.2.2.2 p (List.mem_of_mem_drop (List.mem_of_mem_take hp)))

theorem countTo_le (p : Later → Bool) (ws : List Later) : countTo p ws ≤ ws.length := Nat.sub_le _ _

/-- What replaces the positions of a lag by no more than its writes keeps it well-formed. -/
theorem lagOk_setPos {g : Lag} (hg : LagOk g) {ps : List Nat} (hlen : ps.length = 8) (hps : ∀ p ∈ ps, p ≤ g.later.length) :
    LagOk { g with pos := ps } := ⟨hg.1, hlen, hg.2.2.1, hps⟩

theorem lagOk_reach {g : Lag} (hg : LagOk g) (p : Later → Nat → Bool) : LagOk (g.reach p) := by
  refine lagOk_setPos hg (by simpa using hg.2.1) (fun q hq => ?_)
  obtain ⟨⟨x, i⟩, he, rfl⟩ := List.mem_map.mp hq
  exact Nat.max_le.mpr ⟨hg.2.2.2 x (List.fst_mem_of_mem_zipIdx he), countTo_le _ _⟩

theorem lagOk_see {g : Lag} (hg : LagOk g) (i m n : Nat) : LagOk (g.see i m n) := by
  refine lagOk_setPos hg (by simpa using hg.2.1) (fun q hq => ?_)
  obtain ⟨⟨x, j⟩, he, rfl⟩ := List.mem_map.mp hq
  have hx := hg.2.2.2 x (List.fst_mem_of_mem_zipIdx he)
  dsimp only
  split
  · exact Nat.max_le.mpr ⟨hx, Nat.min_le_left _ _⟩
  · exact hx

theorem lagOk_trim {g u : Lag} (hg : LagOk g) (hu : g.trim = some u) : LagOk u := by
  unfold Lag.trim at hu
  dsimp only at hu
  split at hu
  · exact absurd hu (by simp)
  · obtain rfl := Option.some.inj hu
    refine ⟨length_version hg _, (List.length_map _).trans hg.2.1, fun w hw => hg.2.2.1 w (List.mem_of_mem_drop hw), fun p hp => ?_⟩
    obtain ⟨q, hq, rfl⟩ := List.mem_map.mp hp
    rw [List.length_drop]
    exact Nat.sub_le_sub_right (hg.2.2.2 q hq) _

theorem lags_tidy (o : Order) : o.tidy.lags = o.lags := by
  unfold Order.tidy
  split <;> rfl

theorem lagOk_of_mem_reach {o : Order} (ho : ∀ g ∈ o.lags, LagOk g) (p : Lag → Later → Nat → Bool) :
    ∀ g ∈ (o.reach p).lags, LagOk g := by
  intro g hg
  unfold Order.reach at hg
  split at hg
  · exact ho g hg
  · rw [lags_tidy] at hg
    obtain ⟨h, hh, hgh⟩ := List.mem_filterMap.mp hg
    exact lagOk_trim (lagOk_reach (ho h hh) _) hgh

/-- A write to the doubleword of a lag follows those it knows. -/
theorem lagOk_note {g : Lag} (hg : LagOk g) {w : Later} (hw : w.bytes.length = 8) : LagOk { g with later := g.later ++ [w] } := by
  obtain ⟨hbase, hpos, hlater, hle⟩ := hg
  refine ⟨hbase, hpos, fun x hx => ?_, fun p hp => ?_⟩
  · obtain hx | hx := List.mem_append.mp hx
    · exact hlater x hx
    · exact List.mem_singleton.mp hx ▸ hw
  · exact Nat.le_trans (hle p hp) (by simp)

theorem lagsKept : LagsKept := by
  intro o ho
  refine ⟨fun k i n bs hbs g hg => ?note, lagOk_of_mem_reach ho, fun who k bs hbs g hg => ?lag, fun who a m n g hg => ?see,
    fun v w g hg => ?clone⟩
  case note =>
    unfold Order.note at hg
    split at hg
    · obtain ⟨h, hh, rfl⟩ := List.mem_map.mp hg
      split
      · exact lagOk_note (ho h hh) hbs
      · exact ho h hh
    · exact ho g hg
  case lag =>
    unfold Order.lag at hg
    split at hg
    · exact ho g hg
    · obtain hg | hg := List.mem_append.mp hg
      · exact ho g hg
      · obtain rfl := List.mem_singleton.mp hg
        exact ⟨hbs, rfl, by simp, fun p hp => Nat.le_of_eq (List.eq_of_mem_replicate hp)⟩
  case see =>
    unfold Order.see at hg
    rw [lags_tidy] at hg
    obtain ⟨h, hh, hgh⟩ := List.mem_filterMap.mp hg
    split at hgh
    · exact lagOk_trim (lagOk_see (ho h hh) _ _ _) hgh
    · exact Option.some.inj hgh ▸ ho h hh
  case clone =>
    unfold Order.clone at hg
    split at hg
    · exact ho g hg
    · rw [lags_tidy] at hg
      obtain hg | hg := List.mem_append.mp hg
      · exact ho g ((List.mem_filter.mp hg).1)
      · obtain ⟨h, hh, hgh⟩ := List.mem_filterMap.mp hg
        split at hgh
        · exact Option.some.inj hgh ▸ ho h hh
        · exact absurd hgh (by simp)

/-! ## What a viewer sees (R313, R314) -/

theorem zipIdx_map_fst_eq (bs : List Byte) (f : Byte × Nat → Byte) (hf : ∀ b i, (b, i) ∈ bs.zipIdx → f (b, i) = b) :
    bs.zipIdx.map f = bs :=
  (List.map_congr_left (fun e he => hf e.1 e.2 he)).trans (List.zipIdx_map_fst 0 bs)

theorem view_of_no_lag {o : Order} {who : Viewer} (grain a : Nat) {bs : List Byte}
    (h : ∀ i < bs.length, ∀ g ∈ o.lags, g.who = who → g.key ≠ (a + i) / 8) : o.view (some who) grain a bs = bs := by
  unfold Order.view
  dsimp only
  split
  · rfl
  · refine zipIdx_map_fst_eq bs _ (fun b i hb => ?_)
    have hnone : o.lags.find? (fun g => decide (g.who = who) && decide (g.key = (a + i) / 8)) = none :=
      List.find?_eq_none.mpr (fun g hg => by
        simpa using h i (by simpa using List.snd_lt_of_mem_zipIdx hb) g hg)
    simp only [hnone]

/-- Where a byte of an aligned element of a doubleword lies: in the doubleword, and in the element. -/
theorem byte_in_element {grain i j : Nat} (k : Nat) (hg : grain ∈ [1, 2, 4, 8]) (hi : i % grain = 0) (h8 : i < 8) (hj : j < grain) :
    (8 * k + i + j) / 8 = k ∧ (8 * k + i + j) % 8 = i + j ∧ (8 * k + i + j) / grain * grain = 8 * k + i := by
  simp only [List.mem_cons, List.not_mem_nil, or_false] at hg
  obtain rfl | rfl | rfl | rfl := hg <;> omega

theorem view_of_lag {o : Order} {who : Viewer} {grain i k : Nat} {bs : List Byte} {g : Lag}
    (hfind : o.lags.find? (fun g => decide (g.who = who) && decide (g.key = k)) = some g) (hg : LagOk g)
    (hgrain : grain ∈ [1, 2, 4, 8]) (hi : i % grain = 0) (h8 : i < 8) (hbs : bs.length = grain) :
    o.view (some who) grain (8 * k + i) bs = ((g.version (g.at i grain)).drop i).take grain := by
  have hlags : o.lags.isEmpty = false := by
    cases hl : o.lags with
    | nil => rw [hl] at hfind; simp at hfind
    | cons => rfl
  have hlen := length_version hg (g.at i grain)
  have hfits : i + grain ≤ 8 := by
    simp only [List.mem_cons, List.not_mem_nil, or_false] at hgrain
    obtain rfl | rfl | rfl | rfl := hgrain <;> omega
  unfold Order.view
  simp only [hlags, Bool.false_eq_true, if_false]
  refine List.ext_getElem (by simp; omega) (fun j hj _ => ?_)
  have hjg : j < grain := by simpa [hbs] using hj
  obtain ⟨hdw, hmod, helem⟩ := byte_in_element k hgrain hi h8 hjg
  have hbyte : i + j < (g.version (g.at i grain)).length := by omega
  simp only [List.getElem_map, List.getElem_zipIdx, Nat.zero_add, hdw, hmod, helem, hfind, hbs, Nat.max_self, Nat.min_self,
    List.getElem_take, List.getElem_drop]
  rw [show (8 * k + i) % 8 = i by omega, show 8 * k + i + grain - (8 * k + i) = grain by omega, List.getD_eq_getElem?_getD, List.getElem?_eq_getElem hbyte, Option.getD_some]

theorem find?_map_same {α : Type} {p : α → Bool} {f : α → α} (hp : ∀ x, p (f x) = p x) (xs : List α) :
    (xs.map f).find? p = (xs.find? p).map f := by
  rw [List.find?_map]
  exact congrArg (fun q => (xs.find? q).map f) (funext hp)

/-- A write shows nothing new to whoever lags at its doubleword. -/
theorem view_note {o : Order} (ho : ∀ g ∈ o.lags, LagOk g) (who : Viewer) (grain a k i n : Nat) (new bs : List Byte) :
    (o.note k i n new).view (some who) grain a bs = o.view (some who) grain a bs := by
  unfold Order.note
  split
  · unfold Order.view
    simp only [List.isEmpty_map]
    split
    · rfl
    · refine List.map_congr_left (fun b _ => ?_)
      rw [find?_map_same (fun g => by split <;> rfl)]
      cases hfind : o.lags.find? (fun g => decide (g.who = who) && decide (g.key = (a + b.2) / 8)) with
      | none => rfl
      | some g =>
        have hat := at_le (ho g (List.mem_of_find?_eq_some hfind))
        dsimp only [Option.map_some]
        split
        · exact congrArg (fun l : List Byte => l.getD _ _) (version_append g _ (hat _ _))
        · rfl
  · rfl

theorem viewsOfMemory : ViewsOfMemory := fun _o who grain a k _bs =>
  ⟨rfl, view_of_no_lag grain a, fun _g _i hfind hg hgrain hi h8 hbs => view_of_lag hfind hg hgrain hi h8 hbs,
    fun i n new ho => view_note ho who grain a k i n new _⟩

/-- Settles O51. -/
theorem memoryBytes : Obligations.MemoryBytes := ⟨bytesAsWritten, lagsKept, viewsOfMemory⟩

/-! ## The state after reset -/

/-- Settles O49. -/
theorem resetState : Obligations.ResetState := by
  refine ⟨⟨rfl, rfl⟩, rfl, rfl, rfl, rfl, rfl, rfl, fun _ _ => rfl, fun _ => rfl, fun _ => rfl, fun _ => rfl, rfl, rfl, rfl, rfl, rfl,
    rfl, rfl, rfl, rfl⟩

end Sys2Proof.Proofs
end

section
/-! PROOFS. The worked encodings, which words are refused at decode (R86, R104, R119), the step that runs a word (R76, R134), and what
a word that only computes leaves. -/

namespace Sys2Proof.Proofs

open Sys2Proof Sys2Proof.Machine Sys2Proof.Claims

/-- Settles O43: each word is decoded. -/
theorem decodedWords : Obligations.DecodedWords := by
  unfold Obligations.DecodedWords
  refine ⟨rfl, rfl, rfl, rfl, rfl, rfl, rfl, rfl, rfl, rfl, rfl, rfl, rfl, rfl, rfl, rfl, rfl, rfl, rfl, rfl⟩

/-! ## Which opcodes the maps assign (Tables 4.1, 4.5 and 4.8), row by row -/

section Rows

variable {lo : Nat} {v : BitVec 96}

theorem ite_eq_none_iff {p : Prop} [Decidable p] {x y : Option Instr} :
    (if p then x else y) = none ↔ (p ∧ x = none) ∨ (¬p ∧ y = none) := by
  by_cases hp : p <;> simp [hp]

theorem rawA0_eq_none : rawA0 lo v = none ↔ ¬(1 ≤ lo ∧ lo ≤ 15) := by
  unfold rawA0
  simp only [ite_eq_none_iff, reduceCtorEq, and_false, and_true, false_or]
  omega

theorem rawA1_eq_none : rawA1 lo v = none ↔ ¬(lo ≤ 15) := by
  unfold rawA1
  simp only [ite_eq_none_iff, reduceCtorEq, and_false, and_true, false_or]
  omega

theorem rawA2_eq_none : rawA2 lo v = none ↔ ¬(lo ≤ 2) := by
  unfold rawA2
  simp only [ite_eq_none_iff, reduceCtorEq, and_false, and_true, false_or]
  omega

theorem rawA3_eq_none : rawA3 lo v = none ↔ ¬(lo ≤ 6) := by
  unfold rawA3
  simp only [ite_eq_none_iff, reduceCtorEq, and_false, and_true, false_or]
  omega

theorem rawA4_eq_none : rawA4 lo v = none ↔ ¬(lo ≤ 9) := by
  unfold rawA4
  simp only [ite_eq_none_iff, reduceCtorEq, and_false, and_true, false_or]
  omega

theorem rawA5_eq_none : rawA5 lo v = none ↔ ¬(lo ≤ 12) := by
  unfold rawA5
  simp only [ite_eq_none_iff, reduceCtorEq, and_false, and_true, false_or]
  omega

theorem rawA6_eq_none : rawA6 lo v = none ↔ ¬(lo ≤ 12) := by
  unfold rawA6
  simp only [ite_eq_none_iff, reduceCtorEq, and_false, and_true, false_or]
  omega

theorem rawA7_eq_none : rawA7 lo v = none ↔ ¬(lo ≤ 15) := by
  unfold rawA7
  simp only [ite_eq_none_iff, reduceCtorEq, and_false, and_true, false_or]
  omega

theorem rawA8_eq_none : rawA8 lo v = none ↔ ¬(lo ≤ 1) := by
  unfold rawA8
  simp only [ite_eq_none_iff, reduceCtorEq, and_false, and_true, false_or]
  omega

theorem rawX0_eq_none : rawX0 lo v = none ↔ ¬(1 ≤ lo ∧ lo ≤ 15) := by
  unfold rawX0
  simp only [ite_eq_none_iff, reduceCtorEq, and_false, and_true, false_or]
  omega

theorem rawX1_eq_none : rawX1 lo v = none ↔ ¬(lo ≤ 11) := by
  unfold rawX1
  simp only [ite_eq_none_iff, reduceCtorEq, and_false, and_true, false_or]
  omega

theorem rawX2_eq_none : rawX2 lo v = none ↔ ¬(lo ≤ 15) := by
  unfold rawX2
  simp only [ite_eq_none_iff, reduceCtorEq, and_false, and_true, false_or]
  omega

theorem rawX3_eq_none : rawX3 lo v = none ↔ ¬(lo ≤ 2) := by
  unfold rawX3
  simp only [ite_eq_none_iff, reduceCtorEq, and_false, and_true, false_or]
  omega

theorem rawX4_eq_none : rawX4 lo v = none ↔ ¬(lo ≤ 6) := by
  unfold rawX4
  simp only [ite_eq_none_iff, reduceCtorEq, and_false, and_true, false_or]
  omega

theorem rawX5_eq_none : rawX5 lo v = none ↔ ¬(lo ≤ 2) := by
  unfold rawX5
  simp only [ite_eq_none_iff, reduceCtorEq, and_false, and_true, false_or]
  omega

theorem rawX6_eq_none : rawX6 lo v = none ↔ ¬(lo ≤ 8) := by
  unfold rawX6
  simp only [ite_eq_none_iff, reduceCtorEq, and_false, and_true, false_or]
  omega

theorem rawX7_eq_none : rawX7 lo v = none ↔ ¬(lo ≤ 4 ∨ 8 ≤ lo ∧ lo ≤ 13) := by
  unfold rawX7
  simp only [ite_eq_none_iff, reduceCtorEq, and_false, and_true, false_or]
  omega

theorem rawX8_eq_none : rawX8 lo v = none ↔ ¬(lo ≤ 5) := by
  unfold rawX8
  simp only [ite_eq_none_iff, reduceCtorEq, and_false, and_true, false_or]
  omega

theorem rawX9_eq_none : rawX9 lo v = none ↔ ¬(lo ≤ 1) := by
  unfold rawX9
  simp only [ite_eq_none_iff, reduceCtorEq, and_false, and_true, false_or]
  omega

theorem rawM0_eq_none : rawM0 lo v = none ↔ ¬(1 ≤ lo ∧ lo ≤ 15) := by
  unfold rawM0
  simp only [ite_eq_none_iff, reduceCtorEq, and_false, and_true, false_or]
  omega

theorem rawM1_eq_none : rawM1 lo v = none ↔ ¬(lo ≤ 2) := by
  unfold rawM1
  simp only [ite_eq_none_iff, reduceCtorEq, and_false, and_true, false_or]
  omega


end Rows

/-- The opcode byte is its two digits. -/
theorem opcode_eq_digits (v : BitVec 96) : opcode v = 16 * (v.extractLsb' 92 4).toNat + (v.extractLsb' 88 4).toNat := by
  simp only [opcode, BitVec.extractLsb'_toNat, Nat.shiftRight_eq_div_pow]
  omega

theorem rawA_eq_none (v : BitVec 96) : rawA v = none ↔ ¬assigned .a (opcode v) := by
  have hhi := (v.extractLsb' 92 4).isLt
  have hlo := (v.extractLsb' 88 4).isLt
  simp only [assigned, opcode_eq_digits]
  unfold rawA
  dsimp only
  simp only [ite_eq_none_iff, and_true, rawA0_eq_none, rawA1_eq_none, rawA2_eq_none, rawA3_eq_none, rawA4_eq_none, rawA5_eq_none, rawA6_eq_none,
    rawA7_eq_none, rawA8_eq_none]
  omega

theorem rawX_eq_none (v : BitVec 96) : rawX v = none ↔ ¬assigned .x (opcode v) := by
  have hhi := (v.extractLsb' 92 4).isLt
  have hlo := (v.extractLsb' 88 4).isLt
  simp only [assigned, opcode_eq_digits]
  unfold rawX
  dsimp only
  simp only [ite_eq_none_iff, and_true, rawX0_eq_none, rawX1_eq_none, rawX2_eq_none, rawX3_eq_none, rawX4_eq_none, rawX5_eq_none, rawX6_eq_none,
    rawX7_eq_none, rawX8_eq_none, rawX9_eq_none]
  omega

theorem rawM_eq_none (v : BitVec 96) : rawM v = none ↔ ¬assigned .m (opcode v) := by
  have hhi := (v.extractLsb' 92 4).isLt
  have hlo := (v.extractLsb' 88 4).isLt
  simp only [assigned, opcode_eq_digits]
  unfold rawM
  dsimp only
  simp only [ite_eq_none_iff, and_true, rawM0_eq_none, rawM1_eq_none]
  omega

/-- R104, R119: an opcode names no instruction where the map of the stream has none, or the Rubricator lacks it. -/
theorem raw_eq_none (sp : Space) (v : BitVec 96) :
    raw sp v = none ↔ ¬assigned sp (opcode v) ∨ (sp = .rub ∧ rubLacks (opcode v) = true) := by
  cases sp with
  | a => simpa [raw] using rawA_eq_none v
  | x => simpa [raw] using rawX_eq_none v
  | m => simpa [raw] using rawM_eq_none v
  | rub =>
    unfold raw
    dsimp only
    split
    · next h => simp [h]
    · next h => simpa [h, assigned] using rawA_eq_none v

/-- R86: ILLEGAL_OP is the refusal of an opcode that names nothing, and of no other word. -/
theorem decode_eq_illegalOp (sp : Space) (v : BitVec 96) : decode sp v = .error .illegalOp ↔ raw sp v = none := by
  unfold decode
  cases raw sp v with
  | none => simp
  | some i => dsimp only; split <;> simp

/-- What decodes encodes to its word, and is well-formed: decoding has checked both. -/
theorem encode_of_decode {sp : Space} {v : BitVec 96} {i : Instr} (h : decode sp v = .ok i) : encode i = v ∧ i.wf = true := by
  unfold decode at h
  cases hraw : raw sp v with
  | none => simp [hraw] at h
  | some j =>
    simp only [hraw] at h
    split at h
    · next hj =>
      obtain rfl := Except.ok.inj h
      simpa using hj
    · simp at h

theorem zero_is_illegal (sp : Space) : decode sp 0 = .error .illegalOp := by
  cases sp <;> rfl

theorem wordsOfInstructions : WordsOfInstructions := fun sp v =>
  ⟨fun _ => encode_of_decode, (decode_eq_illegalOp sp v).trans (raw_eq_none sp v), zero_is_illegal sp⟩

/-- Settles O45. -/
theorem decodeThenEncode : Obligations.DecodeThenEncode :=
  ⟨wordsOfInstructions, fun v h => (decode_eq_illegalOp .rub v).mpr ((raw_eq_none .rub v).mpr (.inr ⟨rfl, h⟩))⟩

/-! ## The step that runs a word (R76, R134) -/

theorem foldl_conflicts_eq {f : State → Nat → State} (hf : ∀ s x, f s x = { s with conflicts := (f s x).conflicts }) (xs : List Nat)
    (s : State) : xs.foldl f s = { s with conflicts := (xs.foldl f s).conflicts } := by
  induction xs generalizing s with
  | nil => rfl
  | cons x xs ih => rw [List.foldl_cons, ih, hf s x]

theorem ite_conflicts_eq {c : Prop} [Decidable c] (s : State) (m : SMap (BitVec 64)) :
    (if c then s else { s with conflicts := m }) = { s with conflicts := (if c then s else { s with conflicts := m }).conflicts } := by
  split <;> rfl

/-- Counting conflicts changes the count and what each core remembers of its last sectors. -/
theorem countConflicts_eq (s : State) (core : Nat) (pas : List Nat) :
    s.countConflicts core pas = { s with cores := (s.countConflicts core pas).cores, conflicts := (s.countConflicts core pas).conflicts } := by
  unfold State.countConflicts
  dsimp only
  rw [foldl_conflicts_eq (fun s x => ite_conflicts_eq s _)]
  rfl

theorem conflicted_eq (s v : State) (i : Instr) :
    ∃ w, s.conflicted i (.next v) = .next w ∧ w = { v with cores := w.cores, conflicts := w.conflicts } := by
  have hsame : v = { v with cores := v.cores, conflicts := v.conflicts } := rfl
  unfold State.conflicted
  dsimp only
  split
  · split
    · exact ⟨v, rfl, hsame⟩
    · split
      · exact ⟨_, rfl, countConflicts_eq _ _ _⟩
      · exact ⟨v, rfl, hsame⟩
  · exact ⟨v, rfl, hsame⟩

theorem owned_eq (s v : State) (st : Strand) : s.owned v st = { v with order := (s.owned v st).order } := by
  unfold State.owned
  split <;> rfl

theorem owns_eq (s v : State) : ∃ w, s.owns (.next v) = .next w ∧ w = { v with order := w.order } := by
  unfold State.owns
  dsimp only
  split
  · exact ⟨_, rfl, owned_eq _ _ _⟩
  · exact ⟨_, rfl, owned_eq _ _ _⟩
  · exact ⟨v, rfl, rfl⟩

theorem step_of_word {s : State} {ag : Agent} (h : s.turn = .word ag) : step s = s.runWord ag := by
  unfold step
  rw [h]

/-- An agent that may issue runs the bytes it has fetched. -/
theorem runWord_of_fetched {s : State} {ag : Agent} {bs : List Byte} (hr : (s.begin ag).mayRun ag = true)
    (hg : (s.begin ag).grantHeld ag = false) (hb : (s.begin ag).fetchWord = .ok bs) : s.runWord ag = (s.begin ag).runBytes bs := by
  unfold State.runWord
  simp only [hr, hg, hb, Bool.not_false, Bool.and_self, if_true]

theorem runWord_of_held {s : State} {ag : Agent} (h : (s.begin ag).mayRun ag = false ∨ (s.begin ag).grantHeld ag = true) :
    s.runWord ag = .next ((s.begin ag).stallForGrant ag).held := by
  unfold State.runWord
  obtain h | h := h <;> simp [h]

theorem stepOfWord : StepOfWord := by
  intro s
  refine ⟨fun ag bs hturn => ?word, fun v => rfl, fun i v => conflicted_eq s v i, owns_eq s, fun i a hturn => ?event, fun hturn => ?idle, fun i hi => ?resolve⟩
  case word =>
    refine ⟨rfl, rfl, fun hr hg hb => ⟨fun i hi => ?_, fun d hd => ?_⟩, fun h => (step_of_word hturn).trans (runWord_of_held h)⟩
    · rw [step_of_word hturn, runWord_of_fetched hr hg hb, State.runBytes]
      change (match decode ag.space (bytesWord bs) with | .ok i => _ | .error d => _) = _
      rw [hi]
    · rw [step_of_word hturn, runWord_of_fetched hr hg hb, State.runBytes]
      change (match decode ag.space (bytesWord bs) with | .ok i => _ | .error d => _) = _
      rw [hd]
      cases d <;> rfl
  case event =>
    unfold step
    rw [hturn]
    rfl
  case idle =>
    unfold step
    rw [hturn]
  case resolve =>
    unfold State.resolve
    split
    · exact absurd rfl (hi _)
    · rfl

/-- R134, R9: the twelve bytes at four times the program counter. -/
theorem rubricatorFetch : RubricatorFetch := by
  intro s tw x o hcur _ hcheck hwashed
  simp only [State.fetchWord, hcur, hcheck, Try.ok_bind, State.readBytes, hwashed, List.isEmpty_nil, if_true, Place.key, State.bytes]

/-- Settles O46. -/
theorem stepRunsDecodedWord : Obligations.StepRunsDecodedWord := ⟨stepOfWord, rubricatorFetch⟩

end Sys2Proof.Proofs
end

section
/-! PROOFS. What a word of the A stream that only computes leaves unchanged. -/

namespace Sys2Proof.Proofs

open Sys2Proof Sys2Proof.Machine Sys2Proof.Claims

/-- From `s` to `t` nothing has changed but register `d`, the stream, the loads, and, where `sat` allows it, the saturation flag. -/
structure Leaves (sat : Prop) (d : BitVec 6) (s t : State) : Prop where
  regs : ∀ m, m ≠ d → t.reg m = s.reg m
  frame : t = { s with tasks := t.tasks, rub := t.rub, stalled := t.stalled }
  task : ∀ id st, s.cur = .task id st → t.rub = s.rub ∧ (∀ j, j ≠ id → t.task? j = s.task? j) ∧
    ∀ u, s.task? id = some u → ∃ v, t.task? id = some v ∧ taskRest v = taskRest u ∧
      (v.csr = u.csr ∨ sat ∧ v.csr = { u.csr with fpFlags := u.csr.fpFlags ||| 32 })
  rub : s.cur = .rub → t.tasks = s.tasks ∧ rubRest t.rub = rubRest s.rub

section Leaves

variable {sat : Prop} {d : BitVec 6} {s t u : State}

theorem Leaves.cur (h : Leaves sat d s t) : t.cur = s.cur := by rw [h.frame]

theorem Leaves.trans (h : Leaves False d s t) (g : Leaves sat d t u) : Leaves sat d s u where
  regs m hm := (g.regs m hm).trans (h.regs m hm)
  frame := by
    rw [g.frame, h.frame]
  task id st hc := by
    obtain ⟨hrub, hother, hown⟩ := h.task id st hc
    obtain ⟨grub, gother, gown⟩ := g.task id st (h.cur.trans hc)
    refine ⟨grub.trans hrub, fun j hj => (gother j hj).trans (hother j hj), fun x hx => ?_⟩
    obtain ⟨y, hy, hrest, hcsr⟩ := hown x hx
    obtain ⟨z, hz, grest, gcsr⟩ := gown y hy
    rw [hcsr.resolve_right (fun hf => hf.1)] at gcsr
    exact ⟨z, hz, grest.trans hrest, gcsr⟩
  rub hc := by
    obtain ⟨htasks, hrest⟩ := h.rub hc
    obtain ⟨gtasks, grest⟩ := g.rub (h.cur.trans hc)
    exact ⟨gtasks.trans htasks, grest.trans hrest⟩

theorem Leaves.before (h : Leaves sat d s t) (g : Leaves False d t u) : Leaves sat d s u where
  regs m hm := (g.regs m hm).trans (h.regs m hm)
  frame := by
    rw [g.frame, h.frame]
  task id st hc := by
    obtain ⟨hrub, hother, hown⟩ := h.task id st hc
    obtain ⟨grub, gother, gown⟩ := g.task id st (h.cur.trans hc)
    refine ⟨grub.trans hrub, fun j hj => (gother j hj).trans (hother j hj), fun x hx => ?_⟩
    obtain ⟨y, hy, hrest, hcsr⟩ := hown x hx
    obtain ⟨z, hz, grest, gcsr⟩ := gown y hy
    rw [← gcsr.resolve_right (fun hf => hf.1)] at hcsr
    exact ⟨z, hz, grest.trans hrest, hcsr⟩
  rub hc := by
    obtain ⟨htasks, hrest⟩ := h.rub hc
    obtain ⟨gtasks, grest⟩ := g.rub (h.cur.trans hc)
    exact ⟨gtasks.trans htasks, grest.trans hrest⟩

/-- A change of the running task's stream, registers, loads and flags alone leaves the rest. -/
theorem leaves_of_onTask {id : Nat} {st : Stream} {f : Task → Task} (hc : s.cur = .task id st)
    (hregs : ∀ m, m ≠ d → (s.onTask id f).reg m = s.reg m) (hrest : ∀ x, taskRest (f x) = taskRest x)
    (hcsr : ∀ x, (f x).csr = x.csr ∨ sat ∧ (f x).csr = { x.csr with fpFlags := x.csr.fpFlags ||| 32 }) :
    Leaves sat d s (s.onTask id f) where
  regs := hregs
  frame := rfl
  task i stream hi := by
    obtain ⟨rfl, rfl⟩ := Agent.task.inj (hi.symm.trans hc)
    exact ⟨rfl, fun j hj => task?_onTask_ne f hj, fun x hx => ⟨f x, task?_onTask_self hx, hrest x, hcsr x⟩⟩
  rub hr := absurd (hr.symm.trans hc) (by simp)

theorem leaves_of_rub {r : Rub} (hc : s.cur = .rub) (hregs : ∀ m, m ≠ d → ({ s with rub := r } : State).reg m = s.reg m)
    (hrest : rubRest r = rubRest s.rub) : Leaves sat d s { s with rub := r } where
  regs := hregs
  frame := rfl
  task id st ht := absurd (ht.symm.trans hc) (by simp)
  rub _ := ⟨rfl, hrest⟩

theorem Leaves.refl (s : State) : Leaves sat d s s where
  regs _ _ := rfl
  frame := rfl
  task _ _ _ := ⟨rfl, fun _ _ => rfl, fun u hu => ⟨u, hu, rfl, .inl rfl⟩⟩
  rub _ := ⟨rfl, rfl⟩

theorem leaves_setReg (h : s.acts .a = true) (v : Word) : Leaves False d s (s.setReg d v) := by
  have hregs : ∀ m, m ≠ d → (s.setReg d v).reg m = s.reg m := fun m => reg_setReg_ne h v
  obtain hc | ⟨id, t, hc, -⟩ := acts_a_cases h
  · rw [setReg_of_rub hc] at hregs ⊢
    refine leaves_of_rub hc hregs ?_
    rw [rub_setReg_eq]
    rfl
  · rw [setReg_of_task hc] at hregs ⊢
    refine leaves_of_onTask hc hregs (fun x => ?_) (fun x => .inl ?_)
    · rw [task_setReg_eq]
      rfl
    · rw [task_setReg_eq]

theorem leaves_setFlags (s : State) (f : Flags) (hf : f = 0 ∨ f = flagSAT) : Leaves True d s (s.setFlags f) := by
  cases hc : s.cur with
  | rub =>
    rw [setFlags_of_rub hc]
    exact Leaves.refl s
  | task id st =>
    have hregs : ∀ m, m ≠ d → (s.setFlags f).reg m = s.reg m := fun m _ => reg_setFlags s f m
    simp only [State.setFlags, hc] at hregs ⊢
    split
    · exact Leaves.refl s
    · next hz =>
      rw [if_neg hz] at hregs
      refine leaves_of_onTask hc hregs (fun _ => rfl) (fun x => .inr ⟨trivial, ?_⟩)
      rw [hf.resolve_left hz]
      rfl

theorem reg_goto (s : State) (p : Parcel) (m : BitVec 6) : (s.goto p).reg m = s.reg m := by
  unfold State.goto
  split
  · next h => simp [State.reg, h]
  · next id st h =>
    simp only [State.reg, State.onTask, h, State.task?]
    rw [SMap.find?_adjust_self]
    cases hf : SMap.find? id s.tasks with
    | none => rfl
    | some t =>
      dsimp only [Option.map]
      split
      · rfl
      · cases st <;> split <;> rfl

theorem leaves_advance (h : s.acts .a = true) : Leaves False d s s.advance := by
  have hregs : ∀ m, m ≠ d → s.advance.reg m = s.reg m := fun m _ => State.reg_advance s m
  obtain hc | ⟨id, t, hc, -⟩ := acts_a_cases h
  · rw [advance_of_rub hc] at hregs ⊢
    exact leaves_of_rub hc hregs rfl
  · simp only [State.advance, hc] at hregs ⊢
    refine leaves_of_onTask hc hregs (fun x => ?_) (fun x => .inl ?_)
    · split <;> rfl
    · split <;> rfl

theorem goto_of_rub (hc : s.cur = .rub) (p : Parcel) : s.goto p = { s with rub := { s.rub with pc := p } } := by
  simp only [State.goto, hc]

theorem leaves_goto (h : s.acts .a = true) (p : Parcel) : Leaves False d s (s.goto p) := by
  have hregs : ∀ m, m ≠ d → (s.goto p).reg m = s.reg m := fun m _ => reg_goto s p m
  obtain hc | ⟨id, t, hc, -⟩ := acts_a_cases h
  · rw [goto_of_rub hc] at hregs ⊢
    exact leaves_of_rub hc hregs rfl
  · simp only [State.goto, hc] at hregs ⊢
    refine leaves_of_onTask hc hregs (fun x => ?_) (fun x => .inl ?_)
    · split <;> rfl
    · split <;> rfl

/-- The failed load that a waiting word meets is marked at whoever runs. -/
def marked (s : State) (l : Load) : State :=
  match s.cur with
  | .rub => { s with rub := { s.rub with meetsBad := some l.id } }
  | .task id _ => s.onTask id (fun t => { t with meetsBad := some l.id })

theorem markBad_eq (s : State) (ns : List (BitVec 6)) : s.markBad ns = s ∨ ∃ l, s.markBad ns = marked s l := by
  unfold State.markBad
  split
  · exact .inl rfl
  · exact .inr ⟨_, rfl⟩

theorem leaves_marked (h : s.acts .a = true) (l : Load) : Leaves sat d s (marked s l) := by
  obtain hc | ⟨id, t, hc, -⟩ := acts_a_cases h
  · have hm : marked s l = { s with rub := { s.rub with meetsBad := some l.id } } := by simp only [marked, hc]
    rw [hm]
    exact leaves_of_rub hc (fun m _ => by simp only [State.reg, hc]) rfl
  · have hm : marked s l = s.onTask id (fun t => { t with meetsBad := some l.id }) := by simp only [marked, hc]
    rw [hm]
    refine leaves_of_onTask hc (fun m _ => ?_) (fun _ => rfl) (fun _ => .inl rfl)
    simp only [State.reg, hc, State.onTask, State.task?, SMap.find?_adjust_self]
    cases SMap.find? id s.tasks <;> rfl

/-- A waiting word leaves everything: at most the failed load it met is marked. -/
theorem leaves_wait (h : s.acts .a = true) (ns : List (BitVec 6)) : Leaves sat d s (s.markBad ns).held := by
  have hheld : ∀ v : State, Leaves sat d s v → Leaves sat d s v.held := fun v hv =>
    ⟨hv.regs, congrArg State.held hv.frame, hv.task, hv.rub⟩
  refine hheld _ ?_
  obtain he | ⟨l, he⟩ := markBad_eq s ns <;> rw [he]
  · exact Leaves.refl s
  · exact leaves_marked h l

end Leaves

/-- How the body of a word that only computes ends: with a change that leaves the rest, or with a trap, `d` written or not. -/
def EndsLeaving (sat : Prop) (d : BitVec 6) (s : State) : Try State → Prop
  | .ok u => Leaves sat d s u
  | .error (.trap _ _) => True
  | .error (.trapWith _ u) => u = s ∨ ∃ v, u = s.setReg d v
  | _ => False

/-- A word that only computes into `d`. -/
def ComputesInto (sat : Prop) (d : BitVec 6) (s : State) (o : Host.Outcome State Fault Refusal) : Prop :=
  ∃ ns f, o = s.aWord ns f ∧ (s.acts .a = true → EndsLeaving sat d s (f s))

theorem leaves_of_computesInto {sat : Prop} {d : BitVec 6} {s t : State} {o : Host.Outcome State Fault Refusal}
    (h : ComputesInto sat d s o) (ho : o = .next t) (htrap : ∀ c va, t ≠ s.takeTrap c va)
    (hlink : ∀ v c va, t ≠ (s.setReg d v).takeTrap c va) : Leaves sat d s t := by
  obtain ⟨ns, f, rfl, hf⟩ := h
  unfold State.aWord at ho
  split at ho
  · exact absurd ho (by simp)
  · next ha =>
    have hacts : s.acts .a = true := by simpa using ha
    split at ho
    · obtain rfl := Host.Outcome.next.inj ho
      exact leaves_wait hacts ns
    · obtain rfl := Host.Outcome.next.inj ho
      have hend := hf hacts
      revert hend htrap hlink
      unfold EndsLeaving State.finish
      cases f s with
      | ok u => exact fun _ _ hu => hu
      | error e =>
        cases e with
        | trap c va => exact fun htrap _ _ => absurd rfl (htrap c va)
        | trapWith c u =>
          rintro htrap hlink (rfl | ⟨v, rfl⟩)
          · exact absurd rfl (htrap c 0)
          · exact absurd rfl (hlink v c 0)
        | _ => exact fun _ _ hu => hu.elim

/-! ## The words (R122 to R129, R133, R178) -/

section Words

variable {d : BitVec 6} {s : State}

theorem acts_setReg (h : s.acts .a = true) (n : BitVec 6) (v : Word) : (s.setReg n v).acts .a = true := by
  obtain hc | ⟨id, t, hc, ht⟩ := acts_a_cases h
  · simp [State.acts, hc]
  · have hthere : (s.setReg n v).task? id = some (t.setReg n v) := by
      rw [setReg_of_task hc]
      exact task?_onTask_self ht
    simp [State.acts, hc, hthere]

theorem acts_setFlags (h : s.acts .a = true) (f : Flags) : (s.setFlags f).acts .a = true := by
  obtain hc | ⟨id, t, hc, ht⟩ := acts_a_cases h
  · simp [State.acts, hc]
  · simp [State.acts, hc, task?_setFlags hc ht f]

/-- The words that write one register and go on. -/
theorem leaves_result (h : s.acts .a = true) (v : Word) : Leaves False d s (s.setReg d v).advance :=
  (leaves_setReg h v).trans (leaves_advance (acts_setReg h d v))

theorem computes_of_result (ns : List (BitVec 6)) (f : State → Word) :
    ComputesInto False d s (s.aWord ns (fun s => .ok (s.setReg d (f s)).advance)) :=
  ⟨ns, _, rfl, fun h => leaves_result h (f s)⟩

theorem alu2_computes (w : AR) (f : Word → Word → Word) : ComputesInto False w.d s (s.alu2 w f) :=
  computes_of_result _ (fun s => f (s.reg w.a) (s.reg w.b))

theorem alu1_computes (w : AR) (f : Word → Word) : ComputesInto False w.d s (s.alu1 w f) :=
  computes_of_result _ (fun s => f (s.reg w.a))

theorem divide_computes (w : AR) (f : Word → Word → Word) : ComputesInto False w.d s (s.divide w f) := by
  refine ⟨_, _, rfl, fun h => ?_⟩
  by_cases hb : s.reg w.b ≠ 0
  · simp only [decide_eq_true hb, require_true, Try.ok_bind]
    exact leaves_result h _
  · simp only [decide_eq_false hb, require_false, Try.error_bind]
    trivial

theorem adds_computes (w : AR) : ComputesInto True w.d s (execAdds w s) := by
  refine ⟨_, _, rfl, fun h => ?_⟩
  have hflag : (satInt ((s.reg w.a).toInt + (s.reg w.b).toInt) 64 true).2 = 0 ∨
      (satInt ((s.reg w.a).toInt + (s.reg w.b).toInt) 64 true).2 = flagSAT := by
    unfold satInt
    split
    · simp
    · split <;> simp
  exact (leaves_setReg h _).trans ((leaves_setFlags _ _ hflag).before (leaves_advance (acts_setFlags (acts_setReg h _ _) _)))

/-- A jump goes on or traps at the word. -/
theorem jump_leaves {u : State} (hu : Leaves False d s u) (ha : u.acts .a = true) (hreg : u = s ∨ ∃ v, u = s.setReg d v) (p : Parcel) :
    EndsLeaving False d s (u.jump p) := by
  unfold State.jump
  split
  · exact hu.trans (leaves_goto ha p)
  · exact hreg

theorem j_computes (w : AB) : ComputesInto False 0 s (execJ w s) :=
  ⟨_, _, rfl, fun h => jump_leaves (Leaves.refl s) h (.inl rfl) _⟩

theorem b_computes (w : AB) : ComputesInto False 0 s (execB w s) := by
  refine ⟨_, _, rfl, fun h => ?_⟩
  split
  · exact jump_leaves (Leaves.refl s) h (.inl rfl) _
  · exact leaves_advance h

theorem jal_computes (w : AB) : ComputesInto False w.a s (execJal w s) :=
  ⟨_, _, rfl, fun h => jump_leaves (leaves_setReg h _) (acts_setReg h _ _) (.inr ⟨_, rfl⟩) _⟩

theorem jr_computes (w : AR) : ComputesInto False w.d s (execJr w s) := by
  refine ⟨_, _, rfl, fun h => ?_⟩
  by_cases hr : (s.reg w.a).toNat < 2 ^ 50
  · simp only [decide_eq_true hr, require_true, Try.ok_bind]
    exact jump_leaves (leaves_setReg h _) (acts_setReg h _ _) (.inr ⟨_, rfl⟩) _
  · simp only [decide_eq_false hr, require_false, Try.error_bind]
    trivial

theorem nop_computes (w : AR) : ComputesInto False 0 s (execNop w s) :=
  ⟨_, _, rfl, leaves_advance⟩

theorem tsc_computes (w : AS) : ComputesInto False w.d s (execTsc w s) := computes_of_result _ (fun s => BitVec.ofNat 64 s.tsc)

end Words

/-- Each word is one of these forms. -/
theorem registerWords_compute {i : Instr} {d : BitVec 6} (s : State) (h : registerDest i = some d) :
    ComputesInto False d s (exec i s) ∨ (∃ w, i = .adds w) ∧ ComputesInto True d s (exec i s) := by
  cases i <;> cases h
  case add w => exact .inl (alu2_computes w _ : ComputesInto False w.d s (execAdd w s))
  case sub w => exact .inl (alu2_computes w _ : ComputesInto False w.d s (execSub w s))
  case addi w => exact .inl (computes_of_result _ _ : ComputesInto False w.d s (execAddi w s))
  case mul w => exact .inl (alu2_computes w _ : ComputesInto False w.d s (execMul w s))
  case mulh w => exact .inl (alu2_computes w _ : ComputesInto False w.d s (execMulh w s))
  case mulhn w => exact .inl (alu2_computes w _ : ComputesInto False w.d s (execMulhn w s))
  case div w => exact .inl (divide_computes w _ : ComputesInto False w.d s (execDiv w s))
  case divn w => exact .inl (divide_computes w _ : ComputesInto False w.d s (execDivn w s))
  case rem w => exact .inl (divide_computes w _ : ComputesInto False w.d s (execRem w s))
  case remn w => exact .inl (divide_computes w _ : ComputesInto False w.d s (execRemn w s))
  case and w => exact .inl (alu2_computes w _ : ComputesInto False w.d s (execAnd w s))
  case or w => exact .inl (alu2_computes w _ : ComputesInto False w.d s (execOr w s))
  case xor w => exact .inl (alu2_computes w _ : ComputesInto False w.d s (execXor w s))
  case andn w => exact .inl (alu2_computes w _ : ComputesInto False w.d s (execAndn w s))
  case shl w => exact .inl (alu2_computes w _ : ComputesInto False w.d s (execShl w s))
  case shr w => exact .inl (alu2_computes w _ : ComputesInto False w.d s (execShr w s))
  case sra w => exact .inl (alu2_computes w _ : ComputesInto False w.d s (execSra w s))
  case rol w => exact .inl (alu2_computes w _ : ComputesInto False w.d s (execRol w s))
  case ror w => exact .inl (alu2_computes w _ : ComputesInto False w.d s (execRor w s))
  case clz w => exact .inl (alu1_computes w _ : ComputesInto False w.d s (execClz w s))
  case ctz w => exact .inl (alu1_computes w _ : ComputesInto False w.d s (execCtz w s))
  case popc w => exact .inl (alu1_computes w _ : ComputesInto False w.d s (execPopc w s))
  case min w => exact .inl (alu2_computes w _ : ComputesInto False w.d s (execMin w s))
  case max w => exact .inl (alu2_computes w _ : ComputesInto False w.d s (execMax w s))
  case minn w => exact .inl (alu2_computes w _ : ComputesInto False w.d s (execMinn w s))
  case maxn w => exact .inl (alu2_computes w _ : ComputesInto False w.d s (execMaxn w s))
  case sel w => exact .inl (computes_of_result _ _ : ComputesInto False w.d s (execSel w s))
  case slt w => exact .inl (alu2_computes w _ : ComputesInto False w.d s (execSlt w s))
  case sltn w => exact .inl (alu2_computes w _ : ComputesInto False w.d s (execSltn w s))
  case seq w => exact .inl (alu2_computes w _ : ComputesInto False w.d s (execSeq w s))
  case li w => exact .inl (computes_of_result _ _ : ComputesInto False w.d s (execLi w s))
  case bfx w => exact .inl (computes_of_result _ _ : ComputesInto False w.d s (execBfx w s))
  case bfi w => exact .inl (computes_of_result _ _ : ComputesInto False w.d s (execBfi w s))
  case adds w => exact .inr ⟨⟨w, rfl⟩, adds_computes w⟩
  case b w => exact .inl (b_computes w : ComputesInto False 0 s (execB w s))
  case j w => exact .inl (j_computes w : ComputesInto False 0 s (execJ w s))
  case jal w => exact .inl (jal_computes w : ComputesInto False w.a s (execJal w s))
  case jr w => exact .inl (jr_computes w : ComputesInto False w.d s (execJr w s))
  case nop w => exact .inl (nop_computes w : ComputesInto False 0 s (execNop w s))
  case tsc w => exact .inl (tsc_computes w : ComputesInto False w.d s (execTsc w s))

/-- Settles O52. -/
theorem registerWordFrame : Obligations.RegisterWordFrame := by
  intro i d s t hd hexec htrap hlink
  obtain hword | ⟨⟨w, rfl⟩, hword⟩ := registerWords_compute s hd
  · obtain ⟨hregs, hframe, htask, hrub⟩ := leaves_of_computesInto hword hexec htrap hlink
    refine ⟨hregs, fun a => by rw [hframe]; rfl, hframe, fun id st hc => ?_, hrub⟩
    obtain ⟨hr, hother, hown⟩ := htask id st hc
    refine ⟨hr, hother, fun u hu => ?_⟩
    obtain ⟨v, hv, hrest, hcsr⟩ := hown u hu
    have hsame := hcsr.resolve_right (fun hf => hf.1)
    exact ⟨v, hv, hrest, fun _ => hsame, .inl hsame⟩
  · obtain ⟨hregs, hframe, htask, hrub⟩ := leaves_of_computesInto hword hexec htrap hlink
    refine ⟨hregs, fun a => by rw [hframe]; rfl, hframe, fun id st hc => ?_, hrub⟩
    obtain ⟨hr, hother, hown⟩ := htask id st hc
    refine ⟨hr, hother, fun u hu => ?_⟩
    obtain ⟨v, hv, hrest, hcsr⟩ := hown u hu
    exact ⟨v, hv, hrest, fun hn => absurd rfl (hn w), hcsr.imp_right (fun hf => hf.2)⟩

end Sys2Proof.Proofs
end

section
/-! PROOFS. Taking a trap, and coming back from one (R348 to R361), and the CSRs (R41, R42, R178, R393, R448). -/

namespace Sys2Proof.Proofs

open Sys2Proof Sys2Proof.Machine Sys2Proof.Claims

/-! ## Where a trap goes -/

section Traps

variable {s : State} {id : Nat} {t : Task} {c : Cause}

/-- R355: the causes that an in-task handler takes, in a task with a vector that is not in its handler. -/
theorem takesInside_iff : t.takesInside c = true ↔
    (c = .overdraw ∨ c = .hazard ∨ c = .deadRead ∨ c = .fpException ∨ c = .trap) ∧ t.csr.trapVec ≠ 0 ∧ t.handler = none := by
  simp [Task.takesInside, Cause.inTask, Task.inHandler, and_assoc]

theorem trapInsideTask : TrapInsideTask := by
  intro s id st t c pc va x ht hc hv hh
  rw [State.trapTask_inside s id st t c pc va x ht (takesInside_iff.mpr ⟨hc, hv, hh⟩)]
  exact ⟨_, SMap.find?_put_self _ _ _, rfl, rfl, rfl, rfl, rfl, rfl, rfl, rfl, rfl, rfl, rfl, rfl, rfl⟩

theorem parkOnRecord_inside (h : t.handler ≠ none) (st : Stream) (pc : Parcel) (now : Nat) :
    (t.parkOnRecord c st pc now).csr = t.csr ∧ (t.parkOnRecord c st pc now).handler = t.handler := by
  have hin : t.inHandler = true := Option.isSome_iff_ne_none.mpr h
  unfold Task.parkOnRecord
  dsimp only
  rw [if_pos hin]
  exact ⟨rfl, rfl⟩

/-- R350: the task is on a record, all three streams stopped. -/
theorem parkOnRecord_stops (t : Task) (c : Cause) (st : Stream) (pc : Parcel) (now : Nat) :
    let u := t.parkOnRecord c st pc now
    u.run = .onRecord ∧ u.sa.stopped = true ∧ u.sx.stopped = true ∧ u.sm.stopped = true ∧ u.sa.pc = t.sa.pc := by
  unfold Task.parkOnRecord
  dsimp only
  split <;> exact ⟨rfl, rfl, rfl, rfl, rfl⟩

theorem trapOnRecord : TrapOnRecord := by
  intro s id st t c pc va x ht hc
  have hpark : t.takesInside c = false := by
    refine Bool.eq_false_iff.mpr (fun h => ?_)
    obtain ⟨hcause, hvec, hhandler⟩ := takesInside_iff.mp h
    obtain hc | hc | hc := hc
    · exact hc hcause
    · exact hvec hc
    · exact hc hhandler
  rw [State.trapTask_record s id st t c pc va x ht hpark]
  obtain ⟨hrun, ha, hx, hm, hpc⟩ := parkOnRecord_stops t c st pc (s.cyc t.core)
  refine ⟨_, _, SMap.find?_put_self _ _ _, rfl, hrun, ha, hx, hm, hpc, fun h => ?_, fun h => parkOnRecord_inside h st pc _,
    rfl, rfl, rfl, rfl, rfl, rfl, rfl, rfl⟩
  rw [parkOnRecord_csr_of_no_handler (h := h)]
  exact ⟨rfl, rfl, rfl⟩

theorem trapOnRubricator : TrapOnRubricator := by
  intro s c pc u
  by_cases h : s.rub.tvec ≠ 0 ∧ s.rub.inHandler = false
  · have hu : u = _ := State.trapRub_vector s c pc h
    rw [hu]
    exact ⟨rfl, rfl, rfl, rfl, rfl, fun _ _ => ⟨rfl, rfl, rfl, rfl⟩, fun hn => absurd h (fun hc =>
      hn.elim hc.1 (fun hi => Bool.false_ne_true (hc.2.symm.trans hi)))⟩
  · have hu : u = _ := State.trapRub_halt s c pc h
    rw [hu]
    exact ⟨rfl, rfl, rfl, rfl, rfl, fun hv hi => absurd ⟨hv, hi⟩ h, fun _ => ⟨rfl, rfl, rfl, by simp⟩⟩

/-- Settles O19. -/
theorem trapsTaken : Obligations.TrapsTaken := ⟨trapInsideTask, trapOnRecord, trapOnRubricator⟩

end Traps

/-! ## TRAP and TRET (R177, R357) -/

theorem tret_of_trapReturn {w : AS} {s u : State} (h : Reads s []) (hu : s.trapReturn (w.imm.getLsbD 0) = some u) :
    exec (.tret w) s = .next u := by
  refine (aWord_completes h ?_ : execTret w s = _)
  rw [hu]

theorem trapReturn_of_rub {s : State} (skip : Bool) (hc : s.cur = .rub) (hi : s.rub.inHandler = true) :
    let u := (s.dropAsked .rub true none).dropAsked .rub false (if skip then none else some s.rub.tpc)
    s.trapReturn skip = some { u with rub := { s.rub with inHandler := false, pc := if skip then s.rub.tpc + 3 else s.rub.tpc } } := by
  dsimp only
  unfold State.trapReturn
  split
  · rw [if_pos hi]
    rfl
  · next h => exact absurd (hc.symm.trans h) (by simp)

theorem trapReturn_of_task {s : State} (skip : Bool) {id : Nat} {t : Task} {h : Handler} (hc : s.cur = .task id .a)
    (ht : s.task? id = some t) (hh : t.handler = some h) :
    let u := s.dropAsked (.task id .a) true none
    let v := if skip = true ∧ t.csr.trapStream = 0 then u.dropAsked (.task id .a) false none else u
    s.trapReturn skip = some ((v.measureReturns t).setTask id (t.leaveHandler h skip (s.cyc t.core))) := by
  simp only [State.trapReturn, hc, ht, hh, Bool.and_eq_true, decide_eq_true_eq]

theorem trapAndReturn : TrapAndReturn := by
  intro w s h
  refine ⟨(aWord_traps h rfl : execTrap w s = _), fun hn => ?_, fun hc hi => tret_of_trapReturn h (trapReturn_of_rub _ hc hi),
    fun id t k hc ht hk => tret_of_trapReturn h (trapReturn_of_task _ hc ht hk)⟩
  refine (aWord_traps h ?_ : execTret w s = _)
  rw [hn]
  rfl

theorem trapReturnRestores : TrapReturnRestores := by
  intro t h now u
  refine ⟨rfl, rfl, rfl, rfl, rfl, rfl, rfl, rfl, rfl, fun e he hcaptured => List.mem_map.mpr ⟨e, he, ?_⟩⟩
  exact if_pos hcaptured

/-- Settles O20. -/
theorem trapReturn : Obligations.TrapReturn := ⟨trapAndReturn, trapReturnRestores⟩

/-! ## What the CSRs hold (R41, R42, R393) -/

section CsrReads

variable {s : State} {id : Nat} {st : Stream} {t : Task}

theorem csrRead_of_task (hc : s.cur = .task id st) (ht : s.task? id = some t) (n : Nat) :
    s.csrRead n = ((s.csrTask t n).orElse (fun _ => s.csrCore t.core n)).orElse (fun _ => s.csrTower n) := by
  simp only [State.csrRead, hc, ht]

theorem csrRead_of_rub (hc : s.cur = .rub) (n : Nat) : s.csrRead n = s.csrTower n := by
  simp only [State.csrRead, hc]

theorem csrRead_values (hc : s.cur = .task id st) (ht : s.task? id = some t) :
    ∀ e ∈ csrValues s t ++ csrTowerValues s, s.csrRead e.1 = some e.2 := by
  simp only [csrRead_of_task hc ht, csrValues, csrTowerValues, List.forall_mem_append, List.forall_mem_cons, List.not_mem_nil,
    false_implies, implies_true, and_true]
  repeat' apply And.intro
  all_goals rfl

theorem csrTower_values (s : State) : ∀ e ∈ csrTowerValues s, s.csrTower e.1 = some e.2 := by
  simp only [csrTowerValues, List.forall_mem_cons, List.not_mem_nil, false_implies, implies_true, and_true]
  repeat' apply And.intro
  all_goals rfl

/-- The registers of a monitor unit lie at the offsets of Table 16.4. -/
theorem monitor_values (m : Monitor) : ∀ e ∈ monitorValues m, e.1 < 32 ∧ m.read e.1 = some e.2 := by
  simp only [monitorValues, List.forall_mem_append, List.forall_mem_cons, List.not_mem_nil, false_implies, implies_true, and_true]
  refine ⟨by repeat' apply And.intro
             all_goals simp [Monitor.read], fun e he => ?_⟩
  obtain ⟨b, hb, rfl⟩ := List.mem_map.mp he
  have hb : b < 16 := List.mem_range.mp hb
  refine ⟨by dsimp only; omega, ?_⟩
  unfold Monitor.read
  simp only [show ¬16 + b = 0 by omega, show ¬16 + b ≤ 4 by omega, show ¬16 + b = 5 by omega, show ¬16 + b = 6 by omega,
    show ¬16 + b = 7 by omega, show 16 ≤ 16 + b ∧ 16 + b < 32 from ⟨by omega, by omega⟩, and_self, if_false, if_true, Nat.add_sub_cancel_left]

/-- The numbers of the monitor units lie in no other table. -/
theorem csrTask_of_ge {n : Nat} (hn : 0x100 ≤ n) : s.csrTask t n = none := by
  unfold State.csrTask
  repeat rw [if_neg (by omega)]

theorem csrCore_of_monitor {core u o : Nat} (hu : u < 2) (ho : o < 32) : s.csrCore core (0x240 + 0x20 * u + o) = (s.monitor core u).read o := by
  unfold State.csrCore
  dsimp only
  repeat rw [if_neg (by omega)]
  rw [if_pos (by omega), show (0x240 + 0x20 * u + o - 0x240) / 0x20 = u by omega, show (0x240 + 0x20 * u + o - 0x240) % 0x20 = o by omega]

theorem csrRead_monitor (hc : s.cur = .task id st) (ht : s.task? id = some t) {u o : Nat} (hu : u < 2) (ho : o < 32) {v : Word}
    (hv : (s.monitor t.core u).read o = some v) : s.csrRead (0x240 + 0x20 * u + o) = some v := by
  rw [csrRead_of_task hc ht, csrTask_of_ge (by omega), csrCore_of_monitor hu ho, hv]
  rfl

theorem monitor_none {m : Monitor} {o : Nat} (h : ∀ e ∈ monitorValues m, e.1 ≠ o) : m.read o = none := by
  have hlow : ∀ k < 8, k ≠ o := by
    intro k hk
    simp only [monitorValues, List.forall_mem_append, List.forall_mem_cons] at h
    omega
  have hbins : ∀ b < 16, 16 + b ≠ o := fun b hb =>
    h (16 + b, _) (List.mem_append_right _ (List.mem_map_of_mem (List.mem_range.mpr hb)))
  have hout : ¬(o ≤ 7 ∨ 16 ≤ o ∧ o < 32) := by
    rintro (ho | ⟨ho, ho'⟩)
    · exact hlow o (by omega) rfl
    · exact hbins (o - 16) (by omega) (by omega)
  unfold Monitor.read
  repeat rw [if_neg (by omega)]

theorem csrTower_none {n : Nat} (h : ∀ e ∈ csrTowerValues s, e.1 ≠ n) : s.csrTower n = none := by
  simp only [csrTowerValues, List.forall_mem_cons] at h
  unfold State.csrTower
  repeat rw [if_neg (by omega)]

theorem csrTask_none {n : Nat} (h : ∀ e ∈ csrValues s t, e.1 ≠ n) : s.csrTask t n = none := by
  simp only [csrValues, List.forall_mem_append, List.forall_mem_cons] at h
  unfold State.csrTask
  repeat rw [if_neg (by omega)]

theorem csrCore_none {n : Nat} (h : ∀ e ∈ csrValues s t, e.1 ≠ n)
    (hm : ∀ u < 2, ∀ e ∈ monitorValues (s.monitor t.core u), 0x240 + 0x20 * u + e.1 ≠ n) : s.csrCore t.core n = none := by
  simp only [csrValues, List.forall_mem_append, List.forall_mem_cons] at h
  by_cases hn : 0x240 ≤ n ∧ n < 0x280
  · obtain ⟨u, o, hu, ho, rfl⟩ : ∃ u o, u < 2 ∧ o < 32 ∧ n = 0x240 + 0x20 * u + o :=
      ⟨(n - 0x240) / 0x20, (n - 0x240) % 0x20, by omega, by omega, by omega⟩
    rw [csrCore_of_monitor hu ho]
    exact monitor_none (fun e he heq => hm u hu e he (by rw [heq]))
  · unfold State.csrCore
    dsimp only
    repeat rw [if_neg (by omega)]

end CsrReads

/-- R41: a number reads as the tables have it, and no other number reads. -/
theorem csrReads : CsrReads := by
  refine ⟨fun s id st t hc ht => ⟨csrRead_values hc ht, fun u hu e he => ?_, fun n hn hm => ?_⟩, fun s hc => ⟨fun e he => ?_, fun n hn => ?_⟩⟩
  · obtain ⟨ho, hv⟩ := monitor_values _ e he
    exact csrRead_monitor hc ht hu ho hv
  · obtain ⟨hvalues, htower⟩ := List.forall_mem_append.mp hn
    rw [csrRead_of_task hc ht, csrTask_none hvalues, csrCore_none hvalues hm, csrTower_none htower]
    rfl
  · rw [csrRead_of_rub hc, csrTower_values s e he]
  · rw [csrRead_of_rub hc, csrTower_none hn]

/-! ## Writing CSRs (R41, R178, R394) -/

section CsrWrites

variable {w : AS} {s u : State} {c : Cause}

theorem csrw_completes (h : Reads s [w.a]) (hu : s.csrWrite w.obj.toNat (s.reg w.a) = .ok u) : exec (.csrw w) s = .next u.advance := by
  refine (aWord_completes h ?_ : execCsrw w s = _)
  rw [hu, Try.ok_bind]

theorem csrw_traps (h : Reads s [w.a]) (hu : s.csrWrite w.obj.toNat (s.reg w.a) = raise c) : Traps (.csrw w) s c 0 := by
  refine (aWord_traps h ?_ : execCsrw w s = _)
  rw [hu, raise, Try.error_bind]

theorem csrWrite_of_none {n : Nat} (v : Word) (hn : s.csrRead n = none) : s.csrWrite n v = raise .reservedField := by
  simp only [State.csrWrite, hn, Option.isSome_none, require_false, Try.error_bind, raise]

/-- The Rubricator writes a supervisor CSR. -/
theorem csrWrite_of_rub {n : Nat} (v : Word) (hc : s.cur = .rub) (hn : s.csrRead n ≠ none) :
    s.csrWrite n v = match s.rub.csrWrite n v with
      | some r => .ok { s with rub := r }
      | none => raise .access := by
  unfold State.csrWrite
  rw [Option.isSome_iff_ne_none.mpr hn, require_true, Try.ok_bind]
  split
  · rfl
  · next h => exact absurd (hc.symm.trans h) (by simp)

/-- A task writes a register of a monitor unit of its core, or a CSR of its own. -/
theorem csrWrite_of_task {n : Nat} (v : Word) {id : Nat} {st : Stream} {t : Task} (hc : s.cur = .task id st) (ht : s.task? id = some t)
    (hn : s.csrRead n ≠ none) :
    s.csrWrite n v =
      if 0x240 ≤ n ∧ n < 0x280 then s.monWrite t.core ((n - 0x240) / 0x20) ((n - 0x240) % 0x20) v
      else match t.csr.write n v with
        | some k => .ok (s.setTask id { t with csr := k })
        | none => raise .access := by
  simp only [State.csrWrite, Option.isSome_iff_ne_none.mpr hn, require_true, Try.ok_bind, hc, ht] <;> rfl

theorem readsOfTask {id : Nat} {t : Task} {ns : List (BitVec 6)} (h : OnTask s id t ns) : Reads s ns :=
  ⟨by simp [State.acts, h.cur, h.there], h.ready⟩

theorem csrReadsAndWrites : CsrReadsAndWrites := by
  intro w s n
  refine ⟨fun h => ⟨fun v hv => ?read, fun hn => ?unassigned⟩, fun h => ⟨fun hn => csrw_traps h (csrWrite_of_none _ hn), fun r hc hn hr => ?rub, fun hc hn hr => ?rubReadOnly⟩,
    fun id t h hn hm => ⟨fun k hk => ?task, fun hk => ?taskReadOnly⟩⟩
  case read =>
    refine (aWord_completes h ?_ : execCsrr w s = _)
    rw [hv]
  case unassigned =>
    refine (aWord_traps h ?_ : execCsrr w s = _)
    rw [hn]
    rfl
  case rub => exact csrw_completes h (by rw [csrWrite_of_rub _ hc hn, hr])
  case rubReadOnly => exact csrw_traps h (by rw [csrWrite_of_rub _ hc hn, hr])
  case task => exact csrw_completes (readsOfTask h) (by rw [csrWrite_of_task _ h.cur h.there hn, if_neg hm, hk])
  case taskReadOnly => exact csrw_traps (readsOfTask h) (by rw [csrWrite_of_task _ h.cur h.there hn, if_neg hm, hk])

end CsrWrites

theorem taskCsrWrites : TaskCsrWrites := by
  intro k n v
  refine ⟨rfl, rfl, rfl, rfl, rfl, rfl, rfl, rfl, rfl, rfl, fun hn => ?_⟩
  simp only [List.mem_cons, List.not_mem_nil, or_false] at hn
  unfold TaskCsr.write
  repeat rw [if_neg (by omega)]

theorem exists_monitor_read (m : Monitor) {o : Nat} (ho : o ≤ 7 ∨ 16 ≤ o ∧ o < 32) : ∃ v, m.read o = some v := by
  unfold Monitor.read
  iterate 6 (split; exact ⟨_, rfl⟩)
  omega

theorem monitorWrites : MonitorWrites := by
  intro w s id u o t h hobj hu ho v m
  have ho32 : o < 32 := by omega
  obtain ⟨x, hx⟩ := exists_monitor_read m ho
  have hassigned : s.csrRead w.obj.toNat ≠ none := by
    rw [hobj, csrRead_monitor h.cur h.there hu ho32 hx]
    exact Option.some_ne_none x
  have hwrite : s.csrWrite w.obj.toNat v = s.monWrite t.core u o v := by
    rw [csrWrite_of_task _ h.cur h.there hassigned, hobj, if_pos (by omega), show (0x240 + 0x20 * u + o - 0x240) / 0x20 = u by omega,
      show (0x240 + 0x20 * u + o - 0x240) % 0x20 = o by omega]
  refine ⟨fun hz hv => csrw_completes (readsOfTask h) (hwrite.trans ?_), fun hz hv => csrw_traps (readsOfTask h) (hwrite.trans ?_),
    fun h1 h4 => csrw_completes (readsOfTask h) (hwrite.trans ?_), fun h5 => csrw_traps (readsOfTask h) (hwrite.trans ?_)⟩
  · rw [State.monWrite, if_pos hz, decide_eq_true hv, require_true, Try.ok_bind]
  · rw [State.monWrite, if_pos hz, decide_eq_false (Nat.not_lt.mpr hv), require_false, Try.error_bind, raise]
  · rw [State.monWrite, if_neg (by omega), if_pos h4]
  · rw [State.monWrite, if_neg (by omega), if_neg (by omega)]

/-- Settles O21. -/
theorem csrWords : Obligations.CsrWords := ⟨csrReadsAndWrites, csrReads, taskCsrWrites, monitorWrites⟩

end Sys2Proof.Proofs
end

section
/-! PROOFS. The system words of the A stream: the Inkwell, parking, launching, queues, mailboxes, pre-emption, Proofing and sampling
(R174 to R191). -/

namespace Sys2Proof.Proofs

open Sys2Proof Sys2Proof.Machine Sys2Proof.Claims

theorem require_of {b : Bool} (h : b = true) (c : Cause) : require b c = .ok () := by rw [h, require_true]

theorem require_of_not {b : Bool} (h : b = false) (c : Cause) : require b c = .error (.trap c 0) := by rw [h, require_false]

/-! ## INKQ and INKR (R175, R176) -/

/-- R175: the levels and durations that INKQ may ask for. -/
theorem inkLegal_iff (lvl dur : Nat) :
    (decide (1 ≤ lvl) && decide (lvl ≤ 4095) && decide (1 ≤ dur) && decide (dur ≤ 65535)) =
      decide (1 ≤ lvl ∧ lvl ≤ 4095 ∧ 1 ≤ dur ∧ dur ≤ 65535) := by
  simp only [Bool.decide_and, Bool.and_assoc]

theorem inkWords : InkWords := by
  intro w s id t
  refine ⟨fun h hh => ?_, fun h => (taskWord_completes h rfl : execInkr w s = _)⟩
  intro lvl dur legal
  refine ⟨fun hl => ?range, fun hl hg => ?granted, fun hl hg ha => ?asked, fun hl hg ha => ?request⟩
  case range =>
    refine (taskWord_traps h ?_ : execInkq w s = _)
    rw [notInHandler_of_none hh, Try.ok_bind]
    dsimp only
    rw [inkLegal_iff, require_of_not (decide_eq_false hl), Try.error_bind]
  case granted =>
    refine (taskWord_completes h ?_ : execInkq w s = _)
    rw [notInHandler_of_none hh, Try.ok_bind]
    dsimp only
    rw [inkLegal_iff, require_of (decide_eq_true hl), Try.ok_bind, if_pos hg]
  case asked =>
    refine (taskWord_pends h ?_ : execInkq w s = _)
    rw [notInHandler_of_none hh, Try.ok_bind]
    dsimp only
    rw [inkLegal_iff, require_of (decide_eq_true hl), Try.ok_bind, if_neg (Bool.eq_false_iff.mp hg), if_pos ha]
  case request =>
    refine (taskWord_pends h ?_ : execInkq w s = _)
    rw [notInHandler_of_none hh, Try.ok_bind]
    dsimp only
    rw [inkLegal_iff, require_of (decide_eq_true hl), Try.ok_bind, if_neg (Bool.eq_false_iff.mp hg), if_neg (Bool.eq_false_iff.mp ha)]

/-! ## PARK (R180) -/

section Park

variable {s : State} {id : Nat} {t : Task} {c : ParkCond}

theorem park_of_holds (h : s.parkHolds t c = true) : s.park id t c = .ok s.advance := if_pos h

theorem park_of_not_holds (h : s.parkHolds t c = false) :
    s.park id t c = .ok ((s.waitOn .park).onTask id (fun t => { t with run := .parked c, unpark := false })) :=
  if_neg (Bool.eq_false_iff.mp h)

/-- A word whose body, its checks passed, is the parking on a condition. -/
theorem parks_of_park {o : Host.Outcome State Fault Refusal} {ns : List (BitVec 6)} {f : State → Nat → Task → Try State}
    (h : OnTask s id t ns) (ho : o = s.taskWord ns f) (hf : f s id t = s.park id t c) :
    (s.parkHolds t c = true → o = .next s.advance) ∧
    (s.parkHolds t c = false →
      o = .next ((s.waitOn .park).onTask id (fun t => { t with run := .parked c, unpark := false }))) :=
  ⟨fun hp => ho.trans (taskWord_completes h (hf.trans (park_of_holds hp))),
    fun hp => ho.trans (taskWord_completes h (hf.trans (park_of_not_holds hp)))⟩

end Park

theorem parkWords : ParkWords := by
  intro w s id t a b parks
  refine ⟨fun h hh => ⟨fun hn => ?bar, fun hn => ?barRange, fun hn => ?sem, fun hn => ?semRange⟩,
    fun h hh => ⟨fun hn => ?mbx, fun hn => ?mbxRange, ?ink⟩, fun h hh => ⟨?barHandler, ?semHandler⟩⟩
  case bar =>
    refine parks_of_park (o := execParkBar w s) h rfl ?_
    rw [notInHandler_of_none hh, Try.ok_bind, require_of (decide_eq_true hn), Try.ok_bind]
  case barRange =>
    refine (taskWord_traps h ?_ : execParkBar w s = _)
    rw [notInHandler_of_none hh, Try.ok_bind, require_of_not (decide_eq_false (Nat.not_lt.mpr hn)), Try.error_bind]
  case sem =>
    refine parks_of_park (o := execParkSem w s) h rfl ?_
    rw [notInHandler_of_none hh, Try.ok_bind, require_of (decide_eq_true hn), Try.ok_bind]
  case semRange =>
    refine (taskWord_traps h ?_ : execParkSem w s = _)
    rw [notInHandler_of_none hh, Try.ok_bind, require_of_not (decide_eq_false (Nat.not_lt.mpr hn)), Try.error_bind]
  case mbx =>
    refine parks_of_park (o := execParkMbx w s) h rfl ?_
    rw [notInHandler_of_none hh, Try.ok_bind, require_of (decide_eq_true hn), Try.ok_bind]
  case mbxRange =>
    refine (taskWord_traps h ?_ : execParkMbx w s = _)
    rw [notInHandler_of_none hh, Try.ok_bind, require_of_not (decide_eq_false (Nat.not_lt.mpr hn)), Try.error_bind]
  case ink =>
    refine parks_of_park (o := execParkInk w s) h rfl ?_
    rw [notInHandler_of_none hh, Try.ok_bind]
  case barHandler =>
    refine (taskWord_traps h ?_ : execParkBar w s = _)
    rw [notInHandler_of_some hh, Try.error_bind]
  case semHandler =>
    refine (taskWord_traps h ?_ : execParkSem w s = _)
    rw [notInHandler_of_some hh, Try.error_bind]

/-- Settles O22. -/
theorem inkAndParkWords : Obligations.InkAndParkWords := ⟨inkWords, parkWords⟩

/-! ## LGO, LPATCH and QENT (R183, R184, R187) -/

/-- R183: an attempt that fails is counted, and creates nothing. -/
theorem arm_refused {s u : State} {entry : Nat} {byTask : Bool} {st : Strand} (h : s.arm entry byTask st = (false, u)) :
    u = { s with nextArming := s.nextArming + 1 } := by
  unfold State.arm at h
  dsimp only at h
  split at h
  · exact (Prod.mk.inj h).2.symm
  · split at h
    · exact (Prod.mk.inj h).2.symm
    · exact absurd (Prod.mk.inj h).1 (by simp)

section Lgo

variable {w : AS} {s u : State}

theorem exec_lgo (h : Reads s []) (hf : s.armingsFull = false) (hs : s.serviceFree = true) :
    exec (.lgo w) s = .next (s.finish (if (s.arm w.obj.toNat s.byTask s.strand).1
      then .ok (s.arm w.obj.toNat s.byTask s.strand).2.advance
      else .error (.trapWith .access (s.arm w.obj.toNat s.byTask s.strand).2))) := by
  refine (State.aWord_next s _ _ h.acts h.ready : execLgo w s = _).trans ?_
  rw [hf, hs, Bool.not_false, Bool.and_self, await_true, Try.ok_bind]

theorem lgo_waits (h : Reads s []) (hw : s.armingsFull = true ∨ s.serviceFree = false) : Waits (.lgo w) s := by
  have hno : (!s.armingsFull && s.serviceFree) = false := by obtain hw | hw := hw <;> simp [hw]
  refine (aWord_waits h ?_ : execLgo w s = _)
  rw [hno, await_false, Try.error_bind]

end Lgo

theorem launchWords : LaunchWords := by
  intro w s u
  refine ⟨fun h => ⟨lgo_waits h, fun hf hs hu => ?armed, fun hf hs hu => ?refused⟩, fun b m old h hb => ?_⟩
  case armed =>
    rw [exec_lgo h hf hs, hu]
    rfl
  case refused =>
    obtain rfl := arm_refused hu
    refine ⟨?_, rfl, rfl⟩
    rw [exec_lgo h hf hs, hu]
    rfl
  dsimp only
  intro hm
  have hbit : bits (leNat m) w.fn.toNat 1 = leNat m / 2 ^ w.fn.toNat % 2 := rfl
  refine ⟨fun htask hright => ?noRight, fun hright => ?_⟩
  case noRight =>
    refine (aWord_traps h ?_ : execLpatch w s = _)
    have hno : (!s.byTask || decide (bits (leNat m) w.fn.toNat 1 = 1)) = false := by
      rw [htask, hbit, hright]
      rfl
    simp only [hb, hm, Try.ok_bind, require_of_not hno, Try.error_bind]
  have hyes : (!s.byTask || decide (bits (leNat m) w.fn.toNat 1 = 1)) = true := by
    rw [hbit]
    obtain hright | hright := hright <;> simp [hright]
  refine ⟨fun hbad => ?badValue, fun hok hold hu => ?patched⟩
  case badValue =>
    refine (aWord_traps h ?_ : execLpatch w s = _)
    simp only [hb, hm, Try.ok_bind, require_of hyes, require_of_not hbad, Try.error_bind]
  case patched =>
    refine (aWord_completes h ?_ : execLpatch w s = _)
    simp only [hb, hm, Try.ok_bind, require_of hyes, require_of hok, hold, hu]

section Enqueue

variable {w : AS} {s : State} {act : Nat} {o : Host.Outcome State Fault Refusal} {bs : List Byte}

theorem supervisor_of_task (h : s.byTask = true) : s.supervisor = .error (.trap .access 0) := by rw [State.supervisor, h]; rfl

theorem supervisor_of_rub (h : s.byTask = false) : s.supervisor = .ok () := by rw [State.supervisor, h]; rfl

/-- The four forms of QENT differ in the action alone. -/
theorem enqueue_cases (h : Reads s [w.a]) (ho : o = s.enqueue w act) :
    let a := (s.reg w.a).toNat
    let q := s.queues.get [] w.obj.toNat
    let im := dwords 8 bs
    (s.byTask = true → o = .next (s.takeTrap .access 0)) ∧
    (s.byTask = false → a % 64 ≠ 0 → o = .next (s.takeTrap .misaligned a)) ∧
    (s.byTask = false → a % 64 = 0 → s.viewRead s.aEngine a 64 = .ok bs →
      (imageOk act im = false → o = .next (s.takeTrap .reservedField 0)) ∧
      (imageOk act im = true → 256 ≤ q.length → o = .next s.held) ∧
      (imageOk act im = true → q.length < 256 →
        o = .next ({ s with queues := s.queues.set [] w.obj.toNat (q ++ [QEntry.mk act im false]) }.ordered
          (fun o => o.append w.obj.toNat)).testQueues.advance)) := by
  dsimp only
  refine ⟨fun ht => ho.trans (aWord_traps h ?_), fun ht ha => ho.trans (aWord_traps h ?_), fun ht ha hb =>
    ⟨fun hi => ho.trans (aWord_traps h ?_), fun hi hq => ho.trans (aWord_waits h ?_), fun hi hq => ho.trans (aWord_completes h ?_)⟩⟩
  · rw [supervisor_of_task ht, Try.error_bind]
  · rw [supervisor_of_rub ht, Try.ok_bind]
    exact if_pos ha
  · rw [supervisor_of_rub ht, Try.ok_bind]
    refine (if_neg (not_not_intro ha)).trans ?_
    simp only [hb, Try.ok_bind, require_of_not hi, Try.error_bind]
  · rw [supervisor_of_rub ht, Try.ok_bind]
    refine (if_neg (not_not_intro ha)).trans ?_
    simp only [hb, Try.ok_bind, require_of hi, decide_eq_false (Nat.not_lt.mpr hq), await_false, Try.error_bind]
  · rw [supervisor_of_rub ht, Try.ok_bind]
    refine (if_neg (not_not_intro ha)).trans ?_
    simp only [hb, Try.ok_bind, require_of hi, decide_eq_true hq, await_true]

end Enqueue

theorem queueWords : QueueWords := by
  intro w s bs h a q im enqueues
  exact ⟨enqueue_cases (o := execQentLaunch w s) h rfl, enqueue_cases (o := execQentCopy w s) h rfl,
    enqueue_cases (o := execQentSem w s) h rfl, enqueue_cases (o := execQentHirq w s) h rfl⟩

/-- Settles O23. -/
theorem launchAndQueueWords : Obligations.LaunchAndQueueWords := ⟨launchWords, queueWords⟩

/-! ## Mailboxes (R185) -/

section Mbxr

variable {w : AS} {s u : State}

theorem mbxrRead_misaligned (ha : (s.reg w.a).toNat % 8 ≠ 0) : s.mbxrRead w = .error (.trap .misaligned (s.reg w.a).toNat) := if_pos ha

theorem mbxrRead_host (ha : (s.reg w.a).toNat % 8 = 0) (hd : (s.mailbox w.obj.toNat).device = false) :
    s.mbxrRead w = .ok (s, BitVec.allOnes 64) := by
  refine (if_neg (not_not_intro ha)).trans ?_
  rw [hd]
  rfl

theorem mbxrRead_device (ha : (s.reg w.a).toNat % 8 = 0) (hd : (s.mailbox w.obj.toNat).device = true)
    (hu : s.viewWrite s.aEngine (s.reg w.a).toNat ((s.mailbox w.obj.toNat).bytes 0 (s.mailbox w.obj.toNat).len) = .ok u) :
    s.mbxrRead w = .ok (u, BitVec.ofNat 64 (s.mailbox w.obj.toNat).len) := by
  refine (if_neg (not_not_intro ha)).trans ?_
  rw [hd]
  refine (if_pos rfl).trans ?_
  rw [hu, Try.ok_bind]

theorem mbxr_completes {v : Word} (h : Reads s [w.a]) (hr : s.mbxrRead w = .ok (u, v)) :
    exec (.mbxr w) s = .next (u.launchReg w.d v).advance := by
  refine (aWord_completes h ?_ : execMbxr w s = _)
  rw [hr]
  rfl

end Mbxr

theorem mailboxWords : MailboxWords := by
  intro w s u bs
  dsimp only
  refine ⟨fun h => ⟨fun ha => ?misaligned, fun ha hd => mbxr_completes h (mbxrRead_host ha hd),
    fun ha hd hu => mbxr_completes h (mbxrRead_device ha hd hu)⟩, fun h => ?_⟩
  case misaligned =>
    refine (aWord_traps h ?_ : execMbxr w s = _)
    rw [mbxrRead_misaligned ha]
    rfl
  refine ⟨fun ha => ?_, fun ha hn => ?_, fun ha hn hb => ⟨fun hd => ?_, fun hd => ?_⟩⟩
  · exact (aWord_traps h (if_pos ha) : execMbxs w s = _)
  · refine (aWord_traps h ((if_neg (not_not_intro ha)).trans ?_) : execMbxs w s = _)
    rw [require_of_not (decide_eq_false (Nat.not_le.mpr hn)), Try.error_bind]
  · refine (aWord_traps h ((if_neg (not_not_intro ha)).trans ?_) : execMbxs w s = _)
    simp only [require_of (decide_eq_true hn), Try.ok_bind, hb, require_of_not hd, Try.error_bind]
  · refine (aWord_completes h ((if_neg (not_not_intro ha)).trans ?_) : execMbxs w s = _)
    simp only [require_of (decide_eq_true hn), Try.ok_bind, hb, require_of hd]
    rfl

/-! ## PREEMPT, PROOF and SAMPM (R189 to R191) -/

section Supervisor

variable {w : AS} {s : State}

/-- Bits of a register above its last zero field. -/
theorem bits_top_eq_zero_iff (x : Word) {lo n : Nat} (hn : lo + n = 64) : bits x.toNat lo n = 0 ↔ x.toNat / 2 ^ lo = 0 := by
  rw [bits, Nat.mod_eq_of_lt]
  rw [Nat.div_lt_iff_lt_mul (Nat.two_pow_pos lo), ← Nat.pow_add, Nat.add_comm, hn]
  exact x.isLt

theorem preempt_traps (h : Reads s [w.a]) (ht : s.byTask = true) : Traps (.preempt w) s .access 0 := by
  refine (aWord_traps h ?_ : execPreempt w s = _)
  rw [supervisor_of_task ht, Try.error_bind]

theorem exec_preempt (h : Reads s [w.a]) (ht : s.byTask = false) (h3 : (s.reg w.a).toNat / 8 % 64 = 0) (h17 : (s.reg w.a).toNat / 2 ^ 17 = 0) :
    exec (.preempt w) s = .next (s.finish (match s.taskIn (bits (s.reg w.a).toNat 9 8) (bits (s.reg w.a).toNat 0 3) with
      | none => .ok (s.setReg w.d 1).advance
      | some (id, t) =>
        if t.pre.isSome then .ok (s.setReg w.d 2).advance
        else .ok ((s.setTask id { t with pre := some { phase := .drain, since := s.tsc } }).setReg w.d 0).advance)) := by
  have hlegal : (decide (bits (s.reg w.a).toNat 3 6 = 0) && decide (bits (s.reg w.a).toNat 17 47 = 0)) = true :=
    Bool.and_eq_true_iff.mpr ⟨decide_eq_true h3, decide_eq_true ((bits_top_eq_zero_iff _ rfl).mpr h17)⟩
  refine (State.aWord_next s _ _ h.acts h.ready : execPreempt w s = _).trans ?_
  simp only [supervisor_of_rub ht, Try.ok_bind, require_of hlegal] <;> rfl

theorem proof_traps (h : Reads s [w.a]) (ht : s.byTask = true) : s.proof w = .next (s.takeTrap .access 0) := by
  refine aWord_traps h ?_
  rw [supervisor_of_task ht, Try.error_bind]

theorem proof_reserved (h : Reads s [w.a]) (ht : s.byTask = false) (hv : 512 ≤ (s.reg w.a).toNat) :
    s.proof w = .next (s.takeTrap .reservedField 0) := by
  refine aWord_traps h ?_
  simp only [supervisor_of_rub ht, Try.ok_bind, require_of_not (decide_eq_false (Nat.not_lt.mpr hv)), Try.error_bind]

theorem proof_waits (h : Reads s [w.a]) (ht : s.byTask = false) (hv : (s.reg w.a).toNat < 512) (hf : s.serviceFree = false) :
    s.proof w = .next s.held := by
  refine aWord_waits h ?_
  simp only [supervisor_of_rub ht, Try.ok_bind, require_of (decide_eq_true hv), hf, await_false, Try.error_bind]

theorem proof_answers {r : Nat × State} (h : Reads s [w.a]) (ht : s.byTask = false) (hv : (s.reg w.a).toNat < 512) (hf : s.serviceFree = true)
    (hr : (if bits (s.reg w.a).toNat 8 1 = 0 then s.proofStart ((s.reg w.a).toNat % 256) else s.proofAbort ((s.reg w.a).toNat % 256)) = r) :
    s.proof w = .next (r.2.setReg w.d (BitVec.ofNat 64 r.1)).advance := by
  refine aWord_completes h ?_
  simp only [supervisor_of_rub ht, Try.ok_bind, require_of (decide_eq_true hv), hf, await_true, hr]

end Supervisor

theorem sampm_legal_iff (x : Word) :
    ((decide (bits x.toNat 0 32 = 0) || decide (64 ≤ bits x.toNat 0 32)) && decide (1 ≤ bits x.toNat 32 16) && decide (bits x.toNat 48 16 = 0)) =
      decide ((x.toNat % 2 ^ 32 = 0 ∨ 64 ≤ x.toNat % 2 ^ 32) ∧ 1 ≤ x.toNat / 2 ^ 32 % 65536 ∧ x.toNat / 2 ^ 48 = 0) := by
  have h48 := bits_top_eq_zero_iff x (lo := 48) (n := 16) rfl
  have h0 : bits x.toNat 0 32 = x.toNat % 2 ^ 32 := by simp [bits]
  have h32 : bits x.toNat 32 16 = x.toNat / 2 ^ 32 % 65536 := rfl
  rw [h0, h32]
  simp only [h48, Bool.decide_and, Bool.decide_or, Bool.and_assoc]

theorem supervisorWords : SupervisorWords := by
  intro w s
  dsimp only
  refine ⟨fun h => ⟨fun ht => ⟨preempt_traps h ht, (proof_traps h ht : execProofStart w s = _), (proof_traps h ht : execProofAbort w s = _)⟩,
    fun ht h3 h17 => ⟨fun hn => ?none, fun id t hi hp => ?underWay, fun id t hi hp => ?drain⟩,
    fun ht hv => (proof_reserved h ht hv : execProofStart w s = _),
    fun ht hv hf => ⟨(proof_waits h ht hv hf : execProofStart w s = _), (proof_waits h ht hv hf : execProofAbort w s = _)⟩,
    fun ht hv hf => ?start, fun ht hl hv hf => ?abort⟩, fun id t h => ?_⟩
  case none =>
    have hslot : s.taskIn (bits (s.reg w.a).toNat 9 8) (bits (s.reg w.a).toNat 0 3) = none := by simpa [bits] using hn
    rw [Puts, exec_preempt h ht h3 h17, hslot]
    rfl
  case underWay =>
    have hslot : s.taskIn (bits (s.reg w.a).toNat 9 8) (bits (s.reg w.a).toNat 0 3) = some (id, t) := by simpa [bits] using hi
    rw [Puts, exec_preempt h ht h3 h17, hslot]
    exact congrArg (fun x => Host.Outcome.next (s.finish x)) (if_pos (Option.isSome_iff_ne_none.mpr hp))
  case drain =>
    have hslot : s.taskIn (bits (s.reg w.a).toNat 9 8) (bits (s.reg w.a).toNat 0 3) = some (id, t) := by simpa [bits] using hi
    rw [exec_preempt h ht h3 h17, hslot]
    exact congrArg (fun x => Host.Outcome.next (s.finish x)) (if_neg (by simp [hp]))
  case start =>
    refine (proof_answers h ht (by omega) hf ?_ : execProofStart w s = _)
    rw [if_pos (by simp only [bits]; omega), Nat.mod_eq_of_lt hv]
  case abort =>
    refine (proof_answers h ht hv hf ?_ : execProofAbort w s = _)
    rw [if_neg (by simp only [bits]; omega), show (s.reg w.a).toNat % 256 = (s.reg w.a).toNat - 256 by omega]
  refine ⟨fun ha => (taskWord_traps h (if_pos ha) : execSampm w s = _), fun ha hl => ?_, fun ha hl hi => ?_, fun ha hl hi => ?_⟩
  · refine (taskWord_traps h ((if_neg (not_not_intro ha)).trans ?_) : execSampm w s = _)
    rw [sampm_legal_iff, require_of_not (decide_eq_false hl), Try.error_bind]
  · refine (taskWord_completes h ((if_neg (not_not_intro ha)).trans ?_) : execSampm w s = _)
    rw [sampm_legal_iff, require_of (decide_eq_true hl), Try.ok_bind, if_pos (by simpa [bits] using hi)]
  · refine (taskWord_completes h ((if_neg (not_not_intro ha)).trans ?_) : execSampm w s = _)
    rw [sampm_legal_iff, require_of (decide_eq_true hl), Try.ok_bind, if_neg (by simpa [bits] using hi)]
    simp only [bits, Nat.pow_zero, Nat.div_one] <;> rfl

/-- Settles O24. -/
theorem mailboxAndSupervisorWords : Obligations.MailboxAndSupervisorWords := ⟨mailboxWords, supervisorWords⟩

end Sys2Proof.Proofs
end

section
/-! PROOFS. The words of the X stream that the frame of an X word carries (R193, R196): arithmetic, conversion, lane movement,
reductions and predicates (R197 to R241, R253, R254). -/

namespace Sys2Proof.Proofs

open Sys2Proof Sys2Proof.Machine Sys2Proof.Claims

/-! ## The forms of an X word are its frame -/

section Forms

variable {w : XV3} {v : XV4}

theorem xLane1_of_exec_eq {i : XV3 → Instr} {ta td : Nat} {time : Nat × Nat} {f : Nat → Int → Int × Flags}
    (hi : ∀ s, exec (i w) s = s.xv1 w ta td time f) : XLane1 i w ta td time f :=
  xDoes_of_exec_eq_xOp hi

theorem xLane2_of_exec_eq {i : XV3 → Instr} {ta tb td : Nat} {time : Nat × Nat} {f : Nat → Int → Int → Int × Flags}
    (hi : ∀ s, exec (i w) s = s.xv2 w ta tb td time f) : XLane2 i w ta tb td time f :=
  xDoes_of_exec_eq_xOp hi

theorem xLane3_of_exec_eq {i : XV4 → Instr} {time : Nat × Nat} {own : State → Task → Try Unit} {f : Int → Int → Int → Int × Flags}
    (hi : ∀ s, exec (i v) s = s.xv3 v v.ty.toNat time (own s) f) : XLane3 i v time own f := by
  unfold XLane3
  refine xDoes_of_exec_eq_xOp (fun s => ?_)
  rw [hi]
  rfl

theorem xTest_of_exec_eq {i : XV3 → Instr} {f : Int → Int → Int × Flags} (hi : ∀ s, exec (i w) s = s.xcmp w f) : XTest i w f :=
  xDoes_of_exec_eq_xOp hi

end Forms

/-- Settles O25: each word is the frame of an X word with its operands, its time and its function. -/
theorem xIntegerWords : Obligations.XIntegerWords := by
  intro w v
  refine ⟨?vadd, ?vsub, ?vmul, ?vmulh, ?vmad, ?vdot4, ?vdot8, ?vmin, ?vmax, ?vabs, ?vabsd, ?vneg, ?vavg, ?vshl, ?vshr, ?vsra, ?vrsh, ?vand, ?vor, ?vxor, ?vandn, ?vnot, ?vpopc, ?vclz, ?vsel, ?vcmp, ?vclamp⟩
  case vadd => exact xLane2_of_exec_eq (fun s => (rfl : execVadd w s = _))
  case vsub => exact xLane2_of_exec_eq (fun s => (rfl : execVsub w s = _))
  case vmul => exact xLane2_of_exec_eq (fun s => (rfl : execVmul w s = _))
  case vmulh => exact xLane2_of_exec_eq (fun s => (rfl : execVmulh w s = _))
  case vmad => exact xLane3_of_exec_eq (fun s => (rfl : execVmad v s = _))
  case vdot4 => exact xLane3_of_exec_eq (fun s => (rfl : execVdot4 v s = _))
  case vdot8 => exact xLane3_of_exec_eq (fun s => (rfl : execVdot8 v s = _))
  case vmin => exact xLane2_of_exec_eq (fun s => (rfl : execVmin w s = _))
  case vmax => exact xLane2_of_exec_eq (fun s => (rfl : execVmax w s = _))
  case vabs => exact xLane1_of_exec_eq (fun s => (rfl : execVabs w s = _))
  case vabsd => exact xLane2_of_exec_eq (fun s => (rfl : execVabsd w s = _))
  case vneg => exact xLane1_of_exec_eq (fun s => (rfl : execVneg w s = _))
  case vavg => exact xLane2_of_exec_eq (fun s => (rfl : execVavg w s = _))
  case vshl => exact vshl_lanes w
  case vshr => exact vshr_lanes w
  case vsra => exact vsra_lanes w
  case vrsh => exact xLane2_of_exec_eq (fun s => (rfl : execVrsh w s = _))
  case vand => exact xLane2_of_exec_eq (fun s => (rfl : execVand w s = _))
  case vor => exact xLane2_of_exec_eq (fun s => (rfl : execVor w s = _))
  case vxor => exact xLane2_of_exec_eq (fun s => (rfl : execVxor w s = _))
  case vandn => exact xLane2_of_exec_eq (fun s => (rfl : execVandn w s = _))
  case vnot => exact xLane1_of_exec_eq (fun s => (rfl : execVnot w s = _))
  case vpopc => exact xLane1_of_exec_eq (fun s => (rfl : execVpopc w s = _))
  case vclz => exact xLane1_of_exec_eq (fun s => (rfl : execVclz w s = _))
  case vsel => exact xLane3_of_exec_eq (fun s => (rfl : execVsel v s = _))
  case vcmp => exact xTest_of_exec_eq (fun s => (rfl : execVcmp w s = _))
  case vclamp => exact xLane3_of_exec_eq (fun s => (rfl : execVclamp v s = _))

/-- Settles O26: each word is the frame of an X word with its operands, its time and its function. -/
theorem xFloatWords : Obligations.XFloatWords := by
  intro w v
  refine ⟨?vfadd, ?vfsub, ?vfmul, ?vfma, ?vfms, ?vfnma, ?vfmin, ?vfmax, ?vfabs, ?vfneg, ?vfcmp, ?vfclass, ?vrcp, ?vrsq, ?vsqrt, ?vexp2, ?vlog2, ?vdiv, ?vfscl⟩
  case vfadd => exact xLane2_of_exec_eq (fun s => (rfl : execVfadd w s = _))
  case vfsub => exact xLane2_of_exec_eq (fun s => (rfl : execVfsub w s = _))
  case vfmul => exact xLane2_of_exec_eq (fun s => (rfl : execVfmul w s = _))
  case vfma => exact xLane3_of_exec_eq (fun s => (rfl : execVfma v s = _))
  case vfms => exact xLane3_of_exec_eq (fun s => (rfl : execVfms v s = _))
  case vfnma => exact xLane3_of_exec_eq (fun s => (rfl : execVfnma v s = _))
  case vfmin => exact xLane2_of_exec_eq (fun s => (rfl : execVfmin w s = _))
  case vfmax => exact xLane2_of_exec_eq (fun s => (rfl : execVfmax w s = _))
  case vfabs => exact xLane1_of_exec_eq (fun s => (rfl : execVfabs w s = _))
  case vfneg => exact xLane1_of_exec_eq (fun s => (rfl : execVfneg w s = _))
  case vfcmp => exact xTest_of_exec_eq (fun s => (rfl : execVfcmp w s = _))
  case vfclass => exact vfclass_classifies w
  case vrcp => exact xLane1_of_exec_eq (fun s => (rfl : execVrcp w s = _))
  case vrsq => exact xLane1_of_exec_eq (fun s => (rfl : execVrsq w s = _))
  case vsqrt => exact xLane1_of_exec_eq (fun s => (rfl : execVsqrt w s = _))
  case vexp2 => exact xLane1_of_exec_eq (fun s => (rfl : execVexp2 w s = _))
  case vlog2 => exact xLane1_of_exec_eq (fun s => (rfl : execVlog2 w s = _))
  case vdiv => exact xLane2_of_exec_eq (fun s => (rfl : execVdiv w s = _))
  case vfscl => exact xLane2_of_exec_eq (fun s => (rfl : execVfscl w s = _))

/-- Settles O27: each word is the frame of an X word with its operands, its time and its function. -/
theorem xConversionAndLaneWords : Obligations.XConversionAndLaneWords := by
  intro w v u
  refine ⟨?vcvt, ?vcvte, ?vqmx, ?vdqmx, ?vamax, ?eset, ?esetImm, ?eget, ?vmov, ?vmovi, ?vperm, ?vbcst, ?vlsh, ?vzip, ?vunzip, ?vpack, ?vunpk, ?vcmul, ?vcmac, ?vbf2, ?vbf4, ?vtwg⟩
  case vcvt => exact xLane1_of_exec_eq (fun s => (rfl : execVcvt w s = _))
  case vcvte => exact xDoes_of_exec_eq_xOp (fun s => (rfl : execVcvte v s = _))
  case vqmx => exact xDoes_of_exec_eq_xOp (fun s => (rfl : execVqmx w s = _))
  case vdqmx => exact xDoes_of_exec_eq_xOp (fun s => (rfl : execVdqmx w s = _))
  case vamax => exact xDoes_of_exec_eq_xOp (fun s => (rfl : execVamax w s = _))
  case eset => exact xDoes_of_exec_eq_xOp (fun s => (rfl : execEset u s = _))
  case esetImm => exact xDoes_of_exec_eq_xOp (fun s => (rfl : execEsetImm u s = _))
  case eget => exact eget_makes u
  case vmov => exact xDoes_of_exec_eq_xOp (fun s => (rfl : execVmov w s = _))
  case vmovi => exact xDoes_of_exec_eq_xOp (fun s => (rfl : execVmovi u s = _))
  case vperm => exact xDoes_of_exec_eq_xOp (fun s => (rfl : execVperm w s = _))
  case vbcst => exact xDoes_of_exec_eq_xOp (fun s => (rfl : execVbcst w s = _))
  case vlsh => exact xDoes_of_exec_eq_xOp (fun s => (rfl : execVlsh u s = _))
  case vzip => exact xDoes_of_exec_eq_xOp (fun s => (rfl : execVzip w s = _))
  case vunzip => exact xDoes_of_exec_eq_xOp (fun s => (rfl : execVunzip w s = _))
  case vpack => exact xDoes_of_exec_eq_xOp (fun s => (rfl : execVpack w s = _))
  case vunpk => exact xDoes_of_exec_eq_xOp (fun s => (rfl : execVunpk w s = _))
  case vcmul => exact xLane2_of_exec_eq (fun s => (rfl : execVcmul w s = _))
  case vcmac => exact xLane3_of_exec_eq (fun s => (rfl : execVcmac v s = _))
  case vbf2 => exact xDoes_of_exec_eq_xOp (fun s => (rfl : execVbf2 v s = _))
  case vbf4 => exact xDoes_of_exec_eq_xOp (fun s => (rfl : execVbf4 v s = _))
  case vtwg => exact xDoes_of_exec_eq_xOp (fun s => (rfl : execVtwg u s = _))

/-! ## VPUSH and VDEAD (R253, R254) -/

/-- R254: room in the queue is checked last, and not where the predicate names no lane. -/
theorem require_or {p q : Prop} [Decidable p] [Decidable q] (c : Cause) :
    require (decide p || decide q) c = if p ∨ q then .ok () else .error (.trap c 0) := by
  by_cases h : p ∨ q
  · rw [if_pos h, require_of (by simpa using h)]
  · rw [if_neg h, require_of_not (by simpa using h)]

theorem exec_vpush (u : XI) (s : State) :
    exec (.vpush u) s = s.xOp (XReq.mk u.k [srcAI u u.ty.toNat] [] 0 (fun _ => 1) 5)
      (fun t => if u.k = 8 ∨ t.aqCount (bits u.imm.toNat 9 2) (s.cyc t.core) < 8 then .ok () else .error (.trap .queueProtocol 0))
      (fun x => XRes.mk [(.aq (bits u.imm.toNat 9 2) (word ((x.src 0).getD (bits u.imm.toNat 0 9) 0)), 0)] 0) := by
  refine (?_ : execVpush u s = _)
  simp only [execVpush, require_or]

/-- R253: the slices that VDEAD names lie in the window. -/
theorem decide_eq_inside {t : Task} {start count : Nat} :
    (decide (start + count ≤ t.winSize) && (t.named start count).all (fun x => decide (x < t.winSize))) = true ↔
      start + count ≤ t.winSize ∧ ∀ x ∈ t.named start count, x < t.winSize := by
  simp only [Bool.and_eq_true, decide_eq_true_eq, List.all_eq_true]

theorem exec_vdead (u : XI) {s : State} {id : Nat} {t0 : Task} (h : OnX s id t0) :
    let t := t0.settleRotation
    let start := bits u.imm.toNat 0 13
    let count := bits u.imm.toNat 13 13
    let ss := t.named start count
    exec (.vdead u) s = .next (s.finish (do
      require (decide (start + count ≤ t.winSize) && ss.all (fun x => decide (x < t.winSize))) .sliceRange
      if u.k = 8 then .ok (s.occupy id t 1)
      else .ok (s.occupy id
        { t with effects := t.effects ++ [t.effect (.dead ss) (BitVec.allOnes 512) (s.cyc t0.core + 1) 0] } 1))) :=
  (State.xWord_next s _ h.cur h.there h.landed : execVdead u s = _)

/-- Settles O28: but for VDEAD each word is the frame of an X word. -/
theorem xReductionAndPredicateWords : Obligations.XReductionAndPredicateWords := by
  intro w u
  refine ⟨?vred, ?vscan, ?vrsum, ?kand, ?kor, ?kxor, ?knot, ?kmov, ?ksetLt, ?ksetGe, ?ksetMod, ?kmovFromv, ?kmovTov, ?vpush, ?vdead⟩
  case vred => exact xDoes_of_exec_eq_xOp (fun s => (rfl : execVred w s = _))
  case vscan => exact xDoes_of_exec_eq_xOp (fun s => (rfl : execVscan w s = _))
  case vrsum => exact xDoes_of_exec_eq_xOp (fun s => (rfl : execVrsum w s = _))
  case kand => exact xDoes_of_exec_eq_xOp (fun s => (rfl : execKand u s = _))
  case kor => exact xDoes_of_exec_eq_xOp (fun s => (rfl : execKor u s = _))
  case kxor => exact xDoes_of_exec_eq_xOp (fun s => (rfl : execKxor u s = _))
  case knot => exact xDoes_of_exec_eq_xOp (fun s => (rfl : execKnot u s = _))
  case kmov => exact xDoes_of_exec_eq_xOp (fun s => (rfl : execKmov u s = _))
  case ksetLt => exact xDoes_of_exec_eq_xOp (fun s => (rfl : execKsetLt u s = _))
  case ksetGe => exact xDoes_of_exec_eq_xOp (fun s => (rfl : execKsetGe u s = _))
  case ksetMod => exact xDoes_of_exec_eq_xOp (fun s => (rfl : execKsetMod u s = _))
  case kmovFromv => exact xDoes_of_exec_eq_xOp (fun s => (rfl : execKmovFromv u s = _))
  case kmovTov => exact xDoes_of_exec_eq_xOp (fun s => (rfl : execKmovTov u s = _))
  case vpush => exact xDoes_of_exec_eq_xOp (exec_vpush u)
  case vdead =>
    intro s id t0 h
    have hinside := decide_eq_inside (t := t0.settleRotation) (start := bits u.imm.toNat 0 13) (count := bits u.imm.toNat 13 13)
    refine ⟨fun hin hk => ?_, fun hin hk => ?_, fun hout => ?_⟩
    · rw [exec_vdead u h, require_of (hinside.mpr hin), Try.ok_bind, if_pos hk]
      rfl
    · rw [exec_vdead u h, require_of (hinside.mpr hin), Try.ok_bind, if_neg hk]
      rfl
    · rw [Traps, exec_vdead u h, require_of_not (Bool.eq_false_iff.mpr (mt hinside.mp hout)), Try.error_bind]
      rfl

end Sys2Proof.Proofs
end

section
/-! PROOFS. The loops and branches of the X stream (R243 to R252). -/

namespace Sys2Proof.Proofs

open Sys2Proof Sys2Proof.Machine Sys2Proof.Claims

/-! ## What a word of the X stream answers -/

section Answers

variable {s s' : State} {id : Nat} {t0 : Task} {f : State → Nat → Task → Nat → Try State}

theorem xWord_completes (h : OnX s id t0) (hf : f s id t0.settleRotation (s.cyc t0.core) = .ok s') : s.xWord f = .next s' := by
  rw [State.xWord_next s f h.cur h.there h.landed, hf]; rfl

theorem xWord_traps {c : Cause} {va : Nat} (h : OnX s id t0)
    (hf : f s id t0.settleRotation (s.cyc t0.core) = .error (.trap c va)) : s.xWord f = .next (s.takeTrap c va) := by
  rw [State.xWord_next s f h.cur h.there h.landed, hf]; rfl

theorem xWord_waits (h : OnX s id t0) (hf : f s id t0.settleRotation (s.cyc t0.core) = .error .hold) :
    s.xWord f = .next s.held := by
  rw [State.xWord_next s f h.cur h.there h.landed, hf]; rfl

end Answers

/-! ## Loops (R243, R246) -/

section Loops

variable {t : Task} {w : XC}

/-- R243: a level that may open passes its checks. -/
theorem loopChecks_of_mayOpen (h : MayOpen t w) : t.loopChecks w = .ok () := by
  obtain ⟨hlc, hlow, hmod, hspan⟩ := h
  simp [Task.loopChecks, hlc, hlow, hmod, hspan, Try.ok_bind]

theorem loopChecks_of_lc_ne (h : w.lc.toNat ≠ t.loops.length) : t.loopChecks w = .error (.trap .queueProtocol 0) := by
  simp [Task.loopChecks, h, Try.error_bind]

/-- R243: the count is there when it is taken from a head. -/
theorem head_of_counted {field n : Nat} (h : Counted t w field n) :
    (decide (w.csrc ≠ 1) || decide (t.headAt ⟨true, w.q.toNat, false⟩ 0 ≠ .coming)) = true := by
  obtain ⟨hc, -⟩ | ⟨-, v, wd, hv, -⟩ | ⟨-, hc, -⟩ := h
  · simp [hc]
  · simp [hv]
  · rw [decide_eq_true hc, Bool.true_or]

theorem loopCount_of_counted {field n : Nat} (h : Counted t w field n) : t.loopCount w field = .ok n := by
  obtain ⟨hc, rfl⟩ | ⟨hc, v, wd, hv, rfl⟩ | ⟨h0, h1, rfl⟩ := h
  · simp [Task.loopCount, hc]
  · simp [Task.loopCount, hc, hv]
  · rw [Task.loopCount, if_neg h0, if_neg h1]

/-- A pop of a queue leaves the section the stream runs in. -/
@[simp] theorem sx_loopPop (t : Task) (w : XC) : (t.loopPop w).sx = t.sx := by
  unfold Task.loopPop Task.popHead
  split <;> rfl

end Loops

section LoopWords

variable {s : State} {id : Nat} {t0 : Task} {w : XC} {n : Nat}

theorem loop_body (hm : MayOpen t0.settleRotation w) (hn : Counted t0.settleRotation w w.count.toNat n) (h : OnX s id t0) :
    exec (.loop w) s = .next (if n = 0 then s.takeEngine id
        ({ t0.settleRotation.loopPop w with lc := (t0.settleRotation.loopPop w).lc.set 0 w.lc.toNat 0 }.skipBody w) 1
      else s.takeEngine id ((t0.settleRotation.loopPop w).openLoop w false 0 0 0 n) 1) := by
  refine (xWord_completes h ?_ : execLoop w s = _)
  simp only [head_of_counted hn, await_true, loopChecks_of_mayOpen hm, loopCount_of_counted hn, Try.ok_bind]
  split <;> rfl

theorem loopr_body (hm : MayOpen t0.settleRotation w) (hr : t0.settleRotation.rotating = false)
    (hn : Counted t0.settleRotation w (bits w.count.toNat 0 22) n) (hlt : n < 2 ^ 22)
    (hwin : t0.settleRotation.csr.rotBase.toNat + t0.settleRotation.csr.rotSize.toNat ≤ t0.settleRotation.winSize)
    (hsig : t0.settleRotation.csr.rotSize = 0 ∨ bits w.count.toNat 24 8 < t0.settleRotation.csr.rotSize.toNat) (h : OnX s id t0) :
    let u := t0.settleRotation.loopPop w
    let stages := bits w.count.toNat 22 2 + 1
    let v := u.openLoop w true stages n (bits w.count.toNat 24 8) (n + stages - 1)
    exec (.loopr w) s = .next (if n = 0 then s.takeEngine id (u.skipBody w) 1
      else s.takeEngine id ((((v.setPred 4 (BitVec.allOnes 512)).setPred 5 0).setPred 6 0).setPred 7 0) 1) := by
  refine (xWord_completes h ?_ : execLoopr w s = _)
  simp only [head_of_counted hn, await_true, loopChecks_of_mayOpen hm, loopCount_of_counted hn, Try.ok_bind, hr, Bool.not_false,
    require_true, require_or, decide_eq_true hlt, decide_eq_true hwin, if_pos hsig]
  split <;> rfl

end LoopWords

/-! ## Branches (R245, R251) -/

section Branches

variable {s : State} {id : Nat} {t0 u : Task} {w : XC} {i : Instr} {f : State → Nat → Task → Nat → Try State} {taken : Bool}

/-- R80, R245: a branch goes where `XGoes` says. -/
theorem xGoes_of_xBranch (h : OnX s id t0) (hi : exec i s = s.xWord f)
    (hf : f s id t0.settleRotation (s.cyc t0.core) = s.xBranch id w u taken) :
    XGoes i s id u (u.sx.pc + w.off.signExtend 50) (taken = true) := by
  unfold XGoes Traps
  refine ⟨fun hn => ?_, fun hy hs hw => ?_, fun hy hs hw => ?_, fun hy hs => ?_⟩ <;> rw [hi]
  · exact xWord_completes h (by simp [hf, State.xBranch, hn])
  · exact xWord_completes h (by simp [hf, State.xBranch, hy, Task.xJump, Task.xTarget, hs, hw, Try.ok_bind])
  · exact xWord_traps h (by simp [hf, State.xBranch, hy, Task.xJump, Task.xTarget, hs, hw, Try.error_bind])
  · exact xWord_completes h (by simp [hf, State.xBranch, hy, Task.xJump, Task.xTarget, hs, Try.ok_bind])

end Branches

/-- Settles O29: the checks of a loop word pass as the statement supposes, and a branch is `xBranch` of its condition. -/
theorem xLoopsAndBranches : Obligations.XLoopsAndBranches := by
  intro w s id t0 h
  refine ⟨?loop, ?loopr, ?nested, ?counter, ?xbWaits, ?xbTraps, ?xb, ?xbk, ?xj, ?xfin⟩
  case loop =>
    intro n hm hn
    have hx := congrArg StreamSt.pc (sx_loopPop t0.settleRotation w)
    refine ⟨fun h0 => ?_, fun h0 => ?_⟩
    · rw [loop_body hm hn h, if_pos h0]; rfl
    · rw [loop_body hm hn h, if_neg h0, Task.openLoop, hx]; rfl
  case loopr =>
    intro n hm hr hn hlt hwin hsig
    have hx := congrArg StreamSt.pc (sx_loopPop t0.settleRotation w)
    refine ⟨fun h0 => ?_, fun h0 => ?_⟩
    · rw [loopr_body hm hr hn hlt hwin hsig h, if_pos h0]; rfl
    · rw [loopr_body hm hr hn hlt hwin hsig h, if_neg h0, Task.openLoop, hx]; rfl
  case nested =>
    intro hr hc
    refine (xWord_traps h ?_ : execLoopr w s = _)
    simp only [decide_eq_true hc, Bool.true_or, await_true, Try.ok_bind, hr, Bool.not_true, require_false, Try.error_bind]
  case counter =>
    intro hl hc
    refine (xWord_traps h ?_ : execLoop w s = _)
    simp only [decide_eq_true hc, Bool.true_or, await_true, Try.ok_bind, loopChecks_of_lc_ne hl, Try.error_bind]
  case xbWaits =>
    intro hq ha
    refine (xWord_waits h ?_ : execXb w s = _)
    simp [hq, ha]
  case xbTraps =>
    intro hq ha
    refine (xWord_traps h ?_ : execXb w s = _)
    simp [hq, ha, raise]
  case xb =>
    intro b rest hq
    have hg := xGoes_of_xBranch (i := .xb w) (w := w) (u := { t0.settleRotation with bq := rest }) (taken := b != decide (w.fn = 1)) h
      (rfl : execXb w s = _) (by simp only [hq])
    have hb : ((b != decide (w.fn = 1)) = true) = (if w.fn = 1 then b = false else b = true) := by
      by_cases hfn : w.fn = 1
      · simp [hfn]
      · rw [decide_eq_false hfn, if_neg hfn, Bool.bne_false]
    exact hb ▸ hg
  case xbk =>
    have hg := xGoes_of_xBranch (i := .xbk w) h (rfl : execXbk w s = _) rfl
    refine Eq.mp (congrArg (XGoes _ s id _ _) (propext ?_)) hg
    split
    · exact decide_eq_true_iff
    · split <;> exact decide_eq_true_iff
  case xj => exact Eq.mp (congrArg (XGoes _ s id _ _) (propext (by simp))) (xGoes_of_xBranch (i := .xj w) h (rfl : execXj w s = _) rfl)
  case xfin => exact (xWord_completes h rfl : execXfin w s = _)

end Sys2Proof.Proofs
end

section
/-! PROOFS. How a vector result lands in slices lane by lane, and how lanes lie in slices (R17, R21, R23, R25). -/

namespace Sys2Proof.Proofs

open Sys2Proof Sys2Proof.Machine Sys2Proof.Claims

/-! ## Digits of a folded list -/

section Digits

variable {α : Type} {b : Nat} {f : α → Nat}

/-- The digits of a number built from a list, least significant first. -/
theorem foldr_div_pow_mod (hf : ∀ x, f x < b) (xs : List α) (l : Nat) :
    xs.foldr (fun x acc => acc * b + f x) 0 / b ^ l % b = (xs.map f).getD l 0 := by
  induction xs generalizing l with
  | nil => simp
  | cons x xs ih =>
    have hb : 0 < b := Nat.lt_of_le_of_lt (f x).zero_le (hf x)
    cases l with
    | zero => simp [Nat.mul_add_mod_self_right, Nat.mod_eq_of_lt (hf x)]
    | succ l =>
      have hdiv : (xs.foldr (fun x acc => acc * b + f x) 0 * b + f x) / b = xs.foldr (fun x acc => acc * b + f x) 0 := by
        rw [Nat.mul_comm, Nat.mul_add_div hb, Nat.div_eq_of_lt (hf x), Nat.add_zero]
      simp only [List.foldr_cons, List.map_cons, List.getD_cons_succ]
      rw [Nat.pow_succ', ← Nat.div_div_eq_div_mul, hdiv, ih]

theorem foldr_lt_pow (hf : ∀ x, f x < b) (xs : List α) : xs.foldr (fun x acc => acc * b + f x) 0 < b ^ xs.length := by
  induction xs with
  | nil => simp
  | cons x xs ih =>
    calc xs.foldr (fun x acc => acc * b + f x) 0 * b + f x
        < xs.foldr (fun x acc => acc * b + f x) 0 * b + b := Nat.add_lt_add_left (hf x) _
      _ = (xs.foldr (fun x acc => acc * b + f x) 0 + 1) * b := (Nat.succ_mul _ _).symm
      _ ≤ b ^ xs.length * b := Nat.mul_le_mul_right b ih
      _ = b ^ (x :: xs).length := (Nat.pow_succ ..).symm

/-- A number put together again from `w` of its digits. -/
theorem foldr_digits_range' (b v k w : Nat) :
    (List.range' k w).foldr (fun j acc => acc * b + v / b ^ j % b) 0 = v / b ^ k % b ^ w := by
  induction w generalizing k with
  | zero => simp [Nat.mod_one]
  | succ w ih => rw [List.range'_succ, List.foldr_cons, ih, Nat.pow_succ' (n := w), Nat.mod_mul, Nat.div_div_eq_div_mul, ← Nat.pow_succ,
      Nat.add_comm, Nat.mul_comm]

end Digits

/-! ## The nibbles of a slice -/

theorem nibble_eq (v : Slice) (l : Nat) : nibble v l = v.toNat / 16 ^ l % 16 := by
  rw [nibble, Nat.pow_mul]

theorem testBit_nibble (v : Slice) (l i : Nat) : (nibble v l).testBit i = (decide (i < 4) && v.getLsbD (4 * l + i)) := by
  rw [nibble, show 16 = 2 ^ 4 from rfl, Nat.testBit_mod_two_pow, Nat.testBit_div_two_pow, BitVec.getLsbD, Nat.add_comm]

/-- A slice built from 512 nibbles holds them. -/
theorem nibble_ofNat_foldr {α : Type} {f : α → Nat} (hf : ∀ x, f x < 16) {xs : List α} (hx : xs.length = 512) (l : Nat) :
    nibble (BitVec.ofNat 2048 (xs.foldr (fun x acc => acc * 16 + f x) 0)) l = (xs.map f).getD l 0 := by
  have hlt : xs.foldr (fun x acc => acc * 16 + f x) 0 < 2 ^ 2048 := by
    rw [show 2048 = 4 * 512 from rfl, Nat.pow_mul, ← hx]
    exact foldr_lt_pow hf xs
  rw [nibble_eq, BitVec.toNat_ofNat, Nat.mod_eq_of_lt hlt, foldr_div_pow_mod hf]

/-- R25: a lane of a mask is a nibble of ones or of zeros. -/
theorem nibble_maskSlice (p : Pred) {l : Nat} (hl : l < 512) : nibble (maskSlice p) l = if p.getLsbD l then 15 else 0 := by
  unfold maskSlice
  split
  · next hp =>
    refine Nat.eq_of_testBit_eq (fun i => ?_)
    rw [testBit_nibble, hp, BitVec.getLsbD_allOnes, BitVec.getLsbD_allOnes, if_pos (decide_eq_true hl),
      show 15 = 2 ^ 4 - 1 from rfl, Nat.testBit_two_pow_sub_one]
    by_cases hi : i < 4
    · simp [hi, show 4 * l + i < 2048 by omega]
    · simp [hi]
  · rw [nibble_ofNat_foldr (by intro b; split <;> decide) (by simp [maskBits])]
    simp [maskBits, List.getD_eq_getElem?_getD, hl]

theorem getLsbD_maskSlice (p : Pred) {l i : Nat} (hl : l < 512) (hi : i < 4) : (maskSlice p).getLsbD (4 * l + i) = p.getLsbD l := by
  have hbit : (nibble (maskSlice p) l).testBit i = (maskSlice p).getLsbD (4 * l + i) := by simp [testBit_nibble, hi]
  rw [← hbit, nibble_maskSlice p hl]
  split
  · next h => rw [show 15 = 2 ^ 4 - 1 from rfl, Nat.testBit_two_pow_sub_one, decide_eq_true hi, h]
  · next h => rw [Nat.zero_testBit, Bool.eq_false_iff.mpr h]

/-- R21: a lane in the mask takes its new nibble, any other keeps its own. -/
theorem nibble_blend (old new : Slice) (p : Pred) {l : Nat} (hl : l < 512) :
    nibble (blend old new (maskSlice p)) l = if p.getLsbD l then nibble new l else nibble old l := by
  refine Nat.eq_of_testBit_eq (fun i => ?_)
  rw [apply_ite (Nat.testBit · i)]
  simp only [testBit_nibble]
  by_cases hi : i < 4
  · have hlt : 4 * l + i < 2048 := by omega
    have hm := getLsbD_maskSlice p hl hi
    rw [blend, BitVec.getLsbD_or, BitVec.getLsbD_and, BitVec.getLsbD_and, BitVec.getLsbD_not, hm, decide_eq_true hlt]
    cases p.getLsbD l <;> simp
  · simp [hi]

theorem nibble_packSlice {vs : List Nat} (hv : vs.length = 512) (j : Nat) {l : Nat} (hl : l < 512) :
    nibble (packSlice vs j) l = vs.getD l 0 / 16 ^ j % 16 := by
  have hlt : l < vs.length := hv ▸ hl
  rw [packSlice, nibble_ofNat_foldr (fun _ => Nat.mod_lt _ (by decide)) hv]
  simp [List.getD_eq_getElem?_getD, hlt]

/-! ## A landing writes its slices and no other -/

section Landing

variable {t : Task} {m : Slice}

theorem find?_landSlice_same (s : Nat) (v : Slice) : SMap.find? s (t.landSlice s v m).slices = some (blend (t.slice s) v m) :=
  SMap.find?_put_self ..

theorem find?_landSlice_ne {s x : Nat} (v : Slice) (h : x ≠ s) :
    SMap.find? x (t.landSlice s v m).slices = SMap.find? x t.slices :=
  SMap.find?_put_ne _ _ _ _ h

theorem find?_landSlices_of_notMem {ps : List (Nat × Slice)} {x : Nat} (h : x ∉ ps.map Prod.fst) (t : Task) :
    SMap.find? x (t.landSlices m ps).slices = SMap.find? x t.slices := by
  induction ps generalizing t with
  | nil => rfl
  | cons p ps ih =>
    obtain ⟨hne, hrest⟩ := not_or.mp (fun hc => h (List.mem_cons.mpr hc))
    rw [Task.landSlices, ih hrest, find?_landSlice_ne _ hne]

theorem find?_landSlices_of_mem {ps : List (Nat × Slice)} (hn : (ps.map Prod.fst).Nodup) {s : Nat} {v : Slice} (h : (s, v) ∈ ps)
    (t : Task) : SMap.find? s (t.landSlices m ps).slices = some (blend (t.slice s) v m) := by
  induction ps generalizing t with
  | nil => cases h
  | cons p ps ih =>
    obtain ⟨hnot, hrest⟩ := List.nodup_cons.mp hn
    obtain rfl | hin := List.mem_cons.mp h
    · rw [Task.landSlices, find?_landSlices_of_notMem hnot, find?_landSlice_same]
    · have hne : s ≠ p.1 := fun he => hnot (he ▸ List.mem_map_of_mem hin)
      rw [Task.landSlices, ih hrest hin, Task.slice, find?_landSlice_ne _ hne, Task.slice]

/-- R23: a dead slice holds zero in every lane. -/
theorem nibble_slice (t : Task) (s l : Nat) : nibble (t.slice s) l = if t.alive s then nibble (t.slice s) l else 0 := by
  split
  · rfl
  · next h =>
    have hd : SMap.find? s t.slices = none := by simpa [Task.alive] using h
    simp [Task.slice, hd, nibble]

end Landing

theorem vectorLanding : VectorLanding := by
  intro t mask ss vals hnodup hlen u
  have hkeys : (ss.zip vals).map Prod.fst = ss := List.map_fst_zip (Nat.le_of_eq hlen)
  refine ⟨fun j hj hv => ?_, fun x hx => ?_⟩
  · have hmem : (ss[j], vals[j]) ∈ ss.zip vals := by
      rw [← List.getElem_zip (h := by rw [List.length_zip]; exact Nat.lt_min.mpr ⟨hj, hv⟩)]
      exact List.getElem_mem _
    have hfind : SMap.find? ss[j] u.slices = some (blend (t.slice ss[j]) vals[j] (maskSlice mask)) :=
      find?_landSlices_of_mem (hkeys.symm ▸ hnodup) hmem t
    refine ⟨by rw [Task.alive, hfind]; rfl, fun l hl => ?_⟩
    rw [Task.slice, hfind, Option.getD_some, nibble_blend _ _ _ hl, ← nibble_slice]
  · have hfind : SMap.find? x u.slices = SMap.find? x t.slices := find?_landSlices_of_notMem (hkeys.symm ▸ hx) t
    exact ⟨by rw [Task.slice, hfind, Task.slice], by rw [Task.alive, hfind, Task.alive]⟩

/-! ## Lanes (R17, R25) -/

section Lanes

variable {f : Int → Int → Int × Flags} {act : List Bool} {a b : Lanes}

theorem getD_mapAct2 (ha : a.length = act.length) (hb : b.length = act.length) (l : Nat) :
    (mapAct2 f act a b).1.getD l 0 = if act.getD l false then (f (a.getD l 0) (b.getD l 0)).1 else 0 := by
  induction act generalizing a b l with
  | nil => simp [mapAct2]
  | cons c act ih =>
    obtain ⟨v, a, rfl⟩ := List.exists_cons_of_length_eq_add_one ha
    obtain ⟨u, b, rfl⟩ := List.exists_cons_of_length_eq_add_one hb
    have ih := ih (Nat.succ.inj ha) (Nat.succ.inj hb)
    cases l with
    | zero => cases c <;> rfl
    | succ l => cases c <;> exact ih l

theorem getLsbD_flags_mapAct2 (ha : a.length = act.length) (hb : b.length = act.length) (i : Nat) :
    (mapAct2 f act a b).2.getLsbD i = true ↔
      ∃ l < act.length, act.getD l false = true ∧ (f (a.getD l 0) (b.getD l 0)).2.getLsbD i = true := by
  induction act generalizing a b with
  | nil => simp [mapAct2]
  | cons c act ih =>
    obtain ⟨v, a, rfl⟩ := List.exists_cons_of_length_eq_add_one ha
    obtain ⟨u, b, rfl⟩ := List.exists_cons_of_length_eq_add_one hb
    have ih := ih (Nat.succ.inj ha) (Nat.succ.inj hb)
    rw [List.length_cons, Nat.exists_lt_succ_left]
    simp only [List.getD_cons_zero, List.getD_cons_succ, ← ih]
    cases c <;> simp [mapAct2]

end Lanes

theorem lanesAndSlices : LanesAndSlices := by
  refine ⟨fun vs w l hv hl => ?_, fun f act a b l hact ha hb _ => ?_, fun f act a b i hact ha hb _ => ?_⟩
  · have hnib : ∀ j, (packSlice vs j).toNat / 2 ^ (4 * l) % 16 = vs.getD l 0 / 16 ^ j % 16 := fun j => nibble_packSlice hv j hl
    have hfold := foldr_digits_range' 16 (vs.getD l 0) 0 w
    rw [Nat.pow_zero, Nat.div_one, ← List.range_eq_range'] at hfold
    have hlane : (unpackSlices ((List.range w).map (packSlice vs))).getD l 0 =
        (List.range w).foldr (fun j acc => acc * 16 + (packSlice vs j).toNat / 2 ^ (4 * l) % 16) 0 := by
      simp [unpackSlices, hl, List.foldr_map, List.getD_eq_getElem?_getD]
    simp only [hlane, hnib, hfold]
  · exact getD_mapAct2 (ha.trans hact.symm) (hb.trans hact.symm) l
  · rw [getLsbD_flags_mapAct2 (ha.trans hact.symm) (hb.trans hact.symm), hact]

/-- Settles O30. -/
theorem landingAndLanes : Obligations.LandingAndLanes := ⟨vectorLanding, lanesAndSlices⟩

end Sys2Proof.Proofs
end

section
/-! PROOFS. A word of the X stream that traps nowhere writes no memory, no register, no slice, no scale register and no other task
(R21, R196). -/

namespace Sys2Proof.Proofs

open Sys2Proof Sys2Proof.Machine Sys2Proof.Claims

/-! ## What a task keeps while a word reads its sources -/

/-- The register file and the files of slices, scales and predicates are the same. -/
structure SameFiles (t u : Task) : Prop where
  core : u.core = t.core
  regs : u.regs = t.regs
  slices : u.slices = t.slices
  scales : u.scales = t.scales
  preds : u.preds = t.preds

namespace SameFiles

variable {t u v : Task}

theorem rfl (t : Task) : SameFiles t t := ⟨.refl _, .refl _, .refl _, .refl _, .refl _⟩

theorem trans (h : SameFiles t u) (g : SameFiles u v) : SameFiles t v :=
  ⟨g.core.trans h.core, g.regs.trans h.regs, g.slices.trans h.slices, g.scales.trans h.scales, g.preds.trans h.preds⟩

theorem withEffects (h : SameFiles t u) (es : List Effect) : SameFiles t { u with effects := es } :=
  ⟨h.core, h.regs, h.slices, h.scales, h.preds⟩

end SameFiles

theorem sameFiles_popHead (t : Task) (h : Head) : SameFiles t (t.popHead h) := by
  unfold Task.popHead
  split
  · exact .rfl t
  · split <;> exact ⟨rfl, rfl, rfl, rfl, rfl⟩

theorem sameFiles_useHead (t : Task) (h : Head) (v : SVec) : SameFiles t (t.useHead h v) := by
  unfold Task.useHead
  by_cases hf : v.flags = 0
  · rw [if_pos hf]
    split <;> exact ⟨rfl, rfl, rfl, rfl, rfl⟩
  · rw [if_neg hf]
    split <;> exact ⟨rfl, rfl, rfl, rfl, rfl⟩

theorem sameFiles_readVector (t : Task) (reuse : Bool) (ss : List Nat) : SameFiles t (t.readVector reuse ss).2 := by
  unfold Task.readVector
  dsimp only
  split
  · split <;> exact ⟨rfl, rfl, rfl, rfl, rfl⟩
  · exact .rfl t

theorem sameFiles_readVectors (reuse : Bool) (f : Nat → Int) (vs : List (List Nat)) (t : Task) :
    SameFiles t (t.readVectors reuse f vs).2 := by
  induction vs generalizing t with
  | nil => exact .rfl t
  | cons ss rest ih => exact (sameFiles_readVector t reuse ss).trans (ih _)

theorem sameFiles_readOpd (t : Task) (o : Src) (r : Opd) : SameFiles t (t.readOpd o r).2 := by
  cases r with
  | const c => exact .rfl t
  | slices vs => exact sameFiles_readVectors ..
  | head h i =>
    simp only [Task.readOpd]
    split
    · exact (sameFiles_useHead t h _).trans (sameFiles_popHead _ h)
    · exact .rfl t

theorem sameFiles_readAll (rs : List (Src × Opd)) (t : Task) : SameFiles t (t.readAll rs).2 := by
  induction rs generalizing t with
  | nil => exact .rfl t
  | cons r rest ih => exact (sameFiles_readOpd t r.1 r.2).trans (ih _)

theorem sameFiles_loopEnd (u : Parcel) (ls : List Loop) (t : Task) : SameFiles t (Task.loopEnd u ls t).1 := by
  induction ls generalizing t with
  | nil => exact ⟨rfl, rfl, rfl, rfl, rfl⟩
  | cons l rest ih =>
    simp only [Task.loopEnd]
    split
    · exact ⟨rfl, rfl, rfl, rfl, rfl⟩
    · split
      · exact ⟨rfl, rfl, rfl, rfl, rfl⟩
      · exact SameFiles.trans (u := { t with lc := t.lc.set 0 rest.length (t.lc.get 0 rest.length - 1) }) ⟨rfl, rfl, rfl, rfl, rfl⟩ (ih _)

theorem sameFiles_xAdvance (t : Task) : SameFiles t t.xAdvance := by
  have h := sameFiles_loopEnd t.sx.pc t.loops t
  unfold Task.xAdvance
  dsimp only
  split <;> exact ⟨h.core, h.regs, h.slices, h.scales, h.preds⟩

/-- R244, R248: the step of rotation that a back-edge has left writes predicates alone. -/
theorem settleRotation_of_not_pending {t : Task} (h : t.rotPending = false) : t.settleRotation = t := by
  simp [Task.settleRotation, h]

theorem setPred_eq (t : Task) (k : Nat) (v : Pred) : t.setPred k v = { t with preds := (t.setPred k v).preds } := by
  unfold Task.setPred
  split <;> rfl

theorem stepRotation_eq (t : Task) (l : Loop) (n : Nat) :
    t.stepRotation l n = { t with csr := (t.stepRotation l n).csr, preds := (t.stepRotation l n).preds } := by
  unfold Task.stepRotation
  dsimp only
  generalize Task.pred _ 6 = p6, Task.pred _ 5 = p5, Task.pred _ 4 = p4
  rw [setPred_eq _ 4, setPred_eq _ 5, setPred_eq _ 6, setPred_eq _ 7]

theorem settleRotation_eq (t : Task) :
    t.settleRotation = { t with rotPending := false, csr := t.settleRotation.csr, preds := t.settleRotation.preds } := by
  unfold Task.settleRotation
  cases hp : t.rotPending
  · simp [← hp]
  · simp only [Bool.not_true, Bool.false_eq_true, if_false]
    split
    · split
      · rw [stepRotation_eq]
      · rfl
    · rfl

/-! ## How a word of the X stream may stop -/

/-- A stop that changes nothing but by its trap. -/
def Stop.Bare : Stop → Prop
  | .trap _ _ | .parity _ | .hold => True
  | _ => False

/-- An attempt gives what `P` says, or stops barely. -/
def Ends {α : Type} (P : α → Prop) : Try α → Prop
  | .ok x => P x
  | .error e => Stop.Bare e

section Ends

variable {α β : Type} {P : β → Prop}

theorem ends_require (b : Bool) (c : Cause) : Ends (fun _ => True) (require b c) := by
  cases b <;> exact trivial

theorem ends_await (b : Bool) : Ends (fun _ => True) (await b) := by
  cases b <;> exact trivial

theorem ends_bind {y : Try α} {f : α → Try β} (h : Ends (fun _ => True) y) (hf : ∀ x, Ends P (f x)) : Ends P (y >>= f) := by
  cases y with
  | ok x => exact hf x
  | error e => exact h

theorem ends_parityOk (t : Task) (reuse : Bool) (vs : List (List Nat)) : Ends (fun _ => True) (t.parityOk reuse vs) := by
  unfold Task.parityOk
  dsimp only
  split <;> exact trivial

theorem ends_resolve (t : Task) (never : Bool) (o : Src) (i : Nat) : Ends (fun _ => True) (t.resolve never o i) := by
  unfold Task.resolve
  refine ends_bind (ends_require _ _) (fun _ => ?_)
  dsimp only
  split
  · refine ends_bind (ends_require _ _) (fun _ => ?_)
    split <;> exact trivial
  split
  · exact trivial
  split
  · refine ends_bind (ends_require _ _) (fun _ => ?_)
    split
    · exact ends_bind (ends_require _ _) (fun _ => trivial)
    · split
      · exact trivial
      · exact trivial
      · exact ends_bind (ends_require _ _) (fun _ => ends_bind (ends_require _ _) (fun _ => trivial))
  · refine ends_bind (ends_require _ _) (fun _ => ends_bind (ends_require _ _) (fun _ => ends_bind (ends_require _ _) (fun _ => ?_)))
    split
    · exact trivial
    · exact ends_bind (ends_parityOk t o.reuse _) (fun _ => trivial)

theorem ends_resolveAll (t : Task) (never : Bool) (os : List Src) (hs : List Head) :
    Ends (fun _ => True) (t.resolveAll never os hs) := by
  induction os generalizing hs with
  | nil => exact trivial
  | cons o os ih => exact ends_bind (ends_resolve t never o _) (fun _ => ends_bind (ih _) (fun _ => trivial))

theorem ends_resolveDst (t : Task) (d : Dst) : Ends (fun _ => True) (t.resolveDst d) :=
  ends_bind (ends_require _ _) (fun _ => ends_bind (ends_require _ _) (fun _ =>
    ends_bind (ends_require _ _) (fun _ => ends_bind (ends_require _ _) (fun _ => trivial))))

theorem ends_resolveDsts (t : Task) (ds : List Dst) : Ends (fun _ => True) (t.resolveDsts ds) := by
  induction ds with
  | nil => exact trivial
  | cons d ds ih => exact ends_bind (ends_resolveDst t d) (fun _ => ends_bind ih (fun _ => trivial))

end Ends

/-! ## The frame of one state -/

/-- What a word of the X stream of task `id` leaves, from `s` to `s'`, when its task is `t` before it and `t'` after it. -/
def XLeaves (s : State) (id : Nat) (t : Task) (s' : State) (t' : Task) : Prop :=
  s'.mem = s.mem ∧ s'.rub = s.rub ∧ (∀ j, j ≠ id → s'.task? j = s.task? j) ∧
    t'.regs = t.regs ∧ t'.slices = t.slices ∧ t'.scales = t.scales ∧ (t.rotPending = false → t'.preds = t.preds)

/-- A trap of a task shows: by a record, or by the handler it enters. -/
def TrapShows (s : State) (id : Nat) (t : Task) (s' : State) : Prop :=
  s.records.length < s'.records.length ∨ (t.handler = none ∧ ∃ t', s'.task? id = some t' ∧ t'.handler ≠ none)

section Frame

variable {s s' : State} {id : Nat} {t t' u : Task}

theorem trapShows_takeTrap (hc : s.cur = .task id .x) (ht : s.task? id = some t) (c : Cause) (va : Nat) :
    TrapShows s id t (s.takeTrap c va) := by
  have hs : (if va = 0 then s else s.dropFailed va).task? id = some t := by split <;> exact ht
  have hr : (if va = 0 then s else s.dropFailed va).records = s.records := by split <;> rfl
  simp only [State.takeTrap, hc]
  cases hin : t.takesInside c
  · rw [State.trapTask_record _ id .x t c s.pc va 0 hs hin]
    exact .inl (by simp [hr])
  · rw [State.trapTask_inside _ id .x t c s.pc va 0 hs hin]
    exact .inr ⟨(takesInside_iff.mp hin).2.2, _, SMap.find?_put_self _ _ _, nofun⟩

theorem trapShows_newRecords (h : TrapShows s id t s') (f : Record → Record) : TrapShows s id t (s'.newRecords s f) := by
  refine h.imp (fun hlen => ?_) (fun hin => hin)
  simp only [State.newRecords, List.length_append, List.length_map, List.length_take, List.length_drop]
  omega

theorem not_trapShows (hs : s'.task? id = some t') (hr : s'.records = s.records) (hh : t'.handler = t.handler) : ¬TrapShows s id t s' := by
  rintro (hlen | ⟨hn, u, hu, hne⟩)
  · exact absurd hlen (by rw [hr]; exact Nat.lt_irrefl _)
  · obtain rfl : t' = u := Option.some.inj (hs.symm.trans hu)
    exact hne (hh.trans hn)

theorem trapShows_finish (hc : s.cur = .task id .x) (ht : s.task? id = some t) {e : Stop} (he : Stop.Bare e) :
    s.finish (.error e) = s.held ∨ TrapShows s id t (s.finish (.error e)) := by
  cases e with
  | trap c va => exact .inr (trapShows_takeTrap hc ht c va)
  | parity k => exact .inr (trapShows_newRecords (trapShows_takeTrap hc ht .uncorrectable 0) _)
  | hold => exact .inl rfl
  | trapWith c u => exact he.elim
  | path u => exact he.elim
  | pend u => exact he.elim
  | miss a b c => exact he.elim

theorem xLeaves_held (ht : s.task? id = some t) (ht' : s.held.task? id = some t') : XLeaves s id t s.held t' := by
  obtain rfl : t = t' := Option.some.inj (ht.symm.trans ht')
  exact ⟨rfl, rfl, fun _ _ => rfl, rfl, rfl, rfl, fun _ => rfl⟩

theorem xLeaves_occupy {n : Nat} (h : SameFiles t.settleRotation u) (ht' : (s.occupy id u n).task? id = some t') :
    XLeaves s id t (s.occupy id u n) t' := by
  obtain ⟨-, hregs, hslices, hscales, hpreds⟩ := h.trans (sameFiles_xAdvance u)
  obtain rfl : { u.xAdvance with xNext := s.cyc u.xAdvance.core + n } = t' := Option.some.inj ((SMap.find?_put_self _ _ _).symm.trans ht')
  have hset := settleRotation_eq t
  refine ⟨rfl, rfl, fun j hj => SMap.find?_put_ne _ _ _ _ hj, hregs.trans ?_, hslices.trans ?_, hscales.trans ?_, fun hp =>
    hpreds.trans (by rw [settleRotation_of_not_pending hp])⟩ <;> rw [hset]

end Frame

/-- A word of the X stream either goes on with the files its task had, or stops barely. -/
def XQuiet (s : State) (o : Host.Outcome State Fault Refusal) : Prop :=
  ∃ f : State → Nat → Task → Nat → Try State, o = s.xWord f ∧
    ∀ id t p, Ends (fun s' => ∃ u n, SameFiles t u ∧ s' = s.occupy id u n) (f s id t p)

theorem xLeaves_of_xQuiet {s s' : State} {o : Host.Outcome State Fault Refusal} (h : XQuiet s o) {id : Nat} {t t' : Task}
    (hc : s.cur = .task id .x) (ht : s.task? id = some t) (ho : o = .next s') (ht' : s'.task? id = some t')
    (hr : s'.records = s.records) (hh : t'.handler = t.handler) : XLeaves s id t s' t' := by
  obtain ⟨f, rfl, hf⟩ := h
  by_cases hl : t.landingsDue (s.cyc t.core) = true
  · have hheld : s.xWord f = .next s.held := by simp [State.xWord, State.acts, hc, ht, hl, State.finish]
    obtain rfl := Host.Outcome.next.inj (hheld.symm.trans ho)
    exact xLeaves_held ht ht'
  · obtain rfl := Host.Outcome.next.inj ((State.xWord_next s f hc ht (Bool.eq_false_iff.mpr hl)).symm.trans ho)
    have hends := hf id t.settleRotation (s.cyc t.core)
    cases hy : f s id t.settleRotation (s.cyc t.core) with
    | ok v =>
      rw [hy] at ht' hends
      obtain ⟨u, n, hu, rfl⟩ := hends
      exact xLeaves_occupy hu ht'
    | error e =>
      rw [hy] at ht' hr hends
      obtain hheld | hshow := trapShows_finish hc ht hends
      · rw [hheld] at ht' ⊢
        exact xLeaves_held ht ht'
      · exact absurd hshow (not_trapShows ht' hr hh)

/-! ## Every word of the X stream whose results land is quiet -/

theorem xQuiet_xOp (s : State) (q : XReq) {own : Task → Try Unit} (g : XIn → XRes) (hown : ∀ t, Ends (fun _ => True) (own t)) :
    XQuiet s (s.xOp q own g) := by
  refine ⟨_, rfl, fun id t p => ends_bind (ends_await _) (fun _ => ends_bind (ends_resolveAll t _ _ _) (fun rs =>
    ends_bind (ends_resolveDsts t _) (fun ds => ends_bind (hown t) (fun _ => ?_))))⟩
  dsimp only
  split
  · exact ⟨t, _, .rfl t, rfl⟩
  · exact ⟨_, _, (sameFiles_readAll (q.srcs.zip rs) t).withEffects _, rfl⟩

theorem xQuiet_noOwn (s : State) (q : XReq) (g : XIn → XRes) : XQuiet s (s.xOp q noOwn g) := xQuiet_xOp s q g (fun _ => trivial)

theorem xQuiet_vdead (w : XI) (s : State) : XQuiet s (execVdead w s) := by
  refine ⟨_, rfl, fun id t p => ends_bind (ends_require _ _) (fun _ => ?_)⟩
  split
  · exact ⟨t, _, .rfl t, rfl⟩
  · exact ⟨_, _, (SameFiles.rfl t).withEffects _, rfl⟩

theorem xQuiet_of_isVectorWord (i : Instr) (s : State) (h : isVectorWord i = true) : XQuiet s (exec i s) := by
  cases i with
  | vadd w => exact (by unfold execVadd State.xint2 State.xv2; exact xQuiet_noOwn s _ _ : XQuiet s (execVadd w s))
  | vsub w => exact (by unfold execVsub State.xint2 State.xv2; exact xQuiet_noOwn s _ _ : XQuiet s (execVsub w s))
  | vmul w => exact (by unfold execVmul State.xint2 State.xv2; exact xQuiet_noOwn s _ _ : XQuiet s (execVmul w s))
  | vmulh w => exact (by unfold execVmulh State.xint2 State.xv2; exact xQuiet_noOwn s _ _ : XQuiet s (execVmulh w s))
  | vmad w => exact (by unfold execVmad State.xint3 State.xv3; exact xQuiet_noOwn s _ _ : XQuiet s (execVmad w s))
  | vmin w => exact (by unfold execVmin State.xint2 State.xv2; exact xQuiet_noOwn s _ _ : XQuiet s (execVmin w s))
  | vmax w => exact (by unfold execVmax State.xint2 State.xv2; exact xQuiet_noOwn s _ _ : XQuiet s (execVmax w s))
  | vabs w => exact (by unfold execVabs State.xint1 State.xv1; exact xQuiet_noOwn s _ _ : XQuiet s (execVabs w s))
  | vabsd w => exact (by unfold execVabsd State.xv2; exact xQuiet_noOwn s _ _ : XQuiet s (execVabsd w s))
  | vneg w => exact (by unfold execVneg State.xint1 State.xv1; exact xQuiet_noOwn s _ _ : XQuiet s (execVneg w s))
  | vavg w => exact (by unfold execVavg State.xint2 State.xv2; exact xQuiet_noOwn s _ _ : XQuiet s (execVavg w s))
  | vshl w => exact (by unfold execVshl State.xint2 State.xv2; exact xQuiet_noOwn s _ _ : XQuiet s (execVshl w s))
  | vshr w => exact (by unfold execVshr State.xv2; exact xQuiet_noOwn s _ _ : XQuiet s (execVshr w s))
  | vsra w => exact (by unfold execVsra State.xv2; exact xQuiet_noOwn s _ _ : XQuiet s (execVsra w s))
  | vrsh w => exact (by unfold execVrsh State.xv2; exact xQuiet_noOwn s _ _ : XQuiet s (execVrsh w s))
  | vand w => exact (by unfold execVand State.xpat2 State.xv2; exact xQuiet_noOwn s _ _ : XQuiet s (execVand w s))
  | vor w => exact (by unfold execVor State.xpat2 State.xv2; exact xQuiet_noOwn s _ _ : XQuiet s (execVor w s))
  | vxor w => exact (by unfold execVxor State.xpat2 State.xv2; exact xQuiet_noOwn s _ _ : XQuiet s (execVxor w s))
  | vandn w => exact (by unfold execVandn State.xpat2 State.xv2; exact xQuiet_noOwn s _ _ : XQuiet s (execVandn w s))
  | vnot w => exact (by unfold execVnot State.xv1; exact xQuiet_noOwn s _ _ : XQuiet s (execVnot w s))
  | vpopc w => exact (by unfold execVpopc State.xint1 State.xv1; exact xQuiet_noOwn s _ _ : XQuiet s (execVpopc w s))
  | vclz w => exact (by unfold execVclz State.xint1 State.xv1; exact xQuiet_noOwn s _ _ : XQuiet s (execVclz w s))
  | vsel w => exact (by unfold execVsel State.xv3; exact xQuiet_noOwn s _ _ : XQuiet s (execVsel w s))
  | vcmp w => exact (by unfold execVcmp State.xcmp; exact xQuiet_noOwn s _ _ : XQuiet s (execVcmp w s))
  | vclamp w => exact (by unfold execVclamp State.xint3 State.xv3; exact xQuiet_noOwn s _ _ : XQuiet s (execVclamp w s))
  | vfadd w => exact (by unfold execVfadd State.xfloat2 State.xv2; exact xQuiet_noOwn s _ _ : XQuiet s (execVfadd w s))
  | vfsub w => exact (by unfold execVfsub State.xfloat2 State.xv2; exact xQuiet_noOwn s _ _ : XQuiet s (execVfsub w s))
  | vfmul w => exact (by unfold execVfmul State.xfloat2 State.xv2; exact xQuiet_noOwn s _ _ : XQuiet s (execVfmul w s))
  | vfma w => exact (by unfold execVfma State.xfloat3 State.xv3; exact xQuiet_noOwn s _ _ : XQuiet s (execVfma w s))
  | vfms w => exact (by unfold execVfms State.xfloat3 State.xv3; exact xQuiet_noOwn s _ _ : XQuiet s (execVfms w s))
  | vfnma w => exact (by unfold execVfnma State.xfloat3 State.xv3; exact xQuiet_noOwn s _ _ : XQuiet s (execVfnma w s))
  | vfmin w => exact (by unfold execVfmin State.xv2; exact xQuiet_noOwn s _ _ : XQuiet s (execVfmin w s))
  | vfmax w => exact (by unfold execVfmax State.xv2; exact xQuiet_noOwn s _ _ : XQuiet s (execVfmax w s))
  | vfabs w => exact (by unfold execVfabs State.xsign State.xv1; exact xQuiet_noOwn s _ _ : XQuiet s (execVfabs w s))
  | vfneg w => exact (by unfold execVfneg State.xsign State.xv1; exact xQuiet_noOwn s _ _ : XQuiet s (execVfneg w s))
  | vfcmp w => exact (by unfold execVfcmp State.xcmp; exact xQuiet_noOwn s _ _ : XQuiet s (execVfcmp w s))
  | vfclass w => exact (by unfold execVfclass; exact xQuiet_noOwn s _ _ : XQuiet s (execVfclass w s))
  | vrcp w => exact (by unfold execVrcp State.xtr1 State.xv1; exact xQuiet_noOwn s _ _ : XQuiet s (execVrcp w s))
  | vrsq w => exact (by unfold execVrsq State.xtr1 State.xv1; exact xQuiet_noOwn s _ _ : XQuiet s (execVrsq w s))
  | vsqrt w => exact (by unfold execVsqrt State.xtr1 State.xv1; exact xQuiet_noOwn s _ _ : XQuiet s (execVsqrt w s))
  | vdiv w => exact (by unfold execVdiv State.xv2; exact xQuiet_noOwn s _ _ : XQuiet s (execVdiv w s))
  | vexp2 w => exact (by unfold execVexp2 State.xtr1 State.xv1; exact xQuiet_noOwn s _ _ : XQuiet s (execVexp2 w s))
  | vlog2 w => exact (by unfold execVlog2 State.xtr1 State.xv1; exact xQuiet_noOwn s _ _ : XQuiet s (execVlog2 w s))
  | vfscl w => exact (by unfold execVfscl State.xv2; exact xQuiet_noOwn s _ _ : XQuiet s (execVfscl w s))
  | vcvt w => exact (by unfold execVcvt State.xv1; exact xQuiet_noOwn s _ _ : XQuiet s (execVcvt w s))
  | vqmx w => exact (by unfold execVqmx; exact xQuiet_noOwn s _ _ : XQuiet s (execVqmx w s))
  | vdqmx w => exact (by unfold execVdqmx; exact xQuiet_noOwn s _ _ : XQuiet s (execVdqmx w s))
  | vamax w => exact (by unfold execVamax; exact xQuiet_noOwn s _ _ : XQuiet s (execVamax w s))
  | eset w => exact (by unfold execEset; exact xQuiet_noOwn s _ _ : XQuiet s (execEset w s))
  | esetImm w => exact (by unfold execEsetImm; exact xQuiet_noOwn s _ _ : XQuiet s (execEsetImm w s))
  | eget w => exact (by unfold execEget; exact xQuiet_noOwn s _ _ : XQuiet s (execEget w s))
  | vperm w => exact (by unfold execVperm; exact xQuiet_noOwn s _ _ : XQuiet s (execVperm w s))
  | vbcst w => exact (by unfold execVbcst; exact xQuiet_noOwn s _ _ : XQuiet s (execVbcst w s))
  | vzip w => exact (by unfold execVzip State.xpair; exact xQuiet_noOwn s _ _ : XQuiet s (execVzip w s))
  | vunzip w => exact (by unfold execVunzip State.xpair; exact xQuiet_noOwn s _ _ : XQuiet s (execVunzip w s))
  | vpack w => exact (by unfold execVpack State.xselect; exact xQuiet_noOwn s _ _ : XQuiet s (execVpack w s))
  | vunpk w => exact (by unfold execVunpk State.xselect; exact xQuiet_noOwn s _ _ : XQuiet s (execVunpk w s))
  | vlsh w => exact (by unfold execVlsh; exact xQuiet_noOwn s _ _ : XQuiet s (execVlsh w s))
  | vmov w => exact (by unfold execVmov; exact xQuiet_noOwn s _ _ : XQuiet s (execVmov w s))
  | vmovi w => exact (by unfold execVmovi; exact xQuiet_noOwn s _ _ : XQuiet s (execVmovi w s))
  | vbf2 w => exact (by unfold execVbf2; exact xQuiet_noOwn s _ _ : XQuiet s (execVbf2 w s))
  | vbf4 w => exact (by unfold execVbf4; exact xQuiet_noOwn s _ _ : XQuiet s (execVbf4 w s))
  | vtwg w => exact (by unfold execVtwg; exact xQuiet_noOwn s _ _ : XQuiet s (execVtwg w s))
  | vcmul w => exact (by unfold execVcmul State.xv2; exact xQuiet_noOwn s _ _ : XQuiet s (execVcmul w s))
  | vcmac w => exact (by unfold execVcmac State.xv3; exact xQuiet_noOwn s _ _ : XQuiet s (execVcmac w s))
  | vred w => exact (by unfold execVred State.xreduce; exact xQuiet_noOwn s _ _ : XQuiet s (execVred w s))
  | vscan w => exact (by unfold execVscan State.xreduce; exact xQuiet_noOwn s _ _ : XQuiet s (execVscan w s))
  | vrsum w => exact (by unfold execVrsum State.xreduce; exact xQuiet_noOwn s _ _ : XQuiet s (execVrsum w s))
  | kand w => exact (by unfold execKand State.xpred; exact xQuiet_noOwn s _ _ : XQuiet s (execKand w s))
  | kor w => exact (by unfold execKor State.xpred; exact xQuiet_noOwn s _ _ : XQuiet s (execKor w s))
  | kxor w => exact (by unfold execKxor State.xpred; exact xQuiet_noOwn s _ _ : XQuiet s (execKxor w s))
  | knot w => exact (by unfold execKnot State.xpred; exact xQuiet_noOwn s _ _ : XQuiet s (execKnot w s))
  | ksetLt w => exact (by unfold execKsetLt State.xpred; exact xQuiet_noOwn s _ _ : XQuiet s (execKsetLt w s))
  | ksetGe w => exact (by unfold execKsetGe State.xpred; exact xQuiet_noOwn s _ _ : XQuiet s (execKsetGe w s))
  | ksetMod w => exact (by unfold execKsetMod State.xpred; exact xQuiet_noOwn s _ _ : XQuiet s (execKsetMod w s))
  | kmov w => exact (by unfold execKmov State.xpred; exact xQuiet_noOwn s _ _ : XQuiet s (execKmov w s))
  | kmovFromv w => exact (by unfold execKmovFromv; exact xQuiet_noOwn s _ _ : XQuiet s (execKmovFromv w s))
  | kmovTov w => exact (by unfold execKmovTov; exact xQuiet_noOwn s _ _ : XQuiet s (execKmovTov w s))
  | vdot4 w => exact (by unfold execVdot4 State.xdot State.xv3; exact xQuiet_xOp s _ _ (fun _ => ends_require _ _) : XQuiet s (execVdot4 w s))
  | vdot8 w => exact (by unfold execVdot8 State.xdot State.xv3; exact xQuiet_xOp s _ _ (fun _ => ends_require _ _) : XQuiet s (execVdot8 w s))
  | vcvte w =>
    refine (?_ : XQuiet s (execVcvte w s))
    unfold execVcvte
    exact xQuiet_xOp s _ _ (fun _ => ends_bind (ends_require _ _) (fun _ => ends_require _ _))
  | vpush w => exact (by unfold execVpush; exact xQuiet_xOp s _ _ (fun _ => ends_require _ _) : XQuiet s (execVpush w s))
  | vdead w => exact (xQuiet_vdead w s : XQuiet s (execVdead w s))
  | _ => exact absurd h Bool.false_ne_true

/-- Settles O31: every such word is quiet, and a quiet word that does not show a trap keeps the files of its task. -/
theorem vectorWordFrame : Obligations.VectorWordFrame := by
  intro i s s' id t t' hi hc ht ho ht' hr hh
  exact xLeaves_of_xQuiet (xQuiet_of_isVectorWord i s hi) hc ht ho ht' hr hh

end Sys2Proof.Proofs
end

section
/-! PROOFS. Bound regions, stream registers, glyphs, the Folio and the issue of copies (R149 to R162, R168). -/

namespace Sys2Proof.Proofs

open Sys2Proof Sys2Proof.Machine Sys2Proof.Claims

/-! ## Several accesses of one instruction (R136) -/

theorem checked_ok {α : Type} (x : α) : checked (.ok x : Try α) = .ok () := rfl

theorem together_pair : together [.ok (), .ok ()] = .ok () := rfl

/-- An access that may be written has passed its check. -/
theorem check_of_viewWrite {s u : State} {v : View} {va : Nat} {bs : List Byte} (h : s.viewWrite v va bs = .ok u) :
    checked (s.check v .write va bs.length) = .ok () := by
  unfold State.viewWrite at h
  cases hc : s.check v .write va bs.length with
  | ok ps => rfl
  | error e => rw [hc] at h; cases h

/-! ## Bound regions (R168) -/

/-- Settles O16. -/
theorem regionWords : Obligations.RegionWords := by
  intro w s o ho base len slot
  have hslot : bits w.opt.toNat 0 2 = slot := by simp [bits, slot]
  refine ⟨fun h => ⟨fun hbad => ?_, fun hb hl hs => ?_⟩, fun h => ⟨fun hopt => ?_, fun hopt hzero => ?_⟩⟩
  · have hno : (decide (base < 2 ^ 52) && decide (len < 2 ^ 40) && decide (base + len ≤ 2 ^ 52)) = false := by
      simpa only [← Bool.decide_and, decide_eq_false_iff_not, and_assoc] using hbad
    refine (aWord_traps h ?_ : execBbnd w s = _)
    simp only [ho, Try.ok_bind]
    rw [require_of_not hno]
    rfl
  · refine (aWord_completes h ?_ : execBbnd w s = _)
    have hyes : (decide (base < 2 ^ 52) && decide (len < 2 ^ 40) && decide (base + len ≤ 2 ^ 52)) = true := by
      simp only [decide_eq_true hb, decide_eq_true hl, decide_eq_true hs, Bool.and_self]
    simp only [ho, Try.ok_bind, hslot]
    rw [require_of hyes]
    rfl
  · refine (aWord_completes h ?_ : execBubd w s = _)
    simp only [hopt, ho, hslot, Bool.not_false, Bool.true_or, require_true, Try.ok_bind]
    rfl
  · refine (aWord_completes h ?_ : execBubd w s = _)
    simp only [hopt, ho, hslot, hzero, decide_true, Bool.or_true, require_true, Try.ok_bind]
    rfl

/-! ## Stream registers (R157) -/

/-- R157, R136: what SBIND reads, once each of it can be read. -/
theorem bindWords_of_reads {s : State} {va gs gd : Nat} {bs : List Byte} {data index : List Word}
    (hbs : s.viewRead s.aEngine va 64 = .ok bs) (hdata : s.glyphWords gs = .ok data)
    (hindex : if holdsOp (dwords 8 bs) 5 then s.glyphWords gd = .ok index else index = []) :
    s.bindWords va gs gd = .ok (dwords 8 bs, data, index) := by
  simp only [State.bindWords, hbs, hdata]
  split at hindex
  · next hg => simp only [hg, if_true, hindex, checked_ok, together_pair, Try.ok_bind]
  · next hg =>
    subst hindex
    simp only [hg, checked_ok, Try.ok_bind]
    rfl

/-- Settles O15. -/
theorem bindingWords : Obligations.BindingWords := by
  intro w s id t bs data index table
  refine ⟨fun h hh => ?_, fun h hh => ⟨fun hmis => ?_, fun hal hbs hdata hindex => ⟨fun hbad => ?_, fun hok htable => ?_⟩⟩⟩
  · refine (taskWord_completes h ?_ : execSdrop w s = _)
    simp only [notInHandler_of_none hh, Try.ok_bind]
  · refine (taskWord_traps h ?_ : execSbind w s = _)
    simp only [notInHandler_of_none hh, Try.ok_bind, if_pos hmis]
  · refine (taskWord_traps h ?_ : execSbind w s = _)
    simp only [notInHandler_of_none hh, Try.ok_bind, if_neg (not_not_intro hal), bindWords_of_reads hbs hdata hindex]
    rw [require_of_not hbad]
    rfl
  · refine (taskWord_completes h ?_ : execSbind w s = _)
    simp only [notInHandler_of_none hh, Try.ok_bind, if_neg (not_not_intro hal), bindWords_of_reads hbs hdata hindex]
    rw [require_of hok]
    simp only [Try.ok_bind, htable]

/-! ## Glyphs (R149) -/

theorem glyphFieldSigned_iff (fn : Nat) : glyphFieldSigned fn = true ↔ 0x0C ≤ fn ∧ fn ≤ 0x10 := by
  simp [glyphFieldSigned]

/-- Settles O12. -/
theorem glyphWords : Obligations.GlyphWords := by
  intro w s u id t bs
  refine ⟨fun h => ⟨fun hmis => ?_, fun hal hbs hlen hw => ?_, fun hbs hw => ?_⟩, fun h hbs => ?_⟩
  · refine (taskWord_traps h ?_ : execGdef w s = _)
    simp only [if_pos hmis]
  · have hc := check_of_viewWrite hw
    rw [hlen] at hc
    refine (taskWord_completes h ?_ : execGdef w s = _)
    simp only [if_neg (not_not_intro hal), hbs, hc, hw, checked_ok, together_pair, Try.ok_bind]
  · have hc := check_of_viewWrite hw
    rw [length_leBytes] at hc
    refine (taskWord_completes h ?_ : execGset w s = _)
    simp only [hbs, hc, hw, checked_ok, together_pair, Try.ok_bind]
  · refine (taskWord_completes h ?_ : execGget w s = _)
    simp only [hbs, lasting, Try.ok_bind, glyphFieldSigned_iff]
    rfl

/-! ## The Folio (R161, R162) -/

section Folio

variable {s : State} {a : BitVec 6}

/-- R160, R162: a number that names no block, or a free one, is refused. -/
theorem blockOf_refused (h : ¬((s.reg a).toNat < 2 ^ 20 ∧ s.folio.base ≠ none) ∨
      s.headerCheck .write (s.reg a).toNat = .ok () ∧ s.blockFree (s.reg a).toNat = true) :
    s.blockOf a = .error (.trap .access 0) := by
  simp only [State.blockOf]
  by_cases hlt : (s.reg a).toNat < 2 ^ 20
  · rw [require_of (decide_eq_true hlt), Try.ok_bind]
    cases hb : s.folio.base with
    | none => rfl
    | some b =>
      obtain hno | ⟨hcheck, hfree⟩ := h
      · exact absurd ⟨hlt, by simp [hb]⟩ hno
      · rw [hcheck, hfree]; rfl
  · rw [require_of_not (decide_eq_false hlt)]; rfl

theorem blockOf_inUse (hlt : (s.reg a).toNat < 2 ^ 20) (hb : s.folio.base ≠ none)
    (hcheck : s.headerCheck .write (s.reg a).toNat = .ok ()) (hfree : s.blockFree (s.reg a).toNat = false) :
    s.blockOf a = .ok (s.reg a).toNat := by
  simp only [State.blockOf]
  rw [require_of (decide_eq_true hlt), require_of (Option.isSome_iff_ne_none.mpr hb), hcheck, hfree]
  rfl

/-- R161: the fields of a block descriptor. -/
theorem descriptor_fields (v : Nat) :
    (decide (bits v 4 3 ≤ 4) && decide (bits v 0 4 ≤ 4) && decide (bits v 0 4 ≠ 2) && decide (bits v 7 1 = 0) &&
      decide (bits v 16 48 = 0)) = true ↔
    v / 16 % 8 ≤ 4 ∧ v % 16 ≤ 4 ∧ v % 16 ≠ 2 ∧ v / 128 % 2 = 0 ∧ v / 65536 % 2 ^ 48 = 0 := by
  simp only [Bool.and_eq_true, decide_eq_true_eq, and_assoc]
  simp only [bits, Nat.pow_zero, Nat.div_one, Nat.reducePow]

end Folio

/-- Settles O13. -/
theorem folioWords : Obligations.FolioWords := by
  intro w s id t h
  dsimp only
  have hfields := descriptor_fields (s.reg w.a).toNat
  have hfmt : bits (s.reg w.a).toNat 0 4 = (s.reg w.a).toNat % 16 := by simp [bits]
  have hloc : bits (s.reg w.a).toNat 4 3 = (s.reg w.a).toNat / 16 % 8 := rfl
  have htag : bits (s.reg w.a).toNat 8 8 = (s.reg w.a).toNat / 256 % 256 := rfl
  refine ⟨fun hbad => ?_, fun hok hb => ?_, fun hok hb hready hall => ?_, fun b u hok hb hready hall => ?_, fun hbad => ?_,
    fun ⟨⟨hlt, hb⟩, hcheck, hfree⟩ => ?_⟩
  · refine (taskWord_traps h ?_ : execFalloc w s = _)
    simp only [require_of_not (Bool.eq_false_iff.mpr (mt hfields.mp hbad)), Try.error_bind]
  · refine (taskWord_traps h ?_ : execFalloc w s = _)
    simp only [require_of (hfields.mpr hok), hb, Try.ok_bind]
    rfl
  · refine (taskWord_traps h ?_ : execFalloc w s = _)
    simp only [require_of (hfields.mpr hok), Option.isSome_iff_ne_none.mpr hb, require_true, Try.ok_bind]
    simp only [hloc, hfmt, htag, hall]
    cases hf : s.freeHead ((s.reg w.a).toNat / 16 % 8) with
    | none => rfl
    | some k => simp only [hready k hf]; rfl
  · refine (taskWord_completes h ?_ : execFalloc w s = _)
    simp only [require_of (hfields.mpr hok), Option.isSome_iff_ne_none.mpr hb, require_true, Try.ok_bind]
    simp only [hloc, hfmt, htag, hall]
    cases hf : s.freeHead ((s.reg w.a).toNat / 16 % 8) with
    | none => rfl
    | some k => simp only [hready k hf]; rfl
  · have hno := blockOf_refused hbad
    exact ⟨(taskWord_traps h (by rw [hno]; rfl) : execFaddref w s = _), (taskWord_traps h (by rw [hno]; rfl) : execFdrop w s = _),
      (taskWord_traps h (by rw [hno]; rfl) : execPseal w s = _)⟩
  · have hin := blockOf_inUse hlt hb hcheck hfree
    refine ⟨fun hr => ?_, fun hr => ?_, ?_, fun hs => ?_, fun hs => ?_⟩
    · refine (taskWord_traps h ?_ : execFaddref w s = _)
      simp only [hin, Try.ok_bind]
      rw [require_of_not (decide_eq_false (not_not_intro hr))]
      rfl
    · refine (taskWord_completes h ?_ : execFaddref w s = _)
      simp only [hin, Try.ok_bind]
      rw [require_of (decide_eq_true hr)]
      rfl
    · exact (taskWord_completes h (by rw [hin]; rfl) : execFdrop w s = _)
    · refine (taskWord_completes h ?_ : execPseal w s = _)
      simp only [hin, Try.ok_bind, if_pos hs]
    · refine (taskWord_completes h ?_ : execPseal w s = _)
      simp only [hin, Try.ok_bind, if_neg hs]

/-! ## The issue of copies (R151, R152, R154) -/

section Copies

variable {w : AC} {s : State} {dst src : List Word} {es : List Nat} {h : Word} {kind : CopyKind} {wash : Bool}

/-- R151: a box copy that passes its checks waits for room, and is then issued. -/
theorem boxCopy_of_checks (hd : s.glyphWords w.gd.toNat = .ok dst) (hs : s.glyphWords w.gs.toNat = .ok src)
    (hc : boxChecks (glyphOf dst) (glyphOf src) (s.reg w.ext) (s.reg w.d) (s.reg w.a)
      (s.copyBarrier w (decide (kind = .remote))) (decide (w.wash = 1)) (decide (kind = .remote)) = .ok (es, h)) :
    s.boxCopy w kind = if s.copyRoom then
        .ok (s.issueCopy (s.newCopy kind dst src (s.reg w.d) (s.reg w.a) es 0 0 h (decide (w.wash = 1)) (w.opt.getLsbD 0)
          (es.foldl (· * ·) 1) (typeBits (glyphOf dst).ty))).advance
      else .error .hold := by
  simp only [State.boxCopy, hd, hs, checked_ok, together_pair, Try.ok_bind, hc]
  cases s.copyRoom <;> rfl

/-- R154: a copy between a glyph and the window that passes its checks is issued. -/
theorem windowCopy_of_checks {t : Task} {glyph : BitVec 10} {ws : List Word} (hpad : (s.reg w.d).toNat / 2 ^ 13 % 8 = 0)
    (htop : (s.reg w.d).toNat / 2 ^ 20 % 2 ^ 44 = 0) (hcode : (s.reg w.d).toNat / 65536 % 16 ≤ 8) (hlow : 1 ≤ (s.reg w.ext).toNat)
    (hhigh : (s.reg w.ext).toNat ≤ 65536) {width : Nat}
    (hwidth : (if (s.reg w.d).toNat / 65536 % 16 = 8 then 16 else (s.reg w.d).toNat / 65536 % 16 + 1) = width)
    (hwin : (s.reg w.d).toNat % 2 ^ 13 + width * (s.reg w.ext).toNat ≤ t.winSize) (hbits : typeBits (glyphOf ws).ty = 4 * width)
    (hcount : 512 * (s.reg w.ext).toNat ≤ (glyphOf ws).count) (hbar : s.copyBarrier w false = .ok h) (hroom : s.copyRoom = true)
    (hg : s.useGlyph glyph.toNat = .ok ws) (hfmt : kind = .vecIn ∨ (glyphOf ws).memfmt = 0) :
    s.windowCopy t w kind glyph = .ok (s.issueCopy (if kind = .vecIn
        then s.newCopy kind [] ws 0 (s.reg w.a) [(s.reg w.ext).toNat] ((s.reg w.d).toNat % 2 ^ 13) width h false false
          (512 * (s.reg w.ext).toNat) (4 * width)
        else s.newCopy kind ws [] (s.reg w.a) 0 [(s.reg w.ext).toNat] ((s.reg w.d).toNat % 2 ^ 13) width h false false
          (512 * (s.reg w.ext).toNat) (4 * width))).advance := by
  have hslice : bits (s.reg w.d).toNat 0 13 = (s.reg w.d).toNat % 2 ^ 13 := by simp [bits]
  have hform : (decide (bits (s.reg w.d).toNat 13 3 = 0) && decide (bits (s.reg w.d).toNat 20 44 = 0) &&
      decide (bits (s.reg w.d).toNat 16 4 ≤ 8)) = true := by
    rw [decide_eq_true (show bits _ 13 3 = 0 from hpad), decide_eq_true (show bits _ 20 44 = 0 from htop),
      decide_eq_true (show bits _ 16 4 ≤ 8 from hcode)]
    rfl
  have hn : (decide (1 ≤ (s.reg w.ext).toNat) && decide ((s.reg w.ext).toNat ≤ 65536)) = true := by
    rw [decide_eq_true hlow, decide_eq_true hhigh]; rfl
  have hw : (if bits (s.reg w.d).toNat 16 4 = 8 then 16 else bits (s.reg w.d).toNat 16 4 + 1) = width := hwidth
  have hglyph : (decide (typeBits (glyphOf ws).ty = 4 * width) && decide (512 * (s.reg w.ext).toNat ≤ (glyphOf ws).count) &&
      (decide (kind = .vecIn) || decide ((glyphOf ws).memfmt = 0))) = true := by
    rw [decide_eq_true hbits, decide_eq_true hcount, ← Bool.decide_or, decide_eq_true hfmt]; rfl
  simp only [State.windowCopy]
  rw [require_of hform, Try.ok_bind, require_of hn, Try.ok_bind, hw, hslice, require_of (decide_eq_true hwin), Try.ok_bind, hg, Try.ok_bind,
    require_of hglyph, Try.ok_bind, hbar, hroom]
  rfl

end Copies

/-- Settles O14. -/
theorem copyWords : Obligations.CopyWords := by
  intro w s id t dst src es h
  dsimp only
  refine ⟨fun hr hd hs hc => ⟨fun hroom => ?_, fun hroom => ?_⟩, fun hr hd hs hc hroom => ?_,
    fun hr hd hes htop hbar hfmt hroom => ?_, fun hr hpad htop hcode hlow hhigh hwin hbits hcount hbar hroom => ⟨fun hg => ?_, fun hg hfmt => ?_⟩⟩
  · refine (aWord_completes hr ?_ : execCpy w s = _)
    rw [boxCopy_of_checks (kind := .box) hd hs hc, if_pos hroom]
  · refine (aWord_waits hr ?_ : execCpy w s = _)
    rw [boxCopy_of_checks (kind := .box) hd hs hc, hroom]
    rfl
  · refine (taskWord_completes hr ?_ : execCpyx w s = _)
    rw [boxCopy_of_checks (kind := .remote) hd hs hc, if_pos hroom]
  · have hzero : bits (s.reg w.ext).toNat 60 4 = 0 := (bits_top_eq_zero_iff _ (by decide)).mpr htop
    refine (taskWord_completes hr ?_ : execCpyb w s = _)
    simp only [hd, hes, hzero, hbar, hfmt, hroom, decide_true, require_true, await_true, Try.ok_bind]
  · refine (taskWord_completes hr ?_ : execCpyvIn w s = _)
    rw [windowCopy_of_checks hpad htop hcode hlow hhigh rfl hwin hbits hcount hbar hroom hg (.inl rfl), if_pos rfl]
  · refine (taskWord_completes hr ?_ : execCpyvOut w s = _)
    rw [windowCopy_of_checks hpad htop hcode hlow hhigh rfl hwin hbits hcount hbar hroom hg (.inr hfmt), if_neg nofun]

end Sys2Proof.Proofs
end

section
/-! PROOFS. Scalar loads and stores (R88, R136 to R139, R303, R315), here and at another tower (R173, R417), PREF and FENCE (R145,
R146). -/

namespace Sys2Proof.Proofs

open Sys2Proof Sys2Proof.Machine Sys2Proof.Claims

/-! ## The two forms of a load and of a store -/

section Forms

variable {w : AM} {s u v : State} {i : Instr} {strong : Option Nat} {f : State → State}

/-- LDS looks at a state in which only the order of writes has changed. -/
theorem ordered_of_loadForm (h : LoadForm w s i u strong) : ∃ g, u = s.ordered g := by
  obtain ⟨-, rfl, -⟩ | ⟨-, -, rfl, -⟩ := h
  · exact ⟨id, rfl⟩
  · exact ⟨_, rfl⟩

theorem ordered_of_storeForm (h : StoreForm w s i u strong f) : ∃ g, u = s.ordered g := by
  obtain ⟨-, rfl, -⟩ | ⟨-, -, rfl, -⟩ := h
  · exact ⟨id, rfl⟩
  · exact ⟨_, rfl⟩

theorem loadWord_of_loadForm (h : LoadForm w s i u strong) : loadWord w strong = i := by
  obtain ⟨rfl, -, rfl⟩ | ⟨rfl, -, -, rfl⟩ := h <;> rfl

theorem exec_of_loadForm (hr : Reads s [w.base, w.index]) (h : LoadForm w s i u strong) :
    exec i s = .next (s.finish (u.scalarLoad w strong)) := by
  obtain ⟨rfl, rfl, rfl⟩ | ⟨rfl, hn, rfl, rfl⟩ := h
  · exact (State.aWord_next u _ _ hr.acts hr.ready : execLd w u = _)
  · refine (State.aWord_next s _ _ hr.acts hr.ready : execLds w s = _).trans ?_
    rw [hn]
    rfl

theorem exec_of_storeForm (hr : Reads s [w.base, w.index, w.d]) (h : StoreForm w s i u strong f) :
    exec i s = .next (s.finish (u.scalarStore w strong >>= fun v => .ok (f v))) := by
  obtain ⟨rfl, rfl, rfl, rfl⟩ | ⟨rfl, hn, rfl, rfl, rfl⟩ := h
  · refine (State.aWord_next u _ _ hr.acts hr.ready : execSt w u = _).trans ?_
    cases u.scalarStore w none <;> rfl
  · refine (State.aWord_next s _ _ hr.acts hr.ready : execSts w s = _).trans ?_
    rw [hn]
    rfl

theorem load_completes (hr : Reads s [w.base, w.index]) (h : LoadForm w s i u strong) (hy : u.scalarLoad w strong = .ok v) :
    exec i s = .next v := by
  rw [exec_of_loadForm hr h, hy]; rfl

theorem load_traps {c : Cause} {va : Nat} (hr : Reads s [w.base, w.index]) (h : LoadForm w s i u strong)
    (hy : u.scalarLoad w strong = .error (.trap c va)) : Traps i s c va := by
  rw [Traps, exec_of_loadForm hr h, hy]; rfl

theorem load_waits (hr : Reads s [w.base, w.index]) (h : LoadForm w s i u strong) (hy : u.scalarLoad w strong = .error .hold) :
    Waits i s := by
  rw [Waits, exec_of_loadForm hr h, hy]; rfl

theorem store_completes (hr : Reads s [w.base, w.index, w.d]) (h : StoreForm w s i u strong f)
    (hy : u.scalarStore w strong = .ok v) : exec i s = .next (f v) := by
  rw [exec_of_storeForm hr h, hy]; rfl

theorem store_traps {c : Cause} {va : Nat} (hr : Reads s [w.base, w.index, w.d]) (h : StoreForm w s i u strong f)
    (hy : u.scalarStore w strong = .error (.trap c va)) : Traps i s c va := by
  rw [Traps, exec_of_storeForm hr h, hy]; rfl

theorem store_waits (hr : Reads s [w.base, w.index, w.d]) (h : StoreForm w s i u strong f)
    (hy : u.scalarStore w strong = .error .hold) : Waits i s := by
  rw [Waits, exec_of_storeForm hr h, hy]; rfl

theorem store_pends (hr : Reads s [w.base, w.index, w.d]) (h : StoreForm w s i u strong f)
    (hy : u.scalarStore w strong = .error (.pend v)) : exec i s = .next v.held := by
  rw [exec_of_storeForm hr h, hy]; rfl

end Forms

/-! ## What a scalar access of an aligned address does -/

section Access

variable {u : State} {w : AM} {strong : Option Nat} {ps : List (Nat × Nat)} {tw x o node : Nat}

theorem scalarLoad_misaligned (h : u.effective w % 2 ^ w.size.toNat ≠ 0) :
    u.scalarLoad w strong = .error (.trap .misaligned (u.effective w)) := by
  simp only [State.scalarLoad, if_pos h]

theorem scalarStore_misaligned (h : u.effective w % 2 ^ w.size.toNat ≠ 0) :
    u.scalarStore w strong = .error (.trap .misaligned (u.effective w)) := by
  simp only [State.scalarStore, if_pos h]

variable (ha : u.effective w % 2 ^ w.size.toNat = 0)
include ha

/-- R370: a load that a lasting error meets stays in flight. -/
theorem scalarLoad_bad (hc : u.check u.aView .read (u.effective w) (2 ^ w.size.toNat) = .error (.trap .uncorrectable (u.effective w)))
    (hh : u.hazard (u.effective w) (2 ^ w.size.toNat) = .ok ()) :
    u.scalarLoad w strong = .ok (u.launchBad (loadWord w strong) w.d (u.effective w)).timed.advance := by
  simp only [State.scalarLoad, if_neg (not_not_intro ha), hc, hh, Try.ok_bind]

theorem scalarLoad_refused (hc : u.check u.aView .read (u.effective w) (2 ^ w.size.toNat) = .error (.trap .access (u.effective w))) :
    u.scalarLoad w strong = .error (.trap .access (u.effective w)) := by
  simp only [State.scalarLoad, if_neg (not_not_intro ha), hc]

theorem scalarStore_refused (hc : u.check u.aView .write (u.effective w) (2 ^ w.size.toNat) = .error (.trap .access (u.effective w))) :
    u.scalarStore w strong = .error (.trap .access (u.effective w)) := by
  simp only [State.scalarStore, if_neg (not_not_intro ha), hc, Try.error_bind]

section Read

variable (hc : u.check u.aView .read (u.effective w) (2 ^ w.size.toNat) = .ok ps)
include hc

theorem scalarLoad_hazard (hh : u.hazard (u.effective w) (2 ^ w.size.toNat) = .error (.trap .hazard 0)) :
    u.scalarLoad w strong = .error (.trap .hazard 0) := by
  simp only [State.scalarLoad, if_neg (not_not_intro ha), hc, hh, Try.error_bind]

variable (hh : u.hazard (u.effective w) (2 ^ w.size.toNat) = .ok ())
include hh

theorem scalarLoad_memory {bs : List Byte} (hp : u.place (ps.headD (0, 0)).1 = .store tw x o)
    (hs : (u.strongLoad strong (tw * 2 ^ 40 + o) (2 ^ w.size.toNat)).seenBytes u.aView.who 8 (tw * 2 ^ 40 + o) (2 ^ w.size.toNat) =
      .ok bs) :
    u.scalarLoad w strong =
      .ok ((u.strongLoad strong (tw * 2 ^ 40 + o) (2 ^ w.size.toNat)).launchReg w.d (loaded w bs)).timed.advance := by
  simp only [State.scalarLoad, if_neg (not_not_intro ha), hc, hh, hp, Place.key, hs, Try.ok_bind]
  rfl

theorem scalarLoad_ctl (hp : u.place (ps.headD (0, 0)).1 = .ctl tw o) :
    u.scalarLoad w strong = if u.ctl.incoming = [] then
        .ok (u.launchReg w.d (extended w (bits (u.ctlRead (ctlOffset o / 8 * 8)) (8 * (o % 8)) (8 * 2 ^ w.size.toNat)))).timed.advance
      else .error .hold := by
  simp only [State.scalarLoad, if_neg (not_not_intro ha), hc, hh, hp, Try.ok_bind]
  cases u.ctl.incoming <;> rfl

theorem scalarLoad_remote (hp : u.place (ps.headD (0, 0)).1 = .remote node o) :
    u.scalarLoad w strong = if u.opClear node u.ownIdent (.load o (2 ^ w.size.toNat) strong) then
        .ok (u.launchRemote w (loadWord w strong) node o strong).timed.advance
      else .error .hold := by
  simp only [State.scalarLoad, if_neg (not_not_intro ha), hc, hh, hp, Try.ok_bind]
  cases u.opClear node u.ownIdent (.load o (2 ^ w.size.toNat) strong) <;> rfl

end Read

section Write

variable (hc : u.check u.aView .write (u.effective w) (2 ^ w.size.toNat) = .ok ps)
include hc

theorem scalarStore_memory (hp : u.place (ps.headD (0, 0)).1 = .store tw x o) :
    u.scalarStore w strong = .ok (u.writePieces ps
      (leBytes (2 ^ w.size.toNat) ((u.reg w.d).toNat % 2 ^ (8 * 2 ^ w.size.toNat)))).advance := by
  simp only [State.scalarStore, if_neg (not_not_intro ha), hc, hp, Try.ok_bind]

theorem scalarStore_ctl (hp : u.place (ps.headD (0, 0)).1 = .ctl tw o) :
    u.scalarStore w strong = if u.ctl.incoming = [] then
        .ok (u.ctlSend (ctlOffset o) (2 ^ w.size.toNat) ((u.reg w.d).toNat % 2 ^ (8 * 2 ^ w.size.toNat))).advance
      else .error .hold := by
  simp only [State.scalarStore, if_neg (not_not_intro ha), hc, hp, Try.ok_bind]
  cases u.ctl.incoming <;> rfl

theorem scalarStore_remote (hp : u.place (ps.headD (0, 0)).1 = .remote node o) :
    u.scalarStore w strong = u.remoteStep node
      (.store o (2 ^ w.size.toNat) (BitVec.ofNat 64 ((u.reg w.d).toNat % 2 ^ (8 * 2 ^ w.size.toNat))) strong) Know.none
      (fun s _ _ => .ok s.advance) := by
  simp only [State.scalarStore, if_neg (not_not_intro ha), hc, hp, Try.ok_bind]

end Write

end Access

/-! ## The step of a word at another tower (R173, R417) -/

section RemoteStep

variable {s : State} {node : Nat} {op : RemoteOp} {k : Know} {done : State → Know → Word → Try State} {tag : Nat} {r : Remote}

theorem remoteStep_sends (ha : s.asked = none) (hc : s.opClear node s.ownIdent op = true) :
    s.remoteStep node op k done = .error (.pend (s.sendRequest node op k (.word s.cur s.handling) s.ownIdent s.pc)) := by
  simp only [State.remoteStep, ha, hc, await_true, Try.ok_bind]

theorem remoteStep_blocked (ha : s.asked = none) (hc : s.opClear node s.ownIdent op = false) :
    s.remoteStep node op k done = .error .hold := by
  simp only [State.remoteStep, ha, hc, await_false, Try.error_bind]

theorem remoteStep_unanswered (ha : s.asked = some (tag, r)) (hr : r.answer = none) :
    s.remoteStep node op k done = .error .hold := by
  simp only [State.remoteStep, ha, hr]

theorem remoteStep_answered {v : Word} (ha : s.asked = some (tag, r)) (hr : r.answer = some (.ok v)) :
    s.remoteStep node op k done = done { s with remotes := s.remotes.del tag } r.learnt v := by
  simp only [State.remoteStep, ha, hr]

end RemoteStep

/-- Settles O7. -/
theorem loadWords : Obligations.LoadWords := by
  intro w s ps tw x o bs hr n ea
  refine ⟨fun hn => ?_, fun i u strong hf => ?_⟩
  · refine (aWord_waits hr ?_ : execLds w s = _)
    rw [hn]
    rfl
  obtain ⟨g, rfl⟩ := ordered_of_loadForm hf
  have hi := loadWord_of_loadForm hf
  refine ⟨fun ha => ?_, fun ha hc hh hp => ?_, fun ha hc hh => ?_, fun ha hc hh => ?_, fun ha hc hh hp => ⟨fun hin => ?_, fun hin => ?_⟩⟩
  · exact load_traps hr hf (scalarLoad_misaligned ha)
  · intro k v hs
    exact load_completes hr hf (scalarLoad_memory (u := s.ordered g) ha hc hh hp hs)
  · exact load_completes hr hf (hi ▸ scalarLoad_bad ha hc hh)
  · exact load_traps hr hf (scalarLoad_hazard ha hc hh)
  · exact load_completes hr hf ((scalarLoad_ctl (u := s.ordered g) ha hc hh hp).trans (if_pos hin))
  · exact load_waits hr hf ((scalarLoad_ctl (u := s.ordered g) ha hc hh hp).trans (if_neg hin))

/-! ## What no load or store reaches (R170, R283) -/

section Windows

variable {s : State} {pa tw o : Nat}

/-- R283: the semaphore file and the host window refuse whoever runs. -/
theorem physCheck_window (hp : s.place pa = .semFile tw o ∨ s.place pa = .host o) (k : Access) (n : Nat) :
    s.physCheck s.aView.ident s.aView.reach k pa n = .error (.trap .access 0) := by
  obtain hp | hp := hp
  · simp only [State.physCheck, hp, raise]
  · have hreach : s.aView.reach ≠ .copy ∧ s.aView.reach ≠ .copyRemote := by
      unfold State.aView
      split
      · exact ⟨nofun, nofun⟩
      · split <;> exact ⟨nofun, nofun⟩
    simp [State.physCheck, hp, hreach.1, hreach.2, raise]

theorem check_window (hp : s.place pa = .semFile tw o ∨ s.place pa = .host o) {k : Access} {va n : Nat}
    (hr : s.range s.aView k va n = .ok [(pa, n)]) : s.check s.aView k va n = .error (.trap .access va) := by
  simp only [State.check, hr, Try.ok_bind, List.map_cons, List.map_nil, physCheck_window hp, Try.error_bind]
  rfl

end Windows

theorem specialWindows : SpecialWindows := by
  intro w s pa tw o n ea ha hp
  refine ⟨fun hr i u strong hf hrange => ?_, fun hr i u strong f hf hrange => ?_⟩
  · obtain ⟨g, rfl⟩ := ordered_of_loadForm hf
    exact load_traps hr hf (scalarLoad_refused (u := s.ordered g) ha (check_window (s := s.ordered g) hp hrange))
  · obtain ⟨g, rfl⟩ := ordered_of_storeForm hf
    exact store_traps hr hf (scalarStore_refused (u := s.ordered g) ha (check_window (s := s.ordered g) hp hrange))

/-- Settles O8. -/
theorem storeWords : Obligations.StoreWords := by
  refine ⟨fun w s ps tw x o hr => ⟨fun hn => ?_, fun i u strong f hf => ?_⟩, specialWindows⟩
  · refine (aWord_waits hr ?_ : execSts w s = _)
    rw [hn]
    rfl
  obtain ⟨g, rfl⟩ := ordered_of_storeForm hf
  refine ⟨fun ha => ?_, fun ha hc hp => ?_, fun ha hc hp => ⟨fun hin => ?_, fun hin => ?_⟩⟩
  · exact store_traps hr hf (scalarStore_misaligned ha)
  · exact store_completes hr hf (scalarStore_memory (u := s.ordered g) ha hc hp)
  · exact store_completes hr hf ((scalarStore_ctl (u := s.ordered g) ha hc hp).trans (if_pos hin))
  · exact store_waits hr hf ((scalarStore_ctl (u := s.ordered g) ha hc hp).trans (if_neg hin))

/-! ## Another tower (R138, R173, R417) -/

theorem remoteAccesses : RemoteAccesses := by
  intro w s ps node o tag r v n ea x ha hp
  refine ⟨fun hr i u strong hf hc hh => ?_, fun hr i u strong f hf hc => ?_⟩
  · have hi := loadWord_of_loadForm hf
    obtain ⟨g, rfl⟩ := ordered_of_loadForm hf
    have hload := scalarLoad_remote (u := s.ordered g) (strong := strong) ha hc hh hp
    refine ⟨fun hclear => ?_, fun hclear => ?_⟩
    · exact load_completes hr hf (hi ▸ hload.trans (if_pos hclear))
    · exact load_waits hr hf (hload.trans (if_neg (Bool.eq_false_iff.mp hclear)))
  · obtain ⟨g, rfl⟩ := ordered_of_storeForm hf
    have hstore := scalarStore_remote (u := s.ordered g) (strong := strong) ha hc hp
    refine ⟨fun hasked hclear => ?_, fun hasked hclear => ?_, fun hasked hans => ?_, fun hasked hans => ?_⟩
    · exact store_pends hr hf (hstore.trans (remoteStep_sends (s := s.ordered g) hasked hclear))
    · exact store_waits hr hf (hstore.trans (remoteStep_blocked (s := s.ordered g) hasked hclear))
    · exact store_waits hr hf (hstore.trans (remoteStep_unanswered (s := s.ordered g) hasked hans))
    · exact store_completes hr hf (hstore.trans (remoteStep_answered (s := s.ordered g) hasked hans))

/-- R414, R416: a message changes what is on the fabric alone. -/
theorem sendFlit_eq (s : State) (p kind : Nat) (bs : List Byte) :
    s.sendFlit p kind bs = { s with fabric := (s.sendFlit p kind bs).fabric, flitOut := (s.sendFlit p kind bs).flitOut } := rfl

theorem sendFlits_eq (p kind : Nat) (f : Nat → List Byte) (ks : List Nat) (s : State) :
    ks.foldl (fun s k => s.sendFlit p kind (f k)) s =
      { s with fabric := (ks.foldl (fun s k => s.sendFlit p kind (f k)) s).fabric
               flitOut := (ks.foldl (fun s k => s.sendFlit p kind (f k)) s).flitOut } := by
  induction ks generalizing s with
  | nil => rfl
  | cons k ks ih => rw [List.foldl_cons, ih, sendFlit_eq]

theorem sendMsg_eq (s : State) (node : Nat) (m : FabMsg) :
    s.sendMsg node m = { s with fabOut := (s.sendMsg node m).fabOut, fabric := (s.sendMsg node m).fabric,
                                flitOut := (s.sendMsg node m).flitOut } := by
  unfold State.sendMsg State.sendVia
  split
  · rfl
  · split
    · rfl
    · dsimp only
      split
      · rfl
      · rw [sendFlits_eq]; rfl

theorem remotes_sendRequest (s : State) (node : Nat) (op : RemoteOp) (k : Know) (asker : Asker) (ident : BitVec 32) (pc : Parcel) :
    (s.sendRequest node op k asker ident pc).remotes = s.remotes.put s.nextTag
      { node := node, op := op, know := k, asker := asker, pc := pc, ident := ident, first := s.tsc, last := s.tsc, sends := 1
        route := s.pathTo node, answer := none, path := false, learnt := Know.none } := by
  rw [State.sendRequest, sendMsg_eq]

theorem task?_sendRequest (s : State) (node : Nat) (op : RemoteOp) (k : Know) (asker : Asker) (ident : BitVec 32) (pc : Parcel)
    (id : Nat) : (s.sendRequest node op k asker ident pc).task? id = s.task? id := by
  rw [State.sendRequest, sendMsg_eq]
  rfl

section LoadInFlight

variable {s : State} {id : Nat} {st : Stream} {t : Task}

/-- R138: a load of a task to a register is the last of its loads in flight, and changes no register. -/
theorem task?_launchReg (hc : s.cur = .task id st) (ht : s.task? id = some t) (d : BitVec 6) (v : Word) :
    ∃ t' old l, (s.launchReg d v).task? id = some t' ∧ t'.loads = old ++ [l] ∧ l.dst = .reg d.toNat ∧ l.returned = false ∧
      l.bad = false ∧ t'.regs = t.regs ∧ t'.sa = t.sa := by
  simp only [State.launchReg, State.launch, hc]
  exact ⟨_, _, _, task?_onTask_self ht, rfl, rfl, rfl, rfl, rfl, rfl⟩

theorem getLast?_changeLast (f : Load → Load) (ls : List Load) (l : Load) : (changeLast f (ls ++ [l])).getLast? = some (f l) := by
  simp [changeLast]

theorem nextTag_launchReg (hc : s.cur = .task id st) (d : BitVec 6) (v : Word) : (s.launchReg d v).nextTag = s.nextTag := by
  simp only [State.launchReg, State.launch, hc]
  rfl

end LoadInFlight

theorem remoteLoadInFlight : RemoteLoadInFlight := by
  intro w i s id node o st t strong hc ht u
  obtain ⟨t1, old, l, ht1, hloads, hdst, hret, hbad, hregs, hsa⟩ := task?_launchReg hc ht w.d 0
  have htag := nextTag_launchReg hc w.d 0
  refine ⟨?_, ?_⟩
  · simp only [u, State.launchRemote, hc, remotes_sendRequest, State.onTask]
    rw [htag, SMap.find?_put_self]
    rfl
  · simp only [u, State.launchRemote, hc, task?_sendRequest]
    exact ⟨_, _, task?_onTask_self ht1, (congrArg List.getLast? (congrArg (changeLast _) hloads)).trans (getLast?_changeLast ..),
      rfl, hdst, hret, hbad, hregs, hsa⟩

/-! ## PREF and FENCE (R145, R146) -/

theorem prefetchCompletes : PrefetchCompletes := by
  intro w s hr ea
  refine ⟨fun hc => ?_, fun id t hc ht => ?_⟩
  · refine (aWord_completes hr ?_ : execPref w s = _)
    simp only [State.aView, hc]
  · refine (aWord_completes hr ?_ : execPref w s = _)
    have hea : s.effective w = ea := rfl
    simp only [State.aView, hc, ht, hea]
    by_cases hbig : 2 ^ 52 ≤ ea
    · rw [if_pos (.inl hbig), if_neg (fun h => absurd h.1 (Nat.not_lt.mpr hbig))]
    · cases hfind : s.tlbFind t.core t.asid ea with
      | some e => rw [if_pos (.inr rfl), if_neg (fun h => nomatch h.2.1)]
      | none =>
        rw [if_neg (fun h => h.elim hbig (fun h => nomatch h))]
        cases hwalk : s.walks.any (fun k => k.isFor t.asid ea)
        · rw [if_neg nofun, if_pos ⟨Nat.not_le.mp hbig, rfl, rfl⟩]
        · rw [if_pos rfl, if_neg (fun h => nomatch h.2.2)]

/-- R146: the copies of an issuer have all landed. -/
theorem not_any_unlanded (cs : SMap Copy) (k : Issuer) :
    (!cs.any (fun c => decide (c.2.issuer = k) && decide (c.2.landed.length < c.2.chunks))) = true ↔
      ∀ e ∈ cs, e.2.issuer = k → e.2.chunks ≤ e.2.landed.length := by
  simp

section Settled

variable {s : State}

theorem settled_of_unreturned (h : ∃ l ∈ s.loads, l.returned = false) : s.settled = false := by
  have hall : s.loads.all (·.returned) = false := by simpa using h
  simp only [State.settled, hall, Bool.false_and]

theorem settled_of_task {id : Nat} {st : Stream} (hc : s.cur = .task id st) :
    s.settled = true ↔ (∀ l ∈ s.loads, l.returned = true) ∧ ∀ e ∈ s.copies, e.2.issuer = .task id → e.2.chunks ≤ e.2.landed.length := by
  rw [← not_any_unlanded, ← List.all_eq_true]
  simp only [State.settled, hc]
  rw [decide_eq_true (fun h => nomatch h), Bool.true_or, Bool.and_true, Bool.and_eq_true]

theorem settled_of_rub (hc : s.cur = .rub) :
    s.settled = true ↔ (∀ l ∈ s.loads, l.returned = true) ∧ s.ctl.incoming = [] ∧
      ∀ e ∈ s.copies, e.2.issuer = .rub → e.2.chunks ≤ e.2.landed.length := by
  rw [← not_any_unlanded, ← List.all_eq_true, ← List.isEmpty_iff]
  simp only [State.settled, hc]
  rw [decide_eq_false (not_not_intro rfl), Bool.false_or, Bool.and_eq_true, Bool.and_eq_true, and_assoc]

theorem fence_completes {r : AR} (hr : Reads s []) (h : s.settled = true) : exec (.fence r) s = .next s.fenced.advance := by
  refine (aWord_completes hr ?_ : execFence r s = _)
  rw [h]
  rfl

theorem fence_waits {r : AR} (hr : Reads s []) (h : s.settled ≠ true) : Waits (.fence r) s := by
  refine (aWord_waits hr ?_ : execFence r s = _)
  rw [Bool.eq_false_iff.mpr h]
  rfl

end Settled

theorem fenceCompletes : FenceCompletes := by
  intro r s hr landed
  refine ⟨fun id hc hl hland => ?_, fun hc hl hin hland => ?_, fun h => ?_, fun hc hin => ?_, fun id hc hland => ?_, fun hc hland => ?_⟩
  · exact fence_completes hr ((settled_of_task hc).mpr ⟨hl, hland⟩)
  · exact fence_completes hr ((settled_of_rub hc).mpr ⟨hl, hin, hland⟩)
  · exact fence_waits hr (Bool.eq_false_iff.mp (settled_of_unreturned h))
  · exact fence_waits hr (fun h => hin ((settled_of_rub hc).mp h).2.1)
  · exact fence_waits hr (fun h => hland ((settled_of_task hc).mp h).2)
  · exact fence_waits hr (fun h => hland ((settled_of_rub hc).mp h).2.2)

/-- Settles O10. -/
theorem remoteAndOrderedAccesses : Obligations.RemoteAndOrderedAccesses :=
  ⟨remoteAccesses, remoteLoadInFlight, prefetchCompletes, fenceCompletes⟩

end Sys2Proof.Proofs
end

section
/-! PROOFS. Where a store of memory goes, and what it leaves (R139, R305). -/

namespace Sys2Proof.Proofs

open Sys2Proof Sys2Proof.Machine Sys2Proof.Claims

/-! ## What writing bytes changes -/

section Writes

variable (s : State) (a : Nat) (bs : List Byte)

theorem makeRaw_eq (c : Nat) : s.makeRaw c = { s with mem := (s.makeRaw c).mem, washed := (s.makeRaw c).washed } := by
  unfold State.makeRaw
  split
  · rfl
  · dsimp only
    rw [State.setBytes_eq]

theorem makeRaws_eq (cs : List Nat) :
    cs.foldl (fun s c => s.makeRaw c) s =
      { s with mem := (cs.foldl (fun s c => s.makeRaw c) s).mem, washed := (cs.foldl (fun s c => s.makeRaw c) s).washed } := by
  induction cs generalizing s with
  | nil => rfl
  | cons c cs ih => rw [List.foldl_cons, ih, makeRaw_eq]

theorem store_eq : s.store a bs = { s with mem := (s.store a bs).mem, washed := (s.store a bs).washed } := by
  unfold State.store
  rw [State.setBytes_eq]
  split
  · rfl
  · rw [makeRaws_eq]

theorem foldl_ordered_eq {α : Type} (f : State → α → Order → Order) (xs : List α) :
    xs.foldl (fun s x => s.ordered (f s x)) s = { s with order := (xs.foldl (fun s x => s.ordered (f s x)) s).order } := by
  induction xs generalizing s with
  | nil => rfl
  | cons x xs ih => rw [List.foldl_cons, ih]; rfl

theorem noteWrite_eq (n : Nat) : s.noteWrite a n = { s with order := (s.noteWrite a n).order } := by
  unfold State.noteWrite
  split
  · rfl
  · exact foldl_ordered_eq s _ _

theorem fabricWritten_eq (n : Nat) : s.fabricWritten a n = { s with fabric := (s.fabricWritten a n).fabric } := by
  unfold State.fabricWritten
  split
  · rfl
  · dsimp only
    split <;> rfl

theorem clearPoison_eq (t x o n : Nat) : s.clearPoison t x o n = { s with levels := (s.clearPoison t x o n).levels } := by
  unfold State.clearPoison
  split
  · rfl
  · dsimp only
    split <;> rfl

/-- From `s` to `t` only bytes and their modes, who has seen them, the fabric and poison have changed. -/
def OnlyMemory (s t : State) : Prop :=
  t = { s with mem := t.mem, washed := t.washed, order := t.order, fabric := t.fabric, levels := t.levels }

theorem OnlyMemory.trans {s t u : State} (h : OnlyMemory s t) (g : OnlyMemory t u) : OnlyMemory s u := by
  unfold OnlyMemory at *
  rw [g, h]

theorem onlyMemory_store : OnlyMemory s (s.store a bs) := by
  unfold OnlyMemory
  rw [store_eq]

theorem onlyMemory_noteWrite (n : Nat) : OnlyMemory s (s.noteWrite a n) := by
  unfold OnlyMemory
  rw [noteWrite_eq]

theorem onlyMemory_fabricWritten (n : Nat) : OnlyMemory s (s.fabricWritten a n) := by
  unfold OnlyMemory
  rw [fabricWritten_eq]

theorem onlyMemory_clearPoison (t x o n : Nat) : OnlyMemory s (s.clearPoison t x o n) := by
  unfold OnlyMemory
  rw [clearPoison_eq]

/-- The state after a write in place, before poison is cleared. -/
def stored (s : State) (a : Nat) (bs : List Byte) : State := ((s.store a bs).noteWrite a bs.length).fabricWritten a bs.length

theorem put_of_unsealed (h : s.sealedAt a = false) :
    s.put a bs = stored s a bs ∨ ∃ t x o n, s.put a bs = (stored s a bs).clearPoison t x o n := by
  unfold State.put
  rw [if_neg (Bool.eq_false_iff.mp h)]
  dsimp only
  split
  · exact .inr ⟨_, _, _, _, rfl⟩
  · exact .inl rfl

theorem onlyMemory_stored : OnlyMemory s (stored s a bs) :=
  ((onlyMemory_store s a bs).trans (onlyMemory_noteWrite ..)).trans (onlyMemory_fabricWritten ..)

/-- A write in place that is not sealed off changes memory as the store does. -/
theorem onlyMemory_put (h : s.sealedAt a = false) : OnlyMemory s (s.put a bs) := by
  obtain hp | ⟨t, x, o, n, hp⟩ := put_of_unsealed s a bs h
  · exact hp ▸ onlyMemory_stored s a bs
  · exact hp ▸ (onlyMemory_stored s a bs).trans (onlyMemory_clearPoison ..)

theorem mem_stored : (stored s a bs).mem = (s.store a bs).mem ∧ (stored s a bs).washed = (s.store a bs).washed := by
  unfold stored
  rw [fabricWritten_eq, noteWrite_eq]
  exact ⟨rfl, rfl⟩

theorem mem_put (h : s.sealedAt a = false) : (s.put a bs).mem = (s.store a bs).mem ∧ (s.put a bs).washed = (s.store a bs).washed := by
  obtain hp | ⟨t, x, o, n, hp⟩ := put_of_unsealed s a bs h
  · exact hp ▸ mem_stored s a bs
  · rw [hp, clearPoison_eq]
    exact mem_stored s a bs

end Writes

/-! ## The bytes of a store (R304, R305) -/

theorem length_decodeStream {lens : List Nat} {bs out : List Byte} {n : Nat} (h : decodeStream lens bs n = some out) : out.length = n := by
  unfold decodeStream at h
  split at h
  · split at h
    · next hc => exact Option.some.inj h ▸ hc.1
    · cases h
  · cases h

theorem length_foldr_some {α β : Type} {f : α → Option (List β) → Option (List β)}
    (hf : ∀ x acc out, f x acc = some out → ∃ t, acc = some t ∧ out.length = t.length + 1) {xs : List α} {out : List β}
    (h : xs.foldr f (some []) = some out) : out.length = xs.length := by
  induction xs generalizing out with
  | nil => rw [← Option.some.inj h]; rfl
  | cons x xs ih =>
    obtain ⟨t, ht, hlen⟩ := hf x _ out h
    rw [hlen, ih ht, List.length_cons]

/-- Table 12.9: what a stored chunk expands to is 512 bytes. -/
theorem length_expandWith {table : Nat → Option (List Nat)} {mode : Nat} {bs out : List Byte} (hb : bs.length = 512)
    (h : expandWith table mode bs = some out) : out.length = 512 := by
  unfold expandWith at h
  split at h
  · exact Option.some.inj h ▸ hb
  split at h
  · exact Option.some.inj h ▸ List.length_replicate
  split at h
  · rw [← Option.some.inj h]
    simp [hb]
  split at h
  · refine (length_foldr_some (fun i acc out hstep => ?_) h).trans List.length_range
    cases acc with
    | none => cases hstep
    | some t =>
      dsimp only at hstep
      split at hstep
      · cases hstep
      · split at hstep
        · exact ⟨t, rfl, (congrArg List.length (Option.some.inj hstep)).symm⟩
        · cases hstep
  split at h
  · dsimp only at h
    split at h
    · cases h
    · split at h
      · cases h
      · exact length_decodeStream h
  · cases h

theorem length_bytes (s : State) (a n : Nat) : (s.bytes a n).length = n := by simp [State.bytes]

section Bytes

variable {s : State} {c q a : Nat}

/-- A chunk that becomes raw leaves the bytes of every other chunk. -/
theorem byte_makeRaw_ne (h : a / 512 ≠ c) : (s.makeRaw c).byte a = s.byte a := by
  unfold State.makeRaw
  split
  · rfl
  · next m hm =>
    have hlen : ((s.expand m.toNat (s.bytes (512 * c) 512)).getD (List.replicate 512 0)).length = 512 := by
      cases he : s.expand m.toNat (s.bytes (512 * c) 512) with
      | none => exact List.length_replicate
      | some bs => exact length_expandWith (length_bytes s _ _) he
    exact State.byte_setBytes_out s _ _ _ (by rw [hlen]; omega)

theorem find?_makeRaw_ne (h : q ≠ c) : (s.makeRaw c).washed.find? q = s.washed.find? q := by
  unfold State.makeRaw
  split
  · rfl
  · exact SMap.find?_del_ne c q s.washed h

theorem makeRaw_of_raw (h : s.washed.find? c = none) : s.makeRaw c = s := by
  unfold State.makeRaw
  rw [h]

/-- R305: a byte of a raw chunk, or of one that is not among those made raw, stays, and so does its chunk's mode. -/
theorem byte_makeRaws {cs : List Nat} (h : s.washed.find? (a / 512) = none ∨ a / 512 ∉ cs) :
    (cs.foldl (fun s c => s.makeRaw c) s).byte a = s.byte a ∧
      (cs.foldl (fun s c => s.makeRaw c) s).washed.find? (a / 512) = s.washed.find? (a / 512) := by
  induction cs generalizing s with
  | nil => exact ⟨rfl, rfl⟩
  | cons c cs ih =>
    rw [List.foldl_cons]
    by_cases hc : a / 512 = c
    · have hraw : s.washed.find? c = none := hc ▸ h.resolve_right (fun hn => hn (hc ▸ List.mem_cons_self))
      rw [makeRaw_of_raw hraw]
      exact ih (.inl (hc ▸ hraw))
    · have hfind := find?_makeRaw_ne (s := s) hc
      obtain ⟨hbyte, hmode⟩ := ih (s := s.makeRaw c) (h.imp (fun hn => hfind.trans hn) (fun hn hm => hn (List.mem_cons_of_mem c hm)))
      exact ⟨hbyte.trans (byte_makeRaw_ne hc), hmode.trans hfind⟩

theorem washed_setBytes (s : State) (a : Nat) (bs : List Byte) : (s.setBytes a bs).washed = s.washed := by
  rw [State.setBytes_eq]

/-- R305: a store writes its bytes. -/
theorem byte_store_in (s : State) (k : Nat) {bs : List Byte} {j : Nat} (hj : j < bs.length) : (s.store k bs).byte (k + j) = bs.getD j 0 := by
  unfold State.store
  rw [State.byte_setBytes_in _ _ _ _ hj]

theorem byte_store_out {k : Nat} {bs : List Byte} (hout : ¬(k ≤ a ∧ a < k + bs.length))
    (h : s.washed.find? (a / 512) = none ∨ a / 512 ∉ chunksOf k bs.length) :
    (s.store k bs).byte a = s.byte a ∧ (s.store k bs).washed.find? (a / 512) = s.washed.find? (a / 512) := by
  unfold State.store
  rw [State.byte_setBytes_out _ _ _ _ hout, washed_setBytes]
  split
  · exact ⟨rfl, rfl⟩
  · exact byte_makeRaws h

end Bytes

/-! ## What the order of writes does not bear on -/

section Ordered

variable (s : State) (g : Order → Order)

theorem physCheck_ordered (i : BitVec 32) (r : Reach) (k : Access) (a n : Nat) :
    (s.ordered g).physCheck i r k a n = s.physCheck i r k a n := rfl

theorem readFuel_ordered (fuel a n : Nat) : (s.ordered g).readFuel fuel a n = s.readFuel fuel a n := by
  induction fuel generalizing a n with
  | zero => rfl
  | succ fuel ih =>
    unfold State.readFuel
    simp only [ih]
    rfl

theorem heldAt_ordered (a : Nat) : (s.ordered g).heldAt a = s.heldAt a := rfl

theorem tableHeld_ordered (a n : Nat) : (s.ordered g).tableHeld a n = s.tableHeld a n := by
  unfold State.tableHeld
  rw [State.ordered_washed, State.ordered_folio]
  cases s.folio.tables with
  | none => rfl
  | some b => simp only [heldAt_ordered]

theorem bytes_ordered (a n : Nat) : (s.ordered g).bytes a n = s.bytes a n := rfl

theorem readBytes_ordered (a n : Nat) : (s.ordered g).readBytes a n = s.readBytes a n := by
  simp only [State.readBytes, readFuel_ordered, tableHeld_ordered, bytes_ordered, State.ordered_washed]

theorem mirrorHeld_ordered (a n : Nat) : (s.ordered g).mirrorHeld a n = s.mirrorHeld a n := rfl

theorem writable_ordered (a n : Nat) : (s.ordered g).writable a n = s.writable a n := by
  simp only [State.writable, readBytes_ordered, mirrorHeld_ordered, State.ordered_washed]

end Ordered

/-- A translation that stands does not depend on the order of writes. -/
theorem entryOf_ordered {s : State} {unit asid va : Nat} {e : Tlb} (g : Order → Order) (h : s.entryOf unit asid va = .ok e) :
    (s.ordered g).entryOf unit asid va = .ok e := by
  unfold State.entryOf at h ⊢
  split at h
  · cases h
  · next hlt =>
    rw [if_neg hlt]
    have hf : (s.ordered g).tlbFind unit asid va = s.tlbFind unit asid va := rfl
    rw [hf]
    cases hs : s.tlbFind unit asid va with
    | none => rw [hs] at h; cases h
    | some t =>
      rw [hs] at h
      dsimp only at h ⊢
      split at h
      · split at h <;> cases h
      · next hn => rw [if_neg hn, h]

/-! ## Where an aligned access lies -/

/-- An access of 1, 2, 4 or 8 bytes at a multiple of its length lies in one 64 KiB unit. -/
theorem unit_of_aligned {m a : Nat} (hm : m < 4) (ha : a % 2 ^ m = 0) :
    2 ^ m ≠ 0 ∧ min (2 ^ m) (65536 - a % 65536) = 2 ^ m ∧ 2 ^ m / 65536 = 0 := by
  have hcases : m = 0 ∨ m = 1 ∨ m = 2 ∨ m = 3 := by omega
  obtain rfl | rfl | rfl | rfl := hcases <;> omega

theorem physPieces_aligned {m a : Nat} (hm : m < 4) (ha : a % 2 ^ m = 0) : physPieces (2 ^ m / 65536 + 2) a (2 ^ m) = [(a, 2 ^ m)] := by
  obtain ⟨hne, hmin, hdiv⟩ := unit_of_aligned hm ha
  rw [hdiv, physPieces, if_neg hne]
  dsimp only
  rw [hmin, Nat.sub_self, physPieces, if_pos rfl]

theorem pieces_aligned {s : State} {unit asid : Nat} {k : Access} {astream : Bool} {m a : Nat} (hm : m < 4) (ha : a % 2 ^ m = 0) :
    s.pieces unit asid k astream a (2 ^ m) = s.entryOf unit asid a >>= fun e =>
      if e.allows unit k astream then .ok [(e.pa + (a - e.va), 2 ^ m)] else .error (.trap .access a) := by
  obtain ⟨hne, hmin, hdiv⟩ := unit_of_aligned hm ha
  have hes : s.entries unit asid (2 ^ m / 65536 + 2) a (2 ^ m) = s.entryOf unit asid a >>= fun e => .ok [(e, a, 2 ^ m)] := by
    rw [hdiv, State.entries, if_neg hne]
    dsimp only
    rw [hmin, Nat.sub_self, State.entries, if_pos rfl]
    cases s.entryOf unit asid a <;> rfl
  rw [State.pieces, hes]
  cases s.entryOf unit asid a with
  | error e => rfl
  | ok e =>
    simp only [Try.ok_bind, List.find?_cons, List.find?_nil]
    cases e.allows unit k astream <;> rfl

theorem range_aligned {s : State} {v : View} {k : Access} {m a : Nat} {ps : List (Nat × Nat)} (hm : m < 4) (ha : a % 2 ^ m = 0)
    (h : s.range v k a (2 ^ m) = .ok ps) : ∃ pa, ps = [(pa, 2 ^ m)] := by
  unfold State.range at h
  split at h
  · rw [physPieces_aligned hm ha] at h
    exact ⟨_, (Except.ok.inj h).symm⟩
  · next asid _ =>
    rw [pieces_aligned hm ha] at h
    cases he : s.entryOf v.unit asid a with
    | error e => rw [he] at h; cases h
    | ok e =>
      rw [he, Try.ok_bind] at h
      split at h
      · exact ⟨_, (Except.ok.inj h).symm⟩
      · cases h

theorem range_ordered {s : State} {v : View} {k : Access} {m a : Nat} {ps : List (Nat × Nat)} (hm : m < 4) (ha : a % 2 ^ m = 0)
    (g : Order → Order) (h : s.range v k a (2 ^ m) = .ok ps) : (s.ordered g).range v k a (2 ^ m) = .ok ps := by
  unfold State.range at h ⊢
  split at h
  · exact h
  · next asid _ =>
    rw [pieces_aligned hm ha] at h ⊢
    cases he : s.entryOf v.unit asid a with
    | error e => rw [he] at h; cases h
    | ok e =>
      rw [he] at h
      rw [entryOf_ordered g he]
      exact h

theorem range_of_check {s : State} {v : View} {k : Access} {va n : Nat} {ps : List (Nat × Nat)} (h : s.check v k va n = .ok ps) :
    ∃ qs, s.range v k va n = .ok qs := by
  unfold State.check at h
  cases hr : s.range v k va n with
  | ok qs => exact ⟨qs, rfl⟩
  | error e => rw [hr] at h; cases h

theorem collect_error (e : Stop) : collect [(.error e : Try Unit)] = .error e := by
  simp [collect, stopOf]

theorem atVa_error {α : Type} (va : Nat) (e : Stop) : ∃ d, atVa va (.error e : Try α) = .error d := by
  unfold atVa
  split
  · exact ⟨_, rfl⟩
  · exact ⟨_, rfl⟩

/-- An access of one piece passes its check only if the piece does. -/
theorem physCheck_of_check {s : State} {v : View} {va pa n : Nat} {ps : List (Nat × Nat)} (hr : s.range v .write va n = .ok [(pa, n)])
    (hc : s.check v .write va n = .ok ps) : ps = [(pa, n)] ∧ ∃ p, s.physCheck v.ident v.reach .write pa n = .ok p := by
  simp only [State.check, hr, Try.ok_bind, List.map_cons, List.map_nil] at hc
  cases hp : s.physCheck v.ident v.reach .write pa n with
  | ok p =>
    refine ⟨?_, p, rfl⟩
    generalize atVa va _ = y at hc
    cases y with
    | ok u => exact (Except.ok.inj hc).symm
    | error e => cases hc
  | error e =>
    obtain ⟨d, hd⟩ := atVa_error (α := List Unit) va e
    rw [hp, Try.error_bind, collect_error, hd] at hc
    cases hc

/-- A store that passes its check passes it whatever the order of writes. -/
theorem check_ordered {s : State} {v : View} {m a : Nat} {ps : List (Nat × Nat)} (hm : m < 4) (ha : a % 2 ^ m = 0) (g : Order → Order)
    (h : s.check v .write a (2 ^ m) = .ok ps) : (s.ordered g).check v .write a (2 ^ m) = .ok ps := by
  obtain ⟨qs, hqs⟩ := range_of_check h
  simp only [State.check, hqs, Try.ok_bind] at h
  simp only [State.check, range_ordered hm ha g hqs, Try.ok_bind, physCheck_ordered, writable_ordered]
  exact h

/-- Table 12.2: a place in memory has the tower and the offset it was asked for. -/
theorem placeOffset_store {t a u x o : Nat} (h : placeOffset t a = .store u x o) : u = t ∧ o = a := by
  unfold placeOffset at h
  repeat' split at h
  all_goals cases h
  all_goals exact ⟨rfl, rfl⟩

/-- Table 12.2: the offset alone gives the level. -/
theorem placeOffset_level {t o x : Nat} (h : placeOffset t o = .store t x o) (u : Nat) : placeOffset u o = .store u x o := by
  unfold placeOffset at h ⊢
  repeat' split at h
  all_goals cases h
  all_goals simp only [*, and_self, if_true, if_false]

theorem bits_one_lt (v lo : Nat) : bits v lo 1 < 2 := bits_lt v lo 1

/-- R281: the tower and the offset of a place in memory. -/
theorem place_store {s : State} {pa t x o : Nat} (h : s.place pa = .store t x o) :
    placeOffset t o = .store t x o ∧ o = pa % 2 ^ 40 ∧ (t = s.tower ∨ t < 2) := by
  have key : ∀ u, placeOffset u (pa % 2 ^ 40) = .store t x o → (u = s.tower ∨ u < 2) →
      placeOffset t o = .store t x o ∧ o = pa % 2 ^ 40 ∧ (t = s.tower ∨ t < 2) := by
    intro u hu hlt
    obtain ⟨rfl, rfl⟩ := placeOffset_store hu
    exact ⟨hu, rfl, hlt⟩
  unfold State.place at h
  split at h
  · cases h
  split at h
  · dsimp only at h
    split at h
    · exact key _ h (.inl rfl)
    split at h
    · exact key _ h (.inr (by omega))
    · cases h
  split at h
  · cases h
  split at h
  · split at h <;> cases h
  · exact key _ h (.inr (bits_one_lt pa 40))

/-- R281: where a package address of the two towers leads. -/
theorem place_key {s : State} {t o : Nat} (ht : t < 2) (ho : o < 2 ^ 40) : s.place (t * 2 ^ 40 + o) = placeOffset t o := by
  have h42 : bits (t * 2 ^ 40 + o) 42 14 = 0 := by
    unfold bits
    omega
  have h41 : bits (t * 2 ^ 40 + o) 41 1 = 0 := by
    unfold bits
    omega
  have h40 : bits (t * 2 ^ 40 + o) 40 1 = t := by
    unfold bits
    omega
  have hoff : (t * 2 ^ 40 + o) % 2 ^ 40 = o := by omega
  unfold State.place
  rw [if_neg (by omega), if_neg (by omega), h42, h41, h40, hoff, if_neg (by decide), if_neg (by decide)]

theorem storeCheck_of_physCheck {s : State} {ident : BitVec 32} {r : Reach} {pa n t x o : Nat} {p : Place}
    (hp : s.place pa = .store t x o) (hc : s.physCheck ident r .write pa n = .ok p) : s.storeCheck t x o n .write = .ok () := by
  simp only [State.physCheck, hp] at hc
  split at hc
  · split at hc
    · cases hc
    split at hc
    · split at hc
      · assumption
      · cases hc
    · cases hc
  · cases hc

/-- R372: memory that may be written is not sealed off. -/
theorem sealedAt_of_storeCheck {s : State} {pa t x o n : Nat} (hp : s.place pa = .store t x o)
    (hc : s.storeCheck t x o n .write = .ok ()) : s.sealedAt (t * 2 ^ 40 + o) = false := by
  obtain ⟨hlevel, hoff, htower⟩ := place_store hp
  have ho : o < 2 ^ 40 := hoff ▸ Nat.mod_lt _ (by decide)
  refine Classical.byContradiction (fun hseal => ?_)
  simp only [State.sealedAt, Bool.not_eq_false, Bool.and_eq_true] at hseal
  obtain ⟨hsealed, hat⟩ := hseal
  split at hat
  · next u y z hkey =>
    obtain ⟨hu, hy⟩ : u = s.tower ∧ y ≤ 3 := by simpa using hat
    obtain ⟨hz, hzo, -⟩ := place_store hkey
    obtain rfl : z = o := by omega
    obtain rfl : x = y := by
      have := (placeOffset_level hlevel u).symm.trans hz
      injection this
    have ht : t = s.tower := by
      refine htower.elim id (fun hlt => ?_)
      have := (place_key (s := s) hlt ho).symm.trans hkey
      rw [hlevel] at this
      injection this with htu
      exact htu.trans hu
    simp only [State.storeCheck] at hc
    rw [if_neg (by omega), if_pos hsealed] at hc
    cases hc
  · cases hat

/-! ## The frame of a store (R139) -/

/-- What a word that goes on leaves of every task: its registers, slices, predicates, scales and special registers. -/
theorem files_advance (s : State) (id : Nat) :
    (s.advance.task? id).map (fun u => (u.regs, u.slices, u.preds, u.scales, u.csr)) =
      (s.task? id).map (fun u => (u.regs, u.slices, u.preds, u.scales, u.csr)) := by
  unfold State.advance
  split
  · rfl
  · next k st hc =>
    by_cases hk : id = k
    · subst hk
      rw [State.onTask, State.task?, SMap.find?_adjust_self, Option.map_map]
      refine Option.map_congr (fun u _ => ?_)
      dsimp only [Function.comp]
      split <;> cases st <;> rfl
    · rw [task?_onTask_ne _ hk]

theorem advance_eq (s : State) : s.advance = { s with tasks := s.advance.tasks, rub := s.advance.rub } := by
  unfold State.advance
  split <;> rfl

theorem writeBytes_eq_put {s : State} {a : Nat} (bs : List Byte) (hm : s.ctl.mirrors = []) (h : s.sealedAt a = false) :
    s.writeBytes a bs = s.put a bs := by
  have hput : (s.put a bs).ctl.mirrors.isEmpty = true := by
    rw [onlyMemory_put s a bs h, hm]
    rfl
  rw [State.writeBytes, State.mirror, if_pos hput]

/-- What a store leaves, when it only writes memory and then goes on. -/
theorem registers_of_onlyMemory {s v : State} (h : OnlyMemory s v) :
    (∀ r, v.advance.reg r = s.reg r) ∧ v.advance.sems = s.sems ∧ v.advance.bars = s.bars ∧ v.advance.copies = s.copies ∧
      ∀ id, (v.advance.task? id).map (fun u => (u.regs, u.slices, u.preds, u.scales, u.csr)) =
        (s.task? id).map (fun u => (u.regs, u.slices, u.preds, u.scales, u.csr)) := by
  unfold OnlyMemory at h
  refine ⟨fun r => (State.reg_advance v r).trans ?_, ?_, ?_, ?_, fun id => (files_advance v id).trans ?_⟩
  · rw [h]
    rfl
  · rw [advance_eq, h]
  · rw [advance_eq, h]
  · rw [advance_eq, h]
  · rw [h]
    rfl

/-- R139, R305: what a write of bytes to memory that is not sealed off, and not mirrored, makes of memory. -/
theorem bytes_writeBytes {s : State} {k : Nat} (bs : List Byte) (hm : s.ctl.mirrors = []) (h : s.sealedAt k = false) :
    (∀ j < bs.length, (s.writeBytes k bs).advance.byte (k + j) = bs.getD j 0) ∧
    ∀ a, ¬within a k bs.length → (s.washed.find? (a / 512) = none ∨ a / 512 ∉ chunksOf k bs.length) →
      (s.writeBytes k bs).advance.byte a = s.byte a ∧ (s.writeBytes k bs).advance.washed.find? (a / 512) = s.washed.find? (a / 512) := by
  obtain ⟨hmem, hwash⟩ := mem_put s k bs h
  have hbyte : ∀ a, (s.put k bs).advance.byte a = (s.store k bs).byte a := by
    intro a
    rw [State.byte, State.byte, advance_eq, hmem]
  have hmode : (s.put k bs).advance.washed = (s.store k bs).washed := by rw [advance_eq, hwash]
  rw [writeBytes_eq_put bs hm h]
  refine ⟨fun j hj => (hbyte _).trans (byte_store_in s k hj), fun a hout hraw => ?_⟩
  obtain ⟨hsame, hfind⟩ := byte_store_out hout hraw
  exact ⟨(hbyte a).trans hsame, hmode ▸ hfind⟩

/-- A store word is ST, or STS when it may issue; what it does around its store changes the order of writes alone. -/
theorem storeForm_of_word {w : AM} {i : Instr} {s : State} (h : i = .st w ∨ i = .sts w ∧ s.near = true) :
    ∃ u strong f g, StoreForm w s i u strong f ∧ u = s.ordered g ∧ ∀ v : State, ∃ g', f v = v.ordered g' := by
  obtain rfl | ⟨rfl, hn⟩ := h
  · exact ⟨s, none, id, id, .inl ⟨rfl, rfl, rfl, rfl⟩, rfl, fun v => ⟨id, rfl⟩⟩
  · refine ⟨s.performs, some w.scope.toNat, fun v => s.strongWrite v (s.standing s.strand w.scope.toNat), _,
      .inr ⟨rfl, hn, rfl, rfl, rfl⟩, rfl, fun v => ⟨fun o => o.strengthen s.order.next (s.standing s.strand w.scope.toNat), ?_⟩⟩
    rfl

/-- Settles O9: the bytes of an aligned store lie in one piece, whose place the check has found writable. -/
theorem storeFrame : Obligations.StoreFrame := by
  intro w i s t ps tw x o hi hr n ea ha hc hp hm ht k
  obtain ⟨u, strong, f, g, hform, hu, hf⟩ := storeForm_of_word hi
  subst hu
  have hstore : (s.ordered g).scalarStore w strong = .ok ((s.ordered g).writePieces ps
      (leBytes n ((s.reg w.d).toNat % 2 ^ (8 * n)))).advance :=
    scalarStore_memory (u := s.ordered g) ha (check_ordered w.size.isLt ha g hc) hp
  have hexec := (store_completes hr hform hstore).symm.trans ht
  obtain rfl := Host.Outcome.next.inj hexec
  obtain ⟨qs, hqs⟩ := range_of_check hc
  obtain ⟨pa, rfl⟩ := range_aligned w.size.isLt ha hqs
  obtain ⟨rfl, p, hphys⟩ := physCheck_of_check hqs hc
  have hseal : (s.ordered g).sealedAt k = false := sealedAt_of_storeCheck hp (storeCheck_of_physCheck hp hphys)
  have hlen : (leBytes n ((s.reg w.d).toNat % 2 ^ (8 * n))).length = n := length_leBytes n _
  have hput : (s.ordered g).writePieces [(pa, n)] (leBytes n ((s.reg w.d).toNat % 2 ^ (8 * n))) =
      (s.ordered g).writeBytes k (leBytes n ((s.reg w.d).toNat % 2 ^ (8 * n))) := by
    have hkey : ((s.ordered g).place pa).key = k := congrArg Place.key hp
    rw [State.writePieces, State.writePieces, hkey, List.take_of_length_le (Nat.le_of_eq hlen)]
  obtain ⟨hin, hout⟩ := bytes_writeBytes (s := s.ordered g) (leBytes n ((s.reg w.d).toNat % 2 ^ (8 * n))) hm hseal
  have honly := onlyMemory_put (s.ordered g) k (leBytes n ((s.reg w.d).toNat % 2 ^ (8 * n))) hseal
  obtain ⟨g', hg'⟩ := hf ((s.ordered g).writePieces [(pa, n)] (leBytes n ((s.reg w.d).toNat % 2 ^ (8 * n)))).advance
  rw [hlen] at hin hout
  rw [hg', hput]
  refine ⟨hin, hout, ?_⟩
  have hregs := registers_of_onlyMemory honly
  rw [← writeBytes_eq_put (s := s.ordered g) _ hm hseal] at hregs
  exact hregs

end Sys2Proof.Proofs
end

section
/-! PROOFS. Barriers: the operand, the words, arrivals, scopes and acquires (R38, R39, R163 to R169, R308, R311 to R314). -/

namespace Sys2Proof.Proofs

open Sys2Proof Sys2Proof.Machine Sys2Proof.Claims

/-! ## The barrier a word names (R39, R163) -/

/-- R39: the fields of a handle. -/
theorem handleOk_iff (h : Word) : handleOk h = true ↔
    h.toNat / 2 ^ 48 = 0 ∧ h.toNat / 2 ^ 25 % 2 ^ 7 = 0 ∧ h.toNat / 2 ^ 11 % 2 ^ 5 = 0 ∧ h.toNat / 2 ^ 16 % 256 < 192 ∧
      h.toNat / 2 ^ 24 % 2 = h.toNat / 2 ^ 32 % 2 := by
  have htop : bits h.toNat 48 16 = 0 ↔ h.toNat / 2 ^ 48 = 0 := bits_top_eq_zero_iff h (by decide)
  simp only [handleOk, Bool.and_eq_true, decide_eq_true_eq, htop, and_assoc]
  rfl

theorem handleBar_eq (h : Word) : handleBar h = h.toNat % 2048 := by simp [handleBar, bits]

theorem barrierOperand : BarrierOperand := by
  intro w s
  refine ⟨fun hh hc => ?_, fun id st t hh hc ht => ?_, fun hh => ?_⟩
  · have hne : w.hnd ≠ 1 := by rw [hh]; decide
    rw [State.barRef, if_neg hne, hc]
    rfl
  · have hne : w.hnd ≠ 1 := by rw [hh]; decide
    simp only [State.barRef, if_neg hne, hc, ht]
  · dsimp only
    rw [State.barRef, if_pos hh, ← handleOk_iff, State.byHandle]
    refine ⟨fun hbad => ?_, fun hfine hnode => ?_, fun hfine hnode => ?_⟩
    · rw [Bool.eq_false_iff.mpr hbad]
      rfl
    · rw [hfine, ← handleBar_eq]
      exact if_pos hnode
    · rw [hfine]
      exact if_neg hnode

/-! ## The barrier words (R165 to R169) -/

section Steps

variable {w : AC} {s : State} {c n : Nat}

theorem barHere_of_barRef (h : s.barRef w = .ok (.here c n)) : s.barHere w = .ok (c, n) := by
  rw [State.barHere, h]
  rfl

theorem reached_iff (f m : BitVec 32) : reached f m = true ↔ (f - m).toNat < 2 ^ 31 := by
  simp [reached]

theorem strand_setReg (s : State) (d : BitVec 6) (v : Word) : (s.setReg d v).strand = s.strand := by
  unfold State.strand
  rw [setReg_cur]

end Steps

theorem barrierSteps : BarrierSteps := by
  intro w s c n hr hb
  have hh := barHere_of_barRef hb
  dsimp only
  refine ⟨fun hbig => ⟨?_, ?_⟩, fun hlt hne => ?_, fun hz => ?_, fun ht => ⟨?_, ?_, ?_⟩, fun ht hlt ho => ?_, fun ht hlt ho => ?_,
    fun ht hreach => ⟨?_, fun hacq => ?_, fun hacq => ?_⟩, fun ht hreach => ⟨?_, ?_⟩, fun hok => ?_, fun hne hbad => ?_⟩
  · refine (aWord_traps hr ?_ : execBxp w s = _)
    simp only [hh, Try.ok_bind]
    rw [require_of_not (decide_eq_false (Nat.not_lt.mpr hbig))]
    rfl
  · refine (aWord_traps hr ?_ : execBarv w s = _)
    simp only [hb, Try.ok_bind]
    rw [require_of_not (decide_eq_false (Nat.not_lt.mpr hbig))]
    rfl
  · refine (aWord_completes hr ?_ : execBxp w s = _)
    have hz : (s.reg w.a).toNat ≠ 0 := fun h0 => hne (BitVec.eq_of_toNat_eq h0)
    simp only [hh, Try.ok_bind]
    rw [require_of (decide_eq_true hlt), Try.ok_bind, if_neg hz]
  · refine (aWord_completes hr ?_ : execBxp w s = _)
    have hz0 : (s.reg w.a).toNat = 0 := congrArg BitVec.toNat hz
    simp only [hh, Try.ok_bind]
    rw [require_of (decide_eq_true (by omega)), Try.ok_bind, if_pos hz0]
  · by_cases hlt : (s.reg w.a).toNat < 2 ^ 40
    · refine (aWord_traps hr ?_ : execBarv w s = _)
      simp only [hb, Try.ok_bind]
      rw [require_of (decide_eq_true hlt), Try.ok_bind, require_of_not (decide_eq_false (not_not_intro ht))]
      rfl
    · refine (aWord_traps hr ?_ : execBarv w s = _)
      simp only [hb, Try.ok_bind]
      rw [require_of_not (decide_eq_false hlt)]
      rfl
  · refine (aWord_traps hr ?_ : execBwt w s = _)
    simp only [hh, Try.ok_bind]
    rw [require_of_not (decide_eq_false (not_not_intro ht))]
    rfl
  · refine (aWord_traps hr ?_ : execBtst w s = _)
    simp only [hh, Try.ok_bind]
    rw [require_of_not (decide_eq_false (not_not_intro ht))]
    rfl
  · refine (aWord_completes hr ?_ : execBarv w s = _)
    simp only [hb, Try.ok_bind]
    rw [require_of (decide_eq_true hlt), Try.ok_bind, require_of (decide_eq_true ht), Try.ok_bind, ho]
    rfl
  · refine (aWord_completes hr ?_ : execBarv w s = _)
    simp only [hb, Try.ok_bind]
    rw [require_of (decide_eq_true hlt), Try.ok_bind, require_of (decide_eq_true ht), Try.ok_bind, ho]
    rfl
  · refine (aWord_completes hr ?_ : execBwt w s = _)
    simp only [hh, Try.ok_bind]
    rw [require_of (decide_eq_true ht), Try.ok_bind, if_pos ((reached_iff _ _).mpr hreach)]
  · refine (aWord_completes hr ?_ : execBtst w s = _)
    simp only [hh, Try.ok_bind, (reached_iff _ _).mpr hreach, hacq]
    rw [require_of (decide_eq_true ht)]
    rfl
  · refine (aWord_completes hr ?_ : execBtst w s = _)
    simp only [hh, Try.ok_bind, (reached_iff _ _).mpr hreach, hacq, strand_setReg]
    rw [require_of (decide_eq_true ht)]
    rfl
  · have hno : reached (s.bar c n).firing ((s.reg w.a).setWidth 32) = false :=
      Bool.eq_false_iff.mpr (mt (reached_iff _ _).mp (Nat.not_lt.mpr hreach))
    refine (aWord_pends hr ?_ : execBwt w s = _)
    simp only [hh, Try.ok_bind, hno]
    rw [require_of (decide_eq_true ht)]
    rfl
  · have hno : reached (s.bar c n).firing ((s.reg w.a).setWidth 32) = false :=
      Bool.eq_false_iff.mpr (mt (reached_iff _ _).mp (Nat.not_lt.mpr hreach))
    refine (aWord_completes hr ?_ : execBtst w s = _)
    simp only [hh, Try.ok_bind, hno]
    rw [require_of (decide_eq_true ht)]
    rfl
  · refine (aWord_completes hr ?_ : execBfwd w s = _)
    have hyes : (decide (s.reg w.a = 0) || handleOk (s.reg w.a)) = true := by simpa using hok
    simp only [hh, Try.ok_bind, hyes, require_true]
  · refine (aWord_traps hr ?_ : execBfwd w s = _)
    simp only [hh, Try.ok_bind, decide_eq_false hne, hbad, Bool.or_self, require_false, Try.error_bind]

/-! ## Arrivals (R38) -/

section Arrivals

theorem gains_eq (s : State) (st : Strand) (x : Know) : s.gains st x = { s with order := (s.gains st x).order } := rfl

theorem acquires_eq (s : State) (st : Strand) (rs : List Release) : s.acquires st rs = { s with order := (s.acquires st rs).order } := by
  unfold State.acquires
  induction rs generalizing s with
  | nil => rfl
  | cons r rs ih => rw [List.foldl_cons, ih, gains_eq]

theorem acquireBar_eq (s : State) (st : Strand) (c n : Nat) (f : BitVec 32) :
    s.acquireBar st c n f = { s with order := (s.acquireBar st c n f).order } := acquires_eq s st _

/-- R38, R167, R180: the firings of a barrier end waits and change what waiters know. -/
theorem fireTask_eq (c n : Nat) (old : BitVec 32) (k : Nat) (s : State) (e : Nat × Task) :
    State.fireTask c n old k s e = { s with tasks := (State.fireTask c n old k s e).tasks, order := (State.fireTask c n old k s e).order } := by
  unfold State.fireTask
  split
  · rw [acquireBar_eq]; rfl
  · rfl

theorem fireTasks_eq (c n : Nat) (old : BitVec 32) (k : Nat) (es : List (Nat × Task)) (s : State) :
    es.foldl (State.fireTask c n old k) s =
      { s with tasks := (es.foldl (State.fireTask c n old k) s).tasks, order := (es.foldl (State.fireTask c n old k) s).order } := by
  induction es generalizing s with
  | nil => rfl
  | cons e es ih => rw [List.foldl_cons, ih, fireTask_eq]

theorem fireRub_eq (s : State) (c n : Nat) (old : BitVec 32) (k : Nat) :
    s.fireRub c n old k = { s with rub := (s.fireRub c n old k).rub, order := (s.fireRub c n old k).order } := by
  unfold State.fireRub
  split
  · rw [acquireBar_eq]
  · rfl

theorem fired_eq (s : State) (c n : Nat) (old : BitVec 32) (k : Nat) :
    s.fired c n old k = { s with tasks := (s.fired c n old k).tasks, rub := (s.fired c n old k).rub, order := (s.fired c n old k).order } := by
  unfold State.fired State.testFirings
  rw [fireRub_eq, fireTasks_eq]

theorem forwards_eq (s : State) (h : Word) (b : Nat) (ns : List Nat) (k : Nat) :
    s.forwards h b ns k = { s with arrivals := (s.forwards h b ns k).arrivals, nextArrival := (s.forwards h b ns k).nextArrival
                                   order := (s.forwards h b ns k).order } := by
  induction k generalizing s with
  | zero => rfl
  | succ k ih => rw [State.forwards, ih]; rfl

/-- Barriers, semaphores and memory are the same. -/
structure SameObjects (s t : State) : Prop where
  bars : t.bars = s.bars
  sems : t.sems = s.sems
  mem : t.mem = s.mem

theorem SameObjects.trans {s t u : State} (h : SameObjects s t) (g : SameObjects t u) : SameObjects s u :=
  ⟨g.bars.trans h.bars, g.sems.trans h.sems, g.mem.trans h.mem⟩

theorem sameObjects_fired (s : State) (c n : Nat) (old : BitVec 32) (k : Nat) : SameObjects s (s.fired c n old k) := by
  rw [fired_eq]
  exact ⟨rfl, rfl, rfl⟩

theorem sameObjects_forwards (s : State) (h : Word) (b : Nat) (ns : List Nat) (k : Nat) : SameObjects s (s.forwards h b ns k) := by
  rw [forwards_eq]
  exact ⟨rfl, rfl, rfl⟩

/-- R38: an arrival changes the barriers by the count and the firing of its own alone. -/
theorem sameObjects_arrive (s : State) (c n b : Nat) (forwarded : Bool) (y : Bring) :
    SameObjects (s.setBar c n { s.bar c n with
      count := ((s.bar c n).count + b) % (s.bar c n).target
      firing := (s.bar c n).firing + BitVec.ofNat 32 (((s.bar c n).count + b) / (s.bar c n).target) }) (s.arrive c n b forwarded y) := by
  unfold State.arrive
  dsimp only
  split
  · exact ⟨rfl, rfl, rfl⟩
  · split
    · refine SameObjects.trans ?_ (sameObjects_fired ..)
      exact ⟨rfl, rfl, rfl⟩
    · refine SameObjects.trans ?_ ((sameObjects_fired ..).trans (sameObjects_forwards ..))
      exact ⟨rfl, rfl, rfl⟩

theorem arrivalCounts : ArrivalCounts := by
  intro s c n b forwarded y _ x u
  obtain ⟨hbars, hsems, hmem⟩ := sameObjects_arrive s c n b forwarded y
  refine ⟨?_, fun d m hne => ?_, hsems, hmem⟩
  · rw [State.bar, hbars]
    exact SMap.get_set_self _ _ _ _
  · rw [State.bar, hbars]
    exact SMap.get_set_ne _ _ _ _ _ hne

end Arrivals

/-! ## Scopes (R308) -/

theorem scopeDomains : ScopeDomains := by
  intro s own c id t p h ht
  have hcore : s.coreOf id = some t.core := by rw [State.coreOf, ht]; rfl
  refine ⟨by simp [State.inDomain], by simp [State.inDomain], by simp [State.inDomain, hcore], by simp [State.inDomain, hcore],
    by simp [State.inDomain, Party.here], fun k hk => ?_, fun h' hh => ?_, by simp [State.inDomain, Party.here]⟩
  · obtain rfl | rfl := hk <;> simp [State.inDomain]
  · obtain rfl | rfl := hh <;> simp [State.inDomain, Party.here]

/-! ## Acquires (R311, R313, R314) -/

section Acquire

variable {vs : List Viewer} {ns : List Nat} {o : Order}

/-- The viewers have seen, of every doubleword at which they lag, the writes of bytes in `ns` and all before them. -/
def Shown (vs : List Viewer) (ns : List Nat) (o : Order) : Prop :=
  ∀ g ∈ o.lags, g.who ∈ vs → ∀ p i, (p, i) ∈ g.pos.zipIdx → ∀ j w, g.later[j]? = some w → w.wrote i = true → 8 * w.id + i ∈ ns → j < p

theorem length_takeWhile_le {α : Type} {q : α → Bool} {xs : List α} {k : Nat} {x : α} (h : xs[k]? = some x) (hq : q x = false) :
    (xs.takeWhile q).length ≤ k := by
  induction xs generalizing k with
  | nil => simp at h
  | cons y ys ih =>
    cases k with
    | zero =>
      obtain rfl : y = x := by simpa using h
      simp [hq]
    | succ k =>
      rw [List.takeWhile_cons]
      split
      · exact Nat.succ_le_succ (ih h)
      · exact Nat.zero_le _

/-- A write that has the property is among those counted. -/
theorem lt_countTo {q : Later → Bool} {ws : List Later} {j : Nat} {w : Later} (h : ws[j]? = some w) (hq : q w = true) :
    j < countTo q ws := by
  have hj : j < ws.length := (List.getElem?_eq_some_iff.mp h).1
  have hrev : ws.reverse[ws.length - 1 - j]? = some w := by
    rw [List.getElem?_reverse (by omega), show ws.length - 1 - (ws.length - 1 - j) = j by omega, h]
  have hle := length_takeWhile_le (q := fun w => !q w) hrev (by simp [hq])
  unfold countTo
  omega

theorem shown_of_lags_eq {u : Order} (h : Shown vs ns o) (hl : u.lags = o.lags) : Shown vs ns u := by
  intro g hg
  exact h g (hl ▸ hg)

/-- What a lag keeps of the writes that follow it, once it is trimmed. -/
theorem trim_eq_some {g u : Lag} (h : g.trim = some u) :
    ∃ k, u.who = g.who ∧ u.later = g.later.drop k ∧ u.pos = g.pos.map (· - k) := by
  unfold Lag.trim at h
  dsimp only at h
  split at h
  · cases h
  · obtain rfl := Option.some.inj h
    exact ⟨_, rfl, rfl, rfl⟩

/-- A viewer whose lag has been trimmed has seen the same writes as before. -/
theorem shown_trim {g u : Lag} (h : g.trim = some u)
    (hg : ∀ p i, (p, i) ∈ g.pos.zipIdx → ∀ j w, g.later[j]? = some w → w.wrote i = true → 8 * w.id + i ∈ ns → j < p) :
    ∀ p i, (p, i) ∈ u.pos.zipIdx → ∀ j w, u.later[j]? = some w → w.wrote i = true → 8 * w.id + i ∈ ns → j < p := by
  obtain ⟨k, -, hlater, hpos⟩ := trim_eq_some h
  intro p i hp j w hw hwrote hin
  rw [hpos, List.zipIdx_map] at hp
  obtain ⟨⟨q, l⟩, hq, heq⟩ := List.mem_map.mp hp
  obtain ⟨rfl, rfl⟩ := Prod.mk.inj heq
  rw [hlater, List.getElem?_drop] at hw
  have hlt := hg q l hq (k + j) w hw hwrote hin
  dsimp only
  omega

/-- R314: a viewer that comes to see writes has seen no fewer than before, and those among them. -/
theorem shown_reach (p : Lag → Later → Nat → Bool) (h : Shown vs ns o ∨ ∀ g ∈ o.lags, g.who ∈ vs → ∀ w i, 8 * w.id + i ∈ ns → p g w i = true) :
    Shown vs ns (o.reach p) := by
  unfold Order.reach
  split
  · next he =>
    intro g hg
    rw [List.isEmpty_iff.mp he] at hg
    cases hg
  · refine shown_of_lags_eq ?_ (lags_tidy _)
    intro u hu hwho
    obtain ⟨g, hg, htrim⟩ := List.mem_filterMap.mp hu
    obtain ⟨-, hw, -, -⟩ := trim_eq_some htrim
    refine shown_trim htrim ?_
    intro q i hq j w hj hwrote hin
    rw [List.mk_mem_zipIdx_iff_getElem?] at hq
    simp only [Lag.reach, List.getElem?_map, List.getElem?_zipIdx, Option.map_map, Option.map_eq_some_iff] at hq
    obtain ⟨r, hr, rfl⟩ := hq
    simp only [Function.comp, Nat.zero_add]
    have hmem : (r, i) ∈ g.pos.zipIdx := List.mk_mem_zipIdx_iff_getElem?.mpr hr
    have hwho' : g.who ∈ vs := hw ▸ hwho
    obtain h | h := h
    · exact Nat.lt_of_lt_of_le (h g hg hwho' r i hmem j w hj hwrote hin) (Nat.le_max_left _ _)
    · exact Nat.lt_of_lt_of_le (lt_countTo hj (by rw [hwrote, h g hg hwho' w i hin]; rfl)) (Nat.le_max_right _ _)

theorem lags_learn (o : Order) (k : Knower) (x : Know) : (o.learn k x).lags = o.lags := by
  unfold Order.learn
  split <;> rfl

theorem lags_pass (o : Order) (id : Nat) (st : Stream) (n : BitVec 16) (x : Know) : (o.pass id st n x).lags = o.lags := by
  rw [Order.pass, lags_learn, lags_learn]

theorem shown_show (h : Shown vs ns o) (us : List Viewer) (ms : List Nat) : Shown vs ns (o.show us ms) := by
  unfold Order.show
  split
  · exact h
  · exact shown_reach _ (.inl h)

/-- R313: the writes of a set that are shown to viewers have been seen by them. -/
theorem shown_show_self {ms : List Nat} (hsub : ∀ x ∈ ns, x ∈ ms) : Shown vs ns (o.show vs ms) := by
  unfold Order.show
  split
  · next he =>
    intro g _ _ p i _ j w _ _ hin
    have hmem := hsub _ hin
    rw [List.isEmpty_iff.mp he] at hmem
    cases hmem
  · refine shown_reach _ (.inr (fun g _ hwho w i hin => ?_))
    simp [hwho, hsub _ hin]

theorem gain_eq (o : Order) (st : Strand) (n : BitVec 16) (x : Know) :
    ∃ u : Order, u.lags = o.lags ∧ o.gain st n x = u.show st.viewers x.visible := by
  cases st with
  | task id => exact ⟨_, by rw [lags_pass, lags_learn], rfl⟩
  | rub => exact ⟨_, lags_learn _ _ _, rfl⟩
  | queue q => exact ⟨_, lags_learn _ _ _, rfl⟩
  | collective => exact ⟨_, lags_learn _ _ _, rfl⟩

/-- What a strand acquires is shown to its viewers. -/
theorem order_gains (s : State) (st : Strand) (x : Know) :
    ∃ u : Order, u.lags = s.order.lags ∧ (s.gains st x).order = u.show st.viewers x.visible :=
  gain_eq s.order st _ x

theorem shown_gains {s : State} {st : Strand} {ns : List Nat} (x : Know) (h : Shown vs ns s.order) : Shown vs ns (s.gains st x).order := by
  obtain ⟨u, hu, hg⟩ := order_gains s st x
  exact hg ▸ shown_show (shown_of_lags_eq h hu) _ _

theorem shown_gains_self {s : State} {st : Strand} {x : Know} : Shown st.viewers x.seen (s.gains st x).order := by
  obtain ⟨u, -, hg⟩ := order_gains s st x
  exact hg ▸ shown_show_self (fun y hy => List.mem_append_left _ hy)

/-- R313: every release acquired has been seen. -/
theorem shown_acquires {s : State} {st : Strand} {rs : List Release} (h : Shown vs ns s.order) : Shown vs ns (s.acquires st rs).order := by
  induction rs generalizing s with
  | nil => exact h
  | cons r rs ih => exact ih (shown_gains _ h)

theorem shown_acquires_of_mem {s : State} {st : Strand} {rs : List Release} {r : Release} (h : r ∈ rs) :
    Shown st.viewers r.know.seen (s.acquires st rs).order := by
  induction rs generalizing s with
  | nil => cases h
  | cons q rs ih =>
    obtain rfl | hin := List.mem_cons.mp h
    · exact shown_acquires (s := s.gains st r.know) shown_gains_self
    · exact ih hin

end Acquire

theorem acquireShows : AcquireShows := by
  intro s st c n f met
  have hmet : ∀ e : Nat × BitVec 32 × Release, (decide (e.1 = 2048 * c + n) && reached f e.2.1 &&
      s.inDomain e.2.2.scope e.2.2.home e.2.2.parties st.party) = true ↔ met e := by
    intro e
    simp only [Bool.and_eq_true, decide_eq_true_eq, reached_iff, and_assoc, met]
  refine ⟨fun e he hm => ?_, fun hnone => ?_⟩
  · exact shown_acquires_of_mem (List.mem_map.mpr ⟨e, List.mem_filter.mpr ⟨he, (hmet e).mpr hm⟩, rfl⟩)
  · have hnil : s.order.firings.filter (fun e => decide (e.1 = 2048 * c + n) && reached f e.2.1 &&
        s.inDomain e.2.2.scope e.2.2.home e.2.2.parties st.party) = [] :=
      List.filter_eq_nil_iff.mpr (fun e he => mt (hmet e).mp (hnone e he))
    rw [State.acquireBar, hnil]
    rfl

/-- Settles O17. -/
theorem barrierWords : Obligations.BarrierWords :=
  ⟨barrierOperand, barrierSteps, arrivalCounts, scopeDomains, acquireShows⟩

end Sys2Proof.Proofs
end

section
/-! PROOFS. The semaphore words, here and at another tower (R170 to R173, R181, R417). -/

namespace Sys2Proof.Proofs

open Sys2Proof Sys2Proof.Machine Sys2Proof.Claims

/-! ## The operand (R170) -/

section Node

variable {s : State} {b : Word}

theorem semNode_own (hb : b.toNat < 2 ^ 17) (hn : b.toNat = 0 ∨ b.toNat % 65536 = s.node) : s.semNode b = .ok none := by
  have hown : b = 0 ∨ b.toNat % 2 ^ 16 = s.node := hn.imp_left BitVec.eq_of_toNat_eq
  rw [State.semNode, require_of (decide_eq_true hb), Try.ok_bind]
  exact congrArg Except.ok (if_pos hown)

theorem semNode_out (hb : 2 ^ 17 ≤ b.toNat) : s.semNode b = .error (.trap .access 0) := by
  rw [State.semNode, require_of_not (decide_eq_false (Nat.not_lt.mpr hb)), Try.error_bind]

theorem semNode_other (hb : b.toNat < 2 ^ 17) (h0 : b ≠ 0) (hn : b.toNat % 65536 ≠ s.node) :
    s.semNode b = .ok (some (b.toNat % 65536)) := by
  rw [State.semNode, require_of (decide_eq_true hb), Try.ok_bind]
  exact congrArg Except.ok (if_neg (not_or.mpr ⟨h0, hn⟩))

end Node

/-! ## Steps of this tower (R171) -/

section Step

variable {w : AQ} {s : State} {op : Nat}

theorem semStep_out (hb : 2 ^ 17 ≤ (s.reg w.b).toNat) : s.semStep w op = .error (.trap .access 0) := by
  rw [State.semStep, semNode_out hb, Try.error_bind]

theorem semStep_refused (hb : (s.reg w.b).toNat < 2 ^ 17) (hn : (s.reg w.b).toNat = 0 ∨ (s.reg w.b).toNat % 65536 = s.node)
    (hr : s.admits s.tower 5 (0xF100000000 + 8 * w.sem.toNat) s.ownIdent .sem = false) :
    s.semStep w op = .error (.trap .access 0) := by
  rw [State.semStep, semNode_own hb hn, Try.ok_bind]
  dsimp only
  rw [State.semAllowed, hr, require_false, Try.error_bind]

theorem semStep_own (hb : (s.reg w.b).toNat < 2 ^ 17) (hn : (s.reg w.b).toNat = 0 ∨ (s.reg w.b).toNat % 65536 = s.node)
    (hr : s.admits s.tower 5 (0xF100000000 + 8 * w.sem.toNat) s.ownIdent .sem = true) :
    s.semStep w op = .ok (((if op = 4 then s.orderSem s.strand w.sem.toNat (semOrder w) else
      (s.orderSem s.strand w.sem.toNat (semOrder w)).setSem w.sem.toNat
        (semValue op (s.sem w.sem.toNat) (s.reg w.d) (s.reg w.a))).setReg w.d (s.sem w.sem.toNat)).advance) := by
  rw [State.semStep, semNode_own hb hn, Try.ok_bind]
  dsimp only
  rw [State.semAllowed, hr, require_true, Try.ok_bind]

theorem semWord_completes {ns : List (BitVec 6)} {v : State} (hr : Reads s ns) (h : s.semStep w op = .ok v) :
    s.aWord ns (fun s => s.semStep w op) = .next v := aWord_completes hr h

theorem semWord_traps {ns : List (BitVec 6)} {c : Cause} {va : Nat} (hr : Reads s ns) (h : s.semStep w op = .error (.trap c va)) :
    s.aWord ns (fun s => s.semStep w op) = .next (s.takeTrap c va) := aWord_traps hr h

theorem semWord_pends {ns : List (BitVec 6)} {u : State} (hr : Reads s ns) (h : s.semStep w op = .error (.pend u)) :
    s.aWord ns (fun s => s.semStep w op) = .next u.held := aWord_pends hr h

end Step

theorem semaphoreSteps : SemaphoreSteps := by
  intro w s n b own right old a x puts refused
  have htrap (op : Nat) (h : refused) : s.semStep w op = .error (.trap .access 0) :=
    h.elim semStep_out (fun ⟨⟨hb, hn⟩, hr⟩ => semStep_refused hb hn hr)
  refine ⟨fun hreads => ⟨fun h => ?_, fun ⟨hb, hn⟩ hr => ?_⟩, fun hreads => ⟨fun h => ?_, fun ⟨hb, hn⟩ hr => ?_⟩,
    fun hreads => ⟨fun h => ?_, fun ⟨hb, hn⟩ hr => ?_⟩⟩
  · exact ⟨(semWord_traps hreads (htrap 0 h) : execSadd w s = _), (semWord_traps hreads (htrap 2 h) : execSmax w s = _),
      (semWord_traps hreads (htrap 3 h) : execSxch w s = _)⟩
  · refine ⟨(semWord_completes hreads (semStep_own hb hn hr) : execSadd w s = _), ?_,
      (semWord_completes hreads (semStep_own hb hn hr) : execSxch w s = _)⟩
    refine (semWord_completes hreads (semStep_own hb hn hr) : execSmax w s = _).trans ?_
    simp only [semValue, BitVec.ult, decide_eq_true_eq]
    rfl
  · exact (semWord_traps hreads (htrap 1 h) : execScas w s = _)
  · exact (semWord_completes hreads (semStep_own hb hn hr) : execScas w s = _)
  · exact (semWord_traps hreads (htrap 4 h) : execSrd w s = _)
  · exact (semWord_completes hreads (semStep_own hb hn hr) : execSrd w s = _)

/-! ## Waiting for a value (R172, R181) -/

theorem acquireMet_ite (s : State) (n : Nat) (acq : BitVec 1) (scope : Nat) :
    s.acquireMet s.strand n (if acq = 1 then some scope else none) = if acq = 1 then s.acquireSem s.strand n scope else s := by
  split <;> rfl

theorem semaphoreWait : SemaphoreWait := by
  intro w s hreads n right
  refine ⟨fun hr => ?_, fun hr hle => ?_, fun hr hlt => ?_⟩
  · refine (aWord_traps hreads ?_ : execSwt w s = _)
    simp only [State.semAllowed, show s.admits s.tower 5 (0xF100000000 + 8 * w.sem.toNat) s.ownIdent .sem = false from hr,
      require_false, Try.error_bind]
  · refine (aWord_completes hreads ?_ : execSwt w s = _)
    rw [← acquireMet_ite]
    simp only [State.semAllowed, show s.admits s.tower 5 (0xF100000000 + 8 * w.sem.toNat) s.ownIdent .sem = true from hr,
      require_true, Try.ok_bind]
    exact if_pos (decide_eq_true hle)
  · refine (aWord_pends hreads ?_ : execSwt w s = _)
    simp only [State.semAllowed, show s.admits s.tower 5 (0xF100000000 + 8 * w.sem.toNat) s.ownIdent .sem = true from hr,
      require_true, Try.ok_bind]
    exact if_neg (fun h => BitVec.not_le.mpr hlt (of_decide_eq_true h))

section Answered

variable {s : State} {n m id : Nat} {v a : Word} {t : Task} {d : BitVec 6} {acq : Option Nat}

theorem acquireMet_eq (s : State) (st : Strand) (n : Nat) (acq : Option Nat) :
    s.acquireMet st n acq = { s with order := (s.acquireMet st n acq).order } := by
  cases acq with
  | none => rfl
  | some scope => exact acquires_eq s st _

theorem pc_streamAdvance (x : StreamSt) : x.advance.pc = x.pc + 3 := by
  unfold StreamSt.advance
  split <;> rfl

theorem pc_passWait (t : Task) : t.passWait.sa.pc = t.sa.pc + 3 := by
  unfold Task.passWait
  split
  · rfl
  · exact pc_streamAdvance _

/-- R172: the task's SWT is met by a step of its semaphore that reaches its threshold, and by no other. -/
theorem met_iff {mark : WaitMark} (hon : mark.on = .sem m a d acq) :
    mark.met n v = if m = n ∧ a.toNat ≤ v.toNat then some (d, acq) else none := by
  rw [WaitMark.met, hon]
  simp only [BitVec.ule, decide_eq_true_eq]

theorem sa_setReg (t : Task) (d : BitVec 6) (v : Word) : (t.setReg d v).sa = t.sa := by
  unfold Task.setReg
  split <;> rfl

theorem regs_setReg_self (t : Task) {d : BitVec 6} (hd : d ≠ 0) (v : Word) : (t.setReg d v).regs.get 0 d.toNat = v := by
  rw [Task.setReg, if_neg hd]
  exact SMap.get_set_self _ _ _ _

theorem regs_setReg_ne (t : Task) (d : BitVec 6) (v : Word) {k : Nat} (hk : k ≠ d.toNat) :
    (t.setReg d v).regs.get 0 k = t.regs.get 0 k := by
  unfold Task.setReg
  split
  · rfl
  · exact SMap.get_set_ne 0 d.toNat k v t.regs hk

end Answered

theorem semaphoreWaitAnswered : SemaphoreWaitAnswered := by
  intro s n m id v a t mark d acq ht hwait hon
  have hbind : t.wait.bind (WaitMark.met n v) = if m = n ∧ a.toNat ≤ v.toNat then some (d, acq) else none := by
    rw [hwait, Option.bind_some, met_iff hon]
  refine ⟨fun hm hle => ?_, fun h => ?_⟩
  · rw [if_pos ⟨hm, hle⟩] at hbind
    refine ⟨(t.setReg d v).passWait, ?_, rfl, ?_, fun hd => regs_setReg_self t hd v, fun k => regs_setReg_ne t d v⟩
    · simp only [State.meetTask, hbind]
      rw [acquireMet_eq]
      exact task?_onTask_self ht
    · rw [pc_passWait, sa_setReg]
  · rw [if_neg (fun hc => h.elim (fun hne => hne hc.1) (fun hlt => Nat.not_le.mpr hlt hc.2))] at hbind
    simp only [State.meetTask, hbind]

/-! ## Steps at another tower (R173, R417) -/

theorem semStep_other {w : AQ} {s : State} (op : Nat) (hb : (s.reg w.b).toNat < 2 ^ 17) (h0 : s.reg w.b ≠ 0)
    (hn : (s.reg w.b).toNat % 65536 ≠ s.node) :
    s.semStep w op = s.remoteStep ((s.reg w.b).toNat % 65536) (.sem op w.sem.toNat (s.reg w.d) (s.reg w.a) (semOrder w))
      (if w.rel = 1 then s.order.know s.strand.knower else Know.none)
      (fun s k v => .ok ((s.acquirePeer (semOrder w) k).setReg w.d v).advance) := by
  rw [State.semStep, semNode_other hb h0 hn, Try.ok_bind]

theorem reads_of_subset {s : State} {ms ns : List (BitVec 6)} (h : Reads s ns) (hsub : ∀ m ∈ ms, m ∈ ns) : Reads s ms :=
  ⟨h.acts, List.all_eq_true.mpr (fun m hm => List.all_eq_true.mp h.ready m (hsub m hm))⟩

theorem remoteSteps : RemoteSteps := by
  intro w c s node tag r v h u x releases sent
  refine ⟨fun hreads hb h0 hnode hne => ?_, fun hreads href hb => ?_⟩
  · subst hnode
    have hadd : Reads s [w.a, w.b] := reads_of_subset hreads (by simp)
    have hstep (op : Nat) := semStep_other (w := w) op hb h0 hne
    refine ⟨fun ha hc => ?_, fun ha hc => ?_, fun ha hr => ⟨?_, ?_⟩⟩
    · exact (semWord_pends hadd ((hstep 0).trans (remoteStep_sends ha hc)) : execSadd w s = _)
    · exact (semWord_pends hreads ((hstep 1).trans (remoteStep_sends ha hc)) : execScas w s = _)
    · exact (semWord_completes hadd ((hstep 0).trans (remoteStep_answered ha hr)) : execSadd w s = _)
    · exact (semWord_completes hreads ((hstep 1).trans (remoteStep_answered ha hr)) : execScas w s = _)
  · refine ⟨fun ha hc => ?_, fun ha hr => ?_⟩
    · refine (aWord_pends hreads ?_ : execBarv c s = _)
      simp only [href, Try.ok_bind, decide_eq_true hb, require_true]
      exact remoteStep_sends ha hc
    · refine (aWord_completes hreads ?_ : execBarv c s = _)
      simp only [href, Try.ok_bind, decide_eq_true hb, require_true]
      exact remoteStep_answered ha hr

/-- Settles O18. -/
theorem semaphoreWords : Obligations.SemaphoreWords :=
  ⟨semaphoreSteps, semaphoreWait, semaphoreWaitAnswered, remoteSteps⟩

end Sys2Proof.Proofs
end

section
/-! PROOFS. The vector and indexed accesses (R140 to R144). -/

namespace Sys2Proof.Proofs

open Sys2Proof Sys2Proof.Machine Sys2Proof.Claims

theorem bits_low (x n : Nat) : bits x 0 n = x % 2 ^ n := by
  rw [bits, Nat.pow_zero, Nat.div_one]

/-! ## Pushes (R140, R141, R143) -/

section Push

variable {t : Task} {q : Nat}

theorem xqRoom_ok (hx : t.sx.present = true) (hq : (t.xq.get [] q).length < 8) : t.xqRoom q = .ok () := by
  rw [Task.xqRoom, hx, require_true, Try.ok_bind, if_neg (Nat.not_le.mpr hq)]

theorem xqRoom_hold (hx : t.sx.present = true) (hq : 8 ≤ (t.xq.get [] q).length) (hp : t.sx.phase ≠ .ended) :
    t.xqRoom q = .error .hold := by
  rw [Task.xqRoom, hx, require_true, Try.ok_bind, if_pos hq, require_of (decide_eq_true hp), Try.ok_bind]

end Push

section Ldx

variable {w : AC} {s : State} {id : Nat} {t : Task} {bs : List Byte}

theorem execLdx_eq (h : OnTask s id t [w.a]) (hh : t.handler = none)
    (ha : (s.reg w.a).toNat % max 1 (4 * 2 ^ w.fn.toNat / 8) = 0)
    (hb : s.viewRead (s.aEngine.grained (4 * 2 ^ w.fn.toNat)) (s.reg w.a).toNat (64 * (4 * 2 ^ w.fn.toNat)) = .ok bs)
    (hz : s.hazard (s.reg w.a).toNat (64 * (4 * 2 ^ w.fn.toNat)) = .ok ()) :
    exec (.ldx w) s = .next (s.finish (t.xqRoom (w.opt.toNat % 8) >>= fun _ =>
      .ok (s.pushXq id t (w.opt.toNat % 8) (4 * 2 ^ w.fn.toNat) (elemsOf (4 * 2 ^ w.fn.toNat) 512 bs) (.ldx w) false
        (s.reg w.a).toNat).advance)) := by
  refine (State.taskWord_next s _ _ h.cur h.there h.ready : execLdx w s = _).trans ?_
  simp only [notInHandler_of_none hh, if_neg (not_not_intro ha), hb, hz, lasting, bits_low, Try.ok_bind, Option.getD_some,
    Option.isNone_some] <;> rfl

end Ldx

/-! ## Pops and stores (R142, R144) -/

section Store

variable {w : AC} {s : State} {id : Nat} {t : Task} {ps : List (Nat × Nat)}

/-- R142: a store whose address is right comes to its queue. -/
theorem execStx_eq (h : OnTask s id t [w.a]) (ha : (s.reg w.a).toNat % 2 ^ w.fn.toNat = 0)
    (hc : s.check s.aEngine .write (s.reg w.a).toNat (2 ^ w.fn.toNat) = .ok ps) :
    exec (.stx w) s = .next (s.finish (match t.aq.get [] (w.opt.toNat % 4) with
      | [] => if t.aqOver (w.opt.toNat % 4) then raise .queueProtocol else .error .hold
      | v :: _ => .ok ((s.setTask id (t.popAq (w.opt.toNat % 4) (s.cyc t.core))).writePieces ps
          (leBytes (2 ^ w.fn.toNat) (v.toNat % 2 ^ (8 * 2 ^ w.fn.toNat)))).advance)) := by
  refine (State.taskWord_next s _ _ h.cur h.there h.ready : execStx w s = _).trans ?_
  simp only [if_neg (not_not_intro ha), hc, bits_low, Try.ok_bind]
  rfl

/-- R144: where SCAT stores is settled by the indexes alone. -/
theorem map_fst_scatters (g : Glyph) (ix : List Nat) {xs ys : List Nat} (h : xs.length = ys.length) :
    (scatters g ix xs).map (·.1) = (scatters g ix ys).map (·.1) := by
  unfold scatters
  induction ix generalizing xs ys with
  | nil => rfl
  | cons i ix ih =>
    cases xs with
    | nil => rw [List.length_eq_zero_iff.mp h.symm]
    | cons x xs =>
      cases ys with
      | nil => cases h
      | cons y ys =>
        have hrest := ih (Nat.succ.inj h)
        by_cases hi : i < g.count
        · simpa [hi] using hrest
        · simpa [hi] using hrest

theorem length_elemsOf (width n : Nat) (bs : List Byte) : (elemsOf width n bs).length = n := by
  unfold elemsOf
  split <;> rw [List.length_map, List.length_range]

theorem glyphWords_of_useGlyph {n : Nat} {gw : List Word} (h : s.useGlyph n = .ok gw) :
    s.glyphWords n = .ok gw ∧ (glyphOf gw).ok = true := by
  unfold State.useGlyph at h
  cases hg : s.glyphWords n with
  | error e => rw [hg] at h; cases h
  | ok ws =>
    rw [hg, Try.ok_bind] at h
    cases hk : (glyphOf ws).ok with
    | false => rw [hk, require_false] at h; cases h
    | true => rw [hk, require_true] at h; cases h; exact ⟨rfl, hk⟩

end Store

/-- R144: SCAT makes its stores when every byte it touches passes its checks. -/
theorem scatStores_ok {w : AC} {s : State} {ix : List Nat} {gw : List Word} {bs : List Byte}
    (hix : s.indices (s.reg w.a).toNat = .ok ix) (hgw : s.useGlyph w.gd.toNat = .ok gw) (hmx : (glyphOf gw).mx = 0)
    (hfmt : (glyphOf gw).memfmt = 0) (hva : (s.reg w.b).toNat % max 1 (typeBits (glyphOf gw).ty / 8) = 0)
    (hbs : s.viewRead (s.aEngine.grained (typeBits (glyphOf gw).ty)) (s.reg w.b).toNat (64 * typeBits (glyphOf gw).ty) = .ok bs)
    (hel : s.elemsReady s.aEngine (glyphOf gw) 0
      ((scatters (glyphOf gw) ix (elemsOf (typeBits (glyphOf gw).ty) 512 bs)).map (·.1)) = .ok ()) :
    s.scatStores w = .ok (glyphOf gw, scatters (glyphOf gw) ix (elemsOf (typeBits (glyphOf gw).ty) 512 bs)) := by
  obtain ⟨hgl, hok⟩ := glyphWords_of_useGlyph hgw
  have hg : s.scatGlyph w = .ok (glyphOf gw) := by
    simp only [State.scatGlyph, hgl, Try.ok_bind, if_neg (not_not_intro hva)]
  have ha : ¬(s.reg w.a).toNat % 4 ≠ 0 := fun hne => by
    rw [State.indices, if_pos hne] at hix
    cases hix
  rw [map_fst_scatters _ _ ((length_elemsOf _ _ _).trans (List.length_replicate (n := 512) (a := 0)).symm)] at hel
  simp only [State.scatStores, if_neg ha, hg, hix, hok, hmx, hfmt, hbs, hel, checked_ok, together_pair, decide_true, Bool.and_true,
    require_true, Try.ok_bind]

/-- Settles O11. -/
theorem vectorAccesses : Obligations.VectorAccesses := by
  intro w s id t
  dsimp only
  refine ⟨fun h => ⟨fun bs hh ha hb hz hx => ⟨fun hq => ?_, fun hq hp => ?_⟩, fun width xs hg hx hq => ?_,
    fun ps v vs ha hc => ⟨fun hq => ?_, fun hq ho => ?_, fun hq ho => ?_⟩⟩, fun h ix gw bs u hix hgw hmx hfmt hva hbs hel hwr => ?_⟩
  · rw [execLdx_eq h hh ha hb hz, xqRoom_ok hx hq]
    rfl
  · unfold Waits
    rw [execLdx_eq h hh ha hb hz, xqRoom_hold hx hq hp]
    rfl
  · refine (taskWord_completes h ?_ : execGath w s = _)
    simp only [hg, lasting, bits_low, show t.xqRoom (w.opt.toNat % 2 ^ 3) = .ok () from xqRoom_ok hx hq, Try.ok_bind] <;> rfl
  · rw [execStx_eq h ha hc, hq]
    rfl
  · unfold Waits
    rw [execStx_eq h ha hc, hq]
    simp only [ho]
    rfl
  · unfold Traps
    rw [execStx_eq h ha hc, hq]
    simp only [ho]
    rfl
  · refine (taskWord_completes h ?_ : execScat w s = _)
    rw [scatStores_ok hix hgw hmx hfmt hva hbs hel, Try.ok_bind, hwr]
    rfl

end Sys2Proof.Proofs
end

section
/-! PROOFS. The words of the M stream (R256, R257, R261, R268, R276 to R279). -/

namespace Sys2Proof.Proofs

open Sys2Proof Sys2Proof.Machine Sys2Proof.Claims

/-! ## What a word of the M stream answers -/

section Answers

variable {s u : State} {id : Nat} {t : Task} {f : State → Nat → Task → Try State}

theorem mTask_completes (h : OnM s id t) (hf : f s id t = .ok u) : s.mTask f = .next u := by
  rw [State.mTask_next s f h.cur h.there, hf]; rfl

theorem mTask_traps {c : Cause} {va : Nat} (h : OnM s id t) (hf : f s id t = .error (.trap c va)) :
    s.mTask f = .next (s.takeTrap c va) := by
  rw [State.mTask_next s f h.cur h.there, hf]; rfl

theorem mTask_waits (h : OnM s id t) (hf : f s id t = .error .hold) : s.mTask f = .next s.held := by
  rw [State.mTask_next s f h.cur h.there, hf]; rfl

theorem mTask_pends (h : OnM s id t) (hf : f s id t = .error (.pend u)) : s.mTask f = .next u.held := by
  rw [State.mTask_next s f h.cur h.there, hf]; rfl

end Answers

/-! ## Array commands (R261, R268, R277) -/

section Commands

variable {t : Task} {c : Cmd}

theorem repeated_of_none (h : t.mrep = none) : t.repeated = { t with sm := t.sm.advance } := by
  rw [Task.repeated, h]

theorem repeated_of_last {r : Mrep} (h : t.mrep = some r) (hl : r.left ≤ 1) :
    t.repeated = { t with
      coords := t.coords.set 0 r.creg.toNat (t.coord r.creg + r.imm.extractLsb' 0 32), mrep := none, sm := t.sm.advance } := by
  simp only [Task.repeated, h, if_pos hl]

theorem repeated_of_more {r : Mrep} (h : t.mrep = some r) (hl : 1 < r.left) :
    t.repeated = { t with
      coords := t.coords.set 0 r.creg.toNat (t.coord r.creg + r.imm.extractLsb' 0 32), mrep := some { r with left := r.left - 1 } } := by
  simp only [Task.repeated, h, if_neg (Nat.not_le.mpr hl)]

theorem lease_covers_iff (t : Task) (ts : List Nat) :
    (decide (t.lease ≠ 0) && ts.all t.leases) = true ↔ t.lease ≠ 0 ∧ ∀ x ∈ ts, t.lease.getLsbD x = true := by
  rw [Bool.and_eq_true, decide_eq_true_eq, List.all_eq_true]
  rfl

/-- R261: a command whose tiles the lease holds enters a list that has room. -/
theorem arrayCommand_issues {s : State} {id : Nat} {w : MC} {mk : MC → Instr} (h : OnM s id t)
    (hl : t.lease ≠ 0 ∧ ∀ x ∈ commandTiles (mk { w with acc := w.acc + t.tileStep }), t.lease.getLsbD x = true)
    (hroom : t.cmds.length < 32) :
    s.arrayCommand w mk = .next ((s.setTask id
        (t.pushCmd (t.newCmd (mk { w with acc := w.acc + t.tileStep }) w.ca w.cb w.ct)).repeated).ordered
      (fun o => o.issueCommand id t.nextSerial (t.newCmd (mk { w with acc := w.acc + t.tileStep }) w.ca w.cb w.ct).matrices)) := by
  refine mTask_completes h ?_
  simp only [(lease_covers_iff t _).mpr hl, require_true, decide_eq_true hroom, await_true, Try.ok_bind]

/-- R261: a word that issues array commands as `arrayCommand` says enters them into the command list. -/
theorem queues_of_exec_eq {mk : MC → Instr} {w : MC} (hx : ∀ s, exec (mk w) s = s.arrayCommand w mk) : Queues mk w := by
  intro s id t h
  dsimp only
  have hcovers := lease_covers_iff t (commandTiles (mk { w with acc := w.acc + t.tileStep }))
  refine ⟨fun hl hroom hm => ?_, fun r hl hroom hm => ⟨fun hr => ?_, fun hr => ?_⟩, fun hl hfull => ?_, fun hl => ?_⟩
  · rw [hx, arrayCommand_issues h hl hroom, repeated_of_none (t := t.pushCmd _) hm]
    rfl
  · rw [hx, arrayCommand_issues h hl hroom, repeated_of_last (t := t.pushCmd _) hm hr]
    rfl
  · rw [hx, arrayCommand_issues h hl hroom, repeated_of_more (t := t.pushCmd _) hm hr]
    rfl
  · refine (hx s).trans (mTask_waits h ?_)
    simp only [hcovers.mpr hl, require_true, decide_eq_false (Nat.not_lt.mpr hfull), await_false, Try.ok_bind, Try.error_bind]
  · refine (hx s).trans (mTask_traps h ?_)
    simp only [Bool.eq_false_iff.mpr (mt hcovers.mp hl), require_false, Try.error_bind]

end Commands

theorem arrayCommands : ArrayCommands := by
  intro w
  exact ⟨queues_of_exec_eq fun _ => rfl, queues_of_exec_eq fun _ => rfl, queues_of_exec_eq fun _ => rfl, queues_of_exec_eq fun _ => rfl,
    queues_of_exec_eq fun _ => rfl, queues_of_exec_eq fun _ => rfl, queues_of_exec_eq fun _ => rfl, queues_of_exec_eq fun _ => rfl,
    queues_of_exec_eq fun _ => rfl⟩

/-! ## The other words (R256, R257, R268, R276 to R279) -/

theorem busyStreams_iff (mask : BitVec 8) (cs : List Cmd) : busyStreams mask cs = true ↔ ∃ c ∈ cs, c.streams &&& mask ≠ 0 := by
  simp only [busyStreams, List.any_eq_true, decide_eq_true_eq]

theorem lt_of_mem_acc (w : MC) : ∀ x ∈ [w.acc.toNat], x < 8 := fun _ hx => List.mem_singleton.mp hx ▸ w.acc.isLt

/-- R255: a command names tiles of its cluster's eight. -/
theorem commandTiles_lt (i : Instr) : ∀ x ∈ commandTiles i, x < 8 := by
  unfold commandTiles
  split
  iterate 8 exact lt_of_mem_acc _
  · intro x hx
    obtain rfl | hx := List.mem_cons.mp hx
    · exact lt_of_mem_acc _ _ (List.mem_singleton_self _)
    · exact List.mem_singleton.mp hx ▸ bits_lt _ _ _
  · intro x hx
    cases hx

/-- R277: a lease of all eight tiles holds whatever tiles the repetitions name. -/
theorem flatMap_leased {t : Task} (hl : t.lease = 0xFF) (rs : List Nat) {f : Nat → List Nat} (hf : ∀ r, ∀ x ∈ f r, x < 8) :
    (rs.flatMap f).all t.leases = true := by
  rw [List.all_eq_true]
  intro x hx
  obtain ⟨r, -, hx⟩ := List.mem_flatMap.mp hx
  have hlt := hf r x hx
  rw [Task.leases, hl]
  exact (BitVec.getLsbD_allOnes (v := 8)).trans (decide_eq_true hlt)

theorem matrixStreamWords : MatrixStreamWords := by
  intro w s id t h
  dsimp only
  refine ⟨fun hw hl => ?_, fun hw hl hf => ?_, fun hw hl hf => ?_, fun hw hl => ?_, fun hw hl => ?_, fun hd => ?_, fun hl hc => ?_,
    (mTask_completes h rfl : execMset w s = _), (mTask_completes h rfl : execMinc w s = _), fun hq => ?_, fun hb => ?_, fun hr => ?_, fun hr => ?_,
    (mTask_completes h rfl : execMfin w s = _), (mTask_completes h rfl : execMnop w s = _), fun he => ?_, fun bs i he hb => ⟨fun hop => ?_, fun hlo hhi hd => ⟨fun hc => ?_, fun hc hl => ?_⟩⟩⟩
  · refine (mTask_traps h ?_ : execLease w s = _)
    simp only [hw, decide_eq_false hl, require_false, Try.error_bind]
  · refine (mTask_completes h ?_ : execLease w s = _)
    simp only [hw, hl, decide_true, require_true, Try.ok_bind, hf, if_true]
  · refine (mTask_pends h ?_ : execLease w s = _)
    simp only [hw, hl, decide_true, require_true, Try.ok_bind, hf]
    rfl
  · obtain ⟨m, hm⟩ := Option.ne_none_iff_exists'.mp hw
    refine (mTask_completes h ?_ : execLease w s = _)
    simp only [hm, if_pos hl]
  · obtain ⟨m, hm⟩ := Option.ne_none_iff_exists'.mp hw
    refine (mTask_waits h ?_ : execLease w s = _)
    simp only [hm, if_neg (not_not_intro hl)]
  · refine (mTask_completes h ?_ : execLfree w s = _)
    have hfree : (decide (t.lease = 0) || t.cmds.isEmpty) = true := by simpa using hd
    simp only [hfree, await_true, Try.ok_bind]
  · refine (mTask_waits h ?_ : execLfree w s = _)
    have hfree : (decide (t.lease = 0) || t.cmds.isEmpty) = false := by simpa using ⟨hl, hc⟩
    simp only [hfree, await_false, Try.error_bind]
  · refine (mTask_completes h ?_ : execMfence w s = _)
    have hidle : busyStreams (w.imm.extractLsb' 0 8) t.cmds = false :=
      Bool.eq_false_iff.mpr (fun hb => by
        obtain ⟨c, hc, hne⟩ := (busyStreams_iff _ _).mp hb
        exact hne (hq c hc))
    simp only [hidle, Bool.not_false, await_true, Try.ok_bind]
  · refine (mTask_waits h ?_ : execMfence w s = _)
    simp only [(busyStreams_iff _ _).mpr hb, Bool.not_true, await_false, Try.error_bind]
  · refine (mTask_completes h ?_ : execMbarv w s = _)
    simp only [decide_eq_true hr, await_true, Try.ok_bind]
    rfl
  · refine (mTask_waits h ?_ : execMbarv w s = _)
    simp only [decide_eq_false (Nat.not_lt.mpr hr), await_false, Try.error_bind]
  · refine (mTask_traps h ?_ : execMrep w s = _)
    rw [require_of_not (decide_eq_false (not_not_intro he)), Try.error_bind]
  · refine (mTask_traps h ?_ : execMrep w s = _)
    have harr : isArrayWord (bytesWord bs) = false := by
      simp only [isArrayWord, Bool.and_eq_false_iff, decide_eq_false_iff_not]; omega
    rw [require_of (decide_eq_true he), Try.ok_bind, hb, Try.ok_bind]
    simp only [harr, require_false, Try.error_bind]
  · refine (mTask_completes h ?_ : execMrep w s = _)
    have harr : isArrayWord (bytesWord bs) = true := by simp only [isArrayWord, decide_eq_true hlo, decide_eq_true hhi, Bool.and_self]
    rw [require_of (decide_eq_true he), Try.ok_bind, hb, Try.ok_bind]
    simp only [harr, hd, hc, decide_true, Bool.true_or, require_true, Try.ok_bind, if_true]
  · refine (mTask_completes h ?_ : execMrep w s = _)
    have harr : isArrayWord (bytesWord bs) = true := by simp only [isArrayWord, decide_eq_true hlo, decide_eq_true hhi, Bool.and_self]
    have hne : t.lease ≠ 0 := fun h0 => by rw [h0] at hl; cases hl
    rw [require_of (decide_eq_true he), Try.ok_bind, hb, Try.ok_bind]
    simp only [harr, hd, decide_eq_true hne, require_true, Try.ok_bind, if_neg hc]
    have htiles := commandTiles_lt i
    generalize commandTiles i = tiles at htiles
    rw [flatMap_leased hl]
    · simp only [Bool.and_self, Bool.or_true, require_true, Try.ok_bind]
    · intro r x hx
      cases tiles with
      | nil => cases hx
      | cons a rest =>
        obtain rfl | hx := List.mem_cons.mp hx
        · exact Nat.mod_lt _ (by decide)
        · exact htiles x (List.mem_cons_of_mem _ hx)

/-- Settles O32. -/
theorem matrixWords : Obligations.MatrixWords := ⟨arrayCommands, matrixStreamWords⟩

end Sys2Proof.Proofs
end

section
/-! PROOFS. What the commands of the array leave in their tiles, and what MST writes (R71 to R73, R255, R269 to R275). -/

namespace Sys2Proof.Proofs

open Sys2Proof Sys2Proof.Machine Sys2Proof.Claims

/-! ## Words of tiles (R255) -/

section Tiles

variable {α : Type}

theorem find?_append (k : Nat) (a b : SMap α) : SMap.find? k (a ++ b) = (SMap.find? k a).or (SMap.find? k b) := by
  induction a with
  | nil => rfl
  | cons e a ih =>
    simp only [List.cons_append, SMap.find?]
    split
    · rfl
    · exact ih

theorem find?_filter_key (p : Nat → Bool) (k : Nat) (m : SMap α) :
    SMap.find? k (m.filter (fun e => p e.1)) = if p k then SMap.find? k m else none := by
  induction m with
  | nil => exact (ite_self _).symm
  | cons e m ih =>
    rw [List.filter_cons]
    by_cases hk : e.1 = k
    · subst hk
      cases hp : p e.1
      · simpa [hp] using ih
      · simp [SMap.find?]
    · cases hp : p e.1
      · simpa [hp, SMap.find?, hk] using ih
      · simpa [hp, SMap.find?, hk] using ih

/-- The entries that a filled range lists: those that are not zero. -/
theorem find?_filled (k n : Nat) (f : Nat → BitVec 32) (i : Nat) :
    SMap.find? i ((List.range n).filterMap (fun j => if f j = 0 then none else some (k + j, f j))) =
      if k ≤ i ∧ i < k + n ∧ f (i - k) ≠ 0 then some (f (i - k)) else none := by
  induction n with
  | zero => rw [if_neg (by omega)]; rfl
  | succ n ih =>
    rw [List.range_succ, List.filterMap_append, find?_append, ih]
    by_cases hf : f n = 0
    · simp only [List.filterMap_cons, if_pos hf, List.filterMap_nil, SMap.find?_nil, Option.or_none]
      refine ite_congr (propext ⟨fun ⟨hk, hi, hne⟩ => ⟨hk, by omega, hne⟩, fun ⟨hk, hi, hne⟩ => ⟨hk, ?_, hne⟩⟩) (fun _ => rfl) (fun _ => rfl)
      refine Classical.byContradiction (fun hlast => ?_)
      exact hne (by rwa [show i - k = n by omega])
    · simp only [List.filterMap_cons, if_neg hf, List.filterMap_nil]
      by_cases hi : k + n = i
      · subst hi
        rw [if_neg (by omega), if_pos ⟨by omega, by omega, by rwa [Nat.add_sub_cancel_left]⟩, Nat.add_sub_cancel_left]
        exact if_pos rfl
      · rw [show SMap.find? i [(k + n, f n)] = none from if_neg hi, Option.or_none]
        exact ite_congr (propext ⟨fun ⟨hk, hlt, hne⟩ => ⟨hk, by omega, hne⟩, fun ⟨hk, hlt, hne⟩ => ⟨hk, by omega, hne⟩⟩)
          (fun _ => rfl) (fun _ => rfl)

theorem get_fillTiles (k n : Nat) (f : Nat → BitVec 32) (m : SMap (BitVec 32)) (i : Nat) :
    SMap.get 0 i (fillTiles k n f m) = if k ≤ i ∧ i < k + n then f (i - k) else SMap.get 0 i m := by
  unfold SMap.get fillTiles
  rw [find?_append, find?_append, find?_filter_key (fun j => decide (j < k)), find?_filled,
    find?_filter_key (fun j => decide (k + n ≤ j))]
  simp only [decide_eq_true_eq]
  by_cases hin : k ≤ i ∧ i < k + n
  · rw [if_neg (show ¬i < k by omega), if_neg (show ¬k + n ≤ i by omega), if_pos hin]
    by_cases hf : f (i - k) = 0
    · rw [if_neg (fun h => h.2.2 hf), hf]; rfl
    · rw [if_pos ⟨hin.1, hin.2, hf⟩]; rfl
  · rw [if_neg (c := k ≤ i ∧ i < k + n ∧ f (i - k) ≠ 0) (fun h => hin ⟨h.1, h.2.1⟩), if_neg hin]
    by_cases hlo : i < k
    · rw [if_pos hlo, if_neg (show ¬k + n ≤ i by omega), Option.or_none, Option.or_none]
    · rw [if_neg hlo, if_pos (by omega)]; rfl

end Tiles

section Words

variable {s : State} {c k a t m n r : Nat}

theorem tile_setRow {f : Nat → BitVec 32} (ha : a < 8) (ht : t < 8) (hr : r < 256) (hm : m < 256) (hn : n < 512) :
    (s.setRow k a r f).tile c t m n = if (c, t) = (k, a) ∧ m = r then f n else s.tile c t m n := by
  have hin : (tileIndex k a r 0 ≤ tileIndex c t m n ∧ tileIndex c t m n < tileIndex k a r 0 + 512) ↔ (c, t) = (k, a) ∧ m = r := by
    simp only [tileIndex, Prod.mk.injEq]
    omega
  refine (get_fillTiles _ _ _ _ _).trans ((ite_congr (propext hin) (fun _ => rfl) (fun _ => rfl)).trans ?_)
  split
  · next h =>
    obtain ⟨hka, rfl⟩ := h
    obtain ⟨rfl, rfl⟩ := Prod.mk.inj hka
    exact congrArg f (Nat.add_sub_cancel_left _ _)
  · rfl

theorem tile_setTile {f : Nat → Nat → BitVec 32} (ha : a < 8) (ht : t < 8) (hm : m < 256) (hn : n < 512) :
    (s.setTile k a f).tile c t m n = if (c, t) = (k, a) then f m n else s.tile c t m n := by
  have hin : (tileIndex k a 0 0 ≤ tileIndex c t m n ∧ tileIndex c t m n < tileIndex k a 0 0 + 131072) ↔ (c, t) = (k, a) := by
    simp only [tileIndex, Prod.mk.injEq]
    omega
  refine (get_fillTiles _ _ _ _ _).trans ((ite_congr (propext hin) (fun _ => rfl) (fun _ => rfl)).trans ?_)
  split
  · next h =>
    obtain ⟨rfl, rfl⟩ := Prod.mk.inj h
    have hoff : tileIndex c t m n - tileIndex c t 0 0 = 512 * m + n := by simp only [tileIndex]; omega
    rw [hoff]
    congr 1 <;> omega
  · rfl

end Words

/-! ## Units of a command (R73, R265) -/

section Units

variable {s : State} {v : View} {t : Task} {c : Cmd} {w : MC} {gs : List Glyph} {r : Nat}

theorem arrayFlags_masked (f : Flags) : arrayFlags f &&& 0b111010#6 = 0 := by
  rw [arrayFlags, BitVec.and_assoc]
  exact BitVec.and_zero

theorem rowFlags_masked (out : Nat → BitVec 32 × Flags) : rowFlags out &&& 0b111010#6 = 0 := arrayFlags_masked _

/-- Where no tile word is bad a unit works on sound rows. -/
theorem commandUnit_of_sound (h : s.badTiles = []) : s.commandUnit v t c gs r = s.soundUnit v t c gs r := by
  rw [State.commandUnit, State.tileParity, h]
  rfl

theorem tileGets_row {f : Nat → BitVec 32} {fl : Flags} {g : Nat → Nat → BitVec 32} (hr : r < 256)
    (hu : s.soundUnit v t c gs r = .ok (s.setRow (clusterOf t.core) w.acc.toNat r f, fl)) (hfl : fl &&& 0b111010#6 = 0)
    (hf : ∀ n < 512, f n = g r n) : TileGets s v t c w gs r (fun m => m = r) g := by
  intro _ hbad
  refine ⟨_, fl, (commandUnit_of_sound hbad).trans hu, hfl, fun m n hm hn hp => ?_, fun k' tile m n ht hm hn hne => ?_, rfl, rfl⟩
  · rw [tile_setRow w.acc.isLt w.acc.isLt hr hm hn, if_pos ⟨rfl, hp⟩, hf n hn, hp]
  · rw [tile_setRow w.acc.isLt ht hr hm hn, if_neg (fun h => hne.elim (· h.1) (· h.2))]

theorem tileGets_tile {f : Nat → Nat → BitVec 32} {fl : Flags} {g : Nat → Nat → BitVec 32}
    (hu : s.soundUnit v t c gs r = .ok (s.setTile (clusterOf t.core) w.acc.toNat f, fl)) (hfl : fl &&& 0b111010#6 = 0)
    (hf : ∀ m < 256, ∀ n < 512, f m n = g m n) : TileGets s v t c w gs r (fun _ => True) g := by
  intro _ hbad
  refine ⟨_, fl, (commandUnit_of_sound hbad).trans hu, hfl, fun m n hm hn _ => ?_, fun k' tile m n ht hm hn hne => ?_, rfl, rfl⟩
  · rw [tile_setTile w.acc.isLt w.acc.isLt hm hn, if_pos rfl, hf m hm n hn]
  · rw [tile_setTile w.acc.isLt ht hm hn, if_neg (fun h => hne.elim (· h) (· trivial))]

end Units

/-! ## Row by row (R273, R274) -/

section Rows

variable {s : State} {v : View} {t : Task} {c : Cmd} {w : MC} {gs : List Glyph} {r : Nat}

theorem soundUnit_mclr (hw : c.word = .mclr w) :
    s.soundUnit v t c gs r = .ok (s.setRow (clusterOf t.core) w.acc.toNat r (fun _ => 0), 0) := by
  unfold State.soundUnit
  rw [hw]

theorem soundUnit_madd (hw : c.word = .madd w) :
    s.soundUnit v t c gs r =
      let out (n : Nat) := maddValue w (s.tile (clusterOf t.core) w.acc.toNat r n) (s.tile (clusterOf t.core) (bits w.cfn.toNat 0 3) r n)
      .ok (s.setRow (clusterOf t.core) w.acc.toNat r (fun n => (out n).1), rowFlags out) := by
  unfold State.soundUnit
  rw [hw]

theorem soundUnit_mscl (hw : c.word = .mscl w) :
    s.soundUnit v t c gs r =
      let out (n : Nat) := msclValue c w (s.tile (clusterOf t.core) w.acc.toNat r n)
      .ok (s.setRow (clusterOf t.core) w.acc.toNat r (fun n => (out n).1), rowFlags out) := by
  unfold State.soundUnit
  rw [hw]

end Rows

theorem maddValue_fst (w : MC) (x y : BitVec 32) : (maddValue w x y).1 = if w.cfn.getLsbD 3 then x + y else sum32 x y := by
  unfold maddValue
  split <;> rfl

theorem rowResults : RowResults := by
  intro s v t c w r hr
  dsimp only
  refine ⟨fun hw => ?_, fun hw => ?_, fun hw => ?_⟩
  · exact tileGets_row hr (soundUnit_mclr hw) BitVec.zero_and (fun _ _ => rfl)
  · refine tileGets_row hr (soundUnit_madd hw) (rowFlags_masked _) (fun n _ => ?_)
    rw [maddValue_fst, bits_low] <;> rfl
  · refine tileGets_row hr (soundUnit_mscl hw) (rowFlags_masked _) (fun n _ => ?_)
    rfl

/-! ## Chunks of K (R71, R72, R269, R271, R272) -/

section Operands

variable {s : State} {v : View} {g : Glyph} {ι : Type}

theorem matrixElems_ok {f : ι → Int × Int} {e : ι → Nat × Nat} {is : List ι}
    (h : ∀ i ∈ is, s.matrixElem v g (f i).1 (f i).2 = .ok (e i)) : s.matrixElems v g (is.map f) = .ok (is.map e) := by
  induction is with
  | nil => rfl
  | cons i is ih =>
    rw [List.map_cons, State.matrixElems, h i List.mem_cons_self, Try.ok_bind, ih (fun j hj => h j (List.mem_cons_of_mem _ hj)),
      Try.ok_bind, List.map_cons]

theorem rows_ok {f : Nat → List (Int × Int)} {e : Nat → List (Nat × Nat)} {is : List Nat}
    (h : ∀ i ∈ is, s.matrixElems v g (f i) = .ok (e i)) : State.mulChunk.rows s v g f is = .ok (is.map e) := by
  induction is with
  | nil => rfl
  | cons i is ih =>
    rw [State.mulChunk.rows, h i List.mem_cons_self, Try.ok_bind, ih (fun j hj => h j (List.mem_cons_of_mem _ hj)),
      Try.ok_bind, List.map_cons]

/-- The operands of a chunk at one element of the tile, in order of K. -/
theorem zip_rows {α β : Type} (F : Nat × Nat → α) (G : Nat × Nat → β) (ea eb : Nat → ι → Nat × Nat) (ks : List ι) {M N m n : Nat}
    (hm : m < M) (hn : n < N) :
    (((((List.range M).map (fun m => ks.map (ea m))).map (fun r => r.map F)).getD m []).zip
      ((((List.range N).map (fun n => ks.map (eb n))).map (fun r => r.map G)).getD n [])) =
      ks.map (fun i => (F (ea m i), G (eb n i))) := by
  simp only [List.getD_eq_getElem?_getD, List.getElem?_map, List.getElem?_range hm, List.getElem?_range hn, Option.map_some,
    Option.getD_some, Function.comp_apply, List.map_map, List.zip_map']

end Operands

/-- A pattern of FP32 has 32 bits. -/
theorem value_fF32_mod (x : Nat) : fF32.value (x % 2 ^ 32) = fF32.value x := by
  have hsign : x % 2 ^ 32 / 2 ^ (8 + 23) % 2 = x / 2 ^ (8 + 23) % 2 := by omega
  have hexp : x % 2 ^ 32 / 2 ^ 23 % 2 ^ 8 = x / 2 ^ 23 % 2 ^ 8 := by omega
  have hman : x % 2 ^ 32 % 2 ^ 23 = x % 2 ^ 23 := by omega
  unfold Fmt.value
  simp only [fF32, hsign, hexp, hman]
  rfl

theorem chunkFloat_fst (acc : BitVec 32) (ps : List (Val × Val)) :
    (chunkFloat acc ps).1 = sum32 acc (BitVec.ofNat 32 (componentRound (ps.map (fun p => prod false p.1 p.2)) fF32 0 false).1) := by
  unfold chunkFloat sum32
  rw [BitVec.toNat_ofNat, value_fF32_mod]

theorem chunkInt_eq (acc : BitVec 32) (ps : List (Int × Int)) :
    chunkInt acc ps = acc + BitVec.ofInt 32 ((ps.map (fun p => p.1 * p.2)).foldl (· + ·) 0) := by
  rw [chunkInt, List.foldl_map]

section Multiply

variable {s : State} {v : View} {k : Nat} {c : Cmd} {w : MC} {ga gb : Glyph} {j : Nat} {ea eb : Nat → Nat → Nat × Nat}

/-- The places of K in a chunk. -/
def chunkKs (ga gb : Glyph) (w : MC) (j : Nat) : List Nat :=
  (List.range (min (chunkSize ga gb) (w.kk.toNat - chunkSize ga gb * j))).map (fun i => chunkSize ga gb * j + i)

/-- The accumulator that a chunk starts from. -/
def chunkStart (s : State) (k : Nat) (c : Cmd) (w : MC) (j m n : Nat) : BitVec 32 :=
  if startsZero c.word && decide (j = 0) then 0 else s.tile k w.acc.toNat m n

variable (ha : ∀ m < 256, ∀ i ∈ chunkKs ga gb w j, s.matrixElem v ga (opA c w m i).1 (opA c w m i).2 = .ok (ea m i))
  (hb : ∀ n < 512, ∀ i ∈ chunkKs ga gb w j, s.matrixElem v gb (opB c w i n).1 (opB c w i n).2 = .ok (eb n i))
include ha hb

theorem operandRows :
    State.mulChunk.rows s v ga (fun m => (chunkKs ga gb w j).map (opA c w m)) (List.range 256) =
        .ok ((List.range 256).map (fun m => (chunkKs ga gb w j).map (ea m))) ∧
      State.mulChunk.rows s v gb (fun n => (chunkKs ga gb w j).map (fun i => opB c w i n)) (List.range 512) =
        .ok ((List.range 512).map (fun n => (chunkKs ga gb w j).map (eb n))) :=
  ⟨rows_ok (fun m hm => matrixElems_ok (ha m (List.mem_range.mp hm))), rows_ok (fun n hn => matrixElems_ok (hb n (List.mem_range.mp hn)))⟩

theorem mulChunk_float {x : MC} (hw : c.word = .mma x ∨ c.word = .mmb x ∨ c.word = .mmaz x) :
    ∃ f fl, s.mulChunk v k c w ga gb j = .ok (s.setTile k w.acc.toNat f, arrayFlags fl) ∧
      ∀ m < 256, ∀ n < 512, f m n = sum32 (chunkStart s k c w j m n) (BitVec.ofNat 32 (componentRound
        ((chunkKs ga gb w j).map (fun i => prod false (elemVal ga (ea m i)) (elemVal gb (eb n i)))) fF32 0 false).1) := by
  obtain ⟨hra, hrb⟩ := operandRows ha hb
  unfold chunkKs at hra hrb
  obtain hw | hw | hw := hw
  all_goals
    simp only [State.mulChunk, hra, hrb, Try.ok_bind, hw]
    refine ⟨_, _, rfl, fun m hm n hn => ?_⟩
    rw [chunkFloat_fst, zip_rows _ _ ea eb _ hm hn, List.map_map, chunkStart, hw]
    rfl

theorem mulChunk_int {x : MC} (hw : c.word = .mmi x) :
    ∃ f, s.mulChunk v k c w ga gb j = .ok (s.setTile k w.acc.toNat f, 0) ∧
      ∀ m < 256, ∀ n < 512, f m n = chunkStart s k c w j m n +
        BitVec.ofInt 32 (((chunkKs ga gb w j).map (fun i => elemInt ga (ea m i) * elemInt gb (eb n i))).foldl (· + ·) 0) := by
  obtain ⟨hra, hrb⟩ := operandRows ha hb
  unfold chunkKs at hra hrb
  simp only [State.mulChunk, hra, hrb, Try.ok_bind, hw]
  refine ⟨_, rfl, fun m hm n hn => ?_⟩
  rw [chunkInt_eq, zip_rows _ _ ea eb _ hm hn, List.map_map, chunkStart, hw]
  rfl

end Multiply

section MultiplyUnits

variable {s : State} {v : View} {t : Task} {c : Cmd} {w : MC} {ga gb : Glyph} {j : Nat}

theorem soundUnit_mul (hw : c.word = .mma w ∨ c.word = .mmb w ∨ c.word = .mmaz w ∨ c.word = .mmi w) :
    s.soundUnit v t c [ga, gb] j = s.mulChunk v (clusterOf t.core) c w ga gb j := by
  unfold State.soundUnit
  obtain hw | hw | hw | hw := hw <;> rw [hw]

end MultiplyUnits

theorem multiplyResults : MultiplyResults := by
  intro s v t c w ga gb j ea eb size ks ha hb tile chunk whole
  refine ⟨fun hw => ?_, fun hw => ?_, fun hw => ?_⟩
  · obtain ⟨f, fl, hu, hf⟩ := mulChunk_float (k := clusterOf t.core) ha hb (hw.imp_right .inl)
    refine tileGets_tile ((soundUnit_mul (hw.imp_right .inl)).trans hu) (arrayFlags_masked _) (fun m hm n hn => (hf m hm n hn).trans ?_)
    obtain hw | hw := hw <;> rw [chunkStart, hw] <;> rfl
  · obtain ⟨f, fl, hu, hf⟩ := mulChunk_float (k := clusterOf t.core) ha hb (.inr (.inr hw))
    refine tileGets_tile ((soundUnit_mul (.inr (.inr (.inl hw)))).trans hu) (arrayFlags_masked _) (fun m hm n hn => (hf m hm n hn).trans ?_)
    simp only [chunkStart, hw, startsZero, Bool.true_and, decide_eq_true_eq]
    rfl
  · obtain ⟨f, hu, hf⟩ := mulChunk_int (k := clusterOf t.core) ha hb hw
    refine tileGets_tile ((soundUnit_mul (.inr (.inr (.inr hw)))).trans hu) BitVec.zero_and (fun m hm n hn => (hf m hm n hn).trans ?_)
    simp only [chunkStart, hw, startsZero, Bool.and_eq_true, decide_eq_true_eq, and_comm]
    rfl

/-! ## MLD (R274) -/

theorem mldValue_fst (ty e : Nat) :
    (mldValue ty e).1 = if ty = 11 ∨ ty = 12 then BitVec.ofNat 32 (roundVal fF32 0 false ((fmtOf ty).value e)).1
      else BitVec.ofNat 32 e := by
  unfold mldValue
  split <;> rfl

theorem soundUnit_mld {s : State} {v : View} {t : Task} {c : Cmd} {w : MC} {g : Glyph} {r : Nat} (hw : c.word = .mld w) :
    s.soundUnit v t c [g] r = s.mldRow v (clusterOf t.core) c w g r := by
  unfold State.soundUnit
  rw [hw]

/-- A row of MLD whose elements can be read. -/
theorem mldRow_ok {s : State} {v : View} {k : Nat} {c : Cmd} {w : MC} {g : Glyph} {r : Nat} {e : Nat → Nat × Nat}
    (he : ∀ n < 512, s.matrixElem v g (tileCoords c w r n).1 (tileCoords c w r n).2 = .ok (e n)) :
    ∃ f fl, s.mldRow v k c w g r = .ok (s.setRow k w.acc.toNat r f, arrayFlags fl) ∧
      ∀ n < 512, f n = (mldValue g.ty (e n).1).1 := by
  have hes := matrixElems_ok (f := tileCoords c w r) (is := List.range 512) (fun n hn => he n (List.mem_range.mp hn))
  simp only [State.mldRow, hes, Try.ok_bind]
  refine ⟨_, _, rfl, fun n hn => ?_⟩
  rw [List.getD_eq_getElem?_getD, List.map_map, List.getElem?_map, List.getElem?_range hn]
  rfl

theorem loadResults : LoadResults := by
  intro s v t c w g r e hr hw he
  obtain ⟨f, fl, hu, hf⟩ := mldRow_ok (k := clusterOf t.core) he
  exact tileGets_row hr ((soundUnit_mld hw).trans hu) (arrayFlags_masked _) (fun n hn => (hf n hn).trans (mldValue_fst _ _))

/-! ## MST (R275) -/

section Store

variable {s : State} {v : View} {t : Task} {c : Cmd} {w : MC} {g : Glyph} {r : Nat}

theorem soundUnit_mst (hw : c.word = .mst w) (hmx : g.mx = 0) :
    s.soundUnit v t c [g] r = s.mstRow v (clusterOf t.core) c w g r := by
  unfold State.soundUnit
  rw [hw]
  exact if_pos hmx

/-- The element writes of a row of MST: those of its elements in the range of the glyph. -/
theorem mstRow_eq (k : Nat) :
    ∃ fl, s.mstRow v k c w g r = (s.writeTogether v g 0
        (((List.range 512).filter (fun n => g.inRange (tileCoords c w r n))).map (fun n =>
          (g.offset [(tileCoords c w r n).1, (tileCoords c w r n).2, 0, 0, 0], (mstValue w g.ty (s.tile k w.acc.toNat r n)).1)))) >>=
      fun u => .ok (u, arrayFlags fl) := by
  simp only [State.mstRow, State.putElems, List.filter_map, List.map_map]
  exact ⟨_, rfl⟩

end Store

theorem storeResults : StoreResults := by
  intro s v t c w g
  refine ⟨fun r hw hmx hbad => ?_, fun rnd e es ps a b hin => ?_⟩
  · intro rnd sat wide stored cells u hu
    have hstored : ∀ x, (mstValue w g.ty x).1 = stored x := by
      intro x
      simp only [mstValue, stored]
      cases w.cfn.getLsbD 0 <;> cases typeFloat g.ty <;> rfl
    obtain ⟨fl, hrow⟩ := mstRow_eq (s := s) (v := v) (c := c) (w := w) (g := g) (r := r) (clusterOf t.core)
    simp only [hstored] at hrow
    refine ⟨arrayFlags fl, ?_, arrayFlags_masked fl⟩
    rw [commandUnit_of_sound hbad, soundUnit_mst hw hmx, hrow, hu, Try.ok_bind]
  · intro q at_ hc hp hw
    refine ⟨_, ?_, arrayFlags_masked q.2.2⟩
    have hall : (e :: es).filter (fun x => g.inRange x.1) = e :: es := List.filter_eq_self.mpr hin
    simp only [State.mstBlock, hall]
    rw [hc, Try.ok_bind, hp, Try.ok_bind, hw, Try.ok_bind]

/-- Settles O33. -/
theorem tileResults : Obligations.TileResults := ⟨rowResults, multiplyResults, loadResults, storeResults⟩

end Sys2Proof.Proofs
end

section
/-! PROOFS. Landings, replays, queue arrivals and returns of loads (R21, R138, R141, R254, R353, R367, R370). -/

namespace Sys2Proof.Proofs

open Sys2Proof Sys2Proof.Machine Sys2Proof.Claims

/-! ## What a step that is no word answers -/

section Events

variable {s u : State} {f : State → Try State}

theorem event_completes (h : f s = .ok u) : s.event f = .next u := by
  rw [State.event, h]; rfl

theorem event_waits (h : f s = .error .hold) : s.event f = .next s.held := by
  rw [State.event, h]; rfl

theorem event_pends (h : f s = .error (.pend u)) : s.event f = .next u.held := by
  rw [State.event, h]; rfl

/-- A step that needs a task finds it. -/
theorem argTask_ok {t : Task} (h : s.task? s.arg.x = some t) : s.argTask = .ok (s.arg.x, t) := by
  rw [State.argTask, h]; rfl

end Events

/-! ## Landings (R21, R254, R353) -/

section Landings

variable {s : State} {t u : Task} {e : Effect}

theorem nextDue_ok {pick : Effect → Bool} (h : t.nextLanding (s.cyc t.core) = some (e, u)) (hp : pick e = true) :
    s.nextDue t pick = .ok (e, u) := by
  simp only [State.nextDue, h, need_some, Try.ok_bind, hp, await_true]

theorem xLanding_lands (ht : s.task? s.arg.x = some t) (h : t.nextLanding (s.cyc t.core) = some (e, u)) (hp : e.push? = none)
    (hr : e.replay = false) : exec .xLanding s = .next (s.setTask s.arg.x (u.land e)) := by
  refine (event_completes ?_ : execXLanding s = _)
  simp only [argTask_ok ht, Try.ok_bind, nextDue_ok (pick := fun e => !e.replay && e.push?.isNone) h (by rw [hp, hr]; rfl)]

theorem replay_lands (ht : s.task? s.arg.x = some t) (h : t.nextLanding (s.cyc t.core) = some (e, u)) (hp : e.push? = none)
    (hr : e.replay = true) : exec .pendingWriteReplay s = .next (s.setTask s.arg.x (u.land e)) := by
  refine (event_completes ?_ : execPendingWriteReplay s = _)
  simp only [argTask_ok ht, Try.ok_bind, nextDue_ok (pick := fun e => e.replay && e.push?.isNone) h (by rw [hp, hr]; rfl)]

theorem vpush_arrives (ht : s.task? s.arg.x = some t) (h : t.nextLanding (s.cyc t.core) = some (e, u)) (hp : e.push? ≠ none) :
    exec .vpushArrival s = .next (s.setTask s.arg.x (u.land e)) := by
  refine (event_completes ?_ : execVpushArrival s = _)
  simp only [argTask_ok ht, Try.ok_bind, nextDue_ok (pick := fun e => e.push?.isSome) h (Option.isSome_iff_ne_none.mpr hp)]

end Landings

/-! ## Returns of loads (R138, R370) -/

section Returns

variable {regs : SMap Word} {ls : List Load} {l : Load} {i n : Nat}

theorem returnLoad_eq (h : ls[i]? = some l) (hr : l.returned = false) (ht : l.tag = none) (hd : l.dst = .reg n) :
    returnLoad i regs ls = if l.bad then .ok (regs, ls.set i { l with returned := true })
      else .ok (if n = 0 then regs else regs.set 0 n l.val, ls.eraseIdx i) := by
  simp only [returnLoad, h, hr, ht, hd, need_some, Option.isNone_none, Bool.not_false, Bool.and_self, await_true, Try.ok_bind]

theorem loadReturn_task {s : State} {t : Task} {r : SMap Word × List Load} (ht : s.task? s.arg.x = some t) (hy : s.arg.y ≠ 1)
    (hl : t.loads[s.arg.z]? = some l) (h : returnLoad s.arg.z t.regs t.loads = .ok r) :
    exec .loadReturn s = .next ((s.measureLoad t.core l).setTask s.arg.x { t with regs := r.1, loads := r.2 }) := by
  refine (event_completes ?_ : execLoadReturn s = _)
  simp only [if_neg hy, argTask_ok ht, h, hl, Try.ok_bind]

/-- R367: only an LDX that a squash has kept from its data is read again. -/
theorem freshLoad_of_read {s : State} {id : Nat} (h : l.bad = true ∨ l.vec ≠ [] ∨ l.again = none) : s.freshLoad id l = .ok l := by
  unfold State.freshLoad
  split
  · next hb hv ha =>
    obtain h | h | h := h
    · rw [hb] at h; cases h
    · exact absurd hv h
    · rw [ha] at h; cases h
  · rfl

theorem arg_measureLoad (s : State) (core : Nat) (l : Load) : (s.measureLoad core l).arg = s.arg := by
  rw [State.measureLoad_eq]

theorem xqEntryArrival_eq {s : State} {t : Task} {m : Load} {q k : Nat} (ht : s.task? s.arg.x = some t)
    (hl : t.loads[s.arg.z]? = some l) (hr : l.returned = false) (hres : t.isResident = true) (hm : s.freshLoad s.arg.x l = .ok m)
    (hd : m.dst = .xq q k) :
    exec .xqEntryArrival s = .next ((s.measureLoad t.core m).setTask s.arg.x
      (if m.bad then { t with loads := t.loads.set s.arg.z { m with returned := true } }
        else { t with xq := t.xq.set [] q (fillEntry k m.vec (t.xq.get [] q)), loads := t.loads.eraseIdx s.arg.z })) := by
  refine (event_completes ?_ : execXqEntryArrival s = _)
  simp only [argTask_ok ht, hl, hr, hres, hm, hd, need_some, Bool.not_false, Bool.and_self, await_true, Try.ok_bind]
  rw [apply_ite ((s.measureLoad t.core m).setTask s.arg.x), arg_measureLoad, apply_ite Except.ok]

end Returns

/-! ## A load with a lasting error (R370) -/

section BadLoads

variable {s : State} {t : Task} {l : Load}

theorem newRecords_append {u s : State} {r : Record} (h : u.records = s.records ++ [r]) (f : Record → Record) :
    (u.newRecords s f).records = s.records ++ [f r] := by
  rw [State.newRecords, h]
  simp only [List.take_left, List.drop_left, List.map_cons, List.map_nil]

theorem uncorrectableLoad_delivered (ht : s.task? s.arg.x = some t) (hrun : t.run = .running) (hres : t.isResident = true)
    (hsav : t.saving = false) (hbad : t.badLoad = some l) (hc : l.cause = .uncorrectable) :
    ∃ u, exec .uncorrectableLoadDelivery s = .next u ∧
      u.records = s.records ++ [{ s.taskRecord s.arg.x t .a .uncorrectable l.pc l.badAt t.sa.pc.toNat with
        src := .load s.arg.x l.id, path := l.path }] ∧
      ∃ t', u.task? s.arg.x = some t' ∧ t'.run = .onRecord := by
  have htrap := State.trapTask_record (s.setTask s.arg.x { t with meetsBad := none }) s.arg.x .a { t with meetsBad := none } l.cause
    l.pc l.badAt t.sa.pc.toNat (SMap.find?_put_self _ _ _) (by rw [hc]; rfl)
  have hexec : execUncorrectableLoadDelivery s = .next (((s.setTask s.arg.x { t with meetsBad := none }).trapTask s.arg.x .a l.cause
      l.pc l.badAt t.sa.pc.toNat).newRecords s (fun r => { r with src := .load s.arg.x l.id, path := l.path })) := by
    refine event_completes ?_
    simp only [argTask_ok ht, decide_eq_true hrun, hres, hsav, hbad, need_some, Bool.not_false, Bool.and_self, await_true, Try.ok_bind]
  refine ⟨_, hexec, ?_, ?_⟩
  · refine (newRecords_append (s := s) (congrArg State.records htrap) _).trans ?_
    rw [hc]
    rfl
  · rw [htrap]
    exact ⟨_, SMap.find?_put_self _ _ _, (parkOnRecord_stops _ _ _ _ _).1⟩

theorem find?_eq_of_agree {α : Type} {p q : α → Bool} {xs : List α} (h : ∀ x ∈ xs, p x = q x) : xs.find? p = xs.find? q := by
  induction xs with
  | nil => rfl
  | cons x xs ih =>
    rw [List.find?_cons, List.find?_cons, h x List.mem_cons_self, ih (fun y hy => h y (List.mem_cons_of_mem x hy))]

/-- Where no failed load holds up a section, the one that A has met is delivered. -/
theorem badLoad_of_met {n : Nat} (hm : t.meetsBad = some n)
    (hleft : ∀ m ∈ t.loads, m.bad = true → m.returned = true → t.sa.left.head? ≠ some m.sec)
    (hf : t.loads.find? (fun l => l.bad && l.returned && decide (l.id = n)) = some l) : t.badLoad = some l := by
  rw [Task.badLoad, ← hf]
  refine find?_eq_of_agree (fun m hin => ?_)
  cases hb : m.bad
  · rfl
  cases hr : m.returned
  · rfl
  rw [hm, decide_eq_false (hleft m hin hb hr), Bool.or_false]
  simp only [Option.some.injEq, eq_comm]

end BadLoads

theorem taskLandings : TaskLandings := by
  intro s t ht
  dsimp only
  refine ⟨fun e u h => ⟨xLanding_lands ht h, replay_lands ht h, vpush_arrives ht h⟩, fun l hl hr htag => ⟨fun n hd hy => ?_,
    freshLoad_of_read, fun q n m hm hd hres => ⟨fun hb => ?_, fun hb => ?_⟩⟩,
    fun l hrun hres hsav hbad hc => uncorrectableLoad_delivered ht hrun hres hsav hbad hc, fun n l hm hleft hf => badLoad_of_met hm hleft hf⟩
  · have hret := returnLoad_eq (regs := t.regs) hl hr htag hd
    refine ⟨fun hb hn => ?_, fun hb hn => ?_, fun hb => ?_⟩
    · rw [if_neg (Bool.eq_false_iff.mp hb), if_neg hn] at hret
      exact loadReturn_task ht hy hl hret
    · rw [if_neg (Bool.eq_false_iff.mp hb), if_pos hn] at hret
      exact loadReturn_task ht hy hl hret
    · rw [if_pos hb] at hret
      exact loadReturn_task ht hy hl hret
  · rw [xqEntryArrival_eq ht hl hr hres hm hd, if_neg (Bool.eq_false_iff.mp hb)]
    rfl
  · rw [xqEntryArrival_eq ht hl hr hres hm hd, if_pos hb]

theorem rubricatorLoadReturn : RubricatorLoadReturn := by
  intro s l n hy hl hr htag hd hb hn
  have hret := returnLoad_eq (regs := s.rub.regs) hl hr htag hd
  rw [if_neg (Bool.eq_false_iff.mp hb), if_neg hn] at hret
  refine (event_completes ?_ : execLoadReturn s = _)
  rw [if_pos hy, hret, Try.ok_bind]

/-- Settles O34. -/
theorem landingsAndReturns : Obligations.LandingsAndReturns := ⟨taskLandings, rubricatorLoadReturn⟩

end Sys2Proof.Proofs
end

section
/-! PROOFS. Headers, their waits and the retirement of sections; the choice of the X engine (R79 to R85, R193, R257, R341 to R343). -/

namespace Sys2Proof.Proofs

open Sys2Proof Sys2Proof.Machine Sys2Proof.Claims

/-! ## Headers (R79 to R85) -/

section Headers

variable {s : State} {t : Task} {st : Stream} {bs : List Byte}

theorem core_setStream (t : Task) (st : Stream) (v : StreamSt) : (t.setStream st v).core = t.core := by
  cases st <;> rfl

/-- The stream `arg.y` of task `arg.x` stands before a header that it may enter, and the header's bytes are `bs` (R81, R193). -/
structure BeforeHeader (s : State) (t : Task) (bs : List Byte) : Prop where
  there : s.task? s.arg.x = some t
  live : t.live = true
  phase : (t.stream (streamOf s.arg.y)).phase = .header
  goes : (t.stream (streamOf s.arg.y)).stopped = false
  room : (t.stream (streamOf s.arg.y)).left.length < 16
  turn : streamOf s.arg.y ≠ .x ∨ t.xNext ≤ s.cyc t.core
  bytes : s.fetch s.arg.x t.core t.asid (streamOf s.arg.y).code (t.stream (streamOf s.arg.y)).pc 8 = .ok bs

theorem headerEntry_eq (h : BeforeHeader s t bs) :
    exec .headerEntry s = .next (
      let st := streamOf s.arg.y
      let v := t.stream st
      let u := t.setStream st (v.enter (BitVec.ofNat 64 (leNat bs)))
      if headerBad (leNat bs) then s.trapTask s.arg.x st .sectionFormat v.pc 0 0
      else if bits (leNat bs) 13 1 = 1 ∧ t.yields = true then s.setTask s.arg.x (t.setStream st { v with stopped := true })
      else if u.waitsHold st (s.cyc t.core) then s.startSection s.arg.x u st
      else (s.setTask s.arg.x u).trapNever s.arg.x) := by
  have hturn : (decide (streamOf s.arg.y ≠ .x) || decide (t.xNext ≤ s.cyc t.core)) = true := by
    simpa only [Bool.or_eq_true, decide_eq_true_eq] using h.turn
  refine (event_completes ?_ : execHeaderEntry s = _)
  simp only [argTask_ok h.there, h.live, h.phase, h.goes, h.room, hturn, h.bytes, decide_true, Bool.not_false, Bool.and_self, await_true,
    Try.ok_bind]
  simp only [apply_ite (Except.ok (ε := Stop))]

theorem startSection_eq (s : State) (id : Nat) (t u : Task) (st : Stream) (hc : u.core = t.core) :
    s.startSection id u st = (s.setTask id (u.setStream st { u.stream st with phase := .words, pc := (u.stream st).hdr + 2 })).ordered
      (fun o => o.begin id st (u.stream st).sec ((u.headerWaits st).foldl (fun a w =>
        a.join (o.fromParts id w.1 ((u.stream w.1).retiredSeen (s.cyc t.core)))) Know.none)) := by
  rw [State.startSection, hc]
  rfl

theorem headerBad_of (h : Nat) (hb : bits h 60 4 ≠ 9 ∨ bits h 48 12 = 0 ∨ bits h 0 13 ≠ 0) : headerBad h = true := by
  simp only [headerBad, Bool.or_eq_true, decide_eq_true_eq, or_assoc]
  exact hb.imp_right (Or.imp_right .inl)

theorem headerWaitRelease_starts (ht : s.task? s.arg.x = some t) (hl : t.live = true)
    (hp : (t.stream (streamOf s.arg.y)).phase = .waiting) (hg : (t.stream (streamOf s.arg.y)).stopped = false)
    (hw : t.waitsHold (streamOf s.arg.y) (s.cyc t.core) = true) :
    exec .headerWaitRelease s = .next (s.startSection s.arg.x t (streamOf s.arg.y)) := by
  refine (event_completes ?_ : execHeaderWaitRelease s = _)
  simp only [argTask_ok ht, hl, hp, hg, hw, decide_true, Bool.not_false, Bool.and_self, await_true, Try.ok_bind, if_true]

theorem headerWaitRelease_traps (ht : s.task? s.arg.x = some t) (hl : t.live = true)
    (hp : (t.stream (streamOf s.arg.y)).phase = .waiting) (hg : (t.stream (streamOf s.arg.y)).stopped = false)
    (hw : t.waitsHold (streamOf s.arg.y) (s.cyc t.core) = false) (hn : t.neverWaits = some (streamOf s.arg.y)) :
    exec .headerWaitRelease s =
      .next (s.trapTask s.arg.x (streamOf s.arg.y) .sectionFormat (t.stream (streamOf s.arg.y)).pc 0 0) := by
  refine (event_completes ?_ : execHeaderWaitRelease s = _)
  simp only [argTask_ok ht, hl, hp, hg, hw, hn, decide_true, Bool.not_false, Bool.and_self, await_true, Try.ok_bind,
    if_neg Bool.false_ne_true]

end Headers

/-! ## Retirement (R83, R45, R257) -/

section Retirement

variable {s : State} {t u : Task} {n : BitVec 16} {rest : List (BitVec 16)}
  (ht : s.task? s.arg.x = some t) (hl : (t.stream (streamOf s.arg.y)).left = n :: rest) (hr : t.run ≠ .retired) (hf : t.run ≠ .faulted)
  (hd : t.sectionDone (streamOf s.arg.y) n = true)
  (hu : t.setStream (streamOf s.arg.y) ((t.stream (streamOf s.arg.y)).retire (s.cyc t.core)) = u)
include ht hl hr hf hd hu

theorem sectionRetirement_goesOn (ho : u.over = false) :
    exec .sectionRetirement s = .next
      ((if streamOf s.arg.y = .m ∧ u.sm.final = true then (s.dropLease s.arg.x).setTask s.arg.x { u with lease := 0, leaseSaved := none }
        else s.setTask s.arg.x u).trapNever s.arg.x) := by
  refine (event_completes ?_ : execSectionRetirement s = _)
  simp only [argTask_ok ht, hl, List.head?_cons, need_some, decide_eq_true hr, decide_eq_true hf, hd, Bool.and_self, await_true, Try.ok_bind,
    hu, ho, if_neg Bool.false_ne_true]

theorem sectionRetirement_ends (ho : u.over = true) (hlive : t.live = true) (htrap : t.trapDue = false) (hc : t.cmds = []) :
    exec .sectionRetirement s = .next ((s.setTask s.arg.x u).retireTask s.arg.x) := by
  refine (event_completes ?_ : execSectionRetirement s = _)
  simp only [argTask_ok ht, hl, List.head?_cons, need_some, decide_eq_true hr, decide_eq_true hf, hd, Bool.and_self, await_true, Try.ok_bind,
    hu, ho, if_true, hlive, htrap, decide_eq_true hc, Bool.not_false]

end Retirement

theorem sectionEvents : SectionEvents := by
  intro s t ht
  dsimp only
  refine ⟨fun bs hl hp hg hroom hturn hb => ?_, fun hl hp hg => ⟨fun hw => ?_, fun hw hn => ?_⟩, fun n rest hleft hr hf hd => ?_⟩
  · have hexec := headerEntry_eq (bs := bs) ⟨ht, hl, hp, hg, hroom, hturn, hb⟩
    dsimp only at hexec
    refine ⟨fun hbad => ?_, fun hok hy hyields => ?_, fun hok hy hw => ?_, fun hok hy hw => ?_⟩
    · exact hexec.trans (congrArg _ (if_pos (headerBad_of _ hbad)))
    · rw [if_neg (Bool.eq_false_iff.mp hok), if_pos ⟨hy, hyields⟩] at hexec
      exact hexec
    · have hno : ¬(bits (leNat bs) 13 1 = 1 ∧ t.yields = true) := fun ⟨h1, h2⟩ => by
        obtain h | h := hy
        · omega
        · rw [h] at h2; cases h2
      rw [if_neg (Bool.eq_false_iff.mp hok), if_neg hno] at hexec
      refine (hexec.trans (congrArg _ (if_pos hw))).trans (congrArg _ (startSection_eq s _ t _ _ (core_setStream _ _ _)))
    · have hno : ¬(bits (leNat bs) 13 1 = 1 ∧ t.yields = true) := fun ⟨h1, h2⟩ => by
        obtain h | h := hy
        · omega
        · rw [h] at h2; cases h2
      rw [if_neg (Bool.eq_false_iff.mp hok), if_neg hno] at hexec
      exact hexec.trans (congrArg _ (if_neg (Bool.eq_false_iff.mp hw)))
  · exact (headerWaitRelease_starts ht hl hp hg hw).trans (congrArg _ (startSection_eq s _ t t _ rfl))
  · exact headerWaitRelease_traps ht hl hp hg hw hn
  · have hu : (t.stream (streamOf s.arg.y)).retire (s.cyc t.core) = { t.stream (streamOf s.arg.y) with
        left := rest, retired := (t.stream (streamOf s.arg.y)).retired + 1, retiredAt := s.cyc t.core
        retiredPrev := if (t.stream (streamOf s.arg.y)).retiredAt = s.cyc t.core then (t.stream (streamOf s.arg.y)).retiredPrev
          else (t.stream (streamOf s.arg.y)).retired } := by
      rw [StreamSt.retire, hleft]
      rfl
    exact ⟨sectionRetirement_goesOn ht hleft hr hf hd (congrArg _ hu), sectionRetirement_ends ht hleft hr hf hd (congrArg _ hu)⟩

/-! ## The tests of a wait and of a retirement (R15, R83) -/

theorem marksDead_iff (e : Effect) : e.marksDead = true ↔ ∃ ks, e.dest = .dead ks := by
  unfold Effect.marksDead
  cases e.dest <;> simp

theorem sectionTests : SectionTests := by
  refine ⟨fun v count w hp => ?_, fun t n => ?_⟩
  · rw [StreamSt.meets, hp, if_neg Bool.false_ne_true, decide_eq_true_eq]
  · simp only [Task.sectionDone, List.all_eq_true, Bool.or_eq_true, decide_eq_true_eq, marksDead_iff, ne_eq]
    exact forall₂_congr (fun e _ => Classical.or_iff_not_imp_left.trans (by rw [Classical.not_not]))

/-! ## The X engine (R341 to R343) -/

theorem mem_leastBy {f : Candidate → Nat} {cs : List Candidate} {c : Candidate} :
    c ∈ leastBy f cs ↔ c ∈ cs ∧ ∀ d ∈ cs, f c ≤ f d := by
  simp only [leastBy, List.mem_filter, List.all_eq_true, decide_eq_true_eq]

/-- R342: the stream chosen is one of the highest effective priority. -/
theorem mem_of_chooseStream {last mark : Nat} {cs : List Candidate} {c : Candidate} (h : chooseStream last mark cs = some c) :
    c ∈ leastBy (fun c => 3 - c.prio) cs := by
  unfold chooseStream at h
  have hpref := (mem_leastBy.mp (List.mem_of_head? h)).1
  split at hpref
  · exact hpref
  · split at hpref
    · exact (mem_leastBy.mp hpref).1
    · split at hpref
      · exact (mem_leastBy.mp hpref).1
      · exact hpref

theorem xEngineChoice : XEngineChoice := by
  intro s c cs h
  refine ⟨(event_completes ?_ : execXIssue s = _), mem_leastBy.mp (mem_of_chooseStream h)⟩
  simp only [show chooseStream (s.core s.arg.x).lastX (s.cluster (clusterOf s.arg.x)).mark (s.xCandidates s.arg.x) = some c from h]
  rfl

/-- Settles O35. -/
theorem sectionAndEngineEvents : Obligations.SectionAndEngineEvents := ⟨sectionEvents, sectionTests, xEngineChoice⟩

end Sys2Proof.Proofs
end

section
/-! PROOFS. Copies and the bytes they write, array commands, leases, and the vectors of stream registers (R152 to R159, R258 to R266). -/

namespace Sys2Proof.Proofs

open Sys2Proof Sys2Proof.Machine Sys2Proof.Claims

/-! ## Chunks of copies (R152, R153, R318) -/

section Chunks

variable {s u : State} {c : Copy} {i : Instr} {id k : Nat}

/-- The two steps in which a chunk lands. -/
theorem exec_of_chunkStep (hf : SMap.find? s.arg.x s.copies = some c)
    (hi : (i = .copyChunkLanding ∧ s.arg.z = 0) ∨ (i = .pagedWrite ∧ (glyphOf c.dst).paged = true)) :
    exec i s = .next (s.eventEnd (s.landChunk s.arg.x s.arg.y c)) := by
  obtain ⟨rfl, hz⟩ | ⟨rfl, hp⟩ := hi
  · refine (congrArg (fun r => Host.Outcome.next (s.eventEnd r)) ?_ : execCopyChunkLanding s = _)
    simp only [hf, need_some, Try.ok_bind, if_pos hz]
  · refine (congrArg (fun r => Host.Outcome.next (s.eventEnd r)) ?_ : execPagedWrite s = _)
    simp only [hf, need_some, Try.ok_bind, hp, await_true]

theorem mayLand_test (h : MayLand c k) :
    (!c.stopped && !c.squashed && decide (k < c.chunks) && !c.landed.contains k && decide (k < c.frontier + 4096)) = true := by
  obtain ⟨hs, hq, hk, hl, hf⟩ := h
  simp [hs, hq, hk, hl, hf]

/-- A chunk that asks nothing of another tower runs in one step. -/
theorem landChunk_runs (h : MayLand c k) (hr : s.chunkRequests id k = []) :
    s.landChunk id k c = match s.runChunk id k c with
      | .error (.trap cause va) => .ok ((if va = 0 then s else s.dropFailed va).stopCopy id k c cause va false)
      | .error (.parity _) => .ok (s.stopCopy id k c .uncorrectable 0 false)
      | r => r := by
  simp only [State.landChunk, mayLand_test h, await_true, Try.ok_bind, hr] <;> rfl

theorem landChunk_ok (h : MayLand c k) (hr : s.chunkRequests id k = []) (hc : s.runChunk id k c = .ok u) :
    s.landChunk id k c = .ok u := by
  rw [landChunk_runs h hr, hc]

theorem landChunk_stops (h : MayLand c k) (hr : s.chunkRequests id k = []) {cause : Cause}
    (hc : s.runChunk id k c = .error (.trap cause 0)) : s.landChunk id k c = .ok (s.stopCopy id k c cause 0 false) := by
  rw [landChunk_runs h hr, hc]
  rfl

/-- The responses of a chunk's requests have all come, one of them to its arrival: it is done. -/
theorem landChunk_done (h : MayLand c k) (hne : s.chunkRequests id k ≠ [])
    (hans : ∀ r ∈ s.chunkRequests id k, ∃ v, r.2.answer = some (.ok v))
    (harr : ∃ r ∈ s.chunkRequests id k, ∃ h n wake fwd chunk, r.2.op = .arrive h n wake fwd chunk) :
    s.landChunk id k c =
      .ok ({ s with remotes := s.remotes.filter (fun r => decide (r.2.asker ≠ Asker.copy id k)) }.chunkDone id k) := by
  obtain ⟨r, rs, hrs⟩ := List.exists_cons_of_ne_nil hne
  simp only [State.landChunk, mayLand_test h, await_true, Try.ok_bind, hrs]
  rw [hrs] at hans harr
  have hall : (r :: rs).all (fun r => r.2.answer.isSome) = true := List.all_eq_true.mpr (fun x hx => by
    obtain ⟨v, hv⟩ := hans x hx
    rw [hv]; rfl)
  rw [hall, await_true, Try.ok_bind, List.findSome?_eq_none_iff.mpr (fun x hx => by
    obtain ⟨v, hv⟩ := hans x hx
    rw [hv])]
  refine if_pos (List.any_eq_true.mpr ?_)
  obtain ⟨x, hx, b, n, wake, fwd, chunk, hop⟩ := harr
  exact ⟨x, hx, by rw [hop]⟩

/-- R318: an element is written ahead of its chunk. -/
theorem landEarly_writes {f j : Nat} {xs : List Nat} {near : _ × _} {one : List (Nat × Nat × Nat)} {t : State} (h : MayLand c k)
    (hk : c.kind ≠ .vecIn) (hd : (glyphOf c.dst).paged = false) (hs : (glyphOf c.src).paged = false) (hm : s.chunkMisuse c = false)
    (hw : s.windowClear c = true) (hr : s.chunkRequests id k = [])
    (hj : ((c.chunk k).filter (fun f => !c.early.contains f))[j]? = some f)
    (hx : s.copySource c ((c.chunk k).filter (fun f => !c.early.contains f)) = .ok xs)
    (hp : s.remoteParts c ((c.chunk k).filter (fun f => !c.early.contains f)) xs = .ok near) (hn : s.landNear c near.1 = .ok u)
    (h1 : s.remoteParts c [f] [xs.getD j 0] = .ok (one, [])) (ht : s.landNear c one = .ok t) :
    s.landEarly id k j c = .ok { s.landed t id k with
      copies := t.copies.adjust id (fun c => { c with early := c.early ++ [f] }) } := by
  have htest : (!c.stopped && !c.squashed && decide (k < c.chunks) && !c.landed.contains k && decide (k < c.frontier + 4096) &&
      decide (c.kind ≠ .vecIn) && !(glyphOf c.dst).paged && !(glyphOf c.src).paged && !s.chunkMisuse c && s.windowClear c &&
      (s.chunkRequests id k).isEmpty) = true := by
    rw [mayLand_test h, decide_eq_true hk, hd, hs, hm, hw, hr]
    rfl
  simp only [State.landEarly, htest, await_true, hj, need_some, hx, hp, hn, h1, ht, List.isEmpty_nil, Try.ok_bind]

end Chunks

theorem copyEvents : CopyEvents := by
  intro s c hf hmay
  dsimp only
  refine ⟨fun i hi => ⟨fun hr => ⟨fun u hu => ?_, fun cause hc => ?_⟩, fun hne hans harr => ?_⟩,
    fun f xs near one t u hz hk hd hs hm hw hr hj hx hp hn h1 ht => ?_⟩
  · rw [exec_of_chunkStep hf hi, landChunk_ok hmay hr hu]
    rfl
  · rw [exec_of_chunkStep hf hi, landChunk_stops hmay hr hc]
    exact ⟨_, rfl, rfl, SMap.find?_put_self _ _ _⟩
  · rw [exec_of_chunkStep hf hi, landChunk_done hmay hne hans harr]
    rfl
  · refine (event_completes ?_ : execCopyChunkLanding s = _)
    rw [hf, need_some, Try.ok_bind, if_neg hz, landEarly_writes hmay hk hd hs hm hw hr hj hx hp hn h1 ht]

/-! ## The bytes of a chunk (R152, R155, R156) -/

section Bytes

variable {s u : State} {c : Copy}

theorem runChunk_of_plain {id k : Nat} {xs : List Nat} (hk : c.kind = .box ∨ c.kind = .fill ∨ c.kind = .vecOut) (hw : c.wash = false)
    (he : c.early = []) (hd : (glyphOf c.dst).paged = false) (hm : s.chunkMisuse c = false) (hc : s.windowClear c = true)
    (hx : s.copySource c (c.chunk k) = .ok xs) (hr : s.writeRanges (c.view true) (s.landBits c (c.chunk k) xs) = .ok u) :
    s.runChunk id k c =
      .ok ((s.landed (u.detectRuns (c.view true) (mergeBits (s.landBits c (c.chunk k) xs))) id k).chunkArrive id k c) := by
  have hin : c.kind ≠ .vecIn := by rcases hk with h | h | h <;> rw [h] <;> decide
  have hremote : c.kind ≠ .remote := by rcases hk with h | h | h <;> rw [h] <;> decide
  have hfs : (c.chunk k).filter (fun f => !c.early.contains f) = c.chunk k := by
    rw [he]
    exact List.filter_eq_self.mpr (fun _ _ => rfl)
  simp only [State.runChunk, hm, hc, hw, Bool.not_false, require_true, await_true, Bool.false_and, if_neg Bool.false_ne_true, Try.ok_bind,
    State.passChunk, hfs, hx, if_neg hin, if_neg hremote, State.landMemory, hd, State.landNear, hr]

theorem landBits_single (hm : s.ctl.mirrors = []) (f x : Nat) :
    s.landBits c [f] [x] = elemBits (glyphOf c.dst) c.dOff.toInt [(c.offset (glyphOf c.dst) f, x)] := by
  have hno : s.mayMigrate c = false := by
    rw [State.mayMigrate, hm]
    rfl
  simp only [State.landBits, List.zip_cons_cons, List.zip_nil_right, List.flatMap_cons, List.flatMap_nil, List.append_nil,
    State.landRanges, hno, if_neg Bool.false_ne_true]

theorem ceilDiv_eight_mul (n : Nat) : ceilDiv (8 * n) 8 = n := by
  unfold ceilDiv
  omega

theorem runBytes_of_bytes (a n x : Nat) : runBytes (8 * a, 8 * n, x) = (a, n) := by
  rw [runBytes, Nat.mul_div_cancel_left a (by decide), Nat.mul_mod_right, Nat.zero_add, ceilDiv_eight_mul]

/-- A run of whole bytes writes the bytes of its value. -/
theorem writeRun_of_bytes {v : View} {a n x pa : Nat} (hc : s.check v .write a n = .ok [(pa, n)]) :
    s.writeRun v (8 * a, 8 * n, x) = .ok (s.writeBytes (s.place pa).key (leBytes n (x % 2 ^ (8 * n)))) := by
  have hlo : 8 * a % 8 = 0 := Nat.mul_mod_right 8 a
  have hhi : (8 * a + 8 * n) % 8 = 0 := by omega
  have htake : (leBytes n (x % 2 ^ (8 * n))).take n = leBytes n (x % 2 ^ (8 * n)) := List.take_of_length_le (Nat.le_of_eq (length_leBytes n _))
  unfold State.writeRun
  rw [runBytes_of_bytes]
  simp only [hc, hlo, hhi, decide_true, State.edgeByte, if_true, Try.ok_bind, Nat.zero_mod, Nat.zero_div, Nat.pow_zero, Nat.mul_one,
    Nat.zero_add, Nat.zero_mul, Nat.add_zero, State.writePieces, htake]

theorem eq_of_bind_ok {α β : Type} {r : Try α} {x y : β} (h : (r >>= fun _ => (.ok x : Try β)) = .ok y) : x = y := by
  cases r with
  | ok a => exact Except.ok.inj h
  | error e => cases h

theorem range_eq_of_check {v : View} {k : Access} {va n : Nat} {ps : List (Nat × Nat)} (h : s.check v k va n = .ok ps) :
    s.range v k va n = .ok ps := by
  obtain ⟨qs, hqs⟩ := range_of_check h
  rw [State.check, hqs, Try.ok_bind] at h
  rw [hqs, eq_of_bind_ok h]

theorem byte_of_value {n j : Nat} (x : Nat) (hj : j < n) :
    (leBytes n (x % 2 ^ (8 * n))).getD j 0 = BitVec.ofNat 8 (x / 256 ^ j) := by
  have hpow : 2 ^ (8 * n) = 256 ^ j * 2 ^ (8 * (n - j)) := by
    rw [show (256 : Nat) = 2 ^ 8 from rfl, ← Nat.pow_mul, ← Nat.pow_add]
    congr 1
    omega
  rw [getD_leBytes _ hj, hpow, Nat.mod_mul_right_div_self]
  refine BitVec.eq_of_toNat_eq ?_
  rw [BitVec.toNat_ofNat, BitVec.toNat_ofNat, Nat.mod_mod_of_dvd _ (Nat.pow_dvd_pow 2 (by omega))]

theorem byte_advance (s : State) (a : Nat) : s.advance.byte a = s.byte a := by
  rw [State.byte, advance_eq]
  rfl

end Bytes

theorem chunkBytes : ChunkBytes := by
  refine ⟨fun s u id k c xs hk hw he hd hm hc hx => ?_, fun s c f x hm => landBits_single hm f x,
    fun s u v a n x pa tw y o hn hm hc hp hu => ?_⟩
  · exact runChunk_of_plain hk hw he hd hm hc hx
  · have hkey : (s.place pa).key = tw * 2 ^ 40 + o := congrArg Place.key hp
    obtain ⟨-, p, hphys⟩ := physCheck_of_check (range_eq_of_check hc) hc
    have hseal := sealedAt_of_storeCheck hp (storeCheck_of_physCheck hp hphys)
    rw [writeRun_of_bytes hc, hkey] at hu
    obtain rfl := Except.ok.inj hu
    obtain ⟨hin, hout⟩ := bytes_writeBytes (leBytes n (x % 2 ^ (8 * n))) hm hseal
    simp only [byte_advance, length_leBytes] at hin hout
    refine ⟨fun j hj => (hin j hj).trans (byte_of_value x hj), fun b hb hraw => (hout b hb hraw).1, ?_⟩
    rw [writeBytes_eq_put _ hm hseal, onlyMemory_put s _ _ hseal]
    exact ⟨rfl, rfl, rfl⟩

/-! ## Array commands (R261 to R266, R369) -/

section Commands

variable {s : State} {t : Task} {c : Cmd}

theorem theCommand_ok (h : OnArray s t c) : s.theCommand = .ok (s.arg.x, t, c) := by
  simp only [State.theCommand, h.there, h.listed, h.may, need_some, await_true, Try.ok_bind]

end Commands

theorem arrayEvents : ArrayEvents := by
  intro s t c h
  have hcmd := theCommand_ok h
  dsimp only
  refine ⟨fun hq => ?_, fun hq => ?_, fun hg => ⟨fun cause hq hne => ?_, fun hq hrun => ?_⟩, fun b hq => ?_, fun hg hrun => ?_⟩
  · refine (event_completes ?_ : execMatrixCommandComplete s = _)
    simp only [hcmd, Try.ok_bind, hq]
  · refine (event_pends ?_ : execMatrixCommandComplete s = _)
    simp only [hcmd, Try.ok_bind, hq]
  · refine (event_completes ?_ : execMatrixFetchFault s = _)
    simp only [hcmd, Try.ok_bind, hq, hg, Bool.not_false, await_true, if_neg hne, if_true]
    rfl
  · refine (event_completes ?_ : execMatrixFetchFault s = _)
    simp only [hcmd, Try.ok_bind, hq, hg, Bool.not_false, await_true, if_true, decide_eq_true hrun]
    rfl
  · refine (event_completes ?_ : execMatrixFetchFault s = _)
    simp only [hcmd, Try.ok_bind, hq]
    rfl
  · refine (event_completes ?_ : execMatrixGlyphInvalid s = _)
    simp only [hcmd, Try.ok_bind, hg, decide_eq_true hrun, Bool.and_self, await_true]
    rfl

/-! ## Leases (R258) -/

theorem eq_nil_of_firstHighest_none {rs : List (Nat × Nat × BitVec 8 × Nat)} (h : firstHighest rs = none) : rs = [] := by
  cases rs with
  | nil => rfl
  | cons a rs =>
    rw [firstHighest] at h
    split at h
    · cases h
    · split at h <;> cases h

theorem le_of_firstHighest {rs : List (Nat × Nat × BitVec 8 × Nat)} {r : Nat × Nat × BitVec 8 × Nat} (h : firstHighest rs = some r) :
    ∀ q ∈ rs, q.2.1 ≤ r.2.1 := by
  induction rs generalizing r with
  | nil => cases h
  | cons a rs ih =>
    intro q hq
    rw [firstHighest] at h
    cases hrest : firstHighest rs with
    | none =>
      rw [hrest] at h
      rw [eq_nil_of_firstHighest_none hrest, List.mem_singleton] at hq
      exact (hq.trans (Option.some.inj h)) ▸ Nat.le_refl _
    | some b =>
      rw [hrest] at h
      dsimp only at h
      obtain rfl | hq := List.mem_cons.mp hq
      · split at h
        · next hlt => exact Option.some.inj h ▸ Nat.le_of_lt hlt
        · exact Option.some.inj h ▸ Nat.le_refl _
      · have hle := ih hrest q hq
        split at h
        · exact Option.some.inj h ▸ hle
        · next hge => exact Option.some.inj h ▸ Nat.le_trans hle (Nat.not_lt.mp hge)

theorem leaseEvents : LeaseEvents := by
  intro s r t hr ht
  refine ⟨(event_completes ?_ : execLeaseGrant s = _), le_of_firstHighest hr⟩
  simp only [hr, ht, need_some, Try.ok_bind]

/-! ## Vectors of stream registers (R158, R159) -/

section Fetches

variable {s : State} {t : Task} {b : Binding}

theorem streamFetchEvents : StreamFetchEvents := by
  intro s t b ht hb hres hst hbuf htot hpo
  dsimp only
  refine ⟨fun xs b' hd => ?_, fun hd => ?_, fun cause hd => ?_⟩
  all_goals
    refine (event_completes ?_ : execStreamVectorFetch s = _)
    simp only [ht, hb, hres, hst, hpo, decide_eq_true hbuf, decide_eq_true htot, need_some, Bool.not_false, Bool.and_self, await_true,
      Try.ok_bind, hd, if_true]

end Fetches

/-- Settles O36. -/
theorem engineEvents : Obligations.EngineEvents := ⟨copyEvents, chunkBytes, arrayEvents, leaseEvents, streamFetchEvents⟩

end Sys2Proof.Proofs
end

section
/-! PROOFS. Held traps, the watchdog and the end of a PARK; the posting and the answering of fault records (R180, R181, R350 to R363). -/

namespace Sys2Proof.Proofs

open Sys2Proof Sys2Proof.Machine Sys2Proof.Claims

/-! ## Held conditions (R350, R351) -/

section Held

variable {s : State} {t : Task}

theorem drawDue_of {st : Stream} (hw : t.run ≠ .waiting) (ho : t.run ≠ .onRecord) (hr : t.run ≠ .retired) (hf : t.run ≠ .faulted)
    (hd : t.heldDraw = some st) : t.drawDue = true := by
  rw [Task.drawDue, hd, Option.isSome_some, Bool.true_and]
  cases hrun : t.run <;> simp_all

theorem drawDue_of_none (hd : t.heldDraw = none) : t.drawDue = false := by
  rw [Task.drawDue, hd]
  rfl

theorem fpDue_of (hl : t.live = true) (hh : t.inHandler = false) (hp : t.heldFp.isSome = true ∨ t.heldLand = true) : t.fpDue = true := by
  rw [Task.fpDue, hl, hh, (Bool.or_eq_true _ _).mpr hp]
  rfl

/-- TRAP_DELIVERY takes the first condition that is due, in the order A, X, M. -/
theorem trapDelivery_eq (ht : s.task? s.arg.x = some t) (hdue : t.trapDue = true) :
    exec .trapDelivery s = .next (
      let id := s.arg.x
      let d := { t with heldDraw := none, region := t.region.map (fun r => { r with since := s.tsc, draws := [] }) }
      if t.drawDue && decide (t.heldDraw = some .a) then (s.setTask id d).trapTask id .a .overdraw t.sa.pc 0 0
      else if t.drawDue && decide (t.heldDraw = some .x) then (s.setTask id d).trapTask id .x .overdraw t.sx.pc 0 0
      else if t.fpDue && t.heldLand then (s.setTask id { t with heldLand := false }).trapTask id .x .fpException t.sx.pc 0 0
      else if t.drawDue then (s.setTask id d).trapTask id .m .overdraw t.sm.pc 0 0
      else (s.setTask id { t with heldFp := none, cmdStop := true }).trapNaming id .m .fpException t.sm.pc 0 (t.heldFp.getD 0)) := by
  refine (event_completes ?_ : execTrapDelivery s = _)
  simp only [argTask_ok ht, hdue, await_true, Try.ok_bind]
  simp only [apply_ite (Except.ok (ε := Stop))]

theorem trapDue_of_drawDue (h : t.drawDue = true) : t.trapDue = true := by
  rw [Task.trapDue, h, Bool.true_or]

theorem trapDue_of_fpDue (h : t.fpDue = true) : t.trapDue = true := by
  rw [Task.trapDue, h, Bool.or_true]

/-- Where no landing's exception is due, the M stream's OVERDRAW comes next. -/
theorem land_not_due (h : t.heldLand = false ∨ t.inHandler = true ∨ t.live = false) : (t.fpDue && t.heldLand) = false := by
  obtain h | h | h := h
  · rw [h, Bool.and_false]
  · rw [Task.fpDue, h]
    simp
  · rw [Task.fpDue, h]
    simp

end Held

theorem heldTraps {s : State} {t : Task} (ht : s.task? s.arg.x = some t) :
    let id := s.arg.x
    (t.run ≠ .waiting → t.run ≠ .onRecord → t.run ≠ .retired → t.run ≠ .faulted →
      let drawn := s.setTask id { t with
        heldDraw := none, region := t.region.map (fun r => { r with since := s.tsc, draws := [] }) }
      (t.heldDraw = some .a → exec .trapDelivery s = .next (drawn.trapTask id .a .overdraw t.sa.pc 0 0)) ∧
      (t.heldDraw = some .x → exec .trapDelivery s = .next (drawn.trapTask id .x .overdraw t.sx.pc 0 0)) ∧
      (t.heldDraw = some .m → (t.heldLand = false ∨ t.inHandler = true ∨ t.live = false) →
        exec .trapDelivery s = .next (drawn.trapTask id .m .overdraw t.sm.pc 0 0))) ∧
    (t.live = true →
      (t.inHandler = false → t.heldLand = true → (t.heldDraw = none ∨ t.heldDraw = some .m) → exec .trapDelivery s =
        .next ((s.setTask id { t with heldLand := false }).trapTask id .x .fpException t.sx.pc 0 0)) ∧
      (∀ word, t.inHandler = false → t.heldLand = false → t.heldDraw = none → t.heldFp = some word → exec .trapDelivery s =
        .next ((s.setTask id { t with heldFp := none, cmdStop := true }).trapNaming id .m .fpException t.sm.pc 0 word))) := by
  dsimp only
  refine ⟨fun hw ho hr hf => ⟨fun hd => ?_, fun hd => ?_, fun hd hl => ?_⟩, fun hlive => ⟨fun hh hl hd => ?_, fun word hh hl hd hp => ?_⟩⟩
  · have hdue := drawDue_of hw ho hr hf hd
    rw [trapDelivery_eq ht (trapDue_of_drawDue hdue)]
    simp only [hdue, hd, decide_true, Bool.and_self, if_true]
  · have hdue := drawDue_of hw ho hr hf hd
    rw [trapDelivery_eq ht (trapDue_of_drawDue hdue)]
    simp [hdue, hd]
  · have hdue := drawDue_of hw ho hr hf hd
    rw [trapDelivery_eq ht (trapDue_of_drawDue hdue)]
    simp [hdue, hd, land_not_due hl]
  · have hfp := fpDue_of hlive hh (.inr hl)
    rw [trapDelivery_eq ht (trapDue_of_fpDue hfp)]
    obtain hd | hd := hd <;> simp [hfp, hl, hd]
  · have hfp := fpDue_of hlive hh (.inl (by rw [hp]; rfl))
    rw [trapDelivery_eq ht (trapDue_of_fpDue hfp)]
    simp [drawDue_of_none hd, hl, hp]

/-! ## Posting (R361, R362) -/

section Posting

variable {s : State} {r : Record}

theorem faultRecordPost_eq (hfree : s.serviceFree = true) (hr : s.records[s.arg.x]? = some r)
    (hfirst : ∀ q ∈ s.records.take s.arg.x, q.src ≠ r.src) :
    exec .faultRecordPost s = .next (s.eventEnd (
      let u := { s with records := s.records.eraseIdx s.arg.x }
      match s.faultControl with
      | some sem => if s.slotFree then .ok (u.postRecord r sem) else execFaultRecordPost.dropped u r
      | none => execFaultRecordPost.dropped u r)) := by
  have hnone : (s.records.take s.arg.x).any (fun q => decide (q.src = r.src)) = false :=
    List.any_eq_false.mpr (fun q hq => by rw [decide_eq_true_eq]; exact hfirst q hq)
  refine (congrArg (fun r => Host.Outcome.next (s.eventEnd r)) ?_ : execFaultRecordPost s = _)
  simp only [hfree, hr, hnone, need_some, Bool.not_false, await_true, Try.ok_bind] <;> rfl

/-- Without room a record is dropped, if it is an info record. -/
theorem faultRecordPost_no_room (hfree : s.serviceFree = true) (hr : s.records[s.arg.x]? = some r)
    (hfirst : ∀ q ∈ s.records.take s.arg.x, q.src ≠ r.src) (h : ¬(s.faultControl ≠ none ∧ s.slotFree = true)) :
    exec .faultRecordPost s =
      .next (s.eventEnd (execFaultRecordPost.dropped { s with records := s.records.eraseIdx s.arg.x } r)) := by
  rw [faultRecordPost_eq hfree hr hfirst]
  dsimp only
  cases hc : s.faultControl with
  | none => rfl
  | some n =>
    have hslot : s.slotFree = false := Bool.eq_false_iff.mpr (fun hf => h ⟨by rw [hc]; exact Option.some_ne_none n, hf⟩)
    simp only [hslot, if_neg Bool.false_ne_true]

theorem dropped_of_info (u : State) (h : r.info = true) : execFaultRecordPost.dropped u r = .ok u.dropInfo := by
  rw [execFaultRecordPost.dropped, h, await_true, Try.ok_bind]

theorem dropped_of_not_info (u : State) (h : r.info = false) : execFaultRecordPost.dropped u r = .error .hold := by
  rw [execFaultRecordPost.dropped, h, await_false, Try.error_bind]

end Posting

theorem recordPosting (s : State) (r : Record) (sem : Nat) (hr : s.records[s.arg.x]? = some r)
    (hfirst : ∀ q ∈ s.records.take s.arg.x, q.src ≠ r.src) :
    let u := { s with records := s.records.eraseIdx s.arg.x }
    let room : Prop := s.faultControl ≠ none ∧ s.slotFree = true
    (s.serviceFree = true → s.faultControl = some sem → s.slotFree = true → exec .faultRecordPost s = .next (u.postRecord r sem)) ∧
    (s.serviceFree = true → ¬room → r.info = true → exec .faultRecordPost s =
      .next ({ u with dropped := s.dropped + 1 }.serviceWrite 0x10A038 8 (s.dropped + 1).toNat)) ∧
    (¬room → r.info = false → exec .faultRecordPost s = .next s.held) ∧
    (s.serviceFree = false → exec .faultRecordPost s = .next s.held) := by
  have hbusy : s.serviceFree = false → exec .faultRecordPost s = .next s.held := fun hfree => by
    refine (event_waits ?_ : execFaultRecordPost s = _)
    rw [hfree, await_false, Try.error_bind]
  refine ⟨fun hfree hc hs => ?_, fun hfree hroom hi => ?_, fun hroom hi => ?_, hbusy⟩
  · rw [faultRecordPost_eq hfree hr hfirst]
    simp only [hc, hs, if_true, State.eventEnd]
  · rw [faultRecordPost_no_room hfree hr hfirst hroom, dropped_of_info _ hi]
    simp only [State.eventEnd, State.dropInfo]
  · cases hfree : s.serviceFree with
    | false => exact hbusy hfree
    | true =>
      rw [faultRecordPost_no_room hfree hr hfirst hroom, dropped_of_not_info _ hi]
      rfl

/-! ## Answers (R363) -/

section Answers

variable {s : State} {o : Open} {code : Nat}

theorem answer_ok (h : Answered s o code) : s.answer = .ok (o, code) := by
  obtain ⟨w, hw, hb, hcode⟩ := h.word
  simp only [State.answer, h.free, h.opened, hw, hb, hcode, need_some, await_true, Try.ok_bind]

theorem onRecordTask_ok {id : Nat} {t : Task} (ht : s.task? id = some t) (hr : t.run = .onRecord) (hs : t.saving = false) :
    s.onRecordTask id = .ok t := by
  simp only [State.onRecordTask, ht, need_some, hr, hs, decide_true, Bool.not_false, Bool.and_self, await_true, Try.ok_bind]

end Answers

/-- Settles O37. -/
theorem trapEvents : Obligations.TrapEvents := by
  refine ⟨fun s t ht => ?_, fun s n l hrun hm hl => ?_, fun s r sem => recordPosting s r sem, fun s o code h => ?_⟩
  · obtain ⟨hdraw, hexc⟩ := heldTraps ht
    refine ⟨hdraw, hexc, fun w hw hlim hrun hsav hun hexp => ?_, fun c hrun hun hsav => ?_⟩
    · refine (event_completes ?_ : execWatchdogExpiry s = _)
      simp only [argTask_ok ht, hw, need_some, decide_eq_true hlim, decide_eq_true hrun, decide_eq_true hexp, hsav, hun, Bool.not_false,
        Bool.and_self, await_true, Try.ok_bind]
    · refine (event_completes ?_ : execTaskUnpark s = _)
      simp only [argTask_ok ht, hrun, hun, hsav, Bool.not_false, Bool.and_self, await_true, Try.ok_bind]
  · refine (event_completes ?_ : execRubricatorTrap s = _)
    simp only [hrun, hm, hl, need_some, await_true, Try.ok_bind]
  · have hans := answer_ok h
    dsimp only
    refine ⟨fun id t ho ht hr hs => ?_, fun id n t ho ht hr hs => ?_, fun id ho => ?_, fun id ho => ?_, fun id n ho => ?_, fun c ho => ?_,
      fun ho => ?_, fun id n ho => ?_, fun hc => ?_⟩
    · have htask := onRecordTask_ok ht hr hs
      refine ⟨fun hc => (event_completes ?_ : execAnswerResume s = _), fun hc => (event_completes ?_ : execAnswerSkip s = _),
        fun hc => (event_completes ?_ : execAnswerEnd s = _), fun hc => (event_completes ?_ : execAnswerAbandon s = _)⟩
      all_goals simp only [htask, hans, hc, ho, Nat.le_refl, decide_true, Bool.or_true, await_true, Try.ok_bind, State.refuseAnswer]
    · have htask := onRecordTask_ok ht hr hs
      refine ⟨fun v hc hv => (event_completes ?_ : execAnswerResume s = _), fun v hc hv => (event_completes ?_ : execAnswerSkip s = _),
        fun hc => (event_completes ?_ : execAnswerEnd s = _)⟩
      · simp only [htask, hv, hans, hc, ho, decide_true, await_true, Try.ok_bind, State.refuseAnswer]
      · simp only [htask, hv, hans, hc, ho, decide_true, await_true, Try.ok_bind, State.refuseAnswer]
      · simp only [htask, hans, hc, ho, decide_true, await_true, Try.ok_bind, State.refuseAnswer]
    · refine ⟨fun hc => (event_completes ?_ : execAnswerResume s = _), fun hc => (event_completes ?_ : execAnswerSkip s = _),
        fun hc => (event_completes ?_ : execAnswerEnd s = _), fun hc => (event_completes ?_ : execAnswerAbandon s = _),
        fun hc => (event_completes ?_ : execAnswerAbandon s = _)⟩
      iterate 4 simp only [hans, hc, ho, Nat.le_refl, decide_true, Bool.or_true, await_true, Try.ok_bind, if_true, State.refuseAnswer]
      simp only [hans, ho, decide_eq_true (show 4 ≤ code by omega), Bool.or_true, await_true, Try.ok_bind,
        if_neg (show code ≠ 4 by omega), State.refuseAnswer]
    · refine ⟨fun hc => (event_completes ?_ : execAnswerResume s = _), fun hc => (event_completes ?_ : execAnswerAbandon s = _)⟩
      all_goals simp only [hans, hc, ho, Nat.le_refl, decide_true, Bool.or_true, await_true, Try.ok_bind, if_true, State.refuseAnswer]
    · refine ⟨fun hc => (event_completes ?_ : execAnswerResume s = _), fun hc => (event_completes ?_ : execAnswerAbandon s = _)⟩
      all_goals simp only [hans, hc, ho, Nat.le_refl, decide_true, Bool.or_true, await_true, Try.ok_bind, if_true, State.refuseAnswer]
    · refine ⟨fun hc => (event_completes ?_ : execAnswerResume s = _), fun hc => (event_completes ?_ : execAnswerAbandon s = _)⟩
      all_goals simp only [hans, hc, ho, Nat.le_refl, decide_true, Bool.or_true, await_true, Try.ok_bind, if_true, State.refuseAnswer]
    · refine ⟨fun hc => (event_completes ?_ : execAnswerResume s = _), fun hc => (event_completes ?_ : execAnswerAbandon s = _)⟩
      all_goals simp only [hans, hc, ho, Nat.le_refl, decide_true, Bool.or_true, await_true, Try.ok_bind, if_true, State.refuseAnswer]
    · refine ⟨fun hc => (event_completes ?_ : execAnswerResume s = _), fun hc => (event_completes ?_ : execAnswerAbandon s = _)⟩
      all_goals simp only [hans, hc, ho, Nat.le_refl, decide_true, Bool.or_true, await_true, Try.ok_bind, State.refuseAnswer]
    · refine (event_completes ?_ : execAnswerAbandon s = _)
      simp only [hans, hc, decide_true, Bool.true_or, await_true, Try.ok_bind]
      cases o.src <;> rfl

end Sys2Proof.Proofs
end

section
/-! PROOFS. Waits, placement, contexts, armings, pre-emption and the actions of queues (R188, R336 to R339, R364 to R368); Proofing
(R373, R374, R444). -/

namespace Sys2Proof.Proofs

open Sys2Proof Sys2Proof.Machine Sys2Proof.Claims

/-! ## What a write of the service die leaves -/

/-- From `s` to `t` only memory, who has seen it, and the control block's notes of mirrored sectors have changed. -/
def OnlyMirrored (s t : State) : Prop :=
  t = { s with mem := t.mem, washed := t.washed, order := t.order, fabric := t.fabric, levels := t.levels, ctl := t.ctl }

section Mirrored

variable {s t u : State}

theorem OnlyMirrored.refl (s : State) : OnlyMirrored s s := rfl

theorem OnlyMirrored.trans (h : OnlyMirrored s t) (g : OnlyMirrored t u) : OnlyMirrored s u := by
  unfold OnlyMirrored at *
  rw [g, h]

theorem OnlyMirrored.records (h : OnlyMirrored s t) : t.records = s.records := by
  unfold OnlyMirrored at h
  rw [h]

theorem onlyMirrored_of_onlyMemory (h : OnlyMemory s t) : OnlyMirrored s t := by
  unfold OnlyMemory at h
  unfold OnlyMirrored
  rw [h]

theorem onlyMirrored_foldl {α : Type} {f : State → α → State} (h : ∀ s x, OnlyMirrored s (f s x)) (xs : List α) (s : State) :
    OnlyMirrored s (xs.foldl f s) := by
  induction xs generalizing s with
  | nil => exact .refl s
  | cons x xs ih => exact (h s x).trans (ih (f s x))

theorem onlyMirrored_ctl (s : State) (c : Ctl) : OnlyMirrored s { s with ctl := c } := rfl

theorem onlyMirrored_put (s : State) (a : Nat) (bs : List Byte) : OnlyMirrored s (s.put a bs) := by
  cases h : s.sealedAt a with
  | false => exact onlyMirrored_of_onlyMemory (onlyMemory_put s a bs h)
  | true =>
    rw [State.put, if_pos h]
    exact .refl s

theorem onlyMirrored_mirrorSector (fuel : Nat) (done : List Nat) (s : State) (q : Nat) :
    OnlyMirrored s (State.mirrorSector fuel done s q) := by
  induction fuel generalizing done s q with
  | zero => exact .refl s
  | succ fuel ih =>
    rw [State.mirrorSector]
    refine onlyMirrored_foldl (fun v e => ?_) _ s
    split
    · exact .refl v
    · exact (onlyMirrored_put v (32 * e.2) (v.plainBytes (32 * q) 32)).trans ((onlyMirrored_ctl _ _).trans (ih _ _ _))

theorem onlyMirrored_detectWash (s : State) (k : Nat) : OnlyMirrored s (s.detectWash k) := by
  unfold State.detectWash
  split
  · exact .refl s
  · split
    · split
      · dsimp only
        split
        · rfl
        · split <;> rfl
      · exact .refl s
    · exact .refl s

theorem onlyMirrored_mirror (s : State) (a n : Nat) : OnlyMirrored s (s.mirror a n) := by
  unfold State.mirror
  split
  · exact .refl s
  · exact (onlyMirrored_foldl (onlyMirrored_mirrorSector 8 []) _ s).trans
      (onlyMirrored_foldl (fun v _ => onlyMirrored_foldl (fun w _ => onlyMirrored_detectWash w _) _ v) _ _)

theorem onlyMirrored_writeBytes (s : State) (a : Nat) (bs : List Byte) : OnlyMirrored s (s.writeBytes a bs) :=
  (onlyMirrored_put s a bs).trans (onlyMirrored_mirror ..)

theorem onlyMirrored_dieWrote (old s : State) (ident : BitVec 32) : OnlyMirrored s (State.dieWrote old s ident) := by
  unfold State.dieWrote
  split
  · exact .refl s
  · split <;> rfl

/-- What a sequence of two steps ends with, its second step ends with. -/
theorem exists_of_bind_ok {α β : Type} {r : Try α} {f : α → Try β} {y : β} (h : r >>= f = .ok y) : ∃ x, r = .ok x ∧ f x = .ok y := by
  cases r with
  | ok x => exact ⟨x, rfl, h⟩
  | error e => cases h

theorem onlyMirrored_physWrite {ident : BitVec 32} {r : Reach} {a : Nat} {bs : List Byte} (h : s.physWrite ident r a bs = .ok u) :
    OnlyMirrored s u := by
  rw [State.physWrite] at h
  obtain ⟨p, -, h⟩ := exists_of_bind_ok h
  obtain ⟨-, -, h⟩ := exists_of_bind_ok h
  obtain rfl := Except.ok.inj h
  exact (onlyMirrored_writeBytes s _ bs).trans (onlyMirrored_dieWrote ..)

end Mirrored

/-! ## Pre-emption (R365 to R368) -/

section Preemption

variable {s : State} {t : Task}

theorem onlyMirrored_writeFrame (s : State) (a : Nat) : OnlyMirrored s (s.writeFrame a) := by
  unfold State.writeFrame
  split
  · exact .refl s
  · split
    · next h => exact onlyMirrored_physWrite h
    · exact .refl s

theorem drainTask_ok {p : Pre} {f : Nat × Nat} {due : Task → Pre → Bool} (ht : s.task? s.arg.x = some t) (hfree : s.serviceFree = true)
    (hp : t.pre = some p) (hphase : p.phase = .drain) (hres : t.isResident = true) (hrun : t.run ≠ .resident)
    (hf : s.freeFrame = some f) (hdue : due t p = true) : s.drainTask due = .ok (s.squash s.arg.x t f.2) := by
  simp only [State.drainTask, argTask_ok ht, hp, hfree, decide_eq_true hphase, hdue, hres, decide_eq_true hrun, hf, need_some,
    Bool.and_self, await_true, Try.ok_bind]

theorem savedRun_keeps (s : State) (t : Task) :
    (s.savedRun t).slot = t.slot ∧ (s.savedRun t).saved = t.saved ∧ (s.savedRun t).pre = t.pre ∧ (s.savedRun t).regs = t.regs ∧
      (s.savedRun t).slices = t.slices ∧ (s.savedRun t).preds = t.preds ∧ (s.savedRun t).frame = t.frame := by
  unfold State.savedRun
  split
  · exact ⟨rfl, rfl, rfl, rfl, rfl, rfl, rfl⟩
  · split <;> exact ⟨rfl, rfl, rfl, rfl, rfl, rfl, rfl⟩
  · exact ⟨rfl, rfl, rfl, rfl, rfl, rfl, rfl⟩

theorem task?_setTask_self (s : State) (id : Nat) (t : Task) : (s.setTask id t).task? id = some t :=
  SMap.find?_put_self id t s.tasks

theorem exemptSaved_eq (s : State) (id core : Nat) : s.exemptSaved id core = { s with proofing := (s.exemptSaved id core).proofing } := by
  unfold State.exemptSaved
  split
  · split <;> rfl
  · rfl

theorem startPattern_eq (s : State) : s.startPattern = { s with proofing := s.startPattern.proofing } := by
  unfold State.startPattern
  split
  · split <;> rfl
  · rfl

/-- The state with another array of frames. -/
def withFrames (s : State) (m : SMap (Nat × Nat)) : State := { s with frames := m }

/-- The service die reads a word of its area wherever the frames are. -/
theorem readFuel_withFrames (s : State) (m : SMap (Nat × Nat)) (fuel a n : Nat) :
    (withFrames s m).readFuel fuel a n = s.readFuel fuel a n := by
  induction fuel generalizing a n with
  | zero => rfl
  | succ fuel ih =>
    unfold State.readFuel
    simp only [ih]
    rfl

theorem tower_withFrames (s : State) (m : SMap (Nat × Nat)) : (withFrames s m).tower = s.tower := rfl

theorem order_withFrames (s : State) (m : SMap (Nat × Nat)) : (withFrames s m).order = s.order := rfl

theorem ctl_withFrames (s : State) (m : SMap (Nat × Nat)) : (withFrames s m).ctl = s.ctl := rfl

theorem washed_withFrames (s : State) (m : SMap (Nat × Nat)) : (withFrames s m).washed = s.washed := rfl

theorem folio_withFrames (s : State) (m : SMap (Nat × Nat)) : (withFrames s m).folio = s.folio := rfl

theorem heldAt_withFrames (s : State) (m : SMap (Nat × Nat)) (a : Nat) : (withFrames s m).heldAt a = s.heldAt a := rfl

theorem tableHeld_withFrames (s : State) (m : SMap (Nat × Nat)) (a n : Nat) :
    (withFrames s m).tableHeld a n = s.tableHeld a n := by
  rw [State.tableHeld, washed_withFrames, folio_withFrames, State.tableHeld]
  cases s.folio.tables with
  | none => rfl
  | some b => simp only [heldAt_withFrames]

theorem bytes_withFrames (s : State) (m : SMap (Nat × Nat)) (a n : Nat) : (withFrames s m).bytes a n = s.bytes a n := rfl

theorem readBytes_withFrames (s : State) (m : SMap (Nat × Nat)) (a n : Nat) :
    (withFrames s m).readBytes a n = s.readBytes a n := by
  simp only [State.readBytes, washed_withFrames, readFuel_withFrames, tableHeld_withFrames, bytes_withFrames]

theorem physCheck_withFrames (s : State) (m : SMap (Nat × Nat)) (i : BitVec 32) (r : Reach) (k : Access) (a n : Nat) :
    (withFrames s m).physCheck i r k a n = s.physCheck i r k a n := rfl

theorem ownStore_withFrames (s : State) (m : SMap (Nat × Nat)) (a n : Nat) : (withFrames s m).ownStore a n = s.ownStore a n := rfl

theorem serviceBase_withFrames (s : State) (m : SMap (Nat × Nat)) : (withFrames s m).serviceBase = s.serviceBase := by
  rw [State.serviceBase, ctl_withFrames, ownStore_withFrames, State.serviceBase]

theorem dieRead_withFrames (s : State) (m : SMap (Nat × Nat)) (i : BitVec 32) (a n : Nat) :
    (withFrames s m).dieRead i a n = s.dieRead i a n := by
  simp only [State.dieRead, State.seenBytes, readBytes_withFrames, physCheck_withFrames, tower_withFrames, order_withFrames]

theorem serviceWord_withFrames (s : State) (m : SMap (Nat × Nat)) (off : Nat) : (withFrames s m).serviceWord off = s.serviceWord off := by
  rw [State.serviceWord, serviceBase_withFrames, tower_withFrames, State.serviceWord]
  cases s.serviceBase with
  | none => rfl
  | some b => simp only [dieRead_withFrames]

theorem frameNumber_withFrames (s : State) (m : SMap (Nat × Nat)) (a : Nat) :
    (withFrames s m).frameNumber a = s.frameNumber a := by
  rw [State.frameNumber, serviceWord_withFrames, State.frameNumber]

/-- The end of a save: the record is queued last, and the task is left as `u`. -/
theorem saveEnd_eq (s : State) (a id core : Nat) (u : Task) (r : Record) :
    let v := ((((s.writeFrame a).setTask id u).exemptSaved id core).post r).startPattern
    v.records = s.records ++ [r] ∧ v.task? id = some u := by
  intro v
  have hv : v = ((((s.writeFrame a).setTask id u).exemptSaved id core).post r).startPattern := rfl
  rw [startPattern_eq, State.post, exemptSaved_eq] at hv
  constructor
  · rw [hv]
    exact congrArg (· ++ [r]) (onlyMirrored_writeFrame s a).records
  · rw [hv]
    exact task?_setTask_self (s.writeFrame a) id u

theorem preemptSaveComplete_eq {a : Nat} (ht : s.task? s.arg.x = some t) (hf : t.frame = some a) (hs : t.saving = true)
    (he : ∀ e ∈ t.effects, e.captured = true) (hfree : s.serviceFree = true) (hfr : s.frameFree a = true) :
    ∃ u, exec .preemptSaveComplete s = .next u ∧
      u.records = s.records ++ [{ infoRecord s.tower 6 none (s.frameNumber a % 2 ^ 16)
        (t.savedBytes (((SMap.find? a s.frames).map (·.1)).getD 0)) with taskId := t.ident s.tower, serial := t.arming % 2 ^ 32 }] ∧
      ∃ t', u.task? s.arg.x = some t' ∧ t'.slot = none ∧ t'.saved = true ∧ t'.pre = none ∧ t'.regs = t.regs ∧
        t'.slices = t.slices ∧ t'.preds = t.preds ∧ t'.frame = some a := by
  let k := ((SMap.find? a s.frames).map (·.1)).getD 0
  let v := withFrames s (s.frames.put a (k, t.savedBytes k))
  let u := v.savedRun { t with slot := none, saved := true, pre := none, reuse := [] }
  let r := { infoRecord s.tower 6 none (s.frameNumber a % 2 ^ 16) (t.savedBytes k) with
    taskId := t.ident s.tower, serial := t.arming % 2 ^ 32 }
  obtain ⟨hslot, hsaved, hpre, hregs, hslices, hpreds, hframe⟩ :=
    savedRun_keeps v { t with slot := none, saved := true, pre := none, reuse := [] }
  obtain ⟨hrec, htask⟩ := saveEnd_eq v a s.arg.x t.core u r
  refine ⟨((((v.writeFrame a).setTask s.arg.x u).exemptSaved s.arg.x t.core).post r).startPattern,
    (event_completes ?_ : execPreemptSaveComplete s = _), hrec, u, htask, hslot, hsaved, hpre, hregs, hslices, hpreds, ?_⟩
  · have hneed : need t.frame = .ok a := by rw [hf]; rfl
    simp only [argTask_ok ht, hneed, hs, List.all_eq_true.mpr he, hfree, hfr, Bool.and_self, await_true, Try.ok_bind]
    exact congrArg (fun n => Except.ok ((((v.writeFrame a).setTask s.arg.x u).exemptSaved s.arg.x t.core).post
      { infoRecord s.tower 6 none (n % 2 ^ 16) (t.savedBytes k) with
        taskId := t.ident s.tower, serial := t.arming % 2 ^ 32 }).startPattern) (frameNumber_withFrames s _ a)
  · rw [hframe]
    exact hf

end Preemption

/-! ## Waits and loading -/

section Waits

variable {s : State} {t : Task}

theorem taskWaitsReached_eq (ht : s.task? s.arg.x = some t) (hrun : t.run = .waiting)
    (hw : t.unpark = true ∨ ∀ e ∈ t.waits, s.waitReached e = true) :
    exec .taskWaitsReached s =
      .next ((s.setTask s.arg.x { t with run := .runnable, unpark := false }).acquireWaits s.arg.x t) := by
  have hor : (t.unpark || t.waits.all s.waitReached) = true := (Bool.or_eq_true _ _).mpr (hw.imp id List.all_eq_true.mpr)
  refine (event_completes ?_ : execTaskWaitsReached s = _)
  simp only [argTask_ok ht, decide_eq_true hrun, hor, Bool.and_self, await_true, Try.ok_bind]

/-- A task placed for the first time runs once its context is loaded. -/
theorem contextLoad_new (ht : s.task? s.arg.x = some t) (hrun : t.run = .resident) (hs : t.saved = false) :
    exec .contextLoadComplete s = .next ((s.setTask s.arg.x { t with run := .running }).keepCode s.arg.x) := by
  refine (event_completes ?_ : execContextLoadComplete s = _)
  simp only [argTask_ok ht, decide_eq_true hrun, hs, await_true, Try.ok_bind]

theorem contextLoad_saved {a : Nat} (ht : s.task? s.arg.x = some t) (hrun : t.run = .resident) (hs : t.saved = true)
    (hf : t.frame = some a) (hfree : s.frameFree a = true) :
    exec .contextLoadComplete s =
      .next (if s.frameIntact a then s.loadContext s.arg.x t else s.refuseContext s.arg.x t) := by
  refine (event_completes ?_ : execContextLoadComplete s = _)
  simp only [argTask_ok ht, decide_eq_true hrun, hs, hf, hfree, await_true, Try.ok_bind]

end Waits

/-! ## Queues (R188) -/

section Queues

variable {s : State} {e : QEntry} {rest : List QEntry}

theorem queueHead_ok (h : OnQueue s e rest) : s.queueHead e.action = .ok (s.arg.x, e) := by
  obtain ⟨hhead, hholds⟩ := h
  simp only [State.queueHead, hhead, List.head?_cons, need_some, hholds, decide_true, Bool.and_self, await_true, Try.ok_bind]

theorem queueLaunch_eq (h : OnQueue s e rest) (ha : e.action = 0) (hfull : s.armingsFull = false) (hfree : s.serviceFree = true) :
    exec .queueLaunchAction s = .next (
      let r := s.arm (dw e.image 3 % 4096) false (.queue s.arg.x)
      if r.1 then r.2.leaveQueue s.arg.x
      else (r.2.leaveQueue s.arg.x).post (queueRecord s.tower s.arg.x e .access r.2.nextArming)) := by
  refine (event_completes ?_ : execQueueLaunchAction s = _)
  simp only [ha ▸ queueHead_ok h, hfull, hfree, Bool.not_false, Bool.and_self, await_true, Try.ok_bind]
  simp only [apply_ite (Except.ok (ε := Stop))]

theorem queueCopy_eq (h : OnQueue s e rest) (ha : e.action = 1) {u : State}
    (hu : State.startAction s s.arg.x e (s.queueCopy s.arg.x e) = .ok u) : exec .queueCopyAction s = .next u := by
  refine (event_completes ?_ : execQueueCopyAction s = _)
  simp only [ha ▸ queueHead_ok h, Try.ok_bind, hu]

theorem queueSem_eq (h : OnQueue s e rest) (ha : e.action = 2) (hok : s.semAllowed (bits (dw e.image 3) 0 12) (rubIdent s.tower) = .ok ()) :
    exec .queueSemAction s = .next (((s.releaseSem (.queue s.arg.x) (bits (dw e.image 3) 0 12) 3).setSem (bits (dw e.image 3) 0 12)
      (semValue (queueSemOp (bits (dw e.image 3) 12 2)) (s.sem (bits (dw e.image 3) 0 12)) 0 (e.image.getD 4 0))).leaveQueue s.arg.x) := by
  refine (event_completes ?_ : execQueueSemAction s = _)
  simp only [ha ▸ queueHead_ok h, Try.ok_bind, hok, State.startAction]

theorem queueHirq_eq (h : OnQueue s e rest) (ha : e.action = 3) :
    exec .queueHirqAction s = .next (((s.releaseHost (.queue s.arg.x)).raiseVector (dw e.image 3 % 64)).leaveQueue s.arg.x) := by
  refine (event_completes ?_ : execQueueHirqAction s = _)
  simp only [ha ▸ queueHead_ok h, Try.ok_bind]

end Queues

/-! ## Armings (R337) -/

theorem armingCompletion_eq {s : State} {a : Arming} (ha : SMap.find? s.arg.x s.armings = some a) (hlive : a.live = []) :
    exec .armingCompletion s = .next (
      let u := { s with armings := s.armings.del s.arg.x }
      if a.faulted || !s.admits s.tower 5 (0xF100000000 + 8 * a.csem) (rubIdent s.tower) .sem then u
      else (u.releaseArming s.arg.x a.csem).setSem a.csem (s.sem a.csem + a.cinc)) := by
  refine (event_completes ?_ : execArmingCompletion s = _)
  simp only [ha, need_some, hlive, List.isEmpty_nil, await_true, Try.ok_bind]
  rfl

theorem taskEvents : TaskEvents := by
  refine ⟨fun s t ht => ⟨fun hrun hw => taskWaitsReached_eq ht hrun hw, fun hrun hs => contextLoad_new ht hrun hs,
      fun a hrun hs hf hfree => ⟨fun hi => ?_, fun hi => ?_⟩,
      fun p f hfree hp hphase hres hrun hf => ⟨fun hd => ?_, fun hd => ?_⟩,
      fun a hf hs he hfree hfr => preemptSaveComplete_eq ht hf hs he hfree hfr⟩,
    fun s hfree hopen hne => ?_, fun s a ha hlive => ?_, fun s e rest hq => ?_⟩
  · rw [contextLoad_saved ht hrun hs hf hfree, if_pos hi]
  · rw [contextLoad_saved ht hrun hs hf hfree, if_neg (Bool.eq_false_iff.mp hi)]
  · exact (event_completes (drainTask_ok ht hfree hp hphase hres hrun hf hd) : execPreemptDrainEnd s = _)
  · exact (event_completes (drainTask_ok ht hfree hp hphase hres hrun hf (decide_eq_true hd)) : execPreemptDrainTimeout s = _)
  · refine (event_completes ?_ : execTaskPlacement s = _)
    simp only [hfree, hopen, Bool.and_self, decide_eq_true hne, await_true, Try.ok_bind]
  · refine ⟨fun hf hr => ?_, fun h => ?_⟩
    · rw [armingCompletion_eq ha hlive, hf, hr]
      rfl
    · rw [armingCompletion_eq ha hlive]
      obtain h | h := h <;> simp only [h, Bool.true_or, Bool.not_false, Bool.or_true, if_true]
  · refine ⟨fun ha hfull hfree hr => ?_, fun ha hfull hfree hr => ?_, fun u ha hu => queueCopy_eq hq ha ?_,
      fun c va ha hc => queueCopy_eq hq ha ?_, fun ha hok => queueSem_eq hq ha hok, fun ha => queueHirq_eq hq ha⟩
    · rw [queueLaunch_eq hq ha hfull hfree]
      exact congrArg Host.Outcome.next (if_pos hr)
    · rw [queueLaunch_eq hq ha hfull hfree]
      exact congrArg Host.Outcome.next (if_neg (Bool.eq_false_iff.mp hr))
    · rw [hu, State.startAction]
    · rw [hc, State.startAction]

/-! ## Proofing (R373, R374, R444) -/

section Patterns

variable {s : State} {p : Proofing}

theorem patternEnd_ok {u : State} (hp : s.proofing = some p) (hfree : s.serviceFree = true) (htime : p.since + 200000 ≤ s.tsc)
    (hw : s.proofWanted p = false) (ha : p.phase ≠ .aborting)
    (h : (match p.phase, decide (s.arg.y = 1) with
      | .pattern, true => Except.ok ((s.scrub p.core).endProofing p.core 0)
      | .pattern, false => Except.ok { s with proofing := some { p with phase := .retry, since := s.tsc } }
      | .retry, true => Except.ok ((s.scrub p.core).endProofing p.core 1)
      | .retry, false => Except.ok ((s.scrub p.core).endProofing p.core 2)
      | _, _ => (.error .hold : Try State)) = .ok u) : exec .proofingPatternEnd s = .next u := by
  refine (event_completes ?_ : execProofingPatternEnd s = _)
  simp only [hp, need_some, hfree, decide_eq_true htime, decide_eq_true ha, hw, Bool.not_false, Bool.and_self, await_true, Try.ok_bind]
  exact h

theorem proofingAbort_ends (hp : s.proofing = some p) (ha : p.phase = .aborting) (hfree : s.serviceFree = true)
    (htime : s.arg.x ≠ 1 ∨ p.since + 5000 ≤ s.tsc) :
    exec .proofingAbort s = .next ((if p.begun then s.scrub p.core else s).endProofing p.core 3) := by
  have hor : (decide (s.arg.x ≠ 1) || decide (p.since + 5000 ≤ s.tsc)) = true :=
    (Bool.or_eq_true _ _).mpr (htime.imp decide_eq_true decide_eq_true)
  refine (event_completes ?_ : execProofingAbort s = _)
  simp only [hp, need_some, Try.ok_bind, if_pos ha, hfree, hor, Bool.and_self, await_true]

end Patterns

theorem proofingEvents : ProofingEvents := by
  intro s p hp
  refine ⟨fun hphase hbusy => ?_, fun hfree htime hw => ⟨fun hphase hy => ?_, fun hphase hy => ?_, fun hphase hy => ?_, fun hphase hy => ?_⟩,
    fun hphase hw => ?_, fun hphase hfree htime => ⟨fun hb => ?_, fun hb => ?_⟩⟩
  · refine (event_completes ?_ : execProofingPatternStart s = _)
    simp only [hp, need_some, decide_eq_true hphase, hbusy, Bool.not_false, Bool.and_self, await_true, Try.ok_bind, State.startPattern,
      and_true, if_pos hphase]
  · exact patternEnd_ok hp hfree htime hw (by rw [hphase]; decide) (by rw [hphase, decide_eq_true hy])
  · exact patternEnd_ok hp hfree htime hw (by rw [hphase]; decide) (by rw [hphase, decide_eq_false hy])
  · exact patternEnd_ok hp hfree htime hw (by rw [hphase]; decide) (by rw [hphase, decide_eq_true hy])
  · exact patternEnd_ok hp hfree htime hw (by rw [hphase]; decide) (by rw [hphase, decide_eq_false hy])
  · refine (event_completes ?_ : execProofingAbort s = _)
    simp only [hp, need_some, Try.ok_bind, if_neg hphase, hw, await_true]
  · rw [proofingAbort_ends hp hphase hfree htime, if_pos hb]
  · rw [proofingAbort_ends hp hphase hfree htime, if_neg (Bool.eq_false_iff.mp hb)]

/-- Settles O38. -/
theorem taskAndProofingEvents : Obligations.TaskAndProofingEvents := ⟨taskEvents, proofingEvents⟩

end Sys2Proof.Proofs
end

section
/-! PROOFS. The Inkwell, sensors, clamps, series pairs, droops and the governor (R175, R376 to R388); the Baseline (R388 to R392,
R382, R396). -/

namespace Sys2Proof.Proofs

open Sys2Proof Sys2Proof.Machine Sys2Proof.Claims

/-! ## The Inkwell (R383 to R387) -/

section Inkwell

variable {s : State}

theorem foldl_setCluster_eq (f : State → Nat → Cluster) (xs : List Nat) (s : State) :
    xs.foldl (fun s c => s.setCluster c (f s c)) s =
      { s with clusters := (xs.foldl (fun s c => s.setCluster c (f s c)) s).clusters } := by
  induction xs generalizing s with
  | nil => rfl
  | cons c cs ih => rw [List.foldl_cons, ih]; rfl

theorem inkTick_eq (h : s.clocks.tick < s.tsc / 1000) : ∃ u, exec .inkTick s = .next u ∧
    u.clocks = { s.clocks with tick := s.tsc / 1000 } ∧
    u.ink.bal = min (s.ink.bal + (s.ink.rate : Int)) (s.ink.cap : Int) -
      s.outsideDraw (1000 * s.clocks.tick) (1000 * (s.tsc / 1000)) ∧ u.ink.past = [] ∧ u.mem = s.mem := by
  refine ⟨?u, (event_completes ?ev : execInkTick s = .next ?u), ?rest⟩
  case ev =>
    simp only [decide_eq_true h, await_true, Try.ok_bind]
    rfl
  case rest =>
    rw [foldl_setCluster_eq (fun s c => { s.cluster c with power := BitVec.ofNat 16 (min 65535 (s.meters.energy.get 0 c)) })]
    exact ⟨rfl, rfl, rfl, rfl⟩

theorem region_testTask (s : State) (t : Task) : (s.testTask t).region = t.region := by
  unfold State.testTask
  split
  · split <;> rfl
  · rfl

theorem find?_mapValues {α β : Type} (f : α → β) (k : Nat) (m : SMap α) :
    SMap.find? k (m.map (fun e => (e.1, f e.2))) = (SMap.find? k m).map f := by
  induction m with
  | nil => rfl
  | cons e m ih =>
    rw [List.map_cons, SMap.find?, SMap.find?]
    split
    · rfl
    · exact ih

theorem inkGrant_grants {r : InkReq} {rest : List InkReq} {t : Task} (hr : s.ink.order = r :: rest)
    (hbal : ((r.lvl * r.dur : Nat) : Int) ≤ s.ink.bal) (ht : s.task? r.task = some t) :
    ∃ u, exec .inkGrant s = .next u ∧ u.ink.bal = s.ink.bal - (r.lvl * r.dur : Nat) ∧ u.ink.order = rest ∧
      (u.task? r.task).bind (·.region) = some (Region.mk r.lvl r.dur s.tsc false s.ink.grants s.tsc [] false) := by
  refine ⟨?u, (event_completes ?ev : execInkGrant s = .next ?u), ?rest⟩
  case ev =>
    simp only [hr, List.head?_cons, need_some, decide_eq_true hbal, await_true, Try.ok_bind, List.drop_one, List.tail_cons]
    rfl
  case rest =>
    refine ⟨rfl, rfl, ?_⟩
    simp only [State.task?, State.testParks, find?_mapValues, State.onTask, SMap.find?_adjust_self, show SMap.find? r.task s.tasks = some t from ht,
      Option.map_some, Option.bind_some, region_testTask]

theorem inkGrant_waits {r : InkReq} {rest : List InkReq} (hr : s.ink.order = r :: rest)
    (hbal : s.ink.bal < ((r.lvl * r.dur : Nat) : Int)) : exec .inkGrant s = .next s.held := by
  refine (event_waits ?_ : execInkGrant s = _)
  simp only [hr, List.head?_cons, need_some, decide_eq_false (Int.not_le.mpr hbal), await_false, Try.ok_bind, Try.error_bind]

theorem overdraw_eq {t : Task} {r : Region} (ht : s.task? s.arg.x = some t) (hr : t.region = some r) (h : r.raised = true) :
    exec .overdraw s = .next (
      let st : Option Stream :=
        if t.sx.phase ≠ .ended then some .x
        else if t.sa.phase ≠ .ended ∨ t.sm.phase ≠ .ended then some .a
        else none
      s.setTask s.arg.x { t with region := some { r with raised := false }, heldDraw := if st.isSome then st else t.heldDraw }) := by
  refine (event_completes ?_ : execOverdraw s = _)
  simp only [argTask_ok ht, hr, need_some, h, await_true, Try.ok_bind]

end Inkwell

/-! ## Clusters (R377 to R381) -/

section Clusters

variable {s : State}

theorem cluster_setCluster_self (s : State) (c : Nat) (k : Cluster) : (s.setCluster c k).cluster c = k :=
  SMap.get_set_self Cluster.reset c k s.clusters

theorem cluster_setCluster_ne (s : State) {c d : Nat} (k : Cluster) (h : d ≠ c) : (s.setCluster c k).cluster d = s.cluster d :=
  SMap.get_set_ne Cluster.reset c d k s.clusters h

theorem pairMeasurement_eq (hi : s.arg.x < 24) (hn : s.clocks.pairs.get 0 s.arg.x < s.cycles (2 * s.arg.x) / 16) :
    ∃ u, exec .pairMeasurement s = .next u ∧
      let x := s.current (2 * s.arg.x)
      let y := s.current (2 * s.arg.x + 1)
      let d := imbalance (max x y) (min x y)
      let k := u.cluster (2 * s.arg.x)
      let l := u.cluster (2 * s.arg.x + 1)
      k.delta = d ∧ l.delta = d ∧ (d < 30 → k.mark = 0 ∧ l.mark = 0) ∧ (30 ≤ d → y < x → k.mark = 1 ∧ l.mark = 2) ∧
      (30 ≤ d → x < y → k.mark = 2 ∧ l.mark = 1) := by
  refine ⟨?u, (event_completes ?ev : execPairMeasurement s = .next ?u), ?rest⟩
  case ev =>
    simp only [decide_eq_true hi, decide_eq_true hn, Bool.and_self, await_true, Try.ok_bind]
    rfl
  case rest =>
    dsimp only
    rw [cluster_setCluster_self, cluster_setCluster_ne _ _ (by omega : 2 * s.arg.x ≠ 2 * s.arg.x + 1), cluster_setCluster_self]
    refine ⟨rfl, rfl, fun hd => ⟨if_pos hd, if_pos hd⟩, fun hd hxy => ?_, fun hd hxy => ?_⟩
    · exact ⟨(if_neg (Nat.not_lt.mpr hd)).trans (if_pos hxy), (if_neg (Nat.not_lt.mpr hd)).trans (if_neg (Int.not_lt.mpr (Int.le_of_lt hxy)))⟩
    · exact ⟨(if_neg (Nat.not_lt.mpr hd)).trans (if_neg (Int.not_lt.mpr (Int.le_of_lt hxy))), (if_neg (Nat.not_lt.mpr hd)).trans (if_pos hxy)⟩

theorem clusterClamp_eq (hc : s.arg.x < 48)
    (h : ((s.cluster s.arg.x).clampSensor, (s.cluster s.arg.x).clampHeat) ≠ s.clampsDue s.arg.x) :
    let u := s.setCluster s.arg.x { s.cluster s.arg.x with
      clampSensor := (s.clampsDue s.arg.x).1, clampHeat := (s.clampsDue s.arg.x).2 }
    exec .clusterClamp s = .next (u.setClock s.arg.x (u.clockOf s.arg.x)) := by
  have hor : (decide ((s.cluster s.arg.x).clampSensor ≠ (s.clampsDue s.arg.x).1) ||
      decide ((s.cluster s.arg.x).clampHeat ≠ (s.clampsDue s.arg.x).2)) = true := by
    rw [Bool.or_eq_true, decide_eq_true_eq, decide_eq_true_eq]
    refine Classical.byContradiction (fun hn => ?_)
    rw [not_or, Classical.not_not, Classical.not_not] at hn
    exact h (Prod.ext hn.1 hn.2)
  refine (event_completes ?_ : execClusterClamp s = _)
  simp only [decide_eq_true hc, hor, Bool.and_self, await_true, Try.ok_bind]

end Clusters

theorem powerEvents : PowerEvents := by
  intro s
  refine ⟨inkTick_eq, fun r rest hr hbal t ht => inkGrant_grants hr hbal ht, fun r rest hr hbal => inkGrant_waits hr hbal,
    fun t r ht hr hexp htime => ?_, fun t r ht hr h hx => ?_, fun t r ht hr h hx ham => ?_, fun h => ?_, clusterClamp_eq,
    pairMeasurement_eq, fun hc hy hy' hst h0 hlt => ?_, fun h => ?_⟩
  · refine (event_completes ?_ : execRegionExpiry s = _)
    simp only [argTask_ok ht, hr, need_some, hexp, decide_eq_true htime, Bool.not_false, Bool.and_self, await_true, Try.ok_bind]
  · rw [overdraw_eq ht hr h]
    simp only [if_pos hx, Option.isSome_some, if_true]
  · rw [overdraw_eq ht hr h]
    simp only [if_neg (Classical.not_not.mpr hx), if_pos ham, Option.isSome_some, if_true]
  · refine (event_completes ?_ : execSensorCheck s = _)
    simp only [decide_eq_true h, await_true, Try.ok_bind]
  · refine (event_completes ?_ : execDroopDetect s = _)
    simp only [decide_eq_true hc, decide_eq_true hy, decide_eq_true hy', decide_eq_true hst, decide_eq_true h0, decide_eq_true hlt,
      Bool.and_self, await_true, Try.ok_bind]
  · refine (event_completes ?_ : execGovernorEvaluation s = _)
    simp only [decide_eq_true h, await_true, Try.ok_bind]

/-! ## The Baseline (R388 to R392) -/

theorem bind_of_await {α : Type} {b : Bool} (f : Unit → Try α) (h : b = true) : await b >>= f = f () := by
  rw [h, await_true, Try.ok_bind]

section Commands

variable {s : State} {serial g : Nat}

theorem baselineJoin_eq (h : s.base.fresh = some (serial, 1, g, true)) :
    exec .baselineJoin s = .next (if s.base.group.isSome then s.endCommand serial 2
      else { s with base := { s.base with join := some (serial, g, s.tsc, none), joining := [] } }.sendAll [everyNode]
        (.joinAsk s.node g)) := by
  refine (event_completes ?_ : execBaselineJoin s = _)
  simp only [h, need_some, Try.ok_bind, decide_true, Bool.and_self, await_true]
  simp only [apply_ite (Except.ok (ε := Stop))]

theorem baselineLeave_eq (h : s.base.fresh = some (serial, 2, g, true)) :
    exec .baselineLeave s = .next (if s.base.group.isNone then s.endCommand serial 2
      else { s with base := { s.base with leave := some (serial, roundUp (s.tsc + 200000)) } }.sendAll s.base.peers
        (.leaving s.node (roundUp (s.tsc + 200000)))) := by
  refine (event_completes ?_ : execBaselineLeave s = _)
  simp only [h, need_some, Try.ok_bind, decide_true, Bool.and_self, await_true]
  simp only [apply_ite (Except.ok (ε := Stop))]

theorem commandMalformed_eq {cmd : Nat} {ok : Bool} (h : s.base.fresh = some (serial, cmd, g, ok)) (hbad : cmd = 3 ∨ ok = false) :
    exec .baselineCommandMalformed s = .next (s.endCommand serial 1) := by
  have hor : (!ok || decide (cmd = 3)) = true :=
    (Bool.or_eq_true _ _).mpr (hbad.symm.imp (fun h => by rw [h]; rfl) decide_eq_true)
  refine (event_completes ?_ : execBaselineCommandMalformed s = _)
  simp only [h, need_some, Try.ok_bind, hor, await_true]

end Commands

section Messages

variable {s : State}

theorem tsc_fabIn (s : State) (ms : List FabMsg) : ({ s with fabIn := ms } : State).tsc = s.tsc := rfl

theorem node_fabIn (s : State) (ms : List FabMsg) : ({ s with fabIn := ms } : State).node = s.node := rfl

theorem joinReply_eq {ms : List (Nat × Nat × Option (Nat × Nat))} {come : List (Nat × Member × Nat)} {go : List (Nat × Nat)}
    {serial g asked : Nat} (hm : s.fabIn[s.arg.x]? = some (.joinReply ms come go)) (hj : s.base.join = some (serial, g, asked, none)) :
    let told := { s.base with
      joining := ms.foldl (fun (js : SMap Member) (m : Nat × Nat × Option (Nat × Nat)) => js.put m.1 (Member.mk m.2.1 m.2.2 s.tsc)) []
      arriving := come.filter (fun e => decide (e.1 ≠ s.node)), leaving := go }
    exec .baselineJoinReply s = .next ({ s with fabIn := s.fabIn.eraseIdx s.arg.x }.announceJoin (told.due s.tsc) serial g asked
      (roundUp (s.tsc + 200000))) := by
  refine (event_completes ?_ : execBaselineJoinReply s = _)
  simp only [hm, need_some, Try.ok_bind, hj, tsc_fabIn, node_fabIn]
  generalize roundUp (s.tsc + 200000) = at_
  rfl

theorem heartbeatReceive_eq {n stamp v : Nat} {m : Member} (hm : s.fabIn[s.arg.x]? = some (.heartbeat n stamp v none))
    (hn : SMap.find? n s.base.members = some m) (hs : m.heard ≤ stamp) :
    let c := (s.base.onMember n (fun _ => Member.mk v none stamp)).due s.tsc
    exec .heartbeatReceive s = .next ({ s with fabIn := s.fabIn.eraseIdx s.arg.x }.setBase { c with silent := c.quiet s.tsc }) := by
  refine (event_completes ?_ : execHeartbeatReceive s = _)
  simp only [hm, need_some, Try.ok_bind, hn, if_neg (Nat.not_lt.mpr hs)]

end Messages

theorem baselineEvents : BaselineEvents := by
  intro s
  dsimp only
  refine ⟨fun h => ?_, fun serial g h => ⟨fun hg => ?_, fun hg => ?_⟩, fun serial g h => ⟨fun hg => ?_, fun hg => ?_⟩,
    fun serial cmd g ok h hbad => commandMalformed_eq h hbad, fun ms come go serial g asked hm hj => ?_,
    fun serial g asked hj htime => ?_, fun n v t hm hn => ?_, fun n g hm hg => ?_, fun hg htime => ?_,
    fun n stamp v m hm hn hs => heartbeatReceive_eq hm hn hs, fun h => ?_, fun m hm htime => ?_, fun hfree htime => ?_⟩
  · refine (event_completes ?_ : execCeilingChange s = _)
    simp only [decide_eq_true h, await_true, Try.ok_bind]
  · rw [baselineJoin_eq h, if_pos (Option.isSome_iff_ne_none.mpr hg)]
  · rw [baselineJoin_eq h, if_neg (by rw [hg]; decide)]
  · rw [baselineLeave_eq h, if_pos (by rw [hg]; rfl)]
  · rw [baselineLeave_eq h, if_neg (by rw [Option.isNone_iff_eq_none]; exact hg)]
  · exact joinReply_eq hm hj
  · refine (event_completes ?_ : execBaselineJoinTimeout s = _)
    simp only [hj, decide_eq_true htime, await_true, Try.ok_bind]
  · refine (event_completes ?_ : execBaselineAnnouncement s = _)
    simp only [hm, need_some, Try.ok_bind, List.contains_iff_mem.mpr hn, Bool.not_true, if_neg Bool.false_ne_true]
  · refine (event_completes ?_ : execBaselineAnnouncement s = _)
    simp only [hm, need_some, Try.ok_bind, if_pos hg]
  · refine (event_completes ?_ : execHeartbeatSend s = _)
    simp only [Option.isSome_iff_ne_none.mpr hg, decide_eq_true htime, Bool.and_self, await_true, Try.ok_bind]
  · refine (event_completes ?_ : execSilentDrop s = _)
    simp only [decide_eq_true h, await_true, Try.ok_bind]
  · refine (event_completes ?_ : execMemberExclusion s = _)
    dsimp only
    rw [hm, need_some, Try.ok_bind]
    exact bind_of_await _ (decide_eq_true htime)
  · refine (event_completes ?_ : execServiceAreaRead s = _)
    simp only [hfree, decide_eq_true htime, Bool.and_self, await_true, Try.ok_bind]

/-- Settles O39. -/
theorem powerAndBaselineEvents : Obligations.PowerAndBaselineEvents := ⟨powerEvents, baselineEvents⟩

end Sys2Proof.Proofs
end

section
/-! PROOFS. The control block, invalidations, walks, re-ruling, banks, detected errors and the remap tables (R288 to R303, R369 to
R372); the Blotter (R162, R403 to R408, R447). -/

namespace Sys2Proof.Proofs

open Sys2Proof Sys2Proof.Machine Sys2Proof.Claims

/-! ## Writes to the control block (R303) -/

section Control

variable {s : State} {o : Nat} {v : Word} {rest : List (Nat × Word)}

theorem ctlHead_ok (h : CtlNext s o v rest) : s.ctlHead = .ok (o, v, ctlTaken s rest) := by
  rw [State.ctlHead, show s.ctl.incoming = (o, v) :: rest from h]
  rfl

theorem registerWrite_eq (h : CtlNext s o v rest) (hx : s.arg.x ≠ 1) (ho : o ≠ 0x10) (hm : isMirlen o = false)
    (hr : isRuling o = false ∨ v.getLsbD 0 = false) : exec .registerWrite s = .next ((ctlTaken s rest).ctlWrite o v) := by
  have hor : (isRuling o && v.getLsbD 0) = false := Bool.and_eq_false_iff.mpr hr
  refine (event_completes ?_ : execRegisterWrite s = _)
  simp only [if_neg hx, ctlHead_ok h, Try.ok_bind, decide_eq_true ho, hm, hor, Bool.not_false, Bool.and_self, await_true]

/-- A write with reserved bits of `ctl.inval` set is ignored. -/
theorem ctlInval_ignored (h : CtlNext s o v rest) (ho : o = 0x10) (hv : bits v.toNat 46 17 ≠ 0) :
    exec .ctlInval s = .next (ctlTaken s rest) := by
  refine (event_completes ?_ : execCtlInval s = _)
  simp only [ctlHead_ok h, Try.ok_bind, decide_eq_true ho, await_true, if_pos hv]

theorem ctlInval_starts (h : CtlNext s o v rest) (ho : o = 0x10) (hv : bits v.toNat 46 17 = 0) (hb : s.ctl.invBusy = false) :
    let u := ctlTaken s rest
    exec .ctlInval s = .next { u with ctl := { u.ctl with inval := v, invFrom := s.ctl.invva, invBusy := true } } := by
  have hw : await (!s.ctl.invBusy) = .ok () := by rw [hb]; rfl
  refine (event_completes ?_ : execCtlInval s = _)
  simp only [ctlHead_ok h, Try.ok_bind, decide_eq_true ho, await_true, if_neg (Classical.not_not.mpr hv), hw]

theorem ctlMirlen_eq (h : CtlNext s o v rest) (ho : isMirlen o = true) :
    let n := (o - 0x100) / 32
    let m : Mirror := { s.mirrorSlot n with len := v.setWidth 32, written := [] }
    exec .ctlMirlen s = .next ((ctlTaken s rest).setMirror n
      { m with active := decide (0 < m.len.toNat) && s.mirrorOk m, refused := decide (0 < m.len.toNat) && !s.mirrorOk m }) := by
  refine (event_completes ?_ : execCtlMirlen s = _)
  simp only [ctlHead_ok h, Try.ok_bind, ho, await_true]

theorem ctlRuling_eq (h : CtlNext s o v rest) (ho : isRuling o = true) (hv : v.getLsbD 0 = true) :
    exec .ctlRuling s = .next (if s.frozen || s.sealed || (s.level ((o - 0x40) / 8)).busy then ctlTaken s rest
      else (ctlTaken s rest).reRule ((o - 0x40) / 8)) := by
  refine (event_completes ?_ : execCtlRuling s = _)
  simp only [ctlHead_ok h, Try.ok_bind, ho, hv, Bool.and_self, await_true]
  simp only [apply_ite (Except.ok (ε := Stop))]

theorem level_setLevel_self (s : State) (x : Nat) (l : Level) : (s.setLevel x l).level x = l := by
  rw [State.level, State.setLevel, SMap.get, SMap.find?_put_self, Option.getD_some]

/-- A re-ruling leaves the level without its lost banks, and memory without their sectors. -/
theorem reRule_level (s : State) (x : Nat) : ∃ p, (s.reRule x).level x = (s.level x).ruled p :=
  ⟨_, level_setLevel_self _ x _⟩

theorem ctlRuling_rules (h : CtlNext s o v rest) (ho : isRuling o = true) (hv : v.getLsbD 0 = true) (hf : s.frozen = false)
    (hs : s.sealed = false) (hb : (s.level ((o - 0x40) / 8)).busy = false) :
    let x := (o - 0x40) / 8
    ∃ t p, exec .ctlRuling s = .next t ∧ t.level x = (s.level x).ruled p ∧ (t.level x).busy = true ∧
      t.mem = s.mem.filter (fun e =>
        let q := e.1 / 32
        let first := s.levelSector x
        !(decide (first ≤ q) && decide (q < first + (s.level x).banks * bankSize x / 32) &&
          (s.level x).lost.contains ((q - first) % (s.level x).banks))) := by
  intro x
  obtain ⟨p, hp⟩ := reRule_level (ctlTaken s rest) x
  refine ⟨(ctlTaken s rest).reRule x, p, ?_, hp, ?_, rfl⟩
  · rw [ctlRuling_eq h ho hv, hf, hs, hb]
    rfl
  · rw [hp]
    rfl

end Control

/-! ## Invalidation and walks (R298, R299) -/

section Walks

variable {s : State}

theorem invalidationComplete_eq (hb : s.ctl.invBusy = true) (hr : ∀ r ∈ s.remotes, r.2.translated = false) :
    exec .invalidationComplete s = .next { s with
      tlb := s.tlb.filter (fun e => !s.ctl.covers e.asid e.global e.va e.size)
      walks := s.walks.filter (fun w => !s.ctl.covers w.asid false (w.va / 65536 * 65536) 65536)
      ctl := { s.ctl with invBusy := false } } := by
  have hnone : List.any s.remotes (fun (r : Nat × Remote) => r.2.translated) = false :=
    List.any_eq_false.mpr (fun r h => Bool.eq_false_iff.mp (hr r h))
  have hw : await (s.ctl.invBusy && !List.any s.remotes (fun (r : Nat × Remote) => r.2.translated)) = .ok () := by rw [hb, hnone]; rfl
  refine (event_completes ?_ : execInvalidationComplete s = _)
  rw [hw, Try.ok_bind]

theorem mem_filter_not {α : Type} {p : α → Bool} {xs : List α} {x : α} : x ∈ xs.filter (fun x => !p x) ↔ x ∈ xs ∧ p x = false := by
  rw [List.mem_filter, Bool.not_eq_true']

theorem walkCompletion_ok {w : Walk} {e : Tlb} (hw : s.walks[s.arg.x]? = some w) (hx : s.arg.x < 64)
    (h : State.walk { s with walks := s.walks.eraseIdx s.arg.x } 0 w.asid w.va = .ok e) :
    exec .walkCompletion s = .next (((w.units.flatMap (fun k => [k, l2Of k])).eraseDups).foldl (fun t k =>
      t.fillTlb { e with unit := k, rights := t.entryRights k e.pa e.size }) { s with walks := s.walks.eraseIdx s.arg.x }) := by
  refine (event_completes ?_ : execWalkCompletion s = _)
  simp only [decide_eq_true hx, await_true, hw, need_some, Try.ok_bind, h]
  rfl

theorem walkCompletion_failed {w : Walk} {c : Cause} {va : Nat} (hw : s.walks[s.arg.x]? = some w) (hx : s.arg.x < 64)
    (h : State.walk { s with walks := s.walks.eraseIdx s.arg.x } 0 w.asid w.va = .error (.trap c va)) :
    exec .walkCompletion s = .next (if w.pref then { s with walks := s.walks.eraseIdx s.arg.x }
      else w.units.foldl (fun t k => t.fillTlb (Tlb.mk k w.asid false (w.va / 65536 * 65536) 65536 0 false false false [] true))
        { s with walks := s.walks.eraseIdx s.arg.x }) := by
  refine (event_completes ?_ : execWalkCompletion s = _)
  simp only [decide_eq_true hx, await_true, hw, need_some, Try.ok_bind, h]
  rfl

end Walks

/-! ## Levels and their banks (R288, R290) -/

section Banks

variable {s : State}

theorem retires_of (x j : Nat) (h : 16 < (s.level x).errors.get 0 j ∨ s.laneFailed x j = true ∨
    ∃ since, SMap.find? j (s.level x).hot = some since ∧ since + 100000000 ≤ s.tsc) : s.retires x j = true := by
  unfold State.retires
  obtain h | h | ⟨since, hs, ht⟩ := h
  · simp only [decide_eq_true h, Bool.true_or]
  · simp only [h, Bool.or_true, Bool.true_or]
  · simp only [hs, decide_eq_true ht, Bool.or_true]

theorem bankRetirement_eq (hx : s.arg.x ≤ 3) (hj : s.arg.y < (s.level s.arg.x).banks) (hf : s.frozen = false) (hs : s.sealed = false)
    (hb : (s.level s.arg.x).busy = false) (hw : (s.level s.arg.x).swap = none) (hl : s.arg.y ∉ (s.level s.arg.x).lost)
    (h : s.retires s.arg.x s.arg.y = true) :
    let l := s.level s.arg.x
    exec .bankRetirement s = .next (if l.spares = 0 then s.setLevel s.arg.x { l with lost := l.lost ++ [s.arg.y] }
      else s.setLevel s.arg.x { l with swap := some (s.arg.y, l.nextBank), spares := l.spares - 1, nextBank := l.nextBank + 1 }) := by
  have hlost : (s.level s.arg.x).lost.contains s.arg.y = false := by
    rw [Bool.eq_false_iff]
    exact fun hc => hl (List.contains_iff_mem.mp hc)
  have hwait : await (decide (s.arg.x ≤ 3) && decide (s.arg.y < (s.level s.arg.x).banks) && !s.frozen && !s.sealed &&
      !(s.level s.arg.x).busy && (s.level s.arg.x).swap.isNone && !(s.level s.arg.x).lost.contains s.arg.y &&
      s.retires s.arg.x s.arg.y) = .ok () := by
    simp only [decide_eq_true hx, decide_eq_true hj, hf, hs, hb, hw, Option.isNone_none, hlost, h, Bool.not_false, Bool.and_self, await_true]
  refine (event_completes ?_ : execBankRetirement s = _)
  dsimp only
  rw [hwait, Try.ok_bind]
  simp only [apply_ite (Except.ok (ε := Stop))]

theorem bankSwapSwitch_eq {j b : Nat} (hw : (s.level s.arg.x).swap = some (j, b)) (hf : s.frozen = false) (hs : s.sealed = false) :
    ∃ u, exec .bankSwapSwitch s = .next u ∧ (u.level s.arg.x).live = (s.level s.arg.x).live.set j j b ∧
      (u.level s.arg.x).swap = none ∧ u.mem = s.mem := by
  have hwait : await (!s.frozen && !s.sealed) = .ok () := by rw [hf, hs]; rfl
  have hneed : need (s.level s.arg.x).swap = .ok (j, b) := by rw [hw]; rfl
  refine ⟨?u, (event_completes ?ev : execBankSwapSwitch s = .next ?u), ?rest⟩
  case ev =>
    dsimp only
    rw [hneed, Try.ok_bind, hwait, Try.ok_bind]
  case rest =>
    rw [level_setLevel_self]
    exact ⟨rfl, rfl, rfl⟩

theorem reRulingComplete_eq (hb : (s.level s.arg.x).busy = true) (hs : s.sealed = false) :
    exec .reRulingComplete s =
      .next ((s.setLevel s.arg.x { s.level s.arg.x with busy := false }).releaseWrites.releaseBells) := by
  have hwait : await ((s.level s.arg.x).busy && !s.sealed) = .ok () := by rw [hb, hs]; rfl
  refine (event_completes ?_ : execReRulingComplete s = _)
  dsimp only
  rw [hwait, Try.ok_bind]

end Banks

/-! ## Detected errors (R369) -/

section Errors

variable {s : State} {lasting : Bool}

theorem flaws_sectorError {q x o : Nat} (hq : s.sectorLevel q = some (x, o)) : (s.sectorError q true).flaws = s.flaws.put q true := by
  unfold State.sectorError
  simp only [hq, Bool.not_true, if_neg Bool.false_ne_true]
  split <;> rfl

theorem sectorError_passing {q x o : Nat} (hq : s.sectorLevel q = some (x, o)) : s.sectorError q false = s.transient 8 x (32 * q) := by
  unfold State.sectorError
  simp only [hq, Bool.not_false, if_true]

theorem copyEntry_remapError (s : State) (x copy j : Nat) (value : Option Nat) :
    ((s.remapError x copy j value true).level x).copyEntry copy j = value := by
  unfold State.remapError
  rw [if_neg (by decide), level_setLevel_self, Level.copyEntry, Level.voted]
  dsimp only
  rw [SMap.get_set_self, SMap.find?_put_self, Option.getD_some]

theorem eccRetry_eq {f : Flaw} (h : s.retries[s.arg.x]? = some (f, lasting)) {v : State}
    (hv : (let u := { s with retries := s.retries.eraseIdx s.arg.x }
      match f with
      | .sector q => u.sectorError q lasting
      | .remap x copy j value =>
        if x ≤ 3 ∧ copy ≤ 2 ∧ j < (u.level x).banks then u.remapError x copy j value lasting else u
      | .slice id k =>
        if lasting then u.onTask id (fun t => { t with flawed := if t.flawed.contains k then t.flawed else t.flawed ++ [k] })
        else u.transient 8 5 (k / 64)
      | .tile key =>
        if lasting then { u with badTiles := if u.badTiles.contains key then u.badTiles else u.badTiles ++ [key] }
        else u.transient 8 6 (key / 512 % 2048)) = v) : exec .eccRetry s = .next v := by
  subst hv
  refine (event_completes ?_ : execEccRetry s = _)
  cases f <;> simp only [h, need_some, Try.ok_bind, apply_ite (Except.ok (ε := Stop))]

end Errors

theorem mem_added (xs : List Nat) (x : Nat) : x ∈ (if xs.contains x then xs else xs ++ [x]) := by
  split
  · next h => exact List.contains_iff_mem.mp h
  · exact List.mem_append_right _ (List.mem_singleton_self x)

theorem eccRetries {f : Flaw} {lasting : Bool} {s : State} (h : s.retries[s.arg.x]? = some (f, lasting)) :
    let passing := fun kind detail second => exec .eccRetry s = .next
      (State.post { s with retries := s.retries.eraseIdx s.arg.x } { infoRecord s.tower kind none detail second with transient := true })
    (∀ q x o, f = .sector q → s.sectorLevel q = some (x, o) →
      (lasting = false → passing 8 x (32 * q)) ∧
      (lasting = true → ∃ t, exec .eccRetry s = .next t ∧ t.flaws = s.flaws.put q true)) ∧
    (∀ x copy j value, f = .remap x copy j value → x ≤ 3 → copy ≤ 2 → j < (s.level x).banks →
      (lasting = false → passing 9 (x + 4 * copy) 0) ∧
      (lasting = true → ∃ t, exec .eccRetry s = .next t ∧ (t.level x).copyEntry copy j = value)) ∧
    (∀ id k, f = .slice id k →
      (lasting = false → passing 8 5 (k / 64)) ∧
      (∀ v, lasting = true → s.task? id = some v → ∃ t v', exec .eccRetry s = .next t ∧ t.task? id = some v' ∧ k ∈ v'.flawed)) ∧
    (∀ key, f = .tile key →
      (lasting = false → passing 8 6 (key / 512 % 2048)) ∧
      (lasting = true → ∃ t, exec .eccRetry s = .next t ∧ key ∈ t.badTiles)) := by
  dsimp only
  refine ⟨fun q x o hf hq => ?_, fun x copy j value hf hx hc hj => ?_, fun id k hf => ?_, fun key hf => ?_⟩ <;> subst hf
  · have hu : State.sectorLevel { s with retries := s.retries.eraseIdx s.arg.x } q = some (x, o) := hq
    refine ⟨fun hl => ?_, fun hl => ?_⟩ <;> subst hl
    · exact eccRetry_eq h (sectorError_passing hu)
    · exact ⟨_, eccRetry_eq h rfl, flaws_sectorError hu⟩
  · refine ⟨fun hl => ?_, fun hl => ?_⟩ <;> subst hl
    · exact eccRetry_eq h (if_pos ⟨hx, hc, hj⟩)
    · exact ⟨_, eccRetry_eq h (if_pos ⟨hx, hc, hj⟩), copyEntry_remapError _ x copy j value⟩
  · refine ⟨fun hl => ?_, fun v hl hv => ?_⟩ <;> subst hl
    · exact eccRetry_eq h rfl
    · refine ⟨_, _, eccRetry_eq h rfl, (SMap.find?_adjust_self id _ s.tasks).trans (congrArg _ hv), ?_⟩
      exact mem_added v.flawed k
  · refine ⟨fun hl => ?_, fun hl => ?_⟩ <;> subst hl
    · exact eccRetry_eq h rfl
    · exact ⟨_, eccRetry_eq h rfl, mem_added s.badTiles key⟩

/-! ## Remap tables (R371, R372) -/

section Remaps

variable {s : State}

theorem swap_abandonSwap (l : Level) : l.abandonSwap.swap = none := by
  unfold Level.abandonSwap
  split
  · rfl
  · next h => rwa [Option.isSome_iff_ne_none, Classical.not_not] at h

theorem reported_abandonSwap (l : Level) : l.abandonSwap.reported = l.reported := by
  unfold Level.abandonSwap
  split <;> rfl

theorem remapVoteFreeze_eq (hx : s.arg.x ≤ 3) (hy : s.arg.y ≤ 2) (hs : s.sealed = false) (hb : (s.level s.arg.x).badCopy s.arg.y = true)
    (hr : s.arg.y ∉ (s.level s.arg.x).reported) :
    ∃ u, exec .remapVoteFreeze s = .next u ∧ u.frozen = true ∧
      u.records = s.records ++ [infoRecord s.tower 9 none (s.arg.x + 4 * s.arg.y) 0] ∧
      (∀ e ∈ u.levels, e.2.swap = none) ∧ s.arg.y ∈ (u.level s.arg.x).reported := by
  have hc : (s.level s.arg.x).reported.contains s.arg.y = false := Bool.eq_false_iff.mpr (fun h => hr (List.contains_iff_mem.mp h))
  refine ⟨?u, (event_completes ?ev : execRemapVoteFreeze s = .next ?u), ?rest⟩
  case ev =>
    simp only [decide_eq_true hx, decide_eq_true hy, hs, hb, hc, Bool.not_false, Bool.and_self, await_true, Try.ok_bind]
    rfl
  case rest =>
    refine ⟨rfl, rfl, fun e he => ?_, ?_⟩
    · obtain ⟨d, -, rfl⟩ := List.mem_map.mp he
      exact swap_abandonSwap d.2
    · rw [State.level, State.post, SMap.get]
      dsimp only
      rw [find?_mapValues, State.setLevel, SMap.find?_put_self, Option.map_some, Option.getD_some, reported_abandonSwap]
      exact List.mem_append_right _ (List.mem_singleton_self _)

theorem trapTask_eq (s : State) (id : Nat) (st : Stream) (c : Cause) (pc : Parcel) (va second : Nat) :
    (s.trapTask id st c pc va second).sealed = s.sealed ∧ (s.trapTask id st c pc va second).mem = s.mem := by
  unfold State.trapTask
  split
  · exact ⟨rfl, rfl⟩
  · dsimp only
    rw [State.measureReturns_eq]
    split <;> exact ⟨rfl, rfl⟩

theorem sealTask_keeps (s : State) (e : Nat × Task) : (s.sealTask e).sealed = s.sealed ∧ (s.sealTask e).mem = s.mem := by
  unfold State.sealTask
  split
  · exact ⟨rfl, rfl⟩
  · exact ⟨rfl, rfl⟩
  · exact ⟨rfl, rfl⟩
  · exact trapTask_eq ..
  · exact trapTask_eq ..

theorem sealTasks_keep (es : List (Nat × Task)) (s : State) :
    (es.foldl State.sealTask s).sealed = s.sealed ∧ (es.foldl State.sealTask s).mem = s.mem := by
  induction es generalizing s with
  | nil => exact ⟨rfl, rfl⟩
  | cons e es ih =>
    obtain ⟨hs, hm⟩ := ih (s.sealTask e)
    obtain ⟨hs', hm'⟩ := sealTask_keeps s e
    exact ⟨hs.trans hs', hm.trans hm'⟩

theorem towerSeal_eq {x : Nat} (hs : s.sealed = false) (hx : x ≤ 3) (hl : (s.level x).lostVote = true) :
    ∃ u, exec .towerSeal s = .next u ∧ u.sealed = true ∧ u.mem = s.mem := by
  have hany : [0, 1, 2, 3].any (fun x => (s.level x).lostVote) = true :=
    List.any_eq_true.mpr ⟨x, by simp only [List.mem_cons, List.not_mem_nil, or_false]; omega, hl⟩
  have hwait : await (!s.sealed && [0, 1, 2, 3].any (fun x => (s.level x).lostVote)) = .ok () := by rw [hs, hany]; rfl
  refine ⟨?u, (event_completes ?ev : execTowerSeal s = .next ?u), ?rest⟩
  case ev =>
    rw [hwait, Try.ok_bind]
  case rest =>
    exact sealTasks_keep _ _

end Remaps

theorem controlBlockEvents : ControlBlockEvents := by
  intro s
  refine ⟨fun o v rest h => ⟨registerWrite_eq h, ctlInval_ignored h, ctlInval_starts h, ctlMirlen_eq h, fun ho hv => ⟨fun hb => ?_,
      ctlRuling_rules h ho hv⟩⟩, fun hb hr => ⟨_, invalidationComplete_eq hb hr, rfl, fun e => mem_filter_not, fun w => mem_filter_not⟩,
    fun w hw hx => ⟨fun e h => walkCompletion_ok hw hx h, fun c va h hp => ?_, fun c va h hp => ?_⟩, reRulingComplete_eq,
    fun l hl hx hj hf hs hb hw hlost h => ?_, fun j b => bankSwapSwitch_eq, fun f lasting => eccRetries, remapVoteFreeze_eq,
    fun x => towerSeal_eq⟩
  · have hor : (s.frozen || s.sealed || (s.level ((o - 0x40) / 8)).busy) = true := by
      rw [Bool.or_eq_true, Bool.or_eq_true, or_assoc]
      exact hb
    rw [ctlRuling_eq h ho hv, if_pos hor]
  · rw [walkCompletion_failed hw hx h, if_pos hp]
  · rw [walkCompletion_failed hw hx h, if_neg (Bool.eq_false_iff.mp hp)]
  · subst hl
    have hret := retires_of _ _ h
    refine ⟨fun h0 => ?_, fun h0 => ?_⟩
    · rw [bankRetirement_eq hx hj hf hs hb hw hlost hret, if_pos h0]
    · rw [bankRetirement_eq hx hj hf hs hb hw hlost hret, if_neg h0]

theorem remapVote : RemapVote := by
  intro l j
  dsimp only
  refine ⟨fun v ha h => ?_, fun v hb hc => ?_, fun h => ?_⟩
  · rw [Level.vote]
    rw [if_pos ⟨by rw [ha]; rfl, h.imp (fun hb => ha.trans hb.symm) (fun hc => ha.trans hc.symm)⟩, ha]
  · rw [Level.vote]
    split
    · next hab =>
      obtain ⟨-, hab | hac⟩ := hab
      · exact hab.trans hb
      · exact hac.trans hc
    · exact (if_pos ⟨by rw [hb]; rfl, hb.trans hc.symm⟩).trans hb
  · rw [Level.vote]
    split
    · next hab =>
      obtain ⟨hsome, hab⟩ := hab
      obtain ⟨v, hv⟩ := Option.isSome_iff_exists.mp hsome
      obtain ⟨h01, h02, -⟩ := h v
      exact absurd (hab.imp (fun e => ⟨hv, e ▸ hv⟩) (fun e => ⟨hv, e ▸ hv⟩)) (not_or.mpr ⟨h01, h02⟩)
    · refine if_neg (fun hbc => ?_)
      obtain ⟨hsome, hbc⟩ := hbc
      obtain ⟨v, hv⟩ := Option.isSome_iff_exists.mp hsome
      exact (h v).2.2 ⟨hv, hbc ▸ hv⟩

end Sys2Proof.Proofs
end

section
/-! PROOFS. The Blotter: visits, conversions and migrations, refused accesses, copies on write and deferred frees (R162, R403 to R408,
R447). -/

namespace Sys2Proof.Proofs

open Sys2Proof Sys2Proof.Machine Sys2Proof.Claims

variable {s : State}

/-- A visit looks at the next header, as often in a microsecond as the rate says. -/
theorem blotterVisit_of {k : Nat} {v : State} (hk : k = (if s.clocks.blotter = s.tsc / 1000 then s.folio.visited else 0))
    (he : s.folio.enable = true) (hb : s.folio.base ≠ none) (hr : k < s.folio.rate)
    (h : (let u := { s with clocks := { s.clocks with blotter := s.tsc / 1000 }, folio := { s.folio with visited := k + 1 } }
      match u.headerCheck .write s.folio.next with
      | .error .hold => .error .hold
      | .error _ => Except.ok u.nextHeader
      | .ok _ => Except.ok (u.visit s.folio.next).nextHeader) = (Except.ok v : Try State)) :
    exec .blotterVisit s = .next v := by
  have hwait : await (s.folio.enable && s.folio.base.isSome && decide (k < s.folio.rate)) = .ok () := by
    rw [he, Option.isSome_iff_ne_none.mpr hb, decide_eq_true hr]
    rfl
  subst hk
  refine (event_completes ?_ : execBlotterVisit s = _)
  dsimp only
  rw [hwait, Try.ok_bind]
  exact h

theorem conversionSwitch_eq {c : Convert} {t : State} (hc : s.conversionOf s.arg.x = some c) (h2 : s.blockState s.arg.x = 2)
    (hb : s.headerOk s.arg.x = true) (hs : s.headerOk c.scratch = true) (ht : s.convertInto c = .ok t) :
    let v := (((t.swapHeaders s.arg.x c.scratch 2 16 41).setHeaderBits s.arg.x 0 52 4 2).setHeaderBits s.arg.x 0 60 2 3).setHeader
      s.arg.x 4 0
    exec .conversionSwitch s = .next (({ v with folio := { v.folio with
      converting := v.folio.converting.filter (fun d => decide (d.block ≠ s.arg.x))
      completed := v.folio.completed + 1 } }.retireScratch c.scratch).showConversions.renewBlock s.arg.x) := by
  refine (event_completes ?_ : execConversionSwitch s = _)
  simp only [hc, need_some, Try.ok_bind, decide_eq_true h2, hb, hs, Bool.and_self, await_true, ht]

/-! ## Migrations (R408) -/

section Migrations

variable {w : Word}

theorem migrationStart_of {v : State} (hw : s.folio.request = some w) (hm : s.folio.migrating = none) (hh : s.headersFree = true)
    (hf : s.serviceFree = true)
    (h : (let u := { s with folio := { s.folio with request := none } }
      let b := bits w.toNat 0 20
      let loc := bits w.toNat 20 3
      if 5 ≤ loc then Except.ok (u.endRequest 3)
      else if u.folio.base.isNone || u.blockFree b || u.blockBusy b || decide (u.blockPlace b = loc) then Except.ok (u.endRequest 2)
      else
        match u.takeFree loc with
        | none => Except.ok (u.endRequest 1)
        | some (sc, t) => Except.ok { t.setBusy b sc with folio := { t.folio with migrating := some { block := b, scratch := sc } } }) =
      (Except.ok v : Try State)) : exec .migrationStart s = .next v := by
  have hneed : need s.folio.request = .ok w := by rw [hw]; rfl
  have hwait : await (s.folio.migrating.isNone && s.headersFree && s.serviceFree) = .ok () := by rw [hm, hh, hf]; rfl
  refine (event_completes ?_ : execMigrationStart s = _)
  rw [hneed, Try.ok_bind, hwait, Try.ok_bind]
  exact h

theorem migrationStart (hw : s.folio.request = some w) (hm : s.folio.migrating = none) (hh : s.headersFree = true)
    (hf : s.serviceFree = true) :
    let u := { s with folio := { s.folio with request := none } }
    let b := bits w.toNat 0 20
    let loc := bits w.toNat 20 3
    (5 ≤ loc → exec .migrationStart s = .next (u.endRequest 3)) ∧
    (loc < 5 → s.folio.base = none → exec .migrationStart s = .next (u.endRequest 2)) ∧
    (loc < 5 → s.folio.base ≠ none → u.blockFree b = false → u.blockBusy b = false → u.blockPlace b ≠ loc →
      (u.takeFree loc = none → exec .migrationStart s = .next (u.endRequest 1)) ∧
      (∀ sc t, u.takeFree loc = some (sc, t) → exec .migrationStart s = .next
        { t.setBusy b sc with folio := { t.folio with migrating := some (Convert.mk b sc) } })) := by
  intro u b loc
  refine ⟨fun h5 => migrationStart_of hw hm hh hf (if_pos h5), fun h5 hbase => migrationStart_of hw hm hh hf ?_,
    fun h5 hbase hfree hbusy hplace => ?_⟩
  · have hnone : (u.folio.base.isNone || u.blockFree b || u.blockBusy b || decide (u.blockPlace b = loc)) = true := by
      rw [show u.folio.base = none from hbase]
      rfl
    exact (if_neg (Nat.not_le.mpr h5)).trans (if_pos hnone)
  · have hnone : ¬(u.folio.base.isNone || u.blockFree b || u.blockBusy b || decide (u.blockPlace b = loc)) = true := by
      rw [hfree, hbusy, decide_eq_false hplace, Bool.or_false, Bool.or_false, Bool.or_false, Option.isNone_iff_eq_none]
      exact hbase
    refine ⟨fun ht => migrationStart_of hw hm hh hf ?_, fun sc t ht => migrationStart_of hw hm hh hf ?_⟩ <;>
      refine (if_neg (Nat.not_le.mpr h5)).trans ((if_neg hnone).trans ?_) <;> rw [ht]

theorem migrationSwitch_eq {c : Convert} {t : State} (hc : s.folio.migrating = some c) (hb : s.headerOk c.block = true)
    (hs : s.headerOk c.scratch = true) (hf : s.serviceFree = true) (ht : s.migrateInto c = .ok t) :
    let v := ((t.swapHeaders c.block c.scratch 2 16 41).swapHeaders c.block c.scratch 0 48 3).setHeader c.block 4 0
    exec .migrationSwitch s = .next
      ((({ v with folio := { v.folio with migrating := none } }.retireScratch c.scratch).endRequest 0).renewBlock c.block) := by
  refine (event_completes ?_ : execMigrationSwitch s = _)
  simp only [hc, need_some, Try.ok_bind, hb, hs, hf, Bool.and_self, await_true, ht]

end Migrations

/-! ## Refused accesses (R447) -/

section Refused

variable {c : Convert} {e : Cause × Nat}

theorem conversion_refused (hh : s.headersFree = true) (hf : s.serviceFree = true) (he : s.refused c = some e)
    (hc : s.conversionOf s.arg.x = some c) : exec .blotterAccessRefused s = .next
      (((s.abortConversion s.arg.x).setBlockState s.arg.x 1).post (s.blotterRecord e.1 s.arg.x e.2)) := by
  refine (event_completes ?_ : execBlotterAccessRefused s = _)
  simp only [hh, hf, Bool.and_self, await_true, Try.ok_bind, hc, he, need_some]

theorem migration_refused (hh : s.headersFree = true) (hf : s.serviceFree = true) (he : s.refused c = some e)
    (hc : s.conversionOf s.arg.x = none) (hm : s.folio.migrating = some c) (hb : c.block = s.arg.x) :
    exec .blotterAccessRefused s = .next (s.refuseMigration c e.1 e.2) := by
  refine (event_completes ?_ : execBlotterAccessRefused s = _)
  simp only [hh, hf, Bool.and_self, await_true, Try.ok_bind, hc, hm, decide_eq_true hb, he, need_some]

end Refused

/-! ## Copies on write and deferred frees (R162, R404) -/

section Writes

variable {c : Cow}

theorem copyOnWrite_of {v : State} (hc : s.folio.cows.find? (fun c => c.entry = s.arg.x) = some c) (hh : s.headersFree = true)
    (h : (let u := { s with folio := { s.folio with cows := s.folio.cows.filter (fun d => decide (d.entry ≠ c.entry)) } }
      match u.copyBlock c >>= (fun t => t.switchEntry c) with
      | .error .hold => .error .hold
      | .error _ => Except.ok (u.dropRef c.fresh)
      | r => r) = (Except.ok v : Try State)) : exec .copyOnWrite s = .next v := by
  have hneed : need (s.folio.cows.find? (fun c => c.entry = s.arg.x)) = .ok c := by rw [hc]; rfl
  refine (event_completes ?_ : execCopyOnWrite s = _)
  rw [hneed, Try.ok_bind, hh, await_true, Try.ok_bind]
  exact h

theorem switchEntry_switches {bs : List Byte} {v : State} (hr : s.physRead c.ident .engine c.entry 4 = .ok bs) (hn : leNat bs = c.block)
    (hw : s.physWrite c.ident .engine c.entry (leBytes 4 c.fresh) = .ok v) :
    s.switchEntry c = .ok ((v.ordered (fun o => o.renew (s.keyOf c.entry / 8) 1)).dropRef c.block) := by
  rw [State.switchEntry, hr, Try.ok_bind, if_pos hn, hw, Try.ok_bind]

theorem switchEntry_drops {bs : List Byte} (hr : s.physRead c.ident .engine c.entry 4 = .ok bs) (hn : leNat bs ≠ c.block) :
    s.switchEntry c = .ok (s.dropRef c.fresh) := by
  rw [State.switchEntry, hr, Try.ok_bind, if_neg hn]

theorem folioDeferredFree_eq (hx : s.arg.x ∈ s.folio.freeing) (hh : s.headerOk s.arg.x = true)
    (hc : ∀ c ∈ s.folio.cows, c.block ≠ s.arg.x ∧ c.data ≠ s.blockData s.arg.x)
    (hm : ∀ c, s.folio.migrating = some c → c.block ≠ s.arg.x) : exec .folioDeferredFree s = .next
      (State.returnFree { s with folio := { s.folio with freeing := s.folio.freeing.filter (fun x => decide (x ≠ s.arg.x)) } } s.arg.x) := by
  have hcows : s.folio.cows.any (fun c => decide (c.block = s.arg.x) || decide (c.data = s.blockData s.arg.x)) = false := by
    rw [List.any_eq_false]
    intro c h
    obtain ⟨hb, hd⟩ := hc c h
    simp only [decide_eq_false hb, decide_eq_false hd, Bool.or_self, Bool.false_eq_true, not_false_eq_true]
  refine (event_completes ?_ : execFolioDeferredFree s = _)
  simp only [List.contains_iff_mem.mpr hx, hh, hcows, Bool.not_false, Bool.true_and, Bool.and_true]
  refine bind_of_await _ ?_
  split
  · next c h => exact decide_eq_true (hm c h)
  · rfl

end Writes

theorem blotterEvents : BlotterEvents := by
  intro s
  refine ⟨fun k hk he hb hr => ⟨fun h => blotterVisit_of hk he hb hr ?_, fun c va h => blotterVisit_of hk he hb hr ?_⟩,
    fun c t => conversionSwitch_eq, fun w => migrationStart, fun c t => migrationSwitch_eq,
    fun c e hh hf he => ⟨conversion_refused hh hf he, migration_refused hh hf he⟩,
    fun c hc hh => ⟨fun t bs ht hr => ⟨fun v hn hw => copyOnWrite_of hc hh ?_, fun hn => copyOnWrite_of hc hh ?_⟩,
      fun e va he => copyOnWrite_of hc hh ?_⟩, folioDeferredFree_eq⟩
  · dsimp only
    rw [h]
  · dsimp only
    rw [h]
  · dsimp only
    rw [ht, Try.ok_bind, switchEntry_switches hr hn hw]
  · dsimp only
    rw [ht, Try.ok_bind, switchEntry_drops hr hn]
  · dsimp only
    rw [he, Try.error_bind]

/-- Settles O40. -/
theorem controlBlockAndBlotterEvents : Obligations.ControlBlockAndBlotterEvents := ⟨controlBlockEvents, remapVote, blotterEvents⟩

end Sys2Proof.Proofs
end

section
/-! PROOFS. Requests of other towers and their responses, resending and path failures, ports, and the steering of the time stamp (R169,
R173, R306, R414 to R419). -/

namespace Sys2Proof.Proofs

open Sys2Proof Sys2Proof.Machine Sys2Proof.Claims

variable {s : State}

/-! ## Forwarded arrivals (R169) -/

section Arrivals

variable {a : Arrival}

theorem forwardedArrival_of {v : State} (ha : SMap.find? s.arg.x s.arrivals = some a) (hs : a.stopped = false)
    (hsent : s.arrivalSent s.arg.x = false)
    (h : (if handleNode a.handle ≠ s.node then
      Except.ok (s.sendRequest (handleNode a.handle) (.arrive a.handle a.bytes a.wake a.forwarded false)
        (s.order.know (.arrival s.arg.x)) (.arrival s.arg.x) (rubIdent s.tower) 0)
      else if (s.bar (handleCore a.handle) (handleBar a.handle)).target = 0 then
        Except.ok (s.stopArrival s.arg.x a (rubIdent s.tower) .barrierMisuse false)
      else
        let u := { s with arrivals := s.arrivals.del s.arg.x }.arrive (handleCore a.handle) (handleBar a.handle) a.bytes a.forwarded
          (s.arrivalBring s.arg.x)
        Except.ok (if a.wake then u.testParks else u)) = (Except.ok v : Try State)) : exec .forwardedArrival s = .next v := by
  have hneed : need (SMap.find? s.arg.x s.arrivals) = .ok a := by rw [ha]; rfl
  have hwait : await (!a.stopped && !s.arrivalSent s.arg.x) = .ok () := by rw [hs, hsent]; rfl
  refine (event_completes ?_ : execForwardedArrival s = _)
  dsimp only
  rw [hneed, Try.ok_bind, hwait, Try.ok_bind]
  exact h

end Arrivals

/-! ## Requests of other towers (R173, R417) -/

section Requests

variable {node tag : Nat} {ident : BitVec 32} {op : RemoteOp} {know : Know} {stamp : Nat} {again : Bool}

theorem wakeWrite_of {v : State} (hm : s.fabIn[s.arg.x]? = some (.request node tag ident op know stamp again)) (hw : op.isWake = true)
    (h : (s.takeMessage s.arg.x).serveRequest node tag ident op know stamp again = .ok v) : exec .wakeWrite s = .next v := by
  refine (event_completes ?_ : execWakeWrite s = _)
  simp only [hm, need_some, Try.ok_bind, hw, await_true, h]

theorem remoteRequestApply_of {v : State} (hm : s.fabIn[s.arg.x]? = some (.request node tag ident op know stamp again))
    (hw : op.isWake = false) (hb : s.requestBefore s.arg.x node tag = false) (hy : s.arg.y ≠ 1)
    (h : (s.takeMessage s.arg.x).serveRequest node tag ident op know stamp again = .ok v) : exec .remoteRequestApply s = .next v := by
  refine (event_completes ?_ : execRemoteRequestApply s = _)
  simp only [hm, need_some, Try.ok_bind, hw, hb, Bool.not_false, Bool.and_self, await_true]
  split
  · next h1 => exact absurd h1 hy
  · exact h

/-- A request is served alike by the two steps that serve it. -/
theorem request_of {v : State} (hm : s.fabIn[s.arg.x]? = some (.request node tag ident op know stamp again))
    (hb : op.isWake = true ∨ s.requestBefore s.arg.x node tag = false) (hy : s.arg.y ≠ 1)
    (h : (s.takeMessage s.arg.x).serveRequest node tag ident op know stamp again = .ok v) :
    exec (if op.isWake then .wakeWrite else .remoteRequestApply) s = .next v := by
  cases hw : op.isWake with
  | true => exact wakeWrite_of hm hw h
  | false => exact remoteRequestApply_of hm hw (hb.resolve_left (by rw [hw]; exact Bool.false_ne_true)) hy h

theorem serveRequest_kept {k : Kept} (hk : s.kept.find? (fun k => k.node = node && k.tag = tag) = some k) :
    s.serveRequest node tag ident op know stamp again = .ok (s.respond node tag k.result k.know false) := by
  rw [State.serveRequest, hk]

theorem serveRequest_refused (hk : s.kept.find? (fun k => k.node = node && k.tag = tag) = none) (ha : again = true)
    (h : stamp + 1000000 < s.tsc ∨ 4096 ≤ s.kept.length) :
    s.serveRequest node tag ident op know stamp again = .ok (s.sendMsg node (.refused tag)) := by
  have hor : (again && (decide (stamp + 1000000 < s.tsc) || decide (4096 ≤ s.kept.length))) = true := by
    rw [ha, Bool.true_and, Bool.or_eq_true]
    exact h.imp decide_eq_true decide_eq_true
  rw [State.serveRequest, hk]
  exact if_pos hor

theorem serveRequest_served {answer : Answer} {learnt : Know} {u : State}
    (hk : s.kept.find? (fun k => k.node = node && k.tag = tag) = none) (ha : again = false)
    (h : s.answerRemote node ident know op = .ok (answer, learnt, u)) :
    s.serveRequest node tag ident op know stamp again = .ok (u.respond node tag answer learnt true) := by
  subst ha
  rw [State.serveRequest, hk, Bool.false_and]
  dsimp only
  rw [if_neg Bool.false_ne_true, h, Try.ok_bind]

/-- An element of a chunk that has come lands ahead of the rest. -/
theorem chunkAhead_ok {es : List (Nat × Nat × Nat)} {e : Nat × Nat × Nat} {u v : State} {i j : Nat}
    (hk : s.kept.find? (fun k => k.node = node && k.tag = tag) = none) (hl : 1 < es.length) (he : es[j]? = some e)
    (hu : s.chunkWrite (peerIdent node) es = .ok u) (hv : s.chunkWrite (peerIdent node) [e] = .ok v) :
    s.chunkAhead i j node tag ident es know stamp false =
      .ok { v with fabIn := v.fabIn.set i (.request node tag ident (.chunk (es.eraseIdx j)) know stamp false) } := by
  have hany : s.kept.any (fun e => decide (e.node = node) && decide (e.tag = tag)) = false := by
    rw [List.any_eq_false]
    exact List.find?_eq_none.mp hk
  rw [State.chunkAhead]
  refine (bind_of_await _ ?_).trans ?_
  · rw [decide_eq_true hl, hany, Bool.false_and]
    rfl
  · rw [he, need_some, Try.ok_bind, hu]
    dsimp only
    rw [hv, Try.ok_bind]

theorem chunkElement_lands {es : List (Nat × Nat × Nat)} {e : Nat × Nat × Nat} {u v : State}
    (hm : s.fabIn[s.arg.x]? = some (.request node tag ident (.chunk es) know stamp false))
    (hb : s.requestBefore s.arg.x node tag = false) (hk : s.kept.find? (fun k => k.node = node && k.tag = tag) = none)
    (hy : s.arg.y = 1) (hl : 1 < es.length) (he : es[s.arg.z]? = some e) (hu : s.chunkWrite (peerIdent node) es = .ok u)
    (hv : s.chunkWrite (peerIdent node) [e] = .ok v) : exec .remoteRequestApply s = .next { v with
      fabIn := v.fabIn.set s.arg.x (.request node tag ident (.chunk (es.eraseIdx s.arg.z)) know stamp false) } := by
  refine (event_completes ?_ : execRemoteRequestApply s = _)
  simp only [hm, need_some, Try.ok_bind, show (RemoteOp.chunk es).isWake = false from rfl, hb, Bool.not_false, Bool.and_self, await_true]
  rw [hy]
  exact chunkAhead_ok hk hl he hu hv

end Requests

/-! ## Responses, resending, path failures (R416, R417) -/

section Responses

variable {tag : Nat} {r : Remote}

/-- A response that nothing waits for is dropped. -/
theorem response_dropped {answer : Answer} {learnt : Know} (hm : s.fabIn[s.arg.x]? = some (.response tag answer learnt))
    (h : ∀ r, SMap.find? tag s.remotes = some r → r.answer.isSome = true) :
    exec .remoteResponse s = .next (s.takeMessage s.arg.x) := by
  refine (event_completes ?_ : execRemoteResponse s = _)
  simp only [hm, need_some, Try.ok_bind]
  split
  · next r hr => rw [if_pos (h r hr)]
  · rfl

theorem response_taken {answer : Answer} {learnt : Know} (hm : s.fabIn[s.arg.x]? = some (.response tag answer learnt))
    (hr : SMap.find? tag s.remotes = some r) (ha : r.answer = none) :
    exec .remoteResponse s = .next ((s.takeMessage s.arg.x).answered tag r answer learnt false) := by
  have hr' : SMap.find? tag (s.takeMessage s.arg.x).remotes = some r := hr
  refine (event_completes ?_ : execRemoteResponse s = _)
  simp only [hm, need_some, Try.ok_bind]
  rw [hr']
  exact if_neg (by rw [ha]; decide)

theorem refusal_taken (hm : s.fabIn[s.arg.x]? = some (.refused tag)) (hr : SMap.find? tag s.remotes = some r) (ha : r.answer = none) :
    exec .remoteResponse s = .next ((s.takeMessage s.arg.x).answered tag r (.error .uncorrectable) Know.none true) := by
  have hr' : SMap.find? tag (s.takeMessage s.arg.x).remotes = some r := hr
  refine (event_completes ?_ : execRemoteResponse s = _)
  simp only [hm, need_some, Try.ok_bind]
  rw [hr']
  exact if_neg (by rw [ha]; decide)

theorem remoteResend_eq (hr : SMap.find? s.arg.x s.remotes = some r) (ha : r.answer = none) (hl : r.last + 100000 ≤ s.tsc)
    (hn : r.sends < 8) (hf : s.tsc < r.first + 800000) : exec .remoteResend s = .next
      ({ s with remotes := s.remotes.put s.arg.x { r with last := s.tsc, sends := r.sends + 1 } }.sendVia r.route r.node
        (.request s.node s.arg.x r.ident r.op r.know r.first true)) := by
  have hneed : need (SMap.find? s.arg.x s.remotes) = .ok r := by rw [hr]; rfl
  have hnone : r.answer.isNone = true := by rw [ha]; rfl
  refine (event_completes ?_ : execRemoteResend s = _)
  dsimp only
  rw [hneed, Try.ok_bind]
  refine bind_of_await _ ?_
  rw [hnone, decide_eq_true hl, decide_eq_true hn, decide_eq_true hf]
  rfl

theorem pathFailure_eq (hr : SMap.find? s.arg.x s.remotes = some r) (ha : r.answer = none)
    (h : r.first + 800000 ≤ s.tsc ∨ r.route = none) :
    exec .pathFailure s = .next (s.answered s.arg.x r (.error .uncorrectable) Know.none true) := by
  have hneed : need (SMap.find? s.arg.x s.remotes) = .ok r := by rw [hr]; rfl
  have hnone : r.answer.isNone = true := by rw [ha]; rfl
  have hor : (decide (r.first + 800000 ≤ s.tsc) || r.route.isNone) = true :=
    (Bool.or_eq_true _ _).mpr (h.imp decide_eq_true Option.isNone_iff_eq_none.mpr)
  refine (event_completes ?_ : execPathFailure s = _)
  dsimp only
  rw [hneed, Try.ok_bind]
  refine bind_of_await _ ?_
  rw [hnone, hor]
  rfl

theorem tagFilterExpiry_eq {k : Kept} (hk : s.kept[s.arg.x]? = some k) (h : k.since + 1000000 ≤ s.tsc) :
    exec .tagFilterExpiry s = .next { s with kept := s.kept.eraseIdx s.arg.x } := by
  refine (event_completes ?_ : execTagFilterExpiry s = _)
  rw [hk, need_some, Try.ok_bind]
  exact bind_of_await _ (decide_eq_true h)

end Responses

/-! ## What the fabric status word leaves (Table 18.4) -/

/-- From `s` to `t` the fabric is as it was but for the ports that are to retrain. -/
def SameHops (s t : State) : Prop := t.fabric = { s.fabric with retrain := t.fabric.retrain }

section Hops

variable {t u : State}

theorem SameHops.refl (s : State) : SameHops s s := rfl

theorem SameHops.trans (h : SameHops s t) (g : SameHops t u) : SameHops s u := by
  unfold SameHops at *
  rw [g, h]

theorem sameHops_of_fabric (h : t.fabric = s.fabric) : SameHops s t := by
  unfold SameHops
  rw [h]

theorem sameHops_foldl {α : Type} {f : State → α → State} (h : ∀ s x, SameHops s (f s x)) (xs : List α) (s : State) :
    SameHops s (xs.foldl f s) := by
  induction xs generalizing s with
  | nil => exact .refl s
  | cons x xs ih => exact (h s x).trans (ih (f s x))

theorem sameHops_fabricWritten (s : State) (a n : Nat) : SameHops s (s.fabricWritten a n) := by
  unfold State.fabricWritten
  split
  · exact .refl s
  · dsimp only
    split
    · rfl
    · exact .refl s

theorem sameHops_stored (s : State) (a : Nat) (bs : List Byte) : SameHops s (stored s a bs) := by
  have hstore : SameHops s (s.store a bs) := by
    rw [store_eq]
    exact .refl s
  have hnote : SameHops (s.store a bs) ((s.store a bs).noteWrite a bs.length) := by
    rw [noteWrite_eq]
    exact .refl (s.store a bs)
  exact (hstore.trans hnote).trans (sameHops_fabricWritten ..)

theorem sameHops_put (s : State) (a : Nat) (bs : List Byte) : SameHops s (s.put a bs) := by
  cases h : s.sealedAt a with
  | true =>
    rw [State.put, if_pos h]
    exact .refl s
  | false =>
    obtain hp | ⟨t, x, o, n, hp⟩ := put_of_unsealed s a bs h
    · rw [hp]
      exact sameHops_stored s a bs
    · rw [hp, clearPoison_eq]
      exact sameHops_stored s a bs

theorem sameHops_mirrorSector (fuel : Nat) (done : List Nat) (s : State) (q : Nat) : SameHops s (State.mirrorSector fuel done s q) := by
  induction fuel generalizing done s q with
  | zero => exact .refl s
  | succ fuel ih =>
    rw [State.mirrorSector]
    refine sameHops_foldl (fun v e => ?_) _ s
    split
    · exact .refl v
    · exact (sameHops_put v (32 * e.2) (v.plainBytes (32 * q) 32)).trans (.trans (sameHops_of_fabric rfl) (ih _ _ _))

theorem sameHops_detectWash (s : State) (k : Nat) : SameHops s (s.detectWash k) := by
  unfold State.detectWash
  split
  · exact .refl s
  · split
    · split
      · dsimp only
        split
        · exact .refl s
        · split <;> exact .refl s
      · exact .refl s
    · exact .refl s

theorem sameHops_writeBytes (s : State) (a : Nat) (bs : List Byte) : SameHops s (s.writeBytes a bs) := by
  refine (sameHops_put s a bs).trans ?_
  unfold State.writeBytes State.mirror
  split
  · exact .refl _
  · exact (sameHops_foldl (sameHops_mirrorSector 8 []) _ _).trans
      (sameHops_foldl (fun v _ => sameHops_foldl (fun w _ => sameHops_detectWash w _) _ v) _ _)

theorem sameHops_dieWrote (old s : State) (ident : BitVec 32) : SameHops s (State.dieWrote old s ident) := by
  unfold State.dieWrote
  split
  · exact .refl s
  · split <;> exact .refl s

theorem sameHops_physWrite {ident : BitVec 32} {r : Reach} {a : Nat} {bs : List Byte} (h : s.physWrite ident r a bs = .ok u) :
    SameHops s u := by
  rw [State.physWrite] at h
  obtain ⟨p, -, h⟩ := exists_of_bind_ok h
  obtain ⟨-, -, h⟩ := exists_of_bind_ok h
  obtain rfl := Except.ok.inj h
  exact (sameHops_writeBytes s _ bs).trans (sameHops_dieWrote ..)

theorem sameHops_serviceWrite (s : State) (off n v : Nat) : SameHops s (s.serviceWrite off n v) := by
  unfold State.serviceWrite
  split
  · exact .refl s
  · split
    · next h => exact sameHops_physWrite h
    · exact .refl s
    · exact .refl s

theorem linkTrainingComplete_eq (hv : s.fabric.valid = true) (hp : s.arg.x ≤ 11) (ht : s.fabric.training.getLsbD s.arg.x = true) :
    ∃ u, exec .linkTrainingComplete s = .next u ∧
      u.fabric.up = s.fabric.up ||| portBit s.arg.x ∧ u.fabric.training = s.fabric.training &&& ~~~(portBit s.arg.x) ∧
      u.fabric.wash = if s.arg.y = 1 ∧ s.fabric.washWanted.getLsbD s.arg.x = true then s.fabric.wash ||| portBit s.arg.x
        else s.fabric.wash &&& ~~~(portBit s.arg.x) := by
  have hwait : await (s.fabric.valid && decide (s.arg.x ≤ 11) && s.fabric.training.getLsbD s.arg.x) = .ok () := by
    rw [hv, decide_eq_true hp, ht]
    rfl
  refine ⟨?u, (event_completes ?ev : execLinkTrainingComplete s = .next ?u), ?rest⟩
  case ev =>
    dsimp only
    rw [hwait, Try.ok_bind]
  case rest =>
    have hs : ∀ v : State, SameHops v v.showFabric := fun v => sameHops_serviceWrite v _ _ _
    unfold SameHops at hs
    rw [hs]
    refine ⟨rfl, rfl, ?_⟩
    simp only [Bool.and_eq_true, decide_eq_true_eq]

end Hops

/-! ## The time stamp (R419) -/

section Timing

variable {port node : Nat} {ahead : Int} {master : Bool}

theorem timingExchange_follows (hy : s.arg.y ≠ 1) (hm : s.fabIn[s.arg.x]? = some (.timing port ahead master node))
    (ha : s.fabric.acting = false) :
    let taken := s.takeMessage s.arg.x
    exec .tscTimingExchange s = .next (({ taken with fabric := { taken.fabric with timed := s.tsc } }.steer ahead).showFabric) := by
  have ha' : (s.takeMessage s.arg.x).fabric.acting = false := ha
  refine (event_completes ?_ : execTscTimingExchange s = _)
  simp only [if_neg hy, hm, need_some, Try.ok_bind]
  rw [if_neg (Bool.eq_false_iff.mp ha')]
  rfl

theorem timingExchange_leads (hy : s.arg.y ≠ 1) (hm : s.fabIn[s.arg.x]? = some (.timing port ahead master node))
    (ha : s.fabric.acting = true) (h : master = false ∨ s.node ≤ node) :
    exec .tscTimingExchange s = .next (s.takeMessage s.arg.x) := by
  have ha' : (s.takeMessage s.arg.x).fabric.acting = true := ha
  have hnot : ¬(master && decide (node < (s.takeMessage s.arg.x).node)) = true := by
    rw [Bool.and_eq_true, decide_eq_true_eq]
    rintro ⟨hmaster, hlt⟩
    obtain hf | hn := h
    · exact Bool.false_ne_true (hf.symm.trans hmaster)
    · exact Nat.not_lt.mpr hn hlt
  refine (event_completes ?_ : execTscTimingExchange s = _)
  simp only [if_neg hy, hm, need_some, Try.ok_bind]
  rw [if_pos ha', if_neg hnot]

/-- The tower counts as synchronised once stepped forward, or within 4 ns of the master. -/
theorem synced_steer (h : (s.steer ahead).fabric.synced = true) :
    (s.fabric.synced = false ∧ 0 ≤ ahead) ∨ (-4 ≤ ahead ∧ ahead ≤ 4) := by
  unfold State.steer at h
  split at h
  · next hc =>
    rw [Bool.and_eq_true, Bool.not_eq_true', decide_eq_true_eq] at hc
    exact .inl hc
  · have hb : (decide (-4 ≤ ahead) && decide (ahead ≤ 4)) = true := h
    rw [Bool.and_eq_true, decide_eq_true_eq, decide_eq_true_eq] at hb
    exact .inr hb

theorem tscSyncLoss_eq (hs : s.fabric.synced = true) (ha : s.fabric.acting = false) (h : s.fabric.timed + 1000000 ≤ s.tsc) :
    exec .tscSyncLoss s = .next ({ s with fabric := { s.fabric with synced := false, slew := 0 } }.showFabric) := by
  refine (event_completes ?_ : execTscSyncLoss s = _)
  refine bind_of_await _ ?_
  rw [hs, ha, decide_eq_true h]
  rfl

end Timing

/-! ## Ports (R414, R415) -/

section Ports

variable {f : Flit} {rest : List Flit}

theorem flitReceive_of {v : State} (hf : s.flitIn = f :: rest)
    (h : (let u := { s with flitIn := rest }
      let l := u.link f.port
      let w := leNat (f.bytes.take 8)
      let ack := BitVec.ofNat 16 (bits w 32 16)
      let held := l.held.filter (fun h => decide (2 ^ 15 ≤ (ack - h.1).toNat))
      let refused := l.refused.filter (fun n => held.any (fun h => decide (h.1 = n)))
      if !s.portUp f.port then u
      else if BitVec.ofNat 64 (leNat ((f.bytes.drop 248).take 8)) ≠ crc64 (f.bytes.take 248) then
        if l.failedOnce then u.portDown f.port else u.setLink f.port { l with failedOnce := true }
      else if BitVec.ofNat 16 (bits w 48 16) = l.expect ∧ bits w 24 8 ≤ 4 ∧ bits w 0 24 = 0 then
        u.setLink f.port { l with expect := l.expect + 1, failedOnce := false, held := held, refused := refused }
      else u.setLink f.port { l with held := held, refused := refused }) = v) : exec .gegilFlitReceive s = .next v := by
  subst h
  refine (event_completes ?_ : execGegilFlitReceive s = _)
  simp only [hf, List.head?_cons, need_some, Try.ok_bind, List.drop_one, List.tail_cons, apply_ite (Except.ok (ε := Stop))]
  rfl

theorem portRetrain_eq (hv : s.fabric.valid = true) (hp : s.arg.x ≤ 11) (hr : s.fabric.retrain.getLsbD s.arg.x = true)
    (hu : s.fabric.up.getLsbD s.arg.x = false) : exec .portRetrain s = .next
      { s with fabric := { s.fabric with
        retrain := s.fabric.retrain &&& ~~~(portBit s.arg.x), training := s.fabric.training ||| portBit s.arg.x } } := by
  refine (event_completes ?_ : execPortRetrain s = _)
  refine bind_of_await _ ?_
  rw [hv, decide_eq_true hp, hr, hu]
  rfl

end Ports

theorem fabricEvents : FabricEvents := by
  intro s
  dsimp only
  refine ⟨fun a ha hs hsent => ⟨fun hn => forwardedArrival_of ha hs hsent (if_pos hn),
      fun hn ht => forwardedArrival_of ha hs hsent ((if_neg (Classical.not_not.mpr hn)).trans (if_pos ht)), fun hn ht hw => ?_⟩,
    fun node tag ident op know stamp again hm hb hy => ⟨fun k hk => request_of hm hb hy (serveRequest_kept hk),
      fun hk ha h => request_of hm hb hy (serveRequest_refused hk ha h),
      fun answer learnt u hk ha h => request_of hm hb hy (serveRequest_served hk ha h)⟩,
    fun node tag ident es know stamp e u v => chunkElement_lands,
    fun tag answer learnt hm => ⟨fun hr => response_dropped hm (fun r h => absurd (hr.symm.trans h) (by simp)), fun r => response_taken hm,
      fun r v hr ha => response_dropped hm (fun q h => ?_)⟩,
    fun tag r => refusal_taken, fun r hr ha => ⟨remoteResend_eq hr ha, pathFailure_eq hr ha⟩, fun k => tagFilterExpiry_eq,
    fun f rest hf => ⟨fun hp => ?_, fun hp hs h1 => ?_, fun hp hs h1 => ?_, fun hp hs ho => ?_, fun hp hs ho => ?_⟩,
    fun hv hp => ⟨portRetrain_eq hv hp, linkTrainingComplete_eq hv hp⟩,
    fun port ahead master node hm hy => ⟨timingExchange_follows hy hm, timingExchange_leads hy hm⟩, fun hy ht => ?_,
    fun ahead => synced_steer, tscSyncLoss_eq⟩
  · refine forwardedArrival_of ha hs hsent ((if_neg (Classical.not_not.mpr hn)).trans ((if_neg ht).trans ?_))
    rw [hw]
    rfl
  · obtain rfl := Option.some.inj (hr.symm.trans h)
    rw [ha]
    rfl
  · refine flitReceive_of hf (if_pos ?_)
    rw [hp]
    rfl
  · exact flitReceive_of hf ((if_neg (by rw [hp]; decide)).trans ((if_pos hs).trans (if_pos h1)))
  · exact flitReceive_of hf ((if_neg (by rw [hp]; decide)).trans ((if_pos hs).trans (if_neg (Bool.eq_false_iff.mp h1))))
  · exact flitReceive_of hf ((if_neg (by rw [hp]; decide)).trans ((if_neg (Classical.not_not.mpr hs)).trans (if_pos ho)))
  · exact flitReceive_of hf ((if_neg (by rw [hp]; decide)).trans ((if_neg (Classical.not_not.mpr hs)).trans (if_neg ho)))
  · refine (event_completes ?_ : execTscTimingExchange s = _)
    simp only [if_pos hy]
    exact bind_of_await _ (decide_eq_true ht)

end Sys2Proof.Proofs
end

section
/-! PROOFS. Flits (R414, R415) and the phases of a firing of a collective channel (R420 to R424). -/

namespace Sys2Proof.Proofs

open Sys2Proof Sys2Proof.Machine Sys2Proof.Claims

/-! ## Flits (Table 18.3) -/

section Flits

variable {s : State} {p : Nat}

theorem link_setLink_self (s : State) (p : Nat) (l : Link) : (s.setLink p l).link p = l :=
  SMap.get_set_self Link.reset p l s.fabric.links

/-- The header word of a flit: its sequence number, the one acknowledged, and its kind. -/
def flitHead (seq ack kind : Nat) : Nat := seq * 2 ^ 48 + ack * 2 ^ 32 + kind * 2 ^ 24

theorem flitHead_fields {seq ack kind : Nat} (hs : seq < 2 ^ 16) (ha : ack < 2 ^ 16) (hk : kind < 256) :
    flitHead seq ack kind < 256 ^ 8 ∧ bits (flitHead seq ack kind) 48 16 = seq ∧ bits (flitHead seq ack kind) 32 16 = ack ∧
      bits (flitHead seq ack kind) 24 8 = kind ∧ bits (flitHead seq ack kind) 0 24 = 0 := by
  unfold flitHead bits
  refine ⟨?_, ?_, ?_, ?_, ?_⟩ <;> omega

/-- Three runs of 8, 240 and 8 bytes, cut apart again. -/
theorem cuts_of_lengths {α : Type} {x y z : List α} (hx : x.length = 8) (hy : y.length = 240) (hz : z.length = 8) :
    (x ++ y ++ z).length = 256 ∧ (x ++ y ++ z).take 8 = x ∧ ((x ++ y ++ z).drop 8).take 240 = y ∧ (x ++ y ++ z).take 248 = x ++ y ∧
      ((x ++ y ++ z).drop 248).take 8 = z := by
  have hxy : (x ++ y).length = 248 := by rw [List.length_append, hx, hy]
  refine ⟨?_, ?_, ?_, List.take_left' hxy, ?_⟩
  · rw [List.length_append, hxy, hz]
  · rw [List.append_assoc, List.take_left' hx]
  · rw [List.append_assoc, List.drop_left' hx, List.take_left' hy]
  · rw [List.drop_left' hxy, List.take_of_length_le (Nat.le_of_eq hz)]

theorem flit_parts (l : Link) {kind : Nat} {payload : List Byte} (hp : payload.length = 240) (hk : kind < 256) :
    (l.flit kind payload).length = 256 ∧
      leNat ((l.flit kind payload).take 8) = flitHead l.nextSeq.toNat (l.expect - 1).toNat kind ∧
      ((l.flit kind payload).drop 8).take 240 = payload ∧
      BitVec.ofNat 64 (leNat (((l.flit kind payload).drop 248).take 8)) = crc64 ((l.flit kind payload).take 248) := by
  obtain ⟨hlt, -⟩ := flitHead_fields l.nextSeq.isLt (l.expect - 1).isLt hk
  have hhead := length_leBytes 8 (flitHead l.nextSeq.toNat (l.expect - 1).toNat kind)
  have hcrc := length_leBytes 8 (crc64 (leBytes 8 (flitHead l.nextSeq.toNat (l.expect - 1).toNat kind) ++ payload)).toNat
  obtain ⟨hlen, h8, hpay, hbody, hlast⟩ := cuts_of_lengths hhead hp hcrc
  have hflit : l.flit kind payload = leBytes 8 (flitHead l.nextSeq.toNat (l.expect - 1).toNat kind) ++ payload ++
      leBytes 8 (crc64 (leBytes 8 (flitHead l.nextSeq.toNat (l.expect - 1).toNat kind) ++ payload)).toNat := rfl
  rw [hflit]
  refine ⟨hlen, ?_, hpay, ?_⟩
  · rw [h8, leNat_leBytes, Nat.mod_eq_of_lt hlt]
  · rw [hlast, hbody, leNat_leBytes, show (256 : Nat) ^ 8 = 2 ^ 64 from rfl, Nat.mod_eq_of_lt (BitVec.isLt _), BitVec.ofNat_toNat, BitVec.setWidth_eq]

/-- A flit that sets out is held, and is the last to leave. -/
theorem sendFlit_link (s : State) (p kind : Nat) (payload : List Byte) :
    (s.sendFlit p kind payload).link p = { s.link p with
      nextSeq := (s.link p).nextSeq + 1, held := (s.link p).held ++ [((s.link p).nextSeq, (s.link p).flit kind payload)] } :=
  link_setLink_self s p _

/-- What is sent again are the flit refused and those after it. -/
theorem dropWhile_refused {seq : BitVec 16} {before rest : List (BitVec 16 × List Byte)} {bs : List Byte}
    (h : ∀ e ∈ before, e.1 ≠ seq) :
    (before ++ (seq, bs) :: rest).dropWhile (fun e => decide (e.1 ≠ seq)) = (seq, bs) :: rest := by
  rw [List.dropWhile_append_of_pos (fun e he => decide_eq_true (h e he)), List.dropWhile_cons_of_neg]
  simp

theorem refuseFlit_eq {seq : BitVec 16} {before rest : List (BitVec 16 × List Byte)} {bs : List Byte} (hp : s.portUp p = true)
    (hh : (s.link p).held = before ++ (seq, bs) :: rest) (h : ∀ e ∈ before, e.1 ≠ seq) :
    s.refuseFlit p seq = if (s.link p).refused = some seq then s.portDown p
      else { s.setLink p { s.link p with refused := some seq } with
        flitOut := s.flitOut ++ ((seq, bs) :: rest).map (fun h => { port := p, bytes := h.2 }) } := by
  unfold State.refuseFlit
  dsimp only
  rw [hh, dropWhile_refused h, hp]
  rfl

end Flits

theorem flitEvents : FlitEvents := by
  intro s p
  dsimp only
  refine ⟨fun kind payload hl hk => ?_, fun seq before bs rest hp hh hb => ⟨fun hr => ?_, fun hr => ?_⟩⟩
  · obtain ⟨hlen, hhead, hpay, hcrc⟩ := flit_parts (s.link p) hl hk
    obtain ⟨-, hseq, hack, hkind, hzero⟩ := flitHead_fields (s.link p).nextSeq.isLt ((s.link p).expect - 1).isLt hk
    refine ⟨(s.link p).flit kind payload, sendFlit_link s p kind payload, rfl, hlen, ?_, ?_, ?_, ?_, hpay, hcrc⟩ <;> rw [hhead]
    · exact hseq
    · exact hack
    · exact hkind
    · exact hzero
  · rw [refuseFlit_eq hp hh hb, if_neg hr]
    exact ⟨rfl, link_setLink_self s p _⟩
  · rw [refuseFlit_eq hp hh hb, if_pos hr]

/-! ## Collective channels (R420 to R424) -/

section Collectives

variable {s : State} {i : Instance}

theorem goingOn_ok (hi : (s.channel s.arg.x).inst = some i) (hs : i.stopped = false) (hf : s.serviceFree = true) :
    s.goingOn = .ok (s.arg.x, i) := by
  rw [State.goingOn, hi, need_some, Try.ok_bind, hs, hf]
  rfl

theorem completion_malformed (hg : s.goingOn = .ok (s.arg.x, i)) (hm : s.malformed i = true) : exec .collectiveCompletion s = .next
    ((s.endInstance s.arg.x i 2 []).post (infoRecord s.tower 10 none s.arg.x 0)) := by
  refine (event_completes ?_ : execCollectiveCompletion s = _)
  simp only [hg, Try.ok_bind, hm, if_true]

theorem completion_disagreed (hg : s.goingOn = .ok (s.arg.x, i)) (hm : s.malformed i = false) (hd : i.data = false)
    (hall : s.allStarted s.arg.x i = true) (ha : s.agreed s.arg.x i = false) : exec .collectiveCompletion s = .next
      ((s.endInstance s.arg.x i 3 []).post (infoRecord s.tower 10 none s.arg.x 0)) := by
  refine (event_completes ?_ : execCollectiveCompletion s = _)
  simp only [hg, Try.ok_bind, hm, hall, ha, hd, Bool.not_false, Bool.and_self, if_true, if_neg Bool.false_ne_true]

theorem completion_complete {u : State} (hg : s.goingOn = .ok (s.arg.x, i)) (hm : s.malformed i = false) (hd : i.data = true)
    (hall : s.allShares s.arg.x i = true) (hu : s.writeOutcome s.arg.x i = .ok u) :
    exec .collectiveCompletion s = .next (u.endInstance s.arg.x i 0 (u.order.since s.order.next)) := by
  refine (event_completes ?_ : execCollectiveCompletion s = _)
  simp only [hg, Try.ok_bind, hm, hall, hd, Bool.not_true, Bool.and_false, Bool.and_self, await_true, if_neg Bool.false_ne_true, hu]

theorem dataPhase_eq {bs : List Byte} (hg : s.goingOn = .ok (s.arg.x, i)) (hm : s.malformed i = false) (hd : i.data = false)
    (ha : s.agreed s.arg.x i = true) (hbs : s.ownShare i = .ok bs) :
    let u := s.setChannel s.arg.x { s.channel s.arg.x with inst := some { i with data := true } }
    let m : Share := { channel := s.arg.x, k := i.k, node := s.node, parts := i.parts, bytes := bs }
    exec .collectiveDataPhase s = .next ((u.keepShare m).sendCollective
      (i.parts.filter (fun n => decide (n ≠ s.node))) s.arg.x i.k (.data m)) := by
  refine (event_completes ?_ : execCollectiveDataPhase s = _)
  simp only [hg, Try.ok_bind, hm, ha, hd, Bool.not_false, Bool.and_self, await_true, hbs]
  rfl

theorem collectiveStop_eq {cause : Cause} {node : Nat} (hg : s.goingOn = .ok (s.arg.x, i)) (hm : s.malformed i = false)
    (hc : s.stopCause s.arg.x i = some (cause, node)) : exec .collectiveStop s = .next
      ((s.setChannel s.arg.x { s.channel s.arg.x with inst := some { i with stopped := true, cause := cause } }).post
        { infoRecord s.tower 10 (some cause) s.arg.x node with
          src := .collective s.arg.x, info := false, ident := s.collectIdent.toNat }) := by
  refine (event_completes ?_ : execCollectiveStop s = _)
  simp only [hg, Try.ok_bind, hm, Bool.not_false, await_true, hc, need_some]
  rfl

variable {d k : Nat}

/-- A message that abandons a firing which has ended is dropped. -/
theorem abandonMessage_old (hm : s.fabIn[s.arg.x]? = some (.abandon d k)) (h : k < (s.channel d).ended) :
    exec .collectiveAbandonMessage s = .next (s.takeMessage s.arg.x) := by
  refine (event_completes ?_ : execCollectiveAbandonMessage s = _)
  simp only [hm, need_some, Try.ok_bind, if_pos h]

theorem abandonMessage_taken (hm : s.fabIn[s.arg.x]? = some (.abandon d k)) (h : (s.channel d).ended ≤ k)
    (hi : (s.channel d).inst = some i) (hk : i.k = k) (hf : s.serviceFree = true) :
    exec .collectiveAbandonMessage s = .next (if i.stopped then
        (s.takeMessage s.arg.x).setChannel d { s.channel d with inst := some { i with abandoned := true } }
      else (s.takeMessage s.arg.x).endInstance d i 1 []) := by
  refine (event_completes ?_ : execCollectiveAbandonMessage s = _)
  simp only [hm, need_some, Try.ok_bind, if_neg (Nat.not_lt.mpr h), hi, decide_eq_true hk, hf, Bool.and_self, await_true]
  simp only [apply_ite (Except.ok (ε := Stop))]

end Collectives

theorem collectiveEvents : CollectiveEvents := by
  intro s i
  dsimp only
  refine ⟨fun hf hi hs => ?_, fun d k hm => ⟨abandonMessage_old hm, fun h hi hk hf => ⟨fun hs => ?_, fun hs => ?_⟩⟩⟩
  · have hg := goingOn_ok hi hs hf
    exact ⟨completion_malformed hg, completion_disagreed hg, fun bs hm hd ha hbs => dataPhase_eq hg hm hd ha hbs,
      fun u => completion_complete hg, fun cause node => collectiveStop_eq hg⟩
  · rw [abandonMessage_taken hm h hi hk hf, if_pos hs]
  · rw [abandonMessage_taken hm h hi hk hf, if_neg (Bool.eq_false_iff.mp hs)]

/-- Settles O41. -/
theorem fabricAndCollectiveEvents : Obligations.FabricAndCollectiveEvents := ⟨fabricEvents, flitEvents, collectiveEvents⟩

end Sys2Proof.Proofs
end

section
/-! PROOFS. The host's accesses, interrupts, reset, boot and attestation (R186, R303, R409 to R413, R425 to R427); monitor units and
samples (R191, R394, R395). -/

namespace Sys2Proof.Proofs

open Sys2Proof Sys2Proof.Machine Sys2Proof.Claims

/-! ## Accesses through the BARs (R410) -/

section Bars

variable {s : State} {rest : List HostMsg}

theorem hostHead_ok {m : HostMsg} (h : HostNext s m rest) : s.hostHead = .ok (m, hostTaken s rest) := by
  rw [State.hostHead, show s.host.inbox = m :: rest from h]
  rfl

theorem bar2Read_eq {off n : Nat} (h : HostNext s (.bar2Read off n) rest) :
    let u := hostTaken s rest
    (∀ bs, s.bar2Read off n = .ok bs → exec .hostBarAccess s = .next (u.hostData bs)) ∧
    (∀ c va, s.bar2Read off n = .error (.trap c va) →
      exec .hostBarAccess s = .next ((u.hostData (List.replicate n 255)).hostRefused off)) := by
  refine ⟨fun bs hr => (event_completes ?_ : execHostBarAccess s = _), fun c va hr => (event_completes ?_ : execHostBarAccess s = _)⟩ <;>
    simp only [hostHead_ok h, Try.ok_bind, hr]

theorem bar2Write_eq {off : Nat} {bs : List Byte} (h : HostNext s (.bar2Write off bs) rest) :
    let u := hostTaken s rest
    (∀ t, u.bar2Write off bs = .ok t → exec .hostBarAccess s = .next t) ∧
    (∀ c va, u.bar2Write off bs = .error (.trap c va) → exec .hostBarAccess s = .next (u.hostRefused off)) := by
  refine ⟨fun t hr => (event_completes ?_ : execHostBarAccess s = _), fun c va hr => (event_completes ?_ : execHostBarAccess s = _)⟩ <;>
    simp only [hostHead_ok h, Try.ok_bind, hr]

theorem bar4Read_answered {off n a : Nat} (h : HostNext s (.bar4Read off n) rest) (ha : s.bar2 (off % 2 ^ 40) n .read = .ok a) :
    exec .hostBarAccess s = .next (if s.unbacked (off % 2 ^ 40) n then
        ((hostTaken s rest).hostData (List.replicate n 255)).hostRefused off
      else (hostTaken s rest).hostData (List.replicate n 255)) := by
  refine (event_completes ?_ : execHostBarAccess s = _)
  simp only [hostHead_ok h, Try.ok_bind, ha]

theorem bar4Read_refused {off n va : Nat} (h : HostNext s (.bar4Read off n) rest)
    (ha : s.bar2 (off % 2 ^ 40) n .read = .error (.trap .access va)) :
    exec .hostBarAccess s = .next (((hostTaken s rest).hostData (List.replicate n 255)).hostRefused off) := by
  refine (event_completes ?_ : execHostBarAccess s = _)
  simp only [hostHead_ok h, Try.ok_bind, ha]

theorem bar0Read_eq {off n : Nat} (h : HostNext s (.bar0Read off n) rest) :
    exec .hostBarAccess s = .next ((hostTaken s rest).hostData ((List.range n).map (fun i => s.bar0Byte (off + i)))) := by
  refine (event_completes ?_ : execHostBarAccess s = _)
  simp only [hostHead_ok h, Try.ok_bind]

end Bars

/-! ## Wash chunks (R411) -/

section Wash

variable {s : State} {mode off : Nat} {bs : List Byte}

/-- A write within one chunk is one part. -/
theorem washParts_one (hne : bs ≠ []) (h : off % 512 + bs.length ≤ 512) : washParts off bs = [(off, bs)] := by
  have hpos : 0 < bs.length := List.length_pos_iff.mpr hne
  have hone : ceilDiv (off % 512 + bs.length) 512 = 1 := by
    unfold ceilDiv
    omega
  have hlo : max off (512 * (off / 512 + 0)) = off := by omega
  rw [washParts, hone, List.range_one, List.map_singleton]
  dsimp only
  rw [hlo, Nat.sub_self, List.drop_zero, List.take_of_length_le (by omega)]

theorem washWrite_refused {c : Cause} {va : Nat} (h : s.washPlace mode (off / 512 * 512) = .error (.trap c va)) :
    s.washWrite mode off bs = .ok (((s.washAgain (mode * 2 ^ 40 + off / 512 * 512) (off % 512)).setWashing
      (mode * 2 ^ 40 + off / 512 * 512) (some none)).hostRefused (mode * 2 ^ 40 + off)) := by
  rw [State.washWrite]
  dsimp only
  rw [h]

theorem washWrite_unplaced (h : s.washPlace mode (off / 512 * 512) = .ok none) :
    s.washWrite mode off bs = .ok ((s.washAgain (mode * 2 ^ 40 + off / 512 * 512) (off % 512)).washFail
      (mode * 2 ^ 40 + off / 512 * 512)) := by
  rw [State.washWrite]
  dsimp only
  rw [h]

variable {x o : Nat} (h : s.washPlace mode (off / 512 * 512) = .ok (some (x, o)))
include h

theorem washWrite_out_of_order (hg : s.washGather (mode * 2 ^ 40 + off / 512 * 512) (off % 512) bs = none) :
    s.washWrite mode off bs = .ok ((s.washAgain (mode * 2 ^ 40 + off / 512 * 512) (off % 512)).washFail
      (mode * 2 ^ 40 + off / 512 * 512)) := by
  rw [State.washWrite]
  dsimp only
  rw [h]
  dsimp only
  rw [hg]

/-- A chunk in mode 0 holds 512 bytes. -/
theorem washWrite_raw {acc : List Byte} (hg : s.washGather (mode * 2 ^ 40 + off / 512 * 512) (off % 512) bs = some acc) (hm : mode = 0) :
    let key := mode * 2 ^ 40 + off / 512 * 512
    let v := s.washAgain key (off % 512)
    (acc.length < 512 → s.washWrite mode off bs = .ok (v.setWashing key (some (some acc)))) ∧
    (acc.length = 512 → s.washWrite mode off bs = .ok (v.hostSees ((v.setWashing key none).storeWashed s.tower x o 0 acc))) := by
  have hsize : (if mode = 4 ∧ acc.length < 2 then 512 else washSize mode acc) = 512 := by
    rw [if_neg (fun hc => by omega), washSize, if_pos hm]
  have hw : s.washWrite mode off bs = (let key := mode * 2 ^ 40 + off / 512 * 512
      let v := s.washAgain key (off % 512)
      if 512 < 512 ∨ 512 < acc.length then Except.ok (v.washFail key)
      else if acc.length < 512 then Except.ok (v.setWashing key (some (some acc)))
      else Except.ok (v.hostSees ((v.setWashing key none).storeWashed s.tower x o mode acc))) := by
    rw [State.washWrite]
    dsimp only
    rw [h]
    dsimp only
    rw [hg]
    dsimp only
    rw [hsize]
  intro key v
  refine ⟨fun hl => ?_, fun hl => ?_⟩
  · exact hw.trans ((if_neg (by omega)).trans (if_pos hl))
  · exact hw.trans ((if_neg (by omega)).trans ((if_neg (by omega)).trans
      (congrArg (fun n => Except.ok (v.hostSees ((v.setWashing key none).storeWashed s.tower x o n acc))) hm)))

end Wash

theorem washWrites_eq {s : State} {rest : List HostMsg} {mode off : Nat} {bs : List Byte} {t : State}
    (h : HostNext s (.bar4Write mode off bs) rest) (ht : State.washWrites mode (washParts off bs) (hostTaken s rest) = .ok t) :
    exec .hostWashChunkWrite s = .next t := by
  refine (event_completes ?_ : execHostWashChunkWrite s = _)
  simp only [hostHead_ok h, Try.ok_bind, ht]

/-! ## Mailboxes and interrupts (R412, R413) -/

section Mailboxes

variable {s : State} {rest : List HostMsg} {n : Nat}

theorem hmbCtl_eq {v : BitVec 32} (h : HostNext s (.hmbCtl n v) rest) :
    exec .hmbCtl s = .next (
      let u := hostTaken s rest
      let m := s.mailbox n
      let len := bits v.toNat 0 13
      if v.getLsbD 16 && !m.device && decide (len ≤ 4096) then
        let t := u.setMailbox n { m with len := len, device := true }
        { t with host := { t.host with refused := t.host.refused.filter (fun k => decide (k ≠ n)) } }.testParks
      else { u with host := { u.host with
        refused := if u.host.refused.contains n then u.host.refused else u.host.refused ++ [n] } }) := by
  refine (event_completes ?_ : execHmbCtl s = _)
  simp only [hostHead_ok h, Try.ok_bind]
  simp only [apply_ite (Except.ok (ε := Stop))]

theorem hmbCtl_accepts {v : BitVec 32} (h : HostNext s (.hmbCtl n v) rest) (hv : v.getLsbD 16 = true)
    (hd : (s.mailbox n).device = false) (hl : bits v.toNat 0 13 ≤ 4096) :
    let t := (hostTaken s rest).setMailbox n { s.mailbox n with len := bits v.toNat 0 13, device := true }
    exec .hmbCtl s = .next
      ({ t with host := { t.host with refused := t.host.refused.filter (fun k => decide (k ≠ n)) } }.testParks) := by
  have hc : (v.getLsbD 16 && !(s.mailbox n).device && decide (bits v.toNat 0 13 ≤ 4096)) = true := by
    rw [hv, hd, decide_eq_true hl]
    rfl
  rw [hmbCtl_eq h]
  exact congrArg Host.Outcome.next (if_pos hc)

theorem hmbCtl_refuses {v : BitVec 32} (h : HostNext s (.hmbCtl n v) rest)
    (hbad : v.getLsbD 16 = false ∨ (s.mailbox n).device = true ∨ 4096 < bits v.toNat 0 13) (hn : n ∉ s.host.refused) :
    let u := hostTaken s rest
    exec .hmbCtl s = .next { u with host := { u.host with refused := u.host.refused ++ [n] } } := by
  have hc : ¬(v.getLsbD 16 && !(s.mailbox n).device && decide (bits v.toNat 0 13 ≤ 4096)) = true := by
    rw [Bool.and_eq_true, Bool.and_eq_true, Bool.not_eq_true', decide_eq_true_eq]
    rintro ⟨⟨hv, hd⟩, hl⟩
    obtain h | h | h := hbad
    · exact Bool.false_ne_true (h.symm.trans hv)
    · exact Bool.false_ne_true (hd.symm.trans h)
    · exact Nat.not_lt.mpr hl h
  have hr : ¬(hostTaken s rest).host.refused.contains n = true := fun hc => hn (List.contains_iff_mem.mp hc)
  rw [hmbCtl_eq h]
  dsimp only
  rw [if_neg hc, if_neg hr]

theorem hmbPend_eq {ones : Word} (h : HostNext s (.hmbPend ones) rest) :
    exec .hmbPend s = .next { hostTaken s rest with host := { (hostTaken s rest).host with pend := s.host.pend &&& ~~~ones } } := by
  refine (event_completes ?_ : execHmbPend s = _)
  simp only [hostHead_ok h, Try.ok_bind]
  rfl

theorem hmbBuf_eq {off : Nat} {bs : List Byte} (h : HostNext s (.hmbBuf n off bs) rest) :
    exec .mailboxBufferWrite s = .next (if (s.mailbox n).device then hostTaken s rest
      else (hostTaken s rest).setMailbox n ((s.mailbox n).write off (bs.take (4096 - off)))) := by
  refine (event_completes ?_ : execMailboxBufferWrite s = _)
  simp only [hostHead_ok h, Try.ok_bind]

theorem attNonce_eq {bs : List Byte} (h : HostNext s (.attNonce bs) rest) (hx : s.arg.x = 1) :
    exec .registerWrite s = .next { hostTaken s rest with host := { (hostTaken s rest).host with nonce := bs.take 32 } } := by
  refine (event_completes ?_ : execRegisterWrite s = _)
  dsimp only
  rw [if_pos hx, State.hostRegister, show s.host.inbox = .attNonce bs :: rest from h]
  rfl

theorem msixSend_eq (hx : s.arg.x ≤ 64) (hl : s.host.linkUp = true) (hf : s.host.funcMask = false)
    (hp : s.host.msiPend.getLsbD s.arg.x = true) (hm : s.host.msiMask.getLsbD s.arg.x = false) : exec .msixSend s = .next
      ({ s with host := { s.host with msiPend := s.host.msiPend &&& ~~~(1#65 <<< s.arg.x) } }.hostGive (.msix s.arg.x)) := by
  refine (event_completes ?_ : execMsixSend s = _)
  refine bind_of_await _ ?_
  rw [decide_eq_true hx, hl, hf, hp, hm]
  rfl

end Mailboxes

/-! ## Reset (R425) -/

section Reset

theorem find?_filterKeys {α : Type} (p : Nat → Bool) (j : Nat) (m : SMap α) :
    SMap.find? j (m.filter (fun e => p e.1)) = if p j then SMap.find? j m else none := by
  induction m with
  | nil => exact (ite_self _).symm
  | cons e m ih =>
    rw [List.filter_cons]
    by_cases he : e.1 = j
    · cases hp : p j with
      | true => rw [if_pos (by rw [he, hp]), SMap.find?, SMap.find?, if_pos he, if_pos he, if_pos rfl]
      | false =>
        rw [if_neg (by rw [he, hp]; exact Bool.false_ne_true), ih, hp]
        rfl
    · rw [SMap.find?, if_neg he, ← ih]
      split
      · rw [SMap.find?, if_neg he]
      · rfl

variable {l : Level}

theorem mem_suspects {j : Nat} : j ∈ l.suspects ↔ ∃ c ∈ l.copies, ∃ e ∈ c.2, e.1 = j := by
  rw [Level.suspects, List.mem_eraseDups, List.mem_flatMap]
  simp only [List.mem_map]

theorem live_abandonSwap (l : Level) : l.abandonSwap.live = l.live := by
  unfold Level.abandonSwap
  split <;> rfl

/-- The reset rewrites no copy of an entry that has lost its vote. -/
theorem copyEntry_afterReset {j : Nat} (hj : l.vote j = none) (k : Nat) : l.afterReset.copyEntry k j = l.copyEntry k j := by
  have hcopies : SMap.find? j (SMap.get [] k l.afterReset.copies) = SMap.find? j (SMap.get [] k l.copies) := by
    rw [Level.afterReset, SMap.get]
    dsimp only
    rw [find?_mapValues, SMap.get]
    cases SMap.find? k l.copies with
    | none => rfl
    | some c => exact (find?_filterKeys (fun j => (l.vote j).isNone) j c).trans (if_pos (by rw [hj]; rfl))
  rw [Level.copyEntry, Level.copyEntry, hcopies]
  exact congrArg (fun m => (SMap.find? j (SMap.get [] k l.copies)).getD (some (SMap.get j j m))) (live_abandonSwap l)

theorem vote_of_suspect_afterReset {j : Nat} (h : j ∈ l.afterReset.suspects) : l.afterReset.vote j = none := by
  obtain ⟨c, hc, e, he, rfl⟩ := mem_suspects.mp h
  obtain ⟨d, -, rfl⟩ := List.mem_map.mp hc
  obtain ⟨-, hnone⟩ := List.mem_filter.mp he
  have hv : l.vote e.1 = none := Option.isNone_iff_eq_none.mp hnone
  rw [Level.vote, copyEntry_afterReset hv, copyEntry_afterReset hv, copyEntry_afterReset hv]
  exact hv

theorem badCopy_afterReset (l : Level) (k : Nat) : l.afterReset.badCopy k = false := by
  rw [Level.badCopy, List.any_eq_false]
  intro j hj
  rw [vote_of_suspect_afterReset hj]
  exact Bool.false_ne_true

theorem badCopy_reset (banks spares k : Nat) : (Level.reset banks spares).badCopy k = false := rfl

theorem towerReset_eq (s : State) : ∃ t, exec .towerReset s = .next t ∧ t.mem = s.mem ∧ t.tower = s.tower ∧ t.tasks = [] ∧
    t.host.staging = true ∧ t.host.bootStat = 0 ∧ t.rub.running = false ∧ t.host.resets = s.host.resets + 1 ∧ t.tsc = 0 ∧
    t.frozen = false ∧ t.sealed = false ∧ (∀ x k, (t.level x).badCopy k = false) := by
  refine ⟨?u, (event_completes ?ev : execTowerReset s = .next ?u), ?rest⟩
  case ev => rfl
  refine ⟨rfl, rfl, rfl, rfl, rfl, rfl, rfl, by simp only [State.tsc, State.reset, Nat.zero_div]; decide, rfl, rfl, fun x k => ?_⟩
  rw [State.level, SMap.get]
  dsimp only
  rw [find?_mapValues]
  cases SMap.find? x s.levels with
  | some l => exact badCopy_afterReset l k
  | none =>
    rw [Option.map_none, Option.getD_none]
    split
    · exact badCopy_reset ..
    · split <;> exact badCopy_reset ..

end Reset

/-! ## Boot and attestation (R425, R427) -/

section Boot

variable {s : State} {rest : List HostMsg}

theorem bootLenWrite_eq {v : Word} (h : HostNext s (.bootLen v) rest) :
    let k := { (hostTaken s rest).host with bootLen := v }
    exec .bootLenWrite s = .next { hostTaken s rest with
      host := if s.host.bootStat = 1 ∨ s.host.bootStat = 2 ∨ s.host.bootStat = 6 then k else { k with bootStat := 1 } } := by
  refine (event_completes ?_ : execBootLenWrite s = _)
  simp only [hostHead_ok h, Try.ok_bind]
  rfl

theorem bootVerify_refuses {r : BitVec 8} (h1 : s.host.bootStat = 1) (hv : s.verify = r) (hr : r ≠ 2) :
    exec .bootVerifyDone s = .next { s with host := { s.host with bootStat := r } } := by
  subst hv
  refine (event_completes ?_ : execBootVerifyDone s = _)
  refine (bind_of_await _ (decide_eq_true h1)).trans ?_
  exact if_pos hr

theorem bootVerify_starts (h1 : s.host.bootStat = 1) (hv : s.verify = 2) : exec .bootVerifyDone s = .next { s with
    host := { s.host with
      bootStat := 2, staging := false, version := BitVec.ofNat 64 (s.imageNat 24 8), digest := s.imageDigest }
    rub := { s.rub with running := true, pc := BitVec.ofNat 50 ((s.imageBase + 8192 + s.imageNat 16 8) / 4) } } := by
  refine (event_completes ?_ : execBootVerifyDone s = _)
  refine (bind_of_await _ (decide_eq_true h1)).trans ?_
  dsimp only
  rw [hv]
  exact if_neg (Classical.not_not.mpr rfl)

theorem verify_of_imageBad (h : s.imageBad = true) : s.verify = 5 := by
  rw [State.verify]
  exact if_pos h

theorem attGo_eq {v : BitVec 8} (h : HostNext s (.attGo v) rest) :
    exec .attGo s = .next (if v = 1 ∧ s.host.attGo.getLsbD 0 = false then
        { hostTaken s rest with host := { (hostTaken s rest).host with attGo := 1, taken := s.host.nonce } }
      else hostTaken s rest) := by
  refine (event_completes ?_ : execAttGo s = _)
  simp only [hostHead_ok h, Try.ok_bind]
  rfl

theorem attReportDone_eq (ha : s.host.attGo.getLsbD 0 = true) (hf : s.serviceFree = true) :
    exec .attReportDone s = .next { s with host := { s.host with
      attGo := 2, report := s.reportHead ++ sized 3309 (Config.attSign (shake256 64 s.reportHead)) } } := by
  refine (event_completes ?_ : execAttReportDone s = _)
  refine (bind_of_await _ (by rw [ha, hf]; rfl)).trans ?_
  simp only [digest]

end Boot

theorem hostEvents : HostEvents := by
  intro s rest
  dsimp only
  refine ⟨fun off n => bar2Read_eq, fun off bs => bar2Write_eq,
    fun off n h => ⟨fun a ha hb => ?_, fun a ha hb => ?_, fun va => bar4Read_refused h⟩, fun off n => bar0Read_eq,
    fun mode off bs h => ⟨fun t => washWrites_eq h, washParts_one, fun c va => washWrite_refused, washWrite_unplaced,
      fun x o hp => ⟨washWrite_out_of_order hp, fun acc hg hm => washWrite_raw hp hg hm⟩⟩,
    fun n v h => ⟨hmbCtl_accepts h, hmbCtl_refuses h⟩, fun ones => hmbPend_eq,
    fun n off bs h => ⟨fun hd => ?_, fun hd => ?_⟩, fun bs => attNonce_eq, msixSend_eq, towerReset_eq s,
    fun v h => ⟨fun hb => ?_, fun h1 h2 h6 => ?_⟩,
    fun h1 => ⟨fun hb => bootVerify_refuses h1 (verify_of_imageBad hb) (by decide), fun r => bootVerify_refuses h1, bootVerify_starts h1⟩,
    fun v h => ⟨fun hv hg => ?_, fun hbad => ?_⟩, attReportDone_eq⟩
  · rw [bar4Read_answered h ha, if_neg (Bool.eq_false_iff.mp hb)]
  · rw [bar4Read_answered h ha, if_pos hb]
  · rw [hmbBuf_eq h, if_pos hd]
  · rw [hmbBuf_eq h, if_neg (Bool.eq_false_iff.mp hd)]
  · rw [bootLenWrite_eq h, if_pos hb]
  · rw [bootLenWrite_eq h, if_neg (not_or.mpr ⟨h1, not_or.mpr ⟨h2, h6⟩⟩)]
  · rw [attGo_eq h, if_pos ⟨hv, hg⟩]
  · rw [attGo_eq h, if_neg]
    rintro ⟨hv, hg⟩
    obtain h | h := hbad
    · exact h hv
    · exact Bool.false_ne_true (hg.symm.trans h)

/-! ## Monitor units and samples (R191, R394, R395) -/

section Monitors

variable {s : State}

theorem monitorRecord_eq {v : Nat} {rest : List Nat} (h : (s.monitor (s.arg.x / 2) (s.arg.x % 2)).pending = v :: rest) :
    exec .monitorRecord s = .next (s.setMonitor (s.arg.x / 2) (s.arg.x % 2)
      ({ s.monitor (s.arg.x / 2) (s.arg.x % 2) with pending := rest }.record v)) := by
  refine (event_completes ?_ : execMonitorRecord s = _)
  simp only [h, List.head?_cons, need_some, Try.ok_bind, List.drop_one, List.tail_cons]

theorem monitor_setMonitor_self (s : State) (core u : Nat) (m : Monitor) : (s.setMonitor core u m).monitor core u = m :=
  SMap.get_set_self Monitor.reset _ m s.monitors

theorem min_record (m : Monitor) (x : Nat) : (m.record x).min.toNat = min m.min.toNat (min x (2 ^ 32 - 1)) := by
  have hlt : min m.min.toNat (min x (2 ^ 32 - 1)) < 2 ^ 32 := by omega
  exact (BitVec.toNat_ofNat ..).trans (Nat.mod_eq_of_lt hlt)

theorem max_record (m : Monitor) (x : Nat) : (m.record x).max.toNat = max m.max.toNat (min x (2 ^ 32 - 1)) := by
  have hm := m.max.isLt
  have hlt : max m.max.toNat (min x (2 ^ 32 - 1)) < 2 ^ 32 := by omega
  exact (BitVec.toNat_ofNat ..).trans (Nat.mod_eq_of_lt hlt)

variable {t : Task} {m : Sampling}

theorem pcSample_of {v : State} (ht : s.task? s.arg.x = some t) (hm : t.sampling = some m) (hrun : t.run = .running)
    (hres : t.isResident = true) (hn : m.nextAt ≤ s.cyc t.core)
    (h : (match t.sampled m.written with
      | none => Except.ok (s.setTask s.arg.x { t with sampling := none })
      | some st =>
        match s.viewWrite ({ s with cur := .task s.arg.x .a }.aEngine) (m.buf.toNat + 32 * m.written) (s.sampleRecord s.arg.x t st) with
        | .error (.miss u a va) => .error (.miss u a va)
        | .error .hold => .error .hold
        | .error _ => Except.ok (s.setTask s.arg.x { t with sampling := none })
        | .ok u =>
          let n := { m with written := m.written + 1, nextAt := m.nextAt + m.interval }
          Except.ok (u.setTask s.arg.x { t with sampling := if n.written = n.capacity then none else some n })) =
      (Except.ok v : Try State)) : exec .pcSample s = .next v := by
  have hneed : need t.sampling = .ok m := by rw [hm]; rfl
  refine (event_completes ?_ : execPcSample s = _)
  dsimp only
  rw [argTask_ok ht, Try.ok_bind]
  dsimp only
  rw [hneed, Try.ok_bind]
  refine (bind_of_await _ (by rw [hres, decide_eq_true hn]; rfl)).trans ?_
  exact (if_neg (Classical.not_not.mpr hrun)).trans h

end Monitors

theorem monitorEvents : MonitorEvents := by
  refine ⟨fun s v rest h => ⟨_, monitorRecord_eq h, ?_⟩, fun s t m ht hm hrun hres hn =>
    ⟨fun hs => pcSample_of ht hm hrun hres hn ?_, fun st u hs hw => pcSample_of ht hm hrun hres hn ?_⟩⟩
  · dsimp only
    rw [monitor_setMonitor_self]
    exact ⟨rfl, rfl, min_record _ v, max_record _ v⟩
  · rw [hs]
  · rw [hs]
    dsimp only
    rw [hw]

/-- Settles O42. -/
theorem hostAndMonitorEvents : Obligations.HostAndMonitorEvents := ⟨hostEvents, monitorEvents⟩

end Sys2Proof.Proofs
end
